-- ==== Sys2Proof/Word.lean ====
section
/-! DEFINITION. The word types of the part: what the spec treats as bits, and the sparse table every
addressed store of the state is kept in. -/
namespace Sys2Proof

/-- A 64-bit register, lane word or bus word (R17, R256, R176). -/
abbrev Word := BitVec 64
/-- One byte of an addressed memory. -/
abbrev Byte := BitVec 8
/-- A microword of the Almanac (R94). -/
abbrev MicroWord := BitVec 128
/-- One bit of every PE of a field: bit 128 * y + x is the PE at column x and row y of the field (R14). -/
abbrev Plane := BitVec 16384
/-- A Belsar instruction word (chapter 09). -/
abbrev IWord := BitVec 32

/-- A sparse table: entries in strictly rising key order, no entry equal to what a missing key reads as. -/
abbrev Tbl (α : Type) := List (Nat × α)

end Sys2Proof
end

