-- ==== Sys2Proof/Syntax.lean ====
section
/-! DEFINITION. The commands of the part, one constructor per row of the table of operations and events, with their
operands. What only the outside decides (an upset of a stored bit, what a peer or the host sends, which outcome a
check of physical state has) is an operand; what the part's own state decides is not. -/
namespace Sys2Proof

/-- An upset of one stored PE-memory row, just before the command acts: field, slice row, physical slice column, row
address, and the codeword positions that flip (0–63 the lanes, 64–71 the check bits, R63). -/
structure RowUpset where
  field : Fin 64
  srow : Fin 16
  pcol : Fin 17
  row : Fin 4096
  mask : BitVec 72
  deriving DecidableEq, Repr

/-- An error a broadcast repeater finds in a microword (R105): the field and stage of the repeater (0 B1, 1 B2, 2 B3,
3 a bond stage), the corrected bit (`none`: uncorrectable), and the fields whose PEs lie downstream of it. -/
structure BcErr where
  field : Fin 64
  stage : Fin 4
  pos : Option (Fin 137)
  down : List (Fin 64)
  deriving DecidableEq, Repr

/-- A failed slice check of a word-time (R544): residue (`false`) or parity (`true`), and the lane. -/
structure SliceFail where
  parity : Bool
  lane : Fin 64
  deriving DecidableEq, Repr

/-- A region Survey borrows (R552). -/
inductive SurveyRegion where
  | peRow (f : Fin 64) (row : Fin 4096)
  | almLine (n : Fin 64) (line : Fin 512)
  | stagingLine (line : Fin 1048576)
  deriving DecidableEq, Repr

/-- A failing bit a march test finds (R80, R552): the physical slice column of a PE row, and the failing positions as
the Logbook entry carries them. -/
structure MarchFail where
  pcol : Fin 17
  cap : BitVec 64
  deriving DecidableEq, Repr

/-- What the error code of the instruction SRAM or of the scratchpad (R546), or the parity of a line of the data cache
(R542), finds during one Belsar word. -/
inductive CoreErr where
  | none | fetchCe | fetchUe | loadCe | loadUe | lineBad
  deriving DecidableEq, Repr

/-- A request at its target (R362, R398): the requesting node and its TID, the master ID, whether it writes, the line
(address bits [47:6]), the byte enables and the data of a write, byte i in bits [8i + 7:8i]. -/
structure LineReq where
  node : BitVec 8
  tid : BitVec 6
  master : BitVec 8
  write : Bool
  line : BitVec 42
  en : BitVec 64
  data : BitVec 512
  deriving DecidableEq, Repr

/-- What a stack reports of a read (R369). -/
inductive HbmEcc where
  | clean | corrected | uncorrectable
  deriving DecidableEq, Repr

/-- Stored bits of an 8-byte memory word that have flipped: the word by address over 8, and the positions of its
codeword (check bits 64–71). -/
structure Upset where
  word : BitVec 26
  flip : BitVec 72
  deriving DecidableEq, Repr

/-- What a window of R373 saw of one pseudo-channel: whether its queue held a request in every nc, and the granule
accesses it served. -/
structure HotObs where
  c : Fin 128
  full : Bool
  served : Nat
  deriving DecidableEq, Repr

/-- An upset of a stored unit of a strip's memory block: the block, the unit as R508 numbers it, and the positions that
flip (0–63 the data, 64–71 the check bits, or data bits [71:64] of an unprotected word). -/
structure BlkUpset where
  k : Fin 32
  unit : Fin 4096
  mask : BitVec 72
  deriving DecidableEq, Repr

/-- The SPI NOR as the part reads it (R579): the bytes of the two copies of the slot record, of the certificate region (none:
the region the part was made with, R576) and of the two slots, each from its first address on; what lies behind a list is
erased and reads 0xFF. -/
structure Flash where
  rec0 : List Byte
  rec1 : List Byte
  cert : Option (List Byte)
  a : List Byte
  b : List Byte
  deriving DecidableEq, Repr

/-- What the host writes into the configuration space once the endpoint is configuration-ready (R318, R322, R604): the
codes of Max Payload Size and Max Read Request Size, Enable Relaxed Ordering, the Completion Timeout Value and Completion
Timeout Disable, and the addresses in BAR0, BAR2 and BAR4 of the PF and in the VF BARs of its SR-IOV capability. -/
structure PcieCfg where
  mps : Fin 3
  mrrs : Fin 6
  relaxed : Bool
  cto : BitVec 4
  ctoOff : Bool
  bars : Vector Word 3
  vfBars : Vector Word 3
  deriving DecidableEq, Repr

/-- What a boot step finds (R603–R605): the hub PLL locks; the flash, when it has been written from outside; the stacks that fail training; what the host configures at the end of step 7; and the duration of boot in
ms. -/
structure BootObs where
  pll : Bool
  flash : Option Flash
  hbmFail : BitVec 4
  cfg : PcieCfg
  ms : BitVec 32
  deriving DecidableEq, Repr

/-- What a PCIe completion for a host read brings (R340): data, or the status that ends the read. -/
inductive HostRead where
  | data (bytes : List Byte)
  | unsupported | abort | poisoned
  deriving DecidableEq, Repr

/-- A step of a packet (R394–R401): an NI injects a memory request, a management request or an invalidation; or packet
i of those in flight goes on from the router where it stands. -/
inductive NocMove where
  | line (r : LineReq)
  | register (src : BitVec 8) (tid : BitVec 6) (master : BitVec 8) (write : Bool) (addr : BitVec 45) (be : BitVec 8)
      (data : Word)
  | invalidate (src dest : BitVec 8) (tid : BitVec 6) (kind : Fin 3) (what : BitVec 31)
  | move (i : BitVec 16)
  deriving DecidableEq, Repr

/-- The words of a DAT flit that its receiver corrects and that it cannot correct (R407). -/
structure DatErr where
  fixed : BitVec 8
  bad : BitVec 8
  deriving DecidableEq, Repr

/-- The commands of the part: one constructor per row of the table of operations and events, in its order. -/
inductive Instr where
  /-- PE_EXECUTE (R37). Every PE of a partition carries out a broadcast microword in one ac: address, read, compute, send, contribute, write flag and memory. -/
  | peExecute (n : Fin 64) (ups : List RowUpset) (bc : List BcErr)
  /-- NLATCH_DELIVERY (R48). A bit sent on the grid lands in the receiver's n-latch L_news slots after the sending word. -/
  | nlatchDelivery (n : Fin 64)
  /-- UE_REPORT (R70). The report of an uncorrectable read or broadcast error reaches the master in slot k + L_snd and stops the routine with cause 10. -/
  | ueReport (n : Fin 64)
  /-- NEXT (R97). The micro-sequencer issues a microword whose next micro-PC is u + 1. -/
  | nextWord (n : Fin 64) (flip : BitVec 137)
  /-- JUMP (R97). The micro-sequencer issues a word whose next micro-PC is TARGET. -/
  | jump (n : Fin 64) (flip : BitVec 137)
  /-- MICRO_CALL (R98). A microword pushes u + 1 onto the micro-stack and continues at TARGET. -/
  | microCall (n : Fin 64) (flip : BitVec 137)
  /-- MICRO_RETURN (R97). A microword pops the micro-stack, or acts as END when it is empty. -/
  | microReturn (n : Fin 64) (flip : BitVec 137)
  /-- BRANCH_ANY (R106). A microword branches to TARGET when the tested Sounding is 1. -/
  | branchAny (n : Fin 64) (flip : BitVec 137)
  /-- BRANCH_NONE (R106). A microword branches to TARGET when the tested Sounding is 0. -/
  | branchNone (n : Fin 64) (flip : BitVec 137)
  /-- LOOP_C0 (R102). A microword decrements c0 and branches while c0 − 1 is not 0. -/
  | loopC0 (n : Fin 64) (flip : BitVec 137)
  /-- LOOP_C1 (R102). A microword decrements c1 and branches while c1 − 1 is not 0. -/
  | loopC1 (n : Fin 64) (flip : BitVec 137)
  /-- DISPATCH (R97). A microword continues at TARGET plus the low IMM bits of DPARAM. -/
  | dispatch (n : Fin 64) (flip : BitVec 137)
  /-- END (R109). A microword ends the routine and starts the next queued entry or leaves the micro-sequencer IDLE. -/
  | endWord (n : Fin 64) (flip : BitVec 137)
  /-- HOLD (R99). A microword issues IMM + 1 times in consecutive slots, each as a complete issue. -/
  | holdWord (n : Fin 64) (flip : BitVec 137)
  /-- BRANCH_MFLAG (R100). A microword branches on ADDR_FAULT, CENSUS_DONE or HALO_DONE. -/
  | branchMflag (n : Fin 64) (flip : BitVec 137)
  /-- ROUTINE_START (R109). A queued ACALL entry loads the micro-sequencer and its entry word issues. -/
  | routineStart (n : Fin 64)
  /-- ROUTINE_COMPLETE (R110). Every PE has executed the routine's END and its Soundings and Censuses are in MSEQ_SND, releasing waiting core words. -/
  | routineComplete (n : Fin 64)
  /-- YIELD_COMPLETE (R113). 12 ac after the taking word the record becomes VALID, STATE becomes YIELDED and the array is released. -/
  | yieldComplete (n : Fin 64)
  /-- ARRAY_TRAP_RECORD (R651). At a + 12 the resume record of a stopped routine is written and the array trap becomes pending at the core. -/
  | arrayTrapRecord (n : Fin 64)
  /-- SOUNDING_RESULT (R165). A Sounding result reaches the master T_snd ac after its word issued. -/
  | soundingResult (n : Fin 64)
  /-- CENSUS_RESULT (R166). A Census count enters MSEQ_SND within 24 ac and raises interrupt 18. -/
  | censusResult (n : Fin 64)
  /-- TREE_MISMATCH (R169). The two copies of the Sounding tree disagree and the master traps with cause 10 in place of slot k + L_snd. -/
  | treeMismatch (n : Fin 64) (level : Fin 4) (f : Fin 64) (sl : Fin 256)
  /-- CENSUS_MISMATCH (R170). The two copies disagree on a Census and the master traps at slot k + 24. -/
  | censusMismatch (n : Fin 64) (level : Fin 4) (f : Fin 64) (sl : Fin 256)
  /-- HALO_ACK (R160). A HALO_ACK pulse from a strip subtracts 1 from its segment's outstanding count. -/
  | haloAck (g : Fin 8) (m : Fin 4)
  /-- XP_IDLE (R177). The transposer does nothing for this word. -/
  | xpIdle (n : Fin 64)
  /-- LDA (R178). The row read at EA_A is loaded into the fill bank of TA at FRA. -/
  | lda (n : Fin 64)
  /-- LDB (R178). The row read at EA_B is loaded into the fill bank of TB at FRB. -/
  | ldb (n : Fin 64)
  /-- LDAB (R178). LDA and LDB in one word. -/
  | ldab (n : Fin 64)
  /-- STEP (R179). One word-time of k lanes with the current command enters the work queue. -/
  | step (n : Fin 64)
  /-- STEP_LDA (R179). STEP, then LDA. -/
  | stepLda (n : Fin 64)
  /-- STEP_LDB (R179). STEP, then LDB. -/
  | stepLdb (n : Fin 64)
  /-- STEP_LDAB (R179). STEP, then LDAB. -/
  | stepLdab (n : Fin 64)
  /-- SWAP (R180). The banks of TA and TB are exchanged and the new fill bank cleared. -/
  | swap (n : Fin 64)
  /-- COMMIT (R194). Once the group is complete and checked with E = 0, CB goes to TO, shadows to accumulators and flags to STICKY. -/
  | commit (n : Fin 64)
  /-- TRESET (R181). Both transposer banks and TO are cleared and the pointers reset. -/
  | treset (n : Fin 64)
  /-- WPGO (R199). A word-port transfer described by WP_CMD and WP_ADDR starts in every field of the partition. -/
  | wpgo (n : Fin 64)
  /-- WPWAIT (R200). A word that issues only when every field's word-port transfer has ended. -/
  | wpwait (n : Fin 64)
  /-- WP_TRANSFER_END (R200). A field's word-port transfer ends with its last write response or read data. -/
  | wpTransferEnd (f : Fin 64) (late : BitVec 64)
  /-- WORD_TIME_COMPLETE (R189). The Sutor unit writes a word-time's results and flags to CB or a shadow. -/
  | wordTimeComplete (f : Fin 64) (sl : Fin 256) (fail : Option SliceFail)
  /-- DIVIDE_COMPLETE (R190). A divider finishes a lane of IDIV or IREM and writes its result. -/
  | divideComplete (f : Fin 64) (sl : Fin 256) (d : Fin 4)
  /-- SUTOR_NOP (R187). A word-time consumes lanes and produces nothing. -/
  | sutorNop (f : Fin 64) (sl : Fin 256)
  /-- FADD (R187). Word-time computes a + b in floating point. -/
  | fadd (f : Fin 64) (sl : Fin 256)
  /-- FSUB (R187). Word-time computes a − b in floating point. -/
  | fsub (f : Fin 64) (sl : Fin 256)
  /-- FMUL (R187). Word-time computes a × b in floating point. -/
  | fmul (f : Fin 64) (sl : Fin 256)
  /-- FMA (R230). Word-time computes c + a × b with one rounding. -/
  | fma (f : Fin 64) (sl : Fin 256)
  /-- FMIN (R227). Word-time delivers minimumNumber of a and b. -/
  | fmin (f : Fin 64) (sl : Fin 256)
  /-- FMAX (R227). Word-time delivers maximumNumber of a and b. -/
  | fmax (f : Fin 64) (sl : Fin 256)
  /-- FABS (R228). Word-time delivers a with its sign cleared. -/
  | fabs (f : Fin 64) (sl : Fin 256)
  /-- FCMPEQ (R229). Word-time delivers 1 if a = b. -/
  | fcmpeq (f : Fin 64) (sl : Fin 256)
  /-- FCMPLT (R229). Word-time delivers 1 if a < b. -/
  | fcmplt (f : Fin 64) (sl : Fin 256)
  /-- FCMPLE (R229). Word-time delivers 1 if a ≤ b. -/
  | fcmple (f : Fin 64) (sl : Fin 256)
  /-- CVT (R237). Word-time converts a from SFMT to FMT. -/
  | cvt (f : Fin 64) (sl : Fin 256)
  /-- IMUL (R243). Word-time delivers the low w bits of a × b. -/
  | imul (f : Fin 64) (sl : Fin 256)
  /-- IMULH (R243). Word-time delivers the high w bits of a × b. -/
  | imulh (f : Fin 64) (sl : Fin 256)
  /-- IDIV (R244). Lanes are queued to the dividers for a truncated quotient. -/
  | idiv (f : Fin 64) (sl : Fin 256)
  /-- IREM (R244). Lanes are queued to the dividers for a remainder. -/
  | irem (f : Fin 64) (sl : Fin 256)
  /-- IMIN (R243). Word-time delivers the integer minimum. -/
  | imin (f : Fin 64) (sl : Fin 256)
  /-- IMAX (R243). Word-time delivers the integer maximum. -/
  | imax (f : Fin 64) (sl : Fin 256)
  /-- IABS (R243). Word-time delivers the integer absolute value. -/
  | iabs (f : Fin 64) (sl : Fin 256)
  /-- ICMPEQ (R243). Word-time delivers 1 if the integers are equal. -/
  | icmpeq (f : Fin 64) (sl : Fin 256)
  /-- ICMPLT (R243). Word-time delivers 1 if a < b as integers. -/
  | icmplt (f : Fin 64) (sl : Fin 256)
  /-- DADD (R248). Word-time adds packed decimals. -/
  | dadd (f : Fin 64) (sl : Fin 256)
  /-- DSUB (R248). Word-time subtracts packed decimals. -/
  | dsub (f : Fin 64) (sl : Fin 256)
  /-- ACCRD (R231). Word-time delivers the accumulator word. -/
  | accrd (f : Fin 64) (sl : Fin 256)
  /-- ACCLD (R231). Word-time loads a into the accumulator shadow. -/
  | accld (f : Fin 64) (sl : Fin 256)
  /-- ACCZ (R231). Word-time writes zero into the accumulator shadow. -/
  | accz (f : Fin 64) (sl : Fin 256)
  /-- SMODE_WRITE (R184). A write sets rounding and trap enables of the selected slices, or is refused with MODE_REJ. -/
  | smodeWrite (m : BitVec 8) (n : Fin 64) (v : Word)
  /-- YIELD_REQ (R112). Software posts a preemption request to the micro-sequencer. -/
  | yieldReq (m : BitVec 8) (n : Fin 64)
  /-- RESUME (R116). Issue restarts from the resume record, or the request is ignored. -/
  | resume (m : BitVec 8) (n : Fin 64)
  /-- ABORT (R117). The current routine and its record are discarded and the queue continues. -/
  | abort (m : BitVec 8) (n : Fin 64)
  /-- PARK (R302). The routine is aborted and every queue entry moves to the park list. -/
  | parkQueue (m : BitVec 8) (n : Fin 64)
  /-- UNPARK (R302). The park list moves to the head of the issue queue. -/
  | unpark (m : BitVec 8) (n : Fin 64)
  /-- DROP (R302). The park list is emptied. -/
  | dropPark (m : BitVec 8) (n : Fin 64)
  /-- SEQ_HALT (R289). The PF forces the core to halt at its next word boundary with HALT_WHY 4. -/
  | seqHalt (m : BitVec 8) (n : Fin 64)
  /-- PREQ (R300). The PF raises interrupt 20 in the sequencer. -/
  | preq (m : BitVec 8) (n : Fin 64)
  /-- HMSG_IN_WRITE (R314). The owning function stores a message, sets MSG_FULL and raises interrupt 19. -/
  | hmsgInWrite (m : BitVec 8) (n : Fin 64) (v : Word)
  /-- HMSG_OUT_WRITE (R314). The image writes HMSG_OUT and an HMSG event is posted. -/
  | hmsgOutWrite (n : Fin 64) (v : Word)
  /-- TIMER_MATCH (R314). CYCLE reaches a non-zero TIMER.COMPARE and interrupt 23 becomes pending. -/
  | timerMatch (n : Fin 64)
  /-- EDGE_CFG_WRITE (R155). A write sets the edge modes and HALO bits, or is refused with REJ_WHY. -/
  | edgeCfgWrite (m : BitVec 8) (n : Fin 64) (v : Word)
  /-- HALO_CLR (R162). Every outstanding halo count is zeroed. -/
  | haloClr (m : BitVec 8) (n : Fin 64)
  /-- LEASE_MAP_WRITE (R79). A write sets the groups Survey may borrow; clearing a borrowed group causes a yield. -/
  | leaseMapWrite (m : BitVec 8) (n : Fin 64) (v : Word)
  /-- INJECT_ARM (R89). An error injection is armed for the next write of the target row. -/
  | injectArm (m : BitVec 8) (n : Fin 64) (v : Word)
  /-- RB_DATA_READ (R308). A read of RB_DATA returns the item RB_SEL selects, waiting for outstanding ACALLs where required. -/
  | rbDataRead (m : BitVec 8) (n : Fin 64)
  /-- SURVEY_BORROW (R552). After PACE, Survey borrows a region, saves it, runs its march test and restores it. -/
  | surveyBorrow (t : Fin 4) (r : SurveyRegion) (fail : List MarchFail) (sweep : Bool)
  /-- ROW_YIELD (R79). Survey abandons its test, restores the row and releases it for a held word. -/
  | rowYield (f : Fin 64) (stall : Fin 49)
  /-- STAGING_YIELD (R553). Survey restores a borrowed staging line and the held request is served. -/
  | stagingYield (q : Fin 4) (stall : Fin 65)
  /-- TRAP_ENTRY (R295). At a word boundary the core takes a trap, saves EPC and cause and jumps to the vector. -/
  | trapEntry (n : Fin 64)
  /-- INTERRUPT_ENTRY (R301). A pending enabled interrupt is taken at the next boundary. -/
  | interruptEntry (n : Fin 64)
  /-- ADD (R266). rd ← rs + rt. -/
  | add (n : Fin 64) (e : CoreErr)
  /-- SUB (R266). rd ← rs − rt. -/
  | sub (n : Fin 64) (e : CoreErr)
  /-- AND (R266). rd ← rs AND rt. -/
  | andOp (n : Fin 64) (e : CoreErr)
  /-- OR (R266). rd ← rs OR rt. -/
  | orOp (n : Fin 64) (e : CoreErr)
  /-- XOR (R266). rd ← rs XOR rt. -/
  | xorOp (n : Fin 64) (e : CoreErr)
  /-- ANDN (R266). rd ← rs AND NOT rt. -/
  | andn (n : Fin 64) (e : CoreErr)
  /-- SLL (R266). Left shift by rt. -/
  | sll (n : Fin 64) (e : CoreErr)
  /-- SRL (R266). Logical right shift by rt. -/
  | srl (n : Fin 64) (e : CoreErr)
  /-- SRA (R266). Arithmetic right shift by rt. -/
  | sra (n : Fin 64) (e : CoreErr)
  /-- ROR (R266). Rotate right by rt. -/
  | ror (n : Fin 64) (e : CoreErr)
  /-- MUL (R266). Low 64 bits of the product. -/
  | mul (n : Fin 64) (e : CoreErr)
  /-- MULH (R266). High 64 bits of the signed product. -/
  | mulh (n : Fin 64) (e : CoreErr)
  /-- MULHU (R266). High 64 bits of the unsigned product. -/
  | mulhu (n : Fin 64) (e : CoreErr)
  /-- DIV (R269). Signed quotient. -/
  | div (n : Fin 64) (e : CoreErr)
  /-- DIVU (R269). Unsigned quotient. -/
  | divu (n : Fin 64) (e : CoreErr)
  /-- REM (R269). Signed remainder. -/
  | rem (n : Fin 64) (e : CoreErr)
  /-- REMU (R269). Unsigned remainder. -/
  | remu (n : Fin 64) (e : CoreErr)
  /-- SETEQ (R266). rd ← 1 if rs = rt. -/
  | seteq (n : Fin 64) (e : CoreErr)
  /-- SETNE (R266). rd ← 1 if rs ≠ rt. -/
  | setne (n : Fin 64) (e : CoreErr)
  /-- SETLT (R266). rd ← 1 if rs < rt signed. -/
  | setlt (n : Fin 64) (e : CoreErr)
  /-- SETLTU (R266). rd ← 1 if rs < rt unsigned. -/
  | setltu (n : Fin 64) (e : CoreErr)
  /-- MIN (R266). Signed minimum. -/
  | min (n : Fin 64) (e : CoreErr)
  /-- MAX (R266). Signed maximum. -/
  | max (n : Fin 64) (e : CoreErr)
  /-- MINU (R266). Unsigned minimum. -/
  | minu (n : Fin 64) (e : CoreErr)
  /-- MAXU (R266). Unsigned maximum. -/
  | maxu (n : Fin 64) (e : CoreErr)
  /-- PERM (R270). Byte permutation of rs and the old rd under rt. -/
  | perm (n : Fin 64) (e : CoreErr)
  /-- CLZ (R271). Count leading zeros of rs. -/
  | clz (n : Fin 64) (e : CoreErr)
  /-- CTZ (R271). Count trailing zeros of rs. -/
  | ctz (n : Fin 64) (e : CoreErr)
  /-- POPC (R271). Count set bits of rs. -/
  | popc (n : Fin 64) (e : CoreErr)
  /-- ADDI (R265). rd ← rs + signed immediate. -/
  | addi (n : Fin 64) (e : CoreErr)
  /-- ANDI (R265). rd ← rs AND immediate. -/
  | andi (n : Fin 64) (e : CoreErr)
  /-- ORI (R265). rd ← rs OR immediate. -/
  | ori (n : Fin 64) (e : CoreErr)
  /-- XORI (R265). rd ← rs XOR immediate. -/
  | xori (n : Fin 64) (e : CoreErr)
  /-- SETLTI (R265). rd ← 1 if rs < imm signed. -/
  | setlti (n : Fin 64) (e : CoreErr)
  /-- SETLTUI (R265). rd ← 1 if rs < imm unsigned. -/
  | setltui (n : Fin 64) (e : CoreErr)
  /-- LSI (R265). rd ← (rs << 14) OR imm. -/
  | lsi (n : Fin 64) (e : CoreErr)
  /-- LD8 (R273). Load a byte, zero-extended. -/
  | ld8 (n : Fin 64) (e : CoreErr)
  /-- LD16 (R273). Load 2 bytes, zero-extended. -/
  | ld16 (n : Fin 64) (e : CoreErr)
  /-- LD32 (R273). Load 4 bytes, zero-extended. -/
  | ld32 (n : Fin 64) (e : CoreErr)
  /-- LD64 (R273). Load 8 bytes. -/
  | ld64 (n : Fin 64) (e : CoreErr)
  /-- LD8S (R273). Load a byte, sign-extended. -/
  | ld8s (n : Fin 64) (e : CoreErr)
  /-- LD16S (R273). Load 2 bytes, sign-extended. -/
  | ld16s (n : Fin 64) (e : CoreErr)
  /-- LD32S (R273). Load 4 bytes, sign-extended. -/
  | ld32s (n : Fin 64) (e : CoreErr)
  /-- ST8 (R273). Store a byte. -/
  | st8 (n : Fin 64) (e : CoreErr)
  /-- ST16 (R273). Store 2 bytes. -/
  | st16 (n : Fin 64) (e : CoreErr)
  /-- ST32 (R273). Store 4 bytes. -/
  | st32 (n : Fin 64) (e : CoreErr)
  /-- ST64 (R273). Store 8 bytes. -/
  | st64 (n : Fin 64) (e : CoreErr)
  /-- ILD (R274). Load an instruction word as data. -/
  | ild (n : Fin 64) (e : CoreErr)
  /-- IN (R307). Read an I/O port, waiting for outstanding ACALLs where the port requires. -/
  | inPort (n : Fin 64) (e : CoreErr)
  /-- OUT (R307). Write an I/O port, waiting for outstanding ACALLs where the port requires. -/
  | outPort (n : Fin 64) (e : CoreErr)
  /-- LOOP (R276). Set up a zero-overhead loop level. -/
  | loop (n : Fin 64) (e : CoreErr)
  /-- BEQ (R272). Branch if rs = rt. -/
  | beq (n : Fin 64) (e : CoreErr)
  /-- BNE (R272). Branch if rs ≠ rt. -/
  | bne (n : Fin 64) (e : CoreErr)
  /-- BLT (R272). Branch if rs < rt signed. -/
  | blt (n : Fin 64) (e : CoreErr)
  /-- BGE (R272). Branch if rs ≥ rt signed. -/
  | bge (n : Fin 64) (e : CoreErr)
  /-- BLTU (R272). Branch if rs < rt unsigned. -/
  | bltu (n : Fin 64) (e : CoreErr)
  /-- BGEU (R272). Branch if rs ≥ rt unsigned. -/
  | bgeu (n : Fin 64) (e : CoreErr)
  /-- BEQZ (R272). Branch if rs = 0. -/
  | beqz (n : Fin 64) (e : CoreErr)
  /-- BNEZ (R272). Branch if rs ≠ 0. -/
  | bnez (n : Fin 64) (e : CoreErr)
  /-- BLTZ (R272). Branch if rs < 0. -/
  | bltz (n : Fin 64) (e : CoreErr)
  /-- BGEZ (R272). Branch if rs ≥ 0. -/
  | bgez (n : Fin 64) (e : CoreErr)
  /-- BGTZ (R272). Branch if rs > 0. -/
  | bgtz (n : Fin 64) (e : CoreErr)
  /-- BLEZ (R272). Branch if rs ≤ 0. -/
  | blez (n : Fin 64) (e : CoreErr)
  /-- JMP (R265). Jump to the target. -/
  | jmp (n : Fin 64) (e : CoreErr)
  /-- CALL (R257). Save mask and return address, slide the window and continue at the target. -/
  | call (n : Fin 64) (e : CoreErr)
  /-- CALLR (R257). Call to the address in rs. -/
  | callr (n : Fin 64) (e : CoreErr)
  /-- ACALL (R108). Enter a routine with its parameters into the issue queue, stalling while it is full. -/
  | acall (n : Fin 64) (e : CoreErr)
  /-- BFX (R268). Extract a bit field. -/
  | bfx (n : Fin 64) (e : CoreErr)
  /-- BFI (R268). Insert a bit field. -/
  | bfi (n : Fin 64) (e : CoreErr)
  /-- MFSR (R280). Read a special register. -/
  | mfsr (n : Fin 64) (e : CoreErr)
  /-- MTSR (R280). Write a special register. -/
  | mtsr (n : Fin 64) (e : CoreErr)
  /-- SLLI (R265). Shift left by an immediate. -/
  | slli (n : Fin 64) (e : CoreErr)
  /-- SRLI (R265). Logical shift right by an immediate. -/
  | srli (n : Fin 64) (e : CoreErr)
  /-- SRAI (R265). Arithmetic shift right by an immediate. -/
  | srai (n : Fin 64) (e : CoreErr)
  /-- RETURN (R259). Slide the window back, filling it from the frame when needed, and continue at RA. -/
  | returnOp (n : Fin 64) (e : CoreErr)
  /-- JR (R267). Jump to the address in rs. -/
  | jr (n : Fin 64) (e : CoreErr)
  /-- ERET (R297). Return from a trap to EPC, resuming any repeat. -/
  | eret (n : Fin 64) (e : CoreErr)
  /-- HALT (R267). Wait as AWAIT does, then end the image. -/
  | haltOp (n : Fin 64) (e : CoreErr)
  /-- AWAIT (R111). Wait until the issue queue is empty and the last routine has completed. -/
  | await (n : Fin 64) (e : CoreErr)
  /-- ASND (R111). Wait for earlier ACALLs, then return MSEQ_SND. -/
  | asnd (n : Fin 64) (e : CoreErr)
  /-- BRK (R267). Trap with cause 8. -/
  | brk (n : Fin 64) (e : CoreErr)
  /-- SHORT_NOP (R264). Short operation that does nothing. -/
  | shortNop (n : Fin 64) (e : CoreErr)
  /-- MOV (R264). rd ← rs. -/
  | mov (n : Fin 64) (e : CoreErr)
  /-- SHORT_ADD (R264). rd ← rd + rs. -/
  | shortAdd (n : Fin 64) (e : CoreErr)
  /-- SHORT_SUB (R264). rd ← rd − rs. -/
  | shortSub (n : Fin 64) (e : CoreErr)
  /-- SHORT_AND (R264). rd ← rd AND rs. -/
  | shortAnd (n : Fin 64) (e : CoreErr)
  /-- SHORT_OR (R264). rd ← rd OR rs. -/
  | shortOr (n : Fin 64) (e : CoreErr)
  /-- SHORT_XOR (R264). rd ← rd XOR rs. -/
  | shortXor (n : Fin 64) (e : CoreErr)
  /-- NOT (R264). rd ← NOT rs. -/
  | notOp (n : Fin 64) (e : CoreErr)
  /-- NEG (R264). rd ← 0 − rs. -/
  | neg (n : Fin 64) (e : CoreErr)
  /-- ADDS (R264). rd ← rd + imm5. -/
  | adds (n : Fin 64) (e : CoreErr)
  /-- MOVI (R264). rd ← imm5. -/
  | movi (n : Fin 64) (e : CoreErr)
  /-- SLLS (R264). Short shift left by u5. -/
  | slls (n : Fin 64) (e : CoreErr)
  /-- SRLS (R264). Short logical shift right by u5. -/
  | srls (n : Fin 64) (e : CoreErr)
  /-- SRAS (R264). Short arithmetic shift right by u5. -/
  | sras (n : Fin 64) (e : CoreErr)
  /-- SHORT_CLZ (R264). Short count of leading zeros. -/
  | shortClz (n : Fin 64) (e : CoreErr)
  /-- SHORT_CTZ (R264). Short count of trailing zeros. -/
  | shortCtz (n : Fin 64) (e : CoreErr)
  /-- SHORT_POPC (R264). Short population count. -/
  | shortPopc (n : Fin 64) (e : CoreErr)
  /-- LDQ (R264). Load a doubleword at rs. -/
  | ldq (n : Fin 64) (e : CoreErr)
  /-- STQ (R264). Store a doubleword at rs. -/
  | stq (n : Fin 64) (e : CoreErr)
  /-- LDQP (R264). Load a doubleword and post-increment rs. -/
  | ldqp (n : Fin 64) (e : CoreErr)
  /-- STQP (R264). Store a doubleword and post-increment rs. -/
  | stqp (n : Fin 64) (e : CoreErr)
  /-- ZXW (R264). Zero-extend the low word. -/
  | zxw (n : Fin 64) (e : CoreErr)
  /-- SXW (R264). Sign-extend the low word. -/
  | sxw (n : Fin 64) (e : CoreErr)
  /-- BSWAP (R264). Reverse the bytes of rs. -/
  | bswap (n : Fin 64) (e : CoreErr)
  /-- REP (R278). Repeat the target a count taken from rs. -/
  | rep (n : Fin 64) (e : CoreErr)
  /-- REPI (R278). Repeat the target an immediate count. -/
  | repi (n : Fin 64) (e : CoreErr)
  /-- SCRATCHPAD_PART (R304). A part of a NoC scratchpad request proceeds in an ac its bank is free. -/
  | scratchpadPart (n : Fin 64) (r : LineReq) (k : Fin 8) (waited : BitVec 32) (ups : List Upset)
  /-- SPAD_STARVE (R305). A part reaching 256 ac of waiting increments its bank's starvation counter. -/
  | spadStarve (n : Fin 64) (r : LineReq) (k : Fin 8)
  /-- SQ_DOORBELL (R331). A doorbell sets a submission ring's TAIL. -/
  | sqDoorbell (f : Fin 64) (slot : Fin 8192) (size : Fin 65) (off : Fin 64) (v : BitVec 32)
  /-- CQ_DOORBELL (R331). A doorbell sets a completion or event ring's HEAD and frees space. -/
  | cqDoorbell (f : Fin 64) (slot : Fin 8192) (size : Fin 65) (off : Fin 64) (v : BitVec 32)
  /-- DESCRIPTOR_FETCH (R333). The ring engine starts a fetch of new descriptors in its round-robin turn. -/
  | descriptorFetch (r : Fin 8192) (ce : BitVec 8)
  /-- DESCRIPTOR_ARRIVAL (R338). Fetched descriptors arrive and are checked and dispatched in order. -/
  | descriptorArrival (r : Fin 8192) (ds : List (BitVec 512))
  /-- DESCRIPTOR_FETCH_FAIL (R350). A descriptor read fails and the ring stops with HOST_ERR. -/
  | descriptorFetchFail (r : Fin 8192)
  /-- NOP (R336). Descriptor that does nothing and completes. -/
  | nop (r : Fin 8192)
  /-- LAUNCH (R339). Descriptor that starts an image on a partition's master core. -/
  | launch (r : Fin 8192)
  /-- DMA_IN (R340). Descriptor that moves bytes from host memory to the NoC. -/
  | dmaIn (r : Fin 8192)
  /-- DMA_OUT (R340). Descriptor that moves bytes from the NoC to host memory. -/
  | dmaOut (r : Fin 8192)
  /-- COPY (R340). Descriptor that moves bytes between NoC addresses. -/
  | copy (r : Fin 8192)
  /-- DMA_TRANSFER_END (R340). A transfer's outstanding requests have returned and it completes with its status. -/
  | dmaTransferEnd (e : Fin 16) (late : BitVec 64)
  /-- HOST_READ_TIMEOUT (R318). A host read receives no completion within the completion timeout. -/
  | hostReadTimeout (e : Fin 16) (i : Fin 32)
  /-- ALMANAC_LOAD (R120). Descriptor that loads microwords into one sequencer's Almanac. -/
  | almanacLoad (r : Fin 8192)
  /-- IMAGE_LOAD (R341). Descriptor that loads words into a halted core's instruction SRAM. -/
  | imageLoad (r : Fin 8192)
  /-- SOURCE_READ_DONE (R341). A load's whole source has been read and validated, and writing begins. -/
  | sourceReadDone (e : Fin 16)
  /-- LOAD_WRITE_DONE (R121). An Almanac or image load has written every word and completes. -/
  | loadWriteDone (n : Fin 64)
  /-- FABRIC_LOAD (R502). Descriptor that loads reaches of a boundary-fabric strip. -/
  | fabricLoad (r : Fin 8192)
  /-- FENCE (R351). Descriptor that orders later descriptors behind its scope. -/
  | fence (r : Fin 8192)
  /-- FENCE_RELEASE (R351). Every earlier descriptor of the scope has completed and the FENCE completes. -/
  | fenceRelease (r : Fin 8192)
  /-- WATCH_SET (R469). Descriptor that starts, replaces or stops a watch schedule. -/
  | watchSet (r : Fin 8192)
  /-- POWER (R520). Descriptor that requests a power state for a domain or Off. -/
  | power (r : Fin 8192)
  /-- CHART_UPDATE (R378). Descriptor that writes Chart entries and shoots down cached copies. -/
  | chartUpdate (r : Fin 8192)
  /-- SPARE (R556). Descriptor that replaces a failed slice column with the spare. -/
  | spare (r : Fin 8192)
  /-- READBACK (R607). Descriptor that snapshots a partition's state. -/
  | readback (r : Fin 8192)
  /-- READBACK_COPY_DONE (R612). The snapshot's last write is answered, the partition is released and READBACK completes. -/
  | readbackCopyDone (n : Fin 64) (isr : List (Fin 64 × Fin 16384 × Bool)) (late : BitVec 64)
  /-- BARRIER (R476). Descriptor that arrives at a fleet barrier. -/
  | barrier (r : Fin 8192)
  /-- MSIX_HOLDOFF_END (R347). A ring's MOD holdoff ends and one message announces entries written meanwhile. -/
  | msixHoldoffEnd (r : Fin 8192)
  /-- RING_ENABLE (R328). A write that sets ENABLE checks the configuration and starts the ring. -/
  | ringEnable (f : Fin 64) (r : Fin 8192) (v : Word)
  /-- RING_DISABLE (R329). A write that clears ENABLE stops fetching or is refused. -/
  | ringDisable (f : Fin 64) (r : Fin 8192) (v : Word)
  /-- RG_OWNER_WRITE (R321). A write assigns a ring group to a function or is refused. -/
  | rgOwnerWrite (m : BitVec 8) (g : Fin 128) (v : Word)
  /-- FLR (R353). Function-level reset discards doorbells, resets partitions and rings of the function. -/
  | flr (f : Fin 64)
  /-- VF_DISABLE (R354). VF Enable clears or NumVFs falls and each ceasing VF is reset and stripped. -/
  | vfDisable (num : Fin 64)
  /-- BAR4_ACCESS (R325). A host access reaches the staging SRAM through BAR4. -/
  | bar4Access (f : Fin 64) (wr : Bool) (off : BitVec 26) (en : List Bool) (data : List Byte)
  /-- REGISTER_WRITE (R18). A write to a register with no row of its own acts field by field by type. -/
  | registerWrite (m : BitVec 8) (o : BitVec 26) (n : Fin 65) (v : Word)
  /-- REGISTER_LINE_REQUEST (R623). A line request to the register range is split into management-class word accesses. -/
  | registerLineRequest (r : LineReq)
  /-- STAGING_ACCESS (R365). A staging bank grants up to two requests on ports A and B in one nc. -/
  | stagingAccess (k : Fin 32) (ready : List LineReq) (ups : List Upset)
  /-- TRANSLATED_REQUEST (R375). A home controller decides and translates an HBM request through the Chart. -/
  | translatedRequest (r : LineReq)
  /-- CHART_FETCH_DONE (R376). A missed Chart entry arrives from the hub and waiting requests proceed. -/
  | chartFetchDone (ix : Fin 2097152) (flip : BitVec 39)
  /-- RAW_REQUEST (R376). A raw HBM request reaches its stack controller directly. -/
  | rawRequest (r : LineReq)
  /-- HBM_SERVE (R369). A stack controller serves a request and reports its ECC outcome. -/
  | hbmServe (c : Fin 128) (e : HbmEcc)
  /-- HOT_WINDOW (R373). A 1 µs window ends and hot pseudo-channels are counted and logged. -/
  | hotWindow (obs : List HotObs)
  /-- HBM_SEED_WRITE (R371). A write sets a partition's hash seed or is refused. -/
  | hbmSeedWrite (m : BitVec 8) (p : Fin 64) (v : Word)
  /-- LINE_INVALIDATE (R380). An SNP packet invalidates a Belsar cache line. -/
  | lineInvalidate (n : Fin 64) (line : BitVec 31)
  /-- ENTRY_INVALIDATE (R378). An SNP packet drops a cached Chart entry. -/
  | entryInvalidate (ix : Fin 2097152)
  /-- INVALIDATE_ALL (R400). An SNP packet invalidates a whole cache. -/
  | invalidateAll (d : BitVec 8)
  /-- ACKNOWLEDGE (R400). An SNP acknowledgement of an invalidation arrives. -/
  | acknowledge (d : BitVec 8)
  /-- NOC_HOP (R394). A packet at router k leaves by the port its TURN selects or is delivered. -/
  | nocHop (x : NocMove) (errs : Fin 5) (upset : Option (BitVec 8 × Fin 2 × BitVec 8))
  /-- NOC_DELIVER (R402). A packet is ejected at its destination NI and checked. -/
  | nocDeliver (ix : BitVec 16) (e : DatErr)
  /-- RESPONSE_TIMEOUT (R407). A request without response for TIMEOUT nc completes with RETRY. -/
  | responseTimeout (src : BitVec 8) (tid : BitVec 6)
  /-- ORPHAN_TIMEOUT (R407). A target holding half a write for TIMEOUT nc discards it. -/
  | orphanTimeout (d src : BitVec 8) (tid : BitVec 6)
  /-- RETRY_RESEND (R410). After RETRY_GAP a retried request is sent again, or completes with WAKE_TIMEOUT at the limit. -/
  | retryResend (src : BitVec 8) (tid : BitVec 6)
  /-- ROUTE_WRITE (R414). A route entry write to the inactive bank is stored; to the active bank it is refused. -/
  | routeWrite (m : BitVec 8) (d : BitVec 8) (b : Fin 2) (e : BitVec 8) (v : Word)
  /-- EPOCH_SWITCH (R415). The hub commands every NI to change route banks. -/
  | epochSwitch (m : BitVec 8)
  /-- EPOCH_SWITCH_DONE (R415). Every NI has changed banks, ACTIVE inverts and SW_BUSY clears. -/
  | epochSwitchDone
  /-- ROUTER_GO (R417). A router closes its inputs for a 256 nc reconfiguration window. -/
  | routerGo (m : BitVec 8) (r : Fin 40) (pe : BitVec 4)
  /-- ROUTER_WINDOW_END (R417). At g + 256 the new PORT_EN applies and inputs reopen. -/
  | routerWindowEnd (r : Fin 40)
  /-- LINK_ENABLE (R437). Setting ENABLE starts bring-up in SEEK, or is refused with CFG_REJ. -/
  | linkEnable (m : BitVec 8) (j : Fin 10) (v : Word)
  /-- SIGNAL_DETECT (R437). Signal appears on MIN_LANES receive lanes and the link enters TRAIN. -/
  | signalDetect (j : Fin 10) (lanes : BitVec 32)
  /-- TRAIN_DONE (R437). Enough lanes train and the link enters ALIGN. -/
  | trainDone (j : Fin 10) (tx : BitVec 32) (rx : BitVec 32)
  /-- ALIGN_DONE (R437). Codeword lock and the first TXSET are agreed and the link enters IDENT. -/
  | alignDone (j : Fin 10) (tx : BitVec 32) (rx : BitVec 32)
  /-- BRINGUP_TIMEOUT (R437). A TRAIN, ALIGN, IDENT or AUTH limit runs out and the link returns to SEEK or HELD. -/
  | bringupTimeout (j : Fin 10)
  /-- IDENT (R438). An IDENT flit arrives and the peer's identity is recorded and checked. -/
  | identFlit (j : Fin 10)
  /-- NONCE (R439). A nonce flit of the authentication exchange arrives. -/
  | nonce (j : Fin 10)
  /-- CERT (R439). A certificate segment flit arrives. -/
  | cert (j : Fin 10)
  /-- SIG (R439). The signature flit arrives and the chain and signature are verified. -/
  | sig (j : Fin 10)
  /-- CODEWORD_RECEIVE (R434). A codeword is decoded and placed by CWSEQ, or discarded and NAKed. -/
  | codewordReceive (j : Fin 10) (lane : Fin 32) (bits : BitVec 5440)
  /-- LL_FLIT (R433). A link-layer flit's ACK, NAK, credits and lane sets are acted on. -/
  | llFlit (j : Fin 10)
  /-- LANE_LOSS (R441). A receive lane loses signal, clock recovery or lock and is retired. -/
  | laneLoss (j : Fin 10) (l : Fin 32)
  /-- LANE_RETIRE (R441). Software retires a receive lane. -/
  | laneRetire (m : BitVec 8) (j : Fin 10) (lanes : BitVec 32)
  /-- LANE_RETRAIN (R442). Software starts retraining a retired lane. -/
  | laneRetrain (m : BitVec 8) (j : Fin 10) (lanes : BitVec 32)
  /-- RETRAIN (R442). A RETRAIN flit starts lane retraining with the peer. -/
  | retrain (j : Fin 10)
  /-- RETRAIN_DONE (R442). A RETRAIN_DONE flit arrives and the lane rejoins at a SETSEQ. -/
  | retrainDone (j : Fin 10) (trained : Option (Fin 32))
  /-- RETRAIN_FAIL (R442). Retraining fails; after three attempts DEAD is set. -/
  | retrainFail (j : Fin 10) (l : Fin 32)
  /-- LL_SILENCE (R443). No LL flit for 10 µs takes the link down. -/
  | llSilence (j : Fin 10)
  /-- RTT_MEASURE (R435). Every 1 ms the link measures its round trip. -/
  | rttMeasure (j : Fin 10) (ns : BitVec 16)
  /-- HALO_FLIT_TX (R495). The link pops a HALO flit from a transmit block against credit. -/
  | haloFlitTx (j : Fin 8) (c : Fin 16) (late : Bool)
  /-- HALO_FLIT_RX (R495). An arriving HALO flit is pushed into its receive block. -/
  | haloFlitRx (j : Fin 8) (c : Fin 16)
  /-- TUNNEL_COMMAND (R446). A TUN_CMD write enqueues a tunnel command or sets FULL. -/
  | tunnelCommand (m : BitVec 8) (j : Fin 10) (v : Word)
  /-- TUNNEL_START (R447). The tunnel engine takes the next command and checks it. -/
  | tunnelStart (j : Fin 10)
  /-- TUNNEL_WAIT_TIMEOUT (R447). A command waiting for ACTIVE completes with WAKE_TIMEOUT after TUN_WAIT. -/
  | tunnelWaitTimeout (j : Fin 10)
  /-- TUNNEL_COMMAND_DONE (R447). Every request of a command is answered and it completes. -/
  | tunnelCommandDone (j : Fin 10)
  /-- TUNNEL_REQUEST (R449). A request from the peer is injected into the local NoC or refused. -/
  | tunnelRequest (j : Fin 10)
  /-- TUNNEL_RESPONSE (R448). A response packet from the peer arrives for an outstanding request. -/
  | tunnelResponse (j : Fin 10)
  /-- LINK_PARK (R451). A PARK flit arrives; the link answers PARK_ACK and goes down. -/
  | linkPark (j : Fin 10)
  /-- PARK_ACK (R451). A PARK_ACK arrives and the drain proceeds to the seal. -/
  | parkAck (j : Fin 10)
  /-- PARK_ACK_TIMEOUT (R451). No PARK_ACK within 10 µs and the drain proceeds. -/
  | parkAckTimeout (j : Fin 10)
  /-- LINK_WAKE_DETECT (R452). An AON detector sees signal on lane 0 and posts a wake request. -/
  | linkWakeDetect (j : Fin 10)
  /-- REVEILLE_DETECT (R453). The Reveille pattern is detected and a wake request posted. -/
  | reveilleDetect (j : Fin 10)
  /-- REVEILLE (R453). The link transmits the Reveille pattern for REV_US µs. -/
  | reveille (m : BitVec 8) (j : Fin 10)
  /-- REVEILLE_END (R453). The Reveille duration ends and REVEILLE clears. -/
  | reveilleEnd (j : Fin 10)
  /-- FLEET_ID_WRITE (R427). A write sets fleet coordinates and extents, discarded while any link is enabled. -/
  | fleetIdWrite (m : BitVec 8) (v : Word)
  /-- LANE_MODE_WRITE (R445). A write hands lanes to the strip, allowed only while ENABLE is 0. -/
  | laneModeWrite (m : BitVec 8) (j : Fin 10) (v : Word)
  /-- ANNOUNCE (R463). An ANNOUNCE flit arrives and updates the best known candidate. -/
  | announce (j : Fin 10)
  /-- ANNOUNCE_TIMER (R463). Every 1 µs the package sends ANNOUNCE on every ACTIVE link. -/
  | announceTimer
  /-- CANDIDATE_TIMEOUT (R463). A candidate not repeated for 20 µs is forgotten. -/
  | candidateTimeout (j : Fin 10) (prio : BitVec 8) (idx : BitVec 12)
  /-- SYNC_INTERVAL (R465). Every 10 µs a non-master starts a discipline exchange with its parent. -/
  | syncInterval
  /-- SYNC (R465). A SYNC flit with t1 arrives and is stamped. -/
  | sync (j : Fin 10)
  /-- DELAY_REQ (R465). A DELAY_REQ arrives at the parent and DELAY_RESP is returned. -/
  | delayReq (j : Fin 10)
  /-- DELAY_RESP (R466). A DELAY_RESP arrives, θ is computed and the Meridian is trimmed or stepped. -/
  | delayResp (j : Fin 10)
  /-- WATCH_BELL (R472). The scheduled end passes with the work done and the bell rings. -/
  | watchBell (w : Fin 72)
  /-- W_DONE (R471). A sequencer reports its period's work done for its watch. -/
  | wDone (n : Fin 64)
  /-- WATCH_MODE_WRITE (R474). A write sets a watch's mode, allowed only while it is disabled. -/
  | watchModeWrite (m : BitVec 8) (w : Fin 72) (v : Word)
  /-- ARRIVE (R476). An ARRIVE flit from a child counts toward the barrier generation. -/
  | arrive (j : Fin 10)
  /-- RELEASE (R476). A RELEASE flit arrives and is forwarded with its release time. -/
  | release (j : Fin 10)
  /-- BARRIER_COMPLETE (R476). T_r is reached and the generation completes and advances. -/
  | barrierComplete (b : Fin 16)
  /-- BARRIER_TIMEOUT (R476). TIMEOUT ns pass and the BARRIER completes with WAKE_TIMEOUT. -/
  | barrierTimeout (r : Fin 8192)
  /-- FAB_CLK_WRITE (R500). A write switches a regional clock tree without a glitch or is refused. -/
  | fabClkWrite (m : BitVec 8) (g : Fin 8) (t : Fin 4) (v : Word)
  /-- CLOCK_RESTART (R500). The switched tree restarts on the third rising edge of the new clock. -/
  | clockRestart (g : Fin 8) (t : Fin 4) (dead : Bool)
  /-- CLK_LOST (R500). A tree's source gives no edge for 1 µs. -/
  | clkLost (g : Fin 8) (t : Fin 4)
  /-- CAPTURE (R507). A capture of every flip-flop of the strip starts. -/
  | capture (m : BitVec 8) (g : Fin 8)
  /-- CAPTURE_DONE (R507). Every tree has been copied and DONE is set. -/
  | captureDone (g : Fin 8)
  /-- FAB_RB_DATA_READ (R508). A read returns captured flip-flops or a block word through the test port. -/
  | fabRbDataRead (m : BitVec 8) (g : Fin 8)
  /-- LOAD_RELEASE (R505). Configuration writing ends and the region's outputs are enabled. -/
  | loadRelease (g : Fin 8)
  /-- RELEASE_STAGE (R505). 16 tree cycles later the next release stage acts; the last completes the load. -/
  | releaseStage (g : Fin 8) (t : Fin 4)
  /-- CONFIG_SCAN (R545). Every 1 ms the configuration frames are scanned for parity. -/
  | configScan (g : Fin 8) (bad : List (Fin 16 × Fin 18))
  /-- PWR_REQ (R536). A sequencer requests a power state through its port. -/
  | pwrReq (n : Fin 64) (v : Word)
  /-- DUSK_DRAIN_END (R518). DRAIN_QUIET nc pass with nothing outstanding and the domain is sealed. -/
  | duskDrainEnd (d : Fin 41)
  /-- DRAIN_MAX_EXPIRY (R518). The drain lasts DRAIN_MAX and the router edges stop accepting. -/
  | drainMaxExpiry (d : Fin 41)
  /-- DUSK_STEP_DONE (R518). A power-down step ends and the next runs or the state is reached. -/
  | duskStepDone (d : Fin 41)
  /-- DAWN_STEP_DONE (R516). A Dawn step's ready signal arrives and the next step runs or the state is reached. -/
  | dawnStepDone (d : Fin 41)
  /-- DAWN_STEP_TIMEOUT (R522). A Dawn step exceeds four times its nominal time and the domain goes to Deep with FAULT. -/
  | dawnStepTimeout (d : Fin 41)
  /-- FAULT_CLEAR (R522). Writing 1 to FAULT re-enables wakes of the domain. -/
  | faultClear (d : Fin 41)
  /-- WAKE_N (R526). WAKE_N is held low for 1 µs and wakes the mapped domains or the part. -/
  | wakeN
  /-- PCIE_WAKE (R526). The PCIe link leaves L1, or receiver activity when Off, wakes the mapped domains. -/
  | pcieWake
  /-- AON_TIMER_MATCH (R526). AON_TIME reaches AON_TIMER and wakes the mapped domains. -/
  | aonTimerMatch
  /-- GOVERNOR_UPDATE (R532). Every 10 µs the governor raises or lowers the throttle k. -/
  | governorUpdate (pwr : BitVec 10) (tj : BitVec 8)
  /-- THERMAL_TRIP (R533). A sensor reads 128 °C and THERM_TRIP_N is asserted. -/
  | thermalTrip
  /-- OFF_ENTRY (R530). After the Off completion the link is removed and the part powers down. -/
  | offEntry
  /-- SPARE_PRETEST_DONE (R556). The spare column passes its pretest and the SPARE preemption is requested. -/
  | sparePretestDone (f : Fin 64) (good : Bool)
  /-- SPARE_QUIESCED (R556). Work queues are empty and Survey has released, and the repair copy starts. -/
  | spareQuiesced (f : Fin 64)
  /-- SPARE_COPY_DONE (R76). The repair copy ends, the multiplexers switch and issue resumes. -/
  | spareCopyDone (f : Fin 64)
  /-- HBM_RECAL (R559). Recalibration of an HBM channel starts or is refused. -/
  | hbmRecal (m : BitVec 8) (k : Fin 4) (ch : Fin 16)
  /-- HBM_RECAL_DONE (R559). The channel returns to service and waiting requests are served. -/
  | hbmRecalDone (k : Fin 4) (us : BitVec 16)
  /-- FW_STAGE (R560). The staged firmware image is verified and programmed into the inactive slot. -/
  | fwStage (m : BitVec 8)
  /-- FW_STAGE_DONE (R560). Programming ends and READY is set, or FW_ERR. -/
  | fwStageDone (flashOk : Bool)
  /-- FW_SWITCH (R560). The ring engine quiesces and the hub restarts on the other slot. -/
  | fwSwitch (m : BitVec 8)
  /-- FW_SWITCH_DONE (R560). The hub runs the new slot and releases held entries. -/
  | fwSwitchDone (us : BitVec 32)
  /-- SVN_COMMIT (R582). SVN_FUSE is raised to the running image's SVN, or refused. -/
  | svnCommit (m : BitVec 8)
  /-- REVOKE0 (R582). Fuse REVOKE[0] is set, or refused. -/
  | revoke0 (m : BitVec 8)
  /-- FUSE_WRITE_DONE (R582). A fuse write completes and BUSY clears. -/
  | fuseWriteDone
  /-- FATAL_ERROR (R548). An uncorrectable error in hub state stops the ring engine and reports AER. -/
  | fatalError (unit : Fin 4) (addr : Word)
  /-- DOMAIN_RESET (R601). A reset of one domain starts or is refused. -/
  | domainReset (m : BitVec 8) (d : Fin 64)
  /-- DOMAIN_RESET_DONE (R602). The domain reset ends and BUSY clears. -/
  | domainResetDone
  /-- PARTITION_DEFINE (R286). PART_CMD OP 1 defines a partition or is refused. -/
  | partitionDefine (m : BitVec 8) (f : Fin 64) (wlog : Fin 4) (hlog : Fin 4) (func : Fin 64)
  /-- PARTITION_REMOVE (R287). PART_CMD OP 2 removes a partition or is refused. -/
  | partitionRemove (m : BitVec 8) (f : Fin 64)
  /-- PARTITION_RESET (R600). PART_CMD OP 3 resets a partition's sequencers and fields. -/
  | partitionReset (m : BitVec 8) (f : Fin 64)
  /-- PART_CMD_DONE (R286). A partition command completes within 64 nc and BUSY clears. -/
  | partCmdDone
  /-- ACL_LOCK (R573). A node's access table is frozen until warm or power-on reset. -/
  | aclLock (m : BitVec 8) (d : BitVec 8)
  /-- TAP_RESET (R614). TRST_N or Test-Logic-Reset resets the TAP to IDCODE. -/
  | tapReset
  /-- EXTEST (R616). TAP instruction driving balls from boundary scan. -/
  | extest (cells upd : List Bool)
  /-- SAMPLE_PRELOAD (R614). TAP instruction sampling the boundary register. -/
  | samplePreload (cells upd : List Bool)
  /-- IDCODE (R614). TAP instruction returning the 32-bit identification code. -/
  | idcode
  /-- HIGHZ (R616). TAP instruction placing outputs in high impedance. -/
  | highz
  /-- CLAMP (R616). TAP instruction clamping outputs from the boundary register. -/
  | clamp
  /-- EXTEST_PULSE (R616). IEEE 1149.6 pulse test of AC-coupled lanes. -/
  | extestPulse (cells upd : List Bool)
  /-- EXTEST_TRAIN (R616). IEEE 1149.6 train test of AC-coupled lanes. -/
  | extestTrain (cells upd : List Bool)
  /-- BYPASS (R614). TAP instruction selecting the bypass register. -/
  | bypass
  /-- DBG_CHAL (R589). The debugger reads a fresh nonce and the serial number. -/
  | dbgChal
  /-- DBG_RESP (R589). A signed unlock response is checked and sets DBG_LEVEL or counts a failure. -/
  | dbgResp (v : BitVec 1560)
  /-- DBG_ACC (R617). Update-DR starts a management-class access with master ID 0x61. -/
  | dbgAcc (v : BitVec 128)
  /-- DBG_ACC_DONE (R617). A debug access completes with its status and read data. -/
  | dbgAccDone
  /-- DBG_STAT (R614). TAP instruction returning debug level, failures and ID_OK. -/
  | dbgStat
  /-- SET_ENDPOINT_ID (R586). The bus owner assigns the MCTP endpoint ID of a transport. -/
  | setEndpointId (t : Fin 2) (eid : BitVec 8)
  /-- GET_VERSION (R587). SPDM request answered with version 1.2. -/
  | getVersion (t : Fin 2)
  /-- GET_CAPABILITIES (R587). SPDM request answered with the responder's capabilities. -/
  | getCapabilities (t : Fin 2)
  /-- NEGOTIATE_ALGORITHMS (R587). SPDM request settling P-384 and SHA-384. -/
  | negotiateAlgorithms (t : Fin 2) (offered : Bool)
  /-- GET_DIGESTS (R587). SPDM request returning the slot 0 chain digest. -/
  | getDigests (t : Fin 2)
  /-- GET_CERTIFICATE (R587). SPDM request returning the Lodestar chain. -/
  | getCertificate (t : Fin 2) (slot : BitVec 8) (off len : BitVec 16)
  /-- CHALLENGE (R587). SPDM request answered with a Lodestar signature. -/
  | challenge (t : Fin 2) (slot summary : BitVec 8)
  /-- GET_MEASUREMENTS (R585). SPDM request returning measurements, computing content digests on demand. -/
  | getMeasurements (t : Fin 2) (op : BitVec 8) (sign : Bool)
  /-- SPDM_UNSUPPORTED (R587). Any other SPDM request is answered with ERROR UnsupportedRequest. -/
  | spdmUnsupported (t : Fin 2)
  /-- SPDM_BUSY (R588). A request while the other transport is served is answered with ERROR Busy. -/
  | spdmBusy (t : Fin 2)
  /-- PWR_GOOD_FALL (R634). PWR_GOOD falls and power-on reset is held. -/
  | pwrGoodFall (fused : Bool)
  /-- AON_POWER_UP (R635). VDD_AON rises from below 0.5 V and AON registers take their reset values. -/
  | aonPowerUp
  /-- PERST_N_FALL (R598). PERST_N falls and the warm-reset sequence stops the endpoint and parks the domains. -/
  | perstNFall
  /-- BOOT_START (R603). Power-on or PERST_N rise starts the boot sequence. -/
  | bootStart
  /-- BOOT_STEP_DONE (R603). A boot step ends and the next begins. -/
  | bootStepDone (o : BootObs)
  /-- AVS_WRITE (R632). The part writes a new VDD_CORE target over AVSBus. -/
  | avsWrite (mv : Fin 1024)
  /-- AVS_ACK (R632). The regulator acknowledges an AVSBus write. -/
  | avsAck
  /-- AVS_RETRY (R632). An unacknowledged AVSBus write is repeated after 10 µs. -/
  | avsRetry
  /-- REGISTER_READ (R18). A BAR0, management-class or debug read of a register returns its fields by type, clearing RC fields and marking Logbook entries as read. -/
  | registerRead (m : BitVec 8) (o : BitVec 26) (n : Fin 65)
  /-- TREE_EDGE (R483). At each rising edge of a regional clock tree, the cove flip-flops, track registers, block ports, queues and pads of that tree act. -/
  | treeEdge (g : Fin 8) (ts : BitVec 4) (pins : BitVec 8) (ph : BitVec 65) (ups : List BlkUpset)
  /-- PMA_WORD_RECEIVED (R495). A 64-bit PMA word arrives on a lane handed to the strip and is pushed into the bound mode-7 block, or dropped with OVF. -/
  | pmaWordReceived (g : Fin 8) (l : Fin 24) (w : Word) (late : Bool)
  /-- PMA_WORD_SENT (R495). Each link core clock cycle a FABRIC-mode lane pops one word from its mode-8 block, or repeats the last word and sets UNF. -/
  | pmaWordSent (g : Fin 8) (l : Fin 24) (late : Bool)
  /-- CODEWORD_TRANSMIT (R430). The link forms and sends the next codeword on its active lanes, with LL flit, prioritised traffic flits and replays. -/
  | codewordTransmit (j : Fin 10)
  /-- HOST_READ_COMPLETION (R340). A PCIe completion for a DMA engine's host read arrives, delivering data or a UR, CA or poisoned status that stops the transfer. -/
  | hostReadCompletion (e : Fin 16) (i : Fin 32) (x : HostRead)
  /-- VF_ENABLE (R320). VF Enable is set or NumVFs rises and the named VFs become enabled. -/
  | vfEnable (num : Fin 64)
  /-- STACK_TEMPERATURE_READ (R388). Every 1 ms the controller reads the stack temperature through the test port into TEMP and sets the refresh rate. -/
  | stackTemperatureRead (k : Fin 4) (t : BitVec 8)
  /-- VDD_GPIO_RISE (R631). A strip bank's VDD_GPIO rises and the part senses whether the bank is 1.8 V or 3.3 V. -/
  | vddGpioRise (g : Fin 8) (high : Bool)
  deriving DecidableEq, Repr

end Sys2Proof
end

