-- ==== Sys2Proof/Decode.lean ====
section
/-! DEFINITION. The commands that a word spells by the bits of the table of operations. -/
namespace Sys2Proof

/-- The table gives no row any bits: no word spells a command. The words of the Belsar core and the microwords are data
of the part, decoded where they execute. -/
def decodeTableWord (_nbits _w : Nat) : Option Instr := none

end Sys2Proof
end

