-- ==== Sys2Proof/Config.lean ====
section
/-! DEFINITION. What the spec leaves open: constants without a body, so that a claim holds for every value of them. -/
namespace Sys2Proof.Config

/-- A codeword with three or more bits in error can be miscorrected or can pass undetected (R63): what the decoder
makes of it. 0: it passes as correct; 1: a bit is corrected; otherwise it is reported uncorrectable. -/
opaque eccOutcome : Nat → Nat
/-- The data such a decoder delivers, drawn anew for each such read (R63). -/
opaque eccData : Nat → Word
/-- The lane or check bit such a decoder reports as corrected (R63). -/
opaque eccPos : Nat → Nat
/-- The microword an Almanac or repeater decoder delivers for three or more bits in error (R92), by draw. -/
opaque eccMicro : Nat → MicroWord
/-- The value of a window register that a refill left unpredictable (R261), by draw. -/
opaque windowValue : Nat → Word

/-- What a PE receives on the grid from a PE that executed a null word, which sends nothing (R105, R47), by draw. -/
opaque nullBits : Nat → Plane

/-- How far discipline trims the Meridian's rate (R462, R466), by draw; the model keeps it within ±200 ppm. -/
opaque merTrim : Nat → Nat

/-- The check bits of a word of a strip's memory block, whose code the spec does not give (R493, R508). -/
opaque blkCheck : Word → BitVec 8
/-- What a data output of a memory block shows while it offers no entry (R492), by draw. -/
opaque blkIdle : Nat → Nat

/-- The fused digests of the firmware keys and of the debug keys, by key slot (R580, R589). -/
opaque fwKeyHash : Nat → BitVec 384
opaque dbgKeyHash : Nat → BitVec 384
/-- Whether the fuses hold an owner debug key (R590, R592). -/
opaque ownerKey : Bool
/-- The device serial number, 16 octets (R576). -/
opaque serial : BitVec 128
/-- Body bias that calibration finds, in steps of 4 mV (R528), by draw. -/
opaque bodyBias : Nat → Nat
/-- The digest of the boot ROM (R583). -/
opaque romDigest : BitVec 384
/-- The secret that the hub's physical unclonable function reproduces at every boot (R575). -/
opaque pufSecret : BitVec 256
/-- The public key of the Jarnoeg root, x and y, whose digest is the fused ROOT_KEY_HASH (R576). -/
opaque rootPoint : BitVec 768
/-- What manufacture puts into the certificate region (R576): the product intermediate, the digest of the root certificate,
and of the device certificate the issuer's name, notBefore and the signature's r and s. -/
opaque interCert : List Byte
opaque rootCertDigest : BitVec 384
opaque issuerName : List Byte
opaque notBefore : List Byte
opaque deviceSig : BitVec 768
/-- What a failed transfer leaves at its destination at and after the failing offset (R340), by draw and byte. -/
opaque lateByte : Nat → Nat → BitVec 8
/-- Fresh nonces (R439, R587, R589), and the secret number of a signature (R439, R587), by draw. -/
opaque nonce : Nat → BitVec 384
opaque signK : Nat → BitVec 384
/-- What an SPDM signature covers (R587): DSP0274 takes it from the messages exchanged, whose octets no operand holds; by draw. -/
opaque spdmTranscript : Nat → List Byte

end Sys2Proof.Config
end

