-- ==== Sys2Proof/Machine/Bytes.lean ====
section
/-! DEFINITION. Numbers as bytes, in both orders, and groups of a list. -/
namespace Sys2Proof.Machine
open Sys2Proof

/-- Bits [lo + w − 1 : lo] of a value. -/
def bits (v lo w : Nat) : Nat := (v / 2 ^ lo) % 2 ^ w

/-- The little-endian bytes of a number. -/
def leBytes : Nat → Nat → List Byte
  | 0, _ => []
  | k + 1, v => BitVec.ofNat 8 v :: leBytes k (v / 256)
/-- The little-endian number of a list of bytes. -/
def leNum : List Byte → Nat
  | [] => 0
  | b :: t => b.toNat + 256 * leNum t
/-- The big-endian bytes of a number. -/
def beBytes (k v : Nat) : List Byte := (leBytes k v).reverse
/-- The big-endian number of a list of bytes. -/
def beNum (l : List Byte) : Nat := leNum l.reverse

/-- Fields of w bits side by side, the first at bit 0. -/
def packed (w : Nat) : List Nat → Nat
  | [] => 0
  | x :: t => x % 2 ^ w + packed w t * 2 ^ w

/-- At most k groups of n elements, in order. -/
def groups {α : Type} (n : Nat) : Nat → List α → List (List α)
  | 0, _ => []
  | k + 1, l => if l.isEmpty then [] else l.take n :: groups n k (l.drop n)

end Sys2Proof.Machine
end

