-- ==== Sys2Proof/Machine/Sha.lean ====
section
/-! DEFINITION. SHA-384 over bytes, and HMAC with it (R575, R584, R585, R587). FIPS 180-4 takes its constants from the
roots of the first primes, and so does this file. -/
namespace Sys2Proof.Machine
open Sys2Proof

/-! ### The constants -/

/-- The largest root of degree k whose power does not exceed n: the next b bits of it are settled from the top. -/
def rootFloor (k n : Nat) : (b acc : Nat) → Nat
  | 0, acc => acc
  | b + 1, acc => rootFloor k n b (if (acc + 2 ^ b) ^ k ≤ n then acc + 2 ^ b else acc)
/-- The first 64 bits behind the point of the root of degree k of p. -/
def rootBits (k p : Nat) : Word := BitVec.ofNat 64 (rootFloor k (p * 2 ^ (64 * k)) 69 0)
/-- The first 80 primes. -/
def shaPrimes : List Nat :=
  (List.range 410).filter fun n => decide (2 ≤ n) && (List.range 21).all fun d => decide (d < 2 ∨ n ≤ d ∨ n % d ≠ 0)
/-- The constant of each round: the cube roots. -/
def shaRoundKeys : List Word := shaPrimes.map (rootBits 3)
/-- The first chaining value of SHA-384: the square roots of the ninth to the sixteenth prime. -/
def shaStart : List Word := ((shaPrimes.drop 8).take 8).map (rootBits 2)

/-! ### The compression -/

/-- Three rotations of a word, added without carry. -/
def rot3 (x : Word) (i j k : Nat) : Word := x.rotateRight i ^^^ x.rotateRight j ^^^ x.rotateRight k
/-- Two rotations and a shift of a word, added without carry. -/
def rot2Shift (x : Word) (i j k : Nat) : Word := x.rotateRight i ^^^ x.rotateRight j ^^^ (x >>> k)

/-- The words a compression has made so far: the two chains of FIPS 180-4 (its variables a to d and e to h) as two lists
with the newest word first, and the schedule's last sixteen words, oldest first. -/
structure ShaState where
  chainA : List Word
  chainE : List Word
  window : List Word

/-- The n-th newest word of a chain. -/
def nth (l : List Word) (n : Nat) : Word := l.getD n 0
/-- One round: both chains gain a word, and the schedule moves on by one. -/
def ShaState.round (st : ShaState) (key : Word) : ShaState :=
  let e := nth st.chainE 0
  let choice := nth st.chainE 2 ^^^ (e &&& (nth st.chainE 1 ^^^ nth st.chainE 2))
  let sum := key + nth st.window 0 + choice + rot3 e 14 18 41 + nth st.chainE 3
  let (a, b, c) := (nth st.chainA 0, nth st.chainA 1, nth st.chainA 2)
  let majority := (a &&& (b ||| c)) ||| (b &&& c)
  let next := rot2Shift (nth st.window 14) 19 61 6 + rot2Shift (nth st.window 1) 1 8 7 + nth st.window 9 + nth st.window 0
  { chainA := (sum + rot3 a 28 34 39 + majority) :: st.chainA.take 3
    chainE := (nth st.chainA 3 + sum) :: st.chainE.take 3
    window := st.window.drop 1 ++ [next] }
/-- The chaining value after a block of 128 bytes. -/
def shaCompress (h : List Word) (block : List Byte) : List Word :=
  let words := (groups 8 16 block).map fun l => BitVec.ofNat 64 (beNum l)
  let st := shaRoundKeys.foldl ShaState.round ⟨h.take 4, h.drop 4, words⟩
  List.zipWith (· + ·) h (st.chainA ++ st.chainE)

/-- The message with its padding: a byte 0x80, zeros, and its length in bits in the last 16 bytes of a block. -/
def shaPadded (l : List Byte) : List Byte :=
  let blocks := (l.length + 17 + 127) / 128
  l ++ 0x80#8 :: List.replicate (128 * blocks - l.length - 17) 0#8 ++ beBytes 16 (8 * l.length)
/-- SHA-384 of a list of bytes, as 48 bytes. -/
def sha384 (l : List Byte) : List Byte :=
  let m := shaPadded l
  let h := (groups 128 (m.length / 128) m).foldl shaCompress shaStart
  (h.take 6).flatMap fun w => beBytes 8 w.toNat

/-- HMAC-SHA-384 under a key of at most 128 bytes. -/
def hmac384 (key msg : List Byte) : List Byte :=
  let pad (x : Byte) : List Byte := (List.range 128).map fun i => key.getD i 0 ^^^ x
  sha384 (pad 0x5C ++ sha384 (pad 0x36 ++ msg))

end Sys2Proof.Machine
end

