-- ==== Sys2Proof/Machine/Ecdsa.lean ====
section
/-! DEFINITION. ECDSA on P-384 with SHA-384 (R439, R577, R580, R587, R589), as FIPS 186-5 and its curve parameters define
it, and the derivation of a key pair from a secret (R575). -/
namespace Sys2Proof.Machine
open Sys2Proof

/-- The field prime, the group order, the coefficient b and the base point of P-384. -/
def ecP : Nat := 2 ^ 384 - 2 ^ 128 - 2 ^ 96 + 2 ^ 32 - 1
def ecN : Nat :=
  0xFFFFFFFFFFFFFFFFFFFFFFFFFFFFFFFFFFFFFFFFFFFFFFFFC7634D81F4372DDF581A0DB248B0A77AECEC196ACCC52973
def ecB : Nat :=
  0xB3312FA7E23EE7E4988E056BE3F82D19181D9C6EFE8141120314088F5013875AC656398D8A2ED19D2A85C8EDD3EC2AEF
def ecG : Nat × Nat :=
  (0xAA87CA22BE8B05378EB1C71EF320AD746E1D3B628BA79B9859F741E082542A385502F25DBF55296C3A545E3872760AB7,
   0x3617DE4A96262C6F5D9E98BF9292DC29F8F41DBD289A147CE9DA3113B5F0B8C00A60B1CE1D7E819D7A431D7C90EA0E5F)

/-- a to the power of the lowest k bits of e, modulo m. -/
def powMod (m a e : Nat) : Nat → Nat
  | 0 => 1
  | k + 1 =>
    let r := powMod m (a * a % m) (e / 2) k
    if e % 2 = 1 then r * a % m else r
/-- The inverse modulo a prime below 2^384. -/
def invMod (m a : Nat) : Nat := powMod m (a % m) (m - 2) 384
def subMod (m a b : Nat) : Nat := (a % m + (m - b % m)) % m

/-- A point: `none` is the point at infinity. -/
abbrev EcPoint := Option (Nat × Nat)
def onCurve (q : Nat × Nat) : Bool :=
  decide (q.1 < ecP) && decide (q.2 < ecP) &&
    (q.2 * q.2 % ecP == (subMod ecP (q.1 * q.1 % ecP * q.1) (3 * q.1) + ecB) % ecP)
/-- The chord or tangent of slope l through p meets x-coordinate of the other point. -/
def ecSlope (l : Nat) (p : Nat × Nat) (x2 : Nat) : EcPoint :=
  let x := subMod ecP (l * l) (p.1 + x2)
  some (x, subMod ecP (l * subMod ecP p.1 x) p.2)
def ecAdd : EcPoint → EcPoint → EcPoint
  | none, q => q
  | p, none => p
  | some p, some q =>
    if p.1 = q.1 then
      if p.2 = q.2 ∧ p.2 ≠ 0 then
        ecSlope (subMod ecP (3 * p.1 * p.1) 3 * invMod ecP (2 * p.2) % ecP) p p.1
      else none
    else ecSlope (subMod ecP q.2 p.2 * invMod ecP (subMod ecP q.1 p.1) % ecP) p q.1
/-- The multiple of a point by the lowest k bits of a number. -/
def ecMul (q : EcPoint) (e : Nat) : Nat → EcPoint
  | 0 => none
  | k + 1 =>
    let r := ecMul (ecAdd q q) (e / 2) k
    if e % 2 = 1 then ecAdd q r else r

/-- (r, s) verifies over a message under an uncompressed public key of 97 bytes. -/
def ecdsaVerify (key msg r s : List Byte) : Bool :=
  let q : Nat × Nat := (beNum ((key.drop 1).take 48), beNum ((key.drop 49).take 48))
  let (r, s) := (beNum r, beNum s)
  let z := beNum (sha384 msg)
  if key.length = 97 ∧ key.headD 0 = 4 ∧ onCurve q ∧ 0 < r ∧ r < ecN ∧ 0 < s ∧ s < ecN then
    let w := invMod ecN s
    match ecAdd (ecMul (some ecG) (z * w % ecN) 384) (ecMul (some q) (r * w % ecN) 384) with
    | some p => p.1 % ecN == r
    | none => false
  else false
/-- The public key of private key d, as an uncompressed point of 97 bytes. -/
def publicKey (d : Nat) : List Byte :=
  match ecMul (some ecG) d 384 with
  | some q => 0x04#8 :: (beBytes 48 q.1 ++ beBytes 48 q.2)
  | none => []
/-- The signature of a message under private key d with the secret number k, 0 < k < n: r and s, 48 bytes each. -/
def ecdsaSign (d k : Nat) (msg : List Byte) : List Byte :=
  let r := match ecMul (some ecG) k 384 with | some q => q.1 % ecN | none => 0
  beBytes 48 r ++ beBytes 48 (invMod ecN k * ((beNum (sha384 msg) + r * d) % ecN) % ecN)

/-! ### Key-pair generation (R575) -/

/-- The state of HMAC_DRBG (NIST SP 800-90A): its key and its value. -/
structure Drbg where
  key : List Byte
  value : List Byte
/-- HMAC_DRBG's update with further input. -/
def Drbg.update (g : Drbg) (input : List Byte) : Drbg :=
  let absorb (mark : Byte) (g : Drbg) : Drbg :=
    let key := hmac384 g.key (g.value ++ mark :: input)
    ⟨key, hmac384 key g.value⟩
  if input.isEmpty then absorb 0 g else absorb 1 (absorb 0 g)
/-- HMAC_DRBG instantiated with an entropy input and nothing else. -/
def Drbg.seed (entropy : List Byte) : Drbg := Drbg.update ⟨List.replicate 48 0, List.replicate 48 1⟩ entropy
/-- The private key by rejection sampling: outputs of 48 bytes until one is at most n − 2; at most `tries` of them. -/
def sampleKey : (tries : Nat) → Drbg → Nat
  | 0, _ => 1
  | t + 1, g =>
    let out := hmac384 g.key g.value
    if beNum out ≤ ecN - 2 then beNum out + 1 else sampleKey t (Drbg.update ⟨g.key, out⟩ [])

end Sys2Proof.Machine
end

