-- ==== Sys2Proof/Machine/Cert.lean ====
section
/-! DEFINITION. The Lodestar identity: its key pair, X.509 certificates in DER, the chain in the SPI NOR and its checks
(R4, R575–R577, R579, R587). -/
namespace Sys2Proof.Machine
open Sys2Proof

/-! ### The Lodestar key pair (R575) -/

/-- The private key: HMAC_DRBG seeded with the secret of the physical unclonable function, sampled until it fits. -/
def lodestarKey : Nat := sampleKey 64 (Drbg.seed (beBytes 32 Config.pufSecret.toNat))
def lodestarPublic : List Byte := publicKey lodestarKey
/-- The public key of the Jarnoeg root, whose digest the fuses hold. -/
def rootPublic : List Byte := 0x04#8 :: beBytes 96 Config.rootPoint.toNat

/-! ### DER -/

/-- An item: its tag and contents. -/
def der (tag : Byte) (c : List Byte) : List Byte :=
  let n := c.length
  tag :: (if n < 128 then leBytes 1 n else if n < 256 then 0x81#8 :: leBytes 1 n else 0x82#8 :: beBytes 2 n) ++ c
def derSeq (items : List (List Byte)) : List Byte := der 0x30 items.flatten
/-- An unsigned integer in its shortest form, of at most k octets. -/
def derUInt (k v : Nat) : List Byte :=
  let l := (beBytes k v).dropWhile (· == 0)
  der 0x02 (if (l.headD 0x80).msb then 0 :: l else l)
def ascii (t : String) : List Byte := t.toList.map fun c => BitVec.ofNat 8 c.toNat
/-- An attribute 2.5.4.n of a name, as a string of a tag. -/
def derAttr (n tag : Byte) (v : List Byte) : List Byte := der 0x31 (derSeq [der 0x06 [0x55, 0x04, n], der tag v])
/-- ecdsa-with-SHA384, and a P-384 public key. -/
def derSigAlg : List Byte := derSeq [der 0x06 [0x2A, 0x86, 0x48, 0xCE, 0x3D, 0x04, 0x03, 0x03]]
def derKey (q : List Byte) : List Byte :=
  derSeq [derSeq [der 0x06 [0x2A, 0x86, 0x48, 0xCE, 0x3D, 0x02, 0x01], der 0x06 [0x2B, 0x81, 0x04, 0x00, 0x22]], der 0x03 (0 :: q)]

/-- An item read: its tag, its contents, and all its octets. -/
structure DerItem where
  tag : Byte
  body : List Byte
  raw : List Byte
/-- The first item of a list of octets, and what follows it. -/
def derRead : List Byte → Option (DerItem × List Byte)
  | tag :: n :: r =>
    let k := if n.toNat < 128 then 0 else n.toNat - 128
    let len := if n.toNat < 128 then n.toNat else beNum (r.take k)
    if n ≠ 0x80 ∧ k ≤ 3 ∧ k + len ≤ r.length then
      some (⟨tag, (r.drop k).take len, tag :: n :: r.take (k + len)⟩, r.drop (k + len))
    else none
  | _ => none
/-- All the items of a list of octets, at most `fuel` of them. -/
def derItems : (fuel : Nat) → List Byte → Option (List DerItem)
  | 0, l => if l.isEmpty then some [] else none
  | f + 1, l =>
    if l.isEmpty then some []
    else (derRead l).bind fun x => (derItems f x.2).map fun t => x.1 :: t
/-- The items of a sequence. -/
def derOpen (i : DerItem) : Option (List DerItem) := if i.tag = 0x30 then derItems 16 i.body else none

/-! ### Certificates (R576) -/

/-- What the checks read of a certificate: the octets that are signed, the serial number, the public key, and the signature. -/
structure Cert where
  signed : List Byte
  serial : List Byte
  key : List Byte
  r : List Byte
  s : List Byte
/-- The certificate at the head of a list of octets, with what follows it. -/
def readCert (l : List Byte) : Option (Cert × List Byte) := do
  let (c, rest) ← derRead l
  let [tbs, alg, sig] ← derOpen c | none
  let fields ← derOpen tbs
  let [serial, _, _, _, _, spki] := ((if (fields.map (·.tag)).head? = some 0xA0 then fields.drop 1 else fields).take 6) | none
  let [_, key] ← derOpen spki | none
  let (pair, _) ← derRead (sig.body.drop 1)
  let [r, s] ← derOpen pair | none
  if alg.raw = derSigAlg then some (⟨tbs.raw, serial.body, key.body.drop 1, r.body, s.body⟩, rest) else none
/-- The certificate verifies under a public key. -/
def certUnder (key : List Byte) (c : Cert) : Bool := ecdsaVerify key c.signed c.r c.s
/-- Device and intermediate certificate verify up to the root whose key the fuses name (R439, R577). -/
def chainGood (dev inter : Cert) : Bool := certUnder inter.key dev && certUnder rootPublic inter

/-- The subject of the device certificate: the ordering code and the stepping as DEV_ID reports them (R4). -/
def deviceSubject (order : Nat) : List Byte :=
  derSeq [derAttr 10 0x0C (ascii "Jarnoeg Computing"), derAttr 3 0x0C (ascii "WQ1024"),
    derAttr 11 0x0C (ascii (if order = 1 then "WQ1024-LC2 B0" else "WQ1024-LC3 B0")),
    derAttr 5 0x13 ((List.range 32).map fun i =>
      let d := bits Config.serial.toNat (4 * (31 - i)) 4
      BitVec.ofNat 8 (if d < 10 then 0x30 + d else 0x37 + d))]
/-- The device certificate that the part is made with. -/
def deviceCert (order : Nat) : List Byte :=
  let critical (n : Byte) (v : List Byte) : List Byte :=
    derSeq [der 0x06 [0x55, 0x1D, n], der 0x01 [0xFF], der 0x04 v]
  let tbs := derSeq [der 0xA0 (derUInt 1 2), derUInt 16 Config.serial.toNat, derSigAlg, Config.issuerName,
    derSeq [Config.notBefore, der 0x18 (ascii "99991231235959Z")], deviceSubject order, derKey lodestarPublic,
    der 0xA3 (derSeq [critical 19 (derSeq []), critical 15 (der 0x03 [0x07, 0x80])])]
  derSeq [tbs, derSigAlg, der 0x03 (0 :: derSeq [derUInt 48 (Config.deviceSig.extractLsb' 384 384).toNat,
    derUInt 48 (Config.deviceSig.extractLsb' 0 384).toNat])]

/-! ### The certificate region of the SPI NOR (R579) -/

/-- The region that the part is made with. -/
def madeRegion (order : Nat) : List Byte :=
  let dev := deviceCert order
  leBytes 4 1 ++ leBytes 4 Config.interCert.length ++ leBytes 4 dev.length ++ leBytes 4 0 ++
    beBytes 48 Config.rootCertDigest.toNat ++ Config.interCert ++ dev
/-- The digest of the root certificate, the intermediate and the device certificate of a region, if it can be parsed. -/
def regionChain (l : List Byte) : Option (List Byte × List Byte × List Byte) :=
  let li := leNum ((l.drop 4).take 4)
  let ld := leNum ((l.drop 8).take 4)
  if leNum (l.take 4) = 1 ∧ li + ld ≤ 57280 ∧ 64 + li + ld ≤ l.length then
    some ((l.drop 16).take 48, (l.drop 64).take li, (l.drop (64 + li)).take ld)
  else none
/-- A certificate that fills a list of octets. -/
def wholeCert (l : List Byte) : Option Cert := (readCert l).bind fun x => if x.2.isEmpty then some x.1 else none
/-- The identity check of boot (R577). -/
def identityGood (region : List Byte) : Bool :=
  match regionChain region with
  | some (_, inter, dev) => (match wholeCert inter, wholeCert dev with
    | some i, some d => d.key == lodestarPublic && chainGood d i
    | _, _ => false)
  | none => false
/-- The certificate chain of slot 0 as SPDM returns it: its length, the digest of the root, and the two certificates. -/
def spdmChain (region : List Byte) : List Byte :=
  match regionChain region with
  | some (root, inter, dev) => leBytes 4 (52 + inter.length + dev.length) ++ root ++ inter ++ dev
  | none => []

end Sys2Proof.Machine
end

