-- ==== Sys2Proof/Machine/Map.lean ====
section
/-! DEFINITION. The operations on sparse tables: look up, put, erase, and the two that keep the canonical
form for a table whose missing keys read as a default. -/
namespace Sys2Proof.Machine
open Sys2Proof

/-- The entry at a key, if one is listed. -/
def tlook {α : Type} : Tbl α → Nat → Option α
  | [], _ => none
  | (j, v) :: t, k => if j = k then some v else tlook t k

/-- Put an entry, keeping the keys strictly rising. -/
def tput {α : Type} : Tbl α → Nat → α → Tbl α
  | [], k, v => [(k, v)]
  | (j, u) :: t, k, v =>
    if k < j then (k, v) :: (j, u) :: t
    else if k = j then (k, v) :: t
    else (j, u) :: tput t k v

/-- Remove what is listed at a key. -/
def terase {α : Type} : Tbl α → Nat → Tbl α
  | [], _ => []
  | (j, u) :: t, k => if j = k then terase t k else (j, u) :: terase t k

/-- What a table reads at a key when missing keys read as `d`. -/
def tget {α : Type} (d : α) (m : Tbl α) (k : Nat) : α := (tlook m k).getD d

/-- Write at a key a table whose missing keys read as `d`: writing `d` removes the entry. -/
def tset {α : Type} [DecidableEq α] (d : α) (m : Tbl α) (k : Nat) (v : α) : Tbl α :=
  if v = d then terase m k else tput m k v

/-- The keys rise strictly. -/
def tsorted {α : Type} : Tbl α → Bool
  | [] => true
  | [_] => true
  | (j, _) :: (k, v) :: t => decide (j < k) && tsorted ((k, v) :: t)

/-- The canonical form of a table whose missing keys read as `d`. -/
def tcanon {α : Type} [DecidableEq α] (d : α) (m : Tbl α) : Bool :=
  tsorted m && m.all (fun e => decide (e.2 ≠ d))

end Sys2Proof.Machine
end

