-- ==== Sys2Proof/Machine/RegTypes.lean ====
section
/-! DEFINITION. The types of the register map: the field types of R18, a register field with its place, and a
register of the tables with its fields. -/
namespace Sys2Proof.Machine

/-- The field types of R18. Reserved fields are not listed: what no field covers is reserved (R19). -/
inductive FTy where
  | rw | ro | w1c | w1s | rc | wo
  deriving DecidableEq, Repr

/-- One field of one register: the register's BAR0 offset, the field's lowest bit and width, its type and its value
after power-on reset (R17). -/
structure Fld where
  addr : Nat
  lo : Nat
  w : Nat
  ty : FTy
  rst : Nat
  deriving DecidableEq, Repr

/-- The registers of the map, by name (R627). -/
inductive RegName where
  | array_fault
  | lease_map
  | survey_yield
  | pemem_ecc
  | pemem_err_cap
  | pemem_ce_col
  | pemem_inj
  | spare_map
  | mseq_ctl
  | mseq_status
  | mseq_snd
  | mseq_lat
  | alm_ecc
  | alm_err_cap
  | resume0
  | resume1
  | resume2
  | resume3
  | resume4
  | resume5
  | resume6
  | resume7
  | edge_cfg
  | edge_status
  | halo_stat
  | snd_tree_err
  | scmd
  | smode
  | slice_sel
  | sflags
  | sutor_stat
  | wp_addr
  | wp_cmd
  | wp_stat
  | lane_exc
  | seq_ctl
  | seq_status
  | park_ctl
  | rb_sel
  | rb_data
  | hmsg_in
  | hmsg_out
  | timer
  | spad_starve
  | spad_wait
  | part_cmd
  | part_stat
  | part_map
  | ring_base
  | ring_cfg
  | ring_ptr
  | ring_stat
  | func_cfg
  | func_stat
  | rg_owner
  | stg_ecc
  | stg_err_cap
  | stg_coll
  | stg_conflict
  | hbm_seed
  | chart_cnt
  | chart_ecc
  | chart_rd
  | chart_rd_data
  | hot_cfg
  | hot_cnt
  | hbm_stat
  | hbm_err
  | hbm_xlat
  | dma_stat
  | noc_ctl
  | noc_tmo
  | noc_err_cap
  | router_ctl
  | router_stat
  | ni_stat
  | ni_ecc
  | link_ctl
  | link_stat
  | link_peer
  | lane_map
  | lane_cmd
  | lane_mode
  | link_err
  | link_err2
  | lane_err
  | tun_laddr
  | tun_raddr
  | tun_cmd
  | tun_stat
  | fleet_id
  | link_wake
  | mer_time
  | mer_ctl
  | mer_stat
  | bar_cfg
  | bar_stat
  | watch_cfg
  | watch_mode
  | watch_stat
  | watch_next
  | fab_stat
  | fab_clk
  | fab_cap
  | fab_rb_sel
  | fab_rb_data
  | fab_blk
  | pwr_dom
  | pwr_cfg
  | pwr_wakemap
  | gov_ctl
  | gov_stat
  | pwr_grant
  | wake_cause
  | wake_time
  | wake_en
  | aon_timer
  | aon_time
  | sutor_res
  | seq_ecc
  | tlog_t0
  | tlog_t1
  | tlog_stat
  | dlog_ptr
  | dev_err
  | survey_ctl
  | survey_stat
  | hbm_recal
  | fw_ctl
  | fw_src
  | sec_stat
  | sec_ctl
  | acl_perm
  | acl_base
  | acl_limit
  | acl_ctl
  | dev_id
  | rst_cause
  | boot_stat
  | dom_rst
  deriving DecidableEq, Repr

/-- One register of the tables: its name, its first BAR0 offset, its two instance counts and strides, and its fields
as (lowest bit, width, type, reset). -/
structure RegRow where
  name : RegName
  base : Nat
  n1 : Nat
  s1 : Nat
  n2 : Nat
  s2 : Nat
  flds : List (Nat × Nat × FTy × Nat)
  deriving DecidableEq, Repr

end Sys2Proof.Machine
end

