-- ==== Sys2Proof/Machine/Regs.lean ====
section
/-! DEFINITION. The register fields of the register tables (R17, R18): for every field its place, width, type and
value after power-on reset, and one row per register with its fields, from the tables of the defining chapters,
the block bases of R620 and the index of R627. -/
namespace Sys2Proof.Machine
open Sys2Proof

/-! Values that boot loads: the access tables (R571) and the router ports (R422). -/

/-- Master IDs that are never carried (R566). -/
def masterReserved (m : Nat) : Bool := decide (0x66 ≤ m ∧ m ≤ 0x7F) || decide (0xC0 ≤ m)
/-- Node numbers that name a block (R392). -/
def nodeExists (d : Nat) : Bool := decide (d ≤ 0xA4) || decide (0xA8 ≤ d ∧ d ≤ 0xAC)
/-- BASE and LIMIT of region r at node d as boot loads them (R571). -/
def bootRegion (d r : Nat) : Nat × Nat :=
  let regs := (0x20000000, 0x23FFFFC0)
  if nodeExists d then
    if 0x60 ≤ d ∧ d ≤ 0x7F then (if r = 0 then (0, 0x3FFFFC0) else (0, 0))
    else if d ≤ 0x3F then
      (match r with | 0 => (0x10000000 + d * 0x20000, 0x10000000 + d * 0x20000 + 0x1FFC0) | 1 => regs | _ => (0, 0))
    else if d ≤ 0x5F then
      (match r with | 0 => (0x2000000000, 0x3FFFFFFFC0) | 1 => (0x4000000000, 0x5FFFFFFFC0) | _ => (0, 0))
    else (if r = 0 then regs else (0, 0))
  else (0, 0)
/-- EN of region r at node d as boot loads it (R571). -/
def bootEn (d r : Nat) : Nat := if bootRegion d r = (0, 0) then 0 else 1
/-- Permission bit k of master m at node d as boot loads it (R571). -/
def bootPerm (d m k : Nat) : Nat :=
  if bootEn d (k / 2) = 1 ∧ masterReserved m = false then
    if 0x40 ≤ d ∧ d ≤ 0x5F ∧ k / 2 = 1 then
      (if (0x40 ≤ m ∧ m ≤ 0x4F) ∨ m = 0x61 ∨ m = 0x80 then 1 else 0)
    else 1
  else 0
/-- The ports N, E, S, W of router r that exist, one bit each: 40 routers in five rows of eight (R391). -/
def routerPorts (r : Nat) : Nat :=
  (if 8 ≤ r then 1 else 0) + (if r % 8 < 7 then 2 else 0) + (if r < 32 then 4 else 0) + (if 0 < r % 8 then 8 else 0)

/-! ARRAY_FAULT (R58) -/
def fARRAY_FAULT_ADDR_FAULT (i : Nat) : Fld := ⟨0x240 + 0x1000 * i, 0, 1, .w1c, 0⟩
def fARRAY_FAULT_FAULT_EN (i : Nat) : Fld := ⟨0x240 + 0x1000 * i, 1, 1, .rw, 0⟩
def fARRAY_FAULT_FAULT_OVF (i : Nat) : Fld := ⟨0x240 + 0x1000 * i, 2, 1, .w1c, 0⟩
def fARRAY_FAULT_PORT_A (i : Nat) : Fld := ⟨0x240 + 0x1000 * i, 4, 1, .ro, 0⟩
def fARRAY_FAULT_PORT_B (i : Nat) : Fld := ⟨0x240 + 0x1000 * i, 5, 1, .ro, 0⟩
def fARRAY_FAULT_PORT_C (i : Nat) : Fld := ⟨0x240 + 0x1000 * i, 6, 1, .ro, 0⟩
def fARRAY_FAULT_FAULT_UPC (i : Nat) : Fld := ⟨0x240 + 0x1000 * i, 16, 13, .ro, 0⟩
def fARRAY_FAULT_FAULT_EA (i : Nat) : Fld := ⟨0x240 + 0x1000 * i, 32, 13, .ro, 0⟩
/-! LEASE_MAP (R83) -/
def fLEASE_MAP_FREE (i : Nat) : Fld := ⟨0x300 + 0x1000 * i, 0, 64, .rw, 0⟩
/-! SURVEY_YIELD (R84) -/
def fSURVEY_YIELD_YIELDS (i : Nat) : Fld := ⟨0x308 + 0x1000 * i, 0, 32, .rc, 0⟩
def fSURVEY_YIELD_MAX_STALL (i : Nat) : Fld := ⟨0x308 + 0x1000 * i, 32, 8, .rc, 0⟩
def fSURVEY_YIELD_BORROWED (i : Nat) : Fld := ⟨0x308 + 0x1000 * i, 40, 1, .ro, 0⟩
def fSURVEY_YIELD_BROW (i : Nat) : Fld := ⟨0x308 + 0x1000 * i, 48, 12, .ro, 0⟩
/-! PEMEM_ECC (R85) -/
def fPEMEM_ECC_CE_CNT (i : Nat) : Fld := ⟨0x310 + 0x1000 * i, 0, 32, .rc, 0⟩
def fPEMEM_ECC_UE_CNT (i : Nat) : Fld := ⟨0x310 + 0x1000 * i, 32, 16, .rc, 0⟩
def fPEMEM_ECC_CE_THR (i : Nat) : Fld := ⟨0x310 + 0x1000 * i, 48, 16, .rw, 0⟩
/-! PEMEM_ERR_CAP (R86) -/
def fPEMEM_ERR_CAP_VALID (i : Nat) : Fld := ⟨0x318 + 0x1000 * i, 0, 1, .w1c, 0⟩
def fPEMEM_ERR_CAP_OVF (i : Nat) : Fld := ⟨0x318 + 0x1000 * i, 1, 1, .w1c, 0⟩
def fPEMEM_ERR_CAP_UE (i : Nat) : Fld := ⟨0x318 + 0x1000 * i, 2, 1, .ro, 0⟩
def fPEMEM_ERR_CAP_CHK (i : Nat) : Fld := ⟨0x318 + 0x1000 * i, 3, 1, .ro, 0⟩
def fPEMEM_ERR_CAP_SRC (i : Nat) : Fld := ⟨0x318 + 0x1000 * i, 4, 3, .ro, 0⟩
def fPEMEM_ERR_CAP_POS (i : Nat) : Fld := ⟨0x318 + 0x1000 * i, 8, 6, .ro, 0⟩
def fPEMEM_ERR_CAP_SROW (i : Nat) : Fld := ⟨0x318 + 0x1000 * i, 16, 4, .ro, 0⟩
def fPEMEM_ERR_CAP_PCOL (i : Nat) : Fld := ⟨0x318 + 0x1000 * i, 20, 5, .ro, 0⟩
def fPEMEM_ERR_CAP_ROW (i : Nat) : Fld := ⟨0x318 + 0x1000 * i, 32, 12, .ro, 0⟩
def fPEMEM_ERR_CAP_UPC (i : Nat) : Fld := ⟨0x318 + 0x1000 * i, 48, 13, .ro, 0⟩
/-! PEMEM_CE_COL (R88) -/
def fPEMEM_CE_COL (i c : Nat) : Fld := ⟨0x320 + 0x1000 * i + 8 * (c / 8), 8 * (c % 8), 8, .rc, 0⟩
/-! PEMEM_INJ (R89) -/
def fPEMEM_INJ_ARM (i : Nat) : Fld := ⟨0x338 + 0x1000 * i, 0, 1, .w1s, 0⟩
def fPEMEM_INJ_DOUBLE (i : Nat) : Fld := ⟨0x338 + 0x1000 * i, 1, 1, .rw, 0⟩
def fPEMEM_INJ_POS1 (i : Nat) : Fld := ⟨0x338 + 0x1000 * i, 8, 7, .rw, 0⟩
def fPEMEM_INJ_POS2 (i : Nat) : Fld := ⟨0x338 + 0x1000 * i, 16, 7, .rw, 0⟩
def fPEMEM_INJ_SROW (i : Nat) : Fld := ⟨0x338 + 0x1000 * i, 24, 4, .rw, 0⟩
def fPEMEM_INJ_PCOL (i : Nat) : Fld := ⟨0x338 + 0x1000 * i, 28, 5, .rw, 0⟩
def fPEMEM_INJ_ROW (i : Nat) : Fld := ⟨0x338 + 0x1000 * i, 36, 12, .rw, 0⟩
/-! SPARE_MAP (R91) -/
def fSPARE_MAP_FAILED_COL (i : Nat) : Fld := ⟨0x340 + 0x1000 * i, 0, 5, .ro, 0⟩
def fSPARE_MAP_ACTIVE (i : Nat) : Fld := ⟨0x340 + 0x1000 * i, 8, 1, .ro, 0⟩
def fSPARE_MAP_SPARE_BAD (i : Nat) : Fld := ⟨0x340 + 0x1000 * i, 9, 1, .ro, 0⟩
def fSPARE_MAP_COPY_BUSY (i : Nat) : Fld := ⟨0x340 + 0x1000 * i, 10, 1, .ro, 0⟩
/-! MSEQ_CTL (R126) -/
def fMSEQ_CTL_YIELD_REQ (i : Nat) : Fld := ⟨0x200 + 0x1000 * i, 0, 1, .w1s, 0⟩
def fMSEQ_CTL_RESUME (i : Nat) : Fld := ⟨0x200 + 0x1000 * i, 1, 1, .w1s, 0⟩
def fMSEQ_CTL_ABORT (i : Nat) : Fld := ⟨0x200 + 0x1000 * i, 2, 1, .w1s, 0⟩
/-! MSEQ_STATUS (R127) -/
def fMSEQ_STATUS_STATE (i : Nat) : Fld := ⟨0x208 + 0x1000 * i, 0, 3, .ro, 0⟩
def fMSEQ_STATUS_QCNT (i : Nat) : Fld := ⟨0x208 + 0x1000 * i, 4, 5, .ro, 0⟩
def fMSEQ_STATUS_DEPTH (i : Nat) : Fld := ⟨0x208 + 0x1000 * i, 9, 3, .ro, 0⟩
def fMSEQ_STATUS_STK_OVF (i : Nat) : Fld := ⟨0x208 + 0x1000 * i, 12, 1, .w1c, 0⟩
def fMSEQ_STATUS_STK_UNF (i : Nat) : Fld := ⟨0x208 + 0x1000 * i, 13, 1, .w1c, 0⟩
def fMSEQ_STATUS_CENSUS_DONE (i : Nat) : Fld := ⟨0x208 + 0x1000 * i, 14, 1, .ro, 1⟩
def fMSEQ_STATUS_HALO_DONE (i : Nat) : Fld := ⟨0x208 + 0x1000 * i, 15, 1, .ro, 1⟩
def fMSEQ_STATUS_UPC (i : Nat) : Fld := ⟨0x208 + 0x1000 * i, 16, 13, .ro, 0⟩
def fMSEQ_STATUS_PEND_SW (i : Nat) : Fld := ⟨0x208 + 0x1000 * i, 32, 1, .ro, 0⟩
def fMSEQ_STATUS_PEND_RB (i : Nat) : Fld := ⟨0x208 + 0x1000 * i, 33, 1, .ro, 0⟩
def fMSEQ_STATUS_PEND_SP (i : Nat) : Fld := ⟨0x208 + 0x1000 * i, 34, 1, .ro, 0⟩
/-! MSEQ_SND (R128) -/
def fMSEQ_SND_LAST_SND (i : Nat) : Fld := ⟨0x210 + 0x1000 * i, 0, 1, .ro, 0⟩
def fMSEQ_SND_CEN_VALID (i : Nat) : Fld := ⟨0x210 + 0x1000 * i, 1, 1, .ro, 0⟩
def fMSEQ_SND_LAST_CENSUS (i : Nat) : Fld := ⟨0x210 + 0x1000 * i, 32, 21, .ro, 0⟩
/-! MSEQ_LAT (R129) -/
def fMSEQ_LAT_LN_H1 (i : Nat) : Fld := ⟨0x218 + 0x1000 * i, 0, 4, .ro, 0⟩
def fMSEQ_LAT_LN_H64 (i : Nat) : Fld := ⟨0x218 + 0x1000 * i, 4, 4, .ro, 0⟩
def fMSEQ_LAT_L_SND (i : Nat) : Fld := ⟨0x218 + 0x1000 * i, 8, 4, .ro, 0⟩
def fMSEQ_LAT_BDEPTH (i : Nat) : Fld := ⟨0x218 + 0x1000 * i, 12, 4, .ro, 0⟩
def fMSEQ_LAT_L_CEN (i : Nat) : Fld := ⟨0x218 + 0x1000 * i, 16, 5, .ro, 0⟩
def fMSEQ_LAT_SPAN (i : Nat) : Fld := ⟨0x218 + 0x1000 * i, 21, 2, .ro, 0⟩
/-! ALM_ECC (R130) -/
def fALM_ECC_CE_CNT (i : Nat) : Fld := ⟨0x228 + 0x1000 * i, 0, 32, .rc, 0⟩
def fALM_ECC_UE_CNT (i : Nat) : Fld := ⟨0x228 + 0x1000 * i, 32, 16, .rc, 0⟩
def fALM_ECC_BC_CE (i : Nat) : Fld := ⟨0x228 + 0x1000 * i, 48, 8, .rc, 0⟩
def fALM_ECC_BC_UE (i : Nat) : Fld := ⟨0x228 + 0x1000 * i, 56, 8, .rc, 0⟩
/-! ALM_ERR_CAP (R131) -/
def fALM_ERR_CAP_VALID (i : Nat) : Fld := ⟨0x230 + 0x1000 * i, 0, 1, .w1c, 0⟩
def fALM_ERR_CAP_OVF (i : Nat) : Fld := ⟨0x230 + 0x1000 * i, 1, 1, .w1c, 0⟩
def fALM_ERR_CAP_UE (i : Nat) : Fld := ⟨0x230 + 0x1000 * i, 2, 1, .ro, 0⟩
def fALM_ERR_CAP_BCAST (i : Nat) : Fld := ⟨0x230 + 0x1000 * i, 3, 1, .ro, 0⟩
def fALM_ERR_CAP_POS (i : Nat) : Fld := ⟨0x230 + 0x1000 * i, 8, 8, .ro, 0⟩
def fALM_ERR_CAP_UPC (i : Nat) : Fld := ⟨0x230 + 0x1000 * i, 16, 13, .ro, 0⟩
def fALM_ERR_CAP_FIELD (i : Nat) : Fld := ⟨0x230 + 0x1000 * i, 32, 6, .ro, 0⟩
def fALM_ERR_CAP_STAGE (i : Nat) : Fld := ⟨0x230 + 0x1000 * i, 38, 2, .ro, 0⟩
/-! RESUME0 (R132) -/
def fRESUME0_VALID (i : Nat) : Fld := ⟨0x400 + 0x1000 * i, 0, 1, .rw, 0⟩
def fRESUME0_KIND (i : Nat) : Fld := ⟨0x400 + 0x1000 * i, 1, 3, .rw, 0⟩
def fRESUME0_IN_HOLD (i : Nat) : Fld := ⟨0x400 + 0x1000 * i, 4, 1, .rw, 0⟩
def fRESUME0_HOLD_REM (i : Nat) : Fld := ⟨0x400 + 0x1000 * i, 5, 9, .rw, 0⟩
def fRESUME0_UPC (i : Nat) : Fld := ⟨0x400 + 0x1000 * i, 16, 13, .rw, 0⟩
def fRESUME0_DEPTH (i : Nat) : Fld := ⟨0x400 + 0x1000 * i, 32, 3, .rw, 0⟩
/-! RESUME1 (R133) -/
def fRESUME1_C0 (i : Nat) : Fld := ⟨0x408 + 0x1000 * i, 0, 16, .rw, 0⟩
def fRESUME1_C1 (i : Nat) : Fld := ⟨0x408 + 0x1000 * i, 16, 16, .rw, 0⟩
def fRESUME1_C0_INIT (i : Nat) : Fld := ⟨0x408 + 0x1000 * i, 32, 16, .rw, 0⟩
def fRESUME1_C1_INIT (i : Nat) : Fld := ⟨0x408 + 0x1000 * i, 48, 16, .rw, 0⟩
/-! RESUME2 (R133) -/
def fRESUME2_P1 (i : Nat) : Fld := ⟨0x410 + 0x1000 * i, 0, 13, .rw, 0⟩
def fRESUME2_P2 (i : Nat) : Fld := ⟨0x410 + 0x1000 * i, 16, 13, .rw, 0⟩
def fRESUME2_P3 (i : Nat) : Fld := ⟨0x410 + 0x1000 * i, 32, 13, .rw, 0⟩
def fRESUME2_DPARAM (i : Nat) : Fld := ⟨0x410 + 0x1000 * i, 48, 16, .rw, 0⟩
/-! RESUME3 (R133) -/
def fRESUME3_P1_INIT (i : Nat) : Fld := ⟨0x418 + 0x1000 * i, 0, 13, .rw, 0⟩
def fRESUME3_P2_INIT (i : Nat) : Fld := ⟨0x418 + 0x1000 * i, 16, 13, .rw, 0⟩
def fRESUME3_P3_INIT (i : Nat) : Fld := ⟨0x418 + 0x1000 * i, 32, 13, .rw, 0⟩
/-! RESUME4 (R134) -/
def fRESUME4_STK0 (i : Nat) : Fld := ⟨0x420 + 0x1000 * i, 0, 13, .rw, 0⟩
def fRESUME4_STK1 (i : Nat) : Fld := ⟨0x420 + 0x1000 * i, 16, 13, .rw, 0⟩
def fRESUME4_STK2 (i : Nat) : Fld := ⟨0x420 + 0x1000 * i, 32, 13, .rw, 0⟩
def fRESUME4_STK3 (i : Nat) : Fld := ⟨0x420 + 0x1000 * i, 48, 13, .rw, 0⟩
/-! RESUME5 (R135) -/
def fRESUME5_LAST_SND (i : Nat) : Fld := ⟨0x428 + 0x1000 * i, 0, 1, .rw, 0⟩
def fRESUME5_PVLD (i : Nat) : Fld := ⟨0x428 + 0x1000 * i, 1, 9, .rw, 0⟩
def fRESUME5_PVAL (i : Nat) : Fld := ⟨0x428 + 0x1000 * i, 10, 9, .rw, 0⟩
def fRESUME5_CEN_VALID (i : Nat) : Fld := ⟨0x428 + 0x1000 * i, 19, 1, .rw, 0⟩
def fRESUME5_LAST_CENSUS (i : Nat) : Fld := ⟨0x428 + 0x1000 * i, 32, 21, .rw, 0⟩
/-! RESUME6 (R135): the fields of XSTATE (R214) -/
def fRESUME6_FRA (i : Nat) : Fld := ⟨0x430 + 0x1000 * i, 0, 7, .rw, 0⟩
def fRESUME6_FRB (i : Nat) : Fld := ⟨0x430 + 0x1000 * i, 8, 7, .rw, 0⟩
def fRESUME6_BANK (i : Nat) : Fld := ⟨0x430 + 0x1000 * i, 15, 1, .rw, 0⟩
def fRESUME6_LP (i : Nat) : Fld := ⟨0x430 + 0x1000 * i, 16, 7, .rw, 0⟩
def fRESUME6_OPT (i : Nat) : Fld := ⟨0x430 + 0x1000 * i, 24, 6, .rw, 0⟩
/-! RESUME7 (R135): the fields of CSTATE (R215) -/
def fRESUME7_PEND (i : Nat) : Fld := ⟨0x438 + 0x1000 * i, 0, 1, .rw, 0⟩
def fRESUME7_EXC (i : Nat) : Fld := ⟨0x438 + 0x1000 * i, 1, 1, .rw, 0⟩
def fRESUME7_ACTION (i : Nat) : Fld := ⟨0x438 + 0x1000 * i, 2, 2, .rw, 0⟩
def fRESUME7_CAUSE (i : Nat) : Fld := ⟨0x438 + 0x1000 * i, 4, 3, .rw, 0⟩
def fRESUME7_GFLAGS (i : Nat) : Fld := ⟨0x438 + 0x1000 * i, 8, 8, .rw, 0⟩
def fRESUME7_EFLAGS (i : Nat) : Fld := ⟨0x438 + 0x1000 * i, 16, 8, .rw, 0⟩
/-! EDGE_CFG (R172) -/
def fEDGE_CFG_MODE_N (i : Nat) : Fld := ⟨0x260 + 0x1000 * i, 0, 2, .rw, 0⟩
def fEDGE_CFG_MODE_E (i : Nat) : Fld := ⟨0x260 + 0x1000 * i, 2, 2, .rw, 0⟩
def fEDGE_CFG_MODE_S (i : Nat) : Fld := ⟨0x260 + 0x1000 * i, 4, 2, .rw, 0⟩
def fEDGE_CFG_MODE_W (i : Nat) : Fld := ⟨0x260 + 0x1000 * i, 6, 2, .rw, 0⟩
def fEDGE_CFG_HALO_N (i : Nat) : Fld := ⟨0x260 + 0x1000 * i, 8, 1, .rw, 0⟩
def fEDGE_CFG_HALO_E (i : Nat) : Fld := ⟨0x260 + 0x1000 * i, 9, 1, .rw, 0⟩
def fEDGE_CFG_HALO_S (i : Nat) : Fld := ⟨0x260 + 0x1000 * i, 10, 1, .rw, 0⟩
def fEDGE_CFG_HALO_W (i : Nat) : Fld := ⟨0x260 + 0x1000 * i, 11, 1, .rw, 0⟩
/-! EDGE_STATUS (R173) -/
def fEDGE_STATUS_CFG_REJ (i : Nat) : Fld := ⟨0x268 + 0x1000 * i, 0, 1, .w1c, 0⟩
def fEDGE_STATUS_REJ_WHY (i : Nat) : Fld := ⟨0x268 + 0x1000 * i, 1, 2, .ro, 0⟩
def fEDGE_STATUS_FAB_HOP (i : Nat) : Fld := ⟨0x268 + 0x1000 * i, 4, 1, .w1c, 0⟩
def fEDGE_STATUS_EDGE_DARK (i : Nat) : Fld := ⟨0x268 + 0x1000 * i, 5, 1, .w1c, 0⟩
def fEDGE_STATUS_HALO_SPUR (i : Nat) : Fld := ⟨0x268 + 0x1000 * i, 6, 1, .w1c, 0⟩
def fEDGE_STATUS_HALO_OVF (i : Nat) : Fld := ⟨0x268 + 0x1000 * i, 7, 1, .w1c, 0⟩
def fEDGE_STATUS_PKG_EDGES (i : Nat) : Fld := ⟨0x268 + 0x1000 * i, 8, 4, .ro, 0⟩
/-! HALO_STAT (R174) -/
def fHALO_STAT_OUTST_N (i : Nat) : Fld := ⟨0x270 + 0x1000 * i, 0, 4, .ro, 0⟩
def fHALO_STAT_OUTST_E (i : Nat) : Fld := ⟨0x270 + 0x1000 * i, 4, 4, .ro, 0⟩
def fHALO_STAT_OUTST_S (i : Nat) : Fld := ⟨0x270 + 0x1000 * i, 8, 4, .ro, 0⟩
def fHALO_STAT_OUTST_W (i : Nat) : Fld := ⟨0x270 + 0x1000 * i, 12, 4, .ro, 0⟩
def fHALO_STAT_CLR (i : Nat) : Fld := ⟨0x270 + 0x1000 * i, 16, 1, .wo, 0⟩
def fHALO_STAT_HALO_AGE (i : Nat) : Fld := ⟨0x270 + 0x1000 * i, 32, 32, .ro, 0⟩
/-! SND_TREE_ERR (R175) -/
def fSND_TREE_ERR_MM_CNT (i : Nat) : Fld := ⟨0x278 + 0x1000 * i, 0, 16, .rc, 0⟩
def fSND_TREE_ERR_VALID (i : Nat) : Fld := ⟨0x278 + 0x1000 * i, 16, 1, .w1c, 0⟩
def fSND_TREE_ERR_OVF (i : Nat) : Fld := ⟨0x278 + 0x1000 * i, 17, 1, .w1c, 0⟩
def fSND_TREE_ERR_CEN (i : Nat) : Fld := ⟨0x278 + 0x1000 * i, 18, 1, .ro, 0⟩
def fSND_TREE_ERR_LEVEL (i : Nat) : Fld := ⟨0x278 + 0x1000 * i, 20, 2, .ro, 0⟩
def fSND_TREE_ERR_TILE (i : Nat) : Fld := ⟨0x278 + 0x1000 * i, 22, 2, .ro, 0⟩
def fSND_TREE_ERR_FIELD (i : Nat) : Fld := ⟨0x278 + 0x1000 * i, 24, 6, .ro, 0⟩
def fSND_TREE_ERR_SLICE (i : Nat) : Fld := ⟨0x278 + 0x1000 * i, 32, 8, .ro, 0⟩
def fSND_TREE_ERR_UPC (i : Nat) : Fld := ⟨0x278 + 0x1000 * i, 48, 13, .ro, 0⟩
/-! SCMD (R207) -/
def fSCMD_OP (i : Nat) : Fld := ⟨0x500 + 0x1000 * i, 0, 6, .rw, 0⟩
def fSCMD_FMT (i : Nat) : Fld := ⟨0x500 + 0x1000 * i, 8, 4, .rw, 0⟩
def fSCMD_SFMT (i : Nat) : Fld := ⟨0x500 + 0x1000 * i, 12, 4, .rw, 0⟩
def fSCMD_SGN (i : Nat) : Fld := ⟨0x500 + 0x1000 * i, 16, 1, .rw, 0⟩
def fSCMD_ASEL (i : Nat) : Fld := ⟨0x500 + 0x1000 * i, 17, 1, .rw, 0⟩
def fSCMD_DST (i : Nat) : Fld := ⟨0x500 + 0x1000 * i, 18, 1, .rw, 0⟩
/-! SMODE (R208) -/
def fSMODE_RM (i : Nat) : Fld := ⟨0x508 + 0x1000 * i, 0, 3, .rw, 0⟩
def fSMODE_TEN (i : Nat) : Fld := ⟨0x508 + 0x1000 * i, 8, 8, .rw, 0⟩
/-! SLICE_SEL (R209) -/
def fSLICE_SEL_ALL (i : Nat) : Fld := ⟨0x510 + 0x1000 * i, 0, 1, .rw, 1⟩
def fSLICE_SEL_FIELD (i : Nat) : Fld := ⟨0x510 + 0x1000 * i, 8, 6, .rw, 0⟩
def fSLICE_SEL_SLICE (i : Nat) : Fld := ⟨0x510 + 0x1000 * i, 16, 8, .rw, 0⟩
/-! SFLAGS (R210) -/
def fSFLAGS_STICKY (i : Nat) : Fld := ⟨0x518 + 0x1000 * i, 0, 8, .w1c, 0⟩
def fSFLAGS_PEND_FLAGS (i : Nat) : Fld := ⟨0x518 + 0x1000 * i, 8, 8, .ro, 0⟩
/-! SUTOR_STAT (R211) -/
def fSUTOR_STAT_BUSY (i : Nat) : Fld := ⟨0x520 + 0x1000 * i, 0, 1, .ro, 0⟩
def fSUTOR_STAT_PEND (i : Nat) : Fld := ⟨0x520 + 0x1000 * i, 1, 1, .ro, 0⟩
def fSUTOR_STAT_CMD_REJ (i : Nat) : Fld := ⟨0x520 + 0x1000 * i, 2, 1, .w1c, 0⟩
def fSUTOR_STAT_MODE_REJ (i : Nat) : Fld := ⟨0x520 + 0x1000 * i, 3, 1, .w1c, 0⟩
def fSUTOR_STAT_LD_OVF (i : Nat) : Fld := ⟨0x520 + 0x1000 * i, 4, 1, .w1c, 0⟩
def fSUTOR_STAT_TO_LOST (i : Nat) : Fld := ⟨0x520 + 0x1000 * i, 5, 1, .w1c, 0⟩
def fSUTOR_STAT_BP (i : Nat) : Fld := ⟨0x520 + 0x1000 * i, 6, 1, .w1c, 0⟩
/-! WP_ADDR (R212) -/
def fWP_ADDR_ADDR (i : Nat) : Fld := ⟨0x528 + 0x1000 * i, 6, 42, .rw, 0⟩
/-! WP_CMD (R212) -/
def fWP_CMD_DIR (i : Nat) : Fld := ⟨0x530 + 0x1000 * i, 0, 1, .rw, 0⟩
def fWP_CMD_SRC (i : Nat) : Fld := ⟨0x530 + 0x1000 * i, 1, 1, .rw, 0⟩
def fWP_CMD_ESIZE (i : Nat) : Fld := ⟨0x530 + 0x1000 * i, 2, 2, .rw, 0⟩
def fWP_CMD_FSTRIDE (i : Nat) : Fld := ⟨0x530 + 0x1000 * i, 16, 24, .rw, 0⟩
/-! WP_STAT (R212) -/
def fWP_STAT_BUSY (i : Nat) : Fld := ⟨0x538 + 0x1000 * i, 0, 1, .ro, 0⟩
def fWP_STAT_ERR (i : Nat) : Fld := ⟨0x538 + 0x1000 * i, 1, 1, .w1c, 0⟩
def fWP_STAT_STATUS (i : Nat) : Fld := ⟨0x538 + 0x1000 * i, 8, 4, .ro, 0⟩
def fWP_STAT_FIELD (i : Nat) : Fld := ⟨0x538 + 0x1000 * i, 16, 6, .ro, 0⟩
/-! LANE_EXC (R213) -/
/-! SEQ_CTL (R310) -/
def fSEQ_CTL_HALT (i : Nat) : Fld := ⟨0x0 + 0x1000 * i, 0, 1, .w1s, 0⟩
def fSEQ_CTL_PREQ (i : Nat) : Fld := ⟨0x0 + 0x1000 * i, 1, 1, .wo, 0⟩
/-! SEQ_STATUS (R311) -/
def fSEQ_STATUS_CORE (i : Nat) : Fld := ⟨0x8 + 0x1000 * i, 0, 2, .ro, 0⟩
def fSEQ_STATUS_IN_TRAP (i : Nat) : Fld := ⟨0x8 + 0x1000 * i, 2, 1, .ro, 0⟩
def fSEQ_STATUS_ATRAP_PEND (i : Nat) : Fld := ⟨0x8 + 0x1000 * i, 3, 1, .ro, 0⟩
def fSEQ_STATUS_MSG_FULL (i : Nat) : Fld := ⟨0x8 + 0x1000 * i, 4, 1, .ro, 0⟩
def fSEQ_STATUS_MSG_OVF (i : Nat) : Fld := ⟨0x8 + 0x1000 * i, 5, 1, .w1c, 0⟩
def fSEQ_STATUS_HOSTREJ (i : Nat) : Fld := ⟨0x8 + 0x1000 * i, 6, 1, .w1c, 0⟩
def fSEQ_STATUS_HALT_WHY (i : Nat) : Fld := ⟨0x8 + 0x1000 * i, 8, 3, .ro, 0⟩
def fSEQ_STATUS_DT_CAUSE (i : Nat) : Fld := ⟨0x8 + 0x1000 * i, 16, 5, .ro, 0⟩
def fSEQ_STATUS_MASTER (i : Nat) : Fld := ⟨0x8 + 0x1000 * i, 24, 6, .ro, 0⟩
def fSEQ_STATUS_IS_MASTER (i : Nat) : Fld := ⟨0x8 + 0x1000 * i, 30, 1, .ro, 0⟩
def fSEQ_STATUS_IN_PART (i : Nat) : Fld := ⟨0x8 + 0x1000 * i, 31, 1, .ro, 0⟩
/-! PARK_CTL (R312) -/
def fPARK_CTL_PARK (i : Nat) : Fld := ⟨0x10 + 0x1000 * i, 0, 1, .w1s, 0⟩
def fPARK_CTL_UNPARK (i : Nat) : Fld := ⟨0x10 + 0x1000 * i, 1, 1, .w1s, 0⟩
def fPARK_CTL_DROP (i : Nat) : Fld := ⟨0x10 + 0x1000 * i, 2, 1, .w1s, 0⟩
def fPARK_CTL_REJ (i : Nat) : Fld := ⟨0x10 + 0x1000 * i, 3, 1, .w1c, 0⟩
def fPARK_CTL_PLOST (i : Nat) : Fld := ⟨0x10 + 0x1000 * i, 4, 1, .w1c, 0⟩
def fPARK_CTL_PCNT (i : Nat) : Fld := ⟨0x10 + 0x1000 * i, 8, 5, .ro, 0⟩
/-! RB_SEL (R313) -/
def fRB_SEL_KIND (i : Nat) : Fld := ⟨0x18 + 0x1000 * i, 0, 4, .rw, 0⟩
def fRB_SEL_FIELD (i : Nat) : Fld := ⟨0x18 + 0x1000 * i, 8, 6, .rw, 0⟩
def fRB_SEL_SLICE (i : Nat) : Fld := ⟨0x18 + 0x1000 * i, 16, 8, .rw, 0⟩
def fRB_SEL_INDEX (i : Nat) : Fld := ⟨0x18 + 0x1000 * i, 32, 12, .rw, 0⟩
def fRB_SEL_RB_UE (i : Nat) : Fld := ⟨0x18 + 0x1000 * i, 62, 1, .ro, 0⟩
/-! RB_DATA (R313) -/
def fRB_DATA_DATA (i : Nat) : Fld := ⟨0x20 + 0x1000 * i, 0, 64, .ro, 0⟩
/-! HMSG_IN (R314) -/
def fHMSG_IN_DATA (i : Nat) : Fld := ⟨0x28 + 0x1000 * i, 0, 64, .rw, 0⟩
/-! HMSG_OUT (R314) -/
def fHMSG_OUT_DATA (i : Nat) : Fld := ⟨0x30 + 0x1000 * i, 0, 64, .rw, 0⟩
/-! TIMER (R314) -/
def fTIMER_COMPARE (i : Nat) : Fld := ⟨0x38 + 0x1000 * i, 0, 64, .rw, 0⟩
/-! SPAD_STARVE (R315) -/
def fSPAD_STARVE_BANK (i b : Nat) : Fld := ⟨0x40 + 0x1000 * i, 8 * b, 8, .rc, 0⟩
/-! SPAD_WAIT (R315) -/
def fSPAD_WAIT_MAX_WAIT (i : Nat) : Fld := ⟨0x48 + 0x1000 * i, 0, 32, .rc, 0⟩
def fSPAD_WAIT_MAX_BANK (i : Nat) : Fld := ⟨0x48 + 0x1000 * i, 32, 3, .rc, 0⟩
/-! PART_CMD (R317) -/
def fPART_CMD_OP : Fld := ⟨0x40000, 0, 2, .wo, 0⟩
def fPART_CMD_FIELD : Fld := ⟨0x40000, 8, 6, .wo, 0⟩
def fPART_CMD_WLOG : Fld := ⟨0x40000, 16, 2, .wo, 0⟩
def fPART_CMD_HLOG : Fld := ⟨0x40000, 18, 2, .wo, 0⟩
def fPART_CMD_FUNC : Fld := ⟨0x40000, 24, 6, .wo, 0⟩
/-! PART_STAT (R317) -/
def fPART_STAT_BUSY : Fld := ⟨0x40008, 0, 1, .ro, 0⟩
def fPART_STAT_REJ : Fld := ⟨0x40008, 1, 1, .w1c, 0⟩
def fPART_STAT_WHY : Fld := ⟨0x40008, 2, 3, .ro, 0⟩
/-! PART_MAP (R317) -/
def fPART_MAP_IN (i : Nat) : Fld := ⟨0x40100 + 0x8 * i, 0, 1, .ro, 0⟩
def fPART_MAP_MASTER (i : Nat) : Fld := ⟨0x40100 + 0x8 * i, 1, 6, .ro, 0⟩
def fPART_MAP_WLOG (i : Nat) : Fld := ⟨0x40100 + 0x8 * i, 7, 2, .ro, 0⟩
def fPART_MAP_HLOG (i : Nat) : Fld := ⟨0x40100 + 0x8 * i, 9, 2, .ro, 0⟩
def fPART_MAP_FUNC (i : Nat) : Fld := ⟨0x40100 + 0x8 * i, 11, 6, .ro, 0⟩
/-! RING_BASE (R355) -/
def fRING_BASE_BASE (i : Nat) : Fld := ⟨0x80000 + 0x20 * i, 12, 52, .rw, 0⟩
/-! RING_CFG (R356) -/
def fRING_CFG_ENABLE (i : Nat) : Fld := ⟨0x80008 + 0x20 * i, 0, 1, .rw, 0⟩
def fRING_CFG_KIND (i : Nat) : Fld := ⟨0x80008 + 0x20 * i, 1, 2, .rw, 0⟩
def fRING_CFG_LOG2SIZE (i : Nat) : Fld := ⟨0x80008 + 0x20 * i, 8, 5, .rw, 0⟩
def fRING_CFG_CQ (i : Nat) : Fld := ⟨0x80008 + 0x20 * i, 13, 13, .rw, 0⟩
def fRING_CFG_VECTOR (i : Nat) : Fld := ⟨0x80008 + 0x20 * i, 32, 5, .rw, 0⟩
def fRING_CFG_IRQ_EN (i : Nat) : Fld := ⟨0x80008 + 0x20 * i, 37, 1, .rw, 0⟩
def fRING_CFG_MOD (i : Nat) : Fld := ⟨0x80008 + 0x20 * i, 38, 8, .rw, 0⟩
def fRING_CFG_BIND_EN (i : Nat) : Fld := ⟨0x80008 + 0x20 * i, 46, 1, .rw, 0⟩
def fRING_CFG_BIND_SEQ (i : Nat) : Fld := ⟨0x80008 + 0x20 * i, 47, 6, .rw, 0⟩
/-! RING_PTR (R357) -/
def fRING_PTR_HEAD (i : Nat) : Fld := ⟨0x80010 + 0x20 * i, 0, 16, .ro, 0⟩
def fRING_PTR_TAIL (i : Nat) : Fld := ⟨0x80010 + 0x20 * i, 16, 16, .ro, 0⟩
def fRING_PTR_IN_FLIGHT (i : Nat) : Fld := ⟨0x80010 + 0x20 * i, 32, 6, .ro, 0⟩
def fRING_PTR_PHASE (i : Nat) : Fld := ⟨0x80010 + 0x20 * i, 63, 1, .ro, 0⟩
/-! RING_STAT (R358) -/
def fRING_STAT_DB_BAD (i : Nat) : Fld := ⟨0x80018 + 0x20 * i, 0, 1, .w1c, 0⟩
def fRING_STAT_DB_FMT (i : Nat) : Fld := ⟨0x80018 + 0x20 * i, 1, 1, .w1c, 0⟩
def fRING_STAT_FULL_HELD (i : Nat) : Fld := ⟨0x80018 + 0x20 * i, 2, 1, .w1c, 0⟩
def fRING_STAT_HOST_ERR (i : Nat) : Fld := ⟨0x80018 + 0x20 * i, 3, 1, .w1c, 0⟩
def fRING_STAT_STOPPED (i : Nat) : Fld := ⟨0x80018 + 0x20 * i, 4, 1, .ro, 0⟩
def fRING_STAT_CFG_STATUS (i : Nat) : Fld := ⟨0x80018 + 0x20 * i, 8, 4, .ro, 0⟩
def fRING_STAT_CFG_DETAIL (i : Nat) : Fld := ⟨0x80018 + 0x20 * i, 12, 4, .ro, 0⟩
def fRING_STAT_EVT_LOST (i : Nat) : Fld := ⟨0x80018 + 0x20 * i, 32, 16, .rc, 0⟩
/-! FUNC_CFG (R359) -/
def fFUNC_CFG_EVT_RING (i : Nat) : Fld := ⟨0x41000 + 0x8 * i, 0, 13, .rw, 0⟩
def fFUNC_CFG_EVT_EN (i : Nat) : Fld := ⟨0x41000 + 0x8 * i, 13, 1, .rw, 0⟩
def fFUNC_CFG_STRIP_GRANT (i : Nat) : Fld := ⟨0x41000 + 0x8 * i, 16, 8, .rw, 0⟩
def fFUNC_CFG_BAR_GRANT (i : Nat) : Fld := ⟨0x41000 + 0x8 * i, 24, 1, .rw, 0⟩
/-! FUNC_STAT (R359) -/
def fFUNC_STAT_ENABLED (i : Nat) : Fld := ⟨0x41200 + 0x8 * i, 0, 1, .ro, 0⟩
def fFUNC_STAT_EVT_LOST (i : Nat) : Fld := ⟨0x41200 + 0x8 * i, 16, 16, .rc, 0⟩
/-! RG_OWNER (R360) -/
def fRG_OWNER_OWNER (i : Nat) : Fld := ⟨0x41400 + 0x8 * i, 0, 6, .rw, 0⟩
def fRG_OWNER_ASSIGNED (i : Nat) : Fld := ⟨0x41400 + 0x8 * i, 6, 1, .rw, 0⟩
def fRG_OWNER_REJ (i : Nat) : Fld := ⟨0x41400 + 0x8 * i, 7, 1, .w1c, 0⟩
/-! STG_ECC (R383) -/
def fSTG_ECC_CE_CNT : Fld := ⟨0x46000, 0, 32, .rc, 0⟩
def fSTG_ECC_UE_CNT : Fld := ⟨0x46000, 32, 16, .rc, 0⟩
/-! STG_ERR_CAP (R383) -/
def fSTG_ERR_CAP_VALID : Fld := ⟨0x46008, 0, 1, .w1c, 0⟩
def fSTG_ERR_CAP_OVF : Fld := ⟨0x46008, 1, 1, .w1c, 0⟩
def fSTG_ERR_CAP_UE : Fld := ⟨0x46008, 2, 1, .ro, 0⟩
def fSTG_ERR_CAP_BANK : Fld := ⟨0x46008, 8, 5, .ro, 0⟩
def fSTG_ERR_CAP_MASTER : Fld := ⟨0x46008, 16, 8, .ro, 0⟩
def fSTG_ERR_CAP_OFFSET : Fld := ⟨0x46008, 32, 26, .ro, 0⟩
/-! STG_COLL (R383) -/
def fSTG_COLL_COUNT (i : Nat) : Fld := ⟨0x46100 + 0x8 * i, 0, 32, .rc, 0⟩
/-! STG_CONFLICT (R384) -/
def fSTG_CONFLICT_COUNT (i : Nat) (j : Nat) : Fld := ⟨0x48000 + 0x20 * i + 0x8 * j, 0, 32, .rc, 0⟩
/-! HBM_SEED (R385) -/
def fHBM_SEED_SEED (i : Nat) : Fld := ⟨0x4A000 + 0x8 * i, 0, 2, .rw, 0⟩
def fHBM_SEED_REJ (i : Nat) : Fld := ⟨0x4A000 + 0x8 * i, 2, 1, .w1c, 0⟩
/-! CHART_CNT (R385) -/
def fCHART_CNT_VALID_CNT (i : Nat) : Fld := ⟨0x4A200 + 0x8 * i, 0, 22, .ro, 0⟩
/-! CHART_ECC (R386) -/
def fCHART_ECC_CE_CNT : Fld := ⟨0x4A400, 0, 32, .rc, 0⟩
def fCHART_ECC_UE_CNT : Fld := ⟨0x4A400, 32, 16, .rc, 0⟩
/-! CHART_RD (R386) -/
def fCHART_RD_INDEX : Fld := ⟨0x4A408, 0, 21, .rw, 0⟩
/-! CHART_RD_DATA (R386) -/
def fCHART_RD_DATA_ENTRY : Fld := ⟨0x4A410, 0, 32, .ro, 0⟩
def fCHART_RD_DATA_UE : Fld := ⟨0x4A410, 32, 1, .ro, 0⟩
/-! HOT_CFG (R386) -/
def fHOT_CFG_SHARE : Fld := ⟨0x4A420, 0, 6, .rw, 8⟩
def fHOT_CFG_RUN : Fld := ⟨0x4A420, 8, 8, .rw, 100⟩
/-! HOT_CNT (R387) -/
def fHOT_CNT_WINDOWS (i : Nat) : Fld := ⟨0x4A800 + 0x8 * i, 0, 32, .rc, 0⟩
def fHOT_CNT_HOT (i : Nat) : Fld := ⟨0x4A800 + 0x8 * i, 32, 1, .ro, 0⟩
/-! HBM_STAT (R388) -/
def fHBM_STAT_READY (i : Nat) : Fld := ⟨0x50000 + 0x1000 * i, 0, 1, .ro, 0⟩
def fHBM_STAT_FAILED (i : Nat) : Fld := ⟨0x50000 + 0x1000 * i, 1, 1, .ro, 0⟩
def fHBM_STAT_TEMP (i : Nat) : Fld := ⟨0x50000 + 0x1000 * i, 8, 8, .ro, 0⟩
def fHBM_STAT_CE_CNT (i : Nat) : Fld := ⟨0x50000 + 0x1000 * i, 32, 32, .rc, 0⟩
/-! HBM_ERR (R388) -/
def fHBM_ERR_UE_CNT (i : Nat) : Fld := ⟨0x50008 + 0x1000 * i, 0, 16, .rc, 0⟩
def fHBM_ERR_LPC (i : Nat) : Fld := ⟨0x50008 + 0x1000 * i, 16, 5, .ro, 0⟩
/-! HBM_XLAT (R388) -/
def fHBM_XLAT_MISS (i : Nat) : Fld := ⟨0x50010 + 0x1000 * i, 0, 32, .rc, 0⟩
def fHBM_XLAT_SHOOT (i : Nat) : Fld := ⟨0x50010 + 0x1000 * i, 32, 32, .rc, 0⟩
/-! DMA_STAT (R389) -/
def fDMA_STAT_BUSY (i : Nat) : Fld := ⟨0x4B000 + 0x8 * i, 0, 1, .ro, 0⟩
def fDMA_STAT_FUNC (i : Nat) : Fld := ⟨0x4B000 + 0x8 * i, 8, 6, .ro, 0⟩
def fDMA_STAT_RING (i : Nat) : Fld := ⟨0x4B000 + 0x8 * i, 16, 13, .ro, 0⟩
def fDMA_STAT_DONE (i : Nat) : Fld := ⟨0x4B000 + 0x8 * i, 32, 32, .ro, 0⟩
/-! NOC_CTL (R419) -/
def fNOC_CTL_ACTIVE : Fld := ⟨0x400000, 0, 1, .ro, 0⟩
def fNOC_CTL_SWITCH : Fld := ⟨0x400000, 1, 1, .w1s, 0⟩
def fNOC_CTL_SW_BUSY : Fld := ⟨0x400000, 2, 1, .ro, 0⟩
def fNOC_CTL_REJ : Fld := ⟨0x400000, 3, 1, .w1c, 0⟩
/-! NOC_TMO (R420) -/
def fNOC_TMO_TIMEOUT : Fld := ⟨0x400008, 0, 24, .rw, 262144⟩
def fNOC_TMO_RETRY_LIM : Fld := ⟨0x400008, 24, 8, .rw, 64⟩
def fNOC_TMO_RETRY_GAP : Fld := ⟨0x400008, 32, 16, .rw, 512⟩
/-! NOC_ERR_CAP (R421) -/
def fNOC_ERR_CAP_VALID : Fld := ⟨0x400010, 0, 1, .w1c, 0⟩
def fNOC_ERR_CAP_OVF : Fld := ⟨0x400010, 1, 1, .w1c, 0⟩
def fNOC_ERR_CAP_KIND : Fld := ⟨0x400010, 2, 3, .ro, 0⟩
def fNOC_ERR_CAP_NET : Fld := ⟨0x400010, 5, 2, .ro, 0⟩
def fNOC_ERR_CAP_ROUTER : Fld := ⟨0x400010, 8, 6, .ro, 0⟩
def fNOC_ERR_CAP_SRC : Fld := ⟨0x400010, 16, 8, .ro, 0⟩
def fNOC_ERR_CAP_DEST : Fld := ⟨0x400010, 24, 8, .ro, 0⟩
def fNOC_ERR_CAP_PORT : Fld := ⟨0x400010, 32, 3, .ro, 0⟩
/-! ROUTER_CTL (R422) -/
def fROUTER_CTL_PORT_EN (i : Nat) : Fld := ⟨0x401000 + 0x10 * i, 0, 4, .rw, routerPorts i⟩
def fROUTER_CTL_GO (i : Nat) : Fld := ⟨0x401000 + 0x10 * i, 4, 1, .w1s, 0⟩
def fROUTER_CTL_REJ (i : Nat) : Fld := ⟨0x401000 + 0x10 * i, 5, 1, .w1c, 0⟩
/-! ROUTER_STAT (R422) -/
def fROUTER_STAT_BUSY (i : Nat) : Fld := ⟨0x401008 + 0x10 * i, 0, 1, .ro, 0⟩
def fROUTER_STAT_FAILED (i : Nat) : Fld := ⟨0x401008 + 0x10 * i, 1, 4, .ro, 0⟩
def fROUTER_STAT_PAR_CNT (i : Nat) : Fld := ⟨0x401008 + 0x10 * i, 8, 16, .rc, 0⟩
def fROUTER_STAT_REPLAY (i : Nat) : Fld := ⟨0x401008 + 0x10 * i, 24, 16, .rc, 0⟩
def fROUTER_STAT_RINV (i : Nat) : Fld := ⟨0x401008 + 0x10 * i, 40, 16, .rc, 0⟩
/-! NI_STAT (R423) -/
def fNI_STAT_RINV (i : Nat) : Fld := ⟨0x404000 + 0x10 * i, 0, 16, .rc, 0⟩
def fNI_STAT_RETRY (i : Nat) : Fld := ⟨0x404000 + 0x10 * i, 16, 16, .rc, 0⟩
def fNI_STAT_WTMO (i : Nat) : Fld := ⟨0x404000 + 0x10 * i, 32, 16, .rc, 0⟩
def fNI_STAT_TMO (i : Nat) : Fld := ⟨0x404000 + 0x10 * i, 48, 16, .rc, 0⟩
/-! NI_ECC (R423) -/
def fNI_ECC_DAT_CE (i : Nat) : Fld := ⟨0x404008 + 0x10 * i, 0, 32, .rc, 0⟩
def fNI_ECC_DAT_UE (i : Nat) : Fld := ⟨0x404008 + 0x10 * i, 32, 16, .rc, 0⟩
def fNI_ECC_LATE (i : Nat) : Fld := ⟨0x404008 + 0x10 * i, 48, 8, .rc, 0⟩
def fNI_ECC_ORPHAN (i : Nat) : Fld := ⟨0x404008 + 0x10 * i, 56, 8, .rc, 0⟩
/-! LINK_CTL (R455) -/
def fLINK_CTL_ENABLE (i : Nat) : Fld := ⟨0x60000 + 0x1000 * i, 0, 1, .rw, 0⟩
def fLINK_CTL_AUTH_EN (i : Nat) : Fld := ⟨0x60000 + 0x1000 * i, 1, 1, .rw, 0⟩
def fLINK_CTL_CHK_PEER (i : Nat) : Fld := ⟨0x60000 + 0x1000 * i, 2, 1, .rw, 1⟩
def fLINK_CTL_AUTO_RT (i : Nat) : Fld := ⟨0x60000 + 0x1000 * i, 3, 1, .rw, 1⟩
def fLINK_CTL_TUN_IN (i : Nat) : Fld := ⟨0x60000 + 0x1000 * i, 4, 1, .rw, 0⟩
def fLINK_CTL_REVEILLE (i : Nat) : Fld := ⟨0x60000 + 0x1000 * i, 5, 1, .w1s, 0⟩
def fLINK_CTL_MIN_LANES (i : Nat) : Fld := ⟨0x60000 + 0x1000 * i, 8, 6, .rw, 16⟩
def fLINK_CTL_REV_US (i : Nat) : Fld := ⟨0x60000 + 0x1000 * i, 16, 8, .rw, 20⟩
def fLINK_CTL_CE_THR (i : Nat) : Fld := ⟨0x60000 + 0x1000 * i, 24, 8, .rw, 16⟩
def fLINK_CTL_TUN_WAIT (i : Nat) : Fld := ⟨0x60000 + 0x1000 * i, 32, 16, .rw, 1000⟩
def fLINK_CTL_UE_THR (i : Nat) : Fld := ⟨0x60000 + 0x1000 * i, 48, 4, .rw, 4⟩
/-! LINK_STAT (R456) -/
def fLINK_STAT_STATE (i : Nat) : Fld := ⟨0x60008 + 0x1000 * i, 0, 3, .ro, 0⟩
def fLINK_STAT_DOWN_WHY (i : Nat) : Fld := ⟨0x60008 + 0x1000 * i, 3, 3, .ro, 0⟩
def fLINK_STAT_PEER_BAD (i : Nat) : Fld := ⟨0x60008 + 0x1000 * i, 6, 1, .w1c, 0⟩
def fLINK_STAT_AUTH_FAIL (i : Nat) : Fld := ⟨0x60008 + 0x1000 * i, 7, 1, .w1c, 0⟩
def fLINK_STAT_AUTH_OK (i : Nat) : Fld := ⟨0x60008 + 0x1000 * i, 8, 1, .ro, 0⟩
def fLINK_STAT_CFG_REJ (i : Nat) : Fld := ⟨0x60008 + 0x1000 * i, 9, 1, .w1c, 0⟩
def fLINK_STAT_REV_BUSY (i : Nat) : Fld := ⟨0x60008 + 0x1000 * i, 10, 1, .ro, 0⟩
def fLINK_STAT_TX_N (i : Nat) : Fld := ⟨0x60008 + 0x1000 * i, 16, 6, .ro, 0⟩
def fLINK_STAT_RX_N (i : Nat) : Fld := ⟨0x60008 + 0x1000 * i, 24, 6, .ro, 0⟩
def fLINK_STAT_RTT (i : Nat) : Fld := ⟨0x60008 + 0x1000 * i, 32, 16, .ro, 0⟩
def fLINK_STAT_HALO_DROP (i : Nat) : Fld := ⟨0x60008 + 0x1000 * i, 48, 16, .rc, 0⟩
/-! LINK_PEER (R456) -/
def fLINK_PEER_FX (i : Nat) : Fld := ⟨0x60010 + 0x1000 * i, 0, 4, .ro, 0⟩
def fLINK_PEER_FY (i : Nat) : Fld := ⟨0x60010 + 0x1000 * i, 4, 4, .ro, 0⟩
def fLINK_PEER_FZ (i : Nat) : Fld := ⟨0x60010 + 0x1000 * i, 8, 4, .ro, 0⟩
def fLINK_PEER_LINK (i : Nat) : Fld := ⟨0x60010 + 0x1000 * i, 12, 4, .ro, 0⟩
def fLINK_PEER_VALID (i : Nat) : Fld := ⟨0x60010 + 0x1000 * i, 16, 1, .ro, 0⟩
def fLINK_PEER_SN (i : Nat) : Fld := ⟨0x60010 + 0x1000 * i, 32, 32, .ro, 0⟩
/-! LANE_MAP (R457) -/
def fLANE_MAP_TX_ACT (i : Nat) : Fld := ⟨0x60018 + 0x1000 * i, 0, 32, .ro, 0⟩
def fLANE_MAP_RX_ACT (i : Nat) : Fld := ⟨0x60018 + 0x1000 * i, 32, 32, .ro, 0⟩
/-! LANE_CMD (R457) -/
def fLANE_CMD_RETIRE (i : Nat) : Fld := ⟨0x60020 + 0x1000 * i, 0, 32, .w1s, 0⟩
def fLANE_CMD_RETRAIN (i : Nat) : Fld := ⟨0x60020 + 0x1000 * i, 32, 32, .w1s, 0⟩
/-! LANE_MODE (R457) -/
def fLANE_MODE_FABRIC (i : Nat) : Fld := ⟨0x60028 + 0x1000 * i, 0, 24, .rw, 0⟩
/-! LINK_ERR (R458) -/
def fLINK_ERR_CW_CE (i : Nat) : Fld := ⟨0x60030 + 0x1000 * i, 0, 32, .rc, 0⟩
def fLINK_ERR_CW_UE (i : Nat) : Fld := ⟨0x60030 + 0x1000 * i, 32, 16, .rc, 0⟩
def fLINK_ERR_REPLAY (i : Nat) : Fld := ⟨0x60030 + 0x1000 * i, 48, 16, .rc, 0⟩
/-! LINK_ERR2 (R458) -/
def fLINK_ERR2_FLIT_BAD (i : Nat) : Fld := ⟨0x60038 + 0x1000 * i, 0, 16, .rc, 0⟩
/-! LANE_ERR (R458) -/
def fLANE_ERR_SYM_CE (i : Nat) (j : Nat) : Fld := ⟨0x60100 + 0x1000 * i + 0x8 * j, 0, 32, .rc, 0⟩
def fLANE_ERR_CW_UE (i : Nat) (j : Nat) : Fld := ⟨0x60100 + 0x1000 * i + 0x8 * j, 32, 16, .rc, 0⟩
def fLANE_ERR_LOS (i : Nat) (j : Nat) : Fld := ⟨0x60100 + 0x1000 * i + 0x8 * j, 48, 1, .ro, 0⟩
def fLANE_ERR_DEAD (i : Nat) (j : Nat) : Fld := ⟨0x60100 + 0x1000 * i + 0x8 * j, 49, 1, .ro, 0⟩
def fLANE_ERR_TRIES (i : Nat) (j : Nat) : Fld := ⟨0x60100 + 0x1000 * i + 0x8 * j, 50, 2, .ro, 0⟩
/-! TUN_LADDR (R459) -/
def fTUN_LADDR_ADDR (i : Nat) : Fld := ⟨0x60200 + 0x1000 * i, 0, 48, .rw, 0⟩
/-! TUN_RADDR (R459) -/
def fTUN_RADDR_ADDR (i : Nat) : Fld := ⟨0x60208 + 0x1000 * i, 0, 40, .rw, 0⟩
/-! TUN_CMD (R459) -/
def fTUN_CMD_LEN (i : Nat) : Fld := ⟨0x60210 + 0x1000 * i, 0, 24, .wo, 0⟩
def fTUN_CMD_DIR (i : Nat) : Fld := ⟨0x60210 + 0x1000 * i, 24, 1, .wo, 0⟩
def fTUN_CMD_EVT (i : Nat) : Fld := ⟨0x60210 + 0x1000 * i, 25, 1, .wo, 0⟩
/-! TUN_STAT (R459) -/
def fTUN_STAT_QCNT (i : Nat) : Fld := ⟨0x60218 + 0x1000 * i, 0, 4, .ro, 0⟩
def fTUN_STAT_BUSY (i : Nat) : Fld := ⟨0x60218 + 0x1000 * i, 4, 1, .ro, 0⟩
def fTUN_STAT_FULL (i : Nat) : Fld := ⟨0x60218 + 0x1000 * i, 5, 1, .w1c, 0⟩
def fTUN_STAT_ERR (i : Nat) : Fld := ⟨0x60218 + 0x1000 * i, 6, 1, .w1c, 0⟩
def fTUN_STAT_STATUS (i : Nat) : Fld := ⟨0x60218 + 0x1000 * i, 8, 4, .ro, 0⟩
def fTUN_STAT_DONE (i : Nat) : Fld := ⟨0x60218 + 0x1000 * i, 16, 16, .ro, 0⟩
def fTUN_STAT_CMDNO (i : Nat) : Fld := ⟨0x60218 + 0x1000 * i, 32, 16, .ro, 0⟩
/-! FLEET_ID (R460) -/
def fFLEET_ID_FX : Fld := ⟨0x4F000, 0, 4, .rw, 0⟩
def fFLEET_ID_FY : Fld := ⟨0x4F000, 4, 4, .rw, 0⟩
def fFLEET_ID_FZ : Fld := ⟨0x4F000, 8, 4, .rw, 0⟩
def fFLEET_ID_DXM : Fld := ⟨0x4F000, 16, 4, .rw, 0⟩
def fFLEET_ID_DYM : Fld := ⟨0x4F000, 20, 4, .rw, 0⟩
def fFLEET_ID_DZM : Fld := ⟨0x4F000, 24, 4, .rw, 0⟩
/-! LINK_WAKE (R461) -/
def fLINK_WAKE_WMODE (j : Nat) : Fld := ⟨0x54040, 2 * j, 2, .rw, 0⟩
def fLINK_WAKE_DET (j : Nat) : Fld := ⟨0x54040, 32 + j, 1, .w1c, 0⟩
/-! MER_TIME (R478) -/
def fMER_TIME_NS : Fld := ⟨0x44000, 0, 64, .ro, 0⟩
/-! MER_CTL (R478) -/
def fMER_CTL_PRIO : Fld := ⟨0x44008, 0, 8, .rw, 0⟩
/-! MER_STAT (R478) -/
def fMER_STAT_STATE : Fld := ⟨0x44010, 0, 3, .ro, 0⟩
def fMER_STAT_PARENT : Fld := ⟨0x44010, 4, 4, .ro, 0⟩
def fMER_STAT_HOPS : Fld := ⟨0x44010, 8, 6, .ro, 0⟩
def fMER_STAT_MIDX : Fld := ⟨0x44010, 16, 12, .ro, 0⟩
def fMER_STAT_OFFSET : Fld := ⟨0x44010, 32, 32, .ro, 0⟩
/-! BAR_CFG (R478) -/
def fBAR_CFG_SKEW : Fld := ⟨0x44018, 0, 32, .rw, 8000⟩
/-! BAR_STAT (R479) -/
def fBAR_STAT_GEN (i : Nat) : Fld := ⟨0x44100 + 0x8 * i, 0, 8, .ro, 0⟩
def fBAR_STAT_ARRIVED (i : Nat) : Fld := ⟨0x44100 + 0x8 * i, 8, 1, .ro, 0⟩
def fBAR_STAT_LATE (i : Nat) : Fld := ⟨0x44100 + 0x8 * i, 16, 16, .rc, 0⟩
def fBAR_STAT_BAD (i : Nat) : Fld := ⟨0x44100 + 0x8 * i, 32, 16, .rc, 0⟩
/-! WATCH_CFG (R480) -/
def fWATCH_CFG_PERIOD (i : Nat) : Fld := ⟨0x45000 + 0x20 * i, 0, 32, .ro, 0⟩
def fWATCH_CFG_SHORTEN (i : Nat) : Fld := ⟨0x45000 + 0x20 * i, 32, 6, .ro, 0⟩
def fWATCH_CFG_ENABLE (i : Nat) : Fld := ⟨0x45000 + 0x20 * i, 40, 1, .ro, 0⟩
/-! WATCH_MODE (R480) -/
def fWATCH_MODE_DONE_REQ (i : Nat) : Fld := ⟨0x45008 + 0x20 * i, 0, 1, .rw, 1⟩
def fWATCH_MODE_FOLLOW_EN (i : Nat) : Fld := ⟨0x45008 + 0x20 * i, 1, 1, .rw, 0⟩
def fWATCH_MODE_FOLLOW (i : Nat) : Fld := ⟨0x45008 + 0x20 * i, 2, 3, .rw, 0⟩
/-! WATCH_STAT (R480) -/
def fWATCH_STAT_LAG (i : Nat) : Fld := ⟨0x45010 + 0x20 * i, 0, 32, .ro, 0⟩
def fWATCH_STAT_BELLS (i : Nat) : Fld := ⟨0x45010 + 0x20 * i, 32, 16, .ro, 0⟩
def fWATCH_STAT_LOST (i : Nat) : Fld := ⟨0x45010 + 0x20 * i, 48, 1, .w1c, 0⟩
def fWATCH_STAT_LOSTNOW (i : Nat) : Fld := ⟨0x45010 + 0x20 * i, 49, 1, .ro, 0⟩
def fWATCH_STAT_EXTRA (i : Nat) : Fld := ⟨0x45010 + 0x20 * i, 50, 1, .w1c, 0⟩
def fWATCH_STAT_DONE (i : Nat) : Fld := ⟨0x45010 + 0x20 * i, 51, 1, .ro, 0⟩
/-! WATCH_NEXT (R480) -/
def fWATCH_NEXT_END (i : Nat) : Fld := ⟨0x45018 + 0x20 * i, 0, 64, .ro, 0⟩
/-! FAB_STAT (R509) -/
def fFAB_STAT_LOADED (i : Nat) : Fld := ⟨0x58000 + 0x1000 * i, 0, 16, .ro, 0⟩
def fFAB_STAT_LOADING (i : Nat) : Fld := ⟨0x58000 + 0x1000 * i, 16, 16, .ro, 65535⟩
def fFAB_STAT_CFG_WARN (i : Nat) : Fld := ⟨0x58000 + 0x1000 * i, 32, 1, .w1c, 0⟩
def fFAB_STAT_WARN_OVF (i : Nat) : Fld := ⟨0x58000 + 0x1000 * i, 33, 1, .w1c, 0⟩
def fFAB_STAT_WARN_COVE (i : Nat) : Fld := ⟨0x58000 + 0x1000 * i, 40, 8, .ro, 0⟩
def fFAB_STAT_WARN_OUT (i : Nat) : Fld := ⟨0x58000 + 0x1000 * i, 48, 9, .ro, 0⟩
/-! FAB_CLK (R510) -/
def fFAB_CLK_SRC (i : Nat) (j : Nat) : Fld := ⟨0x58010 + 0x1000 * i + 0x8 * j, 0, 2, .rw, 0⟩
def fFAB_CLK_LANE (i : Nat) (j : Nat) : Fld := ⟨0x58010 + 0x1000 * i + 0x8 * j, 2, 5, .rw, 0⟩
def fFAB_CLK_DIV (i : Nat) (j : Nat) : Fld := ⟨0x58010 + 0x1000 * i + 0x8 * j, 8, 4, .rw, 0⟩
def fFAB_CLK_DEPTH (i : Nat) (j : Nat) : Fld := ⟨0x58010 + 0x1000 * i + 0x8 * j, 16, 3, .ro, 0⟩
def fFAB_CLK_SWITCHING (i : Nat) (j : Nat) : Fld := ⟨0x58010 + 0x1000 * i + 0x8 * j, 20, 1, .ro, 0⟩
def fFAB_CLK_CLK_REJ (i : Nat) (j : Nat) : Fld := ⟨0x58010 + 0x1000 * i + 0x8 * j, 21, 1, .w1c, 0⟩
def fFAB_CLK_DEAD_SRC (i : Nat) (j : Nat) : Fld := ⟨0x58010 + 0x1000 * i + 0x8 * j, 22, 1, .w1c, 0⟩
def fFAB_CLK_CLK_LOST (i : Nat) (j : Nat) : Fld := ⟨0x58010 + 0x1000 * i + 0x8 * j, 23, 1, .w1c, 0⟩
/-! FAB_CAP (R511) -/
def fFAB_CAP_CAPTURE (i : Nat) : Fld := ⟨0x58040 + 0x1000 * i, 0, 1, .w1s, 0⟩
def fFAB_CAP_DONE (i : Nat) : Fld := ⟨0x58040 + 0x1000 * i, 1, 1, .ro, 0⟩
/-! FAB_RB_SEL (R511) -/
def fFAB_RB_SEL_KIND (i : Nat) : Fld := ⟨0x58048 + 0x1000 * i, 0, 1, .rw, 0⟩
def fFAB_RB_SEL_COVE (i : Nat) : Fld := ⟨0x58048 + 0x1000 * i, 8, 8, .rw, 0⟩
def fFAB_RB_SEL_BLOCK (i : Nat) : Fld := ⟨0x58048 + 0x1000 * i, 16, 5, .rw, 0⟩
def fFAB_RB_SEL_ADDR (i : Nat) : Fld := ⟨0x58048 + 0x1000 * i, 32, 12, .rw, 0⟩
def fFAB_RB_SEL_RB_CHK (i : Nat) : Fld := ⟨0x58048 + 0x1000 * i, 44, 8, .ro, 0⟩
def fFAB_RB_SEL_RB_UE (i : Nat) : Fld := ⟨0x58048 + 0x1000 * i, 52, 1, .ro, 0⟩
/-! FAB_RB_DATA (R511) -/
def fFAB_RB_DATA_DATA (i : Nat) : Fld := ⟨0x58050 + 0x1000 * i, 0, 64, .ro, 0⟩
/-! FAB_BLK (R512) -/
def fFAB_BLK_COUNT (i : Nat) (j : Nat) : Fld := ⟨0x58100 + 0x1000 * i + 0x8 * j, 0, 13, .ro, 0⟩
def fFAB_BLK_OVF (i : Nat) (j : Nat) : Fld := ⟨0x58100 + 0x1000 * i + 0x8 * j, 16, 1, .w1c, 0⟩
def fFAB_BLK_UNF (i : Nat) (j : Nat) : Fld := ⟨0x58100 + 0x1000 * i + 0x8 * j, 17, 1, .w1c, 0⟩
def fFAB_BLK_CE_CNT (i : Nat) (j : Nat) : Fld := ⟨0x58100 + 0x1000 * i + 0x8 * j, 24, 16, .rc, 0⟩
def fFAB_BLK_UE_CNT (i : Nat) (j : Nat) : Fld := ⟨0x58100 + 0x1000 * i + 0x8 * j, 40, 16, .rc, 0⟩
/-! PWR_DOM (R537) -/
def fPWR_DOM_STATE (i : Nat) : Fld := ⟨0x43000 + 0x8 * i, 0, 3, .ro, 3⟩
def fPWR_DOM_BUSY (i : Nat) : Fld := ⟨0x43000 + 0x8 * i, 3, 1, .ro, 0⟩
def fPWR_DOM_PHASE (i : Nat) : Fld := ⟨0x43000 + 0x8 * i, 4, 3, .ro, 0⟩
def fPWR_DOM_PEND (i : Nat) : Fld := ⟨0x43000 + 0x8 * i, 7, 1, .ro, 0⟩
def fPWR_DOM_PEND_STATE (i : Nat) : Fld := ⟨0x43000 + 0x8 * i, 8, 3, .ro, 0⟩
def fPWR_DOM_FAULT (i : Nat) : Fld := ⟨0x43000 + 0x8 * i, 11, 1, .w1c, 0⟩
def fPWR_DOM_ANCH (i : Nat) : Fld := ⟨0x43000 + 0x8 * i, 12, 4, .ro, 0⟩
def fPWR_DOM_BIAS (i : Nat) : Fld := ⟨0x43000 + 0x8 * i, 16, 8, .ro, 0⟩
def fPWR_DOM_TRANS (i : Nat) : Fld := ⟨0x43000 + 0x8 * i, 32, 16, .rc, 0⟩
/-! PWR_CFG (R538) -/
def fPWR_CFG_DRAIN_QUIET : Fld := ⟨0x43200, 0, 8, .rw, 32⟩
def fPWR_CFG_DRAIN_MAX : Fld := ⟨0x43200, 16, 16, .rw, 100⟩
/-! PWR_WAKEMAP (R538) -/
def fPWR_WAKEMAP_DOMS (i : Nat) : Fld := ⟨0x43210 + 0x8 * i, 0, 41, .rw, 0⟩
/-! GOV_CTL (R539) -/
def fGOV_CTL_GOV_EN : Fld := ⟨0x43300, 0, 1, .rw, 1⟩
def fGOV_CTL_PLIM : Fld := ⟨0x43300, 8, 10, .rw, 880⟩
def fGOV_CTL_TLIM : Fld := ⟨0x43300, 24, 8, .rw, 110⟩
/-! GOV_STAT (R539) -/
def fGOV_STAT_PWR_W : Fld := ⟨0x43308, 0, 10, .ro, 0⟩
def fGOV_STAT_TJ : Fld := ⟨0x43308, 16, 8, .ro, 0⟩
def fGOV_STAT_K : Fld := ⟨0x43308, 24, 6, .ro, 0⟩
def fGOV_STAT_LIMITED : Fld := ⟨0x43308, 30, 1, .ro, 0⟩
def fGOV_STAT_OVER : Fld := ⟨0x43308, 31, 1, .w1c, 0⟩
/-! PWR_GRANT (R540) -/
def fPWR_GRANT_DOMS (i : Nat) : Fld := ⟨0x43400 + 0x8 * i, 0, 41, .rw, 0⟩
/-! WAKE_CAUSE (R541) -/
def fWAKE_CAUSE_SRC : Fld := ⟨0x54000, 0, 4, .ro, 0⟩
def fWAKE_CAUSE_DOMAIN : Fld := ⟨0x54000, 4, 6, .ro, 0⟩
def fWAKE_CAUSE_FROM_OFF : Fld := ⟨0x54000, 10, 1, .ro, 0⟩
/-! WAKE_TIME (R541) -/
def fWAKE_TIME_NS : Fld := ⟨0x54008, 0, 64, .ro, 0⟩
/-! WAKE_EN (R541) -/
def fWAKE_EN_PCIE : Fld := ⟨0x54010, 0, 1, .rw, 0⟩
def fWAKE_EN_WAKEN : Fld := ⟨0x54010, 1, 1, .rw, 1⟩
def fWAKE_EN_TIMER : Fld := ⟨0x54010, 2, 1, .rw, 0⟩
/-! AON_TIMER (R541) -/
def fAON_TIMER_COMPARE : Fld := ⟨0x54018, 0, 64, .rw, 0⟩
/-! AON_TIME (R541) -/
def fAON_TIME_NS : Fld := ⟨0x54020, 0, 64, .ro, 0⟩
/-! SUTOR_RES (R561) -/
def fSUTOR_RES_CNT (i : Nat) : Fld := ⟨0x580 + 0x1000 * i, 0, 16, .rc, 0⟩
def fSUTOR_RES_VALID (i : Nat) : Fld := ⟨0x580 + 0x1000 * i, 16, 1, .w1c, 0⟩
def fSUTOR_RES_OVF (i : Nat) : Fld := ⟨0x580 + 0x1000 * i, 17, 1, .w1c, 0⟩
def fSUTOR_RES_KIND (i : Nat) : Fld := ⟨0x580 + 0x1000 * i, 18, 1, .ro, 0⟩
def fSUTOR_RES_FIELD (i : Nat) : Fld := ⟨0x580 + 0x1000 * i, 24, 6, .ro, 0⟩
def fSUTOR_RES_SLICE (i : Nat) : Fld := ⟨0x580 + 0x1000 * i, 32, 8, .ro, 0⟩
def fSUTOR_RES_LANE (i : Nat) : Fld := ⟨0x580 + 0x1000 * i, 40, 6, .ro, 0⟩
/-! SEQ_ECC (R561) -/
def fSEQ_ECC_ISR_CE (i : Nat) : Fld := ⟨0x588 + 0x1000 * i, 0, 16, .rc, 0⟩
def fSEQ_ECC_ISR_UE (i : Nat) : Fld := ⟨0x588 + 0x1000 * i, 16, 16, .rc, 0⟩
def fSEQ_ECC_SPAD_CE (i : Nat) : Fld := ⟨0x588 + 0x1000 * i, 32, 16, .rc, 0⟩
def fSEQ_ECC_SPAD_UE (i : Nat) : Fld := ⟨0x588 + 0x1000 * i, 48, 16, .rc, 0⟩
/-! TLOG_T0 (R562) -/
def fTLOG_T0_ADDR (i : Nat) (j : Nat) : Fld := ⟨0x210000 + 0x100 * i + 0x10 * j, 0, 48, .ro, 0⟩
def fTLOG_T0_MASTER (i : Nat) (j : Nat) : Fld := ⟨0x210000 + 0x100 * i + 0x10 * j, 48, 8, .ro, 0⟩
def fTLOG_T0_TYPE (i : Nat) (j : Nat) : Fld := ⟨0x210000 + 0x100 * i + 0x10 * j, 56, 4, .ro, 0⟩
def fTLOG_T0_STATUS (i : Nat) (j : Nat) : Fld := ⟨0x210000 + 0x100 * i + 0x10 * j, 60, 4, .ro, 0⟩
/-! TLOG_T1 (R562) -/
def fTLOG_T1_TIME (i : Nat) (j : Nat) : Fld := ⟨0x210008 + 0x100 * i + 0x10 * j, 0, 64, .ro, 0⟩
/-! TLOG_STAT (R562) -/
def fTLOG_STAT_NEXT (i : Nat) : Fld := ⟨0x208000 + 0x8 * i, 0, 4, .ro, 0⟩
def fTLOG_STAT_LOST (i : Nat) : Fld := ⟨0x208000 + 0x8 * i, 16, 16, .rc, 0⟩
/-! DLOG_PTR (R562) -/
def fDLOG_PTR_NEXT : Fld := ⟨0x208800, 0, 10, .ro, 0⟩
def fDLOG_PTR_TOTAL : Fld := ⟨0x208800, 32, 32, .ro, 0⟩
/-! DEV_ERR (R562) -/
def fDEV_ERR_FATAL : Fld := ⟨0x208808, 0, 1, .ro, 0⟩
def fDEV_ERR_UNIT : Fld := ⟨0x208808, 1, 3, .ro, 0⟩
def fDEV_ERR_HUB_CE : Fld := ⟨0x208808, 16, 32, .rc, 0⟩
/-! SURVEY_CTL (R563) -/
def fSURVEY_CTL_PE_EN (i : Nat) : Fld := ⟨0x4C000 + 0x40 * i, 0, 1, .rw, 1⟩
def fSURVEY_CTL_ALM_EN (i : Nat) : Fld := ⟨0x4C000 + 0x40 * i, 1, 1, .rw, 1⟩
def fSURVEY_CTL_STG_EN (i : Nat) : Fld := ⟨0x4C000 + 0x40 * i, 2, 1, .rw, 1⟩
def fSURVEY_CTL_MARCH (i : Nat) : Fld := ⟨0x4C000 + 0x40 * i, 3, 1, .rw, 1⟩
def fSURVEY_CTL_PACE (i : Nat) : Fld := ⟨0x4C000 + 0x40 * i, 32, 32, .rw, 1000⟩
/-! SURVEY_STAT (R563) -/
def fSURVEY_STAT_SWEEPS (i : Nat) : Fld := ⟨0x4C008 + 0x40 * i, 0, 16, .ro, 0⟩
def fSURVEY_STAT_FAILS (i : Nat) : Fld := ⟨0x4C008 + 0x40 * i, 16, 16, .rc, 0⟩
def fSURVEY_STAT_STG_YIELDS (i : Nat) : Fld := ⟨0x4C008 + 0x40 * i, 32, 16, .rc, 0⟩
def fSURVEY_STAT_STG_MAX_STALL (i : Nat) : Fld := ⟨0x4C008 + 0x40 * i, 48, 7, .rc, 0⟩
/-! HBM_RECAL (R564) -/
def fHBM_RECAL_CH (i : Nat) : Fld := ⟨0x50018 + 0x1000 * i, 0, 4, .rw, 0⟩
def fHBM_RECAL_GO (i : Nat) : Fld := ⟨0x50018 + 0x1000 * i, 4, 1, .w1s, 0⟩
def fHBM_RECAL_BUSY (i : Nat) : Fld := ⟨0x50018 + 0x1000 * i, 5, 1, .ro, 0⟩
def fHBM_RECAL_REJ (i : Nat) : Fld := ⟨0x50018 + 0x1000 * i, 6, 1, .w1c, 0⟩
def fHBM_RECAL_LAST_US (i : Nat) : Fld := ⟨0x50018 + 0x1000 * i, 16, 16, .ro, 0⟩
/-! FW_CTL (R565) -/
def fFW_CTL_ACTIVE : Fld := ⟨0x4D000, 0, 1, .ro, 0⟩
def fFW_CTL_STAGE : Fld := ⟨0x4D000, 1, 1, .w1s, 0⟩
def fFW_CTL_SWITCH : Fld := ⟨0x4D000, 2, 1, .w1s, 0⟩
def fFW_CTL_BUSY : Fld := ⟨0x4D000, 3, 1, .ro, 0⟩
def fFW_CTL_READY : Fld := ⟨0x4D000, 4, 1, .ro, 0⟩
def fFW_CTL_FW_ERR : Fld := ⟨0x4D000, 5, 1, .w1c, 0⟩
def fFW_CTL_ERR_WHY : Fld := ⟨0x4D000, 8, 4, .ro, 0⟩
def fFW_CTL_PAUSE_US : Fld := ⟨0x4D000, 32, 32, .ro, 0⟩
/-! FW_SRC (R565) -/
def fFW_SRC_OFFSET : Fld := ⟨0x4D008, 0, 26, .rw, 0⟩
def fFW_SRC_LEN : Fld := ⟨0x4D008, 32, 32, .rw, 0⟩
/-! SEC_STAT (R592) -/
def fSEC_STAT_ID_OK : Fld := ⟨0x4E000, 0, 1, .ro, 0⟩
def fSEC_STAT_BOOT_SLOT : Fld := ⟨0x4E000, 1, 1, .ro, 0⟩
def fSEC_STAT_FALLBACK : Fld := ⟨0x4E000, 2, 1, .ro, 0⟩
def fSEC_STAT_LODESTAR_OFF : Fld := ⟨0x4E000, 3, 1, .ro, 0⟩
def fSEC_STAT_SVN_FUSE : Fld := ⟨0x4E000, 4, 7, .ro, 0⟩
def fSEC_STAT_KEY_SEL : Fld := ⟨0x4E000, 11, 1, .ro, 0⟩
def fSEC_STAT_SVN_IMG : Fld := ⟨0x4E000, 12, 7, .ro, 0⟩
def fSEC_STAT_REVOKE : Fld := ⟨0x4E000, 19, 2, .ro, 0⟩
def fSEC_STAT_DBG_LEVEL : Fld := ⟨0x4E000, 21, 2, .ro, 0⟩
def fSEC_STAT_DBG_FAIL : Fld := ⟨0x4E000, 23, 2, .ro, 0⟩
def fSEC_STAT_OWNER_KEY : Fld := ⟨0x4E000, 25, 1, .ro, 0⟩
/-! SEC_CTL (R592) -/
def fSEC_CTL_SVN_COMMIT : Fld := ⟨0x4E008, 0, 1, .w1s, 0⟩
def fSEC_CTL_REVOKE0 : Fld := ⟨0x4E008, 1, 1, .w1s, 0⟩
def fSEC_CTL_BUSY : Fld := ⟨0x4E008, 2, 1, .ro, 0⟩
def fSEC_CTL_COMMIT_REJ : Fld := ⟨0x4E008, 3, 1, .w1c, 0⟩
/-! ACL_PERM (R593) -/
/-- Permission bit k of master m at node d (R593); boot loads it (R571). -/
def fACL_PERM (d m k : Nat) : Fld := ⟨0x800000 + 0x800 * d + 8 * m, k, 1, .rw, bootPerm d m k⟩
/-! ACL_BASE (R594) -/
def fACL_BASE_EN (d r : Nat) : Fld := ⟨0x880000 + 0x100 * d + 16 * r, 0, 1, .rw, bootEn d r⟩
def fACL_BASE_BASE (d r : Nat) : Fld := ⟨0x880000 + 0x100 * d + 16 * r, 6, 42, .rw, (bootRegion d r).1 / 64⟩
/-! ACL_LIMIT (R594) -/
def fACL_LIMIT_LIMIT (d r : Nat) : Fld := ⟨0x880008 + 0x100 * d + 16 * r, 6, 42, .rw, (bootRegion d r).2 / 64⟩
/-! ACL_CTL (R595) -/
def fACL_CTL_LOCK (i : Nat) : Fld := ⟨0x890000 + 0x8 * i, 0, 1, .w1s, 0⟩
def fACL_CTL_LOCK_REJ (i : Nat) : Fld := ⟨0x890000 + 0x8 * i, 1, 1, .w1c, 0⟩
/-! DEV_ID (R618) -/
def fDEV_ID_PART : Fld := ⟨0x42000, 0, 16, .ro, 4132⟩
def fDEV_ID_ORDER : Fld := ⟨0x42000, 16, 4, .ro, 0⟩
def fDEV_ID_STEPPING : Fld := ⟨0x42000, 24, 8, .ro, 176⟩
def fDEV_ID_SERIAL_LO : Fld := ⟨0x42000, 32, 32, .ro, 0⟩
/-! RST_CAUSE (R618) -/
def fRST_CAUSE_CAUSE : Fld := ⟨0x42008, 0, 2, .ro, 1⟩
def fRST_CAUSE_WARM_CNT : Fld := ⟨0x42008, 16, 16, .ro, 0⟩
/-! BOOT_STAT (R618) -/
def fBOOT_STAT_STEP : Fld := ⟨0x42010, 0, 4, .ro, 0⟩
def fBOOT_STAT_DONE : Fld := ⟨0x42010, 4, 1, .ro, 0⟩
def fBOOT_STAT_FAILED : Fld := ⟨0x42010, 5, 1, .ro, 0⟩
def fBOOT_STAT_FAIL_WHY : Fld := ⟨0x42010, 8, 8, .ro, 0⟩
def fBOOT_STAT_BOOT_MS : Fld := ⟨0x42010, 32, 32, .ro, 0⟩
/-! DOM_RST (R619) -/
def fDOM_RST_DOMAIN : Fld := ⟨0x42018, 0, 6, .rw, 0⟩
def fDOM_RST_GO : Fld := ⟨0x42018, 8, 1, .w1s, 0⟩
def fDOM_RST_BUSY : Fld := ⟨0x42018, 9, 1, .ro, 0⟩
def fDOM_RST_REJ : Fld := ⟨0x42018, 10, 1, .w1c, 0⟩
def fDOM_RST_WHY : Fld := ⟨0x42018, 12, 3, .ro, 0⟩

/-- ARRAY_FAULT (R58). -/
def rowARRAY_FAULT : RegRow := ⟨.array_fault, 0x240, 64, 4096, 1, 0, [(0, 1, .w1c, 0), (1, 1, .rw, 0), (2, 1, .w1c, 0), (4, 1, .ro, 0), (5, 1, .ro, 0), (6, 1, .ro, 0), (16, 13, .ro, 0), (32, 13, .ro, 0)]⟩
/-- LEASE_MAP (R83). -/
def rowLEASE_MAP : RegRow := ⟨.lease_map, 0x300, 64, 4096, 1, 0, [(0, 64, .rw, 0)]⟩
/-- SURVEY_YIELD (R84). -/
def rowSURVEY_YIELD : RegRow := ⟨.survey_yield, 0x308, 64, 4096, 1, 0, [(0, 32, .rc, 0), (32, 8, .rc, 0), (40, 1, .ro, 0), (48, 12, .ro, 0)]⟩
/-- PEMEM_ECC (R85). -/
def rowPEMEM_ECC : RegRow := ⟨.pemem_ecc, 0x310, 64, 4096, 1, 0, [(0, 32, .rc, 0), (32, 16, .rc, 0), (48, 16, .rw, 0)]⟩
/-- PEMEM_ERR_CAP (R86). -/
def rowPEMEM_ERR_CAP : RegRow := ⟨.pemem_err_cap, 0x318, 64, 4096, 1, 0, [(0, 1, .w1c, 0), (1, 1, .w1c, 0), (2, 1, .ro, 0), (3, 1, .ro, 0), (4, 3, .ro, 0), (8, 6, .ro, 0), (16, 4, .ro, 0), (20, 5, .ro, 0), (32, 12, .ro, 0), (48, 13, .ro, 0)]⟩
/-- PEMEM_CE_COL (R88). -/
def rowPEMEM_CE_COL : RegRow := ⟨.pemem_ce_col, 0x320, 64, 4096, 3, 8, [(0, 8, .rc, 0), (8, 8, .rc, 0), (16, 8, .rc, 0), (24, 8, .rc, 0), (32, 8, .rc, 0), (40, 8, .rc, 0), (48, 8, .rc, 0), (56, 8, .rc, 0)]⟩
/-- PEMEM_INJ (R89). -/
def rowPEMEM_INJ : RegRow := ⟨.pemem_inj, 0x338, 64, 4096, 1, 0, [(0, 1, .w1s, 0), (1, 1, .rw, 0), (8, 7, .rw, 0), (16, 7, .rw, 0), (24, 4, .rw, 0), (28, 5, .rw, 0), (36, 12, .rw, 0)]⟩
/-- SPARE_MAP (R91). -/
def rowSPARE_MAP : RegRow := ⟨.spare_map, 0x340, 64, 4096, 1, 0, [(0, 5, .ro, 0), (8, 1, .ro, 0), (9, 1, .ro, 0), (10, 1, .ro, 0)]⟩
/-- MSEQ_CTL (R126). -/
def rowMSEQ_CTL : RegRow := ⟨.mseq_ctl, 0x200, 64, 4096, 1, 0, [(0, 1, .w1s, 0), (1, 1, .w1s, 0), (2, 1, .w1s, 0)]⟩
/-- MSEQ_STATUS (R127). -/
def rowMSEQ_STATUS : RegRow := ⟨.mseq_status, 0x208, 64, 4096, 1, 0, [(0, 3, .ro, 0), (4, 5, .ro, 0), (9, 3, .ro, 0), (12, 1, .w1c, 0), (13, 1, .w1c, 0), (14, 1, .ro, 1), (15, 1, .ro, 1), (16, 13, .ro, 0), (32, 1, .ro, 0), (33, 1, .ro, 0), (34, 1, .ro, 0)]⟩
/-- MSEQ_SND (R128). -/
def rowMSEQ_SND : RegRow := ⟨.mseq_snd, 0x210, 64, 4096, 1, 0, [(0, 1, .ro, 0), (1, 1, .ro, 0), (32, 21, .ro, 0)]⟩
/-- MSEQ_LAT (R129). -/
def rowMSEQ_LAT : RegRow := ⟨.mseq_lat, 0x218, 64, 4096, 1, 0, [(0, 4, .ro, 0), (4, 4, .ro, 0), (8, 4, .ro, 0), (12, 4, .ro, 0), (16, 5, .ro, 0), (21, 2, .ro, 0)]⟩
/-- ALM_ECC (R130). -/
def rowALM_ECC : RegRow := ⟨.alm_ecc, 0x228, 64, 4096, 1, 0, [(0, 32, .rc, 0), (32, 16, .rc, 0), (48, 8, .rc, 0), (56, 8, .rc, 0)]⟩
/-- ALM_ERR_CAP (R131). -/
def rowALM_ERR_CAP : RegRow := ⟨.alm_err_cap, 0x230, 64, 4096, 1, 0, [(0, 1, .w1c, 0), (1, 1, .w1c, 0), (2, 1, .ro, 0), (3, 1, .ro, 0), (8, 8, .ro, 0), (16, 13, .ro, 0), (32, 6, .ro, 0), (38, 2, .ro, 0)]⟩
/-- RESUME0 (R132). -/
def rowRESUME0 : RegRow := ⟨.resume0, 0x400, 64, 4096, 1, 0, [(0, 1, .rw, 0), (1, 3, .rw, 0), (4, 1, .rw, 0), (5, 9, .rw, 0), (16, 13, .rw, 0), (32, 3, .rw, 0)]⟩
/-- RESUME1 (R133). -/
def rowRESUME1 : RegRow := ⟨.resume1, 0x408, 64, 4096, 1, 0, [(0, 16, .rw, 0), (16, 16, .rw, 0), (32, 16, .rw, 0), (48, 16, .rw, 0)]⟩
/-- RESUME2 (R133). -/
def rowRESUME2 : RegRow := ⟨.resume2, 0x410, 64, 4096, 1, 0, [(0, 13, .rw, 0), (16, 13, .rw, 0), (32, 13, .rw, 0), (48, 16, .rw, 0)]⟩
/-- RESUME3 (R133). -/
def rowRESUME3 : RegRow := ⟨.resume3, 0x418, 64, 4096, 1, 0, [(0, 13, .rw, 0), (16, 13, .rw, 0), (32, 13, .rw, 0)]⟩
/-- RESUME4 (R134). -/
def rowRESUME4 : RegRow := ⟨.resume4, 0x420, 64, 4096, 1, 0, [(0, 13, .rw, 0), (16, 13, .rw, 0), (32, 13, .rw, 0), (48, 13, .rw, 0)]⟩
/-- RESUME5 (R135). -/
def rowRESUME5 : RegRow := ⟨.resume5, 0x428, 64, 4096, 1, 0, [(0, 1, .rw, 0), (1, 9, .rw, 0), (10, 9, .rw, 0), (19, 1, .rw, 0), (32, 21, .rw, 0)]⟩
/-- RESUME6 (R135, R214). -/
def rowRESUME6 : RegRow := ⟨.resume6, 0x430, 64, 4096, 1, 0, [(0, 7, .rw, 0), (8, 7, .rw, 0), (15, 1, .rw, 0), (16, 7, .rw, 0), (24, 6, .rw, 0)]⟩
/-- RESUME7 (R135, R215). -/
def rowRESUME7 : RegRow := ⟨.resume7, 0x438, 64, 4096, 1, 0, [(0, 1, .rw, 0), (1, 1, .rw, 0), (2, 2, .rw, 0), (4, 3, .rw, 0), (8, 8, .rw, 0), (16, 8, .rw, 0)]⟩
/-- EDGE_CFG (R172). -/
def rowEDGE_CFG : RegRow := ⟨.edge_cfg, 0x260, 64, 4096, 1, 0, [(0, 2, .rw, 0), (2, 2, .rw, 0), (4, 2, .rw, 0), (6, 2, .rw, 0), (8, 1, .rw, 0), (9, 1, .rw, 0), (10, 1, .rw, 0), (11, 1, .rw, 0)]⟩
/-- EDGE_STATUS (R173). -/
def rowEDGE_STATUS : RegRow := ⟨.edge_status, 0x268, 64, 4096, 1, 0, [(0, 1, .w1c, 0), (1, 2, .ro, 0), (4, 1, .w1c, 0), (5, 1, .w1c, 0), (6, 1, .w1c, 0), (7, 1, .w1c, 0), (8, 4, .ro, 0)]⟩
/-- HALO_STAT (R174). -/
def rowHALO_STAT : RegRow := ⟨.halo_stat, 0x270, 64, 4096, 1, 0, [(0, 4, .ro, 0), (4, 4, .ro, 0), (8, 4, .ro, 0), (12, 4, .ro, 0), (16, 1, .wo, 0), (32, 32, .ro, 0)]⟩
/-- SND_TREE_ERR (R175). -/
def rowSND_TREE_ERR : RegRow := ⟨.snd_tree_err, 0x278, 64, 4096, 1, 0, [(0, 16, .rc, 0), (16, 1, .w1c, 0), (17, 1, .w1c, 0), (18, 1, .ro, 0), (20, 2, .ro, 0), (22, 2, .ro, 0), (24, 6, .ro, 0), (32, 8, .ro, 0), (48, 13, .ro, 0)]⟩
/-- SCMD (R207). -/
def rowSCMD : RegRow := ⟨.scmd, 0x500, 64, 4096, 1, 0, [(0, 6, .rw, 0), (8, 4, .rw, 0), (12, 4, .rw, 0), (16, 1, .rw, 0), (17, 1, .rw, 0), (18, 1, .rw, 0)]⟩
/-- SMODE (R208). -/
def rowSMODE : RegRow := ⟨.smode, 0x508, 64, 4096, 1, 0, [(0, 3, .rw, 0), (8, 8, .rw, 0)]⟩
/-- SLICE_SEL (R209). -/
def rowSLICE_SEL : RegRow := ⟨.slice_sel, 0x510, 64, 4096, 1, 0, [(0, 1, .rw, 1), (8, 6, .rw, 0), (16, 8, .rw, 0)]⟩
/-- SFLAGS (R210). -/
def rowSFLAGS : RegRow := ⟨.sflags, 0x518, 64, 4096, 1, 0, [(0, 8, .w1c, 0), (8, 8, .ro, 0)]⟩
/-- SUTOR_STAT (R211). -/
def rowSUTOR_STAT : RegRow := ⟨.sutor_stat, 0x520, 64, 4096, 1, 0, [(0, 1, .ro, 0), (1, 1, .ro, 0), (2, 1, .w1c, 0), (3, 1, .w1c, 0), (4, 1, .w1c, 0), (5, 1, .w1c, 0), (6, 1, .w1c, 0)]⟩
/-- WP_ADDR (R212). -/
def rowWP_ADDR : RegRow := ⟨.wp_addr, 0x528, 64, 4096, 1, 0, [(6, 42, .rw, 0)]⟩
/-- WP_CMD (R212). -/
def rowWP_CMD : RegRow := ⟨.wp_cmd, 0x530, 64, 4096, 1, 0, [(0, 1, .rw, 0), (1, 1, .rw, 0), (2, 2, .rw, 0), (16, 24, .rw, 0)]⟩
/-- WP_STAT (R212). -/
def rowWP_STAT : RegRow := ⟨.wp_stat, 0x538, 64, 4096, 1, 0, [(0, 1, .ro, 0), (1, 1, .w1c, 0), (8, 4, .ro, 0), (16, 6, .ro, 0)]⟩
/-- LANE_EXC (R213). -/
def rowLANE_EXC : RegRow := ⟨.lane_exc, 0x540, 64, 4096, 8, 8, [(0, 1, .ro, 0), (8, 1, .ro, 0), (16, 1, .ro, 0), (24, 1, .ro, 0), (32, 1, .ro, 0), (40, 1, .ro, 0), (48, 1, .ro, 0), (56, 1, .ro, 0), (1, 1, .ro, 0), (9, 1, .ro, 0), (17, 1, .ro, 0), (25, 1, .ro, 0), (33, 1, .ro, 0), (41, 1, .ro, 0), (49, 1, .ro, 0), (57, 1, .ro, 0), (2, 1, .ro, 0), (10, 1, .ro, 0), (18, 1, .ro, 0), (26, 1, .ro, 0), (34, 1, .ro, 0), (42, 1, .ro, 0), (50, 1, .ro, 0), (58, 1, .ro, 0), (3, 1, .ro, 0), (11, 1, .ro, 0), (19, 1, .ro, 0), (27, 1, .ro, 0), (35, 1, .ro, 0), (43, 1, .ro, 0), (51, 1, .ro, 0), (59, 1, .ro, 0), (4, 1, .ro, 0), (12, 1, .ro, 0), (20, 1, .ro, 0), (28, 1, .ro, 0), (36, 1, .ro, 0), (44, 1, .ro, 0), (52, 1, .ro, 0), (60, 1, .ro, 0), (5, 1, .ro, 0), (13, 1, .ro, 0), (21, 1, .ro, 0), (29, 1, .ro, 0), (37, 1, .ro, 0), (45, 1, .ro, 0), (53, 1, .ro, 0), (61, 1, .ro, 0), (6, 1, .ro, 0), (14, 1, .ro, 0), (22, 1, .ro, 0), (30, 1, .ro, 0), (38, 1, .ro, 0), (46, 1, .ro, 0), (54, 1, .ro, 0), (62, 1, .ro, 0), (7, 1, .ro, 0), (15, 1, .ro, 0), (23, 1, .ro, 0), (31, 1, .ro, 0), (39, 1, .ro, 0), (47, 1, .ro, 0), (55, 1, .ro, 0), (63, 1, .ro, 0)]⟩
/-- SEQ_CTL (R310). -/
def rowSEQ_CTL : RegRow := ⟨.seq_ctl, 0x0, 64, 4096, 1, 0, [(0, 1, .w1s, 0), (1, 1, .wo, 0)]⟩
/-- SEQ_STATUS (R311). -/
def rowSEQ_STATUS : RegRow := ⟨.seq_status, 0x8, 64, 4096, 1, 0, [(0, 2, .ro, 0), (2, 1, .ro, 0), (3, 1, .ro, 0), (4, 1, .ro, 0), (5, 1, .w1c, 0), (6, 1, .w1c, 0), (8, 3, .ro, 0), (16, 5, .ro, 0), (24, 6, .ro, 0), (30, 1, .ro, 0), (31, 1, .ro, 0)]⟩
/-- PARK_CTL (R312). -/
def rowPARK_CTL : RegRow := ⟨.park_ctl, 0x10, 64, 4096, 1, 0, [(0, 1, .w1s, 0), (1, 1, .w1s, 0), (2, 1, .w1s, 0), (3, 1, .w1c, 0), (4, 1, .w1c, 0), (8, 5, .ro, 0)]⟩
/-- RB_SEL (R313). -/
def rowRB_SEL : RegRow := ⟨.rb_sel, 0x18, 64, 4096, 1, 0, [(0, 4, .rw, 0), (8, 6, .rw, 0), (16, 8, .rw, 0), (32, 12, .rw, 0), (62, 1, .ro, 0)]⟩
/-- RB_DATA (R313). -/
def rowRB_DATA : RegRow := ⟨.rb_data, 0x20, 64, 4096, 1, 0, [(0, 64, .ro, 0)]⟩
/-- HMSG_IN (R314). -/
def rowHMSG_IN : RegRow := ⟨.hmsg_in, 0x28, 64, 4096, 1, 0, [(0, 64, .rw, 0)]⟩
/-- HMSG_OUT (R314). -/
def rowHMSG_OUT : RegRow := ⟨.hmsg_out, 0x30, 64, 4096, 1, 0, [(0, 64, .rw, 0)]⟩
/-- TIMER (R314). -/
def rowTIMER : RegRow := ⟨.timer, 0x38, 64, 4096, 1, 0, [(0, 64, .rw, 0)]⟩
/-- SPAD_STARVE (R315). -/
def rowSPAD_STARVE : RegRow := ⟨.spad_starve, 0x40, 64, 4096, 1, 0, [(0, 8, .rc, 0), (8, 8, .rc, 0), (16, 8, .rc, 0), (24, 8, .rc, 0), (32, 8, .rc, 0), (40, 8, .rc, 0), (48, 8, .rc, 0), (56, 8, .rc, 0)]⟩
/-- SPAD_WAIT (R315). -/
def rowSPAD_WAIT : RegRow := ⟨.spad_wait, 0x48, 64, 4096, 1, 0, [(0, 32, .rc, 0), (32, 3, .rc, 0)]⟩
/-- PART_CMD (R317). -/
def rowPART_CMD : RegRow := ⟨.part_cmd, 0x40000, 1, 0, 1, 0, [(0, 2, .wo, 0), (8, 6, .wo, 0), (16, 2, .wo, 0), (18, 2, .wo, 0), (24, 6, .wo, 0)]⟩
/-- PART_STAT (R317). -/
def rowPART_STAT : RegRow := ⟨.part_stat, 0x40008, 1, 0, 1, 0, [(0, 1, .ro, 0), (1, 1, .w1c, 0), (2, 3, .ro, 0)]⟩
/-- PART_MAP (R317). -/
def rowPART_MAP : RegRow := ⟨.part_map, 0x40100, 64, 8, 1, 0, [(0, 1, .ro, 0), (1, 6, .ro, 0), (7, 2, .ro, 0), (9, 2, .ro, 0), (11, 6, .ro, 0)]⟩
/-- RING_BASE (R355). -/
def rowRING_BASE : RegRow := ⟨.ring_base, 0x80000, 8192, 32, 1, 0, [(12, 52, .rw, 0)]⟩
/-- RING_CFG (R356). -/
def rowRING_CFG : RegRow := ⟨.ring_cfg, 0x80008, 8192, 32, 1, 0, [(0, 1, .rw, 0), (1, 2, .rw, 0), (8, 5, .rw, 0), (13, 13, .rw, 0), (32, 5, .rw, 0), (37, 1, .rw, 0), (38, 8, .rw, 0), (46, 1, .rw, 0), (47, 6, .rw, 0)]⟩
/-- RING_PTR (R357). -/
def rowRING_PTR : RegRow := ⟨.ring_ptr, 0x80010, 8192, 32, 1, 0, [(0, 16, .ro, 0), (16, 16, .ro, 0), (32, 6, .ro, 0), (63, 1, .ro, 0)]⟩
/-- RING_STAT (R358). -/
def rowRING_STAT : RegRow := ⟨.ring_stat, 0x80018, 8192, 32, 1, 0, [(0, 1, .w1c, 0), (1, 1, .w1c, 0), (2, 1, .w1c, 0), (3, 1, .w1c, 0), (4, 1, .ro, 0), (8, 4, .ro, 0), (12, 4, .ro, 0), (32, 16, .rc, 0)]⟩
/-- FUNC_CFG (R359). -/
def rowFUNC_CFG : RegRow := ⟨.func_cfg, 0x41000, 64, 8, 1, 0, [(0, 13, .rw, 0), (13, 1, .rw, 0), (16, 8, .rw, 0), (24, 1, .rw, 0)]⟩
/-- FUNC_STAT (R359). -/
def rowFUNC_STAT : RegRow := ⟨.func_stat, 0x41200, 64, 8, 1, 0, [(0, 1, .ro, 0), (16, 16, .rc, 0)]⟩
/-- RG_OWNER (R360). -/
def rowRG_OWNER : RegRow := ⟨.rg_owner, 0x41400, 128, 8, 1, 0, [(0, 6, .rw, 0), (6, 1, .rw, 0), (7, 1, .w1c, 0)]⟩
/-- STG_ECC (R383). -/
def rowSTG_ECC : RegRow := ⟨.stg_ecc, 0x46000, 1, 0, 1, 0, [(0, 32, .rc, 0), (32, 16, .rc, 0)]⟩
/-- STG_ERR_CAP (R383). -/
def rowSTG_ERR_CAP : RegRow := ⟨.stg_err_cap, 0x46008, 1, 0, 1, 0, [(0, 1, .w1c, 0), (1, 1, .w1c, 0), (2, 1, .ro, 0), (8, 5, .ro, 0), (16, 8, .ro, 0), (32, 26, .ro, 0)]⟩
/-- STG_COLL (R383). -/
def rowSTG_COLL : RegRow := ⟨.stg_coll, 0x46100, 32, 8, 1, 0, [(0, 32, .rc, 0)]⟩
/-- STG_CONFLICT (R384). -/
def rowSTG_CONFLICT : RegRow := ⟨.stg_conflict, 0x48000, 256, 32, 4, 8, [(0, 32, .rc, 0)]⟩
/-- HBM_SEED (R385). -/
def rowHBM_SEED : RegRow := ⟨.hbm_seed, 0x4A000, 64, 8, 1, 0, [(0, 2, .rw, 0), (2, 1, .w1c, 0)]⟩
/-- CHART_CNT (R385). -/
def rowCHART_CNT : RegRow := ⟨.chart_cnt, 0x4A200, 64, 8, 1, 0, [(0, 22, .ro, 0)]⟩
/-- CHART_ECC (R386). -/
def rowCHART_ECC : RegRow := ⟨.chart_ecc, 0x4A400, 1, 0, 1, 0, [(0, 32, .rc, 0), (32, 16, .rc, 0)]⟩
/-- CHART_RD (R386). -/
def rowCHART_RD : RegRow := ⟨.chart_rd, 0x4A408, 1, 0, 1, 0, [(0, 21, .rw, 0)]⟩
/-- CHART_RD_DATA (R386). -/
def rowCHART_RD_DATA : RegRow := ⟨.chart_rd_data, 0x4A410, 1, 0, 1, 0, [(0, 32, .ro, 0), (32, 1, .ro, 0)]⟩
/-- HOT_CFG (R386). -/
def rowHOT_CFG : RegRow := ⟨.hot_cfg, 0x4A420, 1, 0, 1, 0, [(0, 6, .rw, 8), (8, 8, .rw, 100)]⟩
/-- HOT_CNT (R387). -/
def rowHOT_CNT : RegRow := ⟨.hot_cnt, 0x4A800, 128, 8, 1, 0, [(0, 32, .rc, 0), (32, 1, .ro, 0)]⟩
/-- HBM_STAT (R388). -/
def rowHBM_STAT : RegRow := ⟨.hbm_stat, 0x50000, 4, 4096, 1, 0, [(0, 1, .ro, 0), (1, 1, .ro, 0), (8, 8, .ro, 0), (32, 32, .rc, 0)]⟩
/-- HBM_ERR (R388). -/
def rowHBM_ERR : RegRow := ⟨.hbm_err, 0x50008, 4, 4096, 1, 0, [(0, 16, .rc, 0), (16, 5, .ro, 0)]⟩
/-- HBM_XLAT (R388). -/
def rowHBM_XLAT : RegRow := ⟨.hbm_xlat, 0x50010, 4, 4096, 1, 0, [(0, 32, .rc, 0), (32, 32, .rc, 0)]⟩
/-- DMA_STAT (R389). -/
def rowDMA_STAT : RegRow := ⟨.dma_stat, 0x4B000, 16, 8, 1, 0, [(0, 1, .ro, 0), (8, 6, .ro, 0), (16, 13, .ro, 0), (32, 32, .ro, 0)]⟩
/-- NOC_CTL (R419). -/
def rowNOC_CTL : RegRow := ⟨.noc_ctl, 0x400000, 1, 0, 1, 0, [(0, 1, .ro, 0), (1, 1, .w1s, 0), (2, 1, .ro, 0), (3, 1, .w1c, 0)]⟩
/-- NOC_TMO (R420). -/
def rowNOC_TMO : RegRow := ⟨.noc_tmo, 0x400008, 1, 0, 1, 0, [(0, 24, .rw, 262144), (24, 8, .rw, 64), (32, 16, .rw, 512)]⟩
/-- NOC_ERR_CAP (R421). -/
def rowNOC_ERR_CAP : RegRow := ⟨.noc_err_cap, 0x400010, 1, 0, 1, 0, [(0, 1, .w1c, 0), (1, 1, .w1c, 0), (2, 3, .ro, 0), (5, 2, .ro, 0), (8, 6, .ro, 0), (16, 8, .ro, 0), (24, 8, .ro, 0), (32, 3, .ro, 0)]⟩
/-- ROUTER_CTL (R422). -/
def rowROUTER_CTL : RegRow := ⟨.router_ctl, 0x401000, 40, 16, 1, 0, [(0, 4, .rw, 0), (4, 1, .w1s, 0), (5, 1, .w1c, 0)]⟩
/-- ROUTER_STAT (R422). -/
def rowROUTER_STAT : RegRow := ⟨.router_stat, 0x401008, 40, 16, 1, 0, [(0, 1, .ro, 0), (1, 4, .ro, 0), (8, 16, .rc, 0), (24, 16, .rc, 0), (40, 16, .rc, 0)]⟩
/-- NI_STAT (R423). -/
def rowNI_STAT : RegRow := ⟨.ni_stat, 0x404000, 256, 16, 1, 0, [(0, 16, .rc, 0), (16, 16, .rc, 0), (32, 16, .rc, 0), (48, 16, .rc, 0)]⟩
/-- NI_ECC (R423). -/
def rowNI_ECC : RegRow := ⟨.ni_ecc, 0x404008, 256, 16, 1, 0, [(0, 32, .rc, 0), (32, 16, .rc, 0), (48, 8, .rc, 0), (56, 8, .rc, 0)]⟩
/-- LINK_CTL (R455). -/
def rowLINK_CTL : RegRow := ⟨.link_ctl, 0x60000, 10, 4096, 1, 0, [(0, 1, .rw, 0), (1, 1, .rw, 0), (2, 1, .rw, 1), (3, 1, .rw, 1), (4, 1, .rw, 0), (5, 1, .w1s, 0), (8, 6, .rw, 16), (16, 8, .rw, 20), (24, 8, .rw, 16), (32, 16, .rw, 1000), (48, 4, .rw, 4)]⟩
/-- LINK_STAT (R456). -/
def rowLINK_STAT : RegRow := ⟨.link_stat, 0x60008, 10, 4096, 1, 0, [(0, 3, .ro, 0), (3, 3, .ro, 0), (6, 1, .w1c, 0), (7, 1, .w1c, 0), (8, 1, .ro, 0), (9, 1, .w1c, 0), (10, 1, .ro, 0), (16, 6, .ro, 0), (24, 6, .ro, 0), (32, 16, .ro, 0), (48, 16, .rc, 0)]⟩
/-- LINK_PEER (R456). -/
def rowLINK_PEER : RegRow := ⟨.link_peer, 0x60010, 10, 4096, 1, 0, [(0, 4, .ro, 0), (4, 4, .ro, 0), (8, 4, .ro, 0), (12, 4, .ro, 0), (16, 1, .ro, 0), (32, 32, .ro, 0)]⟩
/-- LANE_MAP (R457). -/
def rowLANE_MAP : RegRow := ⟨.lane_map, 0x60018, 10, 4096, 1, 0, [(0, 32, .ro, 0), (32, 32, .ro, 0)]⟩
/-- LANE_CMD (R457). -/
def rowLANE_CMD : RegRow := ⟨.lane_cmd, 0x60020, 10, 4096, 1, 0, [(0, 32, .w1s, 0), (32, 32, .w1s, 0)]⟩
/-- LANE_MODE (R457). -/
def rowLANE_MODE : RegRow := ⟨.lane_mode, 0x60028, 10, 4096, 1, 0, [(0, 24, .rw, 0)]⟩
/-- LINK_ERR (R458). -/
def rowLINK_ERR : RegRow := ⟨.link_err, 0x60030, 10, 4096, 1, 0, [(0, 32, .rc, 0), (32, 16, .rc, 0), (48, 16, .rc, 0)]⟩
/-- LINK_ERR2 (R458). -/
def rowLINK_ERR2 : RegRow := ⟨.link_err2, 0x60038, 10, 4096, 1, 0, [(0, 16, .rc, 0)]⟩
/-- LANE_ERR (R458). -/
def rowLANE_ERR : RegRow := ⟨.lane_err, 0x60100, 10, 4096, 32, 8, [(0, 32, .rc, 0), (32, 16, .rc, 0), (48, 1, .ro, 0), (49, 1, .ro, 0), (50, 2, .ro, 0)]⟩
/-- TUN_LADDR (R459). -/
def rowTUN_LADDR : RegRow := ⟨.tun_laddr, 0x60200, 10, 4096, 1, 0, [(0, 48, .rw, 0)]⟩
/-- TUN_RADDR (R459). -/
def rowTUN_RADDR : RegRow := ⟨.tun_raddr, 0x60208, 10, 4096, 1, 0, [(0, 40, .rw, 0)]⟩
/-- TUN_CMD (R459). -/
def rowTUN_CMD : RegRow := ⟨.tun_cmd, 0x60210, 10, 4096, 1, 0, [(0, 24, .wo, 0), (24, 1, .wo, 0), (25, 1, .wo, 0)]⟩
/-- TUN_STAT (R459). -/
def rowTUN_STAT : RegRow := ⟨.tun_stat, 0x60218, 10, 4096, 1, 0, [(0, 4, .ro, 0), (4, 1, .ro, 0), (5, 1, .w1c, 0), (6, 1, .w1c, 0), (8, 4, .ro, 0), (16, 16, .ro, 0), (32, 16, .ro, 0)]⟩
/-- FLEET_ID (R460). -/
def rowFLEET_ID : RegRow := ⟨.fleet_id, 0x4F000, 1, 0, 1, 0, [(0, 4, .rw, 0), (4, 4, .rw, 0), (8, 4, .rw, 0), (16, 4, .rw, 0), (20, 4, .rw, 0), (24, 4, .rw, 0)]⟩
/-- LINK_WAKE (R461). -/
def rowLINK_WAKE : RegRow := ⟨.link_wake, 0x54040, 1, 0, 1, 0, [(0, 2, .rw, 0), (2, 2, .rw, 0), (4, 2, .rw, 0), (6, 2, .rw, 0), (8, 2, .rw, 0), (10, 2, .rw, 0), (12, 2, .rw, 0), (14, 2, .rw, 0), (16, 2, .rw, 0), (18, 2, .rw, 0), (32, 1, .w1c, 0), (33, 1, .w1c, 0), (34, 1, .w1c, 0), (35, 1, .w1c, 0), (36, 1, .w1c, 0), (37, 1, .w1c, 0), (38, 1, .w1c, 0), (39, 1, .w1c, 0), (40, 1, .w1c, 0), (41, 1, .w1c, 0)]⟩
/-- MER_TIME (R478). -/
def rowMER_TIME : RegRow := ⟨.mer_time, 0x44000, 1, 0, 1, 0, [(0, 64, .ro, 0)]⟩
/-- MER_CTL (R478). -/
def rowMER_CTL : RegRow := ⟨.mer_ctl, 0x44008, 1, 0, 1, 0, [(0, 8, .rw, 0)]⟩
/-- MER_STAT (R478). -/
def rowMER_STAT : RegRow := ⟨.mer_stat, 0x44010, 1, 0, 1, 0, [(0, 3, .ro, 0), (4, 4, .ro, 0), (8, 6, .ro, 0), (16, 12, .ro, 0), (32, 32, .ro, 0)]⟩
/-- BAR_CFG (R478). -/
def rowBAR_CFG : RegRow := ⟨.bar_cfg, 0x44018, 1, 0, 1, 0, [(0, 32, .rw, 8000)]⟩
/-- BAR_STAT (R479). -/
def rowBAR_STAT : RegRow := ⟨.bar_stat, 0x44100, 16, 8, 1, 0, [(0, 8, .ro, 0), (8, 1, .ro, 0), (16, 16, .rc, 0), (32, 16, .rc, 0)]⟩
/-- WATCH_CFG (R480). -/
def rowWATCH_CFG : RegRow := ⟨.watch_cfg, 0x45000, 72, 32, 1, 0, [(0, 32, .ro, 0), (32, 6, .ro, 0), (40, 1, .ro, 0)]⟩
/-- WATCH_MODE (R480). -/
def rowWATCH_MODE : RegRow := ⟨.watch_mode, 0x45008, 72, 32, 1, 0, [(0, 1, .rw, 1), (1, 1, .rw, 0), (2, 3, .rw, 0)]⟩
/-- WATCH_STAT (R480). -/
def rowWATCH_STAT : RegRow := ⟨.watch_stat, 0x45010, 72, 32, 1, 0, [(0, 32, .ro, 0), (32, 16, .ro, 0), (48, 1, .w1c, 0), (49, 1, .ro, 0), (50, 1, .w1c, 0), (51, 1, .ro, 0)]⟩
/-- WATCH_NEXT (R480). -/
def rowWATCH_NEXT : RegRow := ⟨.watch_next, 0x45018, 72, 32, 1, 0, [(0, 64, .ro, 0)]⟩
/-- FAB_STAT (R509). -/
def rowFAB_STAT : RegRow := ⟨.fab_stat, 0x58000, 8, 4096, 1, 0, [(0, 16, .ro, 0), (16, 16, .ro, 65535), (32, 1, .w1c, 0), (33, 1, .w1c, 0), (40, 8, .ro, 0), (48, 9, .ro, 0)]⟩
/-- FAB_CLK (R510). -/
def rowFAB_CLK : RegRow := ⟨.fab_clk, 0x58010, 8, 4096, 4, 8, [(0, 2, .rw, 0), (2, 5, .rw, 0), (8, 4, .rw, 0), (16, 3, .ro, 0), (20, 1, .ro, 0), (21, 1, .w1c, 0), (22, 1, .w1c, 0), (23, 1, .w1c, 0)]⟩
/-- FAB_CAP (R511). -/
def rowFAB_CAP : RegRow := ⟨.fab_cap, 0x58040, 8, 4096, 1, 0, [(0, 1, .w1s, 0), (1, 1, .ro, 0)]⟩
/-- FAB_RB_SEL (R511). -/
def rowFAB_RB_SEL : RegRow := ⟨.fab_rb_sel, 0x58048, 8, 4096, 1, 0, [(0, 1, .rw, 0), (8, 8, .rw, 0), (16, 5, .rw, 0), (32, 12, .rw, 0), (44, 8, .ro, 0), (52, 1, .ro, 0)]⟩
/-- FAB_RB_DATA (R511). -/
def rowFAB_RB_DATA : RegRow := ⟨.fab_rb_data, 0x58050, 8, 4096, 1, 0, [(0, 64, .ro, 0)]⟩
/-- FAB_BLK (R512). -/
def rowFAB_BLK : RegRow := ⟨.fab_blk, 0x58100, 8, 4096, 32, 8, [(0, 13, .ro, 0), (16, 1, .w1c, 0), (17, 1, .w1c, 0), (24, 16, .rc, 0), (40, 16, .rc, 0)]⟩
/-- PWR_DOM (R537). -/
def rowPWR_DOM : RegRow := ⟨.pwr_dom, 0x43000, 64, 8, 1, 0, [(0, 3, .ro, 3), (3, 1, .ro, 0), (4, 3, .ro, 0), (7, 1, .ro, 0), (8, 3, .ro, 0), (11, 1, .w1c, 0), (12, 4, .ro, 0), (16, 8, .ro, 0), (32, 16, .rc, 0)]⟩
/-- PWR_CFG (R538). -/
def rowPWR_CFG : RegRow := ⟨.pwr_cfg, 0x43200, 1, 0, 1, 0, [(0, 8, .rw, 32), (16, 16, .rw, 100)]⟩
/-- PWR_WAKEMAP (R538). -/
def rowPWR_WAKEMAP : RegRow := ⟨.pwr_wakemap, 0x43210, 4, 8, 1, 0, [(0, 41, .rw, 0)]⟩
/-- GOV_CTL (R539). -/
def rowGOV_CTL : RegRow := ⟨.gov_ctl, 0x43300, 1, 0, 1, 0, [(0, 1, .rw, 1), (8, 10, .rw, 880), (24, 8, .rw, 110)]⟩
/-- GOV_STAT (R539). -/
def rowGOV_STAT : RegRow := ⟨.gov_stat, 0x43308, 1, 0, 1, 0, [(0, 10, .ro, 0), (16, 8, .ro, 0), (24, 6, .ro, 0), (30, 1, .ro, 0), (31, 1, .w1c, 0)]⟩
/-- PWR_GRANT (R540). -/
def rowPWR_GRANT : RegRow := ⟨.pwr_grant, 0x43400, 64, 8, 1, 0, [(0, 41, .rw, 0)]⟩
/-- WAKE_CAUSE (R541). -/
def rowWAKE_CAUSE : RegRow := ⟨.wake_cause, 0x54000, 1, 0, 1, 0, [(0, 4, .ro, 0), (4, 6, .ro, 0), (10, 1, .ro, 0)]⟩
/-- WAKE_TIME (R541). -/
def rowWAKE_TIME : RegRow := ⟨.wake_time, 0x54008, 1, 0, 1, 0, [(0, 64, .ro, 0)]⟩
/-- WAKE_EN (R541). -/
def rowWAKE_EN : RegRow := ⟨.wake_en, 0x54010, 1, 0, 1, 0, [(0, 1, .rw, 0), (1, 1, .rw, 1), (2, 1, .rw, 0)]⟩
/-- AON_TIMER (R541). -/
def rowAON_TIMER : RegRow := ⟨.aon_timer, 0x54018, 1, 0, 1, 0, [(0, 64, .rw, 0)]⟩
/-- AON_TIME (R541). -/
def rowAON_TIME : RegRow := ⟨.aon_time, 0x54020, 1, 0, 1, 0, [(0, 64, .ro, 0)]⟩
/-- SUTOR_RES (R561). -/
def rowSUTOR_RES : RegRow := ⟨.sutor_res, 0x580, 64, 4096, 1, 0, [(0, 16, .rc, 0), (16, 1, .w1c, 0), (17, 1, .w1c, 0), (18, 1, .ro, 0), (24, 6, .ro, 0), (32, 8, .ro, 0), (40, 6, .ro, 0)]⟩
/-- SEQ_ECC (R561). -/
def rowSEQ_ECC : RegRow := ⟨.seq_ecc, 0x588, 64, 4096, 1, 0, [(0, 16, .rc, 0), (16, 16, .rc, 0), (32, 16, .rc, 0), (48, 16, .rc, 0)]⟩
/-- TLOG_T0 (R562). -/
def rowTLOG_T0 : RegRow := ⟨.tlog_t0, 0x210000, 256, 256, 16, 16, [(0, 48, .ro, 0), (48, 8, .ro, 0), (56, 4, .ro, 0), (60, 4, .ro, 0)]⟩
/-- TLOG_T1 (R562). -/
def rowTLOG_T1 : RegRow := ⟨.tlog_t1, 0x210008, 256, 256, 16, 16, [(0, 64, .ro, 0)]⟩
/-- TLOG_STAT (R562). -/
def rowTLOG_STAT : RegRow := ⟨.tlog_stat, 0x208000, 256, 8, 1, 0, [(0, 4, .ro, 0), (16, 16, .rc, 0)]⟩
/-- DLOG_PTR (R562). -/
def rowDLOG_PTR : RegRow := ⟨.dlog_ptr, 0x208800, 1, 0, 1, 0, [(0, 10, .ro, 0), (32, 32, .ro, 0)]⟩
/-- DEV_ERR (R562). -/
def rowDEV_ERR : RegRow := ⟨.dev_err, 0x208808, 1, 0, 1, 0, [(0, 1, .ro, 0), (1, 3, .ro, 0), (16, 32, .rc, 0)]⟩
/-- SURVEY_CTL (R563). -/
def rowSURVEY_CTL : RegRow := ⟨.survey_ctl, 0x4C000, 4, 64, 1, 0, [(0, 1, .rw, 1), (1, 1, .rw, 1), (2, 1, .rw, 1), (3, 1, .rw, 1), (32, 32, .rw, 1000)]⟩
/-- SURVEY_STAT (R563). -/
def rowSURVEY_STAT : RegRow := ⟨.survey_stat, 0x4C008, 4, 64, 1, 0, [(0, 16, .ro, 0), (16, 16, .rc, 0), (32, 16, .rc, 0), (48, 7, .rc, 0)]⟩
/-- HBM_RECAL (R564). -/
def rowHBM_RECAL : RegRow := ⟨.hbm_recal, 0x50018, 4, 4096, 1, 0, [(0, 4, .rw, 0), (4, 1, .w1s, 0), (5, 1, .ro, 0), (6, 1, .w1c, 0), (16, 16, .ro, 0)]⟩
/-- FW_CTL (R565). -/
def rowFW_CTL : RegRow := ⟨.fw_ctl, 0x4D000, 1, 0, 1, 0, [(0, 1, .ro, 0), (1, 1, .w1s, 0), (2, 1, .w1s, 0), (3, 1, .ro, 0), (4, 1, .ro, 0), (5, 1, .w1c, 0), (8, 4, .ro, 0), (32, 32, .ro, 0)]⟩
/-- FW_SRC (R565). -/
def rowFW_SRC : RegRow := ⟨.fw_src, 0x4D008, 1, 0, 1, 0, [(0, 26, .rw, 0), (32, 32, .rw, 0)]⟩
/-- SEC_STAT (R592). -/
def rowSEC_STAT : RegRow := ⟨.sec_stat, 0x4E000, 1, 0, 1, 0, [(0, 1, .ro, 0), (1, 1, .ro, 0), (2, 1, .ro, 0), (3, 1, .ro, 0), (4, 7, .ro, 0), (11, 1, .ro, 0), (12, 7, .ro, 0), (19, 2, .ro, 0), (21, 2, .ro, 0), (23, 2, .ro, 0), (25, 1, .ro, 0)]⟩
/-- SEC_CTL (R592). -/
def rowSEC_CTL : RegRow := ⟨.sec_ctl, 0x4E008, 1, 0, 1, 0, [(0, 1, .w1s, 0), (1, 1, .w1s, 0), (2, 1, .ro, 0), (3, 1, .w1c, 0)]⟩
/-- ACL_PERM (R593). -/
def rowACL_PERM : RegRow := ⟨.acl_perm, 0x800000, 256, 2048, 256, 8, [(0, 1, .rw, 0), (2, 1, .rw, 0), (4, 1, .rw, 0), (6, 1, .rw, 0), (8, 1, .rw, 0), (10, 1, .rw, 0), (12, 1, .rw, 0), (14, 1, .rw, 0), (1, 1, .rw, 0), (3, 1, .rw, 0), (5, 1, .rw, 0), (7, 1, .rw, 0), (9, 1, .rw, 0), (11, 1, .rw, 0), (13, 1, .rw, 0), (15, 1, .rw, 0)]⟩
/-- ACL_BASE (R594). -/
def rowACL_BASE : RegRow := ⟨.acl_base, 0x880000, 256, 256, 8, 16, [(0, 1, .rw, 0), (6, 42, .rw, 0)]⟩
/-- ACL_LIMIT (R594). -/
def rowACL_LIMIT : RegRow := ⟨.acl_limit, 0x880008, 256, 256, 8, 16, [(6, 42, .rw, 0)]⟩
/-- ACL_CTL (R595). -/
def rowACL_CTL : RegRow := ⟨.acl_ctl, 0x890000, 256, 8, 1, 0, [(0, 1, .w1s, 0), (1, 1, .w1c, 0)]⟩
/-- DEV_ID (R618). -/
def rowDEV_ID : RegRow := ⟨.dev_id, 0x42000, 1, 0, 1, 0, [(0, 16, .ro, 4132), (16, 4, .ro, 0), (24, 8, .ro, 176), (32, 32, .ro, 0)]⟩
/-- RST_CAUSE (R618). -/
def rowRST_CAUSE : RegRow := ⟨.rst_cause, 0x42008, 1, 0, 1, 0, [(0, 2, .ro, 1), (16, 16, .ro, 0)]⟩
/-- BOOT_STAT (R618). -/
def rowBOOT_STAT : RegRow := ⟨.boot_stat, 0x42010, 1, 0, 1, 0, [(0, 4, .ro, 0), (4, 1, .ro, 0), (5, 1, .ro, 0), (8, 8, .ro, 0), (32, 32, .ro, 0)]⟩
/-- DOM_RST (R619). -/
def rowDOM_RST : RegRow := ⟨.dom_rst, 0x42018, 1, 0, 1, 0, [(0, 6, .rw, 0), (8, 1, .w1s, 0), (9, 1, .ro, 0), (10, 1, .w1c, 0), (12, 3, .ro, 0)]⟩
/-- The value after reset of the field of a row at (i, j) and lowest bit lo: as the row lists it, or as boot loads
it. -/
def rowRst (r : RegRow) (i j lo rst : Nat) : Nat :=
  match r.name with
  | .acl_perm => bootPerm i j lo
  | .acl_base => if lo = 0 then bootEn i j else (bootRegion i j).1 / 64
  | .acl_limit => (bootRegion i j).2 / 64
  | .router_ctl => if lo = 0 then routerPorts i else rst
  | _ => rst


/-- Every register of the map that has a table of fields (R627). -/
def regRows : List RegRow :=
  [rowARRAY_FAULT, rowLEASE_MAP, rowSURVEY_YIELD, rowPEMEM_ECC, rowPEMEM_ERR_CAP, rowPEMEM_CE_COL, rowPEMEM_INJ, rowSPARE_MAP, rowMSEQ_CTL, rowMSEQ_STATUS, rowMSEQ_SND, rowMSEQ_LAT, rowALM_ECC, rowALM_ERR_CAP, rowRESUME0, rowRESUME1, rowRESUME2, rowRESUME3, rowRESUME4, rowRESUME5] ++
  [rowRESUME6, rowRESUME7, rowEDGE_CFG, rowEDGE_STATUS, rowHALO_STAT, rowSND_TREE_ERR, rowSCMD, rowSMODE, rowSLICE_SEL, rowSFLAGS, rowSUTOR_STAT, rowWP_ADDR, rowWP_CMD, rowWP_STAT, rowLANE_EXC, rowSEQ_CTL, rowSEQ_STATUS, rowPARK_CTL, rowRB_SEL, rowRB_DATA] ++
  [rowHMSG_IN, rowHMSG_OUT, rowTIMER, rowSPAD_STARVE, rowSPAD_WAIT, rowPART_CMD, rowPART_STAT, rowPART_MAP, rowRING_BASE, rowRING_CFG, rowRING_PTR, rowRING_STAT, rowFUNC_CFG, rowFUNC_STAT, rowRG_OWNER, rowSTG_ECC, rowSTG_ERR_CAP, rowSTG_COLL, rowSTG_CONFLICT, rowHBM_SEED] ++
  [rowCHART_CNT, rowCHART_ECC, rowCHART_RD, rowCHART_RD_DATA, rowHOT_CFG, rowHOT_CNT, rowHBM_STAT, rowHBM_ERR, rowHBM_XLAT, rowDMA_STAT, rowNOC_CTL, rowNOC_TMO, rowNOC_ERR_CAP, rowROUTER_CTL, rowROUTER_STAT, rowNI_STAT, rowNI_ECC, rowLINK_CTL, rowLINK_STAT, rowLINK_PEER] ++
  [rowLANE_MAP, rowLANE_CMD, rowLANE_MODE, rowLINK_ERR, rowLINK_ERR2, rowLANE_ERR, rowTUN_LADDR, rowTUN_RADDR, rowTUN_CMD, rowTUN_STAT, rowFLEET_ID, rowLINK_WAKE, rowMER_TIME, rowMER_CTL, rowMER_STAT, rowBAR_CFG, rowBAR_STAT, rowWATCH_CFG, rowWATCH_MODE, rowWATCH_STAT] ++
  [rowWATCH_NEXT, rowFAB_STAT, rowFAB_CLK, rowFAB_CAP, rowFAB_RB_SEL, rowFAB_RB_DATA, rowFAB_BLK, rowPWR_DOM, rowPWR_CFG, rowPWR_WAKEMAP, rowGOV_CTL, rowGOV_STAT, rowPWR_GRANT, rowWAKE_CAUSE, rowWAKE_TIME, rowWAKE_EN, rowAON_TIMER, rowAON_TIME, rowSUTOR_RES, rowSEQ_ECC] ++
  [rowTLOG_T0, rowTLOG_T1, rowTLOG_STAT, rowDLOG_PTR, rowDEV_ERR, rowSURVEY_CTL, rowSURVEY_STAT, rowHBM_RECAL, rowFW_CTL, rowFW_SRC, rowSEC_STAT, rowSEC_CTL, rowACL_PERM, rowACL_BASE, rowACL_LIMIT, rowACL_CTL, rowDEV_ID, rowRST_CAUSE, rowBOOT_STAT, rowDOM_RST]

end Sys2Proof.Machine
end

