-- ==== Sys2Proof/Machine/State.lean ====
section
/-! DEFINITION. The state of the part as plain data, the reasons a command can stop, and the state after power-on
reset. -/
namespace Sys2Proof.Machine
open Sys2Proof

/-! ### Processing elements, PE memory and slices (chapters 02, 03, 06, 07) -/

/-- The error state of one stored PE-memory row (R63, R71): which of its 72 codeword positions (0–63 the lanes,
64–71 the check bits) differ from the codeword, and whether it was written poisoned. A row with no error is not
listed. -/
structure RowErr where
  mask : BitVec 72
  poison : Bool
  deriving DecidableEq, Repr

/-- One word-time in a work queue (R179): the first lane it takes, its pack factor, its captured command and the
compute banks of TA and TB as they stood when it was captured (bit r of every lane word is plane r). -/
structure WordTime where
  lane0 : Nat
  k : Nat
  op : Nat
  fmt : Nat
  sfmt : Nat
  sgn : Bool
  asel : Bool
  dst : Bool
  ta : Tbl Plane
  tb : Tbl Plane
  deriving DecidableEq, Repr

/-- The result of one lane: where it goes (`dst` and `asel` as in SCMD, R188), its value and its flags. -/
structure LaneResult where
  lane : Nat
  toShadow : Bool
  asel : Bool
  value : Option Word
  flags : BitVec 8
  deriving DecidableEq, Repr

/-- A lane waiting for or in a divider (R190); `wt` is the number of its word-time in the work queue. -/
structure DivJob where
  wt : Nat
  lane : Nat
  a : Word
  b : Word
  rem : Bool
  fmt : Nat
  sgn : Bool
  asel : Bool
  dst : Bool
  deriving DecidableEq, Repr

/-- The data state of one slice (R176). Tables are keyed by lane; a lane listed in `cb`, `sh0` or `sh1` has its
valid bit set, and `cbOld`, `sh0Old` and `sh1Old` keep the words of lanes whose valid bit was cleared (R194, R197). `head` counts the word-times of the field's work queue this slice has taken. -/
structure Slice where
  head : Nat
  pipe : List (List LaneResult)
  divq : List DivJob
  acc0 : Tbl Word
  acc1 : Tbl Word
  sh0 : Tbl Word
  sh1 : Tbl Word
  cb : Tbl Word
  sh0Old : Tbl Word
  sh1Old : Tbl Word
  cbOld : Tbl Word
  tob : Tbl Word
  flags : Tbl (BitVec 8)
  stale : Bool          -- the lane flags belong to the committed group (R194, Clearing)
  mark : Bool           -- the residue or parity check failed in the pending group (R544)
  rm : BitVec 3
  ten : BitVec 8
  deriving DecidableEq, Repr

/-- A slice after reset (R204, R208). -/
def Slice.reset : Slice :=
  { head := 0, pipe := [], divq := [], acc0 := [], acc1 := [], sh0 := [], sh1 := [], cb := [],
    sh0Old := [], sh1Old := [], cbOld := [], tob := [],
    flags := [], stale := false, mark := false, rm := 0, ten := 0 }

/-- A word-port transfer of a field (R199) as WP_CMD and WP_ADDR described it at WPGO: the master, DIR (true: in), SRC
(true: TO), the element size in bytes, the address of element (0, 0) and the fill bank; the bytes already moved, and of
an inbound transfer those bytes. -/
structure WpRun where
  n : Nat
  inward : Bool
  srcTo : Bool
  esize : Nat
  addr : Nat
  bank : Bool
  pos : Nat
  got : List Byte
  deriving DecidableEq, Repr

/-- One field: its 128 × 128 PEs and its slices. `rows` holds user row a of every PE as a plane (missing: zeros),
`flags` planes f0–f7 (missing: the reset value of R41), `rowErr` the rows in error, keyed
4096 * (17 * slice row + physical slice column) + row; `fwd` the row the previous microword wrote (R66). -/
structure Field where
  rows : Tbl Plane
  flags : Tbl Plane
  nlatch : Plane
  rowErr : Tbl RowErr
  fwd : Option Nat
  ta0 : Tbl Plane
  ta1 : Tbl Plane
  tb0 : Tbl Plane
  tb1 : Tbl Plane
  wq : List WordTime
  slices : Tbl Slice
  wp : Option WpRun     -- the field's word-port transfer, while it runs (R200)
  deriving DecidableEq, Repr

/-- A field after power-on reset (R60, R81, R204). -/
def Field.reset : Field :=
  { rows := [], flags := [], nlatch := 0, rowErr := [], fwd := none, ta0 := [], ta1 := [], tb0 := [], tb1 := [],
    wq := [], slices := [], wp := none }

/-! ### The micro-sequencer (chapters 04, 06) -/

/-- STATE of MSEQ_STATUS (R127). -/
inductive MState where
  | unassigned | follower | idle | issuing | held | yielded | trapped
  deriving DecidableEq, Repr

/-- The loop counters, pointers, their ACALL copies and the DISPATCH parameter (R101, R108). -/
structure Ptrs where
  c0 : BitVec 16
  c1 : BitVec 16
  p1 : BitVec 13
  p2 : BitVec 13
  p3 : BitVec 13
  c0Init : BitVec 16
  c1Init : BitVec 16
  p1Init : BitVec 13
  p2Init : BitVec 13
  p3Init : BitVec 13
  dparam : BitVec 16
  deriving DecidableEq, Repr

/-- The counters and pointers after partition reset. -/
def Ptrs.reset : Ptrs := ⟨0, 0, 0, 0, 0, 0, 0, 0, 0, 0, 0⟩

/-- An entry of the issue queue or of the park list (R108, R302): its entry address, its parameters, the address of
its ACALL, and whether it has been released (R291). -/
structure QEntry where
  entry : BitVec 13
  p1 : BitVec 13
  p2 : BitVec 13
  p3 : BitVec 13
  c0 : BitVec 16
  c1 : BitVec 16
  dparam : BitVec 16
  apc : BitVec 14
  released : Bool
  deriving DecidableEq, Repr

/-- A routine: the address of its ACALL, whether it is released, and the slot of the word that ended it. -/
structure Routine where
  apc : BitVec 14
  released : Bool
  endSlot : Nat
  deriving DecidableEq, Repr

/-- A microword between issue and the PEs (R104): its slot, micro-PC and word, its effective addresses, the edge
configuration it was issued under (R155), whether its XP acts as IDLE (a skipped COMMIT, R197), and the ACALL of its
routine. -/
structure PipeWord where
  slot : Nat
  upc : BitVec 13
  word : MicroWord
  eaA : BitVec 13
  eaB : BitVec 13
  eaC : BitVec 13
  edge : BitVec 12
  xpIdle : Bool
  apc : BitVec 14
  deriving DecidableEq, Repr

/-- A microword the PEs have executed whose XP part has still to act in the slices (R177): its XP code and, per
field, the rows read as A and as B. -/
structure XpWord where
  xp : BitVec 4
  rowA : Tbl Plane
  rowB : Tbl Plane
  drains : Bool       -- WSRC = 11: OPT steps after the word (R182)
  idle : List Nat     -- fields whose PEs executed a null word: their transposers stay idle (R105)
  deriving DecidableEq, Repr

/-- Grid bits on their way to the n-latches (R48): the slot that sent them, the first slot that sees them, and the
plane each field receives. -/
structure Delivery where
  slot : Nat
  due : Nat
  planes : Tbl Plane
  deriving DecidableEq, Repr

/-- A Sounding or Census in the tree (R106, R107): the slot and micro-PC that started it, the ACALL of its routine,
its value once every PE has contributed, and whether the value has reached the master. -/
structure TreeRec where
  slot : Nat
  upc : BitVec 13
  apc : BitVec 14
  value : Option Nat
  arrived : Bool
  deriving DecidableEq, Repr

/-- An error report on its way to the master (R70, R105): the slot in whose place it is acted on, the machine-check
source (R316), the ACALL of the routine that issued the word, and the Logbook fields it carries. -/
structure Report where
  due : Nat
  mcsrc : Nat
  apc : BitVec 14
  field : Nat
  deriving DecidableEq, Repr

/-- Why issue has stopped, until the resume record becomes VALID (R113, R651). -/
structure Stop where
  kind : Nat            -- KIND of RESUME0 (R132)
  cause : Nat           -- trap cause, 0 for a yield
  mcsrc : Nat           -- MCSRC of TSTAT (R316)
  valid : Bool          -- VALID of the record (R171: false when no routine is stopped)
  upc : BitVec 13
  inHold : Bool
  holdRem : Nat
  apc : BitVec 14
  eflags : BitVec 8     -- EFLAGS of CSTATE (R215)
  sw : Bool             -- a software yield request was taken
  hub : Bool            -- a hub request was taken
  ended : Bool          -- the taking word ended its routine
  discarded : List QEntry  -- the ACALLs the trap discards
  deriving DecidableEq, Repr

/-- The micro-sequencer of one sequencer, with the transposer pointers its partition shares (R176). `skip` and
`mask` are ACTION 2 and ACTION 1 of R197, waiting for the COMMIT word. -/
structure MSeq where
  state : MState
  upc : BitVec 13
  ptrs : Ptrs
  stack : List (BitVec 13)      -- oldest first
  hold : Option Nat             -- repetitions still to issue of a HOLD in progress
  slot : Nat                    -- the number of the next issue slot; numbering starts at 64
  done : Nat                    -- slots the PEs have executed
  cur : Option Routine
  recApc : BitVec 14            -- ACALL of the routine the resume record describes
  ended : List Routine
  queue : List QEntry
  park : List QEntry
  pipe : List PipeWord
  xp : Option XpWord
  flight : List Delivery
  snds : List TreeRec
  cens : List TreeRec
  reports : List Report
  stop : Option Stop
  atrap : Option Stop           -- an array trap pending at the core (R296)
  pendSw : Bool
  pendRb : Bool
  pendSp : Bool
  hubSvc : Bool                 -- a hub request has been taken and its operation is not finished (R115)
  swYield : Bool                -- the yield was taken on a software request
  aborted : Bool                -- ABORT came while the hub held the array: the queue goes on when it ends (R115, R117)
  halo : Tbl Nat                -- outstanding halo requests per edge segment 4 * g + m (R160)
  haloAge : List (Nat × Nat)    -- (segment, tick) of every outstanding request, oldest first
  fra : Nat
  frb : Nat
  lp : Nat
  opt : Nat
  bank : Bool                   -- which bank is the fill bank
  loaded : Bool                 -- a row has been loaded since the last exchange (R179)
  undrained : Option Nat        -- WSRC = 11 words issued since TO was loaded, while rows are undrained (R194)
  pend : Bool                   -- a group is pending (R192)
  skip : Bool
  mask : Bool
  excMark : Bool                -- an exception-channel mismatch meets the group's check (R196)
  deriving DecidableEq, Repr

/-- A micro-sequencer after power-on reset (R127, R135). -/
def MSeq.reset : MSeq :=
  { state := .unassigned, upc := 0, ptrs := Ptrs.reset, stack := [], hold := none, slot := 64, done := 64,
    cur := none, recApc := 0, ended := [], queue := [], park := [], pipe := [], xp := none, flight := [], snds := [],
    cens := [], reports := [], stop := none, atrap := none, pendSw := false, pendRb := false, pendSp := false,
    hubSvc := false, swYield := false, aborted := false, halo := [], haloAge := [], fra := 0, frb := 0, lp := 64, opt := 0,
    bank := false, loaded := false, undrained := none, pend := false, skip := false,
    mask := false, excMark := false }

/-! ### The Belsar core (chapters 09, 10) -/

/-- CORE of SEQ_STATUS (R289, R311). -/
inductive CState where
  | halted | running | waiting
  deriving DecidableEq, Repr

/-- A repeat under way (R278, R279): the repetitions not yet complete, and whether the target is the whole word at the
program counter or only its second operation. -/
structure Rep where
  rem : Nat
  whole : Bool
  deriving DecidableEq, Repr

/-- A synchronous trap raised by a word and not yet entered (R294, R295). -/
structure SyncTrap where
  cause : Nat
  pc : BitVec 14
  slot : Bool
  status : Nat
  why : Nat
  badaddr : Option (BitVec 32)
  mcsrc : Nat
  rep : Option Rep
  deriving DecidableEq, Repr

/-- One line of the core's HBM cache (R380): its data as the core sees them. -/
structure CacheLine where
  bytes : Tbl Byte
  deriving DecidableEq, Repr

/-- The Belsar core of one sequencer. `shared` holds w0–w7, `window` the 504 registers of the circular store,
`cwp` the first private register of the current window in it; `masks` and `ras` the hidden fields by window; `sr` the
special registers by number, but for WSTAT and CYCLE, which are `res`, `depth` and `start`. `mid`: a word is under way that a
response holds up, so that no trap or interrupt is taken (R291). -/
structure Core where
  state : CState
  pc : BitVec 14
  slot : Bool
  shared : Tbl Word
  window : Tbl Word
  cwp : Nat
  masks : Tbl (BitVec 8)
  ras : Tbl (BitVec 14)
  res : Nat
  depth : Nat
  sr : Tbl Word
  rep : Option Rep
  mid : Bool
  imem : Tbl IWord
  trap : Option SyncTrap
  launched : Bool               -- an image started by LAUNCH has not yet completed
  start : Option Nat            -- the tick at which the latest image started (CYCLE, R281); none before the first
  cache : Tbl CacheLine
  deriving DecidableEq, Repr

/-- A core after power-on reset (R281, R289). -/
def Core.reset : Core :=
  { state := .halted, pc := 0, slot := false, shared := [], window := [], cwp := 0, masks := [], ras := [],
    res := 1, depth := 0, sr := [], rep := none, mid := false, imem := [], trap := none, launched := false,
    start := none, cache := [] }

/-! ### What leaves the part toward the host, and the Logbooks -/

/-- A posted write to host memory: the function that issues it, the address, the bytes (R326), and whether it carries the
relaxed-ordering attribute (R318). -/
structure HostWrite where
  func : Nat
  addr : Nat
  data : List Byte
  relaxed : Bool
  deriving DecidableEq, Repr

/-- The configuration space of the endpoint, as far as the part acts on it (R318, R320, R322): the sizes in bytes, Enable
Relaxed Ordering, Completion Timeout Value and Disable, the addresses in the BARs of the PF and in the VF BARs, VF Enable
and NumVFs. -/
structure Pcie where
  mps : Nat
  mrrs : Nat
  relaxed : Bool
  cto : Nat
  ctoOff : Bool
  bars : Vector Word 3
  vfBars : Vector Word 3
  vfEnable : Bool
  numVfs : Nat
  deriving DecidableEq, Repr

/-- The configuration space after reset: the default values that the PCIe Base Specification gives its registers. -/
def Pcie.reset : Pcie :=
  { mps := 128, mrrs := 512, relaxed := true, cto := 0, ctoOff := false, bars := Vector.replicate 3 0,
    vfBars := Vector.replicate 3 0, vfEnable := false, numVfs := 0 }

/-- A device Logbook entry (R550): L0 to L3, and the functions beside the PF that may read it (R349). -/
structure DlogEntry where
  l0 : Nat
  l1 : Nat
  l2 : Nat
  l3 : Nat
  vfs : List Nat
  deriving DecidableEq, Repr

/-- An MSI-X table entry after reset: masked (R625). -/
def msixReset : BitVec 128 := 0x00000001000000000000000000000000#128

/-! ### Descriptors (chapter 11) -/

/-- A host read of descriptors under way, one of those a fetch is split into (R333): the ring, the index of the first
descriptor, how many, and the number of the first in the order of fetching. -/
structure Fetch where
  ring : Nat
  first : Nat
  count : Nat
  id : Nat
  deriving DecidableEq, Repr

/-- Where a descriptor in progress stands: it has arrived; it has passed checks 1 to 4 of R338; it runs; its requests
have all returned and it completes with a status and DETAIL. -/
inductive JPhase where
  | arrived | ready | running | ended (status detail : Nat)
  deriving DecidableEq, Repr

/-- A host read that an engine has issued (R382): its offset within the transfer, its length, and the bytes that have
arrived. -/
structure HostRd where
  off : Nat
  len : Nat
  got : List Byte
  deriving DecidableEq, Repr

/-- A descriptor in progress. `op` is OPCODE, `d` D0 to D7, `eng` the DMA engine that holds it; `stage` and `pos`
count the steps its opcode takes; `fail` is the failure that counts (R340): status, SIDE, offset; `data` the source bytes
in hand, up to the first that is missing; `reads` the host reads from there on. -/
structure Job where
  id : Nat
  ring : Nat
  index : Nat
  func : Nat
  op : Nat
  suppress : Bool
  tag : Nat
  d : List Nat
  phase : JPhase
  eng : Option Nat
  stage : Nat
  pos : Nat
  fail : Option (Nat × Nat × Nat)
  data : List Byte
  reads : List HostRd
  mute : Bool                   -- a function-level reset of its function waits for it: no completion is written
  deriving DecidableEq, Repr

/-- A completion that waits for space in its ring (R346). -/
structure HeldCqe where
  job : Job
  status : Nat
  detail : Nat
  deriving DecidableEq, Repr

/-! ### Power domains (chapter 17) -/

/-- Who asked for a power state (R520, R526): a wake source, a POWER descriptor, or the port of a sequencer. -/
inductive Asker where
  | wake (src : Nat)
  | desc (job : Nat)
  | port (n serial : Nat)
  | none
  deriving DecidableEq, Repr

/-- A transition of a domain (R516–R518): the states it leaves and reaches, who asked, the phase as PHASE of PWR_DOM
codes it, the steps still to end, and whether the router edges have closed. A domain reset is a transition too
(R602). -/
structure Trans where
  src : Nat
  dst : Nat
  who : Asker
  phase : Nat
  steps : List Nat
  closed : Bool
  reset : Bool
  deriving DecidableEq, Repr

/-! ### The memories and the network (chapters 12, 13) -/

/-- An entry of a home controller's Chart cache (R376, R380): the entry and the sequencers that have loaded a line of
its page. -/
structure ChartLine where
  entry : BitVec 32
  sharers : List Nat
  deriving DecidableEq, Repr

/-- A request as a target judges it: who sends it, the master it carries, whether it writes, the address of its first
byte, and the bytes with their enables (of a read, the number of bytes). -/
structure MemReq where
  node : Nat
  master : Nat
  write : Bool
  addr : Nat
  en : List Bool
  data : List Byte
  deriving DecidableEq, Repr

/-- An answer that has left a target for the requester: its node, the status of R345, the read data, and the words
that are uncorrectable (R399). -/
structure Answer where
  node : Nat
  status : Nat
  data : List Byte
  poison : Nat
  deriving DecidableEq, Repr

/-- The body of a packet (R398–R400). A REQ packet carries no data of its own, a DAT flit the data and the words its
receiver has found uncorrectable, a RSP the words that its target has. -/
inductive PBody where
  | req (r : MemReq)                      -- REQ, read or write
  | start (job : Nat)                     -- REQ, message: the start of an image (R339)
  | rsp (status : Nat) (hasData : Bool) (poison : Nat)   -- RSP
  | dat (data : List Byte) (bad : Nat) (wr : Bool)   -- DAT
  | mgmt (master : Nat) (write : Bool) (addr : Nat) (be : BitVec 8) (data : Word)   -- SNP, register access
  | mrsp (status : Nat) (data : Word)     -- SNP, register response
  | inv (kind : Nat) (what : Nat)         -- SNP, invalidations 0–2: line, Chart index
  | ack                                   -- SNP, acknowledge
  deriving DecidableEq, Repr

/-- A packet in flight (R397): its networks 0–3, ends, route and the router it stands at, or is about to enter from its
NI; at its target, whether an Anchorage has held it, and whether its write data is uncorrectable (R407, R409). -/
structure Packet where
  net : Nat
  dest : Nat
  src : Nat
  tid : Nat
  heading : Nat
  turns : Nat
  hop : Nat
  router : Nat
  came : List Nat               -- the routers it has left, newest first
  entered : Bool                -- its first router has taken it
  held : Bool
  bad : Bool
  body : PBody
  deriving DecidableEq, Repr

/-- A request its NI has outstanding (R407, R410): its number, destination, body, when it was last injected, and how
often it has been sent again. -/
structure Outst where
  src : Nat
  tid : Nat
  dest : Nat
  body : PBody
  since : Nat
  resends : Nat
  waiting : Bool                -- RETRY has answered it, and it waits to be sent again
  retry : Bool                  -- RETRY has answered it, and no router edge has accepted it since (R410)
  status : Option (Nat × Nat)   -- the RSP of a read that still awaits its DAT flit: status and uncorrectable words
  route : Nat                   -- the route entry of its latest injection (R416)
  credit : Bool                 -- it still holds its end-to-end credit (R401)
  deriving DecidableEq, Repr

/-- A request that waits at its NI for a credit, behind a RETRY or for an old route (R401, R410, R416). -/
structure NiReq where
  src : Nat
  dest : Nat
  tid : Nat
  body : PBody
  deriving DecidableEq, Repr

/-- A request that reached a stack controller: its raw address, whether a home controller forwarded it, the request. -/
structure HbmReq where
  ra : Nat
  fwd : Bool
  req : MemReq
  deriving DecidableEq, Repr

/-- What an Anchorage holds (R409): the request of a block's NI whose access waits for the domain, a packet, or a request
that a home controller has forwarded to a stack. -/
inductive Held where
  | access (node : Nat)
  | packet (p : Packet)
  | stack (x : HbmReq)
  deriving DecidableEq, Repr

/-- The power controller's part of one domain: the transition under way, the request in the slot (R522), and the
Anchorage. -/
structure Dom where
  trans : Option Trans
  slot : Option (Nat × Asker)
  anch : List Held
  deriving DecidableEq, Repr

/-- A domain with nothing under way. -/
def Dom.reset : Dom := { trans := none, slot := none, anch := [] }


/-- The pins the part drives beside its links and buses: THERM_TRIP_N asserted (R533), and the ball states boundary
scan forces (R616). -/
structure Pins where
  thermTrip : Bool
  deriving DecidableEq, Repr


/-! ### Fleet links (chapter 14) -/

/-- A flit (R431) without its CRC: CLASS, CHAN, LAST, the reserved header bits [15:8] and the payload; of a received one
also the Meridian value, in units of 2⁻¹⁶ ns, at the start of its codeword (R465). -/
structure Flit where
  cls : BitVec 3
  chan : BitVec 4
  last : Bool
  rsv : BitVec 8
  p : BitVec 224
  rx : Nat
  deriving DecidableEq, Repr

/-- A codeword: its CWSEQ, RPL and transmit lane (R429), and its flits in slot order. -/
structure Codeword where
  seq : Nat
  rpl : Bool
  lane : Nat
  flits : List Flit
  deriving DecidableEq, Repr

/-- A command in a tunnel queue (R446). -/
structure TunCmd where
  laddr : Nat
  raddr : Nat
  len : Nat
  dir : Bool
  evt : Bool
  deriving DecidableEq, Repr

/-- The tunnel command that runs (R447): whether it has begun (else it waits for ACTIVE), how many of its bytes have been
split into requests, the requests sent to the peer and not answered as (TID, offset, length), and the first status
other than OK. -/
structure TunRun where
  cmd : TunCmd
  begun : Bool
  next : Nat
  out : List (Nat × Nat × Nat)
  fail : Option Nat
  deriving DecidableEq, Repr

/-- An error of a receive lane (R441): when, in ns, on which lane, the symbols corrected, and whether the codeword was
uncorrectable. -/
structure LaneErr where
  ns : Nat
  lane : Nat
  ce : Nat
  ue : Bool
  deriving DecidableEq, Repr

/-- A codeword that has left on a link, with the 5,440 bits on its lane. -/
structure LineWord where
  link : Nat
  cw : Codeword
  bits : BitVec 5440
  deriving DecidableEq, Repr

/-- One side of the authentication of a link (R438, R439): the IDENT payload, and the octets of the nonce, the certificates
and the signature, as far as they have been sent or have arrived. -/
structure AuthSide where
  ident : BitVec 224
  nonce : List Byte
  certs : List Byte
  sig : List Byte
  deriving DecidableEq, Repr

/-- One fleet link. `rxq` holds received flits not yet acted on; `txq` flits offered and not yet sent; `unacked` and
`resend` codewords sent and not acknowledged, and those to send again; `ahead` codewords received that wait for earlier ones
(R430); `discard` that codewords are discarded until `rxNext` arrives, and `nakDue` that the next LL flit says NAK (R434);
`naks` how often `nakSeq` has been NAKed in a row; `given`, `tqGiven` and `tsGiven` the credits the peer holds, `cred`,
`tqCred` and `tsCred` those it has returned (R433); `rxreq` the lanes RXREQ names, in the peer's numbering; `set` a TXSET to
announce with its SETSEQ; `base` the SETSEQ of the set in use, and `span` how many codewords from it on have been numbered;
`peer` the LANE each receive lane carries, by lane, where it is another than its own; `rt` the lanes that retrain, `rtSent`
and `rtRecv` those of them whose RETRAIN_DONE has been sent and received (R442); `lateTx` and `lateRx` the lanes that have
not trained at bring-up (R437); `own` and `far` the two sides of authentication; `parkSent` and `parked` the PARK exchange
of a drain (R451); `errs` the lane errors of the last ms (R441); `scr` and `dscr` what scrambler and descrambler of each
lane remember (R429). -/
structure Link where
  rxNext : Nat
  discard : Bool
  nakDue : Bool
  ahead : List Codeword
  txNext : Nat
  unacked : List Codeword
  resend : List Codeword
  nakSeq : Nat
  naks : Nat
  rxq : List Flit
  txq : List Flit
  given : Tbl Nat
  tqGiven : Nat
  tsGiven : Nat
  cred : Tbl Nat
  tqCred : Nat
  tsCred : Nat
  rxreq : Nat
  set : Option (Nat × Nat)
  base : Nat
  span : Nat
  peer : Tbl Nat
  rt : Nat
  rtSent : Nat
  rtRecv : Nat
  lateTx : Nat
  lateRx : Nat
  own : AuthSide
  far : AuthSide
  parkSent : Bool
  parked : Bool
  errs : List LaneErr
  scr : Tbl Nat
  dscr : Tbl Nat
  tunQ : List TunCmd
  tun : Option TunRun
  deriving DecidableEq, Repr

/-- Nothing of an authentication. -/
def AuthSide.reset : AuthSide := ⟨0, [], [], []⟩
/-- A link after reset. -/
def Link.reset : Link :=
  { rxNext := 0, discard := false, nakDue := false, ahead := [], txNext := 0, unacked := [], resend := [], nakSeq := 0,
    naks := 0, rxq := [], txq := [], given := [], tqGiven := 0, tsGiven := 0, cred := [], tqCred := 0, tsCred := 0,
    rxreq := 0, set := none, base := 0, span := 0, peer := [], rt := 0, rtSent := 0, rtRecv := 0, lateTx := 0, lateRx := 0,
    own := AuthSide.reset, far := AuthSide.reset, parkSent := false, parked := false, errs := [], scr := [], dscr := [],
    tunQ := [], tun := none }

/-! ### Meridian, watches and barriers (chapter 15) -/

/-- The candidate a link has reported, with HOPS as taken (R463), and its PARENT bit. -/
structure Cand where
  prio : Nat
  idx : Nat
  hops : Nat
  child : Bool

  deriving DecidableEq, Repr

/-- The exchange with the parent that is under way (R465): the stamps so far, in units of 2⁻¹⁶ ns. -/
structure Exch where
  t1 : Option Nat
  t2 : Nat
  t3 : Nat
  deriving DecidableEq, Repr

/-- What the schedule of a watch needs beside its registers (R472): START, the bells since, the time of the last bell, the
lag, whether the first bell has rung and when the period's work was done. -/
structure Watch where
  start : Nat
  k : Nat
  b : Nat
  lag : Nat
  begun : Bool
  doneAt : Option Nat
  bell : Bool                   -- a bell whose interrupt waits for the quad (R475)
  deriving DecidableEq, Repr

/-- A watch that is stopped. -/
def Watch.reset : Watch := { start := 0, k := 0, b := 0, lag := 0, begun := false, doneAt := none, bell := false }

/-- A fleet barrier (R476): the links whose ARRIVE for GEN has come, those that have already sent one for the next
generation, whether ARRIVE has been sent up, the release time, whether it had passed when RELEASE came, and the release
time of the generation before. -/
structure Barrier where
  kids : List Nat
  early : List Nat
  sentUp : Bool
  release : Option Nat
  late : Bool
  last : Option Nat
  deriving DecidableEq, Repr

/-- A barrier with nothing arrived. -/
def Barrier.reset : Barrier := { kids := [], early := [], sentUp := false, release := none, late := false, last := none }



/-! ### Survey (chapter 18) -/

/-- A region Survey has borrowed (R552): what it saved, and the codewords that were uncorrectable. -/
structure Borrow where
  region : SurveyRegion
  plane : Plane
  words : List Word
  bad : List Nat
  deriving DecidableEq, Repr


/-- A partition, keyed by its master field (R33, R286): width and height codes and owning function. -/
structure Part where
  wlog : Nat
  hlog : Nat
  func : Nat
  deriving DecidableEq, Repr

/-- A partition command under way: OP, the master field, what it defines, and whether its effects before completion
have begun. -/
structure PartCmd where
  op : Nat
  master : Nat
  part : Part
  acted : Bool
  deriving DecidableEq, Repr


/-! ### Requests under way at memory targets (chapters 10 and 12) -/

/-- A NoC request to a scratchpad that is being served in parts (R304): the request, the banks whose part is not done,
the banks that have counted as starved (R305), and its status, data by byte and uncorrectable words so far. -/
structure SpadReq where
  n : Nat
  req : LineReq
  left : List Nat
  starved : List Nat
  status : Nat
  data : Tbl Byte
  poison : Nat
  deriving DecidableEq, Repr

/-- An SNP invalidation on its way (R380, R400): kind 0 a line in a sequencer's cache, 1 an entry in a Chart cache; the
node it goes to; the line or entry; whether it has acted there, so that its acknowledgement is due. -/
structure Inval where
  kind : Nat
  node : Nat
  what : Nat
  acted : Bool
  deriving DecidableEq, Repr


/-! ### Boundary fabric (chapter 16) -/

/-- A memory block of a strip (R490–R493). `mem` holds the stored units (R508) and `err` the codeword positions in error
of a protected unit (0–63 data, 64–71 check bits); `head` the entry at the head of a queue and `ages` one count for
each entry held, oldest first: the reader's edges since it was pushed; `vis` how many of them the reader sees; `freed`
the writer's edges since each entry was popped whose space the writer does not see yet; `outA` and `outB` the RAM data
out of the ports, `ueA` and `ueB` their UE; `last` the last word a lane transmitter sent. -/
structure Blk where
  mem : Tbl (BitVec 72)
  err : Tbl (BitVec 72)
  head : Nat
  ages : List Nat
  vis : Nat
  freed : List Nat
  outA : Nat
  outB : Nat
  ueA : Bool
  ueB : Bool
  last : Word
  deriving DecidableEq, Repr

/-- A block that is empty and cleared. -/
def Blk.reset : Blk :=
  { mem := [], err := [], head := 0, ages := [], vis := 0, freed := [], outA := 0, outB := 0, ueA := false,
    ueB := false, last := 0 }

/-- A boundary-fabric strip: its configuration frames by cove and by block (R501), flip-flops and track registers by cove,
blocks, the release stage of a reach that is not fully released (1 no outputs, 2 outputs enabled, 3 block writes
enabled, R505) and of the trees that are further on in the release, the edge registers by segment (R494) with OUT_STB and IN_TAKE as cove 64m sees them, what the
synchronisers of each tree have sampled, newest first (bit 8 LINK_DOWN, bits [7:0] the pins), the captured flip-flops
and the trees not yet captured (R507), the pads (bit 0 OUT, bit 1 OE), and loads that wait for another (R506). -/
structure Strip where
  coves : Tbl (BitVec 8192)
  frames : Tbl (BitVec 512)
  ffs : Tbl Word
  tracks : Tbl (BitVec 128)
  blocks : Tbl Blk
  rel : Tbl Nat
  relTree : Tbl Nat
  edgeReg : Tbl (BitVec 128)
  stb : BitVec 4
  tk : BitVec 4
  hist : Tbl (List (BitVec 9))
  cap : Tbl Word
  capWait : List Nat
  pads : Tbl Nat
  waiting : List Nat
  deriving DecidableEq, Repr

/-- A strip after power-on reset: nothing has been loaded (R504). -/
def Strip.reset : Strip :=
  { coves := [], frames := [], ffs := [], tracks := [], blocks := [], rel := [], relTree := [], edgeReg := [], stb := 0, tk := 0,
    hist := [], cap := [], capWait := [], pads := [], waiting := [] }


/-! ### Boot, identity, debug and the pins (chapters 19, 20 and 22) -/

/-- The TAP (R614): its instruction; what its data register last captured; what Update-DR last loaded into the boundary
register; and how the balls are taken (0 not, 1 EXTEST, 2 HIGHZ, 3 CLAMP, 4 EXTEST_PULSE, 5 EXTEST_TRAIN). -/
structure Tap where
  ir : BitVec 8
  dr : List Bool
  bsr : List Bool
  balls : Nat
  deriving DecidableEq, Repr

/-- The debug access of R617: address, WRITE, byte enables and data of one in progress, and the status and read data of
the last completed. -/
structure DbgAcc where
  busy : Option (Nat × Bool × BitVec 8 × Word)
  status : Nat
  data : Word
  deriving DecidableEq, Repr

/-- What the SPDM responder or the MCTP endpoint answers (R585–R588). -/
inductive SpdmMsg where
  | endpointId (eid : Nat)
  | version
  | capabilities
  | algorithms
  | digests (d : List Byte)
  | certificate (part : List Byte) (left : Nat)
  | challengeAuth (chain : List Byte) (nonce : BitVec 256) (summary : List Byte) (sig : List Byte)
  | measurements (count : Nat) (records : List (Nat × Nat × List Byte)) (nonce : BitVec 256) (sig : Option (List Byte))
  | error (code : Nat)
  deriving DecidableEq, Repr

/-- The AVSBus host (R632): V_T in mV, the value of a write not yet acknowledged, and every value sent. -/
structure Avs where
  vt : Nat
  pend : Option Nat
  sent : List Nat
  deriving DecidableEq, Repr


/-- What the checks of R580 see of a slot image: FORMAT, LEN and reserved bytes are right; KEY_SEL and SVN; the digest of its
public key equals the fused one of KEY_SEL; its signature verifies; and the digest of measurement 0x02. -/
structure SlotImg where
  form : Bool
  keySel : Bool
  svn : BitVec 7
  keyOk : Bool
  sigOk : Bool
  digest : BitVec 384
  deriving DecidableEq, Repr

/-! ### The whole part -/

/-- The state of the part. Tables are sparse: a missing entry reads as its reset value. -/
structure State where
  pending : List Instr           -- commands waiting, first in first out
  ticks : Nat                    -- time since power-on, in units of 1/78 ns
  fresh : Nat                    -- the free values already drawn (the model's own)
  regs : Tbl Nat                 -- register fields, keyed 64 * BAR0 offset + lowest bit (R17)
  parts : Tbl Part               -- partitions by master field
  fields : Tbl Field             -- by field
  seqs : Tbl MSeq                -- by sequencer
  cores : Tbl Core               -- by sequencer
  alm : Tbl MicroWord            -- Almanac words, keyed 8192 * sequencer + address; missing: never loaded (R135)
  almErr : Tbl (BitVec 137)      -- codeword positions of a stored Almanac word in error (R124)
  edgeIn : Tbl (BitVec 128)      -- EDGE_IN of segment 4 * g + m (R156)
  edgeOut : Tbl (BitVec 128)     -- EDGE_OUT of the last outward send with OUT_STB still raised
  inTake : Tbl Bool              -- IN_TAKE still raised
  mer : Nat                      -- the Meridian counter in units of 2⁻³² ns (R462)
  merInc : Nat                   -- what it adds in every nc
  pcie : Pcie                    -- the configuration space (R318)
  hostTx : List HostWrite        -- posted writes that have left the endpoint, oldest first
  holdoff : Tbl Bool             -- rings in their MOD holdoff; true: an entry awaits its message (R347)
  evtLost : Tbl Nat              -- events dropped at a ring since its last OVERFLOW event (R349)
  msixTab : Tbl (BitVec 128)     -- MSI-X entries, keyed 32 * function + vector (R625)
  msixPba : Tbl Bool             -- pending bits, keyed the same way
  dlog : Tbl DlogEntry           -- the device Logbook by index (R550)
  tlogUnread : Tbl Bool          -- target Logbook entries not yet read, keyed 16 * node + entry (R562)
  jobs : List Job                -- descriptors in progress, in the order they were fetched
  fetches : List Fetch           -- host reads whose descriptors have not arrived
  fetchFn : Nat                  -- the function whose turn the latest fetch was (R333)
  fetchRing : Tbl Nat            -- by function, the ring of its latest fetch
  jobNo : Nat                    -- descriptors fetched so far
  heldCqe : List HeldCqe         -- completions that wait for space, in the order they finished (R346)
  ringStop : Bool                -- the ring engine starts nothing (R530, R548, R560, R598)
  imageOk : Tbl Bool             -- sequencers into which an IMAGE_LOAD has completed with OK since power-on reset (R339)
  doms : Tbl Dom                 -- power domains
  pwrNote : Tbl Nat              -- PWR_NOTE of each sequencer (R536)
  noteMask : Tbl Nat             -- NOTE_MASK
  pwrRes : Tbl Nat               -- PWR_RES
  off : Option Nat               -- an accepted request for Off and its descriptor (R530)
  mem : List Host.Cell           -- staging, scratchpads and HBM by NoC address, HBM at its raw address (R361); an unlisted byte is 0
  memErr : Tbl (BitVec 72)       -- 8-byte words of the staging SRAM and the scratchpads whose stored codeword differs from a valid one (bits 64–71 the check bits), by address over 8
  chart : Tbl (BitVec 32)        -- Chart entries (R374)
  chartErr : Tbl (BitVec 39)     -- stored codeword positions of Chart entries in error (R377)
  chartCache : Tbl ChartLine     -- the home controllers' Chart caches, by page (R376)
  xlatWait : List MemReq         -- translated requests that wait for a Chart entry (R376)
  hbmQ : List HbmReq             -- requests at the stack controllers, in order of arrival
  hbmTurn : Tbl Nat              -- by pseudo-channel, the master it served last (R372)
  hbmErr : Tbl Nat               -- 32-byte bursts of HBM in error, by raw address over 32: 1 correctable, 2 not (R369)
  stgTurn : Tbl Nat              -- by staging bank, the master it granted last (R364)
  hbmHeld : List Nat             -- HBM channels out of service for recalibration (R559), 16 * stack + channel
  hotRun : Tbl Nat               -- consecutive hot windows of each pseudo-channel (R373)
  routes : Tbl Nat               -- route entries, keyed 512 * node + 256 * bank + entry (R393)
  dbgShut : Bool                 -- three unlock responses have failed since power-on reset (R591)
  routeErr : List Nat            -- keys of the route entries whose parity fails (R542)
  net : List Packet              -- packets in flight on the network
  arb : Tbl Nat                  -- by router output and network, the input or virtual channel served last (R402)
  niWait : List NiReq            -- requests that wait at their NIs, in order (R401)
  eject : List Packet            -- packets ejected at their destination NI, in order
  halves : List (Nat × Packet)   -- halves of writes that wait for the other half, with their time of arrival (R407)
  outst : List Outst             -- requests outstanding at their NIs
  answers : List Answer          -- answers that have reached their masters
  verdict : Tbl Nat              -- statuses with which the NI of a block has ended its waiting request (R407, R410, R524)
  invals : List Inval            -- SNP invalidations not yet acknowledged (R378, R380)
  invWait : List (Nat × Answer)  -- answers of writes, by HVA line, that wait for acknowledgements (R380)
  spadQ : List SpadReq           -- NoC requests at the scratchpads (R304)
  hbmFast : Tbl Bool             -- stacks whose refresh rate is doubled (R368)
  cqHold : Bool                  -- completion entries are held while the hub changes firmware (R560)
  links : Tbl Link               -- fleet links by number
  cands : List (Nat × Cand)      -- candidates not forgotten, by the link they came over (R463)
  master : Option Nat            -- IDX of the elected master (R464)
  exch : Option Exch             -- the discipline exchange under way (R465)
  locks : Nat                    -- consecutive exchanges below 2 ns (R466)
  watches : Tbl Watch            -- schedules of the watches
  barriers : Tbl Barrier         -- fleet barriers
  offNow : Bool                  -- the part is Off (R530)
  offWake : Bool                 -- a wake of the part from Off waits for boot to start (R531)
  pwrLow : Bool                  -- PWR_GOOD has fallen and boot has not started since (R634)
  aonBase : Nat                  -- AON_TIME as last loaded (R527)
  aonAt : Nat                    -- the part's time in ns when it was loaded
  pins : Pins                    -- pins the part drives
  retryQ : List (Nat × Nat × Nat × Held)-- requests that wait after RETRY (R410): node, domain, resends, what
  borrow : Tbl Borrow            -- regions Survey has borrowed, keyed 4 * engine + kind (R552)
  partCmd : Option PartCmd       -- the partition command whose BUSY is 1 (R286)
  rstDom : Nat                   -- the domain whose reset DOM_RST.BUSY shows (R601, R602)
  portsOff : Tbl Nat             -- by router, the ports that exist and whose PORT_EN in effect is 0 (R417, R422)
  flrWait : List (Nat × Bool)    -- functions whose FLR waits for a SPARE (R557), and whether the function then ceases (R354)
  lineTx : List LineWord         -- codewords that have left on the links, oldest first
  strips : Tbl Strip             -- boundary-fabric strips (R482)
  pmaTx : List (Nat × Nat × Word)-- PMA words that strip lanes have sent: strip, lane, word (R495)
  measures : Tbl (BitVec 384)    -- extend values of the loads, by measurement index (R584)
  evtHeld : List (Nat × Nat × Nat)-- event entries held while the hub changes firmware (R560): function and the two doublewords
  aer : Bool                     -- the endpoint has reported Uncorrectable Internal Error (R548)
  flash : Flash                  -- the SPI NOR as last read and written (R579)
  image : Option SlotImg         -- the running hub image (R578)
  warmWait : Bool                -- PERST_N has fallen and domain 62 is not yet reset, because V_T is not 0.80 V (R632)
  tap : Tap                      -- the TAP (R614)
  nonce : Option (BitVec 384)    -- the debug challenge that awaits a response (R589)
  dbg : DbgAcc                   -- the debug access (R617)
  eids : Tbl Nat                 -- endpoint IDs by transport (R586)
  spdm : Tbl Nat                 -- SPDM requests of the connection answered so far, by transport (R588): 1 version, 2 capabilities, 3 algorithms
  spdmTx : List (Nat × SpdmMsg)  -- answers of the MCTP endpoint, by transport
  avs : Avs                      -- the AVSBus host (R632)
  gpioV : Tbl Nat                -- VDD_GPIO banks that have risen: 1 1.8 V, 2 3.3 V (R631)
  deriving DecidableEq, Repr

/-- Why the machine stops with a fault. No command of this model does: see the notes of stops. -/
inductive Fault where
  /-- Raised by no meaning; the part has no state in which it stops for good. Safe. -/
  | stopped
  deriving DecidableEq, Repr

/-- Why a command is refused. -/
inductive Refusal where
  /-- Raised by an arm of exec for a command that has no meaning yet. Safe: nothing is claimed. -/
  | notModelled (mnemonic : String)
  deriving DecidableEq, Repr

/-- The part right after power-on reset. -/
def State.reset : State :=
  { pending := [], ticks := 0, fresh := 0, regs := [], parts := [], fields := [], seqs := [], cores := [],
    alm := [], almErr := [], edgeIn := [], edgeOut := [], inTake := [], mer := 0, merInc := 2 ^ 31,
    pcie := Pcie.reset, hostTx := [], holdoff := [], evtLost := [], msixTab := [], msixPba := [], dlog := [], tlogUnread := [],
    jobs := [], fetches := [], fetchFn := 63, fetchRing := [], jobNo := 0, heldCqe := [], ringStop := false, imageOk := [], doms := [],
    pwrNote := [], noteMask := [], pwrRes := [], off := none, mem := [], memErr := [], chart := [],
    chartErr := [], chartCache := [], xlatWait := [], hbmQ := [], hbmTurn := [], hbmErr := [], stgTurn := [], hbmHeld := [], hotRun := [], routes := [], dbgShut := false, routeErr := [],
    net := [], arb := [], niWait := [], eject := [], halves := [], outst := [], answers := [], verdict := [], invals := [],
    invWait := [], spadQ := [], hbmFast := [], cqHold := false, links := [], cands := [], master := none,
    exch := none, locks := 0, watches := [], barriers := [], offNow := false, offWake := false, pwrLow := false, aonBase := 0,
    aonAt := 0, pins := { thermTrip := false }, retryQ := [], borrow := [], partCmd := none, rstDom := 0, portsOff := [],
    flrWait := [], lineTx := [], strips := [], pmaTx := [], measures := [], evtHeld := [], aer := false,
    flash := { rec0 := [], rec1 := [], cert := none, a := [], b := [] }, image := none, warmWait := false,
    tap := { ir := 2, dr := [], bsr := [], balls := 0 }, nonce := none,
    dbg := { busy := none, status := 0, data := 0 }, eids := [], spdm := [], spdmTx := [],
    avs := { vt := 800, pend := none, sent := [] }, gpioV := [] }

end Sys2Proof.Machine
end

