-- ==== Sys2Proof/Machine/Ops.lean ====
section
/-! DEFINITION. The named operations over the state: register fields, sequencers, cores, fields and slices, the
geometry of partitions, and time. -/
namespace Sys2Proof.Machine
open Sys2Proof

/-- The key of a register field in the register file. -/
def fldKey (f : Fld) : Nat := 64 * f.addr + f.lo
/-- The value of a register field: what is stored, within its width. -/
def getF (s : State) (f : Fld) : Nat := tget f.rst s.regs (fldKey f) % 2 ^ f.w
/-- Store a register field; bits beyond its width are dropped. -/
def setF (f : Fld) (v : Nat) (s : State) : State :=
  { s with regs := tset f.rst s.regs (fldKey f) (v % 2 ^ f.w) }
/-- A one-bit register field as a truth value. -/
def bitF (s : State) (f : Fld) : Bool := getF s f = 1
/-- Add to a field that saturates at its largest value. -/
def satF (f : Fld) (k : Nat) (s : State) : State := setF f (min (getF s f + k) (2 ^ f.w - 1)) s
/-- Add to a field modulo its width. -/
def incF (f : Fld) (k : Nat) (s : State) : State := setF f (getF s f + k) s
/-- Raise a field to a larger value. -/
def maxF (f : Fld) (v : Nat) (s : State) : State := setF f (max (getF s f) (min v (2 ^ f.w - 1))) s
/-- Set several fields, in order. -/
def setFs (l : List (Fld × Nat)) (s : State) : State := l.foldl (fun s e => setF e.1 e.2 s) s

/-- A list without repeats, each value at its first place. -/
def uniq (l : List Nat) : List Nat := l.foldl (fun a x => if a.contains x then a else a ++ [x]) []
def b2n (b : Bool) : Nat := if b then 1 else 0

/-- The field of a register row at instance (i, j). -/
def rowFld (r : RegRow) (i j : Nat) (f : Nat × Nat × FTy × Nat) : Fld :=
  ⟨r.base + r.s1 * i + r.s2 * j, f.1, f.2.1, f.2.2.1, rowRst r i j f.1 f.2.2.2⟩
/-- The stored value of a whole register (R17). -/
def rawReg (s : State) (r : RegRow) (i j : Nat) : Nat :=
  (r.flds.map fun f => getF s (rowFld r i j f) * 2 ^ f.1).sum

def getSeq (s : State) (n : Nat) : MSeq := tget MSeq.reset s.seqs n
def setSeq (n : Nat) (m : MSeq) (s : State) : State := { s with seqs := tset MSeq.reset s.seqs n m }
def updSeq (n : Nat) (g : MSeq → MSeq) (s : State) : State := setSeq n (g (getSeq s n)) s
def getCore (s : State) (n : Nat) : Core := tget Core.reset s.cores n
def setCore (n : Nat) (c : Core) (s : State) : State := { s with cores := tset Core.reset s.cores n c }
def updCore (n : Nat) (g : Core → Core) (s : State) : State := setCore n (g (getCore s n)) s
def getField (s : State) (f : Nat) : Field := tget Field.reset s.fields f
def setField (f : Nat) (x : Field) (s : State) : State := { s with fields := tset Field.reset s.fields f x }
def updField (f : Nat) (g : Field → Field) (s : State) : State := setField f (g (getField s f)) s
def getSlice (x : Field) (sl : Nat) : Slice := tget Slice.reset x.slices sl
def setSlice (sl : Nat) (y : Slice) (x : Field) : Field := { x with slices := tset Slice.reset x.slices sl y }
/-- The word a lane of CB or of a shadow holds, whether its valid bit is set or not. -/
def heldWord (valid old : Tbl Word) (lane : Nat) : Word := (tlook valid lane).getD (tget 0 old lane)
def updSlice (f sl : Nat) (g : Slice → Slice) (s : State) : State :=
  updField f (fun x => setSlice sl (g (getSlice x sl)) x) s
/-- Apply an update to every slice of a field. -/
def updSlices (f : Nat) (g : Slice → Slice) (s : State) : State :=
  updField f (fun x => (List.range 256).foldl (fun x sl => setSlice sl (g (getSlice x sl)) x) x) s

/-- Draw a free value: the counter advances, and a claim holds for whatever the constant of Config gives at it. -/
def draw (s : State) : Nat × State := (s.fresh, { s with fresh := s.fresh + 1 })

/-! ### Partitions (R33, R36, R106, R129) -/

/-- The field column and row of a field in the package (R14). -/
def fcol (f : Nat) : Nat := f % 8
def frow (f : Nat) : Nat := f / 8
/-- The tile of a field (R14). -/
def tileOf (f : Nat) : Nat := 2 * (f / 32) + (f % 8) / 4
/-- The power domain of a field's quad (R29). -/
def quadDom (f : Nat) : Nat := 4 * tileOf f + 2 * (frow f % 4 / 2) + fcol f % 4 / 2
/-- The fields of a partition, in row-major order. -/
def rectFields (master wlog hlog : Nat) : List Nat :=
  ((List.range (2 ^ hlog)).flatMap fun r => (List.range (2 ^ wlog)).map fun c => master + 8 * r + c).filter (· < 64)
def partFields (e : Nat × Part) : List Nat := rectFields e.1 e.2.wlog e.2.hlog
/-- The partition that holds a field, with its master. -/
def partOf (s : State) (f : Nat) : Option (Nat × Part) := s.parts.find? fun e => (partFields e).contains f
/-- The partition whose master is n. -/
def partAt (s : State) (n : Nat) : Option Part := tlook s.parts n
/-- The fields a master drives; none for a sequencer that is no master. -/
def fieldsOf (s : State) (n : Nat) : List Nat := ((partAt s n).map fun p => partFields (n, p)).getD []
/-- Seam classes of R129: 1 one field, 2 several fields within one tile, 3 across the east–west seam only, 4 across
a north–south seam. -/
def shapeClass (p : Part) : Nat :=
  if p.hlog = 3 then 4 else if p.wlog = 3 then 3 else if p.wlog = 0 ∧ p.hlog = 0 then 1 else 2
/-- L_snd (R106). -/
def lSnd (p : Part) : Nat := match shapeClass p with | 1 => 4 | 2 => 6 | _ => 10
/-- L_news of hops 1 and 8 (R151). -/
def lnH1 (p : Part) : Nat := match shapeClass p with | 3 => 3 | 4 => 5 | _ => 1
/-- L_news of hop 64 (R151). -/
def lnH64 (p : Part) : Nat := match shapeClass p with | 3 => 4 | 4 => 6 | _ => 2
/-- The broadcast depth D (R104). -/
def bDepth (p : Part) : Nat := match shapeClass p with | 1 => 5 | 2 => 5 | _ => 8
/-- The function that owns the partition holding a field. -/
def ownerOf (s : State) (f : Nat) : Option Nat := (partOf s f).map (·.2.func)

/-! ### Time -/

/-- The part is a WQ1024-LC2 (R618: ORDER of DEV_ID). -/
def isLc2 (s : State) : Bool := getF s fDEV_ID_ORDER = 1
/-- The certificate region as the part reads it (R576): until the flash is written from outside, the region it was made with, whose
device certificate names the ordering code and the stepping that DEV_ID reports (R4). -/
def certRegion (s : State) : List Byte := s.flash.cert.getD (madeRegion (getF s fDEV_ID_ORDER))
/-- One ac in ticks of 1/78 ns: 2/3 ns on LC3, 10/13 ns on LC2 (R5). -/
def acTicks (s : State) : Nat := if isLc2 s then 60 else 52
/-- Nanoseconds since power-on. -/
def nsNow (s : State) : Nat := s.ticks / 78

/-- PWR_DOM.STATE of a domain is Run (R514). -/
def domRun (s : State) (d : Nat) : Bool := getF s (fPWR_DOM_STATE d) = 0

/-! ### What a command answers -/

/-- What a meaning answers: this model's commands always go on. -/
abbrev Out := Host.Outcome State Fault Refusal
/-- The command's effect. -/
def ok (s : State) : Out := .next s

/-! ### Turns -/

/-- How far x lies behind the latest turn `last` in a round of m. -/
def roundAfter (m last x : Nat) : Nat := (x + m - 1 - last) % m
/-- Of some of m takers the one whose turn comes next after `last`. -/
def nextTurn (m last : Nat) (l : List Nat) : Option Nat :=
  l.foldl (fun b x => match b with
    | some y => if roundAfter m last x < roundAfter m last y then some x else some y
    | none => some x) none

end Sys2Proof.Machine
end

