-- ==== Sys2Proof/Machine/Clock.lean ====
section
/-! DEFINITION. The passage of time (R5, R462). -/
namespace Sys2Proof.Machine
open Sys2Proof

/-- Power-on reset is held: PWR_GOOD is low, or boot after it has not begun (R596, R603). -/
def powerHeld (s : State) : Bool := getF s fBOOT_STAT_STEP == 0 && getF s fRST_CAUSE_CAUSE != 2 && !s.warmWait
/-- One tick of 1/78 ns: in every 39th, which ends a cycle of the NoC clock, the Meridian counter takes its increment,
unless the part is Off or power-on reset is held (R462). -/
def tick (s : State) : State :=
  let s := { s with ticks := s.ticks + 1 }
  if s.ticks % 39 = 0 ∧ ¬ s.offNow ∧ ¬ powerHeld s then { s with mer := s.mer + s.merInc } else s

end Sys2Proof.Machine
end

