-- ==== Sys2Proof/Machine/Report.lean ====
section
/-! DEFINITION. What the part reports: the Meridian time, completion and event entries written to host rings with
their MSI-X messages (R344–R349), and the target and device Logbooks (R549–R551). -/
namespace Sys2Proof.Machine
open Sys2Proof

/-- Meridian time in ns (R462). -/
def merNs (s : State) : Nat := s.mer / 2 ^ 32

/-- A posted write to host memory leaves the endpoint (R326): an entry or a message, never relaxed (R318). -/
def hostWrite (func addr : Nat) (data : List Byte) (s : State) : State :=
  { s with hostTx := s.hostTx ++ [⟨func, addr, data, false⟩] }

/-- The function that owns ring r: the owner of its group of 64 rings (R321). -/
def ringOwner (s : State) (r : Nat) : Option Nat :=
  if bitF s (fRG_OWNER_ASSIGNED (r / 64)) then some (getF s (fRG_OWNER_OWNER (r / 64))) else none
/-- SIZE of a ring (R356). -/
def ringSize (s : State) (r : Nat) : Nat := 2 ^ getF s (fRING_CFG_LOG2SIZE r)
/-- A completion or event ring has no free entry: TAIL + 1 meets HEAD (R330). -/
def ringFull (s : State) (r : Nat) : Bool :=
  (getF s (fRING_PTR_TAIL r) + 1) % ringSize s r = getF s (fRING_PTR_HEAD r) % ringSize s r

/-- Send MSI-X vector v of function f, or mark it pending while its table entry is masked (R319, R625). -/
def msix (f v : Nat) (s : State) : State :=
  let e := tget msixReset s.msixTab (32 * f + v)
  if e.getLsbD 96 then { s with msixPba := tput s.msixPba (32 * f + v) true }
  else hostWrite f (bits e.toNat 0 64) (leBytes 4 (bits e.toNat 64 32)) s

/-- Announce an entry just written to ring r (R347): with MOD 0 always at once, else not within a holdoff. -/
def announce (r : Nat) (s : State) : State :=
  if bitF s (fRING_CFG_IRQ_EN r) then
    let send := msix ((ringOwner s r).getD 0) (getF s (fRING_CFG_VECTOR r)) s
    if getF s (fRING_CFG_MOD r) = 0 then send
    else match tlook s.holdoff r with
      | some _ => { s with holdoff := tput s.holdoff r true }
      | none => { send with holdoff := tput send.holdoff r false }
  else s

/-- Write one 16-byte entry at TAIL of a completion or event ring, with its PHASE (R344, R348). -/
def ringWrite (r q0 q1 : Nat) (s : State) : State :=
  let t := getF s (fRING_PTR_TAIL r) % ringSize s r
  let ph := getF s (fRING_PTR_PHASE r)
  let s := hostWrite ((ringOwner s r).getD 0) (4096 * getF s (fRING_BASE_BASE r) + 16 * t)
    (leBytes 8 q0 ++ leBytes 8 (q1 % 2 ^ 63 + ph * 2 ^ 63)) s
  let s := setF (fRING_PTR_TAIL r) ((t + 1) % ringSize s r) s
  let s := if t + 1 = ringSize s r then setF (fRING_PTR_PHASE r) (1 - ph) s else s
  announce r s

/-- Q1 of an event entry (R348). -/
def eventQ1 (ty src : Nat) (s : State) : Nat := ty + src * 2 ^ 16 + bits (merNs s) 10 31 * 2 ^ 32

/-- Post the event entry q1, data to function f, or drop and count it (R349). -/
def postEntry (f q1 data : Nat) (s : State) : State :=
  let r := getF s (fFUNC_CFG_EVT_RING f)
  let mine := ringOwner s r = some f
  if bitF s (fFUNC_STAT_ENABLED f) ∧ bitF s (fFUNC_CFG_EVT_EN f) ∧ mine ∧ bitF s (fRING_CFG_ENABLE r) ∧
      getF s (fRING_CFG_KIND r) = 2 ∧ ringFull s r = false then
    let lost := tget 0 s.evtLost r
    let s := if lost = 0 then s
      else { ringWrite r lost (eventQ1 4 r s) s with evtLost := terase s.evtLost r }
    if ringFull s r then
      satF (fRING_STAT_EVT_LOST r) 1 { s with evtLost := tset 0 s.evtLost r (tget 0 s.evtLost r + 1) }
    else ringWrite r data q1 s
  else if mine then
    satF (fRING_STAT_EVT_LOST r) 1 { s with evtLost := tset 0 s.evtLost r (tget 0 s.evtLost r + 1) }
  else satF (fFUNC_STAT_EVT_LOST f) 1 s
/-- Post an event to function f (R348). After a fatal error none is written (R548); during a firmware switch it is held
(R560). -/
def postEvent (f ty src data : Nat) (s : State) : State :=
  if bitF s fDEV_ERR_FATAL then s
  else if s.cqHold then { s with evtHeld := s.evtHeld ++ [(f, eventQ1 ty src s, data)] }
  else postEntry f (eventQ1 ty src s) data s

/-- An entry of the device Logbook, mirrored as LOGBOOK events to the PF and to the VFs it concerns (R550, R349): `vfs`
names the owner of the partition in which it arose, and the function whose master ID it carries. -/
def devLogFor (vfs : List Nat) (cls sev status master node field wh cap : Nat) (s : State) : State :=
  let i := getF s fDLOG_PTR_NEXT
  let seqno := getF s fDLOG_PTR_TOTAL % 2 ^ 16
  let l0 := seqno + cls * 2 ^ 16 + sev * 2 ^ 24 + status * 2 ^ 28 + master * 2 ^ 32 + node * 2 ^ 40 + field * 2 ^ 48
  let vs := uniq (vfs.filter (· != 0))
  let s := { s with dlog := tput s.dlog i ⟨l0, merNs s, wh, cap, vs⟩ }
  let s := incF fDLOG_PTR_TOTAL 1 (incF fDLOG_PTR_NEXT 1 s)
  vs.foldl (fun s v => postEvent v 2 master i s) (postEvent 0 2 master i s)

/-- The function a master ID names: 0x80 the PF, 0x80 + v VF v (R568). -/
def masterFunc (m : Nat) : Option Nat := if 0x80 ≤ m ∧ m ≤ 0xBF then some (m - 0x80) else none

/-- A device Logbook entry about a master, detected at a node; at the node of a sequencer it arose in that sequencer's
partition. -/
def devLogM (cls sev status master node wh cap : Nat) (s : State) : State :=
  devLogFor ((masterFunc master).toList ++ if node < 64 then (ownerOf s node).toList else [])
    cls sev status master node 0 wh cap s
/-- A device Logbook entry about a field, as its class names one (R551). -/
def devLogF (cls sev field wh cap : Nat) (s : State) : State :=
  devLogFor (ownerOf s field).toList cls sev 0 0xFF field field wh cap s

/-- The first doubleword of a target Logbook entry (R562). -/
def tlogT0 (addr master ty status : Nat) : Nat := addr % 2 ^ 48 + master * 2 ^ 48 + ty * 2 ^ 56 + status * 2 ^ 60

/-- An entry of the target Logbook of node d (R549, R562). An entry overwritten unread counts in LOST. -/
def tgtLog (d addr master ty status : Nat) (s : State) : State :=
  let i := getF s (fTLOG_STAT_NEXT d)
  let k := 16 * d + i
  let s := if (tget false s.tlogUnread k) then satF (fTLOG_STAT_LOST d) 1 s else s
  let s := setFs [(fTLOG_T0_ADDR d i, addr), (fTLOG_T0_MASTER d i, master), (fTLOG_T0_TYPE d i, ty),
    (fTLOG_T0_STATUS d i, status), (fTLOG_T1_TIME d i, merNs s)] s
  incF (fTLOG_STAT_NEXT d) 1 { s with tlogUnread := tput s.tlogUnread k true }

/-- An access-table or Chart refusal at node d: both Logbooks (R549, R551 class 12, R574). -/
def refusalLog (d addr master ty status : Nat) (s : State) : State :=
  devLogM 12 0 status master d addr (tlogT0 addr master ty status) (tgtLog d addr master ty status s)

end Sys2Proof.Machine
end

