-- ==== Sys2Proof/Machine/Planes.lean ====
section
/-! DEFINITION. One bit of every PE of a field as a plane: truth tables, constant rows, the grid, slices of a plane,
population counts, and the stored rows with their error code (R39, R53, R62–R74, R148). Bit 128 * y + x of a plane is
the PE at column x and row y of the field. -/
namespace Sys2Proof.Machine
open Sys2Proof

def ones : Plane := BitVec.allOnes 16384

/-- The function generator of R39 in every PE: bit 4A + 2B + F of the truth table. -/
def ttPlane (tt : BitVec 8) (a b f : Plane) : Plane :=
  (List.range 8).foldl (fun acc i =>
    if tt.getLsbD i then
      acc ||| ((if i / 4 % 2 = 1 then a else ~~~a) &&& (if i / 2 % 2 = 1 then b else ~~~b) &&&
        (if i % 2 = 1 then f else ~~~f))
    else acc) 0

/-- The planes of R45: which PEs store. -/
def wenPlane (wen : Nat) (f1 : Plane) : Plane :=
  match wen with | 0 => 0 | 1 => ones | 2 => f1 | _ => ~~~f1

/-- 1 where bit log2 L of the PE index is 1: blocks of L zeros and L ones. -/
def stripes (l : Nat) : Plane := BitVec.ofNat 16384 ((2 ^ 16384 - 1) / (2 ^ l + 1) * 2 ^ l)

def fullIf (b : Bool) : Plane := if b then ones else 0

/-- The constant rows of R53 in field f. -/
def constRow (f ea : Nat) : Plane :=
  if ea = 4097 then ones
  else if ea < 4098 then 0
  else if ea < 4108 then
    let k := ea - 4098
    if k < 7 then stripes (2 ^ k) else fullIf ((fcol f).testBit (k - 7))
  else if ea < 4118 then
    let k := ea - 4108
    if k < 7 then stripes (128 * 2 ^ k) else fullIf ((frow f).testBit (k - 7))
  else if ea < 4120 then fullIf ((tileOf f).testBit (ea - 4118))
  else 0

/-! ### Slices of a plane (R14) -/

/-- The PE of lane l of slice s. -/
def peIndex (s l : Nat) : Nat := 128 * (8 * (s / 16) + l / 8) + 8 * (s % 16) + l % 8
/-- The 64 lane bits of slice s. -/
def sliceRow (s : Nat) (p : Plane) : Word :=
  (List.range 8).foldl (fun acc j =>
    acc ||| (((p >>> (peIndex s (8 * j))).setWidth 64 &&& 0xFF#64) <<< (8 * j))) 0
/-- The plane that holds 64 lane bits in slice s and 0 elsewhere. -/
def slicePlane (s : Nat) (w : Word) : Plane :=
  (List.range 8).foldl (fun acc j =>
    acc ||| (((w >>> (8 * j)) &&& 0xFF#64).setWidth 16384 <<< (peIndex s (8 * j)))) 0
/-- The word of lane l of slice s in 64 bit planes (R176). -/
def laneWord (t : Tbl Plane) (s l : Nat) : Word :=
  t.foldl (fun acc e => if e.2.getLsbD (peIndex s l) then acc ||| (1#64 <<< e.1) else acc) 0

/-- The bits set among the lowest 2^k bits. -/
def popc : Nat → Nat → Nat
  | 0, v => v % 2
  | k + 1, v => popc k (v % 2 ^ 2 ^ k) + popc k (v / 2 ^ 2 ^ k)

/-! ### The grid (R148, R153) -/

/-- 1 in columns x < h. -/
def westCols (h : Nat) : Plane := BitVec.ofNat 16384 ((2 ^ h - 1) * ((2 ^ 16384 - 1) / (2 ^ 128 - 1)))
/-- 1 in the receivers of a field whose source lies in the neighbouring field, for a send with bearing d (0 N, 1 E,
2 S, 3 W) and hop h. -/
def outerMask (d h : Nat) : Plane :=
  match d with
  | 0 => ~~~(BitVec.ofNat 16384 (2 ^ (128 * (128 - h)) - 1))
  | 1 => westCols h
  | 2 => BitVec.ofNat 16384 (2 ^ (128 * h) - 1)
  | _ => ~~~(westCols (128 - h))
/-- What receivers take from their own field's A bits. -/
def shiftIn (d h : Nat) (a : Plane) : Plane :=
  (match d with | 0 => a >>> (128 * h) | 1 => a <<< h | 2 => a <<< (128 * h) | _ => a >>> h) &&& ~~~(outerMask d h)
/-- What the outer receivers take from the neighbouring field's A bits. -/
def shiftOver (d h : Nat) (a : Plane) : Plane :=
  (match d with
    | 0 => a <<< (128 * (128 - h)) | 1 => a >>> (128 - h)
    | 2 => a >>> (128 * (128 - h)) | _ => a <<< (128 - h)) &&& outerMask d h

/-- The edge of a field on side d as 128 bits (R156), and back. -/
def edgeBits (d : Nat) (p : Plane) : BitVec 128 :=
  match d with
  | 0 => p.setWidth 128
  | 2 => (p >>> (128 * 127)).setWidth 128
  | 1 => (List.range 128).foldl (fun acc y => if p.getLsbD (128 * y + 127) then acc ||| (1#128 <<< y) else acc) 0
  | _ => (List.range 128).foldl (fun acc y => if p.getLsbD (128 * y) then acc ||| (1#128 <<< y) else acc) 0
def edgePlane (d : Nat) (b : BitVec 128) : Plane :=
  match d with
  | 0 => b.setWidth 16384
  | 2 => b.setWidth 16384 <<< (128 * 127)
  | 1 => (List.range 128).foldl (fun acc y => if b.getLsbD y then acc ||| (1#16384 <<< (128 * y + 127)) else acc) 0
  | _ => (List.range 128).foldl (fun acc y => if b.getLsbD y then acc ||| (1#16384 <<< (128 * y)) else acc) 0

/-- The strip that faces a tile's outer edge on side d (R26). -/
def stripOf (tile d : Nat) : Option Nat :=
  match tile, d with
  | 0, 0 => some 0 | 0, 3 => some 1 | 1, 0 => some 2 | 1, 1 => some 3
  | 2, 2 => some 4 | 2, 3 => some 5 | 3, 2 => some 6 | 3, 1 => some 7
  | _, _ => none
/-- The edge segment, 4 * strip + segment, that faces field f on side d of the package (R156). -/
def segOf (f d : Nat) : Option Nat :=
  let out := match d with | 0 => frow f == 0 | 1 => fcol f == 7 | 2 => frow f == 7 | _ => fcol f == 0
  if out then (stripOf (tileOf f) d).map fun g => 4 * g + (if d % 2 = 0 then fcol f % 4 else frow f % 4) else none

/-- The neighbour of field f on side d within the partition; `none` at the partition's own edge (R148). -/
def nbField (m : Nat) (p : Part) (f d : Nat) : Option Nat :=
  let x0 := fcol m
  let y0 := frow m
  match d with
  | 0 => if frow f = y0 then none else some (f - 8)
  | 1 => if fcol f + 1 = x0 + 2 ^ p.wlog then none else some (f + 1)
  | 2 => if frow f + 1 = y0 + 2 ^ p.hlog then none else some (f + 8)
  | _ => if fcol f = x0 then none else some (f - 1)
/-- The field at the far side of the partition that WRAP on side d takes its bits from (R153). -/
def wrapField (m : Nat) (p : Part) (f d : Nat) : Nat :=
  match d with
  | 0 => 8 * (frow m + 2 ^ p.hlog - 1) + fcol f
  | 1 => 8 * frow f + fcol m
  | 2 => 8 * frow m + fcol f
  | _ => 8 * frow f + fcol m + 2 ^ p.wlog - 1

/-! ### Stored rows and their error code (R62–R74) -/

def rowKey (srow pcol row : Nat) : Nat := 4096 * (17 * srow + pcol) + row
/-- The logical slice column a physical slice column of field f holds (R74); the field has columns 0 to 16 (R73). -/
def logCol (s : State) (f pcol : Nat) : Option Nat :=
  if 17 ≤ pcol then none
  else if bitF s (fSPARE_MAP_ACTIVE f) then
    let c := getF s (fSPARE_MAP_FAILED_COL f)
    if pcol < c then some pcol else if pcol = c then none else some (pcol - 1)
  else if 16 ≤ pcol then none else some pcol

/-- An error found in a read of a row: where, whether uncorrectable, and the corrected position (0–71). -/
structure EccEv where
  srow : Nat
  pcol : Nat
  ue : Bool
  pos : Nat
  deriving DecidableEq, Repr

/-- What the decoder makes of a stored codeword with error mask m (R63, R69): the correction of its data lanes, and
the error it reports. With three or more errors the outcome is free. -/
def decodeRow (mask : BitVec 72) (draw : Nat) : Word × Option (Bool × Nat) :=
  match popc 7 mask.toNat with
  | 0 => (0, none)
  | 1 => (mask.setWidth 64, some (false, mask.toNat.log2))
  | 2 => (0, some (true, 0))
  | _ => match Config.eccOutcome draw with
    | 0 => (0, none)
    | 1 => (Config.eccData draw, some (false, Config.eccPos draw % 72))
    | _ => (0, some (true, 0))

/-- What a read of one stored row in error delivers, read by the microword after the one that wrote it (`fwd`, R66) or
later: the correction and the error it reports. -/
def decodeErr (e : RowErr) (fwd : Bool) (draw : Nat) : Word × Option (Bool × Nat) :=
  if fwd then (if e.poison then (0, some (true, 0)) else (e.mask.setWidth 64, none))
  else decodeRow e.mask draw

/-- The rows of field f in error at a row address, with their keys and logical slices. -/
def badRows (s : State) (f row : Nat) : List (Nat × Nat × RowErr) :=
  (getField s f).rowErr.filterMap fun (k, e) =>
    if k % 4096 = row then
      (logCol s f (k / 4096 % 17)).map fun c => (k, 16 * (k / 4096 / 17) + c, e)
    else none

/-- A read of a user row of field f, with the data forwarded (R66) or from the stored row: the delivered plane and the
errors it finds. -/
def readRowAs (fwd : Bool) (s : State) (f row : Nat) : Plane × List EccEv × State :=
  (badRows s f row).foldl (fun (p, evs, s) (k, sl, e) =>
    let (d, s) := draw s
    let (fix, r) := decodeErr e fwd d
    (p ^^^ slicePlane sl fix,
     match r with | none => evs | some (ue, pos) => evs ++ [⟨k / 4096 / 17, k / 4096 % 17, ue, pos⟩], s))
    (tget 0 (getField s f).rows row, [], s)
/-- A microword's read of a user row: what the word before it wrote is forwarded (R66). -/
def readRow (s : State) (f row : Nat) : Plane × List EccEv × State :=
  readRowAs (decide ((getField s f).fwd = some row)) s f row
/-- What field f forwards is no longer row `row`: another writer than a microword has stored it. -/
def dropFwd (f row : Nat) (s : State) : State :=
  updField f (fun x => { x with fwd := if x.fwd = some row then none else x.fwd }) s

/-- The poison of R71: check bits 0 and 7 inverted. -/
def poisonMask : BitVec 72 := (1#72 <<< 64) ||| (1#72 <<< 71)

/-- The codeword positions an armed injection inverts (R90). -/
def injMask (s : State) (f : Nat) : BitVec 72 :=
  let p1 := getF s (fPEMEM_INJ_POS1 f)
  let p2 := getF s (fPEMEM_INJ_POS2 f)
  let one (p : Nat) : BitVec 72 := if p < 72 then 1#72 <<< p else 0
  if bitF s (fPEMEM_INJ_DOUBLE f) then one p1 ||| one p2 else one p1

/-- Store one codeword's error state. -/
def setRowErr (f key : Nat) (e : RowErr) (s : State) : State :=
  updField f (fun x => { x with rowErr := tset ⟨0, false⟩ x.rowErr key e }) s

/-- Flip stored positions of one row (an upset, or an injection): the lanes' bits change with them. -/
def flipRow (f srow pcol row : Nat) (mask : BitVec 72) (s : State) : State :=
  let k := rowKey srow pcol row
  let e := tget ⟨0, false⟩ (getField s f).rowErr k
  let s := setRowErr f k ⟨e.mask ^^^ mask, e.poison⟩ s
  match logCol s f pcol with
  | some c => updField f (fun x =>
      { x with rows := tset 0 x.rows row (tget 0 x.rows row ^^^ slicePlane (16 * srow + c) (mask.setWidth 64)) }) s
  | none => s

/-- The injection of R90: after a write of row `row` in slices that include the target, its codeword is stored with
the selected bits inverted, and ARM clears. -/
def inject (f row : Nat) (s : State) : State :=
  let pcol := getF s (fPEMEM_INJ_PCOL f)
  let srow := getF s (fPEMEM_INJ_SROW f)
  if bitF s (fPEMEM_INJ_ARM f) ∧ getF s (fPEMEM_INJ_ROW f) = row ∧ (logCol s f pcol).isSome then
    setF (fPEMEM_INJ_ARM f) 0 (flipRow f srow pcol row (injMask s f) s)
  else s

/-- The write of R65 of a user row: PEs of `en` take `val`. A slice with every lane enabled is written whole; in any
other the merge read is decoded first, heals a corrected error and poisons an uncorrectable row (R71). Answers the
errors the merge reads find. -/
def writeRow (s : State) (f row : Nat) (en val : Plane) : List EccEv × State :=
  let fwd := decide ((getField s f).fwd = some row)
  let (p, evs, s) := (badRows s f row).foldl (fun (p, evs, s) (k, sl, e) =>
    if sliceRow sl en = BitVec.allOnes 64 then (p, evs, setRowErr f k ⟨0, false⟩ s)
    else
      let (d, s) := draw s
      let (fix, r) := decodeErr e fwd d
      let ue := match r with | some (u, _) => u | none => false
      (p ^^^ slicePlane sl fix,
       match r with | none => evs | some (u, pos) => evs ++ [⟨k / 4096 / 17, k / 4096 % 17, u, pos⟩],
       setRowErr f k (if ue then ⟨poisonMask, true⟩ else ⟨0, false⟩) s))
    (tget 0 (getField s f).rows row, ([] : List EccEv), s)
  let s := updField f (fun x => { x with rows := tset 0 x.rows row ((p &&& ~~~en) ||| (val &&& en)) }) s
  (evs, inject f row s)

/-- The register value of PEMEM_ERR_CAP of a field, for Logbook entries (R86). -/
def errCapValue (s : State) (f : Nat) : Nat :=
  getF s (fPEMEM_ERR_CAP_VALID f) + getF s (fPEMEM_ERR_CAP_OVF f) * 2 + getF s (fPEMEM_ERR_CAP_UE f) * 4 +
  getF s (fPEMEM_ERR_CAP_CHK f) * 8 + getF s (fPEMEM_ERR_CAP_SRC f) * 16 + getF s (fPEMEM_ERR_CAP_POS f) * 2 ^ 8 +
  getF s (fPEMEM_ERR_CAP_SROW f) * 2 ^ 16 + getF s (fPEMEM_ERR_CAP_PCOL f) * 2 ^ 20 +
  getF s (fPEMEM_ERR_CAP_ROW f) * 2 ^ 32 + getF s (fPEMEM_ERR_CAP_UPC f) * 2 ^ 48

/-- Load PEMEM_ERR_CAP under R87. -/
def peCapture (f src row upc : Nat) (e : EccEv) (s : State) : State :=
  let held := bitF s (fPEMEM_ERR_CAP_VALID f)
  let s := if held then setF (fPEMEM_ERR_CAP_OVF f) 1 s else s
  if held = false ∨ (e.ue ∧ bitF s (fPEMEM_ERR_CAP_UE f) = false) then
    setFs [(fPEMEM_ERR_CAP_VALID f, 1), (fPEMEM_ERR_CAP_UE f, b2n e.ue),
      (fPEMEM_ERR_CAP_CHK f, if e.ue then 0 else e.pos / 64), (fPEMEM_ERR_CAP_SRC f, src),
      (fPEMEM_ERR_CAP_POS f, if e.ue then 0 else e.pos % 64), (fPEMEM_ERR_CAP_SROW f, e.srow),
      (fPEMEM_ERR_CAP_PCOL f, e.pcol), (fPEMEM_ERR_CAP_ROW f, row),
      (fPEMEM_ERR_CAP_UPC f, if src ≤ 2 then upc else 0)] s
  else s

/-- Count one error of a row read and capture it (R68, R70, R85–R88). -/
def peError (f src row upc : Nat) (e : EccEv) (s : State) : State :=
  if e.ue then peCapture f src row upc e (satF (fPEMEM_ECC_UE_CNT f) 1 s)
  else
    let c := getF s (fPEMEM_ECC_CE_CNT f)
    let s := peCapture f src row upc e (satF (fPEMEM_CE_COL f e.pcol) 1 (satF (fPEMEM_ECC_CE_CNT f) 1 s))
    let t := getF s (fPEMEM_ECC_CE_THR f)
    if t ≠ 0 ∧ c < t ∧ getF s (fPEMEM_ECC_CE_CNT f) = t then devLogF 1 1 f f (errCapValue s f) s else s

def peErrors (f src row upc : Nat) (evs : List EccEv) (s : State) : State :=
  evs.foldl (fun s e => peError f src row upc e s) s

end Sys2Proof.Machine
end

