-- ==== Sys2Proof/Machine/Codec.lean ====
section
/-! DEFINITION. What a fleet link puts on a lane: flits with their CRC, the message of a codeword, the scrambler, and the
RS(544,514) code (R429, R431, R440). The code is that of IEEE 802.3 clause 91, to which R429 refers. -/
namespace Sys2Proof.Machine
open Sys2Proof

/-! ### Flits (R431) -/

/-- A flit of a class, with its payload. -/
def mkFlit (cls chan : Nat) (last : Bool) (p : Nat) : Flit :=
  ⟨BitVec.ofNat 3 cls, BitVec.ofNat 4 chan, last, 0, BitVec.ofNat 224 p, 0⟩
/-- The header bits [15:0] of a flit. -/
def flitHead (f : Flit) : Nat := f.cls.toNat + f.chan.toNat * 2 ^ 3 + b2n f.last * 2 ^ 7 + f.rsv.toNat * 2 ^ 8
/-- The CRC-16 of a flit, over the octets of header bits [15:0] and of the payload, the lowest octet first and each from its
most significant bit on. -/
def flitCrc (f : Flit) : Nat :=
  let v := flitHead f + f.p.toNat * 2 ^ 16
  (List.range 240).foldl (fun c i =>
    let out := c.testBit 15 != v.testBit (i - i % 8 + (7 - i % 8))
    (2 * c % 2 ^ 16) ^^^ (if out then 0x1021 else 0)) 0xFFFF
/-- The 256 bits of a flit. -/
def flitBits (f : Flit) : Nat := flitHead f + flitCrc f * 2 ^ 16 + f.p.toNat * 2 ^ 32
/-- A flit as the receiver reads it at time `rx`; none when its CRC fails. -/
def flitOf (rx v : Nat) : Option Flit :=
  let f : Flit := ⟨BitVec.ofNat 3 v, BitVec.ofNat 4 (v / 2 ^ 3), v.testBit 7, BitVec.ofNat 8 (v / 2 ^ 8), BitVec.ofNat 224 (v / 2 ^ 32), rx⟩
  if flitCrc f = bits v 16 16 then some f else none

/-! ### Messages (R429) -/

/-- The 5,140 message bits of a codeword. -/
def messageBits (c : Codeword) : Nat :=
  let h := c.seq % 2 ^ 12 + c.lane % 2 ^ 5 * 2 ^ 12 + b2n c.rpl * 2 ^ 17
  h + popc 5 h % 2 * 2 ^ 19 + packed 256 (c.flits.map flitBits) * 2 ^ 20
/-- The codeword of a message; none when the parity of the header or the CRC of a flit fails. -/
def messageOf (rx m : Nat) : Option Codeword :=
  if popc 5 (m % 2 ^ 20) % 2 = 0 then
    ((List.range 20).mapM fun i => flitOf rx (bits m (20 + 256 * i) 256)).map fun fs =>
      ⟨bits m 0 12, m.testBit 17, bits m 12 5, fs⟩
  else none

/-! ### The scrambler -/

/-- Message m scrambled after the 58 scrambled bits `past` (the latest in bit 57): bit i of the result is bit i of m added to
the scrambled bits 39 and 58 places before it, 39 bits at a time. -/
def scramble (past m : Nat) : Nat :=
  let t := (List.range 132).foldl (fun t b =>
    let k := 39 * b
    t + (bits m k 39 ^^^ bits t (k + 19) 39 ^^^ bits t k 39) * 2 ^ (58 + k)) (past % 2 ^ 58)
  bits t 58 5140
/-- The message that was scrambled. -/
def descramble (past v : Nat) : Nat :=
  let t := past % 2 ^ 58 + v * 2 ^ 58
  v ^^^ bits t 19 5140 ^^^ bits t 0 5140
/-- The 58 bits that the scrambler remembers of 5,140. -/
def scrPast (v : Nat) : Nat := bits v 5082 58

/-! ### RS(544,514) over GF(2¹⁰) -/

/-- Times α, a root of x¹⁰ + x³ + 1. -/
def gfDouble (a : Nat) : Nat := if a < 512 then 2 * a else (2 * a - 1024) ^^^ 9
def gfMul (a b : Nat) : Nat :=
  (List.range 10).foldl (fun r i => gfDouble r ^^^ (if b.testBit (9 - i) then a else 0)) 0
def gfPow (a : Nat) : Nat → Nat
  | 0 => 1
  | n + 1 => gfMul a (gfPow a n)
def gfInv (a : Nat) : Nat := gfPow a 1022
/-- α to a power. -/
def gfAlpha (n : Nat) : Nat := gfPow 2 (n % 1023)

/-- Polynomials: the coefficients from degree 0 on. -/
abbrev Poly := List Nat
def polyEval (p : Poly) (x : Nat) : Nat := p.foldr (fun c r => c ^^^ gfMul r x) 0
def polyAdd (p q : Poly) : Poly := (List.range (max p.length q.length)).map fun i => p.getD i 0 ^^^ q.getD i 0
def polyScale (c : Nat) (p : Poly) : Poly := p.map (gfMul c)
def polyMul : Poly → Poly → Poly
  | [], _ => []
  | c :: p, q => polyAdd (polyScale c q) (0 :: polyMul p q)
/-- A polynomial without leading zeros. -/
def polyTrim (p : Poly) : Poly := (p.reverse.dropWhile (· == 0)).reverse
/-- Quotient and remainder, with as much fuel as the dividend has coefficients. -/
def polyDivMod : Nat → Poly → Poly → Poly × Poly
  | 0, p, _ => ([], p)
  | n + 1, p, d =>
    if p.length < d.length ∨ d = [] then ([], p)
    else
      let k := p.length - d.length
      let c := gfMul (p.getLastD 0) (gfInv (d.getLastD 1))
      let (q, r) := polyDivMod n (polyTrim (polyAdd p (List.replicate k 0 ++ polyScale c d))) d
      (polyAdd q (List.replicate k 0 ++ [c]), r)

/-- The generator: the product of x − αʲ, j = 0–29. -/
def rsGenerator : Poly := (List.range 30).foldl (fun g j => polyMul g [gfAlpha j, 1]) [1]
/-- The 30 check symbols of 514 message symbols, the first of both the highest coefficient. -/
def rsCheck (msg : List Nat) : List Nat :=
  let taps := (rsGenerator.take 30).reverse
  msg.foldl (fun reg m =>
    let out := m ^^^ reg.headD 0
    List.zipWith (fun r t => r ^^^ gfMul out t) (reg.drop 1 ++ [0]) taps) (List.replicate 30 0)
/-- Symbols of 10 bits, the lowest first. -/
def symbols (n v : Nat) : List Nat := (List.range n).map fun i => bits v (10 * i) 10
/-- The 5,440 bits of the code word of 5,140 message bits: the message, then the check symbols. -/
def rsEncode (m : Nat) : Nat := m + packed 10 (rsCheck (symbols 514 m)) * 2 ^ 5140

/-- Euclid's algorithm on the key equation: the error evaluator and the error locator, once the remainder's degree is below 15. -/
def rsEuclid : Nat → Poly → Poly → Poly → Poly → Poly × Poly
  | 0, _, r, _, v => (r, v)
  | n + 1, r0, r, v0, v =>
    if r.length ≤ 15 then (r, v)
    else
      let (q, rem) := polyDivMod 31 r0 r
      rsEuclid n r rem v (polyTrim (polyAdd v0 (polyMul q v)))
/-- The message bits of 5,440 received bits and the number of symbols corrected; none when no code word lies within 15
symbols. -/
def rsDecode (w : Nat) : Option (Nat × Nat) :=
  let word := (symbols 544 w).reverse
  let m := bits w 0 5140
  if rsEncode m = w then some (m, 0)
  else
    let syndromes := (List.range 30).map fun j => polyEval word (gfAlpha j)
    let (evaluator, locator) := rsEuclid 31 (List.replicate 30 0 ++ [1]) (polyTrim syndromes) [] [1]
    let slope := (List.range locator.length).map fun i => if i % 2 = 0 then locator.getD (i + 1) 0 else 0
    let places := (List.range 544).filter fun i => polyEval locator (gfAlpha (1023 - i)) == 0
    let fixed := (List.range 544).map fun i =>
      if places.contains i then
        let x := gfAlpha (1023 - i)
        word.getD i 0 ^^^ gfMul (gfAlpha i) (gfMul (polyEval evaluator x) (gfInv (polyEval slope x)))
      else word.getD i 0
    let m := packed 10 (fixed.reverse.take 514)
    if places.length + 1 = locator.length ∧ places.length ≤ 15 ∧ rsEncode m = packed 10 fixed.reverse then some (m, places.length)
    else none

/-! ### A lane -/

/-- The 5,440 bits that carry a codeword on a lane whose scrambler remembers `past`, and what it remembers then. -/
def laneEncode (past : Nat) (c : Codeword) : Nat × Nat :=
  let v := scramble past (messageBits c)
  (rsEncode v, scrPast v)
/-- The codeword of received bits w that have been decoded, with the symbols corrected; none when they could not be or a check of
R429 or R431 fails. Besides, what the descrambler remembers: the message bits as corrected, or as received. -/
def laneRead (rx past w : Nat) : Option (Nat × Nat) → Option (Codeword × Nat) × Nat
  | some (v, n) => ((messageOf rx (descramble past v)).map fun c => (c, n), scrPast v)
  | none => (none, scrPast (bits w 0 5140))
/-- What 5,440 received bits bring. -/
def laneDecode (rx past w : Nat) : Option (Codeword × Nat) × Nat := laneRead rx past w (rsDecode w)

end Sys2Proof.Machine
end

