-- ==== Sys2Proof/Machine/Flags.lean ====
section
/-! DEFINITION. The arithmetic of the Sutor unit and every flag it raises (chapter 08): IEEE 754 floating point,
integers and packed decimal. Exact results are formed in Nat and Int and narrowed once. -/
namespace Sys2Proof.Machine
open Sys2Proof

/-- A lane's exception flags in the bit order of LANE_EXC (R213). -/
abbrev Flags := BitVec 8
def flNV : Flags := 0x01
def flDZ : Flags := 0x02
def flOF : Flags := 0x04
def flUF : Flags := 0x08
def flNX : Flags := 0x10
def flIO : Flags := 0x20
def flDI : Flags := 0x40
def flDO : Flags := 0x80

/-! ### Formats (R186, R216) -/

/-- Width of a format in bits. -/
def fmtWidth (f : Nat) : Nat := match f with | 1 => 32 | 2 => 16 | 3 => 16 | 5 => 32 | 6 => 16 | 7 => 8 | _ => 64
/-- Exponent field width of a floating-point format. -/
def expW (f : Nat) : Nat := match f with | 0 => 11 | 2 => 5 | _ => 8
/-- Fraction field width of a floating-point format. -/
def fracW (f : Nat) : Nat := match f with | 0 => 52 | 1 => 23 | 2 => 10 | _ => 7
/-- Precision p. -/
def prec (f : Nat) : Nat := fracW f + 1
def bias (f : Nat) : Nat := 2 ^ (expW f - 1) - 1
/-- The exponent of the last place of subnormals and of the smallest normal binade. -/
def qMin (f : Nat) : Int := 2 - (bias f : Int) - (prec f : Int)
def expMax (f : Nat) : Nat := 2 ^ expW f - 1

/-- A classified operand (R217): a finite value is (−1)^sign · m · 2^e. -/
inductive Fp where
  | nan (signalling : Bool)
  | inf (sign : Bool)
  | fin (sign : Bool) (m : Nat) (e : Int)
  deriving DecidableEq, Repr

/-- Classify the low bits of a word under a format. -/
def fpOf (f : Nat) (w : Word) : Fp :=
  let v := w.toNat % 2 ^ fmtWidth f
  let t := v % 2 ^ fracW f
  let e := v / 2 ^ fracW f % 2 ^ expW f
  let s := v / 2 ^ (fracW f + expW f) = 1
  if e = expMax f then (if t = 0 then .inf s else .nan (t < 2 ^ (fracW f - 1)))
  else if e = 0 then .fin s t (qMin f)
  else .fin s (t + 2 ^ fracW f) (qMin f + (e : Int) - 1)

def Fp.isNan : Fp → Bool
  | .nan _ => true
  | _ => false
def Fp.isSig : Fp → Bool
  | .nan s => s
  | _ => false

/-- Encode sign, biased exponent and fraction. -/
def fpEnc (f : Nat) (s : Bool) (e t : Nat) : Word :=
  BitVec.ofNat 64 (t + e * 2 ^ fracW f + (if s then 2 ^ (fracW f + expW f) else 0))
/-- The canonical NaN of a format (R225). -/
def fpQnan (f : Nat) : Word := fpEnc f false (expMax f) (2 ^ (fracW f - 1))
def fpInf (f : Nat) (s : Bool) : Word := fpEnc f s (expMax f) 0
def fpMax (f : Nat) (s : Bool) : Word := fpEnc f s (expMax f - 1) (2 ^ fracW f - 1)

/-- The number of bits of a value (bitlen of R190; bitlen 0 = 0). -/
def bitlen (n : Nat) : Nat := if n = 0 then 0 else n.log2 + 1

/-- Whether rounding away from the truncated n adds one, when r of 2^d is cut off (R220). -/
def roundUp (rm : Nat) (s : Bool) (n r d : Nat) : Bool :=
  match rm with
  | 0 => decide (2 * r > 2 ^ d ∨ (2 * r = 2 ^ d ∧ n % 2 = 1))
  | 1 => false
  | 2 => decide (r ≠ 0) && !s
  | 3 => decide (r ≠ 0) && s
  | _ => decide (2 * r ≥ 2 ^ d ∧ r ≠ 0)

/-- m · 2^e rounded to a multiple of 2^q: the multiple, and whether it is inexact. -/
def roundAt (rm : Nat) (s : Bool) (m : Nat) (e q : Int) : Nat × Bool :=
  if e ≥ q then (m * 2 ^ (e - q).toNat, false)
  else
    let d := (q - e).toNat
    let n := m / 2 ^ d
    let r := m % 2 ^ d
    (if roundUp rm s n r d then n + 1 else n, decide (r ≠ 0))

/-- Round an exact non-zero value once to format f (R220–R223). -/
def fpRound (f rm : Nat) (s : Bool) (m : Nat) (e : Int) : Word × Flags :=
  let p := prec f
  let q := e + (bitlen m : Int) - (p : Int)
  let qb := max q (qMin f)
  let (n, inexact) := roundAt rm s m e qb
  let (nu, _) := roundAt rm s m e q
  let tiny := decide (q + (bitlen nu : Int) < qMin f + (p : Int))
  let (n, qb) := if n = 2 ^ p then (2 ^ (p - 1), qb + 1) else (n, qb)
  let ebias := if n < 2 ^ (p - 1) then 0 else (qb - qMin f).toNat + 1
  if ebias ≥ expMax f then
    let toInf := match rm with | 1 => false | 2 => !s | 3 => s | _ => true
    (if toInf then fpInf f s else fpMax f s, flOF ||| flNX)
  else
    (fpEnc f s ebias (n % 2 ^ (p - 1)),
      (if inexact then flNX else 0) ||| (if tiny && inexact then flUF else 0))

/-- An exact sum, with the sign rule of R224 for zeros. -/
def fpSum (f rm : Nat) (s1 : Bool) (m1 : Nat) (e1 : Int) (s2 : Bool) (m2 : Nat) (e2 : Int) : Word × Flags :=
  let e := min e1 e2
  let a : Int := (if s1 then -1 else 1) * ((m1 * 2 ^ (e1 - e).toNat : Nat) : Int)
  let b : Int := (if s2 then -1 else 1) * ((m2 * 2 ^ (e2 - e).toNat : Nat) : Int)
  let t := a + b
  if t = 0 then
    let s := if m1 = 0 ∧ m2 = 0 ∧ s1 = s2 then s1 else decide (rm = 3)
    (fpEnc f s 0 0, 0)
  else fpRound f rm (decide (t < 0)) t.natAbs e

/-- NaN result with the flag of R226: NV when an operand signals. -/
def fpNan (f : Nat) (l : List Fp) : Word × Flags := (fpQnan f, if l.any (·.isSig) then flNV else 0)

/-- a + b (R224–R226); FSUB is this with b negated. -/
def fpAdd (f rm : Nat) (x y : Fp) : Word × Flags :=
  match x, y with
  | .nan _, _ => fpNan f [x, y]
  | _, .nan _ => fpNan f [x, y]
  | .inf s, .inf t => if s = t then (fpInf f s, 0) else (fpQnan f, flNV)
  | .inf s, .fin _ _ _ => (fpInf f s, 0)
  | .fin _ _ _, .inf t => (fpInf f t, 0)
  | .fin s m e, .fin t n g => fpSum f rm s m e t n g
def Fp.neg : Fp → Fp
  | .nan s => .nan s
  | .inf s => .inf !s
  | .fin s m e => .fin (!s) m e

/-- a × b (R226). -/
def fpMul (f rm : Nat) (x y : Fp) : Word × Flags :=
  match x, y with
  | .nan _, _ => fpNan f [x, y]
  | _, .nan _ => fpNan f [x, y]
  | .inf s, .inf t => (fpInf f (s != t), 0)
  | .inf s, .fin t n _ => if n = 0 then (fpQnan f, flNV) else (fpInf f (s != t), 0)
  | .fin s m _, .inf t => if m = 0 then (fpQnan f, flNV) else (fpInf f (s != t), 0)
  | .fin s m e, .fin t n g =>
    if m * n = 0 then (fpEnc f (s != t) 0 0, 0) else fpRound f rm (s != t) (m * n) (e + g)

/-- c + a × b with one rounding (R226, R230). -/
def fpFma (f rm : Nat) (x y c : Fp) : Word × Flags :=
  let invalid := match x, y with
    | .inf _, .fin _ n _ => n == 0
    | .fin _ m _, .inf _ => m == 0
    | _, _ => false
  if invalid then (fpQnan f, flNV)
  else match x, y with
  | .nan _, _ => fpNan f [x, y, c]
  | _, .nan _ => fpNan f [x, y, c]
  | .fin s m e, .fin t n g =>
    match c with
    | .nan _ => fpNan f [x, y, c]
    | .inf u => (fpInf f u, 0)
    | .fin u k h => fpSum f rm u k h (s != t) (m * n) (e + g)
  | x, y =>
    let sg : Fp → Bool := fun z => match z with | .inf s => s | .fin s _ _ => s | .nan _ => false
    let s := sg x != sg y
    match c with
    | .nan _ => fpNan f [x, y, c]
    | .inf u => if u = s then (fpInf f s, 0) else (fpQnan f, flNV)
    | .fin _ _ _ => (fpInf f s, 0)

/-- Order of two numbers as −1, 0, 1 with signed zeros equal (R229). -/
def fpCmp (x y : Fp) : Int :=
  match x, y with
  | .inf s, .inf t => if s = t then 0 else if s then -1 else 1
  | .inf s, _ => if s then -1 else 1
  | _, .inf t => if t then 1 else -1
  | .fin s m e, .fin t n g =>
    let h := min e g
    let a : Int := (if s then -1 else 1) * ((m * 2 ^ (e - h).toNat : Nat) : Int)
    let b : Int := (if t then -1 else 1) * ((n * 2 ^ (g - h).toNat : Nat) : Int)
    if a < b then -1 else if a = b then 0 else 1
  | _, _ => 0

/-- FMIN and FMAX (R227): −0 lies below +0; a number wins over a NaN. -/
def fpMinMax (f : Nat) (isMax : Bool) (a b : Word) : Word × Flags :=
  let x := fpOf f a
  let y := fpOf f b
  let fl := if x.isSig || y.isSig then flNV else 0
  let msk (w : Word) : Word := BitVec.ofNat 64 (w.toNat % 2 ^ fmtWidth f)
  if x.isNan && y.isNan then (fpQnan f, fl)
  else if x.isNan then (msk b, fl)
  else if y.isNan then (msk a, fl)
  else
    let neg (z : Fp) : Bool := match z with | .fin s _ _ => s | _ => false
    let c := fpCmp x y
    let aLess := c < 0 ∨ (c = 0 ∧ neg x ∧ !neg y)
    (if (if isMax then ¬ aLess else aLess) then msk a else msk b, fl)

/-- FABS (R228). -/
def fpAbs (f : Nat) (a : Word) : Word × Flags :=
  match fpOf f a with
  | .nan s => (fpQnan f, if s then flNV else 0)
  | _ => (BitVec.ofNat 64 (a.toNat % 2 ^ (fmtWidth f - 1)), 0)

/-- The compares (R226, R229): 0 FCMPEQ, 1 FCMPLT, 2 FCMPLE. -/
def fpCompare (f k : Nat) (a b : Word) : Word × Flags :=
  let x := fpOf f a
  let y := fpOf f b
  if x.isNan || y.isNan then
    (0, if k = 0 then (if x.isSig || y.isSig then flNV else 0) else flNV)
  else
    let c := fpCmp x y
    (if (match k with | 0 => decide (c = 0) | 1 => decide (c < 0) | _ => decide (c ≤ 0)) then 1 else 0, 0)

/-! ### Integers (R243, R244) -/

/-- The low w bits of a word read under SGN. -/
def intOf (w : Nat) (sgn : Bool) (a : Word) : Int :=
  let v := a.toNat % 2 ^ w
  if sgn && decide (v ≥ 2 ^ (w - 1)) then (v : Int) - (2 ^ w : Nat) else (v : Int)
/-- The low w bits of an integer. -/
def intEnc (w : Nat) (x : Int) : Word := BitVec.ofNat 64 (x % (2 ^ w : Nat)).toNat

/-- IDIV and IREM with their flags (R244). -/
def intDiv (w : Nat) (sgn rem : Bool) (a b : Word) : Word × Flags :=
  let x := intOf w sgn a
  let y := intOf w sgn b
  if y = 0 then (if rem then intEnc w x else intEnc w (-1), flDZ)
  else if sgn && decide (x = -((2 ^ (w - 1) : Nat) : Int)) && decide (y = -1) then
    (if rem then 0 else intEnc w x, flIO)
  else (if rem then intEnc w (x.tmod y) else intEnc w (x.tdiv y), 0)

/-! ### Packed decimal (R247–R250) -/

/-- The value of the digits of a decimal word, most significant digit first, over k nibbles from bit 4. -/
def decDigits : Nat → Nat → Nat
  | 0, _ => 0
  | k + 1, v => v % 16 + 10 * decDigits k (v / 16)
def decValidDigits : Nat → Nat → Bool
  | 0, _ => true
  | k + 1, v => decide (v % 16 ≤ 9) && decValidDigits k (v / 16)
def decPack : Nat → Nat → Nat
  | 0, _ => 0
  | k + 1, v => v % 10 + 16 * decPack k (v / 10)
/-- The value of a valid decimal word (R247). -/
def decOf (a : Word) : Option Int :=
  let v := a.toNat
  let s := v % 16
  if s ≥ 10 && decValidDigits 15 (v / 16) then
    some (if s = 11 ∨ s = 13 then -((decDigits 15 (v / 16) : Nat) : Int) else (decDigits 15 (v / 16) : Int))
  else none
/-- A decimal result: low 15 digits and the sign of the exact value (R248, R250). -/
def decEnc (x : Int) : Word :=
  BitVec.ofNat 64 (16 * decPack 15 x.natAbs + (if x < 0 then 0xD else 0xC))
def decAdd (sub : Bool) (a b : Word) : Word × Flags :=
  match decOf a, decOf b with
  | some x, some y =>
    let t := if sub then x - y else x + y
    (decEnc t, if t.natAbs ≥ 10 ^ 15 then flDO else 0)
  | _, _ => (0, flDI)

/-! ### Conversions (R237–R241) -/

def isFp (f : Nat) : Bool := decide (f ≤ 3)
def isInt (f : Nat) : Bool := decide (4 ≤ f ∧ f ≤ 7)

/-- Floating point to integer (R240). -/
def fpToInt (w rm : Nat) (sgn : Bool) (x : Fp) : Word × Flags :=
  let hi : Int := if sgn then (2 ^ (w - 1) : Nat) - 1 else (2 ^ w : Nat) - 1
  let lo : Int := if sgn then -((2 ^ (w - 1) : Nat) : Int) else 0
  match x with
  | .nan _ => (0, flNV)
  | .inf s => (intEnc w (if s then lo else hi), flNV)
  | .fin s m e =>
    let (n, inexact) := roundAt rm s m e 0
    let v : Int := if s then -(n : Int) else (n : Int)
    if v > hi then (intEnc w hi, flNV) else if v < lo then (intEnc w lo, flNV)
    else (intEnc w v, if inexact then flNX else 0)

/-- CVT from format sf to format f (R237). -/
def cvt (f sf rm : Nat) (sgn : Bool) (a : Word) : Word × Flags :=
  if sf = 8 then
    match decOf a with | some v => (intEnc 64 v, 0) | none => (0, flDI)
  else if f = 8 then
    let v := intOf 64 true a
    if v.natAbs < 10 ^ 15 then (decEnc v, 0) else (0, flDI)
  else if isFp sf then
    let x := fpOf sf a
    if isFp f then
      match x with
      | .nan s => (fpQnan f, if s then flNV else 0)
      | .inf s => (fpInf f s, 0)
      | .fin s m e => if m = 0 then (fpEnc f s 0 0, 0) else fpRound f rm s m e
    else fpToInt (fmtWidth f) rm sgn x
  else
    let v := intOf (fmtWidth sf) sgn a
    if v = 0 then (0, 0) else fpRound f rm (decide (v < 0)) v.natAbs 0

/-- Every operation that delivers a value in one pass (R187), with a, b and the accumulator operand c; `none` for NOP. -/
def sutorOp (op f sf : Nat) (sgn : Bool) (rm : Nat) (a b c : Word) : Option Word × Flags :=
  let w := fmtWidth f
  let x := fpOf f a
  let y := fpOf f b
  let i := intOf w sgn a
  let j := intOf w sgn b
  let r (p : Word × Flags) : Option Word × Flags := (some p.1, p.2)
  match op with
  | 0x01 => r (fpAdd f rm x y)
  | 0x02 => r (fpAdd f rm x y.neg)
  | 0x03 => r (fpMul f rm x y)
  | 0x04 => r (fpFma f rm x y (fpOf f c))
  | 0x05 => r (fpMinMax f false a b)
  | 0x06 => r (fpMinMax f true a b)
  | 0x07 => r (fpAbs f a)
  | 0x08 => r (fpCompare f 0 a b)
  | 0x09 => r (fpCompare f 1 a b)
  | 0x0A => r (fpCompare f 2 a b)
  | 0x0B => r (cvt f sf rm sgn a)
  | 0x10 => r (intEnc w (i * j), 0)
  | 0x11 => r (intEnc w (i * j / (2 ^ w : Nat)), 0)
  | 0x12 => r (intDiv w sgn false a b)
  | 0x13 => r (intDiv w sgn true a b)
  | 0x14 => r (intEnc w (min i j), 0)
  | 0x15 => r (intEnc w (max i j), 0)
  | 0x16 => r (intEnc w (if sgn then (i.natAbs : Int) else i), 0)
  | 0x17 => r (if i = j then 1 else 0, 0)
  | 0x18 => r (if i < j then 1 else 0, 0)
  | 0x20 => r (decAdd false a b)
  | 0x21 => r (decAdd true a b)
  | 0x30 => r (c, 0)
  | 0x31 => r (a, 0)
  | 0x32 => r (0, 0)
  | _ => (none, 0)

/-- The pack factor k of a command (R186). -/
def packOf (op f sf : Nat) : Nat :=
  min 4 (64 / (if op = 0x0B then max (fmtWidth f) (fmtWidth sf) else fmtWidth f))

end Sys2Proof.Machine
end

