-- ==== Sys2Proof/Machine/Memory.lean ====
section
/-! DEFINITION. The bytes and words of the addressed memories, and the reads and writes of the SECDED memories: the
staging SRAM and the scratchpads (R361, R363, R366, R546). -/
namespace Sys2Proof.Machine
open Sys2Proof

/-! ### Bytes and words of the memories -/

def memByte (s : State) (a : Nat) : Byte := tget 0 s.mem a
def setByte (a : Nat) (v : Byte) (s : State) : State := { s with mem := tset 0 s.mem a v }
def memBytes (s : State) (a n : Nat) : List Byte := (List.range n).map fun i => memByte s (a + i)
def setBytes (a : Nat) (l : List Byte) (s : State) : State :=
  (List.range l.length).foldl (fun s i => setByte (a + i) (l.getD i 0) s) s
/-- The stored 8-byte word w. -/
def memWord (s : State) (w : Nat) : Word := BitVec.ofNat 64 (leNum (memBytes s (8 * w) 8))
def setWord (w : Nat) (v : Word) (s : State) : State := setBytes (8 * w) (leBytes 8 v.toNat) s
/-- Byte i of a word. -/
def wordByte (v : Word) (i : Nat) : Byte := (v >>> (8 * i)).setWidth 8
def setErr (w : Nat) (m : BitVec 72) (s : State) : State := { s with memErr := tset 0 s.memErr w m }

/-- A read of one SECDED word: what it delivers and what it finds (0 nothing, 1 corrected, 2 uncorrectable). -/
def secWord (s : State) (w : Nat) : Word × Nat × State :=
  let m := tget 0 s.memErr w
  if m = 0 then (memWord s w, 0, s)
  else
    let (d, s) := draw s
    let (fix, r) := decodeRow m d
    (memWord s w ^^^ fix, (match r with | none => 0 | some (ue, _) => if ue then 2 else 1), s)

/-- The 8-byte words an access touches. -/
def wordsOf (a : Nat) (en : List Bool) : List Nat :=
  ((List.range ((a + en.length + 7) / 8 - a / 8)).map (· + a / 8)).filter fun w =>
    (List.range 8).any fun i => decide (a ≤ 8 * w + i) && en.getD (8 * w + i - a) false
/-- The byte enables of an access within word w. -/
def wordEn (a : Nat) (en : List Bool) (w i : Nat) : Bool := decide (a ≤ 8 * w + i) && en.getD (8 * w + i - a) false

/-- A read of a SECDED memory (R366, R546): status, data and the uncorrectable words; `note` counts and logs. -/
def secRead (note : Bool → Nat → State → State) (a : Nat) (en : List Bool) (s : State) :
    Nat × List Byte × Nat × State :=
  let (ws, st, po, s) := (wordsOf a en).foldl (fun (ws, st, po, s) w =>
    let (v, r, s) := secWord s w
    let s := if r = 0 then s else note (r == 2) w s
    (ws ++ [(w, v)], (if r = 2 then 4 else st), (if r = 2 then po ||| 2 ^ (w % 8) else po), s))
    (([] : List (Nat × Word)), 0, 0, s)
  (st, (List.range en.length).map (fun k =>
    if en.getD k false then wordByte (tget 0 ws ((a + k) / 8)) ((a + k) % 8) else 0), po, s)

/-- A write of a SECDED memory (R366): whole words are stored afresh, others merged into the corrected word; a merge
into an uncorrectable word is stored poisoned and answered ECC_UNCORRECTABLE. -/
def secWrite (note : Bool → Nat → State → State) (a : Nat) (en : List Bool) (data : List Byte) (s : State) :
    Nat × State :=
  (wordsOf a en).foldl (fun (st, s) w =>
    let full := (List.range 8).all (wordEn a en w)
    let merge (v : Word) : Word := BitVec.ofNat 64 (leNum ((List.range 8).map fun i =>
      if wordEn a en w i then data.getD (8 * w + i - a) 0 else wordByte v i))
    if full then (st, setErr w 0 (setWord w (merge 0) s))
    else
      let (v, r, s) := secWord s w
      let s := if r = 0 then s else note (r == 2) w s
      if r = 2 then (4, setErr w poisonMask (setWord w (merge v) s))
      else (st, setErr w 0 (setWord w (merge v) s))) (0, s)

/-! ### Staging SRAM and scratchpads (R363, R366, R546) -/

def stgCapValue (s : State) : Nat :=
  getF s fSTG_ERR_CAP_VALID + getF s fSTG_ERR_CAP_OVF * 2 + getF s fSTG_ERR_CAP_UE * 4 + getF s fSTG_ERR_CAP_BANK * 2 ^ 8 +
  getF s fSTG_ERR_CAP_MASTER * 2 ^ 16 + getF s fSTG_ERR_CAP_OFFSET * 2 ^ 32
/-- An error of a staging word is counted and captured under R87 (R366). -/
def stgCount (m : Nat) (ue : Bool) (w : Nat) (s : State) : State :=
  let s := if ue then satF fSTG_ECC_UE_CNT 1 s else satF fSTG_ECC_CE_CNT 1 s
  let held := bitF s fSTG_ERR_CAP_VALID
  let s := if held then setF fSTG_ERR_CAP_OVF 1 s else s
  if ¬ held ∨ (ue ∧ ¬ bitF s fSTG_ERR_CAP_UE) then
    setFs [(fSTG_ERR_CAP_VALID, 1), (fSTG_ERR_CAP_UE, b2n ue), (fSTG_ERR_CAP_BANK, 8 * bits (8 * w) 24 2 + bits (8 * w) 6 3),
      (fSTG_ERR_CAP_MASTER, m), (fSTG_ERR_CAP_OFFSET, 8 * w)] s else s
/-- An error of a staging word met by a request of master m: counted, captured and, when uncorrectable, logged. -/
def stgNote (m : Nat) (ue : Bool) (w : Nat) (s : State) : State :=
  let s := stgCount m ue w s
  if ue then devLogM 7 2 4 m (0x60 + 8 * bits (8 * w) 24 2 + bits (8 * w) 6 3) (8 * w) (stgCapValue s) s else s

def seqEccValue (s : State) (n : Nat) : Nat :=
  getF s (fSEQ_ECC_ISR_CE n) + getF s (fSEQ_ECC_ISR_UE n) * 2 ^ 16 + getF s (fSEQ_ECC_SPAD_CE n) * 2 ^ 32 +
  getF s (fSEQ_ECC_SPAD_UE n) * 2 ^ 48
/-- An error of a word of scratchpad n read for master m (R546); `st` is the status that the read fails with. -/
def spadNote (n m st : Nat) (ue : Bool) (w : Nat) (s : State) : State :=
  if ue then
    let s := satF (fSEQ_ECC_SPAD_UE n) 1 s
    devLogM 6 2 st m n ((8 * w) % 0x20000 + 2 ^ 63) (seqEccValue s n) s
  else satF (fSEQ_ECC_SPAD_CE n) 1 s

end Sys2Proof.Machine
end

