-- ==== Sys2Proof/Machine/Survey.lean ====
section
/-! DEFINITION. Survey: borrowing a region, the march test, restoring it, and the yields (R77–R80, R123, R552–R554). -/
namespace Sys2Proof.Machine
open Sys2Proof

/-- The kind of a region, the engine that tests it, and its power domain. -/
def regionKind : SurveyRegion → Nat
  | .peRow _ _ => 0
  | .almLine _ _ => 1
  | .stagingLine _ => 2
def regionTile : SurveyRegion → Nat
  | .peRow f _ => tileOf f
  | .almLine n _ => tileOf n
  | .stagingLine l => l.val / 2 ^ 18
def regionDom : SurveyRegion → Nat
  | .peRow f _ => quadDom f
  | .almLine n _ => quadDom n
  | .stagingLine l => 37 + l.val / 2 ^ 18
/-- The enable bit of a kind in SURVEY_CTL (R563). -/
def surveyOn (s : State) (t k : Nat) : Bool :=
  match k with
  | 0 => bitF s (fSURVEY_CTL_PE_EN t)
  | 1 => bitF s (fSURVEY_CTL_ALM_EN t)
  | _ => bitF s (fSURVEY_CTL_STG_EN t)
def borrowed (s : State) (t k : Nat) : Option Borrow := tlook s.borrow (4 * t + k)

/-- A READBACK of the field's partition, or a SPARE of the field, has reached its quiesce (R77, R554). -/
def surveyBarred (s : State) (f : Nat) : Bool :=
  bitF s (fSPARE_MAP_COPY_BUSY f) || s.jobs.any fun j =>
    j.phase == .running && decide (2 ≤ j.stage) &&
      ((j.op == 0xC && bits (j.d.getD 0 0) 16 6 == f) ||
       (j.op == 0xD && (fieldsOf s (bits (j.d.getD 0 0) 16 6)).contains f))
/-- A microword between issue and the PEs touches row `row` of field f (R79): the master's check before issue saw no
borrowed row, so Survey waits for the word. -/
def rowInPipe (s : State) (f row : Nat) : Bool :=
  match partOf s f with
  | some (n, _) => (getSeq s n).pipe.any fun w => w.eaA.toNat == row || w.eaB.toNat == row ||
      (bits w.word.toNat 37 2 != 0 && w.eaC.toNat == row)
  | none => false
/-- Survey may borrow a region (R77–R79, R123, R552). -/
def mayBorrow (s : State) (r : SurveyRegion) : Bool :=
  surveyOn s (regionTile r) (regionKind r) && domRun s (regionDom r) &&
    match r with
    | .peRow f row => (getF s (fLEASE_MAP_FREE f)).testBit (row.val / 64) && !bitF s (fSURVEY_YIELD_BORROWED f) &&
        !surveyBarred s f && !rowInPipe s f row
    | .almLine n _ => (getCore s n).state == .halted
    | .stagingLine _ => true

/-- The save of a region (R79): corrected data, the errors counted, and the words that cannot be corrected. -/
def surveySave (r : SurveyRegion) (s : State) : Borrow × State :=
  match r with
  | .peRow f row =>
    let (p, evs, s) := readRowAs false s f row
    let s := peErrors f 4 row 0 evs s
    let bad := (evs.filter (·.ue)).map fun e => rowKey e.srow e.pcol row
    (⟨r, p, [], bad⟩, setFs [(fSURVEY_YIELD_BORROWED f, 1), (fSURVEY_YIELD_BROW f, row)] s)
  | .almLine _ _ => (⟨r, 0, [], []⟩, s)
  | .stagingLine l =>
    let (ws, bad, s) := (List.range 8).foldl (fun (ws, bad, s) i =>
      let (v, e, s) := secWord s (8 * l.val + i)
      let s := if e = 0 then s else stgCount (0x62 + l.val / 2 ^ 18) (e == 2) (8 * l.val + i) s
      (ws ++ [v], (if e = 2 then bad ++ [8 * l.val + i] else bad), s)) (([] : List Word), ([] : List Nat), s)
    (⟨r, 0, ws, bad⟩, s)

/-- A class 14 entry (R551): a march failure, or a poisoned restore. -/
def surveyLog (r : SurveyRegion) (sev cap : Nat) (s : State) : State :=
  match r with
  | .peRow f _ => devLogFor (ownerOf s f).toList 14 sev 0 (0x62 + tileOf f) (0xA1 + tileOf f) f f cap s
  | .almLine n _ => devLogFor (ownerOf s n).toList 14 sev 0 (0x62 + tileOf n) (0xA1 + tileOf n) 0 n cap s
  | .stagingLine l =>
    let t := l.val / 2 ^ 18
    devLogFor [] 14 sev 0 (0x62 + t) (0xA1 + t) 0 (64 * l.val) cap s

/-- The restore (R71, R79, R552): whole words with fresh check bits, poisoned where the save was uncorrectable, and an
armed injection into a PE row acts on the write (R90). -/
def surveyRestore (b : Borrow) (s : State) : State :=
  let s := match b.region with
    | .peRow f row =>
      let s := (badRows s f row).foldl (fun s (k, _, _) =>
        setRowErr f k (if b.bad.contains k then ⟨poisonMask, true⟩ else ⟨0, false⟩) s) s
      let s := dropFwd f row (updField f (fun x => { x with rows := tset 0 x.rows row b.plane }) s)
      inject f row (setF (fSURVEY_YIELD_BORROWED f) 0 s)
    | .almLine n l =>
      (List.range 16).foldl (fun s i =>
        let k := 8192 * n.val + 16 * l.val + i
        if popc 8 (tget 0 s.almErr k).toNat = 1 then { s with almErr := tset 0 s.almErr k 0 } else s) s
    | .stagingLine l =>
      (List.range 8).foldl (fun s i =>
        let w := 8 * l.val + i
        setErr w (if b.bad.contains w then poisonMask else 0) (setWord w (b.words.getD i 0) s)) s
  let uncorrectable : Bool := match b.region with
    | .almLine n l => (List.range 16).any fun i => decide (1 < popc 8 (tget 0 s.almErr (8192 * n.val + 16 * l.val + i)).toNat)
    | _ => !b.bad.isEmpty
  let s := if uncorrectable then surveyLog b.region 2 0 s else s
  { s with borrow := terase s.borrow (4 * regionTile b.region + regionKind b.region) }

/-- A march failure (R80): a Logbook entry, the count of its column and of SURVEY_STAT. -/
def marchFailed (r : SurveyRegion) (m : MarchFail) (s : State) : State :=
  let s := satF (fSURVEY_STAT_FAILS (regionTile r)) 1 (surveyLog r 1 m.cap.toNat s)
  match r with
  | .peRow f _ => satF (fPEMEM_CE_COL f m.pcol) 1 s
  | _ => s

/-- SURVEY_BORROW (R552): engine t borrows and saves region r; given again for the region it holds, the march test ends
and the region is restored. `sweep` says that this completes a sweep of the enabled kinds, whose order is Survey's. -/
def execSurveyBorrow (t : Fin 4) (r : SurveyRegion) (fail : List MarchFail) (sweep : Bool) (s : State) : Out :=
  if regionTile r ≠ t then ok s
  else match borrowed s t (regionKind r) with
  | none =>
    if mayBorrow s r then
      let (b, s) := surveySave r s
      ok { s with borrow := tput s.borrow (4 * t.val + regionKind r) b }
    else ok s
  | some b =>
    if b.region = r then
      let s := if bitF s (fSURVEY_CTL_MARCH t) then fail.foldl (fun s m => marchFailed r m s) s else s
      let s := surveyRestore b s
      ok (if sweep then incF (fSURVEY_STAT_SWEEPS t) 1 s else s)
    else ok s

/-! ### Yields (R79, R123, R553, R554) -/

/-- Survey abandons its test of the borrowed row of a field and restores it (R79). -/
def rowYield (f stall : Nat) (s : State) : State :=
  match borrowed s (tileOf f) 0 with
  | some b =>
    match b.region with
    | .peRow g _ =>
      if g = f then maxF (fSURVEY_YIELD_MAX_STALL f) stall (satF (fSURVEY_YIELD_YIELDS f) 1 (surveyRestore b s)) else s
    | _ => s
  | none => s
/-- Survey gives back a borrowed Almanac line of a sequencer (R123). -/
def almYield (n : Nat) (s : State) : State :=
  match borrowed s (tileOf n) 1 with
  | some b => match b.region with
    | .almLine k _ => if k = n then surveyRestore b s else s
    | _ => s
  | none => s
/-- The line of a staging address is borrowed: requests for it are held (R553). -/
def lineBorrowed (s : State) (a : Nat) : Bool :=
  match borrowed s (bits a 24 2) 2 with
  | some b => match b.region with | .stagingLine l => l.val == a / 64 | _ => false
  | none => false
/-- STAGING_YIELD (R553): a borrowed line of quarter q is restored for a held request. -/
def execStagingYield (q : Fin 4) (stall : Fin 65) (s : State) : Out :=
  match borrowed s q 2 with
  | some b => ok (maxF (fSURVEY_STAT_STG_MAX_STALL q) stall (satF (fSURVEY_STAT_STG_YIELDS q) 1 (surveyRestore b s)))
  | none => ok s
/-- Before a domain is sealed Survey releases what it holds in it (R519, R554). -/
def surveySeal (d : Nat) (s : State) : State :=
  (List.range 12).foldl (fun s i =>
    match borrowed s (i / 3) (i % 3) with
    | some b => if regionDom b.region = d then surveyRestore b s else s
    | none => s) s
/-- A write of SURVEY_CTL has cleared enable bits: the regions of those kinds are released (R554). -/
def surveyDisable (t : Nat) (s : State) : State :=
  (List.range 3).foldl (fun s k =>
    if surveyOn s t k then s else match borrowed s t k with
      | some b => surveyRestore b s
      | none => s) s

end Sys2Proof.Machine
end

