-- ==== Sys2Proof/Machine/Operands.lean ====
section
/-! DEFINITION. Operand forms of the array: the fields of the microword (R94), effective addresses (R52), and the
loader's checks of a microword (R125). -/
namespace Sys2Proof.Machine
open Sys2Proof

/-- Field [lo + w − 1 : lo] of a microword. -/
def mwf (m : MicroWord) (lo w : Nat) : Nat := bits m.toNat lo w
def mwSeq (m : MicroWord) : Nat := mwf m 124 4
def mwTarget (m : MicroWord) : BitVec 13 := m.extractLsb' 111 13
def mwSafe (m : MicroWord) : Bool := m.getLsbD 110
def mwCtr (m : MicroWord) : Nat := mwf m 108 2
def mwTtS (m : MicroWord) : BitVec 8 := m.extractLsb' 55 8
def mwTtK (m : MicroWord) : BitVec 8 := m.extractLsb' 47 8
def mwFin (m : MicroWord) : Nat := mwf m 44 3
def mwFout (m : MicroWord) : Nat := mwf m 41 3
def mwWsrc (m : MicroWord) : Nat := mwf m 39 2
def mwWen (m : MicroWord) : Nat := mwf m 37 2
def mwNews (m : MicroWord) : Nat := mwf m 34 3
def mwHop (m : MicroWord) : Nat := mwf m 32 2
def mwSnd (m : MicroWord) : Nat := mwf m 30 2
def mwXp (m : MicroWord) : BitVec 4 := m.extractLsb' 26 4
def mwPtr (m : MicroWord) : Nat := mwf m 22 4
def mwImm (m : MicroWord) : BitVec 9 := m.extractLsb' 13 9
/-- A word with SND ≠ 00 starts a Census when IMM[8] is 1 and a Sounding when it is 0 (R96). -/
def mwCensus (m : MicroWord) : Bool := mwSnd m ≠ 0 && (mwImm m).getLsbD 8
def mwSounding (m : MicroWord) : Bool := mwSnd m ≠ 0 && !(mwImm m).getLsbD 8
/-- The hop distance in PEs (R94). -/
def mwHopDist (m : MicroWord) : Nat := match mwHop m with | 0 => 1 | 1 => 8 | _ => 64

/-- EA = (ADDR + p) mod 8,192 (R52), for the address field at `lo` and its IDX field two bits below. -/
def effAddr (m : MicroWord) (lo : Nat) (p : Ptrs) : BitVec 13 :=
  m.extractLsb' lo 13 + (match mwf m (lo - 2) 2 with | 0 => 0 | 1 => p.p1 | 2 => p.p2 | _ => p.p3)
def eaA (m : MicroWord) (p : Ptrs) : BitVec 13 := effAddr m 95 p
def eaB (m : MicroWord) (p : Ptrs) : BitVec 13 := effAddr m 80 p
def eaC (m : MicroWord) (p : Ptrs) : BitVec 13 := effAddr m 65 p

/-- A word that must not be executed: the encodings the loader rejects by field values (R125). -/
def mwReserved (m : MicroWord) : Bool :=
  decide (12 ≤ mwSeq m) || decide (5 ≤ mwNews m) || decide (mwHop m = 3) || decide (mwf m 0 13 ≠ 0) ||
  (mwSeq m == 8 && decide (13 < (mwImm m).toNat)) || (mwSeq m == 11 && decide (2 < (mwImm m).toNat)) ||
  (mwCensus m && (mwSeq m == 8 || mwSeq m == 10 || mwSeq m == 11 || mwCtr m == 3 ||
    (decide (10 ≤ mwPtr m) && decide (mwPtr m ≤ 12)))) ||
  decide (13 ≤ (mwXp m).toNat)

/-- XP codes that contain STEP (R179). -/
def xpStep (x : BitVec 4) : Bool := decide (4 ≤ x.toNat ∧ x.toNat ≤ 7)
def xpLoadsA (x : BitVec 4) : Bool := x = 1 || x = 3 || x = 5 || x = 7
def xpLoadsB (x : BitVec 4) : Bool := x = 2 || x = 3 || x = 6 || x = 7
/-- Words held while a word-port transfer runs (R200): DIR and SRC of the running transfer decide STEP alone. -/
def heldByTransfer (m : MicroWord) (dirIn srcTo : Bool) : Bool :=
  let x := (mwXp m).toNat
  (decide (1 ≤ x ∧ x ≤ 3) || decide (5 ≤ x ∧ x ≤ 11) || mwWsrc m == 3) || (x == 4 && !dirIn && !srcTo)

/-- Pointer updates of PTR (R101). -/
def ptrUpdate (code : Nat) (imm : BitVec 9) (p : Ptrs) : Ptrs :=
  let si : BitVec 13 := imm.signExtend 13
  match code with
  | 1 => { p with p1 := p.p1 + 1 }
  | 2 => { p with p1 := p.p1 - 1 }
  | 3 => { p with p2 := p.p2 + 1 }
  | 4 => { p with p2 := p.p2 - 1 }
  | 5 => { p with p3 := p.p3 + 1 }
  | 6 => { p with p3 := p.p3 - 1 }
  | 7 => { p with p1 := p.p1 + 1, p2 := p.p2 + 1 }
  | 8 => { p with p1 := p.p1 + 1, p2 := p.p2 + 1, p3 := p.p3 + 1 }
  | 9 => { p with p1 := p.p1 - 1, p2 := p.p2 - 1, p3 := p.p3 - 1 }
  | 10 => { p with p1 := p.p1 + si }
  | 11 => { p with p2 := p.p2 + si }
  | 12 => { p with p3 := p.p3 + si }
  | 13 => { p with p1 := p.p1Init, p2 := p.p2Init, p3 := p.p3Init }
  | 14 => { p with p1 := p.p1Init }
  | 15 => { p with p2 := p.p2Init }
  | _ => p

/-- Counter updates of SEQ and CTR (R101, R102): CTR's value stands where both write one counter. -/
def ctrUpdate (m : MicroWord) (p : Ptrs) : Ptrs :=
  let p := if mwSeq m = 6 then { p with c0 := p.c0 - 1 } else if mwSeq m = 7 then { p with c1 := p.c1 - 1 } else p
  match mwCtr m with
  | 1 => { p with c0 := p.c0Init }
  | 2 => { p with c1 := p.c1Init }
  | 3 => { p with c0 := (mwImm m).setWidth 16 }
  | _ => p

end Sys2Proof.Machine
end

