-- ==== Sys2Proof/Machine/Pe.lean ====
section
/-! DEFINITION. The array's side of a microword: PE_EXECUTE and NLATCH_DELIVERY (R37–R61, R105, R148–R160). -/
namespace Sys2Proof.Machine
open Sys2Proof

/-- Flag fk of a field as a plane (R41). -/
def flagReset (k : Nat) : Plane := if k = 1 then ones else 0
def getFlag (x : Field) (k : Nat) : Plane := tget (flagReset k) x.flags k
def setFlag (k : Nat) (p : Plane) (x : Field) : Field := { x with flags := tset (flagReset k) x.flags k p }

/-- The mode of side d in an edge configuration (R172). -/
def edgeMode (e : BitVec 12) (d : Nat) : Nat := bits e.toNat (2 * d) 2
def edgeHalo (e : BitVec 12) (d : Nat) : Bool := e.getLsbD (8 + d)

/-- A segment's strip region is only partly loaded while one of its four reaches is in the loading state (R504). -/
def segLoading (s : State) (seg : Nat) : Bool := bits (getF s (fFAB_STAT_LOADING (seg / 4))) (4 * (seg % 4)) 4 ≠ 0
def stripRun (s : State) (seg : Nat) : Bool := domRun s (20 + seg / 4)
/-- The edge port of a segment can be used (R159). -/
def segUsable (s : State) (seg : Nat) : Bool := stripRun s seg && !segLoading s seg

/-- One read port of a field: a user row with its errors, or a constant row (R53). -/
def readPort (s : State) (f ea : Nat) : Plane × List EccEv × State :=
  if ea < 4096 then readRow s f ea else (constRow f ea, [], s)

/-- What the PEs of field f at side d receive from outside the partition (R153, R158, R159). -/
def edgeSupply (s : State) (m : Nat) (p : Part) (e : BitVec 12) (sent : Nat → Plane) (f d h : Nat) : Plane :=
  match edgeMode e d with
  | 0 => 0
  | 1 => outerMask ((d + 2) % 4) h
  | 2 => shiftOver ((d + 2) % 4) h (sent (wrapField m p f d))
  | _ => if h = 1 then
      match segOf f d with
      | some g => if segUsable s g then edgePlane d (tget 0 s.edgeIn g) else 0
      | none => 0
    else 0

/-- The plane field f receives for a send with bearing b and hop h, where `sent` gives each field's A bits (R148). -/
def received (s : State) (m : Nat) (p : Part) (e : BitVec 12) (sent : Nat → Plane) (f b h : Nat) : Plane :=
  let d := (b + 2) % 4
  shiftIn b h (sent f) |||
    (match nbField m p f d with
     | some g => shiftOver b h (sent g)
     | none => edgeSupply s m p e sent f d h)

/-- The fields of a partition that lie on its side d. -/
def sideFields (m : Nat) (p : Part) (d : Nat) : List Nat :=
  (partFields (m, p)).filter fun f => (nbField m p f d).isNone
/-- The edge segments side d of a partition faces, where it lies on the package edge. -/
def sideSegs (m : Nat) (p : Part) (d : Nat) : List Nat := (sideFields m p d).filterMap fun f => segOf f d

/-- The edge ports of a hop-1 send, and the flags of R158 and R159. The segments of fields outside `live`, whose PEs
executed a null word, see no send (R105). -/
def edgePorts (m : Nat) (p : Part) (w : PipeWord) (live : List Nat) (sent : Nat → Plane) (s : State) : State :=
  let news := mwNews w.word
  let segs := (List.range 4).flatMap fun d => sideSegs m p d
  let side (d : Nat) : List Nat := (sideFields m p d).filter live.contains
  let liveSegs (d : Nat) : List Nat := (side d).filterMap fun f => segOf f d
  let s := { s with edgeOut := segs.foldl terase s.edgeOut, inTake := segs.foldl terase s.inTake }
  if news = 0 then s else
    let b := news - 1
    let d := (b + 2) % 4
    let toFab := edgeMode w.edge b = 3
    let fromFab := edgeMode w.edge d = 3
    if mwHop w.word ≠ 0 then
      if toFab ∨ fromFab then setF (fEDGE_STATUS_FAB_HOP m) 1 s else s
    else
      let s := if toFab then (side b).foldl (fun s f =>
          match segOf f b with
          | some g => if segUsable s g then { s with edgeOut := tput s.edgeOut g (edgeBits b (sent f)) } else s
          | none => s) s else s
      let s := if fromFab then (liveSegs d).foldl (fun s g =>
          if segUsable s g then { s with inTake := tput s.inTake g true } else s) s else s
      let used := (if toFab then liveSegs b else []) ++ (if fromFab then liveSegs d else [])
      if used.any (fun g => !stripRun s g) then setF (fEDGE_STATUS_EDGE_DARK m) 1 s else s

/-- What one field does with a microword (R37 steps 2, 3, 5, 6 and 7), answering its A plane, its B plane, its
contribution, the errors found, and the state. `lat` is the n-latch as the word reads it. -/
def peField (w : PipeWord) (opt : Nat) (f : Nat) (s : State) :
    (Plane × Plane) × Plane × List EccEv × State :=
  let m := w.word
  let (a, ea, s) := readPort s f w.eaA.toNat
  let (b, eb, s) := if w.eaB = w.eaA then (a, [], s) else readPort s f w.eaB.toNat
  let s := peErrors f 1 w.eaB.toNat w.upc.toNat eb (peErrors f 0 w.eaA.toNat w.upc.toNat ea s)
  let x := getField s f
  let fin := getFlag x (mwFin m)
  let sPl := ttPlane (mwTtS m) a b fin
  let kPl := ttPlane (mwTtK m) a b fin
  let src := match mwWsrc m with
    | 0 => sPl | 1 => kPl | 2 => x.nlatch
    | _ => x.slices.foldl (fun acc e => acc ||| slicePlane e.1
        (e.2.tob.foldl (fun r l => if l.2.getLsbD opt then r ||| (1#64 <<< l.1) else r) 0)) 0
  let en := wenPlane (mwWen m) (getFlag x 1)
  let snd := match mwSnd m with | 0 => 0 | 1 => sPl | 2 => kPl | _ => fin
  let s := updField f (setFlag (mwFout m) kPl) s
  if mwWen m ≠ 0 ∧ w.eaC.toNat < 4096 then
    let (ec, s) := writeRow s f w.eaC.toNat en src
    let ec := if w.eaC = w.eaA ∨ w.eaC = w.eaB then [] else ec
    let s := peErrors f 2 w.eaC.toNat w.upc.toNat ec s
    ((a, b), snd, ea ++ eb ++ ec, updField f (fun x => { x with fwd := some w.eaC.toNat }) s)
  else ((a, b), snd, ea ++ eb, updField f (fun x => { x with fwd := none }) s)

/-- An uncorrectable error found by a field's reads is on its way to the master (R70). -/
def reportUe (n : Nat) (p : Part) (w : PipeWord) (f : Nat) (evs : List EccEv) (s : State) : State :=
  if evs.any (·.ue) then
    updSeq n (fun q => { q with reports := q.reports ++ [⟨w.slot + lSnd p, 1, w.apc, f⟩] }) s
  else s

/-- ALM_ERR_CAP under R131. -/
def almCapture (n : Nat) (ue bcast : Bool) (pos upc field stage : Nat) (s : State) : State :=
  let held := bitF s (fALM_ERR_CAP_VALID n)
  let s := if held then setF (fALM_ERR_CAP_OVF n) 1 s else s
  if held = false ∨ (ue ∧ bitF s (fALM_ERR_CAP_UE n) = false) then
    setFs [(fALM_ERR_CAP_VALID n, 1), (fALM_ERR_CAP_UE n, b2n ue), (fALM_ERR_CAP_BCAST n, b2n bcast),
      (fALM_ERR_CAP_POS n, if ue then 0 else pos), (fALM_ERR_CAP_UPC n, upc),
      (fALM_ERR_CAP_FIELD n, if bcast then field else 0), (fALM_ERR_CAP_STAGE n, if bcast then stage else 0)] s
  else s

/-- The repeater errors of R105: counts, the capture, and the report of an uncorrectable one. -/
def bcastErrors (n : Nat) (p : Part) (w : PipeWord) (bc : List BcErr) (s : State) : State :=
  bc.foldl (fun s e =>
    match e.pos with
    | some _ => satF (fALM_ECC_BC_CE n) 1 s
    | none =>
      let s := almCapture n true true 0 w.upc.toNat e.field e.stage (satF (fALM_ECC_BC_UE n) 1 s)
      updSeq n (fun q => { q with reports := q.reports ++ [⟨w.slot + lSnd p, 2, w.apc, e.field⟩] }) s) s

/-- Drains count towards the 64 words that drain TO, and OPT steps (R182, R194). -/
def stepOpt (w : PipeWord) (q : MSeq) : MSeq :=
  if mwWsrc w.word = 3 then
    { q with opt := (q.opt + 1) % 64,
             undrained := match q.undrained with | some k => if k + 1 < 64 then some (k + 1) else none | none => none }
  else q

/-- A microword acts in every PE of the partition (R37, R38). -/
def peWord (n : Nat) (p : Part) (w : PipeWord) (bc : List BcErr) (s : State) : State :=
  let fs := partFields (n, p)
  let nulls := bc.flatMap fun e => if e.pos.isNone then e.down.map (·.val) else []
  let live := fs.filter fun f => !nulls.contains f
  let idle := fs.filter nulls.contains
  let opt := (getSeq s n).opt
  let s := bcastErrors n p w bc s
  let s := idle.foldl (fun s f => updField f (fun x => { x with fwd := none }) s) s
  let (rows, vals, s) := live.foldl (fun (rows, vals, s) f =>
    let ((a, b), c, evs, s) := peField w opt f s
    (rows ++ [(f, a, b)], vals ++ [c], reportUe n p w f evs s)) (([] : List (Nat × Plane × Plane)), ([] : List Plane), s)
  let (dr, s) := draw s
  let sent (f : Nat) : Plane := match tlook rows f with | some (a, _) => a | none => Config.nullBits (64 * dr + f)
  let s := edgePorts n p w live sent s
  let news := mwNews w.word
  let s := if news = 0 then s else
    let h := mwHopDist w.word
    let planes := live.map fun f => (f, received s n p w.edge sent f (news - 1) h)
    let due := w.slot + (if h = 64 then lnH64 p else lnH1 p)
    updSeq n (fun q => { q with flight := q.flight ++ [⟨w.slot, due, planes⟩] }) s
  let put (v : Nat) (l : List TreeRec) : List TreeRec :=
    l.map fun r => if r.slot = w.slot then { r with value := some v } else r
  let s := if mwSounding w.word then
      updSeq n (fun q => { q with snds := put (b2n (vals.any (· ≠ 0))) q.snds }) s
    else if mwCensus w.word then
      updSeq n (fun q => { q with cens := put ((vals.map fun v => popc 14 v.toNat).sum) q.cens }) s
    else s
  updSeq n (fun q => stepOpt w { q with
    pipe := q.pipe.tail, done := w.slot + 1,
    xp := some { xp := if w.xpIdle then 0 else mwXp w.word,
                 rowA := rows.map (fun r => (r.1, r.2.1)), rowB := rows.map (fun r => (r.1, r.2.2)),
                 drains := mwWsrc w.word = 3, idle := idle } }) s

/-- The slices have done the XP part of the last executed word, or it had none. -/
def xpFree (q : MSeq) : Bool := match q.xp with | none => true | some x => x.xp == 0

/-- The word the PEs of sequencer n's partition execute next: the oldest broadcast word, once the slices have done the
XP part of the word before it, every n-latch delivery due by its slot has landed, and every quad is in Run. -/
def peReady (s : State) (n : Nat) : Option (Part × PipeWord) :=
  let q := getSeq s n
  match partAt s n, q.pipe with
  | some p, w :: _ =>
    if xpFree q && q.flight.all (fun d => decide (w.slot < d.due)) &&
        (partFields (n, p)).all (fun f => domRun s (quadDom f)) then some (p, w) else none
  | _, _ => none

/-- Store the upsets the outside inflicts on PE-memory rows before the word reads them. -/
def applyUpsets (ups : List RowUpset) (s : State) : State :=
  ups.foldl (fun s u => flipRow u.field u.srow u.pcol u.row u.mask s) s

/-- PE_EXECUTE (R37): the PEs of the partition of master n execute the oldest broadcast microword. -/
def execPeExecute (n : Fin 64) (ups : List RowUpset) (bc : List BcErr) (s : State) : Out :=
  let s := applyUpsets ups s
  match peReady s n with
  | some (p, w) => ok (peWord n p w bc s)
  | none => ok s

/-- The delivery that lands next: of those the next word must see, the one due first, the earlier send first (R48, R49).
DESIGN CHOICE (log 152): while issue pauses a delivery lands when its microword count has been reached and not
earlier; R48 says only that it is no later. -/
def nextDelivery (q : MSeq) : Option Delivery :=
  (q.flight.filter fun d => d.due ≤ q.done).foldl (fun best d =>
    match best with
    | none => some d
    | some b => if d.due < b.due ∨ (d.due = b.due ∧ d.slot < b.slot) then some d else some b) none

/-- NLATCH_DELIVERY (R48; log 152 on a pause of issue): the bits of the next delivery due land in the n-latches of the partition. -/
def execNlatchDelivery (n : Fin 64) (s : State) : Out :=
  match nextDelivery (getSeq s n) with
  | some d =>
    let s := d.planes.foldl (fun s e => updField e.1 (fun x => { x with nlatch := e.2 }) s) s
    ok (updSeq n (fun q => { q with flight := q.flight.filter (fun e => decide (e.slot ≠ d.slot)) }) s)
  | none => ok s

end Sys2Proof.Machine
end

