-- ==== Sys2Proof/Machine/Slices.lean ====
section
/-! DEFINITION. The slices: the XP part of a word, the Sutor operations, their completion, the dividers and the
commit (chapter 07). -/
namespace Sys2Proof.Machine
open Sys2Proof

/-! ### Banks and pointers (R176–R181) -/

def fillA (x : Field) (bank : Bool) : Tbl Plane := if bank then x.ta1 else x.ta0
def compA (x : Field) (bank : Bool) : Tbl Plane := if bank then x.ta0 else x.ta1
def compB (x : Field) (bank : Bool) : Tbl Plane := if bank then x.tb0 else x.tb1
def loadA (bank : Bool) (r : Nat) (p : Plane) (x : Field) : Field :=
  if bank then { x with ta1 := tset 0 x.ta1 r p } else { x with ta0 := tset 0 x.ta0 r p }
def loadB (bank : Bool) (r : Nat) (p : Plane) (x : Field) : Field :=
  if bank then { x with tb1 := tset 0 x.tb1 r p } else { x with tb0 := tset 0 x.tb0 r p }
/-- Clear the bank that becomes the fill bank (R180). -/
def clearBank (bank : Bool) (x : Field) : Field :=
  if bank then { x with ta1 := [], tb1 := [] } else { x with ta0 := [], tb0 := [] }

/-- Apply an update to every field of the partition of master n. -/
def updPart (n : Nat) (g : Field → Field) (s : State) : State :=
  (fieldsOf s n).foldl (fun s f => updField f g s) s
/-- Apply an update to every slice of the partition of master n. -/
def updPartSlices (n : Nat) (g : Slice → Slice) (s : State) : State :=
  (fieldsOf s n).foldl (fun s f => updSlices f g s) s

/-- Apply an update to the fields of the partition of master n whose transposers are not idle (R105). -/
def updLive (n : Nat) (idle : List Nat) (g : Field → Field) (s : State) : State :=
  ((fieldsOf s n).filter fun f => !idle.contains f).foldl (fun s f => updField f g s) s
/-- Apply an update to the slices of those fields. -/
def updLiveSlices (n : Nat) (idle : List Nat) (g : Slice → Slice) (s : State) : State :=
  ((fieldsOf s n).filter fun f => !idle.contains f).foldl (fun s f => updSlices f g s) s

/-- The exchange of R180. The banks of idle fields keep their contents (R105); the pointers are the partition's (R176). -/
def exchange (n : Nat) (idle : List Nat) (s : State) : State :=
  let b := (getSeq s n).bank
  let s := updLive n idle (clearBank (!b)) s
  updSeq n (fun q => { q with bank := !b, fra := 0, frb := 0, lp := 0, loaded := false }) s

/-- The loads of R178 for the word in the slices. -/
def xpLoad (n : Nat) (x : XpWord) (s : State) : State :=
  let q := getSeq s n
  let s := if xpLoadsA x.xp then
      if q.fra < 64 then
        updSeq n (fun q => { q with fra := q.fra + 1, loaded := true })
          (x.rowA.foldl (fun s e => updField e.1 (loadA q.bank q.fra e.2) s) s)
      else setF (fSUTOR_STAT_LD_OVF n) 1 s
    else s
  if xpLoadsB x.xp then
    if q.frb < 64 then
      updSeq n (fun q => { q with frb := q.frb + 1, loaded := true })
        (x.rowB.foldl (fun s e => updField e.1 (loadB q.bank q.frb e.2) s) s)
    else setF (fSUTOR_STAT_LD_OVF n) 1 s
  else s

/-- Steps 1 and 2 of R179. DESIGN CHOICE (log 157): where LP + k exceeds 64, which a change of the pack factor inside a
block can bring about, the word-time takes lanes LP to LP + k − 1 as always, of which only those below 64 exist, and LP
becomes LP + k; no automatic exchange follows until a SWAP or TRESET sets LP. -/
def xpStepWord (n : Nat) (x : XpWord) (s : State) : State :=
  let q := getSeq s n
  let s := if q.lp = 64 ∧ q.loaded then exchange n x.idle s else s
  let q := getSeq s n
  if q.lp < 64 then
    let op := getF s (fSCMD_OP n)
    let fmt := getF s (fSCMD_FMT n)
    let sf := getF s (fSCMD_SFMT n)
    let k := packOf op fmt sf
    let wt (f : Field) : WordTime := ⟨q.lp, k, op, fmt, sf, bitF s (fSCMD_SGN n), bitF s (fSCMD_ASEL n),
      bitF s (fSCMD_DST n), compA f q.bank, compB f q.bank⟩
    let s := x.rowA.foldl (fun s e => updField e.1 (fun f => { f with wq := f.wq ++ [wt f] }) s) s
    updSeq n (fun q => { q with lp := q.lp + k, pend := true }) s
  else s

/-- Copy the listed lanes of `sh` into `acc`. -/
def takeShadow (acc sh : Tbl Word) : Tbl Word := sh.foldl (fun a e => tset 0 a e.1 e.2) acc

/-- Discard or conclude a group in a slice: nothing of it stays queued or valid. Only the valid bits of CB and the
shadows are cleared (R194, R197); their words stay. -/
def endGroup (y : Slice) : Slice :=
  { y with
    head := 0, pipe := [], divq := [], cb := [], sh0 := [], sh1 := [], mark := false,
    cbOld := takeShadow y.cbOld y.cb, sh0Old := takeShadow y.sh0Old y.sh0, sh1Old := takeShadow y.sh1Old y.sh1 }

/-- Skip or ABORT discards the pending group (R197). -/
def discardGroup (n : Nat) (s : State) : State :=
  let s := updPart n (fun x => { x with wq := [] }) s
  let s := updPartSlices n (fun y => { endGroup y with flags := [], stale := false }) s
  updSeq n (fun q => { q with pend := false, excMark := false }) s

/-- The OR of the lane flags of a slice. -/
def orFlags (y : Slice) : Flags := y.flags.foldl (fun acc e => acc ||| e.2) 0
/-- The OR of the lane flags of the pending group over the partition (R210). -/
def groupFlags (s : State) (n : Nat) : Flags :=
  (fieldsOf s n).foldl (fun acc f =>
    (getField s f).slices.foldl (fun acc e => if e.2.stale then acc else acc ||| orFlags e.2) acc) 0
/-- E of R194: over every lane of the partition its flags and the TEN of its slice, flags that a COMMIT has left readable
included. -/
def enabledFlags (s : State) (n : Nat) : Flags :=
  (fieldsOf s n).foldl (fun acc f =>
    (getField s f).slices.foldl (fun acc e => acc ||| (orFlags e.2 &&& e.2.ten)) acc) 0
/-- Every slice has completed every word-time of the group (R193). -/
def groupComplete (s : State) (n : Nat) : Bool :=
  (fieldsOf s n).all fun f =>
    let x := getField s f
    x.wq.isEmpty || (List.range 256).all fun sl =>
      let y := getSlice x sl
      y.head == x.wq.length && y.pipe.isEmpty && y.divq.isEmpty
/-- A slice holds a failure mark (R544). -/
def groupMarked (s : State) (n : Nat) : Bool :=
  (getSeq s n).excMark || (fieldsOf s n).any fun f => (getField s f).slices.any fun e => e.2.mark
/-- The word-times with a lane that waits behind another for its divider (R190). -/
def divWaiting (l : List DivJob) : List Nat :=
  (l.foldl (fun (busy, wts) j =>
    if busy.contains (j.lane % 4) then (busy, if wts.contains j.wt then wts else wts ++ [j.wt])
    else (busy ++ [j.lane % 4], wts)) (([] : List Nat), ([] : List Nat))).2
/-- The word-times a slice still holds in its work queue: those it has not taken, and those with a lane that waits for
its divider. -/
def queued (x : Field) (y : Slice) : Nat := x.wq.length - y.head + (divWaiting y.divq).length
/-- The work queue of some slice holds more than 64 word-times (R191). -/
def backpressure (s : State) (n : Nat) : Bool :=
  (fieldsOf s n).any fun f =>
    let x := getField s f
    decide (64 < x.wq.length) && (List.range 256).any fun sl => decide (64 < queued x (getSlice x sl))

/-- The commit of R194, in every field but those left idle (R105). Where the word itself drained TO, OPT steps after it
(R182). -/
def commitGroup (n : Nat) (idle : List Nat) (drains : Bool) (s : State) : State :=
  let fs := (fieldsOf s n).filter fun f => !idle.contains f
  let anyCb := fs.any fun f => (getField s f).slices.any fun e => !e.2.cb.isEmpty
  let fl := fs.foldl (fun acc f =>
    (getField s f).slices.foldl (fun acc e => acc ||| orFlags e.2) acc) 0
  let lost := anyCb && (getSeq s n).undrained.isSome
  let s := updLive n idle (fun x => { x with wq := [] }) s
  let s := updLiveSlices n idle (fun y =>
    { endGroup y with
      tob := if anyCb then y.cb.foldl (fun t e => tset 0 t e.1 e.2) [] else y.tob,
      acc0 := takeShadow y.acc0 y.sh0, acc1 := takeShadow y.acc1 y.sh1, stale := true }) s
  let s := updSeq n (fun q => { q with
    pend := false, opt := if anyCb then b2n drains else q.opt, undrained := if anyCb then some 0 else q.undrained }) s
  let s := setF (fSFLAGS_STICKY n) (getF s (fSFLAGS_STICKY n) ||| fl.toNat) s
  if lost then setF (fSUTOR_STAT_TO_LOST n) 1 s else s

/-- TRESET in every slice of the partition but in fields left idle (R181, R105). Where the word itself drained TO, OPT
steps after it (R182). -/
def transposerReset (n : Nat) (idle : List Nat) (drains : Bool) (s : State) : State :=
  let s := updLive n idle (fun x => { x with ta0 := [], ta1 := [], tb0 := [], tb1 := [] }) s
  let s := updLiveSlices n idle (fun y => { y with tob := [] }) s
  updSeq n (fun q => { q with fra := 0, frb := 0, lp := 64, opt := b2n drains, loaded := false, undrained := none }) s

/-- The XP part of the word the PEs have just executed, when its code is `code`. -/
def xpAct (code : BitVec 4) (n : Nat) (g : XpWord → State → State) (s : State) : Out :=
  match (getSeq s n).xp with
  | some x => if x.xp = code then ok (g x (updSeq n (fun q => { q with xp := none }) s)) else ok s
  | none => ok s

def execXpIdle (n : Fin 64) (s : State) : Out := xpAct 0 n (fun _ s => s) s
def execLda (n : Fin 64) (s : State) : Out := xpAct 1 n (fun x s => xpLoad n x s) s
def execLdb (n : Fin 64) (s : State) : Out := xpAct 2 n (fun x s => xpLoad n x s) s
def execLdab (n : Fin 64) (s : State) : Out := xpAct 3 n (fun x s => xpLoad n x s) s
def execStep (n : Fin 64) (s : State) : Out := xpAct 4 n (fun x s => xpStepWord n x s) s
def execStepLda (n : Fin 64) (s : State) : Out := xpAct 5 n (fun x s => xpLoad n x (xpStepWord n x s)) s
def execStepLdb (n : Fin 64) (s : State) : Out := xpAct 6 n (fun x s => xpLoad n x (xpStepWord n x s)) s
def execStepLdab (n : Fin 64) (s : State) : Out := xpAct 7 n (fun x s => xpLoad n x (xpStepWord n x s)) s
def execSwap (n : Fin 64) (s : State) : Out := xpAct 8 n (fun x s => exchange n x.idle s) s
def execCommit (n : Fin 64) (s : State) : Out := xpAct 9 n (fun x s => commitGroup n x.idle x.drains s) s
def execTreset (n : Fin 64) (s : State) : Out := xpAct 10 n (fun x s => transposerReset n x.idle x.drains s) s
/-- WPGO (R199): a word-port transfer starts in every field of the partition that has not executed a null word (R105). -/
def execWpgo (n : Fin 64) (s : State) : Out :=
  xpAct 11 n (fun x s =>
    let fs := fieldsOf s n
    let at' (r : Nat) : WpRun := ⟨n, bitF s (fWP_CMD_DIR n), bitF s (fWP_CMD_SRC n), 2 ^ getF s (fWP_CMD_ESIZE n),
      64 * (getF s (fWP_ADDR_ADDR n) + r * getF s (fWP_CMD_FSTRIDE n)), (getSeq s n).bank, 0, []⟩
    ((List.range fs.length).filter fun r => !x.idle.contains (fs.getD r 0)).foldl (fun s r =>
      updField (fs.getD r 0) (fun f => { f with wp := some (at' r) }) s) s) s
/-- WPWAIT (R200): the wait was over when the word issued; nothing is left to do. -/
def execWpwait (n : Fin 64) (s : State) : Out := xpAct 12 n (fun _ s => s) s

/-! ### The Sutor unit (R187–R191) -/

/-- The accumulator operand of a lane (R188): its shadow when valid, else the committed accumulator. -/
def accOperand (y : Slice) (asel : Bool) (lane : Nat) : Word :=
  if asel then (tlook y.sh1 lane).getD (tget 0 y.acc1 lane) else (tlook y.sh0 lane).getD (tget 0 y.acc0 lane)

/-- Write lane results (R188, R189): values, lane flags, and the lanes whose new flags include an enabled one. -/
def putResults (rs : List LaneResult) (y : Slice) : Slice × List Nat :=
  let y := if y.stale then { y with flags := [], stale := false } else y
  rs.foldl (fun (y, marks) r =>
    let y := match r.value with
      | none => y
      | some v =>
        if r.toShadow then
          if r.asel then { y with sh1 := tput y.sh1 r.lane v } else { y with sh0 := tput y.sh0 r.lane v }
        else { y with cb := tput y.cb r.lane v }
    let y := { y with flags := tset 0 y.flags r.lane (tget 0 y.flags r.lane ||| r.flags) }
    (y, if r.flags &&& y.ten ≠ 0 then marks ++ [r.lane] else marks)) (y, [])

/-- Deliver lane results in slice sl of field f, marking f7 (R43, R189). -/
def deliver (f sl : Nat) (rs : List LaneResult) (markF7 : Bool) (s : State) : State :=
  let (y, marks) := putResults rs (getSlice (getField s f) sl)
  let s := updSlice f sl (fun _ => y) s
  if markF7 then
    updField f (fun x => setFlag 7 (marks.foldl (fun p l => p ||| (1#16384 <<< peIndex sl l)) (getFlag x 7)) x) s
  else s

/-- The next word-time of slice sl of field f, with its lanes' operands. -/
def nextWordTime (s : State) (f sl : Nat) : Option WordTime :=
  let x := getField s f
  x.wq[(getSlice x sl).head]?

/-- The lanes a word-time takes. -/
def wtLanes (wt : WordTime) : List Nat := (List.range wt.k).map (· + wt.lane0)

/-- One word-time of operation `op` begins in slice sl of field f, with RM as it stands (R189, R220); its results are
on their way to the commit buffer or a shadow. -/
def beginWordTime (op f sl : Nat) (s : State) : State :=
  match nextWordTime s f sl with
  | none => s
  | some wt =>
    let y := getSlice (getField s f) sl
    let busy := wtLanes wt |>.any fun l => y.pipe.any fun rs => rs.any fun r => r.lane == l
    if wt.op ≠ op ∨ !y.divq.isEmpty ∨ busy then s
    else
      let rs := (wtLanes wt).map fun l =>
        let (v, fl) := sutorOp op wt.fmt wt.sfmt wt.sgn y.rm.toNat (laneWord wt.ta sl l) (laneWord wt.tb sl l)
          (accOperand y wt.asel l)
        (⟨l, wt.dst, wt.asel, v, fl⟩ : LaneResult)
      updSlice f sl (fun y => { y with head := y.head + 1, pipe := y.pipe ++ [rs] }) s

/-- A word-time of IDIV or IREM queues its lanes to the dividers (R190). -/
def beginDivide (op f sl : Nat) (s : State) : State :=
  match nextWordTime s f sl with
  | none => s
  | some wt =>
    if wt.op ≠ op then s
    else
      let js := (wtLanes wt).map fun l =>
        (⟨(getSlice (getField s f) sl).head, l, laneWord wt.ta sl l, laneWord wt.tb sl l, op == 0x13, wt.fmt, wt.sgn, wt.asel, wt.dst⟩ : DivJob)
      updSlice f sl (fun y => { y with head := y.head + 1, divq := y.divq ++ js }) s

def execSutorNop (f : Fin 64) (sl : Fin 256) (s : State) : Out := ok (beginWordTime 0x00 f sl s)
def execFadd (f : Fin 64) (sl : Fin 256) (s : State) : Out := ok (beginWordTime 0x01 f sl s)
def execFsub (f : Fin 64) (sl : Fin 256) (s : State) : Out := ok (beginWordTime 0x02 f sl s)
def execFmul (f : Fin 64) (sl : Fin 256) (s : State) : Out := ok (beginWordTime 0x03 f sl s)
def execFma (f : Fin 64) (sl : Fin 256) (s : State) : Out := ok (beginWordTime 0x04 f sl s)
def execFmin (f : Fin 64) (sl : Fin 256) (s : State) : Out := ok (beginWordTime 0x05 f sl s)
def execFmax (f : Fin 64) (sl : Fin 256) (s : State) : Out := ok (beginWordTime 0x06 f sl s)
def execFabs (f : Fin 64) (sl : Fin 256) (s : State) : Out := ok (beginWordTime 0x07 f sl s)
def execFcmpeq (f : Fin 64) (sl : Fin 256) (s : State) : Out := ok (beginWordTime 0x08 f sl s)
def execFcmplt (f : Fin 64) (sl : Fin 256) (s : State) : Out := ok (beginWordTime 0x09 f sl s)
def execFcmple (f : Fin 64) (sl : Fin 256) (s : State) : Out := ok (beginWordTime 0x0A f sl s)
def execCvt (f : Fin 64) (sl : Fin 256) (s : State) : Out := ok (beginWordTime 0x0B f sl s)
def execImul (f : Fin 64) (sl : Fin 256) (s : State) : Out := ok (beginWordTime 0x10 f sl s)
def execImulh (f : Fin 64) (sl : Fin 256) (s : State) : Out := ok (beginWordTime 0x11 f sl s)
def execIdiv (f : Fin 64) (sl : Fin 256) (s : State) : Out := ok (beginDivide 0x12 f sl s)
def execIrem (f : Fin 64) (sl : Fin 256) (s : State) : Out := ok (beginDivide 0x13 f sl s)
def execImin (f : Fin 64) (sl : Fin 256) (s : State) : Out := ok (beginWordTime 0x14 f sl s)
def execImax (f : Fin 64) (sl : Fin 256) (s : State) : Out := ok (beginWordTime 0x15 f sl s)
def execIabs (f : Fin 64) (sl : Fin 256) (s : State) : Out := ok (beginWordTime 0x16 f sl s)
def execIcmpeq (f : Fin 64) (sl : Fin 256) (s : State) : Out := ok (beginWordTime 0x17 f sl s)
def execIcmplt (f : Fin 64) (sl : Fin 256) (s : State) : Out := ok (beginWordTime 0x18 f sl s)
def execDadd (f : Fin 64) (sl : Fin 256) (s : State) : Out := ok (beginWordTime 0x20 f sl s)
def execDsub (f : Fin 64) (sl : Fin 256) (s : State) : Out := ok (beginWordTime 0x21 f sl s)
def execAccrd (f : Fin 64) (sl : Fin 256) (s : State) : Out := ok (beginWordTime 0x30 f sl s)
def execAccld (f : Fin 64) (sl : Fin 256) (s : State) : Out := ok (beginWordTime 0x31 f sl s)
def execAccz (f : Fin 64) (sl : Fin 256) (s : State) : Out := ok (beginWordTime 0x32 f sl s)

/-- SUTOR_RES counts and captures a failed slice check (R544, R561), in the master's copy. -/
def sliceFail (n f sl : Nat) (e : SliceFail) (s : State) : State :=
  let s := satF (fSUTOR_RES_CNT n) 1 s
  let s := if bitF s (fSUTOR_RES_VALID n) then setF (fSUTOR_RES_OVF n) 1 s
    else setFs [(fSUTOR_RES_VALID n, 1), (fSUTOR_RES_KIND n, b2n e.parity), (fSUTOR_RES_FIELD n, f),
      (fSUTOR_RES_SLICE n, sl), (fSUTOR_RES_LANE n, e.lane)] s
  updSlice f sl (fun y => { y with mark := true }) s

/-- WORD_TIME_COMPLETE (R189, R544): the oldest begun word-time of slice sl of field f writes its results. -/
def execWordTimeComplete (f : Fin 64) (sl : Fin 256) (fail : Option SliceFail) (s : State) : Out :=
  match (getSlice (getField s f) sl).pipe with
  | [] => ok s
  | rs :: rest =>
    let s := deliver f sl rs fail.isNone (updSlice f sl (fun y => { y with pipe := rest }) s)
    match fail with
    | none => ok s
    | some e => ok (sliceFail (((partOf s f).map (·.1)).getD f) f sl e s)

/-- Remove the first job of divider d. -/
def dropJob (d : Nat) : List DivJob → List DivJob
  | [] => []
  | j :: t => if j.lane % 4 = d then t else j :: dropJob d t

/-- DIVIDE_COMPLETE (R190): divider d of slice sl of field f finishes its oldest lane and writes its result. -/
def execDivideComplete (f : Fin 64) (sl : Fin 256) (d : Fin 4) (s : State) : Out :=
  match (getSlice (getField s f) sl).divq.find? (fun j => j.lane % 4 == d.val) with
  | none => ok s
  | some j =>
    let (v, fl) := intDiv (fmtWidth j.fmt) j.sgn j.rem j.a j.b
    ok (deliver f sl [⟨j.lane, j.dst, j.asel, some v, fl⟩] true
      (updSlice f sl (fun y => { y with divq := dropJob d y.divq }) s))

end Sys2Proof.Machine
end

