-- ==== Sys2Proof/Machine/Mseq.lean ====
section
/-! DEFINITION. The micro-sequencer: fetch and issue of microwords, routines, stops, the resume record, Soundings and
Censuses at the master (chapters 04 and 06). -/
namespace Sys2Proof.Machine
open Sys2Proof

/-! ### Special registers of the core that the array side touches (R281, R300, R316) -/

def getSr (c : Core) (k : Nat) : Word := tget 0 c.sr k
def setSr (k : Nat) (v : Word) (c : Core) : Core := { c with sr := tset 0 c.sr k v }
/-- An interrupt event sets its bit of IPEND (R300). -/
def raiseIrq (n cause : Nat) (s : State) : State :=
  updCore n (fun c => setSr 0x15 (getSr c 0x15 ||| (1#64 <<< cause)) c) s

/-! ### Fetch (R92, R124) -/

def almKey (n a : Nat) : Nat := 8192 * n + a

/-- What a fetch from the Almanac finds. -/
inductive Fetched where
  | absent
  | word (w : MicroWord) (ce : Option Nat)
  | bad
  deriving DecidableEq, Repr

/-- A fetch of one Almanac word, with its error code (R92, R124). -/
def fetchMicro (s : State) (n a : Nat) : Fetched × State :=
  match tlook s.alm (almKey n a) with
  | none => (.absent, s)
  | some w =>
    let e := tget 0 s.almErr (almKey n a)
    match popc 8 e.toNat with
    | 0 => (.word w none, s)
    | 1 => (.word w (some e.toNat.log2), s)
    | 2 => (.bad, s)
    | _ =>
      let (d, s) := draw s
      match Config.eccOutcome d with
      | 0 => (.word (Config.eccMicro d) none, s)
      | 1 => (.word (Config.eccMicro d) (some (Config.eccPos d % 137)), s)
      | _ => (.bad, s)

/-- Store an upset of codeword bits of one Almanac word. -/
def almUpset (n a : Nat) (flip : BitVec 137) (s : State) : State :=
  if flip = 0 then s else
    { s with almErr := tset 0 s.almErr (almKey n a) (tget 0 s.almErr (almKey n a) ^^^ flip) }

/-- ALM_ERR_CAP as a register value, for Logbook entries (R131). -/
def almCapValue (s : State) (n : Nat) : Nat :=
  getF s (fALM_ERR_CAP_VALID n) + getF s (fALM_ERR_CAP_OVF n) * 2 + getF s (fALM_ERR_CAP_UE n) * 4 +
  getF s (fALM_ERR_CAP_BCAST n) * 8 + getF s (fALM_ERR_CAP_POS n) * 2 ^ 8 + getF s (fALM_ERR_CAP_UPC n) * 2 ^ 16 +
  getF s (fALM_ERR_CAP_FIELD n) * 2 ^ 32 + getF s (fALM_ERR_CAP_STAGE n) * 2 ^ 38
def treeErrValue (s : State) (n : Nat) : Nat :=
  getF s (fSND_TREE_ERR_MM_CNT n) + getF s (fSND_TREE_ERR_VALID n) * 2 ^ 16 + getF s (fSND_TREE_ERR_OVF n) * 2 ^ 17 +
  getF s (fSND_TREE_ERR_CEN n) * 2 ^ 18 + getF s (fSND_TREE_ERR_LEVEL n) * 2 ^ 20 +
  getF s (fSND_TREE_ERR_TILE n) * 2 ^ 22 + getF s (fSND_TREE_ERR_FIELD n) * 2 ^ 24 +
  getF s (fSND_TREE_ERR_SLICE n) * 2 ^ 32 + getF s (fSND_TREE_ERR_UPC n) * 2 ^ 48
def sutorResValue (s : State) (n : Nat) : Nat :=
  getF s (fSUTOR_RES_CNT n) + getF s (fSUTOR_RES_VALID n) * 2 ^ 16 + getF s (fSUTOR_RES_OVF n) * 2 ^ 17 +
  getF s (fSUTOR_RES_KIND n) * 2 ^ 18 + getF s (fSUTOR_RES_FIELD n) * 2 ^ 24 + getF s (fSUTOR_RES_SLICE n) * 2 ^ 32 +
  getF s (fSUTOR_RES_LANE n) * 2 ^ 40

/-! ### Routines (R108, R109) -/

/-- The micro-sequencer takes an entry of its queue: its registers load from the entry and the micro-stack empties. -/
def startEntry (e : QEntry) (q : MSeq) : MSeq :=
  { q with
    state := .issuing, upc := e.entry, stack := [], hold := none,
    ptrs := ⟨e.c0, e.c1, e.p1, e.p2, e.p3, e.c0, e.c1, e.p1, e.p2, e.p3, e.dparam⟩,
    cur := some ⟨e.apc, e.released, 0⟩ }

/-- The next queue entry starts, or the micro-sequencer becomes IDLE (R109). -/
def nextRoutine (q : MSeq) : MSeq :=
  match q.queue with
  | e :: t => startEntry e { q with queue := t }
  | [] => { q with state := .idle, cur := none, hold := none, stack := [] }

/-! ### The resume record (R132–R135, R214, R215) -/

/-- The Sounding a branch in slot j tests (R106). -/
def testedSnd (q : MSeq) (l j : Nat) : Nat :=
  let r := (q.snds.filter fun r => decide (r.slot + l ≤ j) && r.arrived).foldl
    (fun best r => match best with | none => some r | some b => if b.slot < r.slot then some r else some b) none
  match r with | some r => r.value.getD 0 | none => 0

/-- The fields of XSTATE (R214). -/
def xstate (n : Nat) (q : MSeq) : List (Fld × Nat) :=
  [(fRESUME6_FRA n, q.fra), (fRESUME6_FRB n, q.frb), (fRESUME6_BANK n, b2n q.bank), (fRESUME6_LP n, q.lp),
   (fRESUME6_OPT n, q.opt)]

/-- XSTATE as a doubleword. -/
def xstateValue (q : MSeq) : Nat := ((xstate 0 q).map fun e => e.2 * 2 ^ e.1.lo).sum
/-- The fields of CSTATE (R215) of a stop, with the lane flags of the group as they stand when the record is written. -/
def cstate (n : Nat) (q : MSeq) (st : Stop) (group : Flags) : List (Fld × Nat) :=
  let exc := decide (st.kind = 3)
  [(fRESUME7_PEND n, b2n q.pend), (fRESUME7_EXC n, b2n exc), (fRESUME7_ACTION n, 0),
   (fRESUME7_CAUSE n, if exc then st.cause else 0), (fRESUME7_GFLAGS n, group.toNat),
   (fRESUME7_EFLAGS n, st.eflags.toNat)]

/-- Write the resume record of sequencer n (R113, R651). Its slice and Sounding state is that of the moment: a record is
written once the last issued word has passed the PEs. -/
def writeRecord (n : Nat) (st : Stop) (s : State) : State :=
  let q := getSeq s n
  let p := q.ptrs
  let l := ((partAt s n).map lSnd).getD 4
  let back (i : Nat) : Option TreeRec := q.snds.find? fun r => r.slot + i == q.slot
  let pv := ((List.range 10).map fun i => if 1 ≤ i ∧ (back i).isSome then 2 ^ (i - 1) else 0).sum
  let pl := ((List.range 10).map fun i => if 1 ≤ i then (match back i with
    | some r => (r.value.getD 0) * 2 ^ (i - 1) | none => 0) else 0).sum
  let stk (i : Nat) : Nat := (q.stack.getD i 0).toNat
  let s := setFs [(fRESUME0_VALID n, b2n st.valid), (fRESUME0_KIND n, st.kind), (fRESUME0_IN_HOLD n, b2n st.inHold),
    (fRESUME0_HOLD_REM n, st.holdRem), (fRESUME0_UPC n, st.upc.toNat), (fRESUME0_DEPTH n, q.stack.length),
    (fRESUME1_C0 n, p.c0.toNat), (fRESUME1_C1 n, p.c1.toNat), (fRESUME1_C0_INIT n, p.c0Init.toNat),
    (fRESUME1_C1_INIT n, p.c1Init.toNat), (fRESUME2_P1 n, p.p1.toNat), (fRESUME2_P2 n, p.p2.toNat),
    (fRESUME2_P3 n, p.p3.toNat), (fRESUME2_DPARAM n, p.dparam.toNat), (fRESUME3_P1_INIT n, p.p1Init.toNat),
    (fRESUME3_P2_INIT n, p.p2Init.toNat), (fRESUME3_P3_INIT n, p.p3Init.toNat)] s
  let s := setFs [(fRESUME4_STK0 n, stk 0), (fRESUME4_STK1 n, stk 1), (fRESUME4_STK2 n, stk 2),
    (fRESUME4_STK3 n, stk 3), (fRESUME5_LAST_SND n, testedSnd q l q.slot), (fRESUME5_PVLD n, pv),
    (fRESUME5_PVAL n, pl), (fRESUME5_CEN_VALID n, getF s (fMSEQ_SND_CEN_VALID n)),
    (fRESUME5_LAST_CENSUS n, getF s (fMSEQ_SND_LAST_CENSUS n))] s
  let s := setFs (cstate n q st (groupFlags s n)) (setFs (xstate n q) s)
  updSeq n (fun q => { q with recApc := st.apc }) s

/-! ### Stops (R57, R70, R112–R118, R124, R195) -/

/-- A stop with nothing filled in but its kind and the routine it stops. -/
def mkStop (q : MSeq) (kind cause mcsrc : Nat) (upc : BitVec 13) : Stop :=
  { kind := kind, cause := cause, mcsrc := mcsrc, valid := true, upc := upc, inHold := q.hold.isSome,
    holdRem := q.hold.getD 0, apc := (q.cur.map (·.apc)).getD q.recApc, eflags := 0, sw := false,
    hub := false, ended := false, discarded := [] }

/-- Issue stops at an array trap; a pending software request is cleared (R118). -/
def stopAt (n : Nat) (st : Stop) (s : State) : State :=
  let s := setF (fMSEQ_CTL_YIELD_REQ n) 0 s
  updSeq n (fun q => { q with state := .held, stop := some st, pendSw := false }) s

/-- A yield completes (R113, R115): the record becomes VALID, STATE becomes YIELDED; on a software request the yielded
routine and the queue entries are released (R291). -/
def completeYield (n : Nat) (st : Stop) (s : State) : State :=
  let s := writeRecord n st s
  updSeq n (fun q =>
    let rel (e : QEntry) : QEntry := { e with released := e.released || st.sw }
    { q with state := .yielded, stop := none, swYield := st.sw, hubSvc := st.hub,
             cur := q.cur.map (fun r => { r with released := r.released || st.sw }), queue := q.queue.map rel }) s

/-- A pending preemption request is taken (R112): which requests, with the word at which issue stops. -/
def takeRequests (n : Nat) (kind : Nat) (upc : BitVec 13) (ended : Bool) (s : State) : State :=
  let q := getSeq s n
  let st := { mkStop q kind 0 0 upc with
    sw := q.pendSw, hub := q.pendRb || q.pendSp, ended := ended,
    inHold := !ended && q.hold.isSome, holdRem := if ended then 0 else q.hold.getD 0 }
  let s := setF (fMSEQ_CTL_YIELD_REQ n) 0 s
  updSeq n (fun q => { q with stop := some st, pendSw := false, state := .held }) s

/-- A request that finds the micro-sequencer IDLE is taken at once with KIND 5 and UPC 0 (R118).
DESIGN CHOICE (log 154): also while words of the ended routine are still between issue and the slices, a case R118 does
not consider ("No word is in flight"): the record then shows XSTATE as before those words act and PVAL 0 for Soundings
without a result, and RESUME leaves such Soundings to their own results. -/
def takeIfIdle (n : Nat) (s : State) : State :=
  let q := getSeq s n
  if q.state = .idle ∧ q.stop = none ∧ (q.pendSw || q.pendRb || q.pendSp) then
    let s := takeRequests n 5 0 true s
    match (getSeq s n).stop with
    | some st => completeYield n st s
    | none => s
  else s

/-- The entry of an array trap releases the stopped routine and the discarded ACALLs, and these replace the park list
(R291, R302). A routine whose last word faulted has ended (R57) and completes under R110. Until then the
micro-sequencer is TRAPPED (R299); where no routine was stopped (R171) it is IDLE again from the entry on (log 23). -/
def releaseTrap (n : Nat) (st : Stop) (s : State) : State :=
  let q := getSeq s n
  let s := if q.park = [] then s else setF (fPARK_CTL_PLOST n) 1 s
  updSeq n (fun q => { q with
    atrap := none, cur := q.cur.map fun r => { r with released := true },
    state := if !st.valid && q.state == .trapped then .idle else q.state,
    park := st.discarded.map fun e => { e with released := true } }) s |> takeIfIdle n
/-- With the core HALTED no trap is entered: the release takes place as the trap becomes pending. -/
def settleTrap (n : Nat) (s : State) : State :=
  match (getSeq s n).atrap with
  | some st => if (getCore s n).state = .halted then releaseTrap n st s else s
  | none => s

/-- The machine check of R70, R105, R124, R169 and R170 with the record's micro-PC at the word not issued; R171 when
the micro-sequencer is IDLE, with the ACALL of the word's own routine; R118 after a yield.
DESIGN CHOICE (log 153): an error that reaches the master while another array trap's stop is pending, or while the
micro-sequencer is TRAPPED, raises no second trap; its Logbook entry is still written. -/
def machineCheck (n mcsrc : Nat) (apc : BitVec 14) (s : State) : State :=
  let q := getSeq s n
  match q.stop with
  | some st =>
    if st.cause = 0 then
      updSeq n (fun q => { q with stop := some { st with kind := 4, cause := 10, mcsrc := mcsrc } }) s
    else s
  | none =>
    match q.state with
    | .issuing | .held => stopAt n (mkStop q 4 10 mcsrc q.upc) s
    | .idle => updSeq n (fun q =>
        { q with stop := some { mkStop q 4 10 mcsrc 0 with valid := false, apc := apc, inHold := false, holdRem := 0 } }) s
    | .yielded =>
      let s := setF (fRESUME0_KIND n) 4 s
      let st : Stop := { (mkStop q 4 10 mcsrc q.upc) with apc := q.recApc, discarded := q.queue }
      settleTrap n (updSeq n (fun q => { q with state := .trapped, queue := [], atrap := some st }) s)
    | _ => s

/-! ### Issue (R95–R109) -/

/-- The edge configuration of a master (R172). -/
def edgeCfg (s : State) (n : Nat) : BitVec 12 :=
  BitVec.ofNat 12 (getF s (fEDGE_CFG_MODE_N n) + getF s (fEDGE_CFG_MODE_E n) * 4 + getF s (fEDGE_CFG_MODE_S n) * 16 +
    getF s (fEDGE_CFG_MODE_W n) * 64 + getF s (fEDGE_CFG_HALO_N n) * 256 + getF s (fEDGE_CFG_HALO_E n) * 512 +
    getF s (fEDGE_CFG_HALO_S n) * 1024 + getF s (fEDGE_CFG_HALO_W n) * 2048)

def haloDone (q : MSeq) : Bool := q.halo.all fun e => e.2 == 0
/-- CENSUS_DONE in slot j (R107). -/
def censusDone (q : MSeq) (j : Nat) : Bool := q.cens.all fun r => decide (r.slot + 24 ≤ j)

/-- The next micro-PC (R97), before the word's own updates; `none` when the word ends its routine. -/
def nextUpc (s : State) (n l : Nat) (q : MSeq) (w : MicroWord) : Option (BitVec 13) :=
  let u := q.upc
  let br (b : Bool) : Option (BitVec 13) := some (if b then mwTarget w else u + 1)
  match mwSeq w with
  | 0 => some (u + 1)
  | 1 => some (mwTarget w)
  | 2 => some (mwTarget w)
  | 3 => q.stack.getLast?
  | 4 => br (testedSnd q l q.slot = 1)
  | 5 => br (testedSnd q l q.slot ≠ 1)
  | 6 => br (q.ptrs.c0 - 1 ≠ 0)
  | 7 => br (q.ptrs.c1 - 1 ≠ 0)
  | 8 => some (mwTarget w + BitVec.ofNat 13 (q.ptrs.dparam.toNat % 2 ^ (mwImm w).toNat))
  | 10 => if (match q.hold with | some k => k - 1 | none => (mwImm w).toNat) = 0 then some (u + 1) else some u
  | 11 => br (match (mwImm w).toNat with
      | 0 => bitF s (fARRAY_FAULT_ADDR_FAULT n) | 1 => censusDone q q.slot | _ => haloDone q)
  | _ => none

/-- The micro-stack after a word (R98): a CALL on a full stack drops the oldest entry. -/
def nextStack (q : MSeq) (w : MicroWord) : List (BitVec 13) :=
  match mwSeq w with
  | 2 => (if q.stack.length = 4 then q.stack.tail else q.stack) ++ [q.upc + 1]
  | 3 => q.stack.dropLast
  | _ => q.stack

/-- The faulting ports of a word (R55), in the order A, B, C, with their effective addresses. -/
def faultPorts (w : MicroWord) (p : Ptrs) : List (Nat × Nat) :=
  (if 4128 ≤ (eaA w p).toNat then [(0, (eaA w p).toNat)] else []) ++
  (if 4128 ≤ (eaB w p).toNat then [(1, (eaB w p).toNat)] else []) ++
  (if mwWen w ≠ 0 ∧ 4096 ≤ (eaC w p).toNat then [(2, (eaC w p).toNat)] else [])

/-- ARRAY_FAULT takes a fault (R58, R59). -/
def recordFault (n : Nat) (upc : BitVec 13) (ports : List (Nat × Nat)) (s : State) : State :=
  match ports with
  | [] => s
  | (_, ea) :: _ =>
    if bitF s (fARRAY_FAULT_ADDR_FAULT n) then setF (fARRAY_FAULT_FAULT_OVF n) 1 s
    else
      let has (k : Nat) : Nat := b2n (ports.any fun e => e.1 == k)
      setFs [(fARRAY_FAULT_ADDR_FAULT n, 1), (fARRAY_FAULT_PORT_A n, has 0), (fARRAY_FAULT_PORT_B n, has 1),
        (fARRAY_FAULT_PORT_C n, has 2), (fARRAY_FAULT_FAULT_UPC n, upc.toNat), (fARRAY_FAULT_FAULT_EA n, ea)] s

/-- A halo request adds 1 to the count of every segment of its side (R160). -/
def haloRequest (n : Nat) (p : Part) (w : MicroWord) (s : State) : State :=
  let b := mwNews w - 1
  let e := edgeCfg s n
  if mwNews w ≠ 0 ∧ mwHop w = 0 ∧ edgeMode e b = 3 ∧ edgeHalo e b then
    (sideSegs n p b).foldl (fun s g =>
      let c := tget 0 (getSeq s n).halo g
      if c = 15 then setF (fEDGE_STATUS_HALO_OVF n) 1 s
      else updSeq n (fun q => { q with halo := tset 0 q.halo g (c + 1), haloAge := q.haloAge ++ [(g, s.ticks)] }) s) s
  else s

/-- The word touches a row Survey has borrowed in some field of the partition (R79). -/
def touchesBorrowed (s : State) (n : Nat) (w : MicroWord) (p : Ptrs) : Bool :=
  (fieldsOf s n).any fun f =>
    bitF s (fSURVEY_YIELD_BORROWED f) &&
      (let r := getF s (fSURVEY_YIELD_BROW f)
       (eaA w p).toNat == r || (eaB w p).toNat == r || (mwWen w != 0 && (eaC w p).toNat == r))

/-- The partition's word-port transfer that runs in the lowest field that still has one. -/
def wpOf (s : State) (n : Nat) : Option WpRun := (fieldsOf s n).findSome? fun f => (getField s f).wp
def wpRunning (s : State) (n : Nat) : Bool := (fieldsOf s n).any fun f => (getField s f).wp.isSome

/-- A word of code `code` is between issue and the slices. -/
def xpInFlight (q : MSeq) (code : BitVec 4 → Bool) : Bool :=
  q.pipe.any (fun w => !w.xpIdle && code (mwXp w.word)) || q.xp.any (fun x => code x.xp)
/-- DIR and SRC of the transfer that holds words (R200): one that runs, or that a WPGO issued and not yet executed starts. -/
def wpHolds (s : State) (n : Nat) (q : MSeq) : Option (Bool × Bool) :=
  match wpOf s n with
  | some t => some (t.inward, t.srcTo)
  | none => if xpInFlight q (· == 11) then some (bitF s (fWP_CMD_DIR n), bitF s (fWP_CMD_SRC n)) else none

/-- The next slot has not come: the PEs execute word k before slot k + L_snd, in which its error report is acted on (R70;
log 156), and a Census of word k is in MSEQ_SND by slot k + 24 without holding issue (R107, R166). -/
def slotAhead (p : Part) (q : MSeq) : Bool :=
  q.pipe.any (fun w => decide (w.slot + lSnd p ≤ q.slot)) ||
  q.cens.any (fun r => decide (r.slot + 24 ≤ q.slot) && !r.arrived)

/-- Why the master may not issue a word in the next slot (R70, R77, R79, R165, R191, R193, R200). -/
def held (s : State) (n : Nat) (p : Part) (q : MSeq) (w : MicroWord) : Bool :=
  let l := lSnd p
  q.snds.any (fun r => decide (r.slot + l ≤ q.slot) && !r.arrived) ||
  q.reports.any (fun r => decide (r.due ≤ q.slot)) ||
  (fieldsOf s n).any (fun f => bitF s (fSPARE_MAP_COPY_BUSY f)) ||
  touchesBorrowed s n w q.ptrs ||
  (xpStep (mwXp w) && backpressure s n) ||
  (match wpHolds s n q with | some (d, r) => heldByTransfer w d r || mwXp w == 12 | none => false) ||
  (mwXp w == 9 && !q.skip && (!groupComplete s n || xpInFlight q xpStep))

/-- Drop the tree records that can no longer be tested or counted, nor shown by PVLD (R135). -/
def pruneTrees (l : Nat) (q : MSeq) : MSeq :=
  let newest := (q.snds.filter fun r => decide (r.slot + l ≤ q.slot) && r.arrived).foldl (fun b r => max b r.slot) 0
  { q with snds := q.snds.filter (fun r => decide (newest ≤ r.slot) || decide (q.slot < r.slot + 10)),
           cens := q.cens.filter (fun r => !r.arrived || decide (q.slot < r.slot + 24)) }

/-- One word issues in the next slot (R95): its faults, halo request, updates, and what follows it. -/
def issue (n : Nat) (p : Part) (w : MicroWord) (s : State) : State :=
  let q := getSeq s n
  let l := lSnd p
  let cur := q.cur.getD ⟨0, false, 0⟩
  let next := nextUpc s n l q w
  let ends := next.isNone
  let ports := faultPorts w q.ptrs
  let pw : PipeWord := ⟨q.slot, q.upc, w, eaA w q.ptrs, eaB w q.ptrs, eaC w q.ptrs, edgeCfg s n,
    q.skip && mwXp w == 9, cur.apc⟩
  let rem := match q.hold with | some k => k - 1 | none => (mwImm w).toNat
  let tree (b : Bool) : List TreeRec := if b then [⟨q.slot, q.upc, cur.apc, none, false⟩] else []
  let s := if mwSeq w = 3 ∧ ends then setF (fMSEQ_STATUS_STK_UNF n) 1 s else s
  let s := if mwSeq w = 2 ∧ q.stack.length = 4 then setF (fMSEQ_STATUS_STK_OVF n) 1 s else s
  let s := haloRequest n p w (recordFault n q.upc ports s)
  let s := updSeq n (fun q => pruneTrees l { q with
    state := .issuing, pipe := q.pipe ++ [pw], slot := q.slot + 1,
    ptrs := ptrUpdate (mwPtr w) (mwImm w) (ctrUpdate w q.ptrs), stack := if ends then [] else nextStack q w,
    upc := next.getD 0, hold := if mwSeq w = 10 ∧ rem ≠ 0 then some rem else none,
    snds := q.snds ++ tree (mwSounding w), cens := q.cens ++ tree (mwCensus w),
    skip := q.skip && mwXp w != 9, mask := q.mask && mwXp w != 9,
    ended := if ends then q.ended ++ [{ cur with endSlot := q.slot }] else q.ended,
    cur := if ends then none else q.cur }) s
  let q := getSeq s n
  let kind (k : Nat) : Nat := if ends then 5 else k
  if ports ≠ [] ∧ bitF s (fARRAY_FAULT_FAULT_EN n) then
    stopAt n { mkStop q (kind 2) 9 0 q.upc with apc := cur.apc, ended := ends } s
  else if (q.pendSw || q.pendRb || q.pendSp) && (mwSafe w || ends) then
    takeRequests n (kind 1) q.upc ends s
  else if ends then updSeq n nextRoutine s
  else s

/-- The COMMIT check of R194–R197: the stop it ends in, if any. -/
def commitCheck (s : State) (n : Nat) (q : MSeq) (w : MicroWord) : Option Stop :=
  if mwXp w ≠ 9 ∨ q.skip then none
  else if groupMarked s n then some (mkStop q 4 10 4 q.upc)
  else
    let e := enabledFlags s n
    if e = 0 ∨ q.mask then none
    else
      let cause := if e &&& (flNV ||| flOF ||| flUF ||| flNX) ≠ 0 then 4 else if e &&& (flDI ||| flDO) ≠ 0 then 5 else 6
      some { mkStop q 3 cause 0 q.upc with eflags := e }

/-- The master is issuing: it holds a partition and a routine, nothing has stopped it, and its quads are in Run. -/
def issuing (s : State) (n : Nat) : Option Part :=
  let q := getSeq s n
  if (q.state = .issuing ∨ q.state = .held) ∧ q.stop = none ∧ q.cur.isSome ∧
      (fieldsOf s n).all (fun f => domRun s (quadDom f)) then partAt s n else none

/-- The next slot of master n for a word whose SEQ code is `kind` (R97): a fetch error stops the routine, a held word
waits, a failed COMMIT check traps, and otherwise the word issues. A word of another SEQ code is another command's, and a
slot that has not come leaves all as it is. -/
def microIssue (kind n : Nat) (flip : BitVec 137) (s : State) : State :=
  match issuing s n with
  | none => s
  | some p =>
    let q := getSeq s n
    let a := q.upc.toNat
    let (r, s) := fetchMicro (almUpset n a flip s) n a
    let bad (s : State) : State :=
      let s := almCapture n true false 0 a 0 0 (satF (fALM_ECC_UE_CNT n) 1 s)
      devLogM 3 3 0 0xFF n n (almCapValue s n) (machineCheck n 3 0 s)
    match r with
    | .absent => s
    | .bad => bad s
    | .word w ce =>
      if mwReserved w then bad s
      else if mwSeq w ≠ kind ∨ slotAhead p q then s
      else if held s n p q w then
        let s := if xpStep (mwXp w) && backpressure s n then setF (fSUTOR_STAT_BP n) 1 s else s
        updSeq n (fun q => { q with state := .held }) s
      else
        let s := match ce with
          | some pos => almCapture n false false pos a 0 0 (satF (fALM_ECC_CE_CNT n) 1 s)
          | none => s
        match commitCheck s n q w with
        | some st =>
          let s := if st.kind = 4 then devLogF (if q.excMark then 4 else 5) 3 n n
            (if q.excMark then treeErrValue s n else sutorResValue s n) s else s
          stopAt n st s
        | none => issue n p w s

def execNextWord (n : Fin 64) (flip : BitVec 137) (s : State) : Out := ok (microIssue 0 n flip s)
def execJump (n : Fin 64) (flip : BitVec 137) (s : State) : Out := ok (microIssue 1 n flip s)
def execMicroCall (n : Fin 64) (flip : BitVec 137) (s : State) : Out := ok (microIssue 2 n flip s)
def execMicroReturn (n : Fin 64) (flip : BitVec 137) (s : State) : Out := ok (microIssue 3 n flip s)
def execBranchAny (n : Fin 64) (flip : BitVec 137) (s : State) : Out := ok (microIssue 4 n flip s)
def execBranchNone (n : Fin 64) (flip : BitVec 137) (s : State) : Out := ok (microIssue 5 n flip s)
def execLoopC0 (n : Fin 64) (flip : BitVec 137) (s : State) : Out := ok (microIssue 6 n flip s)
def execLoopC1 (n : Fin 64) (flip : BitVec 137) (s : State) : Out := ok (microIssue 7 n flip s)
def execDispatch (n : Fin 64) (flip : BitVec 137) (s : State) : Out := ok (microIssue 8 n flip s)
def execEndWord (n : Fin 64) (flip : BitVec 137) (s : State) : Out := ok (microIssue 9 n flip s)
def execHoldWord (n : Fin 64) (flip : BitVec 137) (s : State) : Out := ok (microIssue 10 n flip s)
def execBranchMflag (n : Fin 64) (flip : BitVec 137) (s : State) : Out := ok (microIssue 11 n flip s)

/-- ROUTINE_START (R109): an IDLE micro-sequencer takes the head of its queue; its entry word is the next to issue. -/
def execRoutineStart (n : Fin 64) (s : State) : Out :=
  let q := getSeq s n
  if q.state = .idle ∧ q.stop = none ∧ q.queue ≠ [] then ok (updSeq n nextRoutine s) else ok s

/-- ROUTINE_COMPLETE (R110): the oldest ended routine completes once every PE has executed its last word and its
Soundings and Censuses have arrived. -/
def execRoutineComplete (n : Fin 64) (s : State) : Out :=
  let q := getSeq s n
  match q.ended with
  | [] => ok s
  | r :: t =>
    if r.endSlot < q.done ∧ (q.snds ++ q.cens).all (fun e => e.arrived || decide (r.endSlot < e.slot)) then
      ok (updSeq n (fun q => { q with ended := t }) s)
    else ok s

/-- The words issued before a stop have all passed the PEs and the slices. -/
def drained (q : MSeq) : Bool := q.pipe.isEmpty && xpFree q

/-- YIELD_COMPLETE (R113). -/
def execYieldComplete (n : Fin 64) (s : State) : Out :=
  let q := getSeq s n
  match q.stop with
  | some st => if st.cause = 0 ∧ drained q then ok (completeYield n st s) else ok s
  | none => ok s

/-- Every ACALL before the stopped routine's has completed, as it has when an address fault is recorded (R57). -/
def earlierDone (q : MSeq) (st : Stop) : Bool :=
  st.cause != 9 || (if st.ended then q.ended.dropLast else q.ended).isEmpty

/-- ARRAY_TRAP_RECORD (R651): the record of a stopped routine becomes VALID, the later ACALLs are discarded and the
array trap becomes pending at the core. -/
def execArrayTrapRecord (n : Fin 64) (s : State) : Out :=
  let q := getSeq s n
  match q.stop with
  | some st =>
    if st.cause ≠ 0 ∧ drained q ∧ earlierDone q st then
      let s := writeRecord n st s
      ok (settleTrap n (updSeq n (fun q =>
        { q with stop := none, state := .trapped,
                 atrap := some { st with discarded := q.queue }, queue := [], swYield := false,
                 hubSvc := q.hubSvc || st.hub }) s))
    else ok s
  | none => ok s

/-! ### Soundings and Censuses at the master (R106, R107, R165–R171) -/

/-- Mark the record of slot k as arrived. -/
def arrive (k : Nat) (l : List TreeRec) : List TreeRec :=
  l.map fun r => if r.slot = k then { r with arrived := true } else r

/-- The oldest Sounding (or Census) whose contributions are complete and whose result has not arrived. -/
def inFlight (l : List TreeRec) : Option TreeRec := l.find? fun r => !r.arrived && r.value.isSome

/-- SOUNDING_RESULT (R165): the oldest Sounding in the tree reaches the master. -/
def execSoundingResult (n : Fin 64) (s : State) : Out :=
  match inFlight (getSeq s n).snds with
  | some r =>
    ok (updSeq n (fun q => { q with snds := arrive r.slot q.snds })
      (setF (fMSEQ_SND_LAST_SND n) (r.value.getD 0) s))
  | none => ok s

/-- CENSUS_RESULT (R166, R114): the oldest Census enters MSEQ_SND, and LAST_CENSUS of the record of a yield it
outlives, and raises interrupt 18. -/
def execCensusResult (n : Fin 64) (s : State) : Out :=
  let q := getSeq s n
  match inFlight q.cens with
  | some r =>
    let v := r.value.getD 0
    let s := setFs [(fMSEQ_SND_CEN_VALID n, 1), (fMSEQ_SND_LAST_CENSUS n, v)] s
    let s := if q.state = .yielded ∨ q.state = .trapped then
        setFs [(fRESUME5_CEN_VALID n, 1), (fRESUME5_LAST_CENSUS n, v)] s else s
    ok (raiseIrq n 18 (updSeq n (fun q => { q with cens := arrive r.slot q.cens }) s))
  | none => ok s

/-- A Census started before a yield or an array trap is still on its way to the record, so that a read of RESUME5 waits
(R114, R651). -/
def recordOpen (q : MSeq) : Bool :=
  (q.state == .yielded || q.state == .trapped) && q.cens.any (fun r => !r.arrived)

/-- A tree mismatch is counted and captured (R169, R175). -/
def treeCapture (n : Nat) (cen : Bool) (level f sl upc : Nat) (s : State) : State :=
  let s := satF (fSND_TREE_ERR_MM_CNT n) 1 s
  if bitF s (fSND_TREE_ERR_VALID n) then setF (fSND_TREE_ERR_OVF n) 1 s
  else setFs [(fSND_TREE_ERR_VALID n, 1), (fSND_TREE_ERR_CEN n, b2n cen), (fSND_TREE_ERR_LEVEL n, level),
    (fSND_TREE_ERR_TILE n, if level = 2 then tileOf f else 0), (fSND_TREE_ERR_FIELD n, if level ≤ 1 then f else 0),
    (fSND_TREE_ERR_SLICE n, if level = 0 then sl else 0), (fSND_TREE_ERR_UPC n, upc)] s

/-- The slot named by a report has come, or no slot will (R70, R171). -/
def reportNow (q : MSeq) (due : Nat) : Bool :=
  decide (due ≤ q.slot) || q.state == .idle || q.state == .yielded || q.state == .trapped || q.stop.isSome

/-- TREE_MISMATCH (R169): the oldest Sounding in the tree meets a mismatch, and the master traps in place of its slot.
With no Sounding in the tree and a group pending, the mismatch meets the exception channel (R196).
DESIGN CHOICE (log 158): such a mismatch stays with the group, as a failure mark does (R544): after RESUME with ACTION 0
or 1 the COMMIT traps again, and it goes when the group is discarded. -/
def execTreeMismatch (n : Fin 64) (level : Fin 4) (f : Fin 64) (sl : Fin 256) (s : State) : Out :=
  let q := getSeq s n
  let l := ((partAt s n).map lSnd).getD 4
  match inFlight q.snds with
  | some r =>
    if reportNow q (r.slot + l) then
      let s := treeCapture n false level f sl r.upc.toNat s
      let s := updSeq n (fun q => { q with snds := q.snds.filter (fun e => decide (e.slot ≠ r.slot)) }) s
      ok (devLogF 4 3 n n (treeErrValue s n) (machineCheck n 4 r.apc s))
    else ok s
  | none =>
    if q.pend then
      ok (updSeq n (fun q => { q with excMark := true }) (treeCapture n false level f sl q.upc.toNat s))
    else ok s

/-- CENSUS_MISMATCH (R170): as for a Sounding, at slot k + 24. -/
def execCensusMismatch (n : Fin 64) (level : Fin 4) (f : Fin 64) (sl : Fin 256) (s : State) : Out :=
  let q := getSeq s n
  match inFlight q.cens with
  | some r =>
    if reportNow q (r.slot + 24) then
      let s := treeCapture n true level f sl r.upc.toNat s
      let s := updSeq n (fun q => { q with cens := q.cens.filter (fun e => decide (e.slot ≠ r.slot)) }) s
      ok (devLogF 4 3 n n (treeErrValue s n) (machineCheck n 4 r.apc s))
    else ok s
  | none => ok s

/-- UE_REPORT (R70, R105): the oldest report reaches the master in its slot and stops the routine with cause 10. -/
def execUeReport (n : Fin 64) (s : State) : Out :=
  let q := getSeq s n
  match q.reports with
  | [] => ok s
  | r :: t =>
    if reportNow q r.due then
      let s := updSeq n (fun q => { q with reports := t }) s
      let s := machineCheck n r.mcsrc r.apc s
      ok (if r.mcsrc = 1 then devLogF 1 3 r.field r.field (errCapValue s r.field) s
        else devLogF 2 3 r.field r.field (almCapValue s n) s)
    else ok s

/-! ### RESUME, ABORT and the park list (R116, R117, R302) -/

/-- The Soundings that a record restores (R116, R135): LAST_SND, and those of the words 1 to 9 slots back. An entry that a
branch in the next slot would test has the value LAST_SND; one whose result is still on its way keeps it (log 154). -/
def recordSnds (s : State) (n l : Nat) (q : MSeq) : List TreeRec :=
  let v := getF s (fRESUME5_PVLD n)
  let last := getF s (fRESUME5_LAST_SND n)
  let val (i : Nat) : Nat :=
    if l ≤ i ∧ (List.range i).all (fun j => decide (j < l) || !v.testBit (j - 1)) then last
    else b2n ((getF s (fRESUME5_PVAL n)).testBit (i - 1))
  let old (i : Nat) : List TreeRec :=
    if v.testBit (i - 1) then
      match q.snds.find? fun r => r.slot + i == q.slot && !r.arrived with
      | some r => [r]
      | none => [⟨q.slot - i, 0, q.recApc, some (val i), true⟩]
    else []
  ⟨q.slot - 64, 0, q.recApc, some last, true⟩ :: ((List.range 9).reverse.flatMap fun i => old (i + 1))

/-- Issue restarts from the resume record (R116, R202), or the request is ignored. ACTION acts on records of KIND 3
and 4 (R197, R544; log 155). DESIGN CHOICE: FRA, FRB and LP above 64 are taken as they are, so that a load then sets
LD_OVF and a STEP adds nothing and never exchanges (log 159); that a row has been loaded since the last exchange (R179)
stays as it was before RESUME (log 160). -/
def resumeIssue (n : Nat) (s : State) : State :=
  let q := getSeq s n
  if (q.state = .yielded ∨ q.state = .trapped) ∧ bitF s (fRESUME0_VALID n) ∧ getF s (fRESUME0_DEPTH n) ≤ 4 then
    let g (f : Nat → Fld) : Nat := getF s (f n)
    let l := ((partAt s n).map lSnd).getD 4
    let kind := g fRESUME0_KIND
    let action := if kind = 3 ∨ kind = 4 then g fRESUME7_ACTION else 0
    let snds := recordSnds s n l q
    let s := if action = 2 then discardGroup n s else s
    let s := if action = 1 ∨ action = 2 then setF (fRESUME7_ACTION n) 0 s else s
    let s := setFs [(fRESUME0_VALID n, 0), (fMSEQ_CTL_RESUME n, 0)] s
    let out (e : QEntry) : QEntry := { e with released := false }
    let rem := g fRESUME0_HOLD_REM
    let hold := bitF s (fRESUME0_IN_HOLD n)
    let b13 (v : Nat) : BitVec 13 := BitVec.ofNat 13 v
    let b16 (v : Nat) : BitVec 16 := BitVec.ofNat 16 v
    let stk := [g fRESUME4_STK0, g fRESUME4_STK1, g fRESUME4_STK2, g fRESUME4_STK3].take (g fRESUME0_DEPTH) |>.map b13
    updSeq n (fun q =>
      let q := { q with
        queue := q.queue.map out, swYield := false, hubSvc := false,
        fra := g fRESUME6_FRA, frb := g fRESUME6_FRB, bank := g fRESUME6_BANK == 1, lp := g fRESUME6_LP,
        opt := g fRESUME6_OPT, snds := snds, mask := action == 1, skip := action == 2,
        ptrs := ⟨b16 (g fRESUME1_C0), b16 (g fRESUME1_C1), b13 (g fRESUME2_P1), b13 (g fRESUME2_P2),
          b13 (g fRESUME2_P3), b16 (g fRESUME1_C0_INIT), b16 (g fRESUME1_C1_INIT), b13 (g fRESUME3_P1_INIT),
          b13 (g fRESUME3_P2_INIT), b13 (g fRESUME3_P3_INIT), b16 (g fRESUME2_DPARAM)⟩ }
      if kind = 5 then nextRoutine q
      else { q with
        state := .issuing, stack := stk, cur := some ⟨q.recApc, false, 0⟩,
        upc := if hold && rem == 0 then b13 (g fRESUME0_UPC) + 1 else b13 (g fRESUME0_UPC),
        hold := if hold && rem != 0 then some rem else none }) s |> takeIfIdle n
  else setF (fMSEQ_CTL_RESUME n) 0 s

/-- ABORT (R117): the stopped routine, its record and its group go, and the queue continues. While a hub operation is
in service the array stays with the hub, and the next entry is taken when it ends. -/
def abortRoutine (n : Nat) (s : State) : State :=
  let q := getSeq s n
  if q.state = .yielded ∨ q.state = .trapped then
    let s := setFs [(fRESUME0_VALID n, 0), (fMSEQ_CTL_RESUME n, 0)] (discardGroup n s)
    let gone (q : MSeq) : MSeq := { q with swYield := false, mask := false, skip := false }
    if q.hubSvc then
      updSeq n (fun q => { gone q with cur := none, hold := none, stack := [], state := .yielded, aborted := true }) s
    else takeIfIdle n (updSeq n (fun q => nextRoutine (gone q)) s)
  else s

/-- The hub's operation on a yielded partition ends: issue resumes unless software also asked (R115, R118). -/
def hubRelease (n : Nat) (s : State) : State :=
  let q := getSeq s n
  let s := updSeq n (fun q => { q with hubSvc := false, aborted := false }) s
  if q.hubSvc ∧ q.state = .yielded ∧ ¬ q.swYield then
    if q.aborted then takeIfIdle n (updSeq n nextRoutine s) else resumeIssue n s
  else s

/-- PARK (R302). While a hub operation is in service STATE becomes IDLE when it ends, as for ABORT (log 24). -/
def parkEntries (n : Nat) (s : State) : State :=
  let q := getSeq s n
  if (q.state = .yielded ∨ q.state = .trapped) ∧ ¬ q.pend ∧ q.park.length + q.queue.length ≤ 16 then
    let s := setFs [(fRESUME0_VALID n, 0), (fMSEQ_CTL_RESUME n, 0)] (discardGroup n s)
    updSeq n (fun q => { q with
      park := q.park ++ q.queue.map (fun e => { e with released := true }), queue := [], cur := none,
      state := if q.hubSvc then .yielded else .idle, aborted := q.hubSvc, hold := none, stack := [],
      swYield := false, mask := false, skip := false }) s |> takeIfIdle n
  else setF (fPARK_CTL_REJ n) 1 s

/-- UNPARK (R302): the moved entries are outstanding again (R291). -/
def unparkEntries (n : Nat) (s : State) : State :=
  let q := getSeq s n
  if (q.state = .yielded ∨ q.state = .trapped) ∧ q.park.length + q.queue.length ≤ 16 then
    updSeq n (fun q => { q with queue := q.park.map (fun e => { e with released := false }) ++ q.queue, park := [] }) s
  else setF (fPARK_CTL_REJ n) 1 s

/-- DROP (R302). -/
def dropEntries (n : Nat) (s : State) : State := updSeq n (fun q => { q with park := [] }) s

/-- A software preemption request (R112). -/
def yieldRequest (n : Nat) (s : State) : State :=
  takeIfIdle n (updSeq n (fun q => { q with pendSw := true }) (setF (fMSEQ_CTL_YIELD_REQ n) 1 s))

/-- A HALO_ACK pulse of segment 4 * g + m (R160): it acknowledges the oldest request of the segment. -/
def haloAck (seg : Nat) (s : State) : State :=
  match s.parts.find? (fun e => (List.range 4).any fun d => (sideSegs e.1 e.2 d).contains seg) with
  | none => s
  | some (n, _) =>
    let c := tget 0 (getSeq s n).halo seg
    if segUsable s seg then
      if c = 0 then setF (fEDGE_STATUS_HALO_SPUR n) 1 s
      else updSeq n (fun q => { q with
        halo := tset 0 q.halo seg (c - 1),
        haloAge := match q.haloAge.find? (fun e => e.1 == seg) with
          | some e => q.haloAge.erase e
          | none => q.haloAge }) s
    else s
/-- HALO_ACK (R160). -/
def execHaloAck (g : Fin 8) (m : Fin 4) (s : State) : Out := ok (haloAck (4 * g.val + m.val) s)

/-- CLR of HALO_STAT (R162). -/
def haloClear (n : Nat) (s : State) : State := updSeq n (fun q => { q with halo := [], haloAge := [] }) s

end Sys2Proof.Machine
end

