-- ==== Sys2Proof/Machine/Jobs.lean ====
section
/-! DEFINITION. Descriptors in progress and their completion entries (R338, R343–R346), and the start and halt of a
core's image (R282, R285, R289, R339). -/
namespace Sys2Proof.Machine
open Sys2Proof

/-! ### Descriptors -/

/-- Bits of a descriptor's doubleword i. -/
def dBits (j : Job) (i lo w : Nat) : Nat := bits (j.d.getD i 0) lo w
/-- TARGET of a descriptor (R335). -/
def jTarget (j : Job) : Nat := dBits j 0 16 6
def findJob (s : State) (id : Nat) : Option Job := s.jobs.find? fun j => j.id == id
/-- Replace a descriptor in progress by its updated form. -/
def updJob (id : Nat) (g : Job → Job) (s : State) : State :=
  { s with jobs := s.jobs.map fun j => if j.id = id then g j else j }
/-- The oldest running descriptor that satisfies a condition. -/
def runningJob (s : State) (p : Job → Bool) : Option Job := s.jobs.find? fun j => j.phase == .running && p j

/-- The opcodes whose data a DMA engine moves (R381). -/
def usesEngine (op : Nat) : Bool := [2, 3, 4, 5, 6, 7, 0xB, 0xD].contains op
/-- A descriptor that needs an engine and has none: it runs, or is ready to; past stage 0 none is needed any more. -/
def wantsEngine (j : Job) : Bool :=
  usesEngine j.op && j.eng.isNone && (j.phase == .ready || (j.phase == .running && j.stage == 0))
/-- The descriptor that the next engine goes to: engines are given in the order of fetching, over all rings (R381). -/
def engineNext (s : State) : Option Job :=
  (s.jobs.filter wantsEngine).foldl (fun best j => match best with
    | some b => if j.id < b.id then some j else best
    | none => some j) none
/-- The lowest-numbered free engines go to the descriptors that wait for one (R381, R389); one that is ready and has not
started yet keeps its place. -/
def giveEngines : Nat → State → State
  | 0, s => s
  | k + 1, s =>
    match engineNext s, (List.range 16).find? (fun e => !bitF s (fDMA_STAT_BUSY e)) with
    | some j, some e =>
      if j.phase = .running then
        giveEngines k (setFs [(fDMA_STAT_BUSY e, 1), (fDMA_STAT_FUNC e, j.func), (fDMA_STAT_RING e, j.ring), (fDMA_STAT_DONE e, 0)]
          (updJob j.id (fun j => { j with eng := some e }) s))
      else s
    | _, _ => s
def giveEngine (s : State) : State := giveEngines 16 s
/-- A descriptor has left or needs its DMA engine no more: the engine is free again, and engines go to those that wait
(R381). -/
def freeEngine (j : Job) (s : State) : State :=
  giveEngine (match j.eng with
    | some e => setF (fDMA_STAT_BUSY e) 0 s
    | none => s)

/-- A load has read its source: it goes on to a stage without its engine (R381). -/
def leaveEngine (id stage : Nat) (s : State) : State :=
  match findJob s id with
  | some j => freeEngine j (updJob id (fun j => { j with stage := stage, eng := none }) s)
  | none => s

/-- Q0 and Q1 of a completion entry (R343). -/
def cqeQ0 (s : State) (j : Job) : Nat :=
  j.tag + j.index * 2 ^ 32 + getF s (fRING_PTR_HEAD j.ring) * 2 ^ 48
def cqeQ1 (j : Job) (status detail : Nat) : Nat :=
  detail % 2 ^ 32 + j.ring * 2 ^ 32 + j.op * 2 ^ 48 + status * 2 ^ 56

/-- A completion entry is written to the completion ring its submission ring names (R343, R344). -/
def writeCqe (h : HeldCqe) (s : State) : State :=
  let r := h.job.ring
  let s := ringWrite (getF s (fRING_CFG_CQ r)) (cqeQ0 s h.job) (cqeQ1 h.job h.status h.detail) s
  setF (fRING_PTR_IN_FLIGHT r) (getF s (fRING_PTR_IN_FLIGHT r) - 1) s

/-- The completion must wait: its ring is full, an earlier one for it waits, or entries are held (R346, R560, R548). -/
def cqeBlocked (s : State) (cq : Nat) : Bool :=
  s.cqHold || bitF s fDEV_ERR_FATAL || ringFull s cq ||
    s.heldCqe.any fun h => getF s (fRING_CFG_CQ h.job.ring) == cq

/-- A descriptor ends with a status: it completes, waits for space in its completion ring, or completes without an
entry under SUPPRESS (R335, R346, R351). -/
def completeJob (id status detail : Nat) (s : State) : State :=
  match findJob s id with
  | none => s
  | some j =>
    let s := freeEngine j { s with jobs := s.jobs.filter fun k => k.id != id }
    if j.mute then s
    else if j.suppress ∧ (status = 0 ∨ status = 11) then
      setF (fRING_PTR_IN_FLIGHT j.ring) (getF s (fRING_PTR_IN_FLIGHT j.ring) - 1) s
    else
      let cq := getF s (fRING_CFG_CQ j.ring)
      if cqeBlocked s cq then
        let s := { s with heldCqe := s.heldCqe ++ [⟨j, status, detail⟩] }
        if ringFull s cq then setF (fRING_STAT_FULL_HELD cq) 1 s else s
      else writeCqe ⟨j, status, detail⟩ s

/-- Held completions are written in the order they finished while their rings have space; a full one shows FULL_HELD
(R346, R358). -/
def releaseCqes : List HeldCqe → State → State
  | [], s => s
  | h :: t, s =>
    let cq := getF s (fRING_CFG_CQ h.job.ring)
    if s.cqHold || bitF s fDEV_ERR_FATAL || ringFull s cq ||
        s.heldCqe.any (fun k => getF s (fRING_CFG_CQ k.job.ring) == cq) then
      let s := { s with heldCqe := s.heldCqe ++ [h] }
      releaseCqes t (if ringFull s cq then setF (fRING_STAT_FULL_HELD cq) 1 s else s)
    else releaseCqes t (writeCqe h s)
/-- Every held completion that can be written is written. -/
def releaseHeld (s : State) : State := releaseCqes s.heldCqe { s with heldCqe := [] }

/-! ### Images (R282, R285, R289, R339) -/

/-- The physical register that w8 to w31 name through the current window (R256). -/
def winIdx (c : Core) (r : Nat) : Nat := (c.cwp + r + 488) % 504
/-- A register as an operation sees it. -/
def readReg (c : Core) (r : Nat) : Word := if r < 8 then tget 0 c.shared r else tget 0 c.window (winIdx c r)
/-- Write a register. -/
def writeReg (r : Nat) (v : Word) (c : Core) : Core :=
  if r < 8 then { c with shared := tset 0 c.shared r v }
  else { c with window := tset 0 c.window (winIdx c r) v }

/-- The image of sequencer n starts at ENTRY with the registers of R282 and D2 to D5 in w8 to w11 (R285, R339). -/
def startImage (n : Nat) (j : Job) (s : State) : State :=
  let c := getCore s n
  let w (i : Nat) : Word := BitVec.ofNat 64 (j.d.getD i 0)
  let c := { Core.reset with imem := c.imem, cache := c.cache, launched := true, start := some s.ticks, state := .running,
                             pc := BitVec.ofNat 14 (dBits j 1 0 14) }
  let c := writeReg 11 (w 5) (writeReg 10 (w 4) (writeReg 9 (w 3) (writeReg 8 (w 2) (writeReg 7 0x20000 c))))
  setFs [(fTIMER_COMPARE n, 0), (fHMSG_OUT_DATA n, 0)] (setCore n c (almYield n s))

/-- The LAUNCH of sequencer n whose image has started. -/
def launchOf (s : State) (n : Nat) : Option Job := runningJob s fun j => j.op == 1 && jTarget j == n && j.stage == 1

/-- The core of sequencer n halts: HALT_WHY is recorded, the HALT bit clears and its LAUNCH completes (R289, R339). -/
def haltCore (n why : Nat) (s : State) : State :=
  let c := getCore s n
  if c.state = .halted then setF (fSEQ_CTL_HALT n) 0 s else
    let s := setFs [(fSEQ_STATUS_HALT_WHY n, why), (fSEQ_CTL_HALT n, 0)]
      (setCore n { c with state := .halted, rep := none, mid := false, trap := none, launched := false } s)
    let s := settleTrap n s
    match launchOf s n with
    | some j => completeJob j.id 0 (why + bits (readReg c 8).toNat 0 24 * 2 ^ 8) s
    | none => s

/-- The conditions of R285 for a start: core HALTED, micro-sequencer IDLE with nothing queued, nothing parked. -/
def launchable (s : State) (n : Nat) : Bool :=
  let q := getSeq s n
  (getCore s n).state == .halted && q.state == .idle && q.queue.isEmpty && q.park.isEmpty

end Sys2Proof.Machine
end

