-- ==== Sys2Proof/Machine/FabBase.lean ====
section
/-! DEFINITION. The memory blocks of the boundary fabric: frames, stored units with their error code, queues, and the
blocks that links and lanes use (R490–R495). -/
namespace Sys2Proof.Machine
open Sys2Proof

def getStrip (s : State) (g : Nat) : Strip := tget Strip.reset s.strips g
def updStrip (g : Nat) (f : Strip → Strip) (s : State) : State :=
  { s with strips := tset Strip.reset s.strips g (f (getStrip s g)) }
def getBlk (s : State) (g k : Nat) : Blk := tget Blk.reset (getStrip s g).blocks k
def updBlk (g k : Nat) (f : Blk → Blk) (s : State) : State :=
  updStrip g (fun x => { x with blocks := tset Blk.reset x.blocks k (f (tget Blk.reset x.blocks k)) }) s

/-! ### Block frames (R501) -/

/-- The frame of block k of strip g; 0, an unused block, before its reach is loaded. -/
def blkFrame (s : State) (g k : Nat) : Nat := (tget 0 (getStrip s g).frames k).toNat
def bfMode (f : Nat) : Nat := bits f 0 4
def bfWidth (f : Nat) : Nat := bits f 4 3
def bfEcc (f : Nat) : Bool := f.testBit 7
def bfBind (f : Nat) : Nat := bits f 8 5
def bfTreeA (f : Nat) : Nat := bits f 13 2
def bfTreeB (f : Nat) : Nat := bits f 15 2
def bfAe (f : Nat) : Nat := bits f 17 12
def bfAf (f : Nat) : Nat := bits f 29 12
/-- Entries D of a width (R490). -/
def widthD (w : Nat) : Nat := [4096, 2048, 1024, 512, 128].getD w 0
/-- Units of an entry, and the data bits of a unit (R490, R508). -/
def unitsOf (w : Nat) : Nat := if w = 4 then 4 else 1
def unitBits (f : Nat) : Nat :=
  match bfWidth f with | 0 => 9 | 1 => 18 | 2 => 36 | 3 => if bfEcc f then 64 else 72 | _ => 56
/-- Every unit of the block. -/
def unitCount (f : Nat) : Nat := unitsOf (bfWidth f) * widthD (bfWidth f)
def isRam (f : Nat) : Bool := bfMode f == 1 || bfMode f == 2
def isQueue (f : Nat) : Bool := decide (3 ≤ bfMode f)
/-- Port A, and port B, belong to user logic (R490). -/
def userA (f : Nat) : Bool := [1, 2, 3, 4, 5, 8].contains (bfMode f)
def userB (f : Nat) : Bool := [1, 2, 3, 4, 6, 7].contains (bfMode f)
/-- Entries pushed reach the reader, and freed space the writer, through a crossing whose age the receiving clock's own
cycles count: an edge of a tree, or a word of a lane (R31). -/
def crossB (f : Nat) : Bool := [4, 6, 7, 8].contains (bfMode f)
def crossA (f : Nat) : Bool := [4, 5, 7, 8].contains (bfMode f)
/-- Cycles of the link core clock, 1.66 GHz, in some ticks (R30). -/
def linkCycles (t : Nat) : Nat := t * 83 / 3900
/-- What crossed into the link core clock at tick t is there at tick `now`: after N + 1 to N + 2 of its cycles, N = 3
(R31). -/
def linkRipe (now late t : Nat) : Bool := decide (4 + late ≤ linkCycles now - linkCycles t)
/-- How many of some ages have reached a clock of depth n. -/
def ripe (ages : List Nat) (n : Nat) (late : Bool) : Nat :=
  (ages.takeWhile fun a => decide (n + 2 ≤ a) || (decide (n + 1 ≤ a) && !late)).length

/-! ### Stored units (R493) -/

/-- A read of unit u as stored, corrected where the code allows: the value, and 0, 1 corrected, 2 uncorrectable. -/
def readUnit (g k u : Nat) (s : State) : Nat × Nat × State :=
  let b := getBlk s g k
  let v := (tget 0 b.mem u).toNat
  let m := tget 0 b.err u
  if m = 0 ∨ ¬ bfEcc (blkFrame s g k) then (v, 0, s)
  else
    let (d, s) := draw s
    let (fix, r) := decodeRow m d
    ((v ^^^ fix.toNat) % 2 ^ unitBits (blkFrame s g k), (match r with | none => 0 | some (ue, _) => if ue then 2 else 1), s)
/-- A correction or an uncorrectable read of block k, whose unit u is named, counts (R493). -/
def blkNote (g k u r : Nat) (s : State) : State :=
  if r = 1 then satF (fFAB_BLK_CE_CNT g k) 1 s
  else if r = 2 then
    devLogM 13 2 0 (0x50 + g) (0x90 + g) (g + k / 2 * 2 ^ 8 + k * 2 ^ 16 + u * 2 ^ 32) 0 (satF (fFAB_BLK_UE_CNT g k) 1 s)
  else s
/-- A read of entry e: its data, and the worst of what its units show. -/
def readEntry (g k e : Nat) (s : State) : Nat × Nat × State :=
  let f := blkFrame s g k
  let n := unitsOf (bfWidth f)
  (List.range n).foldl (fun (v, r, s) p =>
    let (x, q, s) := readUnit g k (n * e + p) s
    (v + x * 2 ^ (56 * p), max r q, s)) (0, 0, s)
/-- The read counts and logs what it found. -/
def noteEntry (g k e r : Nat) (s : State) : State :=
  blkNote g k (unitsOf (bfWidth (blkFrame s g k)) * e) r s
/-- A write of entry e with correct check bits. -/
def writeEntry (g k e v : Nat) (s : State) : State :=
  let f := blkFrame s g k
  let n := unitsOf (bfWidth f)
  (List.range n).foldl (fun s p => updBlk g k (fun b => { b with
    mem := tset 0 b.mem (n * e + p) (BitVec.ofNat 72 (bits v (56 * p) (unitBits f))),
    err := tset 0 b.err (n * e + p) 0 }) s) s

/-! ### Queues (R492) -/

/-- Whether pushed entries, and freed space, wait for the link core clock of a HALO channel: then they keep the tick at
which they crossed. -/
def linkB (f : Nat) : Bool := bfMode f == 5
def linkA (f : Nat) : Bool := bfMode f == 6
/-- The occupancy as the writer sees it. -/
def blkHeld (b : Blk) : Nat := b.ages.length + b.freed.length
/-- FULL toward the writer. -/
def blkFull (s : State) (g k : Nat) : Bool := blkHeld (getBlk s g k) == widthD (bfWidth (blkFrame s g k))
/-- An entry is stored at the tail; only in a single-clock queue is it seen at once. -/
def storeTail (g k v : Nat) (s : State) : State :=
  let f := blkFrame s g k
  let b := getBlk s g k
  let s := writeEntry g k ((b.head + b.ages.length) % widthD (bfWidth f)) v s
  updBlk g k (fun b => { b with
    ages := b.ages ++ [if linkB f then s.ticks else 0], vis := if crossB f || linkB f then b.vis else b.vis + 1 }) s
/-- A push (R492). -/
def pushBlk (g k v : Nat) (s : State) : State :=
  if blkFull s g k then setF (fFAB_BLK_OVF g k) 1 s else storeTail g k v s
/-- The head leaves; what it held was read, and the reading port shows UE for one cycle. -/
def dropHead (g k : Nat) (s : State) : Nat × State :=
  let f := blkFrame s g k
  let b := getBlk s g k
  let (v, r, s) := readEntry g k b.head s
  let s := noteEntry g k b.head r s
  (v, updBlk g k (fun b => { b with
    head := (b.head + 1) % widthD (bfWidth f), ages := b.ages.tail, vis := b.vis - 1,
    freed := if linkA f then b.freed ++ [s.ticks] else if crossA f then b.freed ++ [0] else b.freed, ueB := r == 2 }) s)
/-- A pop (R492): the entry, unless the reader sees none. -/
def popBlk (g k : Nat) (s : State) : Option Nat × State :=
  if (getBlk s g k).vis = 0 then (none, setF (fFAB_BLK_UNF g k) 1 s)
  else
    let (v, s) := dropHead g k s
    (some v, s)
/-- The link of a HALO channel looks at the queue it pops: entries that have crossed are there. -/
def linkSees (g k : Nat) (late : Bool) (s : State) : State :=
  updBlk g k (fun b => { b with vis := max b.vis (b.ages.takeWhile (linkRipe s.ticks (b2n late))).length }) s
/-- The link of a HALO channel looks at the queue it pushes: space that has crossed is free. -/
def linkFreed (g k : Nat) (s : State) : State :=
  updBlk g k (fun b => { b with freed := b.freed.filter fun t => !linkRipe s.ticks 1 t }) s
/-- A block that is emptied as a queue. -/
def emptyQueue (b : Blk) : Blk := { b with head := 0, ages := [], vis := 0, freed := [], ueA := false, ueB := false }

/-! ### Links and lanes (R495) -/

/-- The block of strip g in a mode, bound to a channel or lane. -/
def boundBlk (s : State) (g mode c : Nat) : Option Nat :=
  (List.range 32).find? fun k => bfMode (blkFrame s g k) == mode && bfBind (blkFrame s g k) == c
/-- The free space that the peer may be given credit for on a channel, as the link sees it; none without a receive
block. -/
def haloFree (s : State) (g c : Nat) : Nat :=
  match boundBlk s g 6 c with
  | some k => widthD 4 - blkHeld (getBlk (linkFreed g k s) g k)
  | none => 0
/-- Link g goes down: its blocks in modes 5 and 6 are emptied; the transmit entries discarded. -/
def haloDropped (s : State) (g : Nat) : Nat :=
  ((List.range 32).map fun k => if bfMode (blkFrame s g k) = 5 then (getBlk s g k).ages.length else 0).sum
def emptyHalo (g : Nat) (s : State) : State :=
  ((List.range 32).filter fun k => bfMode (blkFrame s g k) == 5 || bfMode (blkFrame s g k) == 6).foldl
    (fun s k => updBlk g k emptyQueue s) s
/-- A reset of link g empties every queue bound to it or to its lanes (R32). -/
def emptyLinkQueues (g : Nat) (s : State) : State :=
  ((List.range 32).filter fun k => decide (5 ≤ bfMode (blkFrame s g k))).foldl
    (fun s k => updBlk g k (fun b => { emptyQueue b with last := 0 }) s) s

end Sys2Proof.Machine
end

