-- ==== Sys2Proof/Machine/Fleet.lean ====
section
/-! DEFINITION. What the fleet links, the Meridian and the barriers share: flits offered and received, election of
the master, the tree, barrier generations, and a link going down (chapters 14 and 15). -/
namespace Sys2Proof.Machine
open Sys2Proof

/-! ### Links (R425) -/

def linkLanes (j : Nat) : Nat := if j < 8 then 24 else 32
def linkDomain (j : Nat) : Nat := if j < 8 then 28 + j else 36
def linkNode (j : Nat) : Nat := if j < 8 then 0x98 + j else 0xA0
/-- The link the peer of link j calls its own. -/
def peerLink (j : Nat) : Nat := [4, 3, 6, 1, 0, 7, 2, 5, 9, 8].getD j 0
def getLink (s : State) (j : Nat) : Link := tget Link.reset s.links j
def updLink (j : Nat) (g : Link → Link) (s : State) : State :=
  { s with links := tset Link.reset s.links j (g (getLink s j)) }
def linkState (s : State) (j : Nat) : Nat := getF s (fLINK_STAT_STATE j)
def linkActive (s : State) (j : Nat) : Bool := linkState s j = 6
/-- A LINK event (R454). -/
def linkEvent (j data : Nat) (s : State) : State := postEvent 0 7 j data s
/-- Offer a flit to the transmitter of an ACTIVE link; CONTROL flits go during bring-up too (R437–R440). -/
def sendFlit (j : Nat) (f : Flit) (s : State) : State :=
  if linkActive s j || (f.cls.toNat == 5 && (linkState s j == 4 || linkState s j == 5)) then
    updLink j (fun l => { l with txq := l.txq ++ [f] }) s else s
/-- Bits of the payload of a flit. -/
def pBits (f : Flit) (lo w : Nat) : Nat := bits f.p.toNat lo w

/-! ### The Meridian's election (R463, R464, R466) -/

def ownIdx (s : State) : Nat := getF s fFLEET_ID_FX + 16 * getF s fFLEET_ID_FY + 256 * getF s fFLEET_ID_FZ
/-- Candidate (prio, idx) is better than another; for the same candidate fewer hops, then the lower link. -/
def better (a b : Nat × Nat × Nat × Nat) : Bool :=
  let (p, i, h, j) := a
  let (p', i', h', j') := b
  decide (p > p') || (p == p' && (decide (i < i') || (i == i' && (decide (h < h') || (h == h' && decide (j < j'))))))
/-- The best candidate known, as (prio, idx, hops, link); link 16 is the package itself. -/
def bestCand (s : State) : Option (Nat × Nat × Nat × Nat) :=
  let own : List (Nat × Nat × Nat × Nat) :=
    if getF s fMER_CTL_PRIO = 0 then [] else [(getF s fMER_CTL_PRIO, ownIdx s, 0, 16)]
  let all := own ++ (s.cands.filter (fun e => e.2.prio != 0)).map fun e => (e.2.prio, e.2.idx, e.2.hops, e.1)
  all.foldl (fun b c => match b with | none => some c | some x => if better c x then some c else some x) none
/-- The parent link, if the package has one. -/
def parentLink (s : State) : Option Nat :=
  match bestCand s with
  | some (_, _, _, j) => if j = 16 then none else some j
  | none => none
/-- The children: links whose ANNOUNCE flits carry PARENT = 1. -/
def children (s : State) : List Nat := uniq ((s.cands.filter fun e => e.2.child && linkActive s e.1).map (·.1))

def merState (s : State) : Nat := getF s fMER_STAT_STATE
/-- A WATCH event about the Meridian (R475). -/
def merEvent (code : Nat) (s : State) : State := postEvent 0 5 0x0100 (code + merState s * 2 ^ 8) s
/-- A change of the Meridian's state (R466). -/
def setMerState (st : Nat) (s : State) : State :=
  if merState s = st then s else merEvent 2 { setF fMER_STAT_STATE st s with locks := 0 }

/-! ### Barriers (R476, R477) -/

def getBar (s : State) (b : Nat) : Barrier := tget Barrier.reset s.barriers b
def updBar (b : Nat) (g : Barrier → Barrier) (s : State) : State :=
  { s with barriers := tset Barrier.reset s.barriers b (g (getBar s b)) }
def arriveFlit (s : State) (b : Nat) : Flit := mkFlit 4 0 false (1 + b * 2 ^ 8 + getF s (fBAR_STAT_GEN b) * 2 ^ 12)
def releaseFlit (b g t : Nat) : Flit := mkFlit 4 0 false (2 + b * 2 ^ 8 + g * 2 ^ 12 + t * 2 ^ 20)
/-- RELEASE with its time goes to every child, and the package keeps it (R476). -/
def releaseDown (b t : Nat) (s : State) : State :=
  let s := (children s).foldl (fun s j => sendFlit j (releaseFlit b (getF s (fBAR_STAT_GEN b)) t) s) s
  updBar b (fun x => { x with release := some t }) s
/-- A package that has arrived, with every child, sends ARRIVE up, or as the master releases (R476). -/
def barrierUp (b : Nat) (s : State) : State :=
  let x := getBar s b
  if bitF s (fBAR_STAT_ARRIVED b) ∧ x.release = none ∧ ¬ x.sentUp ∧ (children s).all (fun j => x.kids.contains j) then
    if merState s = 4 then
      let e := if 8 ≤ b then getF s (fWATCH_NEXT_END (56 + b)) else 0
      releaseDown b (max (merNs s + getF s fBAR_CFG_SKEW) e) s
    else match parentLink s with
      | some j => updBar b (fun x => { x with sentUp := true }) (sendFlit j (arriveFlit s b) s)
      | none => s
  else s
/-- Parent or children have changed, or the package has become the master (R477): arrivals of links that are no children are
forgotten, and open generations completed upward are reported again, or released. -/
def treeChange (s : State) : State :=
  (List.range 16).foldl (fun s b =>
    barrierUp b (updBar b (fun x => { x with
      kids := x.kids.filter fun j => (children s).contains j,
      early := x.early.filter fun j => (children s).contains j, sentUp := false }) s)) s

/-- The election is held again (R464, R466); `kids` are the children before. -/
def elect (kids : List Nat) (par : Option Nat) (s : State) : State :=
  let old := s.master
  let st := merState s
  let best := bestCand s
  let new := best.map fun c => c.2.1
  let (j, h) := match best with | some (_, _, h, j) => (j, h) | none => (16, 0)
  let st' := match best with
    | none => if st = 2 ∨ st = 3 then 3 else 0
    | some _ => if j = 16 then 4 else if st = 2 then 2 else 1
  let s := setFs [(fMER_STAT_PARENT, if j = 16 then 0 else j), (fMER_STAT_HOPS, h), (fMER_STAT_MIDX, new.getD 0)]
    { s with master := new }
  let s := setMerState st' s
  let s := if new = old then s else merEvent 3 s
  if kids = children s ∧ par = parentLink s ∧ (st = 4 ∨ st' ≠ 4) then s else treeChange { s with exch := none }

/-- Change what is known of the candidates, and hold the election again. -/
def updCands (g : List (Nat × Cand) → List (Nat × Cand)) (s : State) : State :=
  elect (children s) (parentLink s) { s with cands := g s.cands }

/-! ### Going down (R443) -/

/-- A link leaves ACTIVE for a reason of DOWN_WHY, or leaves bring-up. -/
def linkDown (j why : Nat) (s : State) : State :=
  let st := linkState s j
  let l := getLink s j
  let next := if bitF s (fLINK_CTL_ENABLE j) ∧ 2 ≤ why ∧ why ≤ 5 then 1 else 0
  let halo := (l.txq ++ l.rxq).countP (fun f => f.cls == 1) + (if st = 6 ∧ j < 8 then haloDropped s j else 0)
  let tun := l.tun.map fun t =>
    if t.out = [] then t else { t with out := [], fail := some (t.fail.getD 6) }
  let kids := children s
  let par := parentLink s
  let lost := par == some j && merState s == 2
  let s := updLink j (fun l => { Link.reset with tunQ := l.tunQ, tun := tun }) s
  let s := setFs [(fLINK_STAT_STATE j, next), (fLINK_STAT_AUTH_OK j, 0), (fLINK_STAT_TX_N j, 0), (fLINK_STAT_RX_N j, 0),
    (fLANE_MAP_TX_ACT j, 0), (fLANE_MAP_RX_ACT j, 0)] s
  if st = 6 then
    let s := if j < 8 then emptyHalo j s else s
    let s := satF (fLINK_STAT_HALO_DROP j) halo (setF (fLINK_STAT_DOWN_WHY j) why s)
    let s := linkEvent j (2 + why * 2 ^ 16) s
    let s := { s with cands := s.cands.filter fun e => e.1 != j }
    elect kids par (if lost then setMerState 3 s else s)
  else s

/-! ### Watches that follow a fleet watch, and watches that stop (R469, R470, R474) -/

def getWatch (s : State) (w : Nat) : Watch := tget Watch.reset s.watches w
def updWatch (w : Nat) (g : Watch → Watch) (s : State) : State :=
  { s with watches := tset Watch.reset s.watches w (g (getWatch s w)) }
/-- Sequencer watches that follow fleet watch w (R474). -/
def followers (s : State) (w : Nat) : List Nat :=
  (List.range 64).filter fun n =>
    bitF s (fWATCH_CFG_ENABLE n) && bitF s (fWATCH_MODE_FOLLOW_EN n) && getF s (fWATCH_MODE_FOLLOW n) + 64 == w
/-- The package arrives at a barrier. -/
def arriveAt (b : Nat) (s : State) : State := barrierUp b (setF (fBAR_STAT_ARRIVED b) 1 s)
/-- Fleet watch w is locally done once every follower has reported (R474): the package arrives at its barrier. -/
def fleetDone (w : Nat) (s : State) : State :=
  if bitF s (fWATCH_CFG_ENABLE w) ∧ (getWatch s w).begun ∧ ¬ bitF s (fWATCH_STAT_DONE w) ∧
      (followers s w).all (fun n => bitF s (fWATCH_STAT_DONE n) || !bitF s (fWATCH_MODE_DONE_REQ n)) then
    arriveAt (w - 56) (setF (fWATCH_STAT_DONE w) 1 s)
  else s
/-- A watch stops at once, and no further bell rings (R469, R470); its fleet watch no longer waits for it (R474). -/
def stopWatch (w : Nat) (s : State) : State :=
  let led := bitF s (fWATCH_CFG_ENABLE w) && bitF s (fWATCH_MODE_FOLLOW_EN w) && decide (w < 64)
  let s := updWatch w (fun _ => Watch.reset) (setFs [(fWATCH_CFG_ENABLE w, 0), (fWATCH_STAT_DONE w, 0)] s)
  if led then fleetDone (64 + getF s (fWATCH_MODE_FOLLOW w)) s else s

end Sys2Proof.Machine
end

