-- ==== Sys2Proof/Machine/Ni.lean ====
section
/-! DEFINITION. The network as its NIs see it: the address map, nodes, routes, packets as an NI forms them, the requests
it has outstanding and their credits (R361, R363, R376, R392–R404, R407, R410, R414–R417, R421, R620). -/
namespace Sys2Proof.Machine
open Sys2Proof

/-! ### The address map (R361, R363, R370, R376, R392, R620) -/

def hbmVBase : Nat := 0x2000000000
def hbmRBase : Nat := 0x4000000000
/-- The node that serves a register offset (R620). -/
def serveNode (o : Nat) : Nat :=
  if o < 0x40000 then o / 0x1000
  else if 0x41000 ≤ o ∧ o < 0x42000 then 0xA8
  else if 0x44000 ≤ o ∧ o < 0x46000 then 0xAB
  else if 0x4A000 ≤ o ∧ o < 0x4B000 then 0xA9
  else if 0x4D000 ≤ o ∧ o < 0x4F000 then 0xAA
  else if 0x50000 ≤ o ∧ o < 0x54000 then 0x40 + 8 * ((o - 0x50000) / 0x1000)
  else if 0x58000 ≤ o ∧ o < 0x60000 then 0x90 + (o - 0x58000) / 0x1000
  else if 0x60000 ≤ o ∧ o < 0x6A000 then linkNode ((o - 0x60000) / 0x1000)
  else if 0x80000 ≤ o ∧ o < 0xC0000 then 0xA8
  else if 0x100000 ≤ o ∧ o < 0x180000 then 0xA8
  else 0xAC

/-- What lies at a NoC address. -/
inductive Region where
  | staging | spad | regs | xlat | raw
  deriving DecidableEq, Repr

/-- The stack controller interface of a raw address (R392). -/
def rawNode (ra : Nat) : Nat := 0x40 + 8 * bits ra 35 2 + bits ra 30 5 / 4
/-- The home interface of a page (R376, R392). -/
def homeNode (page : Nat) : Nat := 0x40 + 8 * (page % 4) + page / 4 % 8
/-- The home interface of a translated address. -/
def homeOfAddr (a : Nat) : Nat := homeNode ((a - hbmVBase) / 65536)
/-- Region and node of a NoC address; `none`: unmapped. -/
def locate (a : Nat) : Option (Region × Nat) :=
  if a < 0x4000000 then some (.staging, 0x60 + 8 * bits a 24 2 + bits a 6 3)
  else if 0x10000000 ≤ a ∧ a < 0x10800000 then some (.spad, (a - 0x10000000) / 0x20000)
  else if 0x20000000 ≤ a ∧ a < 0x24000000 then some (.regs, serveNode (a - 0x20000000))
  else if hbmVBase ≤ a ∧ a < hbmRBase then some (.xlat, homeNode ((a - hbmVBase) / 65536))
  else if hbmRBase ≤ a ∧ a < 0x6000000000 then some (.raw, rawNode (a - hbmRBase))
  else none
/-- The power domain of a node (R408). -/
def nodeDom (d : Nat) : Nat :=
  if d < 0x40 then quadDom d
  else if d < 0x60 then 16 + (d - 0x40) / 8
  else if d < 0x80 then 37 + (d - 0x60) / 8
  else if 0x90 ≤ d ∧ d < 0x98 then 20 + (d - 0x90)
  else if 0x98 ≤ d ∧ d ≤ 0xA0 then 28 + (d - 0x98)
  else 62
/-- The router of a node (R392). -/
def nodeRouter (d : Nat) : Nat :=
  if d < 0x40 then 8 * (d / 8 / 2 + (if 4 ≤ d / 8 then 1 else 0)) + d % 8
  else if d < 0x60 then
    let k := (d - 0x40) / 8
    let j := d % 8
    8 * ((if k < 2 then 0 else 3) + j / 4) + 4 * (k % 2) + j % 4
  else if d < 0x80 then 16 + (d - 0x60) / 4
  else if d < 0x90 then 16 + (d - 0x80) / 2
  else if d < 0x98 then [1, 8, 6, 15, 33, 24, 38, 31].getD (d - 0x90) 0
  else if d < 0xA0 then [1, 8, 6, 15, 33, 24, 38, 31].getD (d - 0x98) 0
  else [20, 11, 12, 27, 28, 19, 19, 19, 19, 20, 19, 20, 19].getD (d - 0xA0) 19

/-! ### Routes (R393–R396, R414) -/

def routeKey (d b e : Nat) : Nat := 512 * d + 256 * b + e
/-- The turn codes of a path that leaves by `legs` in order, first under heading h. -/
def turnCodes : Nat → List Nat → List Nat
  | _, [] => [3]
  | h, p :: r => (if p = h then 0 else if p = (h + 3) % 4 then 1 else 2) :: turnCodes p r
/-- Pack TURN codes (R393). -/
def packTurns : List Nat → Nat
  | [] => 0
  | t :: r => t + 4 * packTurns r
/-- The route that boot loads: vertical legs first, then horizontal ones (R396). -/
def bootRoute (src dst : Nat) : Nat :=
  if nodeExists src ∧ nodeExists dst then
    let (a, b) := (nodeRouter src, nodeRouter dst)
    let v := if b / 8 < a / 8 then List.replicate (a / 8 - b / 8) 0 else List.replicate (b / 8 - a / 8) 2
    let h := if b % 8 < a % 8 then List.replicate (a % 8 - b % 8) 3 else List.replicate (b % 8 - a % 8) 1
    let legs := v ++ h
    let head := legs.headD 0
    packTurns (turnCodes head legs) + head * 2 ^ 32 + 2 ^ 34
  else 0
/-- What a route entry reads as before software writes it. -/
def routeDefault (d b e : Nat) : Nat := if b = 0 then bootRoute d e else 0
def routeEntry (s : State) (d b e : Nat) : Nat := tget (routeDefault d b e) s.routes (routeKey d b e)
/-- The entry of the active bank by which an NI routes fails its parity (R542). -/
def routeBad (s : State) (src dst : Nat) : Bool := s.routeErr.contains (routeKey src (getF s fNOC_CTL_ACTIVE) dst)
/-- The entry an NI routes by: of the active bank. One whose parity fails acts as VALID 0 (R542). -/
def activeRoute (s : State) (src dst : Nat) : Nat :=
  let e := routeEntry s src (getF s fNOC_CTL_ACTIVE) dst
  if routeBad s src dst then e % 2 ^ 34 else e

/-- The neighbour of a router by a bearing. -/
def neighbour (r b : Nat) : Nat := match b with | 0 => r - 8 | 1 => r + 1 | 2 => r + 8 | _ => r - 1
/-- A port carries packets: it exists and its PORT_EN in effect is 1 (R417). -/
def portOpen (s : State) (r b : Nat) : Bool := (routerPorts r).testBit b && !(tget 0 s.portsOff r).testBit b
/-- The action of a router (R394, R395). -/
inductive HopAct where
  | leave (heading next : Nat) | deliver | fail (port : Nat)
  deriving DecidableEq, Repr
/-- What the router does that a packet has reached; a route that fails names the port its TURN selects, 4 the local
one. -/
def hopAct (s : State) (r heading turns hop dest : Nat) : HopAct :=
  let t := bits turns (2 * hop) 2
  if t = 3 then (if nodeRouter dest = r then .deliver else .fail 4)
  else
    let h := if t = 0 then heading else if t = 1 then (heading + 3) % 4 else (heading + 1) % 4
    if hop = 15 ∨ ¬ portOpen s r h then .fail h else .leave h (neighbour r h)

/-- Where a route fails: the router, 40 when the entry is not VALID, the port, and the routers before it, latest first. -/
structure RouteErr where
  router : Nat
  port : Nat
  came : List Nat
  deriving DecidableEq, Repr
/-- Where the route of a packet fails on its way, if it does (R394, R395). -/
def walk (s : State) (dest turns : Nat) : Nat → Nat → Nat → Nat → List Nat → Option RouteErr
  | 0, r, _, _, came => some ⟨r, 4, came⟩
  | fuel + 1, r, heading, hop, came =>
    match hopAct s r heading turns hop dest with
    | .deliver => none
    | .fail p => some ⟨r, p, came⟩
    | .leave h r' => walk s dest turns fuel r' h (hop + 1) (r :: came)
def routeFailsAt (s : State) (src dst : Nat) : Option RouteErr :=
  let e := activeRoute s src dst
  if e.testBit 34 then walk s dst (bits e 0 32) 16 (nodeRouter src) (bits e 32 2) 0 [] else some ⟨40, 0, []⟩
/-- Where the reverse of the path by which a packet came to router r is closed to an answer, if it is (R395). -/
def backFails (s : State) : Nat → List Nat → Option RouteErr
  | _, [] => none
  | r, x :: t =>
    match (List.range 4).find? fun b => (routerPorts r).testBit b && neighbour r b == x with
    | some b => if portOpen s r b then backFails s x t else some ⟨r, b, []⟩
    | none => some ⟨r, 4, []⟩

/-- The route leads through a router whose reconfiguration window is open: the packet is held (R417). -/
def windowOn (s : State) (dest turns : Nat) : Nat → Nat → Nat → Nat → Bool
  | 0, _, _, _ => false
  | fuel + 1, r, heading, hop =>
    bitF s (fROUTER_STAT_BUSY r) ||
      (match hopAct s r heading turns hop dest with
        | .leave h r' => windowOn s dest turns fuel r' h (hop + 1)
        | _ => false)
def routeHeld (s : State) (src dst : Nat) : Bool :=
  let e := activeRoute s src dst
  e.testBit 34 && windowOn s dst (bits e 0 32) 16 (nodeRouter src) (bits e 32 2) 0

/-- NOC_ERR_CAP captures under R87 (R421): a parity error, which a replay corrects, gives way to any other. -/
def nocCapture (kind net router src dest port : Nat) (s : State) : State :=
  let held := bitF s fNOC_ERR_CAP_VALID
  let s := if held then setF fNOC_ERR_CAP_OVF 1 s else s
  if held ∧ (kind = 0 ∨ getF s fNOC_ERR_CAP_KIND ≠ 0) then s
  else setFs [(fNOC_ERR_CAP_VALID, 1), (fNOC_ERR_CAP_KIND, kind), (fNOC_ERR_CAP_NET, net), (fNOC_ERR_CAP_ROUTER, router),
    (fNOC_ERR_CAP_SRC, src), (fNOC_ERR_CAP_DEST, dest), (fNOC_ERR_CAP_PORT, port)] s
def nocCapValue (s : State) : Nat :=
  getF s fNOC_ERR_CAP_VALID + getF s fNOC_ERR_CAP_OVF * 2 + getF s fNOC_ERR_CAP_KIND * 4 + getF s fNOC_ERR_CAP_NET * 2 ^ 5 +
  getF s fNOC_ERR_CAP_ROUTER * 2 ^ 8 + getF s fNOC_ERR_CAP_SRC * 2 ^ 16 + getF s fNOC_ERR_CAP_DEST * 2 ^ 24 +
  getF s fNOC_ERR_CAP_PORT * 2 ^ 32

/-- A router discards a REQ packet or a management request whose route fails there (R395); an entry that is not VALID leaves
no trace, one whose parity fails a Logbook entry (R542). -/
def routeDrop (x : RouteErr) (net src dest addr master : Nat) (s : State) : State :=
  if x.router = 40 then (if routeBad s src dest then devLogM 11 2 5 master src addr (nocCapValue s) s else s)
  else
    let s := nocCapture 2 net x.router src dest x.port (satF (fROUTER_STAT_RINV x.router) 1 s)
    devLogM 11 2 5 master src addr (nocCapValue s) s
/-- A response, DAT flit or SNP packet whose route fails is discarded (R395). -/
def routeDiscard (x : RouteErr) (net src dest : Nat) (s : State) : State :=
  let s := if x.router = 40 then s else satF (fROUTER_STAT_RINV x.router) 1 s
  let s := nocCapture 2 net (if x.router = 40 then 0 else x.router) src dest x.port s
  devLogM 11 2 5 0xFF src 0 (nocCapValue s) s

/-- A REQ packet or a management request fails on its route (R395): whether its source is answered ROUTE_INVALID. Where the
way back is closed the answer is discarded in its turn, and the source learns nothing. -/
def requestFails (x : RouteErr) (net src dest addr master : Nat) (s : State) : Bool × State :=
  let gone := routeDrop x net src dest addr master s
  match backFails s x.router x.came with
  | none => (true, tgtLog src addr master 4 5 (satF (fNI_STAT_RINV src) 1 gone))
  | some y => (false, routeDiscard y (if net = 0 then 1 else net) dest src gone)

/-! ### Requests that end (R401, R407, R410, R524) -/

/-- A request ends by timeout at its source (R407, R421, R549). -/
def timedOut (net src dest addr m : Nat) (s : State) : State :=
  nocCapture 4 net 0 src dest 0 (satF (fNI_STAT_TMO src) 1 (tgtLog src addr m 5 6 s))
/-- A request ends with WAKE_TIMEOUT at its source (R410, R524, R549). -/
def wakeTimedOut (src addr m : Nat) (s : State) : State :=
  satF (fNI_STAT_WTMO src) 1 (tgtLog src addr m 6 7 s)
/-- The start message of a LAUNCH has failed: unless its image has started, the LAUNCH completes with the status that the
ring engine was answered (R339). -/
def startFails (id status : Nat) (s : State) : State :=
  match findJob s id with
  | some j => if j.stage = 0 then completeJob id status 0 s else s
  | none => s
/-- What a request answers to whoever sent it. -/
def requestEnds (src : Nat) (b : PBody) (status : Nat) (data : List Byte) (poison : Nat) (s : State) : State :=
  match b with
  | .start id => if status = 0 then s else startFails id status s
  | _ => { s with answers := s.answers ++ [⟨src, status, data, poison⟩] }

/-! ### Requests outstanding, and their credits (R398, R401, R407, R416) -/

def outOf (s : State) (src tid : Nat) : Option Outst := s.outst.find? fun o => o.src == src && o.tid == tid
def updOutst (src tid : Nat) (g : Outst → Outst) (s : State) : State :=
  { s with outst := s.outst.map fun o => if o.src = src ∧ o.tid = tid then g o else o }
/-- Address and master ID of a request, for Logbooks. -/
def bodyAddr : PBody → Nat
  | .req q => q.addr
  | .mgmt _ _ a _ _ => a
  | _ => 0
def bodyMaster : PBody → Nat
  | .req q => q.master
  | .mgmt m _ _ _ _ => m
  | _ => 0xFF
/-- The network a packet travels on. -/
def bodyNet : PBody → Nat
  | .req _ | .start _ => 0
  | .rsp _ _ _ => 1
  | .dat _ _ _ => 2
  | _ => 3
/-- A packet that asks for a response. -/
def isRequest : PBody → Bool
  | .req _ | .start _ | .mgmt _ _ _ _ _ => true
  | _ => false
/-- The target queue of a request at its destination, and the credits an NI has for it (R401). -/
def queueOf (dest : Nat) (b : PBody) : Nat × Nat :=
  match b with
  | .mgmt _ _ _ _ _ => (1000, 1)
  | .start _ => (0, 4)
  | .req q =>
    if 0x60 ≤ dest ∧ dest < 0x80 then (0, 4)
    else if 0x40 ≤ dest ∧ dest < 0x60 then
      (match locate q.addr with
        | some (.raw, _) => (1 + bits (q.addr - hbmRBase) 30 2, 4)
        | _ => (0, 8))
    else if dest < 0x40 then (0, 4) else (0, 2)
  | _ => (2000, 0)
/-- Requests on their way, or held before they are served. -/
def requestsOut (s : State) : List Packet :=
  (s.net ++ s.eject ++ s.halves.map (·.2) ++ s.doms.flatMap fun e => e.2.anch.filterMap fun h =>
    match h with | .packet p => some p | _ => none).filter fun p => isRequest p.body
/-- The credits of the NI of a node that requests for one target queue hold: a request keeps its own until it leaves the
queue, though its requester may have given it up (R401, R407). -/
def creditsUsed (s : State) (src dest : Nat) (b : PBody) : Nat :=
  let key := (queueOf dest b).1
  let ps := (requestsOut s).filter fun p => p.src == src && p.dest == dest && (queueOf dest p.body).1 == key
  let os := s.outst.filter fun o =>
    o.credit && o.src == src && o.dest == dest && (queueOf dest o.body).1 == key && !ps.any fun p => p.tid == o.tid
  ps.length + os.length
/-- Two requests of NIs wait in one queue (R401). -/
def sameQueue (a b : NiReq) : Bool :=
  a.src == b.src && a.dest == b.dest && (queueOf a.dest a.body).1 == (queueOf b.dest b.body).1
/-- A request to a destination whose route entry has changed waits while one is outstanding under the former entry
(R416). -/
def oldRoute (s : State) (src dest : Nat) : Bool :=
  s.outst.any fun o => o.src == src && o.dest == dest && o.route != activeRoute s src dest
/-- The NI may inject a request now: a credit is left, no RETRY holds its queue, no request to its destination is
outstanding under another route, and none waits before it (R401, R410, R416). -/
def mayInject (s : State) (r : NiReq) : Bool :=
  decide (creditsUsed s r.src r.dest r.body < (queueOf r.dest r.body).2) && !oldRoute s r.src r.dest &&
  !(s.outst.any fun o => o.retry && sameQueue ⟨o.src, o.dest, o.tid, o.body⟩ r) && !s.niWait.any (sameQueue r)
/-- The number is that of a request which the NI has outstanding or waiting. -/
def tidTaken (s : State) (src tid : Nat) : Bool :=
  (outOf s src tid).isSome || s.niWait.any fun r => r.src == src && r.tid == tid

/-! ### Packets (R393, R397–R400) -/

/-- A packet as its source NI forms it from its route entry. -/
def mkPacket (src dest tid e : Nat) (b : PBody) : Packet :=
  { net := bodyNet b, dest := dest, src := src, tid := tid, heading := bits e 32 2, turns := bits e 0 32, hop := 0,
    router := nodeRouter src, came := [], body := b, entered := false, held := false, bad := false }
/-- A packet with no request behind it goes out: a response, data, an invalidation or an acknowledgement. -/
def sendPacket (src dest tid : Nat) (b : PBody) (s : State) : State :=
  let e := activeRoute s src dest
  if e.testBit 34 then { s with net := s.net ++ [mkPacket src dest tid e b] }
  else routeDiscard ⟨40, 0, []⟩ (bodyNet b) src dest s
/-- The flits of a request: a write's data follows in a DAT flit. -/
def sendRequest (src dest tid e : Nat) (b : PBody) (s : State) : State :=
  match b with
  | .req q =>
    if q.write then
      { s with net := s.net ++ [mkPacket src dest tid e (.req { q with data := [] }),
                                mkPacket src dest tid e (.dat q.data 0 true)] }
    else { s with net := s.net ++ [mkPacket src dest tid e b] }
  | b => { s with net := s.net ++ [mkPacket src dest tid e b] }
/-- The NI of a node sends a request: it fails at once when its route is not VALID (R395). -/
def issueRequest (r : NiReq) (s : State) : State :=
  let e := activeRoute s r.src r.dest
  if e.testBit 34 then
    sendRequest r.src r.dest r.tid e r.body { s with
      outst := s.outst ++ [⟨r.src, r.tid, r.dest, r.body, s.ticks, 0, false, false, none, e, true⟩] }
  else
    requestEnds r.src r.body 5 [] 0
      (requestFails ⟨40, 0, []⟩ (bodyNet r.body) r.src r.dest (bodyAddr r.body) (bodyMaster r.body) s).2
/-- The block of a node hands its NI a request, which goes out or waits its turn (R401). -/
def submit (r : NiReq) (s : State) : State :=
  if tidTaken s r.src r.tid then s
  else if mayInject s r then issueRequest r s
  else { s with niWait := s.niWait ++ [r] }
/-- The waiting requests of the NIs, in order: each goes out that may. -/
def pumpList : List NiReq → State → State
  | [], s => s
  | r :: t, s => pumpList t (if mayInject s r then issueRequest r s else { s with niWait := s.niWait ++ [r] })
def pump (s : State) : State := if s.niWait = [] then s else pumpList s.niWait { s with niWait := [] }

/-- A request outstanding at its NI ends with a status and data (R401); data that came for it is dropped (R407). An
answer to a request that has ended is counted. -/
def endOutst (src tid status : Nat) (data : List Byte) (poison : Nat) (s : State) : State :=
  match outOf s src tid with
  | some o =>
    requestEnds src o.body status data poison { s with
      outst := s.outst.filter (fun o => !(o.src == src && o.tid == tid)),
      halves := s.halves.filter fun h => !(h.2.dest == src && h.2.tid == tid &&
        match h.2.body with | .dat _ _ wr => !wr | _ => false) }
  | none => satF (fNI_ECC_LATE src) 1 s
/-- The request leaves its target queue: the credit returns (R401). -/
def returnCredit (src tid : Nat) (s : State) : State := updOutst src tid (fun o => { o with credit := false }) s
/-- The router edge has accepted a request: no RETRY holds its queue any longer (R410). -/
def accepted (src tid : Nat) (s : State) : State := updOutst src tid (fun o => { o with retry := false }) s
/-- The response of a target to a request of an NI; the data of a read follows in a DAT flit (R399). -/
def respond (d src tid status : Nat) (data : List Byte) (poison : Nat) (rd : Bool) (s : State) : State :=
  let has := rd && (status == 0 || status == 4)
  let s := sendPacket d src tid (.rsp status has poison) s
  if has then sendPacket d src tid (.dat data 0 false) s else s

end Sys2Proof.Machine
end

