-- ==== Sys2Proof/Machine/Power.lean ====
section
/-! DEFINITION. Power domains: requests, transitions, the pending slot, wakes, the Anchorages, Off, the governor and
the power commands (chapter 17, R412, R451). -/
namespace Sys2Proof.Machine
open Sys2Proof

def getDom (s : State) (d : Nat) : Dom := tget Dom.reset s.doms d
/-- Replace a domain, and show it in PWR_DOM (R537). -/
def setDom (d : Nat) (x : Dom) (s : State) : State :=
  let s := { s with doms := tset Dom.reset s.doms d x }
  setFs [(fPWR_DOM_BUSY d, b2n x.trans.isSome), (fPWR_DOM_PHASE d, (x.trans.map (·.phase)).getD 0),
    (fPWR_DOM_PEND d, b2n x.slot.isSome), (fPWR_DOM_PEND_STATE d, (x.slot.map (·.1)).getD 0),
    (fPWR_DOM_ANCH d, x.anch.length)] s
def updDom (d : Nat) (g : Dom → Dom) (s : State) : State := setDom d (g (getDom s d)) s
def domState (s : State) (d : Nat) : Nat := if d ≤ 40 then getF s (fPWR_DOM_STATE d) else 0
/-- Whether the router edges of a domain pass REQ packets (R409, R518). -/
def domOpen (s : State) (d : Nat) : Bool :=
  decide (40 < d) || (domState s d == 0 && (match (getDom s d).trans with
    | some t => decide (t.phase ≤ 2) && !t.closed && !t.reset
    | none => true))
/-- The state a management request finds (R411, R525). -/
def mgmtState (s : State) (d : Nat) : Nat :=
  match (getDom s d).trans with
  | none => domState s d
  | some t =>
    if t.reset then 0
    else if t.dst < t.src ∨ t.src = 3 then t.src
    else if t.dst = 3 then (if (t.steps.headD 0) ≥ 4 then 3 else min t.src 2)
    else if t.phase ≤ 2 then t.src else t.dst

/-- Fields of an array quad. -/
def quadFields (d : Nat) : List Nat := (List.range 64).filter fun f => quadDom f == d
/-- Array quads of a partition. -/
def partQuads (s : State) (n : Nat) : List Nat := uniq ((fieldsOf s n).map quadDom)
/-- Masters of the partitions with fields in a quad. -/
def quadMasters (s : State) (d : Nat) : List Nat :=
  uniq ((quadFields d).filterMap fun f => (partOf s f).map (·.1))
/-- A READBACK or SPARE involves a field of the partition of master n (R521, R286). -/
def involved (s : State) (n : Nat) : Bool :=
  s.jobs.any fun j => j.phase == .running &&
    ((j.op == 0xD && jTarget j == n) || (j.op == 0xC && (fieldsOf s n).contains (jTarget j)))
/-- The partition conditions of R521 against Idle, Sleep or Deep. -/
def quadBusy (s : State) (d : Nat) : Bool :=
  (quadMasters s d).any fun n =>
    let q := getSeq s n
    (getCore s n).state != .halted || q.state != .idle || q.pend || wpRunning s n || involved s n

/-! ### Notices and events (R534, R535) -/

/-- A bit of PWR_NOTE is set in every sequencer, and interrupt 22 where NOTE_MASK asks for it. -/
def powerNote (bit : Nat) (s : State) : State :=
  (List.range 64).foldl (fun s n =>
    let v := tget 0 s.pwrNote n
    if v.testBit bit then s
    else
      let s := { s with pwrNote := tset 0 s.pwrNote n (v + 2 ^ bit) }
      if (tget 0 s.noteMask n).testBit bit then raiseIrq n 22 s else s) s
/-- A POWER event about a domain. -/
def powerEvent (d old new code : Nat) (s : State) : State :=
  let data := new + old * 2 ^ 4 + code * 2 ^ 8
  let fs := if d < 16 then (uniq ((quadFields d).filterMap (ownerOf s))).filter (· != 0) else []
  fs.foldl (fun s f => postEvent f 6 d data s) (postEvent 0 6 d data s)

/-! ### Requests (R520–R523) -/

/-- A request for a power state completes with a status. -/
def answerAsker (a : Asker) (status : Nat) (s : State) : State :=
  match a with
  | .desc id => completeJob id status 0 s
  | .port n k => if (tget 0 s.pwrRes n) / 32 = k then { s with pwrRes := tset 0 s.pwrRes n (k * 32 + status * 2) } else s
  | _ => s

/-- The Dawn steps a transition needs (R516, R517). -/
def dawnSteps (d src dst : Nat) : List Nat :=
  if src = 3 then (if dst = 2 then [1, 2, 3] else [1, 2, 3, 4])
  else if src = 2 then (if 16 ≤ d ∧ d ≤ 19 then [2, 3, 4] else [2, 4])
  else [2]
/-- The steps of a Dusk after its seal (R518): 0 clock gate, 1 self-refresh entry, 2 isolation, 3 retention save,
4 memory, 5 clock stop, 6 regulator. -/
def duskSteps (d src dst : Nat) : List Nat :=
  let hbm := decide (16 ≤ d ∧ d ≤ 19) && decide (src < 2)
  if dst = 1 then [0]
  else if dst = 2 then (if hbm then [2, 1, 5] else [2, 5])
  else (if hbm then [1] else []) ++ [3, 4, 5, 6]

/-- WAKE_CAUSE and WAKE_TIME of a wake that starts a Dawn (R527). -/
def recordWake (src d : Nat) (s : State) : State :=
  setFs [(fWAKE_CAUSE_SRC, src), (fWAKE_CAUSE_DOMAIN, d), (fWAKE_CAUSE_FROM_OFF, 0), (fWAKE_TIME_NS, merNs s)] s

/-- A transition of an idle domain starts. -/
def startTrans (d dst : Nat) (who : Asker) (s : State) : State :=
  let src := domState s d
  let t (ph : Nat) (st : List Nat) : Trans := ⟨src, dst, who, ph, st, false, false⟩
  if dst < src then
    let steps := dawnSteps d src dst
    let s := if dst = 0 then recordWake (match who with | .wake k => k | _ => 8) d s else s
    updDom d (fun x => { x with trans := some (t (3 + steps.headD 1) steps), slot := none }) s
  else if src = 0 then
    updDom d (fun x => { x with trans := some (t 2 []), slot := none }) s
  else updDom d (fun x => { x with trans := some (t 3 (duskSteps d src dst)), slot := none }) (if src = 1 then surveySeal d s else s)

/-- The sequencers of a domain take start messages: it is in Run, and no Dusk has begun (R518). -/
def startsPass (s : State) (d : Nat) : Bool := domOpen s d && (getDom s d).trans.isNone
/-- A start message finds every quad of its partition in Run, or its LAUNCH has ended (R518, R521). -/
def startDue (s : State) (id : Nat) : Bool :=
  match findJob s id with
  | some j => (partQuads s (jTarget j)).all (startsPass s)
  | none => true
/-- Packets leave an Anchorage for their nodes, ahead of what arrives later (R409). -/
def ejectHeld (d : Nat) (out : Held → Bool) (s : State) : State :=
  let a := (getDom s d).anch
  let ps := (a.filter out).filterMap fun h => match h with | .packet p => some { p with held := true } | _ => none
  let old := s.eject.takeWhile (·.held)
  let xs := (a.filter out).filterMap fun h => match h with | .stack x => some x | _ => none
  updDom d (fun x => { x with anch := x.anch.filter fun h => !out h })
    { s with eject := old ++ ps ++ s.eject.dropWhile (·.held), hbmQ := s.hbmQ ++ xs }
/-- The held start messages whose partition is all in Run are delivered (R521). -/
def deliverStarts (s : State) : State :=
  let due (h : Held) : Bool := match h with
    | .packet p => (match p.body with | .start id => startDue s id | _ => false)
    | _ => false
  (s.doms.map (·.1)).foldl (fun t d => if (getDom t d).anch.any due then ejectHeld d due t else t) s
/-- What an open domain's Anchorage holds is delivered (R409): packets are ejected at their node, start messages when all
quads of their partition are in Run; a block whose access waited goes on. -/
def deliverHeld (d : Nat) (s : State) : State :=
  if domOpen s d then
    deliverStarts (ejectHeld d (fun h => match h with
      | .packet p => (match p.body with | .start _ => false | _ => true)
      | _ => true) s)
  else s
/-- The bells of the sequencer watches of a quad that waited for Run ring (R475). -/
def ringWaiting (d : Nat) (s : State) : State :=
  (quadFields d).foldl (fun s n =>
    if (tget Watch.reset s.watches n).bell then
      raiseIrq n 17 { s with watches := tset Watch.reset s.watches n { tget Watch.reset s.watches n with bell := false } }
    else s) s

/-- A request for a state of a domain (R516, R518, R522). -/
def requestState (d dst : Nat) (who : Asker) (s : State) : State :=
  let x := getDom s d
  let cur := domState s d
  match x.trans with
  | none =>
    if bitF s (fPWR_DOM_FAULT d) ∧ dst < cur then answerAsker who 7 s
    else if x.slot.isNone ∧ dst = cur then answerAsker who 0 s
    else startTrans d dst who s
  | some t =>
    if dst = 0 ∧ t.phase ≤ 2 ∧ ¬ t.reset then
      let s := answerAsker who 0 (answerAsker t.who 10 (setDom d { x with trans := none } s))
      let s := ringWaiting d (deliverHeld d s)
      match (getDom s d).slot with
      | some (p, w) =>
        if p = 0 then answerAsker w 0 (updDom d (fun x => { x with slot := none }) s) else startTrans d p w s
      | none => s
    else if bitF s (fPWR_DOM_FAULT d) ∧ dst < t.dst then answerAsker who 7 s
    else
      let s := match x.slot with | some (_, w) => answerAsker w 10 s | none => s
      updDom d (fun x => { x with slot := some (dst, who) }) s

/-- A wake source requests Run (R526). -/
def postWake (d src : Nat) (s : State) : State :=
  if 40 < d ∨ bitF s (fPWR_DOM_FAULT d) ∨ (domState s d = 0 ∧ (getDom s d).trans = none) then s
  else requestState d 0 (.wake src) s

/-- A held packet or a held start message posts its wake when nothing else will wake the domain (R523). -/
def anchorWake (d : Nat) (s : State) : State :=
  let x := getDom s d
  if domState s d ≠ 0 ∧ x.trans = none ∧ x.slot = none ∧ x.anch ≠ [] ∧ ¬ bitF s (fPWR_DOM_FAULT d) then postWake d 7 s else s

/-- The transition of a domain ends (R516, R522, R534, R535): the state is reached, its request completes, the
Anchorage is delivered in Run, and the request in the slot starts. A failed Dawn that ends in the Deep it began in has changed no
state. -/
def stateReached (d : Nat) (s : State) : State :=
  match (getDom s d).trans with
  | none => s
  | some t =>
    let s := setF (fPWR_DOM_STATE d) t.dst (updDom d (fun x => { x with trans := none }) s)
    let s := if t.src = t.dst then s else powerNote d (powerEvent d t.src t.dst 0 (satF (fPWR_DOM_TRANS d) 1 s))
    let s := answerAsker t.who 0 s
    let s := if t.dst = 0 then
        let ls := (List.range 10).filter fun j => linkDomain j == d && bitF s (fLINK_CTL_ENABLE j) && linkState s j == 0
        let s := ls.foldl (fun s j => setF (fLINK_STAT_STATE j) 1 s) s
        deliverHeld d (ringWaiting d s)
      else s
    let s := match (getDom s d).slot with
      | some (p, w) =>
        let s := updDom d (fun x => { x with slot := none }) s
        if p = t.dst then answerAsker w 0 s
        else if bitF s (fPWR_DOM_FAULT d) ∧ p < t.dst then answerAsker w 7 s
        else startTrans d p w s
      | none => s
    anchorWake d s

/-- The NI of a node has a request outstanding: sent, waiting at the NI, held at an edge, or after RETRY; of a home
controller also one it has forwarded to another stack, and a Chart fetch (R376, R413). -/
def niBusy (s : State) (mine : Nat → Bool) : Bool :=
  let src (h : Held) : Nat := match h with
    | .access n => n
    | .packet p => p.src
    | .stack x => homeOfAddr x.req.addr
  s.outst.any (fun o => mine o.src) || s.niWait.any (fun r => mine r.src) || s.retryQ.any (fun e => mine e.1) ||
  s.doms.any (fun e => e.2.anch.any fun h => mine (src h)) ||
  s.hbmQ.any (fun x => x.fwd && mine (homeOfAddr x.req.addr) &&
    nodeDom (rawNode x.ra) != nodeDom (homeOfAddr x.req.addr)) ||
  s.xlatWait.any (fun q => mine (homeOfAddr q.addr)) ||
  s.invWait.any (fun w => mine (homeNode (w.1 / 1024)))
/-- Requests the NIs of a domain have outstanding hold its seal (R413). -/
def domOutstanding (s : State) (d : Nat) : Bool := niBusy s fun n => nodeDom n == d
/-- What the drain of a link group or a strip waits for besides (R451, R506). -/
def drainHeld (s : State) (d : Nat) : Bool :=
  (List.range 10).any (fun j => linkDomain j == d && linkActive s j && !(getLink s j).parked) ||
  (decide (20 ≤ d ∧ d ≤ 27) && s.jobs.any fun j => j.op == 7 && j.phase == .running && decide (2 ≤ j.stage) &&
    dBits j 2 0 3 == d - 20)

/-- The domain is sealed and its links go down; Survey gives back what it has borrowed in a quad (R443, R518, R519). A
packet that the gate or the closed edges held posts its wake now. -/
def sealDom (d : Nat) (s : State) : State :=
  match (getDom s d).trans with
  | none => s
  | some t =>
    let s := ((List.range 10).filter fun j => linkDomain j == d).foldl (fun s j => linkDown j 6 s) s
    let s := if t.dst = 1 then s else surveySeal d s
    let s := updDom d (fun x => { x with trans := some { t with phase := 3, steps := duskSteps d t.src t.dst, closed := true } }) s
    if (getDom s d).anch = [] then s else postWake d 7 s

/-- DUSK_DRAIN_END (R518): with nothing outstanding the drain ends and the domain is sealed. -/
def execDuskDrainEnd (d : Fin 41) (s : State) : Out :=
  match (getDom s d).trans with
  | some t => if t.phase = 2 ∧ ¬ domOutstanding s d ∧ ¬ drainHeld s d then ok (sealDom d s) else ok s
  | none => ok s

/-- DRAIN_MAX_EXPIRY (R518): the router edges stop accepting; the seal follows when nothing is outstanding. -/
def execDrainMaxExpiry (d : Fin 41) (s : State) : Out :=
  match (getDom s d).trans with
  | some t =>
    if t.phase = 2 then
      let s := updDom d (fun x => { x with trans := some { t with closed := true } }) s
      ok (if domOutstanding s d || drainHeld s d then s else sealDom d s)
    else ok s
  | none => ok s

/-- A step of a transition has ended: the next runs, or the state is reached. -/
def stepDone (d : Nat) (t : Trans) (s : State) : State :=
  match t.steps.tail with
  | [] => stateReached d s
  | k :: r =>
    updDom d (fun x => { x with trans := some { t with steps := k :: r, phase := if t.phase = 3 then 3 else 3 + k } }) s

/-- DUSK_STEP_DONE (R518). -/
def execDuskStepDone (d : Fin 41) (s : State) : Out :=
  match (getDom s d).trans with
  | some t => if t.phase = 3 then ok (stepDone d t s) else ok s
  | none => ok s

/-- DAWN_STEP_DONE (R516). -/
def execDawnStepDone (d : Fin 41) (s : State) : Out :=
  match (getDom s d).trans with
  | some t =>
    if 4 ≤ t.phase then ok (stepDone d t s) else ok s
  | none => ok s

/-- With FAULT set every held REQ packet is answered WAKE_TIMEOUT by the router edge and discarded (R524). -/
def dropHeld (d : Nat) (s : State) : State :=
  let a := (getDom s d).anch
  let s := updDom d (fun x => { x with anch := [] }) s
  a.foldl (fun s h => match h with
    | .access n => { s with verdict := tput s.verdict n 7 }
    | .packet p =>
      respond p.dest p.src p.tid 7 [] 0 false (accepted p.src p.tid (returnCredit p.src p.tid s))
    | .stack x =>
      let s := wakeTimedOut (homeOfAddr x.req.addr) x.req.addr x.req.master s
      { s with answers := s.answers ++ [⟨x.req.node, 7, [], 0⟩] }) s

/-- DAWN_STEP_TIMEOUT (R522, R524): FAULT is set, the requests end with WAKE_TIMEOUT, and the domain goes down to Deep
by the steps that follow the failed one. -/
def execDawnStepTimeout (d : Fin 41) (s : State) : Out :=
  let x := getDom s d
  match x.trans with
  | some t =>
    if 4 ≤ t.phase then
      let s := setF (fPWR_DOM_FAULT d) 1 s
      let s := answerAsker t.who 7 s
      let s := match x.slot with | some (_, w) => answerAsker w 7 s | none => s
      let s := powerEvent d t.src t.dst 1 (devLogM 15 2 7 0xFF 0xAA d.val (t.phase - 3) s)
      let down := match t.phase with | 4 => [6] | 5 => [5, 6] | 6 => [4, 5, 6] | _ => [3, 4, 5, 6]
      let s := updDom d (fun x => { x with slot := none, trans := some { t with dst := 3, who := .none, phase := 3, steps := down } }) s
      ok (dropHeld d s)
    else ok s
  | none => ok s

/-- FAULT_CLEAR (R522, R523): a write of 1 to FAULT by the PF or the management controller. -/
def execFaultClear (d : Fin 41) (s : State) : Out := ok (anchorWake d (setF (fPWR_DOM_FAULT d) 0 s))

/-! ### POWER and the port of a sequencer (R520, R521, R536) -/

/-- Checks 1 to 4 of a PWR_REQ (R536); `none`: the request passes. -/
def pwrReqCheck (s : State) (n dom st : Nat) : Option Nat :=
  if 3 < st then some 8
  else if 40 < dom ∨ ¬ (getF s (fPWR_GRANT_DOMS n)).testBit dom then some 1
  else if dom = quadDom n then some 1
  else if dom < 16 ∧ st ≠ 0 ∧ quadBusy s dom then some 8
  else none

/-- A write of port PWR_REQ by sequencer n (R536). PWR_RES holds 32 times the number of the request, the status and
BUSY. -/
def pwrReq (n : Nat) (v : Word) (s : State) : State :=
  let dom := bits v.toNat 0 6
  let st := bits v.toNat 8 3
  let k := (tget 0 s.pwrRes n) / 32 + 1
  match pwrReqCheck s n dom st with
  | some e => { s with pwrRes := tset 0 s.pwrRes n (k * 32 + e * 2) }
  | none => requestState dom st (.port n k) { s with pwrRes := tset 0 s.pwrRes n (k * 32 + 1) }

/-! ### Wake sources (R526, R530, R531) -/

/-- AON_TIME in ns: 40 per AON clock cycle from the AON domain's power-up, or from its load at entry to Off (R527). -/
def aonNow (s : State) : Nat := s.aonBase + (nsNow s - s.aonAt) / 40 * 40
/-- A wake of the part from Off: a power-on reset follows (R531, R599); the wake is recorded with FROM_OFF. -/
def recordOffWake (src : Nat) (s : State) : State :=
  setFs [(fWAKE_CAUSE_SRC, src), (fWAKE_CAUSE_DOMAIN, 63), (fWAKE_CAUSE_FROM_OFF, 1), (fWAKE_TIME_NS, aonNow s)] s
/-- The part is Off. -/
def isOff (s : State) : Bool := s.offNow
/-- Wake every domain of a map. -/
def wakeMap (src map : Nat) (s : State) : State :=
  ((List.range 41).filter fun d => map.testBit d).foldl (fun s d => postWake d src s) s
/-- A wake source with a map (sources 3 to 5). -/
def mappedWake (src slot : Nat) (s : State) : State :=
  if isOff s then { recordOffWake src s with offWake := true } else wakeMap src (getF s (fPWR_WAKEMAP_DOMS slot)) s

/-- WAKE_N held low for 1 µs (R526). -/
def execWakeN (s : State) : Out := if bitF s fWAKE_EN_WAKEN then ok (mappedWake 4 1 s) else ok s
/-- The PCIe link leaves L1, or a receiver is detected when Off (R526). -/
def execPcieWake (s : State) : Out := if bitF s fWAKE_EN_PCIE then ok (mappedWake 3 0 s) else ok s
/-- AON_TIME reaches a non-zero AON_TIMER (R526). -/
def execAonTimerMatch (s : State) : Out :=
  let c := getF s fAON_TIMER_COMPARE
  if bitF s fWAKE_EN_TIMER ∧ c ≠ 0 ∧ c ≤ aonNow s then ok (mappedWake 5 2 s) else ok s

/-! ### Off (R530) -/

/-- OFF_ENTRY (R530): after the POWER completion the link is removed, the domains go down and the part is off; only the
AON registers and the fuses keep their values. -/
def execOffEntry (s : State) : Out :=
  match s.off with
  | some id =>
    if s.jobs.all (fun j => j.id == id) ∧ s.fetches = [] then
      let s := completeJob id 0 0 s
      let s := (List.range 41).foldl (fun s d =>
        setF (fPWR_DOM_STATE d) 3 (setDom d Dom.reset s)) s
      ok { s with off := none, offNow := true, aonBase := merNs s, aonAt := nsNow s, net := [], eject := [], halves := [], outst := [], niWait := [], retryQ := [] }
    else ok s
  | none => ok s

/-! ### The governor (R532, R533) -/

/-- GOVERNOR_UPDATE (R532): the telemetry is the average power and the hottest sensor. -/
def execGovernorUpdate (pwr : BitVec 10) (tj : BitVec 8) (s : State) : Out :=
  let k := getF s fGOV_STAT_K
  let p := getF s fGOV_CTL_PLIM
  let t : Int := getF s fGOV_CTL_TLIM
  let s := setFs [(fGOV_STAT_PWR_W, pwr.toNat), (fGOV_STAT_TJ, tj.toNat)] s
  if bitF s fGOV_CTL_GOV_EN then
    let hot := decide (p < pwr.toNat) || decide (t ≤ tj.toInt)
    let cool := decide (pwr.toNat + 16 < p) && decide (tj.toInt < t - 2)
    let above := decide (k = 56) && decide (p < pwr.toNat)
    let k' := if hot then min 56 (k + 1) else if cool then k - 1 else k
    let s := setFs [(fGOV_STAT_K, k'), (fGOV_STAT_LIMITED, b2n (decide (k' ≠ 0)))] s
    let s := if (k = 0) = (k' = 0) then s
      else powerNote 48 (postEvent 0 6 0x0100 ((if k' = 0 then 3 else 2) * 2 ^ 8) s)
    if above ∧ ¬ bitF s fGOV_STAT_OVER then ok (postEvent 0 6 0x0100 (4 * 2 ^ 8) (setF fGOV_STAT_OVER 1 s)) else ok s
  else ok s

/-- THERMAL_TRIP (R533): THERM_TRIP_N is asserted and held until power-on reset. -/
def execThermalTrip (s : State) : Out := ok { s with pins := { s.pins with thermTrip := true } }

end Sys2Proof.Machine
end

