-- ==== Sys2Proof/Machine/Access.lean ====
section
/-! DEFINITION. Requests to memory over the network: access tables, dark domains, the staging
SRAM, the scratchpads, the Chart and HBM (chapters 12 and 13, R566–R574). A master's access is one command here: the
route is walked, the target decides and serves, and the answer is back; an access that must wait for a domain leaves
its mark in the Anchorage and is made again. -/
namespace Sys2Proof.Machine
open Sys2Proof

/-! ### Access tables (R568, R569) -/

/-- The access table of node d allows a request of master m to an address; the management controller is never refused
by a table (R570). -/
def aclAllows (s : State) (d m : Nat) (wr : Bool) (a : Nat) : Bool :=
  if m = 0x61 then true
  else
    match (List.range 8).find? (fun r => bitF s (fACL_BASE_EN d r) &&
        decide (getF s (fACL_BASE_BASE d r) ≤ a / 64) && decide (a / 64 ≤ getF s (fACL_LIMIT_LIMIT d r))) with
    | some r => bitF s (fACL_PERM d m (2 * r + b2n wr))
    | none => false

/-! ### The Chart (R370, R371, R374–R377, R380) -/

/-- H of R370 for a seed. -/
def hbmHash (seed b : Nat) : Nat :=
  let h := bits b 0 7 ^^^ bits b 7 7 ^^^ bits b 14 7 ^^^ bits b 21 1
  match seed with | 0 => 0 | 1 => h | 2 => h ^^^ 0x2A | _ => h ^^^ 0x55
/-- The raw address of a physical address under a seed (R370). -/
def rawOf (seed pa : Nat) : Nat :=
  let b := pa / 2 ^ 15
  (bits pa 8 7 ^^^ hbmHash seed b) * 2 ^ 30 + b * 256 + pa % 256

/-- The Belsar cache lines of a page are dropped in every sharer (R380). -/
def dropPageLines (page : Nat) (sharers : List Nat) (s : State) : State :=
  sharers.foldl (fun s n => updCore n (fun c =>
    { c with cache := c.cache.filter fun e => e.1 / 1024 != page }) s) s

/-- What a fetch of a Chart entry from the hub finds (R377): the entry as delivered, and 0, 1 corrected or
2 uncorrectable. -/
def chartFetch (page : Nat) (s : State) : BitVec 32 × Nat × State :=
  let v := tget 0 s.chart page
  let m := tget 0 s.chartErr page
  match popc 6 m.toNat with
  | 0 => (v, 0, s)
  | 1 => (v ^^^ m.setWidth 32, 1, satF fCHART_ECC_CE_CNT 1 s)
  | 2 => (v, 2, devLogM 9 2 4 0xFF 0xA9 page v.toNat (satF fCHART_ECC_UE_CNT 1 s))
  | _ =>
    let (d, s) := draw s
    match Config.eccOutcome d with
    | 0 => ((Config.eccData d).setWidth 32, 0, s)
    | 1 => ((Config.eccData d).setWidth 32, 1, satF fCHART_ECC_CE_CNT 1 s)
    | _ => (v, 2, devLogM 9 2 4 0xFF 0xA9 page v.toNat (satF fCHART_ECC_UE_CNT 1 s))

/-- The home controller still waits for the stack, or for acknowledgements, on behalf of requests it translated with the
entry of a page (R376, R378). -/
def entryBusy (s : State) (page : Nat) : Bool :=
  let of (x : HbmReq) : Bool := x.fwd && (x.req.addr - hbmVBase) / 65536 == page
  s.hbmQ.any of || s.invWait.any (fun w => w.1 / 1024 == page) ||
  s.retryQ.any (fun e => match e.2.2.2 with | .stack x => of x | _ => false) ||
  s.doms.any fun e => e.2.anch.any fun h => match h with | .stack x => of x | _ => false
/-- A Chart entry enters its home controller's cache. A full cache (4,096 entries) gives one up that no request uses,
whose sharers' lines are invalidated first (R376, R380); which one is open, and no request's outcome depends on it. An
entry that is there already keeps its sharers. -/
def cacheEntry (page : Nat) (v : BitVec 32) (s : State) : State :=
  match tlook s.chartCache page with
  | some l => { s with chartCache := tput s.chartCache page { l with entry := v } }
  | none =>
    let mine := s.chartCache.filter fun e => e.1 % 4 == page % 4
    let s := if 4096 ≤ mine.length then
        match mine.find? fun e => !entryBusy s e.1 with
        | some (p, l) => { dropPageLines p l.sharers s with chartCache := terase s.chartCache p }
        | none => s
      else s
    { s with chartCache := tput s.chartCache page ⟨v, []⟩ }

/-- The entry by which the home controller translates a page, from its cache or fetched (R376); `none`:
uncorrectable. -/
def chartEntry (page : Nat) (s : State) : Option (BitVec 32) × State :=
  match tlook s.chartCache page with
  | some l => (some l.entry, s)
  | none =>
    let (v, r, s) := chartFetch page (satF (fHBM_XLAT_MISS (page % 4)) 1 s)
    if r = 2 then (none, s) else (some v, cacheEntry page v s)
/-- A fetch of the entry of a page is outstanding (R376). -/
def fetching (s : State) (page : Nat) : Bool := s.xlatWait.any fun w => (w.addr - hbmVBase) / 65536 == page

/-- The owner check of R375. -/
def ownerPass (s : State) (m owner : Nat) : Bool :=
  if m ≤ 0x3F then (match partOf s m with | some (k, _) => k == owner | none => false)
  else if 0x80 ≤ m ∧ m ≤ 0xBF then
    m == 0x80 || (match partAt s owner with | some p => p.func == m - 0x80 | none => false)
  else true
/-- Steps 2 to 4 of R375: the raw address, or the status and the Logbook TYPE of a failure. -/
def chartDecide (s : State) (v : BitVec 32) (m : Nat) (wr : Bool) (hva : Nat) : Except (Nat × Nat) Nat :=
  let perm := bits v.toNat 27 2
  let owner := bits v.toNat 21 6
  if ¬ v.getLsbD 29 then .error (3, 2)
  else if perm ≠ 3 ∧ ¬ ownerPass s m owner then .error (1, 7)
  else if perm = 0 ∨ (wr ∧ perm = 1) then .error (1, 7)
  else .ok (rawOf (getF s (fHBM_SEED_SEED owner)) (bits v.toNat 0 21 * 65536 + hva % 65536))

/-- A refusal at a home controller writes its Logbooks (R375). -/
def chartRefuse (node addr m : Nat) (st ty : Nat) (s : State) : State :=
  if st = 1 then refusalLog node addr m ty 1 s else tgtLog node addr m ty st s

/-- A write to a page invalidates the written line in every sharer but the writing sequencer (R380); where a sharer's
domain is not in Run its whole cache goes (R412). -/
def invalidateLine (hva m : Nat) (s : State) : State :=
  match tlook s.chartCache (hva / 65536) with
  | some l => (l.sharers.filter (· != m)).foldl (fun s n =>
      updCore n (fun c => { c with cache := if domOpen s (quadDom n) then terase c.cache (hva / 64) else [] }) s) s
  | none => s

/-! ### HBM stacks (R368, R369, R559) -/

/-- The stack of a raw address failed training. -/
def stackFailed (s : State) (ra : Nat) : Bool := bitF s (fHBM_STAT_FAILED (bits ra 35 2))
def hbmErrValue (s : State) (k : Nat) : Nat := getF s (fHBM_ERR_UE_CNT k) + getF s (fHBM_ERR_LPC k) * 2 ^ 16
/-- A request to a stack out of service (R368). -/
def stackLost (ra m : Nat) (s : State) : State :=
  let k := bits ra 35 2
  devLogM 10 2 3 m (rawNode ra) (k + bits ra 30 5 * 4) (hbmErrValue s k) s
/-- The channel of a raw address is out of service for recalibration (R559). -/
def channelHeld (s : State) (ra : Nat) : Bool := s.hbmHeld.contains (16 * bits ra 35 2 + bits ra 30 5 / 2)

/-- The bursts of 32 bytes that an access touches, by raw address over 32 (R368). -/
def burstsOf (ra : Nat) (en : List Bool) : List Nat :=
  ((List.range ((ra + en.length + 31) / 32 - ra / 32)).map (· + ra / 32)).filter fun b =>
    (List.range 32).any fun i => decide (ra ≤ 32 * b + i) && en.getD (32 * b + i - ra) false
/-- A write fills the whole of a burst. -/
def fillsBurst (ra : Nat) (en : List Bool) (b : Nat) : Bool :=
  (List.range 32).all fun i => decide (ra ≤ 32 * b + i) && en.getD (32 * b + i - ra) false
/-- What the stack reports of some bursts that it reads: 0 nothing, 1 corrected, 2 uncorrectable (R369). -/
def burstErr (s : State) (bs : List Nat) : Nat := bs.foldl (fun m b => max m (tget 0 s.hbmErr b)) 0
/-- A corrected or an uncorrectable read is counted, and the latter logged (R369). -/
def hbmNote (ra m r : Nat) (s : State) : State :=
  let k := bits ra 35 2
  if r = 0 then s
  else if r = 1 then satF (fHBM_STAT_CE_CNT k) 1 s
  else
    let s := setF (fHBM_ERR_LPC k) (bits ra 30 5) (satF (fHBM_ERR_UE_CNT k) 1 s)
    devLogM 10 2 4 m (rawNode ra) (k + bits ra 30 5 * 4) (hbmErrValue s k) s
/-- A read of a stack (R369): status, data, and the words of uncorrectable bursts. -/
def hbmRead (ra m : Nat) (en : List Bool) (s : State) : Nat × List Byte × Nat × State :=
  let r := burstErr s (burstsOf ra en)
  let po := ((List.range 8).filter fun w => (List.range en.length).any fun i =>
    en.getD i false && (ra + i) / 8 % 8 == w && tget 0 s.hbmErr ((ra + i) / 32) == 2).foldl (fun p w => p + 2 ^ w) 0
  (if r = 2 then 4 else 0,
    (List.range en.length).map (fun i => if en.getD i false then memByte s (hbmRBase + ra + i) else 0), po, hbmNote ra m r s)
/-- A write of a stack (R368, R369): a burst that it does not fill is read, merged and written whole; when such a read is
uncorrectable the write is not performed. -/
def hbmWrite (ra m : Nat) (en : List Bool) (data : List Byte) (s : State) : Nat × State :=
  let bs := burstsOf ra en
  let r := burstErr s (bs.filter fun b => !fillsBurst ra en b)
  let s := hbmNote ra m r s
  if r = 2 then (4, s)
  else (0, (List.range en.length).foldl (fun s i =>
    if en.getD i false then setByte (hbmRBase + ra + i) (data.getD i 0) s else s)
    { s with hbmErr := s.hbmErr.filter fun e => !bs.contains e.1 })

/-! ### One access -/

/-- How an access ends; `poison` has bit w set when 8-byte word w of the data is uncorrectable (R399). -/
inductive Resp where
  | wait
  | done (status : Nat) (data : List Byte) (poison : Nat := 0)
  deriving DecidableEq, Repr

/-- The router edge of a dark domain takes a request (R409, R410, R524): `none`: it passes. -/
def edgeCheck (src d : Nat) (s : State) : Option Resp × State :=
  if domOpen s d then (none, { s with retryQ := s.retryQ.filter fun e => !(e.1 == src && e.2.2.2 == .access src) })
  else if bitF s (fPWR_DOM_FAULT d) then (some (.done 7 []), s)
  else
    let x := getDom s d
    if x.anch.contains (.access src) ∨ s.retryQ.any (fun e => e.1 == src && e.2.2.2 == .access src) then (some .wait, s)
    else
      let full := decide (8 ≤ x.anch.length) || (match x.trans with | some t => t.reset | none => false)
      if full then
        (some .wait, satF (fNI_STAT_RETRY src) 1 { s with retryQ := s.retryQ ++ [(src, d, 0, .access src)] })
      else (some .wait, postWake d 7 (updDom d (fun x => { x with anch := x.anch ++ [.access src] }) s))

/-- The stack controller of a raw address serves a request. -/
def hbmServe (ra m : Nat) (wr : Bool) (en : List Bool) (data : List Byte) (s : State) : Resp × State :=
  if wr then let (st, s) := hbmWrite ra m en data s; (.done st [], s)
  else let (st, d, po, s) := hbmRead ra m en s; (.done st d po, s)
/-- A home controller forwards a translated request from its own NI to the controller of its stack, and has the response
back (R376); on its own tile it serves the request itself. -/
def forward (node ra a m : Nat) (wr : Bool) (en : List Bool) (data : List Byte) (s : State) : Resp × State :=
  let dest := rawNode ra
  let serve (s : State) : Resp × State :=
    if channelHeld s ra then (.wait, s) else hbmServe ra m wr en data s
  if nodeDom dest = nodeDom node then serve s
  else match tlook s.verdict node with
  | some st =>
    let s := { s with verdict := terase s.verdict node }
    (.done st [], if st = 7 then wakeTimedOut node a m s else timedOut 0 node dest a m s)
  | none =>
    match routeFailsAt s node dest with
    | some x =>
      (match requestFails x 0 node dest a m s with
        | (true, s) => (.done 5 [], s)
        | (false, s) => if getF s fNOC_TMO_TIMEOUT = 0 then (.wait, s) else (.done 6 [], timedOut 0 node dest a m s))
    | none =>
      match edgeCheck node (nodeDom dest) s with
      | (some (.done st _ _), s) => (.done st [], wakeTimedOut node a m s)
      | (some .wait, s) => (.wait, s)
      | (none, s) =>
        match serve s, routeFailsAt s dest node with
        | (.done _ _ _, s), some k =>
          let s := routeDiscard k 1 dest node s
          if getF s fNOC_TMO_TIMEOUT = 0 then (.wait, s) else (.done 6 [], timedOut 0 node dest a m s)
        | x, _ => x

/-- The target serves a request to memory that its router edge has passed. -/
def serveMem (r : Region) (node m : Nat) (wr : Bool) (a : Nat) (en : List Bool) (data : List Byte) (s : State) :
    Resp × State :=
  if ¬ aclAllows s node m wr a then (.done 1 [], refusalLog node (a / 64 * 64) m (b2n wr) 1 s)
  else match r with
  | .staging =>
    if lineBorrowed s a then (.wait, s)
    else if wr then let (st, s) := secWrite (stgNote m) a en data s; (.done st [], s)
    else let (st, d, po, s) := secRead (stgNote m) a en s; (.done st d po, s)
  | .spad =>
    if wr then let (st, s) := secWrite (spadNote node m 4) a en data s; (.done st [], s)
    else let (st, d, po, s) := secRead (spadNote node m 4) a en s; (.done st d po, s)
  | .regs => (.done 0 [], s)
  | .raw =>
    let ra := a - hbmRBase
    if stackFailed s ra then (.done 3 [], stackLost ra m s)
    else if channelHeld s ra then (.wait, s)
    else hbmServe ra m wr en data s
  | .xlat =>
    let hva := a - hbmVBase
    if fetching s (hva / 65536) then (.wait, s)
    else
      let (v, s) := chartEntry (hva / 65536) s
      match v with
      | none => (.done 4 [], s)
      | some v =>
        match chartDecide s v m wr hva with
        | .error (st, ty) => (.done st [], chartRefuse node (a / 64 * 64) m st ty s)
        | .ok ra =>
          if stackFailed s ra then (.done 3 [], stackLost ra m s)
          else
            match forward node ra (a / 64 * 64) m wr en data s with
            | (.done 0 d po, s) => (.done 0 d po, if wr then invalidateLine hva m s else s)
            | x => x

/-- The answer to a request of the NI of a node is lost on its way: the request ends by timeout, if there is one (R395,
R407); without, verdict 8 keeps it waiting. -/
def answerLost (net src dest a m : Nat) (s : State) : Resp × State :=
  if getF s fNOC_TMO_TIMEOUT = 0 then (.wait, { s with verdict := tput s.verdict src 8 })
  else (.done 6 [], timedOut net src dest a m s)
/-- A write's DAT flit, or the data of a response, goes the same way and is discarded there too (R395). -/
def discardData (b : Bool) (x : RouteErr) (src dest : Nat) (s : State) : State :=
  if b ∧ x.router ≠ 40 then routeDiscard x 2 src dest s else s
/-- One request of the NI of a node, within one aligned 64-byte line (R362): the address, the enables of its bytes and
the data of a write. The register range is answered elsewhere (R623). -/
def nocAccess (src m : Nat) (wr : Bool) (a : Nat) (en : List Bool) (data : List Byte) (s : State) : Resp × State :=
  let line := a / 64 * 64
  match tlook s.verdict src with
  | some 8 => (.wait, s)
  | some st =>
    let s := { s with verdict := terase s.verdict src }
    let node := match locate a with | some (_, d) => d | none => 0
    (.done st [], if st = 7 then wakeTimedOut src line m s else timedOut 0 src node line m s)
  | none =>
    match locate a with
    | none => (.done 3 [], tgtLog src line m 2 3 s)
    | some (r, node) =>
      if routeHeld s src node || !mayInject s ⟨src, node, 0, .req ⟨src, m, wr, a, en, data⟩⟩ then (.wait, s)
      else match routeFailsAt s src node with
      | some x =>
        (match requestFails x 0 src node line m s with
          | (true, s) => (.done 5 [], discardData wr x src node s)
          | (false, s) => answerLost 0 src node line m (discardData wr x src node s))
      | none =>
        let (e, s) := edgeCheck src (nodeDom node) s
        match e with
        | some (.done st d po) => (.done st d po, wakeTimedOut src line m s)
        | some .wait => (.wait, s)
        | none =>
          let (x, s) := serveMem r node m wr a en data s
          match x, routeFailsAt s node src with
          | .done st d po, none => (.done st d po, s)
          | .done st _ _, some k =>
            answerLost 0 src node line m (discardData (!wr && (st == 0 || st == 4)) k node src (routeDiscard k 1 node src s))
          | .wait, _ => (.wait, s)

/-- The lines an access of n bytes at a touches, as (address, length) (R362). -/
def linesOf : Nat → Nat → Nat → List (Nat × Nat)
  | 0, _, _ => []
  | fuel + 1, a, n =>
    if n = 0 then [] else
      let k := min n (64 - a % 64)
      (a, k) :: linesOf fuel (a + k) (n - k)
def splitLines (a n : Nat) : List (Nat × Nat) := linesOf (n / 64 + 2) a n

end Sys2Proof.Machine
end

