-- ==== Sys2Proof/Machine/Belsar.lean ====
section
/-! DEFINITION. The Belsar instruction word (R253–R255, R264–R268): operations, forms, decoding and encoding. -/
namespace Sys2Proof.Machine
open Sys2Proof

/-- The operations of the Belsar core, as the table of operations names them. -/
inductive Op where
  | add | sub | andOp | orOp | xorOp | andn | sll | srl
  | sra | ror | mul | mulh | mulhu | div | divu | rem
  | remu | seteq | setne | setlt | setltu | min | max | minu
  | maxu | perm | clz | ctz | popc | addi | andi | ori
  | xori | setlti | setltui | lsi | ld8 | ld16 | ld32 | ld64
  | ld8s | ld16s | ld32s | st8 | st16 | st32 | st64 | ild
  | inPort | outPort | loop | beq | bne | blt | bge | bltu
  | bgeu | beqz | bnez | bltz | bgez | bgtz | blez | jmp
  | call | callr | acall | bfx | bfi | mfsr | mtsr | slli
  | srli | srai | returnOp | jr | eret | haltOp | await | asnd
  | brk | shortNop | mov | shortAdd | shortSub | shortAnd | shortOr | shortXor
  | notOp | neg | adds | movi | slls | srls | sras | shortClz
  | shortCtz | shortPopc | ldq | stq | ldqp | stqp | zxw | sxw
  | bswap | rep | repi
  deriving DecidableEq, Repr

/-- How an operation lays out its operands (R254, R264), with the fields R265 to R268 require to be zero. -/
inductive Form where
  | r | ru | sys0 | sysS | sysD | i | b | bz | loop | jmp | call | callr | acall | bfx | bfi | mfsr | mtsr | shi
  | s | s0 | sRep | sNe
  deriving DecidableEq, Repr

/-- An operation with its operands. `imm` is the raw immediate, offset or entry; for a bit field, pos + 64 len6 +
4096 S. `m8` is a CALL's mask. An operand the form does not have is 0. -/
structure BOp where
  op : Op
  rd : Nat
  rs : Nat
  rt : Nat
  imm : Nat
  m8 : Nat
  deriving DecidableEq, Repr

/-- An instruction word: a long operation or a pair of short ones. -/
inductive BWord where
  | long (o : BOp)
  | pair (a b : BOp)
  deriving DecidableEq, Repr

def Op.form : Op → Form
  | .addi | .andi | .ori | .xori | .setlti | .setltui | .lsi | .ld8 | .ld16 => .i
  | .ld32 | .ld64 | .ld8s | .ld16s | .ld32s | .st8 | .st16 | .st32 | .st64 => .i
  | .ild | .inPort | .outPort => .i
  | .add | .sub | .andOp | .orOp | .xorOp | .andn | .sll | .srl | .sra => .r
  | .ror | .mul | .mulh | .mulhu | .div | .divu | .rem | .remu | .seteq => .r
  | .setne | .setlt | .setltu | .min | .max | .minu | .maxu | .perm => .r
  | .mov | .shortAdd | .shortSub | .shortAnd | .shortOr | .shortXor | .notOp | .neg | .adds => .s
  | .movi | .slls | .srls | .sras | .shortClz | .shortCtz | .shortPopc | .ldq | .stq => .s
  | .stqp | .zxw | .sxw | .bswap | .repi => .s
  | .beq | .bne | .blt | .bge | .bltu | .bgeu => .b
  | .beqz | .bnez | .bltz | .bgez | .bgtz | .blez => .bz
  | .slli | .srli | .srai => .shi
  | .clz | .ctz | .popc => .ru
  | .returnOp | .eret | .haltOp | .await | .brk => .sys0
  | .jr => .sysS
  | .asnd => .sysD
  | .loop => .loop
  | .jmp => .jmp
  | .call => .call
  | .callr => .callr
  | .acall => .acall
  | .bfx => .bfx
  | .bfi => .bfi
  | .mfsr => .mfsr
  | .mtsr => .mtsr
  | .shortNop => .s0
  | .rep => .sRep
  | .ldqp => .sNe

/-- Major opcode and func of a long operation (R265–R267), or 64 and the code of a short one (R264). -/
def Op.code : Op → Nat × Nat
  | .add => (0x0, 0x0)
  | .sub => (0x0, 0x1)
  | .andOp => (0x0, 0x2)
  | .orOp => (0x0, 0x3)
  | .xorOp => (0x0, 0x4)
  | .andn => (0x0, 0x5)
  | .sll => (0x0, 0x6)
  | .srl => (0x0, 0x7)
  | .sra => (0x0, 0x8)
  | .ror => (0x0, 0x9)
  | .mul => (0x0, 0xa)
  | .mulh => (0x0, 0xb)
  | .mulhu => (0x0, 0xc)
  | .div => (0x0, 0xd)
  | .divu => (0x0, 0xe)
  | .rem => (0x0, 0xf)
  | .remu => (0x0, 0x10)
  | .seteq => (0x0, 0x11)
  | .setne => (0x0, 0x12)
  | .setlt => (0x0, 0x13)
  | .setltu => (0x0, 0x14)
  | .min => (0x0, 0x15)
  | .max => (0x0, 0x16)
  | .minu => (0x0, 0x17)
  | .maxu => (0x0, 0x18)
  | .perm => (0x0, 0x19)
  | .clz => (0x0, 0x1a)
  | .ctz => (0x0, 0x1b)
  | .popc => (0x0, 0x1c)
  | .addi => (0x1, 0x0)
  | .andi => (0x2, 0x0)
  | .ori => (0x3, 0x0)
  | .xori => (0x4, 0x0)
  | .setlti => (0x5, 0x0)
  | .setltui => (0x6, 0x0)
  | .lsi => (0x7, 0x0)
  | .ld8 => (0x8, 0x0)
  | .ld16 => (0x9, 0x0)
  | .ld32 => (0xa, 0x0)
  | .ld64 => (0xb, 0x0)
  | .ld8s => (0xc, 0x0)
  | .ld16s => (0xd, 0x0)
  | .ld32s => (0xe, 0x0)
  | .st8 => (0x10, 0x0)
  | .st16 => (0x11, 0x0)
  | .st32 => (0x12, 0x0)
  | .st64 => (0x13, 0x0)
  | .ild => (0x14, 0x0)
  | .inPort => (0x15, 0x0)
  | .outPort => (0x16, 0x0)
  | .loop => (0x17, 0x0)
  | .beq => (0x18, 0x0)
  | .bne => (0x19, 0x0)
  | .blt => (0x1a, 0x0)
  | .bge => (0x1b, 0x0)
  | .bltu => (0x1c, 0x0)
  | .bgeu => (0x1d, 0x0)
  | .beqz => (0x1e, 0x0)
  | .bnez => (0x1f, 0x0)
  | .bltz => (0x20, 0x0)
  | .bgez => (0x21, 0x0)
  | .bgtz => (0x22, 0x0)
  | .blez => (0x23, 0x0)
  | .jmp => (0x24, 0x0)
  | .call => (0x25, 0x0)
  | .callr => (0x26, 0x0)
  | .acall => (0x27, 0x0)
  | .bfx => (0x28, 0x0)
  | .bfi => (0x29, 0x0)
  | .mfsr => (0x2b, 0x0)
  | .mtsr => (0x2c, 0x0)
  | .slli => (0x2d, 0x0)
  | .srli => (0x2e, 0x0)
  | .srai => (0x2f, 0x0)
  | .returnOp => (0x2a, 0x0)
  | .jr => (0x2a, 0x1)
  | .eret => (0x2a, 0x2)
  | .haltOp => (0x2a, 0x3)
  | .await => (0x2a, 0x4)
  | .asnd => (0x2a, 0x5)
  | .brk => (0x2a, 0x6)
  | .shortNop => (0x40, 0x0)
  | .mov => (0x40, 0x1)
  | .shortAdd => (0x40, 0x2)
  | .shortSub => (0x40, 0x3)
  | .shortAnd => (0x40, 0x4)
  | .shortOr => (0x40, 0x5)
  | .shortXor => (0x40, 0x6)
  | .notOp => (0x40, 0x7)
  | .neg => (0x40, 0x8)
  | .adds => (0x40, 0x9)
  | .movi => (0x40, 0xa)
  | .slls => (0x40, 0xb)
  | .srls => (0x40, 0xc)
  | .sras => (0x40, 0xd)
  | .shortClz => (0x40, 0xe)
  | .shortCtz => (0x40, 0xf)
  | .shortPopc => (0x40, 0x10)
  | .ldq => (0x40, 0x11)
  | .stq => (0x40, 0x12)
  | .ldqp => (0x40, 0x13)
  | .stqp => (0x40, 0x14)
  | .zxw => (0x40, 0x15)
  | .sxw => (0x40, 0x16)
  | .bswap => (0x40, 0x17)
  | .rep => (0x40, 0x18)
  | .repi => (0x40, 0x19)

/-- Operations of major opcode 0x00 by func (R266). -/
def aluOps : List Op :=
  [.add, .sub, .andOp, .orOp, .xorOp, .andn, .sll, .srl, .sra,
   .ror, .mul, .mulh, .mulhu, .div, .divu, .rem, .remu, .seteq,
   .setne, .setlt, .setltu, .min, .max, .minu, .maxu, .perm, .clz,
   .ctz, .popc]
/-- Operations of major opcode 0x2A by func (R267). -/
def sysOps : List Op :=
  [.returnOp, .jr, .eret, .haltOp, .await, .asnd, .brk]
/-- Short operations by code (R264). -/
def shortOps : List Op :=
  [.shortNop, .mov, .shortAdd, .shortSub, .shortAnd, .shortOr, .shortXor, .notOp, .neg,
   .adds, .movi, .slls, .srls, .sras, .shortClz, .shortCtz, .shortPopc, .ldq,
   .stq, .ldqp, .stqp, .zxw, .sxw, .bswap, .rep, .repi]
/-- Long operations with a major opcode of their own (R265). -/
def majorOp : Nat → Option Op
  | 0x1 => some .addi
  | 0x2 => some .andi
  | 0x3 => some .ori
  | 0x4 => some .xori
  | 0x5 => some .setlti
  | 0x6 => some .setltui
  | 0x7 => some .lsi
  | 0x8 => some .ld8
  | 0x9 => some .ld16
  | 0xa => some .ld32
  | 0xb => some .ld64
  | 0xc => some .ld8s
  | 0xd => some .ld16s
  | 0xe => some .ld32s
  | 0x10 => some .st8
  | 0x11 => some .st16
  | 0x12 => some .st32
  | 0x13 => some .st64
  | 0x14 => some .ild
  | 0x15 => some .inPort
  | 0x16 => some .outPort
  | 0x17 => some .loop
  | 0x18 => some .beq
  | 0x19 => some .bne
  | 0x1a => some .blt
  | 0x1b => some .bge
  | 0x1c => some .bltu
  | 0x1d => some .bgeu
  | 0x1e => some .beqz
  | 0x1f => some .bnez
  | 0x20 => some .bltz
  | 0x21 => some .bgez
  | 0x22 => some .bgtz
  | 0x23 => some .blez
  | 0x24 => some .jmp
  | 0x25 => some .call
  | 0x26 => some .callr
  | 0x27 => some .acall
  | 0x28 => some .bfx
  | 0x29 => some .bfi
  | 0x2b => some .mfsr
  | 0x2c => some .mtsr
  | 0x2d => some .slli
  | 0x2e => some .srli
  | 0x2f => some .srai
  | _ => none

/-- The long operation of a major opcode and func; `none`: unassigned (R253). -/
def longOp (major func : Nat) : Option Op :=
  if major = 0 then aluOps[func]? else if major = 0x2A then sysOps[func]? else majorOp major

/-- The operands of a long operation from its word, or `none` where a field required to be zero is not (R253, R254). -/
def longFields (op : Op) (w : Nat) : Option BOp :=
  let f (lo n : Nat) : Nat := bits w lo n
  let z (lo n : Nat) : Bool := f lo n == 0
  let mk (c : Bool) (rd rs rt imm m8 : Nat) : Option BOp := if c then some ⟨op, rd, rs, rt, imm, m8⟩ else none
  match op.form with
  | .r => mk (z 9 1) (f 20 5) (f 15 5) (f 10 5) 0 0
  | .ru => mk (z 9 6) (f 20 5) (f 15 5) 0 0 0
  | .sys0 => mk (z 9 16) 0 0 0 0 0
  | .sysS => mk (z 20 5 && z 9 6) 0 (f 15 5) 0 0 0
  | .sysD => mk (z 9 11) (f 20 5) 0 0 0 0
  | .i => mk (z 14 1) (f 20 5) (f 15 5) 0 (f 0 14) 0
  | .shi => mk (z 6 9) (f 20 5) (f 15 5) 0 (f 0 6) 0
  | .b => mk (z 14 1) 0 (f 20 5) (f 15 5) (f 0 14) 0
  | .bz => mk (z 14 6) 0 (f 20 5) 0 (f 0 14) 0
  | .loop => mk (z 22 3 && z 14 1 && !z 0 14) (f 20 2) (f 15 5) 0 (f 0 14) 0
  | .jmp => mk (z 16 9) 0 0 0 (f 0 16) 0
  | .call => mk (z 16 1) 0 0 0 (f 0 16) (f 17 8)
  | .callr => mk (z 20 5 && z 8 7) 0 (f 15 5) 0 0 (f 0 8)
  | .acall => mk (z 0 7 && f 7 5 != 31) 0 (f 7 5) 0 (f 12 13) 0
  | .bfx => mk (z 0 2) (f 20 5) (f 15 5) 0 (f 9 6 + 64 * f 3 6 + 4096 * f 2 1) 0
  | .bfi => mk (z 0 3) (f 20 5) (f 15 5) 0 (f 9 6 + 64 * f 3 6) 0
  | .mfsr => mk (z 14 6) (f 20 5) 0 0 (f 0 14) 0
  | .mtsr => mk (z 20 5 && z 14 1) 0 (f 15 5) 0 (f 0 14) 0
  | _ => none

/-- A short operation from its 15 bits (R264). -/
def shortFields (h : Nat) : Option BOp :=
  match shortOps[bits h 10 5]? with
  | none => none
  | some op =>
    let rd := bits h 5 5
    let rs := bits h 0 5
    let c := match op.form with
      | .s0 => rd == 0 && rs == 0 | .sRep => rd == 0 | .sNe => rd != rs | _ => true
    if c then some ⟨op, rd, rs, 0, 0, 0⟩ else none

/-- Decoding of an instruction word; `none`: it traps with cause 1 (R253). -/
def decodeBelsar (w : Nat) : Option BWord :=
  if bits w 31 1 = 0 then
    match longOp (bits w 25 6) (bits w 0 9) with
    | some op => (longFields op w).map .long
    | none => none
  else if bits w 0 1 = 0 then
    match shortFields (bits w 16 15), shortFields (bits w 1 15) with
    | some a, some b => some (.pair a b)
    | _, _ => none
  else none

/-- The operand bits of a long operation. -/
def longBits (o : BOp) : Nat :=
  let func := o.op.code.2
  match o.op.form with
  | .r | .ru | .sys0 | .sysS | .sysD => o.rd * 2 ^ 20 + o.rs * 2 ^ 15 + o.rt * 2 ^ 10 + func
  | .i | .shi | .mfsr | .mtsr | .loop => o.rd * 2 ^ 20 + o.rs * 2 ^ 15 + o.imm
  | .b | .bz => o.rs * 2 ^ 20 + o.rt * 2 ^ 15 + o.imm
  | .jmp | .call => o.m8 * 2 ^ 17 + o.imm
  | .callr => o.rs * 2 ^ 15 + o.m8
  | .acall => o.imm * 2 ^ 12 + o.rs * 2 ^ 7
  | .bfx | .bfi =>
    o.rd * 2 ^ 20 + o.rs * 2 ^ 15 + bits o.imm 0 6 * 2 ^ 9 + bits o.imm 6 6 * 2 ^ 3 + bits o.imm 12 1 * 2 ^ 2
  | _ => 0
/-- The 15 bits of a short operation. -/
def shortBits (o : BOp) : Nat := o.op.code.2 * 2 ^ 10 + o.rd * 2 ^ 5 + o.rs
/-- The word of an instruction (R254, R264). -/
def encodeBelsar : BWord → Nat
  | .long o => o.op.code.1 * 2 ^ 25 + longBits o
  | .pair a b => 2 ^ 31 + shortBits a * 2 ^ 16 + shortBits b * 2

/-- The operands an operation may have: each within its field, and 0 where its form has none. -/
def BOp.wf (o : BOp) : Bool :=
  let n5 (v : Nat) : Bool := decide (v < 32)
  match o.op.form with
  | .r => n5 o.rd && n5 o.rs && n5 o.rt && o.imm == 0 && o.m8 == 0
  | .ru => n5 o.rd && n5 o.rs && o.rt == 0 && o.imm == 0 && o.m8 == 0
  | .sys0 => o.rd == 0 && o.rs == 0 && o.rt == 0 && o.imm == 0 && o.m8 == 0
  | .sysS => o.rd == 0 && n5 o.rs && o.rt == 0 && o.imm == 0 && o.m8 == 0
  | .sysD => n5 o.rd && o.rs == 0 && o.rt == 0 && o.imm == 0 && o.m8 == 0
  | .i => n5 o.rd && n5 o.rs && o.rt == 0 && decide (o.imm < 2 ^ 14) && o.m8 == 0
  | .shi => n5 o.rd && n5 o.rs && o.rt == 0 && decide (o.imm < 64) && o.m8 == 0
  | .b => o.rd == 0 && n5 o.rs && n5 o.rt && decide (o.imm < 2 ^ 14) && o.m8 == 0
  | .bz => o.rd == 0 && n5 o.rs && o.rt == 0 && decide (o.imm < 2 ^ 14) && o.m8 == 0
  | .loop => decide (o.rd < 4) && n5 o.rs && o.rt == 0 && decide (o.imm < 2 ^ 14) && o.imm != 0 && o.m8 == 0
  | .jmp => o.rd == 0 && o.rs == 0 && o.rt == 0 && decide (o.imm < 2 ^ 16) && o.m8 == 0
  | .call => o.rd == 0 && o.rs == 0 && o.rt == 0 && decide (o.imm < 2 ^ 16) && decide (o.m8 < 256)
  | .callr => o.rd == 0 && n5 o.rs && o.rt == 0 && o.imm == 0 && decide (o.m8 < 256)
  | .acall => o.rd == 0 && decide (o.rs < 31) && o.rt == 0 && decide (o.imm < 2 ^ 13) && o.m8 == 0
  | .bfx => n5 o.rd && n5 o.rs && o.rt == 0 && decide (o.imm < 2 ^ 13) && o.m8 == 0
  | .bfi => n5 o.rd && n5 o.rs && o.rt == 0 && decide (o.imm < 2 ^ 12) && o.m8 == 0
  | .mfsr => n5 o.rd && o.rs == 0 && o.rt == 0 && decide (o.imm < 2 ^ 14) && o.m8 == 0
  | .mtsr => o.rd == 0 && n5 o.rs && o.rt == 0 && decide (o.imm < 2 ^ 14) && o.m8 == 0
  | .s => n5 o.rd && n5 o.rs && o.rt == 0 && o.imm == 0 && o.m8 == 0
  | .s0 => o.rd == 0 && o.rs == 0 && o.rt == 0 && o.imm == 0 && o.m8 == 0
  | .sRep => o.rd == 0 && n5 o.rs && o.rt == 0 && o.imm == 0 && o.m8 == 0
  | .sNe => n5 o.rd && n5 o.rs && o.rd != o.rs && o.rt == 0 && o.imm == 0 && o.m8 == 0
/-- A short operation. -/
def Op.short (o : Op) : Bool := o.code.1 == 64
/-- An instruction word whose operations stand where they may, with operands they may have. -/
def BWord.wf : BWord → Bool
  | .long o => !o.op.short && o.wf
  | .pair a b => a.op.short && b.op.short && a.wf && b.wf

end Sys2Proof.Machine
end

