-- ==== Sys2Proof/Machine/BelsarRun.lean ====
section
/-! DEFINITION. How the Belsar core runs a word: data accesses, the effects of operations, pairs, repeats, loop ends,
traps (chapter 09, R291–R302). -/
namespace Sys2Proof.Machine
open Sys2Proof

/-- How an operation ends: done, with where control goes when it does not go on in order (address, slot, repeat); a
trap; a wait of R291; a response not yet back; or the core halts. -/
inductive OpRes where
  | done (s : State) (goto : Option (BitVec 14 × Bool × Option Rep))
  | trap (s : State) (cause status why : Nat) (bad : Option (BitVec 32)) (mcsrc : Nat)
  | wait (s : State)
  | stall (s : State)
  | halt (s : State) (why : Nat)
  deriving DecidableEq, Repr

/-- Register r of sequencer n's core. -/
def regOf (s : State) (n r : Nat) : Word := readReg (getCore s n) r
def setReg (n r : Nat) (v : Word) (s : State) : State := updCore n (writeReg r v) s
/-- An operation that writes one register. -/
def wrote (n r : Nat) (v : Word) (s : State) : OpRes := .done (setReg n r v s) none
/-- The signed 14-bit immediate. -/
def immS (o : BOp) : Word := (BitVec.ofNat 14 o.imm).signExtend 64
def immU (o : BOp) : Word := BitVec.ofNat 64 o.imm
def boolW (b : Bool) : Word := if b then 1 else 0

/-! ### Arithmetic (R264–R271) -/

def clzW (v : Word) : Word := if v = 0 then 64 else BitVec.ofNat 64 (63 - v.toNat.log2)
/-- Zero bits below the lowest set bit, of the bits from k on. -/
def ctzFrom (v : Nat) : Nat → Nat → Nat
  | 0, k => k
  | fuel + 1, k => if v.testBit k then k else ctzFrom v fuel (k + 1)
def ctzW (v : Word) : Word := BitVec.ofNat 64 (ctzFrom v.toNat 64 0)
def popW (v : Word) : Word := BitVec.ofNat 64 (popc 6 v.toNat)
def bswapW (v : Word) : Word := BitVec.ofNat 64 (leNum ((leBytes 8 v.toNat).reverse))
/-- R270. -/
def permW (rs rd rt : Word) : Word :=
  BitVec.ofNat 64 (leNum ((List.range 8).map fun i =>
    let k := bits rt.toNat (4 * i) 4
    if k < 8 then wordByte rs k else wordByte rd (k - 8)))
/-- Quotients and remainders of R269. -/
def divW (a b : Word) : Word := if b = 0 then BitVec.allOnes 64 else a.sdiv b
def divuW (a b : Word) : Word := if b = 0 then BitVec.allOnes 64 else a / b
def remW (a b : Word) : Word := if b = 0 then a else a.srem b
def remuW (a b : Word) : Word := if b = 0 then a else a % b
def mulhW (a b : Word) : Word := BitVec.ofInt 64 (a.toInt * b.toInt / 2 ^ 64)
def mulhuW (a b : Word) : Word := BitVec.ofNat 64 (a.toNat * b.toNat / 2 ^ 64)
def shAmt (b : Word) : Nat := b.toNat % 64
/-- BFX (R268). -/
def bfxW (rs : Word) (pos len : Nat) (sgn : Bool) : Word :=
  let v := (rs.toNat / 2 ^ pos) % 2 ^ len
  if sgn then (BitVec.ofNat len v).signExtend 64 else BitVec.ofNat 64 v
/-- BFI (R268). -/
def bfiW (rs rd : Word) (pos len : Nat) : Word :=
  let m : Word := BitVec.ofNat 64 ((2 ^ len - 1) * 2 ^ pos)
  (rd &&& ~~~m) ||| (BitVec.ofNat 64 (rs.toNat * 2 ^ pos) &&& m)

/-! ### Data accesses (R273, R379) -/

/-- The regions of data space: 0 scratchpad, 1 staging, 2 + k HBM window k. -/
def dataRegion (a : Nat) : Option Nat :=
  if a < 0x20000 then some 0
  else if 0x4000000 ≤ a ∧ a < 0x8000000 then some 1
  else if 0x80000000 ≤ a ∧ a < 0x100000000 then some (2 + (a - 0x80000000) / 0x20000000)
  else none
/-- The address of a data access in the map of R361. -/
def dataAddr (s : State) (n a : Nat) : Nat :=
  match dataRegion a with
  | some 0 => 0x10000000 + n * 0x20000 + a
  | some 1 => a - 0x4000000
  | some r => hbmVBase + (getSr (getCore s n) (0x20 + (r - 2))).toNat % 256 * 2 ^ 29 + (a - 0x80000000) % 0x20000000
  | none => 0
/-- Whether an access of w bytes raises cause 2. -/
def badData (a w : Nat) : Bool := (dataRegion a).isNone || a % w != 0

/-- Remember that sequencer n has loaded a line of a page (R380). -/
def addSharer (page n : Nat) (s : State) : State :=
  match tlook s.chartCache page with
  | some l => if l.sharers.contains n then s
    else { s with chartCache := tput s.chartCache page { l with sharers := l.sharers ++ [n] } }
  | none => s
/-- A line enters the cache: 64 sets of 4 ways (R379). Which way a full set gives up is open and changes no result. -/
def cacheFill (n line : Nat) (data : List Byte) (s : State) : State :=
  updCore n (fun c =>
    let set := c.cache.filter fun e => e.1 % 64 == line % 64
    let k := match set with | (k, _) :: _ => if 4 ≤ set.length then some k else none | [] => none
    let base := match k with | some k => terase c.cache k | none => c.cache
    let bytes : Tbl Byte := (List.range 64).foldl (fun t i => tset 0 t i (data.getD i 0)) []
    { c with cache := tput base line ⟨bytes⟩ }) s

/-- How a data access ends: the bytes read, or what becomes of its operation. -/
inductive DataRes where
  | ok (data : List Byte) (s : State)
  | no (r : OpRes)
  deriving DecidableEq, Repr

def bad32 (a : Nat) : Option (BitVec 32) := some (BitVec.ofNat 32 a)
/-- A NoC response as the core sees it (R273). -/
def coreResp (a : Nat) (x : Resp × State) : DataRes :=
  match x with
  | (.wait, s) => .no (.stall s)
  | (.done 0 d _, s) => .ok d s
  | (.done st _ _, s) => .no (.trap s 3 st 0 (bad32 a) 0)

/-- A load of w bytes at data address a (R273, R379, R546); a line whose parity fails is fetched again (R542). -/
def coreLoad (n a w : Nat) (e : CoreErr) (s : State) : DataRes :=
  if badData a w then .no (.trap s 2 0 0 (bad32 a) 0)
  else
    let p := dataAddr s n a
    match dataRegion a with
    | some 0 =>
      let (v, r, s) := secWord s (p / 8)
      let r := match e with | .loadCe => max r 1 | .loadUe => 2 | _ => r
      if r = 2 then
        let s := satF (fSEQ_ECC_SPAD_UE n) 1 s
        .no (.trap (devLogM 6 3 0 n n (a % 0x20000 + 2 ^ 63) (seqEccValue s n) s) 10 0 0 none 6)
      else
        let s := if r = 1 then satF (fSEQ_ECC_SPAD_CE n) 1 s else s
        .ok ((List.range w).map fun i => wordByte v (a % 8 + i)) s
    | some 1 => coreResp a (nocAccess n n false p (List.replicate w true) [] s)
    | _ =>
      let line := (p - hbmVBase) / 64
      match (if e = .lineBad then none else tlook (getCore s n).cache line) with
      | some l => .ok ((List.range w).map fun i => tget 0 l.bytes (p % 64 + i)) s
      | none =>
        match coreResp a (nocAccess n n false (p / 64 * 64) (List.replicate 64 true) [] s) with
        | .ok d s => .ok ((d.drop (p % 64)).take w) (addSharer (line / 1024) n (cacheFill n line d s))
        | x => x

/-- A store of bytes at data address a; a line that is present is updated, and the store always goes to HBM (R379). -/
def coreStore (n a : Nat) (data : List Byte) (s : State) : DataRes :=
  let w := data.length
  if badData a w then .no (.trap s 2 0 0 (bad32 a) 0)
  else
    let p := dataAddr s n a
    match dataRegion a with
    | some 0 => .ok [] (secWrite (spadNote n n 0) p (List.replicate w true) data s).2
    | some 1 => coreResp a (nocAccess n n true p (List.replicate w true) data s)
    | _ =>
      match coreResp a (nocAccess n n true p (List.replicate w true) data s) with
      | .ok _ s =>
        let line := (p - hbmVBase) / 64
        .ok [] (updCore n (fun c => match tlook c.cache line with
          | some l =>
            let bytes := (List.range w).foldl (fun t i => tset 0 t (p % 64 + i) (data.getD i 0)) l.bytes
            { c with cache := tput c.cache line (CacheLine.mk bytes) }
          | none => c) s)
      | x => x

/-- A load into rd. -/
def loadOp (n rd : Nat) (ea : Word) (w : Nat) (sgn : Bool) (e : CoreErr) (s : State) : OpRes :=
  match coreLoad n ea.toNat w e s with
  | .ok d s =>
    let v := leNum d
    wrote n rd (if sgn then (BitVec.ofNat (8 * w) v).signExtend 64 else BitVec.ofNat 64 v) s
  | .no r => r
/-- A store of the low bytes of a register. -/
def storeOp (n : Nat) (ea v : Word) (w : Nat) (s : State) : OpRes :=
  match coreStore n ea.toNat (leBytes w v.toNat) s with
  | .ok _ s => .done s none
  | .no r => r

/-! ### Short operations (R264) -/

/-- The value a short register operation writes, from rd and rs. -/
def shortVal (o : BOp) (rd rs : Word) : Word :=
  let imm : Word := (BitVec.ofNat 5 o.rs).signExtend 64
  match o.op with
  | .mov => rs
  | .shortAdd => rd + rs
  | .shortSub => rd - rs
  | .shortAnd => rd &&& rs
  | .shortOr => rd ||| rs
  | .shortXor => rd ^^^ rs
  | .notOp => ~~~rs
  | .neg => 0 - rs
  | .adds => rd + imm
  | .movi => imm
  | .slls => rd <<< o.rs
  | .srls => rd >>> o.rs
  | .sras => rd.sshiftRight o.rs
  | .shortClz => clzW rs
  | .shortCtz => ctzW rs
  | .shortPopc => popW rs
  | .zxw => (rs.setWidth 32).setWidth 64
  | .sxw => (rs.setWidth 32).signExtend 64
  | .bswap => bswapW rs
  | _ => rd

/-- A short operation other than a prefix. -/
def shortOp (n : Nat) (o : BOp) (e : CoreErr) (s : State) : OpRes :=
  let rd := regOf s n o.rd
  let rs := regOf s n o.rs
  match o.op with
  | .shortNop => .done s none
  | .ldq => loadOp n o.rd rs 8 false e s
  | .stq => storeOp n rs rd 8 s
  | .ldqp =>
    match loadOp n o.rd rs 8 false e s with
    | .done s g => .done (setReg n o.rs (rs + 8) s) g
    | r => r
  | .stqp =>
    match storeOp n rs rd 8 s with
    | .done s g => .done (setReg n o.rs (rs + 8) s) g
    | r => r
  | _ => wrote n o.rd (shortVal o rd rs) s

/-! ### Loop ends and the completion of a word (R277, R278) -/

/-- The loop levels at the end of a word: where execution goes on, and the levels' counts. -/
def loopEnd (c : Core) (e : BitVec 14) : BitVec 14 × Core :=
  let (next, c, _) := [3, 2, 1, 0].foldl (fun (next, c, stop) l =>
    let lc := getSr c (8 + l)
    if !stop && lc != 0 && (getSr c (4 + l)).setWidth 14 == e then
      let c := setSr (8 + l) (lc - 1) c
      if lc - 1 ≠ 0 then ((getSr c l).setWidth 14, c, true) else (next, c, false)
    else (next, c, stop)) (e + 1, c, false)
  (next, c)

/-- A word, or a turn of a repeat, has completed. -/
def completeWord (goto : Option (BitVec 14 × Bool × Option Rep)) (c : Core) : Core :=
  let c := { c with state := .running, mid := false }
  match goto with
  | some (t, sl, r) => { c with pc := t, slot := sl, rep := r }
  | none =>
    match c.rep with
    | some r =>
      if 1 < r.rem then { c with rep := some { r with rem := r.rem - 1 }, slot := !r.whole }
      else
        let (next, c) := loopEnd c c.pc
        { c with pc := next, slot := false, rep := none }
    | none =>
      let (next, c) := loopEnd c c.pc
      { c with pc := next, slot := false }

/-- A synchronous trap is raised (R294); TRAP_ENTRY enters it. -/
def raiseTrap (n cause : Nat) (slot : Bool) (status why : Nat) (bad : Option (BitVec 32)) (mcsrc : Nat) (s : State) :
    State :=
  updCore n (fun c => { c with
    state := .running, mid := false, slot := slot,
    trap := some ⟨cause, c.pc, slot, status, why, bad, mcsrc, c.rep⟩ }) s

/-! ### Boundaries (R296, R300) -/

def inTrap (c : Core) : Bool := (getSr c 0x13).getLsbD 2
/-- Interrupt causes in order of priority (R300). -/
def irqOrder : List Nat := [21, 20, 22, 17, 23, 18, 19, 16]
/-- The interrupt that would be taken. -/
def irqDue (c : Core) : Option Nat :=
  if (getSr c 0x13).getLsbD 0 then
    irqOrder.find? fun k => (getSr c 0x15).getLsbD k && (getSr c 0x14).getLsbD k
  else none
/-- An array trap is taken at the next boundary. -/
def arrayDue (s : State) (n : Nat) : Bool := (getSeq s n).atrap.isSome && !inTrap (getCore s n)
/-- A READBACK holds the core of a partition's master (R607). -/
def coreHeld (s : State) (n : Nat) : Bool :=
  s.jobs.any fun j => j.op == 0xD && j.phase == .running && jTarget j == n && decide (3 ≤ j.stage)
/-- The core may run its next word: it is not halted, nothing is to be taken first, and its quad runs. -/
def coreReady (s : State) (n : Nat) : Bool :=
  let c := getCore s n
  c.state != .halted && c.trap.isNone && (c.mid || (!arrayDue s n && (irqDue c).isNone)) &&
    domRun s (quadDom n) && !coreHeld s n

/-- A halt that waited for the word's end takes effect (R289). -/
def finishWord (n : Nat) (s : State) : State :=
  let c := getCore s n
  if bitF s (fSEQ_CTL_HALT n) ∧ ¬ c.mid ∧ ¬ coreHeld s n then haltCore n 4 s else s

/-- What an operation's end means for the word: `slot` is where the operation stood. -/
def settle (n : Nat) (slot : Bool) (r : OpRes) : State :=
  match r with
  | .done s g => finishWord n (updCore n (completeWord g) s)
  | .trap s cause st why bad mc => finishWord n (raiseTrap n cause slot st why bad mc s)
  | .wait s => finishWord n (updCore n (fun c => { c with state := .waiting }) s)
  | .stall s => updCore n (fun c => { c with mid := true, slot := slot }) s
  | .halt s why => haltCore n why s

/-! ### Repeats (R278) -/

/-- Operations a repeat may not contain. -/
def noRepeat (o : Op) : Bool :=
  [Op.rep, .repi, .loop, .beq, .bne, .blt, .bge, .bltu, .bgeu, .beqz, .bnez, .bltz, .bgez, .bgtz, .blez, .jmp, .call,
   .callr, .acall, .returnOp, .jr, .eret, .haltOp, .brk].contains o
def noRepeatWord (w : Option BWord) : Bool :=
  match w with
  | some (.long o) => noRepeat o.op
  | some (.pair a b) => noRepeat a.op || noRepeat b.op
  | none => false
def isPrefix (o : BOp) : Bool := o.op == .rep || o.op == .repi
/-- The count of a prefix. -/
def repCount (s : State) (n : Nat) (o : BOp) : Nat :=
  if o.op = .rep then (regOf s n o.rs).toNat % 2 ^ 32 else o.rd * 32 + o.rs
/-- The word at an address of instruction space; a word never written reads as boot left it, zero (R597). -/
def imemWord (s : State) (n : Nat) (a : BitVec 14) : Option BWord :=
  decodeBelsar (tget 0 (getCore s n).imem a.toNat).toNat
/-- A word whose target a repeat skips: execution goes on at an address with no examination of loop ends. -/
def skipTo (n : Nat) (a : BitVec 14) (s : State) : State :=
  finishWord n (updCore n (fun c => { c with state := .running, mid := false, pc := a, slot := false, rep := none }) s)

/-- A prefix in the second slot has been reached: the word completes and the repeat of the next word begins. -/
def prefixSecond (n : Nat) (b : BOp) (s : State) : State :=
  let k := repCount s n b
  let s := updCore n (completeWord none) s
  let t := (getCore s n).pc
  if k = 0 then skipTo n (t + 1) s
  else finishWord n (updCore n (fun c => { c with rep := some ⟨k, true⟩ }) s)

/-- The core runs a pair, from its second operation when SLOT is 1 (R262, R263, R278). -/
def runPair (n : Nat) (a b : BOp) (e : CoreErr) (s : State) : State :=
  let c := getCore s n
  let target := (loopEnd c c.pc).1
  if isPrefix b ∧ noRepeatWord (imemWord s n target) then raiseTrap n 1 false 0 0 none 0 s
  else if c.slot then
    if isPrefix b then prefixSecond n b s else settle n true (shortOp n b e s)
  else if isPrefix a then
    if isPrefix b then raiseTrap n 1 false 0 0 none 0 s
    else
      let k := repCount s n a
      if k = 0 then skipTo n (c.pc + 1) s
      else
        let s := updCore n (fun c => { c with rep := some ⟨k, false⟩, slot := true }) s
        settle n true (shortOp n b e s)
  else
    match shortOp n a e s with
    | .done s1 _ =>
      if isPrefix b then prefixSecond n b s1
      else settle n true (shortOp n b (if e = .loadCe ∨ e = .loadUe then (match a.op with
        | .ldq | .ldqp => .none | _ => e) else e) s1)
    | r => settle n false r

/-- The operation a pair's command names: the first that runs. -/
def pairOp (c : Core) (a b : BOp) : Op := if c.slot then b.op else a.op

/-- The core of sequencer n runs the word at its program counter when the operation `mn` is the one it comes to. A
fetch error or an illegal word traps whatever operation is named (R253, R546). `sem` is the effect of a long
operation. -/
def runWord (n : Nat) (mn : Op) (sem : BOp → CoreErr → State → OpRes) (e : CoreErr) (s : State) : State :=
  if coreReady s n then
    let c := getCore s n
    match e with
    | .fetchUe =>
      let s := satF (fSEQ_ECC_ISR_UE n) 1 s
      raiseTrap n 10 c.slot 0 0 none 5 (devLogM 6 3 0 n n c.pc.toNat (seqEccValue s n) s)
    | _ =>
      let ce (s : State) : State := if e = .fetchCe then satF (fSEQ_ECC_ISR_CE n) 1 s else s
      match imemWord s n c.pc with
      | none => raiseTrap n 1 false 0 0 none 0 (ce s)
      | some (.long o) => if o.op = mn then settle n false (sem o e (ce s)) else s
      | some (.pair a b) => if pairOp c a b = mn then runPair n a b e (ce s) else s
  else s
/-- A command of a short operation. -/
def runShort (n : Nat) (mn : Op) (e : CoreErr) (s : State) : State := runWord n mn (fun _ _ s => .done s none) e s

end Sys2Proof.Machine
end

