-- ==== Sys2Proof/Machine/BelsarOps.lean ====
section
/-! DEFINITION. The Belsar instructions but for IN and OUT, and the entry of traps and interrupts (chapters 09, 10). -/
namespace Sys2Proof.Machine
open Sys2Proof

/-! ### Arithmetic (R265, R266, R268–R271) -/

/-- An R-form operation: rd gets a function of rs, rt and the old rd. -/
def aluOp (n : Nat) (g : Word → Word → Word → Word) (o : BOp) (s : State) : OpRes :=
  wrote n o.rd (g (regOf s n o.rs) (regOf s n o.rt) (regOf s n o.rd)) s
/-- An I-form operation: rd gets a function of rs and an immediate. -/
def immOp (n : Nat) (g : Word → Word) (o : BOp) (s : State) : OpRes := wrote n o.rd (g (regOf s n o.rs)) s

/-- ADD (R266). -/
def execAdd (n : Fin 64) (e : CoreErr) (s : State) : Out :=
  ok (runWord n .add (fun o _ s => aluOp n (fun a b _ => a + b) o s) e s)
/-- SUB (R266). -/
def execSub (n : Fin 64) (e : CoreErr) (s : State) : Out :=
  ok (runWord n .sub (fun o _ s => aluOp n (fun a b _ => a - b) o s) e s)
/-- AND (R266). -/
def execAndOp (n : Fin 64) (e : CoreErr) (s : State) : Out :=
  ok (runWord n .andOp (fun o _ s => aluOp n (fun a b _ => a &&& b) o s) e s)
/-- OR (R266). -/
def execOrOp (n : Fin 64) (e : CoreErr) (s : State) : Out :=
  ok (runWord n .orOp (fun o _ s => aluOp n (fun a b _ => a ||| b) o s) e s)
/-- XOR (R266). -/
def execXorOp (n : Fin 64) (e : CoreErr) (s : State) : Out :=
  ok (runWord n .xorOp (fun o _ s => aluOp n (fun a b _ => a ^^^ b) o s) e s)
/-- ANDN (R266). -/
def execAndn (n : Fin 64) (e : CoreErr) (s : State) : Out :=
  ok (runWord n .andn (fun o _ s => aluOp n (fun a b _ => a &&& ~~~b) o s) e s)
/-- SLL (R266). -/
def execSll (n : Fin 64) (e : CoreErr) (s : State) : Out :=
  ok (runWord n .sll (fun o _ s => aluOp n (fun a b _ => a <<< shAmt b) o s) e s)
/-- SRL (R266). -/
def execSrl (n : Fin 64) (e : CoreErr) (s : State) : Out :=
  ok (runWord n .srl (fun o _ s => aluOp n (fun a b _ => a >>> shAmt b) o s) e s)
/-- SRA (R266). -/
def execSra (n : Fin 64) (e : CoreErr) (s : State) : Out :=
  ok (runWord n .sra (fun o _ s => aluOp n (fun a b _ => a.sshiftRight (shAmt b)) o s) e s)
/-- ROR (R266). -/
def execRor (n : Fin 64) (e : CoreErr) (s : State) : Out :=
  ok (runWord n .ror (fun o _ s => aluOp n (fun a b _ => a.rotateRight (shAmt b)) o s) e s)
/-- MUL (R266). -/
def execMul (n : Fin 64) (e : CoreErr) (s : State) : Out :=
  ok (runWord n .mul (fun o _ s => aluOp n (fun a b _ => a * b) o s) e s)
/-- MULH (R266). -/
def execMulh (n : Fin 64) (e : CoreErr) (s : State) : Out :=
  ok (runWord n .mulh (fun o _ s => aluOp n (fun a b _ => mulhW a b) o s) e s)
/-- MULHU (R266). -/
def execMulhu (n : Fin 64) (e : CoreErr) (s : State) : Out :=
  ok (runWord n .mulhu (fun o _ s => aluOp n (fun a b _ => mulhuW a b) o s) e s)
/-- DIV (R269). -/
def execDiv (n : Fin 64) (e : CoreErr) (s : State) : Out :=
  ok (runWord n .div (fun o _ s => aluOp n (fun a b _ => divW a b) o s) e s)
/-- DIVU (R269). -/
def execDivu (n : Fin 64) (e : CoreErr) (s : State) : Out :=
  ok (runWord n .divu (fun o _ s => aluOp n (fun a b _ => divuW a b) o s) e s)
/-- REM (R269). -/
def execRem (n : Fin 64) (e : CoreErr) (s : State) : Out :=
  ok (runWord n .rem (fun o _ s => aluOp n (fun a b _ => remW a b) o s) e s)
/-- REMU (R269). -/
def execRemu (n : Fin 64) (e : CoreErr) (s : State) : Out :=
  ok (runWord n .remu (fun o _ s => aluOp n (fun a b _ => remuW a b) o s) e s)
/-- SETEQ (R266). -/
def execSeteq (n : Fin 64) (e : CoreErr) (s : State) : Out :=
  ok (runWord n .seteq (fun o _ s => aluOp n (fun a b _ => boolW (a == b)) o s) e s)
/-- SETNE (R266). -/
def execSetne (n : Fin 64) (e : CoreErr) (s : State) : Out :=
  ok (runWord n .setne (fun o _ s => aluOp n (fun a b _ => boolW (a != b)) o s) e s)
/-- SETLT (R266). -/
def execSetlt (n : Fin 64) (e : CoreErr) (s : State) : Out :=
  ok (runWord n .setlt (fun o _ s => aluOp n (fun a b _ => boolW (a.slt b)) o s) e s)
/-- SETLTU (R266). -/
def execSetltu (n : Fin 64) (e : CoreErr) (s : State) : Out :=
  ok (runWord n .setltu (fun o _ s => aluOp n (fun a b _ => boolW (a.ult b)) o s) e s)
/-- MIN (R266). -/
def execMin (n : Fin 64) (e : CoreErr) (s : State) : Out :=
  ok (runWord n .min (fun o _ s => aluOp n (fun a b _ => if a.slt b then a else b) o s) e s)
/-- MAX (R266). -/
def execMax (n : Fin 64) (e : CoreErr) (s : State) : Out :=
  ok (runWord n .max (fun o _ s => aluOp n (fun a b _ => if a.slt b then b else a) o s) e s)
/-- MINU (R266). -/
def execMinu (n : Fin 64) (e : CoreErr) (s : State) : Out :=
  ok (runWord n .minu (fun o _ s => aluOp n (fun a b _ => if a.ult b then a else b) o s) e s)
/-- MAXU (R266). -/
def execMaxu (n : Fin 64) (e : CoreErr) (s : State) : Out :=
  ok (runWord n .maxu (fun o _ s => aluOp n (fun a b _ => if a.ult b then b else a) o s) e s)
/-- PERM (R270). -/
def execPerm (n : Fin 64) (e : CoreErr) (s : State) : Out :=
  ok (runWord n .perm (fun o _ s => aluOp n (fun a b d => permW a d b) o s) e s)
/-- CLZ (R271). -/
def execClz (n : Fin 64) (e : CoreErr) (s : State) : Out :=
  ok (runWord n .clz (fun o _ s => aluOp n (fun a _ _ => clzW a) o s) e s)
/-- CTZ (R271). -/
def execCtz (n : Fin 64) (e : CoreErr) (s : State) : Out :=
  ok (runWord n .ctz (fun o _ s => aluOp n (fun a _ _ => ctzW a) o s) e s)
/-- POPC (R271). -/
def execPopc (n : Fin 64) (e : CoreErr) (s : State) : Out :=
  ok (runWord n .popc (fun o _ s => aluOp n (fun a _ _ => popW a) o s) e s)
/-- ADDI (R265). -/
def execAddi (n : Fin 64) (e : CoreErr) (s : State) : Out :=
  ok (runWord n .addi (fun o _ s => immOp n (fun a => a + immS o) o s) e s)
/-- ANDI (R265). -/
def execAndi (n : Fin 64) (e : CoreErr) (s : State) : Out :=
  ok (runWord n .andi (fun o _ s => immOp n (fun a => a &&& immU o) o s) e s)
/-- ORI (R265). -/
def execOri (n : Fin 64) (e : CoreErr) (s : State) : Out :=
  ok (runWord n .ori (fun o _ s => immOp n (fun a => a ||| immU o) o s) e s)
/-- XORI (R265). -/
def execXori (n : Fin 64) (e : CoreErr) (s : State) : Out :=
  ok (runWord n .xori (fun o _ s => immOp n (fun a => a ^^^ immU o) o s) e s)
/-- SETLTI (R265). -/
def execSetlti (n : Fin 64) (e : CoreErr) (s : State) : Out :=
  ok (runWord n .setlti (fun o _ s => immOp n (fun a => boolW (a.slt (immS o))) o s) e s)
/-- SETLTUI (R265). -/
def execSetltui (n : Fin 64) (e : CoreErr) (s : State) : Out :=
  ok (runWord n .setltui (fun o _ s => immOp n (fun a => boolW (a.ult (immS o))) o s) e s)
/-- LSI (R265). -/
def execLsi (n : Fin 64) (e : CoreErr) (s : State) : Out :=
  ok (runWord n .lsi (fun o _ s => immOp n (fun a => (a <<< 14) ||| immU o) o s) e s)
/-- SLLI (R265). -/
def execSlli (n : Fin 64) (e : CoreErr) (s : State) : Out :=
  ok (runWord n .slli (fun o _ s => immOp n (fun a => a <<< o.imm) o s) e s)
/-- SRLI (R265). -/
def execSrli (n : Fin 64) (e : CoreErr) (s : State) : Out :=
  ok (runWord n .srli (fun o _ s => immOp n (fun a => a >>> o.imm) o s) e s)
/-- SRAI (R265). -/
def execSrai (n : Fin 64) (e : CoreErr) (s : State) : Out :=
  ok (runWord n .srai (fun o _ s => immOp n (fun a => a.sshiftRight o.imm) o s) e s)
/-- pos, len and S of a bit-field operation (R254): len6 = 0 means 64. -/
def bfPos (o : BOp) : Nat := bits o.imm 0 6
def bfLen (o : BOp) : Nat := if bits o.imm 6 6 = 0 then 64 else bits o.imm 6 6
/-- BFX (R268). -/
def execBfx (n : Fin 64) (e : CoreErr) (s : State) : Out :=
  ok (runWord n .bfx (fun o _ s => immOp n (fun a => bfxW a (bfPos o) (bfLen o) (o.imm.testBit 12)) o s) e s)
/-- BFI (R268). -/
def execBfi (n : Fin 64) (e : CoreErr) (s : State) : Out :=
  ok (runWord n .bfi (fun o _ s => aluOp n (fun a _ d => bfiW a d (bfPos o) (bfLen o)) o s) e s)

/-! ### Loads and stores (R273, R274) -/

/-- The effective address rs + imm. -/
def effA (s : State) (n : Nat) (o : BOp) : Word := regOf s n o.rs + immS o
/-- LD8 (R273). -/
def execLd8 (n : Fin 64) (e : CoreErr) (s : State) : Out :=
  ok (runWord n .ld8 (fun o e s => loadOp n o.rd (effA s n o) 1 false e s) e s)
/-- LD16 (R273). -/
def execLd16 (n : Fin 64) (e : CoreErr) (s : State) : Out :=
  ok (runWord n .ld16 (fun o e s => loadOp n o.rd (effA s n o) 2 false e s) e s)
/-- LD32 (R273). -/
def execLd32 (n : Fin 64) (e : CoreErr) (s : State) : Out :=
  ok (runWord n .ld32 (fun o e s => loadOp n o.rd (effA s n o) 4 false e s) e s)
/-- LD64 (R273). -/
def execLd64 (n : Fin 64) (e : CoreErr) (s : State) : Out :=
  ok (runWord n .ld64 (fun o e s => loadOp n o.rd (effA s n o) 8 false e s) e s)
/-- LD8S (R273). -/
def execLd8s (n : Fin 64) (e : CoreErr) (s : State) : Out :=
  ok (runWord n .ld8s (fun o e s => loadOp n o.rd (effA s n o) 1 true e s) e s)
/-- LD16S (R273). -/
def execLd16s (n : Fin 64) (e : CoreErr) (s : State) : Out :=
  ok (runWord n .ld16s (fun o e s => loadOp n o.rd (effA s n o) 2 true e s) e s)
/-- LD32S (R273). -/
def execLd32s (n : Fin 64) (e : CoreErr) (s : State) : Out :=
  ok (runWord n .ld32s (fun o e s => loadOp n o.rd (effA s n o) 4 true e s) e s)
/-- ST8 (R273). -/
def execSt8 (n : Fin 64) (e : CoreErr) (s : State) : Out :=
  ok (runWord n .st8 (fun o _ s => storeOp n (effA s n o) (regOf s n o.rd) 1 s) e s)
/-- ST16 (R273). -/
def execSt16 (n : Fin 64) (e : CoreErr) (s : State) : Out :=
  ok (runWord n .st16 (fun o _ s => storeOp n (effA s n o) (regOf s n o.rd) 2 s) e s)
/-- ST32 (R273). -/
def execSt32 (n : Fin 64) (e : CoreErr) (s : State) : Out :=
  ok (runWord n .st32 (fun o _ s => storeOp n (effA s n o) (regOf s n o.rd) 4 s) e s)
/-- ST64 (R273). -/
def execSt64 (n : Fin 64) (e : CoreErr) (s : State) : Out :=
  ok (runWord n .st64 (fun o _ s => storeOp n (effA s n o) (regOf s n o.rd) 8 s) e s)
/-- ILD (R274): an instruction word, zero-extended; an address outside instruction space raises cause 2. -/
def ildOp (n : Nat) (o : BOp) (s : State) : OpRes :=
  let a := (effA s n o).toNat
  if 16384 ≤ a then .trap s 2 0 0 (bad32 a) 0
  else wrote n o.rd ((tget 0 (getCore s n).imem a).setWidth 64) s
/-- ILD (R274). -/
def execIld (n : Fin 64) (e : CoreErr) (s : State) : Out :=
  ok (runWord n .ild (fun o _ s => ildOp n o s) e s)

/-! ### Control flow (R255, R272, R276, R257–R261) -/

/-- The program counter plus a signed offset (R255). -/
def pcOff (c : Core) (w off : Nat) : BitVec 14 := c.pc + ((BitVec.ofNat w off).signExtend 14)
def goTo (s : State) (t : BitVec 14) : OpRes := .done s (some (t, false, none))
/-- A compare-and-branch. -/
def branchOp (n : Nat) (p : Word → Word → Bool) (o : BOp) (s : State) : OpRes :=
  if p (regOf s n o.rs) (regOf s n o.rt) then goTo s (pcOff (getCore s n) 14 o.imm) else .done s none
/-- BEQ (R272). -/
def execBeq (n : Fin 64) (e : CoreErr) (s : State) : Out :=
  ok (runWord n .beq (fun o _ s => branchOp n (fun a b => a == b) o s) e s)
/-- BNE (R272). -/
def execBne (n : Fin 64) (e : CoreErr) (s : State) : Out :=
  ok (runWord n .bne (fun o _ s => branchOp n (fun a b => a != b) o s) e s)
/-- BLT (R272). -/
def execBlt (n : Fin 64) (e : CoreErr) (s : State) : Out :=
  ok (runWord n .blt (fun o _ s => branchOp n (fun a b => a.slt b) o s) e s)
/-- BGE (R272). -/
def execBge (n : Fin 64) (e : CoreErr) (s : State) : Out :=
  ok (runWord n .bge (fun o _ s => branchOp n (fun a b => !a.slt b) o s) e s)
/-- BLTU (R272). -/
def execBltu (n : Fin 64) (e : CoreErr) (s : State) : Out :=
  ok (runWord n .bltu (fun o _ s => branchOp n (fun a b => a.ult b) o s) e s)
/-- BGEU (R272). -/
def execBgeu (n : Fin 64) (e : CoreErr) (s : State) : Out :=
  ok (runWord n .bgeu (fun o _ s => branchOp n (fun a b => !a.ult b) o s) e s)
/-- BEQZ (R272). -/
def execBeqz (n : Fin 64) (e : CoreErr) (s : State) : Out :=
  ok (runWord n .beqz (fun o _ s => branchOp n (fun a _ => a == 0) o s) e s)
/-- BNEZ (R272). -/
def execBnez (n : Fin 64) (e : CoreErr) (s : State) : Out :=
  ok (runWord n .bnez (fun o _ s => branchOp n (fun a _ => a != 0) o s) e s)
/-- BLTZ (R272). -/
def execBltz (n : Fin 64) (e : CoreErr) (s : State) : Out :=
  ok (runWord n .bltz (fun o _ s => branchOp n (fun a _ => a.msb) o s) e s)
/-- BGEZ (R272). -/
def execBgez (n : Fin 64) (e : CoreErr) (s : State) : Out :=
  ok (runWord n .bgez (fun o _ s => branchOp n (fun a _ => !a.msb) o s) e s)
/-- BGTZ (R272). -/
def execBgtz (n : Fin 64) (e : CoreErr) (s : State) : Out :=
  ok (runWord n .bgtz (fun o _ s => branchOp n (fun a _ => !a.msb && a != 0) o s) e s)
/-- BLEZ (R272). -/
def execBlez (n : Fin 64) (e : CoreErr) (s : State) : Out :=
  ok (runWord n .blez (fun o _ s => branchOp n (fun a _ => a.msb || a == 0) o s) e s)
/-- JMP (R265). -/
def execJmp (n : Fin 64) (e : CoreErr) (s : State) : Out :=
  ok (runWord n .jmp (fun o _ s => goTo s (pcOff (getCore s n) 16 o.imm)) e s)
/-- JR (R267). -/
def execJr (n : Fin 64) (e : CoreErr) (s : State) : Out :=
  ok (runWord n .jr (fun o _ s => goTo s ((regOf s n o.rs).setWidth 14)) e s)

/-- LOOP (R276): level L starts, or its body is skipped. -/
def loopOp (n : Nat) (o : BOp) (s : State) : OpRes :=
  let c := getCore s n
  let le : BitVec 14 := c.pc + BitVec.ofNat 14 o.imm
  let k := (regOf s n o.rs).setWidth 32
  let s := updCore n (fun c =>
    setSr (8 + o.rd) (k.setWidth 64) (setSr (4 + o.rd) (le.setWidth 64) (setSr o.rd ((c.pc + 1).setWidth 64) c))) s
  if k = 0 then goTo s (le + 1) else .done s none
/-- LOOP (R276). -/
def execLoop (n : Fin 64) (e : CoreErr) (s : State) : Out :=
  ok (runWord n .loop (fun o _ s => loopOp n o s) e s)

/-- Bits set in a mask (R258). -/
def maskCount (m : BitVec 8) : Nat := popc 3 m.toNat
/-- The pairs a mask names, in ascending order. -/
def maskPairs (m : BitVec 8) : List Nat := (List.range 8).filter fun i => m.getLsbD i
/-- The first address of a frame that no single mapped region holds (R260). -/
def frameHole (base : Word) (n : Nat) : Option Nat :=
  let b := base.toNat
  if 2 ^ 32 ≤ b ∨ (dataRegion b).isNone then some b
  else ((List.range (2 * n)).map (fun i => b + 8 * i)).find? fun a => dataRegion a != dataRegion b
/-- Core n is again as it was in state s0, but for its data cache, which follows the memory (R379, R380). -/
def undoCore (n : Nat) (s0 s : State) : State := updCore n (fun c => { getCore s0 n with cache := c.cache }) s
/-- A spill fault: the CALL or RETURN has no architectural effect. Where several conditions of R260 hold, the order in which
they are examined is a DESIGN CHOICE (log entry 189): SPILL_WHY 5 or 4, then 1, then 2 for the whole frame before its first
store, then 3 at the frame's first access that fails; a fill reads the header before it examines the rest of the frame. -/
def spillFault (s0 : State) (s : State) (n status why : Nat) (bad : Nat) : OpRes :=
  .trap (undoCore n s0 s) 7 status why (bad32 bad) 0

/-- The stores of a frame, in ascending order. -/
def frameStores (n : Nat) (s0 : State) : List (Nat × Word) → State → DataRes
  | [], s => .ok [] s
  | (a, v) :: t, s =>
    match coreStore n a (leBytes 8 v.toNat) s with
    | .ok _ s => frameStores n s0 t s
    | .no (.trap s _ st _ _ _) => .no (spillFault s0 s n st 3 a)
    | .no r => .no r
/-- The loads of a frame: the doublewords read. -/
def frameLoads (n : Nat) (s0 : State) (e : CoreErr) : List Nat → List Word → State → (List Word × State) ⊕ OpRes
  | [], l, s => .inl (l, s)
  | a :: t, l, s =>
    match coreLoad n a 8 e s with
    | .ok d s => frameLoads n s0 .none t (l ++ [BitVec.ofNat 64 (leNum d)]) s
    | .no (.trap s 10 _ _ _ mc) => .inr (.trap (undoCore n s0 s) 10 0 0 none mc)
    | .no (.trap s _ st _ _ _) => .inr (spillFault s0 s n st 3 a)
    | .no r => .inr r

/-- Spill the oldest of 31 resident windows to a frame below w7 (R258). -/
def spillOldest (n : Nat) (s : State) : DataRes :=
  let c := getCore s n
  let old := (c.cwp + 24) % 504
  let mask := tget 0 c.masks old
  let k := maskCount mask + 1
  let base := readReg c 7 - BitVec.ofNat 64 (16 * k)
  let w := { c with cwp := old }
  if (readReg c 7).toNat % 16 ≠ 0 then .no (spillFault s s n 0 1 base.toNat)
  else match frameHole base k with
  | some a => .no (spillFault s s n 0 2 a)
  | none =>
    let words : List Word := [mask.setWidth 64, (tget 0 c.ras old).setWidth 64] ++
      (maskPairs mask).flatMap fun i => [readReg w (8 + 2 * i), readReg w (9 + 2 * i)]
    match frameStores n s ((List.range words.length).map fun i => (base.toNat + 8 * i, words.getD i 0)) s with
    | .ok d s => .ok d (setReg n 7 base s)
    | .no (.stall t) => .no (.stall (undoCore n s t))
    | r => r

/-- CALL and CALLR (R257, R258, R260). -/
def callOp (n : Nat) (target : BitVec 14) (o : BOp) (s : State) : OpRes :=
  let c := getCore s n
  if c.depth = 0xFFFFFF then spillFault s s n 0 5 0
  else
    let slide (s : State) : State := updCore n (fun c => { c with
      masks := tset 0 c.masks c.cwp (BitVec.ofNat 8 o.m8), ras := tset 0 c.ras c.cwp (c.pc + 1),
      cwp := (c.cwp + 16) % 504, res := (if c.res = 31 then 30 else c.res) + 1, depth := c.depth + 1 }) s
    if c.res = 31 then
      match spillOldest n s with
      | .ok _ s => goTo (slide s) target
      | .no r => r
    else goTo (slide s) target
/-- CALL (R257). -/
def execCall (n : Fin 64) (e : CoreErr) (s : State) : Out :=
  ok (runWord n .call (fun o _ s => callOp n (pcOff (getCore s n) 16 o.imm) o s) e s)
/-- CALLR (R257). -/
def execCallr (n : Fin 64) (e : CoreErr) (s : State) : Out :=
  ok (runWord n .callr (fun o _ s => callOp n ((regOf s n o.rs).setWidth 14) o s) e s)

/-- Fill the caller's window from the frame at w7 (R259, R261): registers the mask does not name become
unpredictable. -/
def fillWindow (n : Nat) (e : CoreErr) (s : State) : State ⊕ OpRes :=
  let c := getCore s n
  let w7 := readReg c 7
  let caller := (c.cwp + 488) % 504
  if w7.toNat % 16 ≠ 0 then .inr (spillFault s s n 0 1 w7.toNat)
  else match frameHole w7 1 with
  | some a => .inr (spillFault s s n 0 2 a)
  | none =>
    match frameLoads n s e [w7.toNat, w7.toNat + 8] [] s with
    | .inr r => .inr r
    | .inl (h, s1) =>
      let mask : BitVec 8 := (h.getD 0 0).setWidth 8
      let k := maskCount mask + 1
      match frameHole w7 k with
      | some a => .inr (spillFault s s1 n 0 2 a)
      | none =>
        match frameLoads n s .none ((List.range (2 * (k - 1))).map fun i => w7.toNat + 16 + 8 * i) [] s1 with
        | .inr r => .inr r
        | .inl (l, s2) =>
          let ps := maskPairs mask
          let put (r : Nat) (v : Word) (s : State) : State :=
            updCore n (fun c => { writeReg r v { c with cwp := caller } with cwp := c.cwp }) s
          let s3 := (List.range 8).foldl (fun s i =>
            match ps.findIdx? (· == i) with
            | some j => put (9 + 2 * i) (l.getD (2 * j + 1) 0) (put (8 + 2 * i) (l.getD (2 * j) 0) s)
            | none =>
              let (d, s) := draw s
              let (d', s) := draw s
              put (9 + 2 * i) (Config.windowValue d') (put (8 + 2 * i) (Config.windowValue d) s)) s2
          .inl (updCore n (fun c => writeReg 7 (w7 + BitVec.ofNat 64 (16 * k))
            { c with masks := tset 0 c.masks caller mask, ras := tset 0 c.ras caller ((h.getD 1 0).setWidth 14) }) s3)

/-- RETURN (R259, R260). -/
def returnW (n : Nat) (e : CoreErr) (s : State) : OpRes :=
  let c := getCore s n
  let slide (s : State) : OpRes :=
    let s := updCore n (fun c => { c with cwp := (c.cwp + 488) % 504, depth := c.depth - 1, res := max 1 (c.res - 1) }) s
    goTo s (tget 0 (getCore s n).ras (getCore s n).cwp)
  if c.depth = 0 then spillFault s s n 0 4 0
  else if 2 ≤ c.res then slide s
  else match fillWindow n e s with
    | .inl s => slide s
    | .inr r => r
/-- RETURN (R259). -/
def execReturnOp (n : Fin 64) (e : CoreErr) (s : State) : Out :=
  ok (runWord n .returnOp (fun _ e s => returnW n e s) e s)

/-! ### The array (R108, R111, R291, R292) -/

/-- An ACALL is outstanding (R291). -/
def outstanding (q : MSeq) : Bool :=
  q.queue.any (fun e => !e.released) || (match q.cur with | some r => !r.released | none => false) ||
    q.ended.any (fun r => !r.released) ||
    (match q.atrap with | some st => st.discarded.any (fun e => !e.released) | none => false)
/-- A wait that could never end (R292). -/
def deadlock (q : MSeq) : Bool := q.state == .trapped || (q.state == .yielded && q.swYield)
/-- A word that begins or goes on with a wait (R291, R292). -/
def beginWait (s : State) (n : Nat) : OpRes := if deadlock (getSeq s n) then .halt s 3 else .wait s
/-- A word that first waits for every outstanding ACALL. -/
def afterAcalls (n : Nat) (g : State → OpRes) (s : State) : OpRes :=
  if outstanding (getSeq s n) then beginWait s n else g s

/-- ACALL (R108): the entry and the parameters in ws and ws + 1 enter the issue queue. -/
def acallOp (n : Nat) (o : BOp) (s : State) : OpRes :=
  let q := getSeq s n
  if 16 ≤ q.queue.length then beginWait s n
  else
    let a := (regOf s n o.rs).toNat
    let b := (regOf s n (o.rs + 1)).toNat
    let f (v lo w : Nat) : BitVec w := BitVec.ofNat w (bits v lo w)
    let e : QEntry := ⟨BitVec.ofNat 13 o.imm, f a 0 13, f a 16 13, f a 32 13, f b 0 16, f b 16 16, f b 32 16,
      (getCore s n).pc, false⟩
    .done (updSeq n (fun q => { q with queue := q.queue ++ [e] }) s) none
/-- ACALL (R108). -/
def execAcall (n : Fin 64) (e : CoreErr) (s : State) : Out :=
  ok (runWord n .acall (fun o _ s => acallOp n o s) e s)
/-- AWAIT (R111). -/
def execAwait (n : Fin 64) (e : CoreErr) (s : State) : Out :=
  ok (runWord n .await (fun _ _ s => afterAcalls n (fun s => .done s none) s) e s)
/-- ASND (R111). -/
def execAsnd (n : Fin 64) (e : CoreErr) (s : State) : Out :=
  ok (runWord n .asnd (fun o _ s => afterAcalls n (fun s => wrote n o.rd (BitVec.ofNat 64 (rawReg s rowMSEQ_SND n 0)) s) s) e s)
/-- HALT (R267). -/
def execHaltOp (n : Fin 64) (e : CoreErr) (s : State) : Out :=
  ok (runWord n .haltOp (fun _ _ s => afterAcalls n (fun s => .halt s 1) s) e s)
/-- BRK (R267). -/
def execBrk (n : Fin 64) (e : CoreErr) (s : State) : Out :=
  ok (runWord n .brk (fun _ _ s => .trap s 8 0 0 none 0) e s)

/-! ### Special registers (R280, R281, R316) -/

/-- The bits of a special register that hold a field (R281, R316); `none`: it does not exist. -/
def srMask (k : Nat) : Option Word :=
  if k < 8 then some 0x3FFF
  else if k < 12 then some 0xFFFFFFFF
  else if 0x20 ≤ k ∧ k ≤ 0x23 then some 0xFF
  else match k with
    | 0x0C => some 0x3FFFFFFFF | 0x10 => some 0x7FFF | 0x11 => some 0x7F1F | 0x12 => some 0xFFFFFFFF
    | 0x13 => some 0x7F | 0x14 => some 0xFF0000 | 0x15 => some 0xFF0000 | 0x16 => some 0x3FFF
    | 0x17 => some (BitVec.allOnes 64) | _ => none
/-- CYCLE: the ac since the image started (R281). -/
def cycleOf (s : State) (n : Nat) : Nat :=
  match (getCore s n).start with
  | some t => (s.ticks - t) / acTicks s
  | none => 0
/-- The value of a special register. -/
def srValue (s : State) (n k : Nat) : Option Word :=
  let c := getCore s n
  if k = 0x18 then some (BitVec.ofNat 64 (c.res + c.depth * 2 ^ 8))
  else if k = 0x28 then some (BitVec.ofNat 64 (cycleOf s n))
  else (srMask k).map fun _ => getSr c k
/-- A write of a special register: reserved bits stay 0, and IPEND clears where 1 is written. -/
def srWrite (k : Nat) (m v : Word) (c : Core) : Core :=
  if k = 0x15 then setSr k (getSr c k &&& ~~~(v &&& m)) c else setSr k (v &&& m) c

def mfsrOp (n : Nat) (o : BOp) (s : State) : OpRes :=
  match srValue s n o.imm with
  | some v => wrote n o.rd v s
  | none => .trap s 1 0 0 none 0
def mtsrOp (n : Nat) (o : BOp) (s : State) : OpRes :=
  match srMask o.imm with
  | some m => .done (updCore n (srWrite o.imm m (regOf s n o.rs)) s) none
  | none => .trap s 1 0 0 none 0
/-- MFSR (R280). -/
def execMfsr (n : Fin 64) (e : CoreErr) (s : State) : Out :=
  ok (runWord n .mfsr (fun o _ s => mfsrOp n o s) e s)
/-- MTSR (R280). -/
def execMtsr (n : Fin 64) (e : CoreErr) (s : State) : Out :=
  ok (runWord n .mtsr (fun o _ s => mtsrOp n o s) e s)

/-! ### Traps and interrupts (R279, R294–R302) -/

/-- XREP as trap entry writes it (R279). -/
def xrepOf (r : Option Rep) : Word :=
  match r with
  | some r => BitVec.ofNat 64 (r.rem % 2 ^ 32 + 2 ^ 32 + b2n r.whole * 2 ^ 33)
  | none => 0
/-- The steps every entry has in common (R295). -/
def enterTrap (cause : Nat) (pc : BitVec 14) (slot : Bool) (ecause : Word) (arr : Bool) (mcsrc : Nat) (r : Option Rep)
    (c : Core) : Core :=
  let t := (getSr c 0x13).toNat
  let tstat := bits t 0 1 * 2 + 4 + b2n arr * 8 + mcsrc * 16
  let c := setSr 0x10 (pc.setWidth 64 ||| (boolW slot <<< 14)) c
  let c := setSr 0x13 (BitVec.ofNat 64 tstat) (setSr 0x0C (xrepOf r) (setSr 0x11 ecause c))
  { c with pc := BitVec.ofNat 14 (4 * cause), slot := false, rep := none, mid := false, trap := none, state := .running }

/-- TRAP_ENTRY (R295, R296, R298): the trap of a word, or the pending array trap. -/
def execTrapEntry (n : Fin 64) (s : State) : Out :=
  let c := getCore s n
  if c.state = .halted ∨ c.mid then ok s
  else match c.trap with
  | some t =>
    if inTrap c then
      let first := (getSr c 0x11).toNat % 32
      let s := setF (fSEQ_STATUS_DT_CAUSE n) t.cause s
      ok (haltCore n 2 (devLogM 16 2 0 0xFF n t.pc.toNat (first + t.cause * 2 ^ 8) s))
    else
      let ec : Word := BitVec.ofNat 64 (t.cause + t.status * 2 ^ 8 + t.why * 2 ^ 12)
      ok (updCore n (fun c =>
        let c := match t.badaddr with | some a => setSr 0x12 (a.setWidth 64) c | none => c
        enterTrap t.cause t.pc t.slot ec false t.mcsrc t.rep c) s)
  | none =>
    match (getSeq s n).atrap with
    | some st =>
      if inTrap c then ok s
      else
        let s := updCore n (fun c => setSr 0x16 (st.apc.setWidth 64)
          (enterTrap st.cause c.pc c.slot (BitVec.ofNat 64 st.cause) true st.mcsrc c.rep c)) s
        ok (releaseTrap n st s)
    | none => ok s

/-- INTERRUPT_ENTRY (R300, R301): the pending enabled interrupt of the highest priority. -/
def execInterruptEntry (n : Fin 64) (s : State) : Out :=
  let c := getCore s n
  if c.state = .halted ∨ c.mid ∨ c.trap.isSome ∨ arrayDue s n ∨ coreHeld s n then ok s
  else match irqDue c with
  | some k => ok (updCore n (fun c => enterTrap k c.pc c.slot (BitVec.ofNat 64 k) false 0 c.rep c) s)
  | none => ok s

/-- ERET (R263, R279, R297). -/
def eretOp (n : Nat) (s : State) : OpRes :=
  let c := getCore s n
  let epc := getSr c 0x10
  let x := getSr c 0x0C
  let t := getSr c 0x13
  let pc : BitVec 14 := epc.setWidth 14
  let tstat := (t &&& ~~~(5#64)) ||| ((t >>> 1) &&& 1#64)
  let s := updCore n (fun c => setSr 0x13 tstat c) s
  if x.getLsbD 32 then
    let s := updCore n (fun c => setSr 0x0C (x &&& ~~~(1#64 <<< 32)) c) s
    let rem := x.toNat % 2 ^ 32
    if rem = 0 then goTo s (pc + 1)
    else .done s (some (pc, epc.getLsbD 14, some ⟨rem, x.getLsbD 33⟩))
  else .done s (some (pc, epc.getLsbD 14, none))
/-- ERET (R297). -/
def execEret (n : Fin 64) (e : CoreErr) (s : State) : Out :=
  ok (runWord n .eret (fun _ _ s => eretOp n s) e s)

/-! ### Short operations and the repeat instructions (R264, R278) -/

/-- SHORT_NOP (R264). -/
def execShortNop (n : Fin 64) (e : CoreErr) (s : State) : Out := ok (runShort n .shortNop e s)
/-- MOV (R264). -/
def execMov (n : Fin 64) (e : CoreErr) (s : State) : Out := ok (runShort n .mov e s)
/-- SHORT_ADD (R264). -/
def execShortAdd (n : Fin 64) (e : CoreErr) (s : State) : Out := ok (runShort n .shortAdd e s)
/-- SHORT_SUB (R264). -/
def execShortSub (n : Fin 64) (e : CoreErr) (s : State) : Out := ok (runShort n .shortSub e s)
/-- SHORT_AND (R264). -/
def execShortAnd (n : Fin 64) (e : CoreErr) (s : State) : Out := ok (runShort n .shortAnd e s)
/-- SHORT_OR (R264). -/
def execShortOr (n : Fin 64) (e : CoreErr) (s : State) : Out := ok (runShort n .shortOr e s)
/-- SHORT_XOR (R264). -/
def execShortXor (n : Fin 64) (e : CoreErr) (s : State) : Out := ok (runShort n .shortXor e s)
/-- NOT (R264). -/
def execNotOp (n : Fin 64) (e : CoreErr) (s : State) : Out := ok (runShort n .notOp e s)
/-- NEG (R264). -/
def execNeg (n : Fin 64) (e : CoreErr) (s : State) : Out := ok (runShort n .neg e s)
/-- ADDS (R264). -/
def execAdds (n : Fin 64) (e : CoreErr) (s : State) : Out := ok (runShort n .adds e s)
/-- MOVI (R264). -/
def execMovi (n : Fin 64) (e : CoreErr) (s : State) : Out := ok (runShort n .movi e s)
/-- SLLS (R264). -/
def execSlls (n : Fin 64) (e : CoreErr) (s : State) : Out := ok (runShort n .slls e s)
/-- SRLS (R264). -/
def execSrls (n : Fin 64) (e : CoreErr) (s : State) : Out := ok (runShort n .srls e s)
/-- SRAS (R264). -/
def execSras (n : Fin 64) (e : CoreErr) (s : State) : Out := ok (runShort n .sras e s)
/-- SHORT_CLZ (R264). -/
def execShortClz (n : Fin 64) (e : CoreErr) (s : State) : Out := ok (runShort n .shortClz e s)
/-- SHORT_CTZ (R264). -/
def execShortCtz (n : Fin 64) (e : CoreErr) (s : State) : Out := ok (runShort n .shortCtz e s)
/-- SHORT_POPC (R264). -/
def execShortPopc (n : Fin 64) (e : CoreErr) (s : State) : Out := ok (runShort n .shortPopc e s)
/-- LDQ (R264). -/
def execLdq (n : Fin 64) (e : CoreErr) (s : State) : Out := ok (runShort n .ldq e s)
/-- STQ (R264). -/
def execStq (n : Fin 64) (e : CoreErr) (s : State) : Out := ok (runShort n .stq e s)
/-- LDQP (R264). -/
def execLdqp (n : Fin 64) (e : CoreErr) (s : State) : Out := ok (runShort n .ldqp e s)
/-- STQP (R264). -/
def execStqp (n : Fin 64) (e : CoreErr) (s : State) : Out := ok (runShort n .stqp e s)
/-- ZXW (R264). -/
def execZxw (n : Fin 64) (e : CoreErr) (s : State) : Out := ok (runShort n .zxw e s)
/-- SXW (R264). -/
def execSxw (n : Fin 64) (e : CoreErr) (s : State) : Out := ok (runShort n .sxw e s)
/-- BSWAP (R264). -/
def execBswap (n : Fin 64) (e : CoreErr) (s : State) : Out := ok (runShort n .bswap e s)
/-- REP (R278). -/
def execRep (n : Fin 64) (e : CoreErr) (s : State) : Out := ok (runShort n .rep e s)
/-- REPI (R278). -/
def execRepi (n : Fin 64) (e : CoreErr) (s : State) : Out := ok (runShort n .repi e s)

end Sys2Proof.Machine
end

