-- ==== Sys2Proof/Machine/RegAccess.lean ====
section
/-! DEFINITION. How a register access is decided and what a write does field by field: types, byte enables, the fixed
rules, dark domains and refusals (R18–R20, R324, R411, R570, R574, R620–R624). -/
namespace Sys2Proof.Machine
open Sys2Proof

/-! ### Fields (R18, R19) -/

/-- Every bit of a register (an access of 8 bytes). -/
def allBits : Nat := 2 ^ 64 - 1
/-- A write of value v, of the bits that en names, as one field sees it: the bits written, and their value. -/
def fldEn (f : Fld) (en : Nat) : Nat := bits en f.lo f.w
def fldIn (f : Fld) (v : Nat) : Nat := bits v f.lo f.w
/-- Store the written bits of a field. -/
def storeF (f : Fld) (v en : Nat) (s : State) : State :=
  let e := fldEn f en
  setF f (getF s f - (getF s f &&& e) + (fldIn f v &&& e)) s
/-- The bits of a field to which a 1 is written. -/
def onesIn (f : Fld) (v en : Nat) : Nat := fldIn f v &&& fldEn f en
/-- A write of one field by its type. RO and RC fields and reserved bits discard it; a WO field acts elsewhere. -/
def writeFld (f : Fld) (v en : Nat) (s : State) : State :=
  match f.ty with
  | .rw => if fldEn f en = 0 then s else storeF f v en s
  | .w1c => if onesIn f v en = 0 then s else setF f (getF s f - (getF s f &&& onesIn f v en)) s
  | .w1s => if onesIn f v en = 0 then s else setF f (getF s f ||| onesIn f v en) s
  | .ro | .rc | .wo => s
/-- The fields of a register at instance (i, j). -/
def rowFlds (r : RegRow) (i j : Nat) : List Fld := r.flds.map (rowFld r i j)
/-- A write of every field of a register by its type. -/
def writeRow' (r : RegRow) (i j v en : Nat) (s : State) : State :=
  (rowFlds r i j).foldl (fun s f => writeFld f v en s) s
/-- A write of the fields of one type only. -/
def writeTy (ty : FTy) (r : RegRow) (i j v en : Nat) (s : State) : State :=
  ((rowFlds r i j).filter fun f => f.ty == ty).foldl (fun s f => writeFld f v en s) s
/-- What a read returns from the stored fields; a WO field reads 0. -/
def storedVal (s : State) (r : RegRow) (i j : Nat) : Nat :=
  ((rowFlds r i j).map fun f => if f.ty = .wo then 0 else getF s f * 2 ^ f.lo).sum
/-- The RC fields whose bits the access reads clear (R18). -/
def clearRc (r : RegRow) (i j en : Nat) (s : State) : State :=
  ((rowFlds r i j).filter fun f => f.ty == .rc && fldEn f en != 0).foldl
    (fun s f => setF f (getF s f - (getF s f &&& fldEn f en)) s) s

/-! ### Who reaches what (R321, R359, R570, R620, R625) -/

/-- The function that an identity stands for, if it is one. -/
def funcOf (who : Nat) : Option Nat := masterFunc who
/-- The PF or the management controller. -/
def pfOrMc (who : Nat) : Bool := who == 0x80 || who == 0x61
/-- The i-th ring group a function owns. -/
def groupsOf (s : State) (f : Nat) : List Nat :=
  (List.range 128).filter fun g => bitF s (fRG_OWNER_ASSIGNED g) && getF s (fRG_OWNER_OWNER g) == f
/-- An entry of the block FUNC that belongs to function f: its FUNC_CFG and FUNC_STAT, and RG_OWNER of its groups (R359). -/
def ownEntry (s : State) (f o : Nat) : Bool :=
  o == 0x41000 + 8 * f || o == 0x41200 + 8 * f ||
    (decide (0x41400 ≤ o ∧ o < 0x41800) && bitF s (fRG_OWNER_ASSIGNED ((o - 0x41400) / 8)) &&
      getF s (fRG_OWNER_OWNER ((o - 0x41400) / 8)) == f)
/-- A function's read of an entry of the block FUNC that is not its own returns 0 under R324, as where no register lies
(R359). -/
def hiddenEntry (s : State) (who : Nat) (wr : Bool) (o : Nat) : Bool :=
  !wr && decide (0x41000 ≤ o ∧ o < 0x42000) && (match funcOf who with | some f => !ownEntry s f o | none => false)
/-- Registers whose own rule says what an access by a function that it does not serve does: reads of RB_SEL and RB_DATA
(R309) and writes of HMSG_IN (R314) are no refusals of R570 step 2. -/
def ownRule (wr : Bool) (o : Nat) : Bool :=
  (!wr && (o % 0x1000 == 0x18 || o % 0x1000 == 0x20)) || (wr && o % 0x1000 == 0x28)
/-- The fixed rule of a register's block (R570 step 2, R620). `who` is the identity the rule sees. -/
def fixedRule (s : State) (who : Nat) (wr : Bool) (o : Nat) : Bool :=
  if o < 0x40000 then
    pfOrMc who || ((funcOf who).isSome && ownRule wr o) || (match funcOf who with | some f => ownerOf s (o / 0x1000) == some f | none => false)
  else if o < 0x41000 then who == 0x80
  else if o < 0x42000 then
    if wr then who == 0x80 else match funcOf who with | some f => ownEntry s f o | none => false
  else if o < 0x43000 then pfOrMc who || (!wr && o == 0x42000 && (funcOf who).isSome)
  else if o < 0x44000 then
    pfOrMc who || (!wr && decide (o < 0x43080) && (match funcOf who with
      | some f => (quadFields ((o - 0x43000) / 8)).all fun q => ownerOf s q == some f
      | none => false))
  else if o < 0x46000 then
    pfOrMc who || (match funcOf who with
      | some f => (!wr && o == 0x44000) ||
          (wr && decide (0x45000 ≤ o ∧ o < 0x45800) && o % 32 == 8 && ownerOf s ((o - 0x45000) / 32) == some f)
      | none => false)
  else if 0x58000 ≤ o ∧ o < 0x60000 then
    pfOrMc who || (match funcOf who with
      | some f => (getF s (fFUNC_CFG_STRIP_GRANT f)).testBit ((o - 0x58000) / 0x1000) | none => false)
  else if 0x60000 ≤ o ∧ o < 0x6A000 then
    (decide (0x200 ≤ o % 0x1000 ∧ o % 0x1000 < 0x220)) || pfOrMc who
  else if 0x80000 ≤ o ∧ o < 0xC0000 then
    (match funcOf who with | some f => ringOwner s ((o - 0x80000) / 32) == some f | none => false)
  else if 0x100000 ≤ o ∧ o < 0x180000 then (decide (o < 0x101000) && (funcOf who).isSome) || pfOrMc who
  else if 0x200000 ≤ o ∧ o < 0x208000 then pfOrMc who || (!wr && (funcOf who).isSome)
  else pfOrMc who

/-! ### One access (R411, R570, R574, R622) -/

/-- The endpoint answers requests of the host: boot has ended step 7 and the part is not Off (R530, R604). -/
def endpointReady (s : State) : Bool := !s.offNow && decide (8 ≤ getF s fBOOT_STAT_STEP)
/-- The node from which a master's register accesses come: the PCIe endpoint, the management controller, or its own. -/
def homeOf (m : Nat) : Nat :=
  if m = 0x61 then 0xAA else if 0x80 ≤ m ∧ m ≤ 0xBF then 0xA8 else if m < 0x40 then m
  else if 0x58 ≤ m ∧ m ≤ 0x60 then 0x98 + (m - 0x58) else 0xA8
/-- A host access that reaches the part: the endpoint answers and the function is enabled (R320, R604). -/
def hostReaches (s : State) (m : Nat) : Bool :=
  if m = 0x61 then !s.offNow
  else match masterFunc m with
    | some f => endpointReady s && (f == 0 || bitF s (fFUNC_STAT_ENABLED f))
    | none => false

/-- A management request from node src to the node of an offset is held by a reconfiguration window on its way (R417). -/
def regHeld (s : State) (src o : Nat) : Bool := routeHeld s src (serveNode o)
/-- An access by master m to offset o reaches its target now: the part answers the master and no window holds the
request. A held access does nothing; the sender gives the command again when the window has closed. -/
def hostPasses (s : State) (m o : Nat) : Bool := hostReaches s m && !regHeld s (homeOf m) o

/-- The decisions of R411 and R570 at the target about a management-class access to a register. -/
def regJudge (m who : Nat) (wr : Bool) (o : Nat) (s : State) : Nat × State :=
  let node := serveNode o
  let a := 0x20000000 + o
  if mgmtState s (nodeDom node) = 3 then (2, tgtLog node a m 3 2 s)
  else if ¬ fixedRule s who wr o ∨
      ¬ ((decide (0x800000 ≤ o ∧ o < 0x900000)) || aclAllows s node m wr (a / 64 * 64)) then
    (1, refusalLog node a m (b2n wr) 1 s)
  else (0, s)
/-- The way of a management request from node src to the node of an offset (R395): 0, or the status it ends with. -/
def regRoute (src m o : Nat) (s : State) : Nat × State :=
  let node := serveNode o
  match routeFailsAt s src node with
  | none => (0, s)
  | some x => match requestFails x 3 src node (0x20000000 + o) m s with
    | (true, s) => (5, s)
    | (false, s) => (6, timedOut 3 src node (0x20000000 + o) m s)
/-- A management request to an offset that holds no register: a Deep domain answers DOMAIN_DARK (R411). -/
def emptyJudge (m o : Nat) (s : State) : Nat × State :=
  let node := serveNode o
  if mgmtState s (nodeDom node) = 3 then (2, tgtLog node (0x20000000 + o) m 3 2 s) else (0, s)
/-- The decisions of R395, R411 and R570 about a management-class access to a register: 0 when it acts, else its
status. `src` is the requesting node, `m` the master ID the table judges, `who` the identity of the fixed rules. -/
def regGate (src m who : Nat) (wr : Bool) (o : Nat) (s : State) : Nat × State :=
  match regRoute src m o s with
  | (0, s) => regJudge m who wr o s
  | x => x
/-- What the requester sees when the response cannot return (R395, R407). -/
def regAnswer (src m o : Nat) (st : Nat) (s : State) : Nat × State :=
  let node := serveNode o
  match routeFailsAt s node src with
  | none => (st, s)
  | some k => (6, timedOut 3 src node (0x20000000 + o) m (routeDiscard k 3 node src s))
/-- A write of a register that lies at offset o, by the host, the management controller or the debug port. -/
def hostWriteReg (m who o : Nat) (act : State → State) (s : State) : State :=
  if hostPasses s m o then
    let (st, s) := regGate (homeOf m) m who true o s
    if st = 0 then (regAnswer (homeOf m) m o 0 (act s)).2 else s
  else s
/-- A command that is the write of one register by master m under its own identity. -/
def hostCmd (m : BitVec 8) (o : Nat) (act : State → State) (s : State) : Out :=
  ok (hostWriteReg m.toNat m.toNat o act s)

end Sys2Proof.Machine
end

