-- ==== Sys2Proof/Machine/SeqRegs.lean ====
section
/-! DEFINITION. The registers of a sequencer that do more than store (R57–R91, R119–R135, R154–R175, R184–R215,
R289–R316): what their writes do and what their reads return, through a port or through BAR0. -/
namespace Sys2Proof.Machine
open Sys2Proof

/-! ### The host path (R290, R309) -/

def coreHalted (s : State) (n : Nat) : Bool := (getCore s n).state == .halted
def hostRej (n : Nat) (s : State) : State := setF (fSEQ_STATUS_HOSTREJ n) 1 s
/-- The master of the partition that holds field n; n itself where no partition does. -/
def masterOf (s : State) (n : Nat) : Nat := ((partOf s n).map (·.1)).getD n
/-- The core of the master is HALTED, as the registers of R290 and R309 ask. -/
def masterHalted (s : State) (n : Nat) : Bool := coreHalted s (masterOf s n)
/-- Sequencer n is a follower, whose copies of the master's registers do not act (R288). -/
def isFollower (s : State) (n : Nat) : Bool := (getSeq s n).state == .follower
/-- A BAR0 write that acts only while the master's core is HALTED (R290); a port write always acts. -/
def haltedOnly (port : Bool) (n : Nat) (act : State → State) (s : State) : State :=
  if port || masterHalted s n then act s else hostRej n s

/-! ### MSEQ_CTL and PARK_CTL (R112–R118, R126, R302, R312) -/

/-- A software preemption request (R112, R115, R118): a sequencer that is no master and one that is TRAPPED clear it;
one that has yielded to the hub is yielded to software too; one that has yielded to software keeps it pending. -/
def softYield (n : Nat) (s : State) : State :=
  let q := getSeq s n
  match q.state with
  | .unassigned | .follower | .trapped => s
  | .yielded =>
    if q.hubSvc && !q.swYield && !q.aborted then
      let off (e : QEntry) : QEntry := { e with released := true }
      updSeq n (fun q => { q with
        swYield := true, queue := q.queue.map off,
        cur := q.cur.map (fun r => { r with released := true }) }) s
    else updSeq n (fun q => { q with pendSw := true }) (setF (fMSEQ_CTL_YIELD_REQ n) 1 s)
  | _ => yieldRequest n s
/-- RESUME by software (R116). While the hub's operation is in service issue goes on when it ends (R115): until then the
bit reads 1 (R126), and the routine and the queue are outstanding again from the write on (R291). -/
def softResume (n : Nat) (s : State) : State :=
  let q := getSeq s n
  if q.hubSvc then
    if (q.state = .yielded ∨ q.state = .trapped) ∧ bitF s (fRESUME0_VALID n) ∧ getF s (fRESUME0_DEPTH n) ≤ 4 then
      let back (e : QEntry) : QEntry := { e with released := false }
      updSeq n (fun q => { q with
        state := .yielded, swYield := false, queue := q.queue.map back,
        cur := if getF s (fRESUME0_KIND n) = 5 then q.cur else some ⟨q.recApc, false, 0⟩ })
        (setF (fMSEQ_CTL_RESUME n) 1 s)
    else s
  else resumeIssue n s
/-- A write of MSEQ_CTL. -/
def writeMseqCtl (port : Bool) (n v en : Nat) (s : State) : State :=
  haltedOnly port n (fun s =>
    let s := if onesIn (fMSEQ_CTL_YIELD_REQ n) v en = 1 then softYield n s else s
    let s := if onesIn (fMSEQ_CTL_RESUME n) v en = 1 then softResume n s else s
    if onesIn (fMSEQ_CTL_ABORT n) v en = 1 then abortRoutine n s else s) s
/-- A write of PARK_CTL. A follower's copy does not act (R288). -/
def writeParkCtl (port : Bool) (n v en : Nat) (s : State) : State :=
  haltedOnly port n (fun s =>
    if isFollower s n then s else
    let s := writeTy .w1c rowPARK_CTL n 0 v en s
    let s := if onesIn (fPARK_CTL_PARK n) v en = 1 then parkEntries n s else s
    let s := if onesIn (fPARK_CTL_UNPARK n) v en = 1 then unparkEntries n s else s
    if onesIn (fPARK_CTL_DROP n) v en = 1 then dropEntries n s else s) s
/-- A write of RESUME0 to RESUME7 (R119, R290): only while STATE is YIELDED or TRAPPED. -/
def writeResume (port : Bool) (r : RegRow) (n v en : Nat) (s : State) : State :=
  haltedOnly port n (fun s =>
    let q := getSeq s n
    if q.state = .yielded ∨ q.state = .trapped then writeRow' r n 0 v en s else s) s

/-- YIELD_REQ (R112, R290): master m writes the bit through BAR0. -/
def execYieldReq (m : BitVec 8) (n : Fin 64) (s : State) : Out :=
  hostCmd m (0x1000 * n + 0x200) (writeMseqCtl false n 1 allBits) s
/-- RESUME (R116, R290). -/
def execResume (m : BitVec 8) (n : Fin 64) (s : State) : Out :=
  hostCmd m (0x1000 * n + 0x200) (writeMseqCtl false n 2 allBits) s
/-- ABORT (R117, R290). -/
def execAbort (m : BitVec 8) (n : Fin 64) (s : State) : Out :=
  hostCmd m (0x1000 * n + 0x200) (writeMseqCtl false n 4 allBits) s
/-- PARK (R302, R290). -/
def execParkQueue (m : BitVec 8) (n : Fin 64) (s : State) : Out :=
  hostCmd m (0x1000 * n + 0x10) (writeParkCtl false n 1 allBits) s
/-- UNPARK (R302, R290). -/
def execUnpark (m : BitVec 8) (n : Fin 64) (s : State) : Out :=
  hostCmd m (0x1000 * n + 0x10) (writeParkCtl false n 2 allBits) s
/-- DROP (R302, R290). -/
def execDropPark (m : BitVec 8) (n : Fin 64) (s : State) : Out :=
  hostCmd m (0x1000 * n + 0x10) (writeParkCtl false n 4 allBits) s

/-! ### SEQ_CTL (R289, R300, R310) -/

/-- A forced halt: at once at a word boundary, else when the word, or the hold of a READBACK (R613), ends. -/
def forceHalt (n : Nat) (s : State) : State :=
  let c := getCore s n
  if c.state = .halted then s
  else if c.mid ∨ coreHeld s n then setF (fSEQ_CTL_HALT n) 1 s
  else haltCore n 4 s
/-- A write of SEQ_CTL by the identity `who`. Both bits act through BAR0 alone (R310): a port write and the management
controller's own write are discarded. PREQ is the physical function's (R300), and a follower's copy does not act
(R288). -/
def writeSeqCtl (port : Bool) (who n v en : Nat) (s : State) : State :=
  if port || (funcOf who).isNone || isFollower s n then s else
    let s := if onesIn (fSEQ_CTL_PREQ n) v en = 1 ∧ who = 0x80 then raiseIrq n 20 s else s
    if onesIn (fSEQ_CTL_HALT n) v en = 1 then forceHalt n s else s
/-- SEQ_HALT (R289). -/
def execSeqHalt (m : BitVec 8) (n : Fin 64) (s : State) : Out :=
  hostCmd m (0x1000 * n) (writeSeqCtl false m.toNat n 1 allBits) s
/-- PREQ (R300). -/
def execPreq (m : BitVec 8) (n : Fin 64) (s : State) : Out :=
  hostCmd m (0x1000 * n) (writeSeqCtl false m.toNat n 2 allBits) s

/-! ### Messages and the timer (R300, R314) -/

/-- A write of HMSG_IN: it acts for the owning function and the management controller, and is discarded from any other
function. A follower's copy does not act (R288). -/
def writeHmsgIn (port : Bool) (who n v en : Nat) (s : State) : State :=
  if ¬ port ∧ ¬ isFollower s n ∧ (who = 0x61 ∨ (funcOf who).isSome ∧ ownerOf s n = funcOf who) then
    let s := if bitF s (fSEQ_STATUS_MSG_FULL n) then setF (fSEQ_STATUS_MSG_OVF n) 1 s else s
    raiseIrq n 19 (setF (fSEQ_STATUS_MSG_FULL n) 1 (storeF (fHMSG_IN_DATA n) v en s))
  else s
/-- HMSG_IN_WRITE (R314). -/
def execHmsgInWrite (m : BitVec 8) (n : Fin 64) (v : Word) (s : State) : Out :=
  hostCmd m (0x1000 * n + 0x28) (writeHmsgIn false m.toNat n v.toNat allBits) s
/-- A port write of HMSG_OUT stores DATA and posts an HMSG event to the owner; a BAR0 write stores. -/
def writeHmsgOut (port : Bool) (n v en : Nat) (s : State) : State :=
  let s := storeF (fHMSG_OUT_DATA n) v en s
  if port then
    match ownerOf s n with
    | some f => postEvent f 1 n (getF s (fHMSG_OUT_DATA n)) s
    | none => s
  else s
/-- HMSG_OUT_WRITE (R314): the image of a running core writes HMSG_OUT through its port. -/
def execHmsgOutWrite (n : Fin 64) (v : Word) (s : State) : Out :=
  if coreHalted s n then ok s else ok (writeHmsgOut true n v.toNat allBits s)
/-- TIMER_MATCH (R314): CYCLE equals a non-zero COMPARE. -/
def execTimerMatch (n : Fin 64) (s : State) : Out :=
  let t := getF s (fTIMER_COMPARE n)
  if ¬ coreHalted s n ∧ t ≠ 0 ∧ cycleOf s n = t then ok (raiseIrq n 23 s) else ok s

/-! ### Edges and halos (R154, R155, R162, R172) -/

/-- The sides of a partition that lie on the package edge, one bit each (R154). -/
def pkgEdges (s : State) (n : Nat) : Nat :=
  match partAt s n with
  | some p => b2n (decide (frow n = 0)) + 2 * b2n (decide (fcol n + 2 ^ p.wlog = 8)) +
      4 * b2n (decide (frow n + 2 ^ p.hlog = 8)) + 8 * b2n (decide (fcol n = 0))
  | none => 0
/-- STATE is IDLE, YIELDED or TRAPPED. -/
def quiet (s : State) (n : Nat) : Bool :=
  let st := (getSeq s n).state
  st == .idle || st == .yielded || st == .trapped
/-- The value a write would leave in the whole register. -/
def newVal (s : State) (r : RegRow) (n v en : Nat) : Nat :=
  let old := rawReg s r n 0
  old - (old &&& en) + (v &&& en)
/-- Why a write of EDGE_CFG is refused, 0 when it is not (R155). -/
def edgeWhy (s : State) (n v : Nat) : Nat :=
  if (partAt s n).isNone then 3
  else if ¬ quiet s n then 1
  else if (List.range 4).any (fun d => bits v (2 * d) 2 == 3 && !(pkgEdges s n).testBit d) then 2
  else 0
/-- A write of EDGE_CFG. -/
def writeEdgeCfg (n v en : Nat) (s : State) : State :=
  let why := edgeWhy s n (newVal s rowEDGE_CFG n v en)
  if why = 0 then writeRow' rowEDGE_CFG n 0 v en s
  else setFs [(fEDGE_STATUS_CFG_REJ n, 1), (fEDGE_STATUS_REJ_WHY n, why)] s
/-- EDGE_CFG_WRITE (R155). -/
def execEdgeCfgWrite (m : BitVec 8) (n : Fin 64) (v : Word) (s : State) : Out :=
  hostCmd m (0x1000 * n + 0x260) (writeEdgeCfg n v.toNat allBits) s
/-- A write of HALO_STAT. -/
def writeHaloStat (n v en : Nat) (s : State) : State :=
  if onesIn (fHALO_STAT_CLR n) v en = 1 then haloClear n s else s
/-- HALO_CLR (R162). -/
def execHaloClr (m : BitVec 8) (n : Fin 64) (s : State) : Out :=
  hostCmd m (0x1000 * n + 0x270) (writeHaloStat n (2 ^ 16) allBits) s

/-! ### PE memory (R79, R83, R89) -/

/-- A write of LEASE_MAP; clearing the group of the borrowed row yields it. -/
def writeLeaseMap (n v en : Nat) (s : State) : State :=
  let s := storeF (fLEASE_MAP_FREE n) v en s
  if bitF s (fSURVEY_YIELD_BORROWED n) ∧ ¬ (getF s (fLEASE_MAP_FREE n)).testBit (getF s (fSURVEY_YIELD_BROW n) / 64) then
    rowYield n 0 s
  else s
/-- LEASE_MAP_WRITE (R79). -/
def execLeaseMapWrite (m : BitVec 8) (n : Fin 64) (v : Word) (s : State) : Out :=
  hostCmd m (0x1000 * n + 0x300) (writeLeaseMap n v.toNat allBits) s
/-- INJECT_ARM (R89): PEMEM_INJ is written, its ARM bit set. -/
def execInjectArm (m : BitVec 8) (n : Fin 64) (v : Word) (s : State) : Out :=
  hostCmd m (0x1000 * n + 0x338) (writeRow' rowPEMEM_INJ n 0 (v.toNat ||| 1) allBits) s
/-- ROW_YIELD (R79): the master of the field's partition holds a word that touches the borrowed row. -/
def execRowYield (f : Fin 64) (stall : Fin 49) (s : State) : Out :=
  match partOf s f with
  | some (n, p) =>
    let q := getSeq s n
    if q.state = .held ∧ q.stop = none then
      match (fetchMicro s n q.upc.toNat).1 with
      | .word w _ =>
        let r := getF s (fSURVEY_YIELD_BROW f)
        if bitF s (fSURVEY_YIELD_BORROWED f) ∧ (issuing s n = some p) ∧
            ((eaA w q.ptrs).toNat = r ∨ (eaB w q.ptrs).toNat = r ∨ (mwWen w ≠ 0 ∧ (eaC w q.ptrs).toNat = r)) then
          ok (rowYield f stall s)
        else ok s
      | _ => ok s
    else ok s
  | none => ok s

/-! ### The slices (R184, R185, R207–R213) -/

/-- The operations of R187 with the formats and destinations they allow. -/
def opAllows (op fmt dst : Nat) : Bool :=
  match op with
  | 0x00 | 0x30 => decide (fmt ≤ 8) && dst == 0
  | 0x31 | 0x32 => decide (fmt ≤ 8) && dst == 1
  | 0x01 | 0x02 | 0x03 | 0x04 | 0x05 | 0x06 | 0x07 => isFp fmt
  | 0x08 | 0x09 | 0x0A => isFp fmt && dst == 0
  | 0x0B => true
  | 0x10 | 0x11 | 0x12 | 0x13 | 0x14 | 0x15 | 0x16 => isInt fmt
  | 0x17 | 0x18 => isInt fmt && dst == 0
  | 0x20 | 0x21 => fmt == 8
  | _ => false
/-- The pairs CVT accepts (R237). -/
def cvtAllows (sf f : Nat) : Bool :=
  (isFp sf && isFp f) || (isInt sf && isFp f) || (isFp sf && isInt f) || (sf == 8 && f == 4) || (sf == 4 && f == 8)
/-- A value of SCMD that a write may store (R185). -/
def scmdOk (v : Nat) : Bool :=
  opAllows (bits v 0 6) (bits v 8 4) (bits v 18 1) && (bits v 0 6 != 0x0B || cvtAllows (bits v 12 4) (bits v 8 4))
/-- A write of SCMD (R184, R185). A port write has waited where it must. -/
def writeScmd (port : Bool) (n v en : Nat) (s : State) : State :=
  if (port || quiet s n) && scmdOk (newVal s rowSCMD n v en) then writeRow' rowSCMD n 0 v en s
  else setF (fSUTOR_STAT_CMD_REJ n) 1 s
/-- Slice (FIELD, SLICE) of SLICE_SEL, when the field lies in the partition (R209). -/
def selSlice (s : State) (n : Nat) : Option (Nat × Nat) :=
  let f := getF s (fSLICE_SEL_FIELD n)
  if (fieldsOf s n).contains f then some (f, getF s (fSLICE_SEL_SLICE n)) else none
/-- SMODE of a slice as a register value. -/
def modeOf (y : Slice) : Nat := y.rm.toNat + y.ten.toNat * 2 ^ 8
/-- SMODE as a read returns it (R208, R209). -/
def smodeValue (s : State) (n : Nat) : Nat :=
  match selSlice s n with
  | some (f, sl) => modeOf (getSlice (getField s f) sl)
  | none => 0
/-- A write of SMODE to the selected slices (R184, R185, R208, R209). -/
def writeSmode (port : Bool) (n v en : Nat) (s : State) : State :=
  let all := bitF s (fSLICE_SEL_ALL n)
  let put (y : Slice) : Slice :=
    let m := modeOf y
    let x := m - (m &&& en) + (v &&& en)
    { y with rm := BitVec.ofNat 3 (bits x 0 3), ten := BitVec.ofNat 8 (bits x 8 8) }
  let rmBad := decide (5 ≤ bits v 0 3) && decide (fldEn (fSMODE_RM n) en ≠ 0)
  if ¬ (port || quiet s n) ∨ rmBad ∨ (partAt s n).isNone ∨ (¬ all ∧ (selSlice s n).isNone) then
    setF (fSUTOR_STAT_MODE_REJ n) 1 s
  else if all then updPartSlices n put s
  else match selSlice s n with
    | some (f, sl) => updSlice f sl put s
    | none => s
/-- SMODE_WRITE (R184). -/
def execSmodeWrite (m : BitVec 8) (n : Fin 64) (v : Word) (s : State) : Out :=
  hostCmd m (0x1000 * n + 0x508) (writeSmode false n v.toNat allBits) s
/-- LANE_EXCm as a read returns it (R209, R213). -/
def laneExc (s : State) (n m : Nat) : Nat :=
  match selSlice s n with
  | some (f, sl) =>
    let y := getSlice (getField s f) sl
    leNum ((List.range 8).map fun i => tget 0 y.flags (8 * m + i))
  | none => 0

/-! ### Status registers whose fields are derived (R127–R129, R172–R174, R210–R212, R311, R312) -/

def stateCode : MState → Nat
  | .unassigned => 0 | .follower => 1 | .idle => 2 | .issuing => 3 | .held => 4 | .yielded => 5 | .trapped => 6
/-- CENSUS_DONE as at the most recent slot. -/
def censusDoneNow (q : MSeq) : Bool := censusDone q (q.slot - 1)
/-- MSEQ_STATUS. -/
def mseqStatus (s : State) (n : Nat) : Nat :=
  let q := getSeq s n
  stateCode q.state + q.queue.length * 2 ^ 4 + q.stack.length * 2 ^ 9 + getF s (fMSEQ_STATUS_STK_OVF n) * 2 ^ 12 +
  getF s (fMSEQ_STATUS_STK_UNF n) * 2 ^ 13 + b2n (censusDoneNow q) * 2 ^ 14 + b2n (haloDone q) * 2 ^ 15 +
  q.upc.toNat * 2 ^ 16 + b2n q.pendSw * 2 ^ 32 + b2n q.pendRb * 2 ^ 33 + b2n q.pendSp * 2 ^ 34
/-- EDGE_CFG reads 0 where the sequencer is no master (R172). -/
def edgeCfgValue (s : State) (n : Nat) : Nat := if (partAt s n).isSome then (edgeCfg s n).toNat else 0
/-- EDGE_STATUS. -/
def edgeStatus (s : State) (n : Nat) : Nat := storedVal s rowEDGE_STATUS n 0 + pkgEdges s n * 2 ^ 8
/-- HALO_STAT (R174). -/
def haloStat (s : State) (n : Nat) : Nat :=
  let q := getSeq s n
  match partAt s n with
  | none => 0
  | some p =>
    let side (d : Nat) : Nat := (sideSegs n p d).foldl (fun m g => max m (tget 0 q.halo g)) 0
    let age := match q.haloAge with
      | e :: _ => min ((s.ticks - e.2) / acTicks s) (2 ^ 32 - 1)
      | [] => 0
    side 0 + side 1 * 2 ^ 4 + side 2 * 2 ^ 8 + side 3 * 2 ^ 12 + age * 2 ^ 32
/-- SFLAGS (R210). -/
def sflagsValue (s : State) (n : Nat) : Nat := getF s (fSFLAGS_STICKY n) + (groupFlags s n).toNat * 2 ^ 8
/-- A work queue of the partition is not empty (R211). DESIGN CHOICE (log 161): begun word-times and divider lanes that
have not finished count as in the queue. -/
def sutorBusy (s : State) (n : Nat) : Bool :=
  (fieldsOf s n).any fun f =>
    let x := getField s f
    !x.wq.isEmpty && (List.range 256).any fun sl =>
      let y := getSlice x sl
      decide (y.head < x.wq.length) || !y.pipe.isEmpty || !y.divq.isEmpty
/-- SUTOR_STAT (R211). -/
def sutorStat (s : State) (n : Nat) : Nat :=
  storedVal s rowSUTOR_STAT n 0 + b2n (sutorBusy s n) + b2n (getSeq s n).pend * 2
/-- WP_STAT (R212). -/
def wpStat (s : State) (n : Nat) : Nat := storedVal s rowWP_STAT n 0 + b2n (wpRunning s n)
/-- SEQ_STATUS (R311). -/
def seqStatus (s : State) (n : Nat) : Nat :=
  let c := getCore s n
  let code := match c.state with | .halted => 0 | .running => 1 | .waiting => 2
  let q := getSeq s n
  let (m, i) := match partOf s n with | some (k, _) => (k, 1) | none => (0, 0)
  storedVal s rowSEQ_STATUS n 0 + code + b2n (inTrap c) * 4 + b2n (q.atrap.isSome && inTrap c) * 8 +
    m * 2 ^ 24 + b2n (partAt s n).isSome * 2 ^ 30 + i * 2 ^ 31
/-- PARK_CTL (R312). -/
def parkCtl (s : State) (n : Nat) : Nat := storedVal s rowPARK_CTL n 0 + (getSeq s n).park.length * 2 ^ 8

/-! ### Readback through RB_SEL and RB_DATA (R308, R309) -/

/-- One slice's row of PE memory, decoded as READBACK decodes it (R82): the data delivered and whether it is
uncorrectable. -/
def readbackRow (f sl row : Nat) (s : State) : Word × Bool × State :=
  match (badRows s f row).find? (fun e => e.2.1 == sl) with
  | none => (sliceRow sl (tget 0 (getField s f).rows row), false, s)
  | some (k, _, e) =>
    let (d, s) := draw s
    let (fix, r) := decodeErr e false d
    let w := sliceRow sl (tget 0 (getField s f).rows row) ^^^ fix
    match r with
    | none => (w, false, s)
    | some (ue, pos) =>
      let s := peError f 5 row 0 ⟨k / 4096 / 17, k / 4096 % 17, ue, pos⟩ s
      (w, ue, if ue then devLogF 1 2 f f (errCapValue s f) s else s)
/-- The valid bits of a table of lanes. -/
def validBits (t : Tbl Word) : Nat := (t.map fun e => 2 ^ e.1).sum
/-- KIND 10 and 12: entry and pointers; KIND 11 and 13: counters and DPARAM. -/
def entryWord0 (e : QEntry) : Nat := e.entry.toNat + e.p1.toNat * 2 ^ 13 + e.p2.toNat * 2 ^ 26 + e.p3.toNat * 2 ^ 39
def entryWord1 (e : QEntry) : Nat := e.c0.toNat + e.c1.toNat * 2 ^ 16 + e.dparam.toNat * 2 ^ 32
/-- The first register of the i-th older resident window. -/
def windowAt (c : Core) (i : Nat) : Nat := (c.cwp + 504 - 16 * i) % 504
/-- A register of the i-th older resident window; 0 when it is not resident. -/
def windowReg (c : Core) (i r : Nat) : Nat :=
  if i < c.res then (readReg { c with cwp := windowAt c i } r).toNat else 0
/-- MASK and RA of the i-th older resident window. -/
def windowHidden (c : Core) (i : Nat) : Nat :=
  if i < c.res then (tget 0 c.masks (windowAt c i)).toNat + (tget 0 c.ras (windowAt c i)).toNat * 2 ^ 8 else 0
/-- The item of kinds 1 to 13 (R308); what has no item is 0 (R309). -/
def rbItem (s : State) (n kind f sl idx : Nat) : Nat :=
  let x := getField s f
  let y := getSlice x sl
  let c := getCore s n
  let q := getSeq s n
  let win := bits idx 5 5
  let lane (t : Tbl Word) : Nat := if idx < 64 then (tget 0 t idx).toNat else 0
  let entry (l : List QEntry) (g : QEntry → Nat) : Nat := match l[idx]? with | some e => g e | none => 0
  match kind with
  | 1 => if idx < 8 then (sliceRow sl (getFlag x idx)).toNat else 0
  | 2 => if idx = 0 then (sliceRow sl x.nlatch).toNat else 0
  | 3 => lane y.acc0
  | 4 => lane y.acc1
  | 5 => if idx < 64 then (heldWord y.cb y.cbOld idx).toNat else 0
  | 6 => lane y.tob
  | 7 => (match idx with | 0 => validBits y.cb | 1 => validBits y.sh0 | 2 => validBits y.sh1 | _ => 0)
  | 8 => if idx < 1024 then windowReg c win (idx % 32) else 0
  | 9 => if idx < 1024 then windowHidden c win else 0
  | 10 => entry q.queue entryWord0
  | 11 => entry q.queue entryWord1
  | 12 => entry q.park entryWord0
  | 13 => entry q.park entryWord1
  | _ => 0
/-- The item RB_SEL of sequencer n selects. -/
def rbRead (n : Nat) (s : State) : Nat × State :=
  let kind := getF s (fRB_SEL_KIND n)
  let f := getF s (fRB_SEL_FIELD n)
  let sl := getF s (fRB_SEL_SLICE n)
  let idx := getF s (fRB_SEL_INDEX n)
  if kind = 0 then
    let s := if bitF s (fSURVEY_YIELD_BORROWED f) ∧ getF s (fSURVEY_YIELD_BROW f) = idx then rowYield f 0 s else s
    let (w, ue, s) := readbackRow f sl idx s
    (w.toNat, setF (fRB_SEL_RB_UE n) (b2n ue) s)
  else (rbItem s n kind f sl idx, s)
/-- KIND or FIELD selects nothing a read may return (R309). -/
def rbFault (s : State) (n : Nat) : Bool :=
  let kind := getF s (fRB_SEL_KIND n)
  decide (14 ≤ kind) || (decide (kind ≤ 7) && !(fieldsOf s n).contains (getF s (fRB_SEL_FIELD n)))
/-- A kind-0 read waits for a repair copy (R309). -/
def rbWaits (s : State) (n : Nat) : Bool :=
  getF s (fRB_SEL_KIND n) == 0 && bitF s (fSPARE_MAP_COPY_BUSY (getF s (fRB_SEL_FIELD n)))
/-- A read of RB_DATA through BAR0 by the identity `who` (R309). -/
def rbHostRead (who n : Nat) (s : State) : Nat × State :=
  let st := (getSeq s n).state
  if who ≠ 0x80 ∨ ¬ masterHalted s n ∨ rbFault s n ∨
      (getF s (fRB_SEL_KIND n) ≤ 7 ∧ (st = .issuing ∨ st = .held)) then (0, hostRej n s)
  else if rbWaits s n then (0, s)
  else rbRead n s
/-- A read of RB_SEL through BAR0 by the identity `who`: it serves the PF with the master's core HALTED (R309), and
otherwise reads 0 as RB_DATA does (log 39). -/
def rbSelRead (who n : Nat) (s : State) : Nat × State :=
  if who = 0x80 ∧ masterHalted s n then (storedVal s rowRB_SEL n 0, s) else (0, hostRej n s)
/-- A write of RB_SEL: through BAR0 only by the PF with the master's core HALTED (R309). -/
def writeRbSel (port : Bool) (who n v en : Nat) (s : State) : State :=
  if port || (who == 0x80 && masterHalted s n) then writeRow' rowRB_SEL n 0 v en s else hostRej n s
/-- What a read through the host path or the management class returns to its master: a PCIe request of the host
completes successfully whatever the status (R622). -/
def answerRead (m : Nat) (st : Nat) (v : Nat) (s : State) : State :=
  { s with answers := s.answers ++ [⟨homeOf m, if m = 0x61 then st else 0, leBytes 8 (if st = 0 then v else 0), 0⟩] }
/-- RB_DATA_READ (R308, R309): master m reads RB_DATA of sequencer n through BAR0. A read held up by a repair copy is
made again when the copy has ended. -/
def execRbDataRead (m : BitVec 8) (n : Fin 64) (s : State) : Out :=
  let o := 0x1000 * n.val + 0x20
  if ¬ hostPasses s m.toNat o then ok s
  else if m = 0x80 ∧ masterHalted s n ∧ ¬ rbFault s n ∧ rbWaits s n then ok s
  else
    let (st, s) := regGate (homeOf m.toNat) m.toNat m.toNat false o s
    if st = 0 then
      let (v, s) := rbHostRead m.toNat n s
      let (st, s) := regAnswer (homeOf m.toNat) m.toNat o 0 s
      ok (answerRead m.toNat st v s)
    else ok (answerRead m.toNat st 0 s)

end Sys2Proof.Machine
end

