-- ==== Sys2Proof/Machine/Parts.lean ====
section
/-! DEFINITION. Partitions: definition, removal and reset (R33–R36, R60, R135, R152, R204, R285–R288, R470, R600). -/
namespace Sys2Proof.Machine
open Sys2Proof

/-- The fields of one field after a partition reset: flags, n-latches, buffers, queues and slices (R60, R204); PE memory
is unchanged. -/
def resetFieldPe (x : Field) : Field := { Field.reset with rows := x.rows, rowErr := x.rowErr }
/-- One sequencer after a partition reset: its micro-sequencer (R135, R162), the registers of R597, its data cache
(R380, R600) and its watch (R470). -/
def resetSeq (st : MState) (n : Nat) (s : State) : State :=
  let s := updSeq n (fun q => { MSeq.reset with state := st, bank := q.bank }) s
  let rows := [rowRESUME0, rowRESUME1, rowRESUME2, rowRESUME3, rowRESUME4, rowRESUME5, rowRESUME6, rowRESUME7, rowMSEQ_SND,
    rowEDGE_CFG, rowSCMD, rowSFLAGS]
  let s := rows.foldl (fun s r => (rowFlds r n 0).foldl (fun s f => setF f f.rst s) s) s
  let s := setFs [(fMSEQ_STATUS_STK_OVF n, 0), (fMSEQ_STATUS_STK_UNF n, 0), (fMSEQ_CTL_YIELD_REQ n, 0),
    (fMSEQ_CTL_RESUME n, 0)] s
  stopWatch n (updCore n (fun c => { c with cache := [] }) s)
/-- The partition reset of a rectangle of fields with master n (R600): the master's core halts with HALT_WHY 5. -/
def resetPart (n : Nat) (p : Part) (s : State) : State :=
  let fs := partFields (n, p)
  let s := haltCore n 5 s
  let s := fs.foldl (fun s f => updField f resetFieldPe s) s
  fs.foldl (fun s f => resetSeq (if f = n then .idle else .follower) f
    { s with verdict := terase s.verdict f }) s

/-- A READBACK or a SPARE involves a field of the rectangle (R286). -/
def rectInvolved (s : State) (fs : List Nat) : Bool :=
  s.jobs.any fun j => j.phase == .running &&
    ((j.op == 0xC && fs.contains (jTarget j)) ||
     (j.op == 0xD && (fieldsOf s (jTarget j)).any fun f => fs.contains f))
/-- A LAUNCH of the partition has passed its checks (R338, R339) and has neither started its image nor completed. -/
def launchPending (s : State) (n : Nat) : Bool :=
  s.jobs.any fun j => j.op == 1 && jTarget j == n && j.phase == .running && j.stage == 0
def partRefuse (why : Nat) (s : State) : State := setFs [(fPART_STAT_REJ, 1), (fPART_STAT_WHY, why)] s
def wpInvolves (s : State) (fs : List Nat) : Bool := fs.any fun f => (getField s f).wp.isSome

/-- Why a definition is refused, 0 when it is not (R286). -/
def defineWhy (s : State) (n : Nat) (p : Part) : Nat :=
  let fs := partFields (n, p)
  if bitF s fPART_STAT_BUSY then 7
  else if ¬ bitF s (fFUNC_STAT_ENABLED p.func) then 6
  else if fcol n % 2 ^ p.wlog ≠ 0 ∨ frow n % 2 ^ p.hlog ≠ 0 then 1
  else if fs.any (fun f => (partOf s f).isSome) then 2
  else if fs.any (fun f => !coreHalted s f) then 3
  else if rectInvolved s fs ∨ wpInvolves s fs then 5
  else 0
/-- Why a removal is refused (R286, R287). -/
def removeWhy (s : State) (n : Nat) : Nat :=
  if bitF s fPART_STAT_BUSY then 7
  else match partAt s n with
  | none => 4
  | some p =>
    let fs := partFields (n, p)
    if ¬ coreHalted s n then 3
    else if rectInvolved s fs ∨ wpInvolves s fs ∨ launchPending s n then 5
    else 0
/-- An accepted partition command: BUSY is 1 until PART_CMD_DONE. -/
def partBegin (c : PartCmd) (s : State) : State := setF fPART_STAT_BUSY 1 { s with partCmd := some c }
/-- A write of PART_CMD (R286, R287, R317). -/
def writePartCmd (op n : Nat) (p : Part) (s : State) : State :=
  match op with
  | 1 =>
    let why := defineWhy s n p
    if why = 0 then partBegin ⟨1, n, p, false⟩ s else partRefuse why s
  | 2 =>
    let why := removeWhy s n
    if why ≠ 0 then partRefuse why s
    else match partAt s n with
      | some p => partBegin ⟨2, n, p, true⟩ (resetPart n p s)
      | none => s
  | 3 =>
    if bitF s fPART_STAT_BUSY then partRefuse 7 s
    else match partAt s n with
      | some p =>
        if involved s n then partBegin ⟨3, n, p, false⟩ s else partBegin ⟨3, n, p, true⟩ (resetPart n p s)
      | none => partRefuse 4 s
  | _ => if bitF s fPART_STAT_BUSY then partRefuse 7 s else s
/-- A reset that waited for a READBACK or a SPARE acts when the operation has completed (R287, R557, R613). -/
def actPending (s : State) : State :=
  match s.partCmd with
  | some c =>
    if c.op = 3 ∧ ¬ c.acted ∧ ¬ involved s c.master then
      resetPart c.master c.part { s with partCmd := some { c with acted := true } }
    else s
  | none => s

/-- PARTITION_DEFINE (R286). -/
def execPartitionDefine (m : BitVec 8) (f : Fin 64) (wlog hlog : Fin 4) (func : Fin 64) (s : State) : Out :=
  hostCmd m 0x40000 (writePartCmd 1 f ⟨wlog, hlog, func⟩) s
/-- PARTITION_REMOVE (R287). -/
def execPartitionRemove (m : BitVec 8) (f : Fin 64) (s : State) : Out :=
  hostCmd m 0x40000 (writePartCmd 2 f ⟨0, 0, 0⟩) s
/-- PARTITION_RESET (R287, R600). -/
def execPartitionReset (m : BitVec 8) (f : Fin 64) (s : State) : Out :=
  hostCmd m 0x40000 (writePartCmd 3 f ⟨0, 0, 0⟩) s
/-- PART_CMD_DONE (R286, R287): a definition resets the sequencers of its rectangle and enters the map; a removal leaves
them UNASSIGNED; BUSY clears. -/
def execPartCmdDone (s : State) : Out :=
  match s.partCmd with
  | none => ok s
  | some c =>
    let fin (s : State) : State := setF fPART_STAT_BUSY 0 { s with partCmd := none }
    match c.op with
    | 1 => ok (fin (resetPart c.master c.part { s with parts := tput s.parts c.master c.part }))
    | 2 =>
      let fs := partFields (c.master, c.part)
      let s := { s with parts := terase s.parts c.master }
      ok (fin (fs.foldl (fun s f => updSeq f (fun q => { q with state := .unassigned }) s) s))
    | _ => if c.acted then ok (fin s) else ok s
/-- PART_MAP of field f (R317). -/
def partMap (s : State) (f : Nat) : Nat :=
  match partOf s f with
  | some (n, p) => 1 + n * 2 + p.wlog * 2 ^ 7 + p.hlog * 2 ^ 9 + p.func * 2 ^ 11
  | none => 0

end Sys2Proof.Machine
end

