-- ==== Sys2Proof/Machine/NocCtl.lean ====
section
/-! DEFINITION. Routes, the epoch switch and the reconfiguration windows of the routers (R406, R414–R417, R419, R422,
R424). -/
namespace Sys2Proof.Machine
open Sys2Proof

/-- A write of an entry of a route table (R414, R424): reserved nodes discard it. -/
def writeRoute (d b e v en : Nat) (s : State) : State :=
  if ¬ nodeExists d then s
  else if bitF s fNOC_CTL_SW_BUSY ∨ getF s fNOC_CTL_ACTIVE = b then setF fNOC_CTL_REJ 1 s
  else
    let old := routeEntry s d b e
    let new := (old - (old &&& en) + (v &&& en)) % 2 ^ 35
    { s with routes := tset (routeDefault d b e) s.routes (routeKey d b e) new,
             routeErr := s.routeErr.filter (· != routeKey d b e) }
/-- ROUTE_WRITE (R414). -/
def execRouteWrite (m : BitVec 8) (d : BitVec 8) (b : Fin 2) (e : BitVec 8) (v : Word) (s : State) : Out :=
  hostCmd m (0x500000 + 0x1000 * d.toNat + 0x800 * b + 8 * e.toNat) (writeRoute d.toNat b e.toNat v.toNat allBits) s

/-- A write of NOC_CTL (R415, R419). -/
def writeNocCtl (v en : Nat) (s : State) : State :=
  let s := writeTy .w1c rowNOC_CTL 0 0 v en s
  if onesIn fNOC_CTL_SWITCH v en = 1 then
    if bitF s fNOC_CTL_SW_BUSY then setF fNOC_CTL_REJ 1 s
    else setFs [(fNOC_CTL_SWITCH, 1), (fNOC_CTL_SW_BUSY, 1)] s
  else s
/-- EPOCH_SWITCH (R415). -/
def execEpochSwitch (m : BitVec 8) (s : State) : Out := hostCmd m 0x400000 (writeNocCtl 2 allBits) s
/-- EPOCH_SWITCH_DONE (R415): every NI has changed its bank; a request that waited for its former route may go. -/
def execEpochSwitchDone (s : State) : Out :=
  if bitF s fNOC_CTL_SW_BUSY then
    ok (pump (setFs [(fNOC_CTL_ACTIVE, 1 - getF s fNOC_CTL_ACTIVE), (fNOC_CTL_SWITCH, 0), (fNOC_CTL_SW_BUSY, 0)] s))
  else ok s

/-- The neighbours of a router. -/
def neighbours (r : Nat) : List Nat := ((List.range 4).filter fun b => (routerPorts r).testBit b).map (neighbour r)
/-- A write of ROUTER_CTL[r] (R417, R422): PORT_EN is stored for the ports that exist, and GO opens a window. -/
def writeRouterCtl (r v en : Nat) (s : State) : State :=
  let s := writeTy .w1c rowROUTER_CTL r 0 v en s
  let s := storeF (fROUTER_CTL_PORT_EN r) v en s
  let s := setF (fROUTER_CTL_PORT_EN r) (getF s (fROUTER_CTL_PORT_EN r) &&& routerPorts r) s
  if onesIn (fROUTER_CTL_GO r) v en = 1 then
    if (r :: neighbours r).any (fun k => bitF s (fROUTER_STAT_BUSY k)) then setF (fROUTER_CTL_REJ r) 1 s
    else setFs [(fROUTER_CTL_GO r, 1), (fROUTER_STAT_BUSY r, 1)] s
  else s
/-- ROUTER_GO (R417): PORT_EN and GO are written together. -/
def execRouterGo (m : BitVec 8) (r : Fin 40) (pe : BitVec 4) (s : State) : Out :=
  hostCmd m (0x401000 + 16 * r) (writeRouterCtl r (pe.toNat + 16) allBits) s
/-- ROUTER_WINDOW_END (R417): the written PORT_EN takes effect, and a port it enables is no longer FAILED. -/
def execRouterWindowEnd (r : Fin 40) (s : State) : Out :=
  if bitF s (fROUTER_STAT_BUSY r) then
    let pe := getF s (fROUTER_CTL_PORT_EN r)
    let fl := getF s (fROUTER_STAT_FAILED r)
    let s := setFs [(fROUTER_CTL_GO r, 0), (fROUTER_STAT_BUSY r, 0), (fROUTER_STAT_FAILED r, fl - (fl &&& pe))] s
    ok { s with portsOff := tset 0 s.portsOff r (routerPorts r - (routerPorts r &&& pe)) }
  else ok s
/-- A port fails after its third failed replay (R406): it is disabled at once and shows FAILED. -/
def failPort (r b : Nat) (s : State) : State :=
  let pe := getF s (fROUTER_CTL_PORT_EN r)
  let s := setFs [(fROUTER_CTL_PORT_EN r, pe - (pe &&& 2 ^ b)),
    (fROUTER_STAT_FAILED r, getF s (fROUTER_STAT_FAILED r) ||| 2 ^ b)] s
  { s with portsOff := tset 0 s.portsOff r (tget 0 s.portsOff r ||| 2 ^ b) }

end Sys2Proof.Machine
end

