-- ==== Sys2Proof/Machine/Pcie.lean ====
section
/-! DEFINITION. What the configuration space of the endpoint reports: the identification registers of each function and
its BARs (R4, R318, R319, R322). -/
namespace Sys2Proof.Machine
open Sys2Proof

/-- The identification registers of a configuration header (R319). -/
structure CfgHeader where
  vendor : Nat
  device : Nat
  revision : Nat
  cls : Nat
  subVendor : Nat
  subsystem : Nat
  deriving DecidableEq, Repr

/-- The configuration header of function f: Type 0; a VF shows no Vendor ID and Device ID of its own (R319). -/
def cfgHeader (s : State) (f : Nat) : CfgHeader :=
  { vendor := if f = 0 then 0x1E4A else 0xFFFF, device := if f = 0 then 0x1024 else 0xFFFF,
    revision := getF s fDEV_ID_STEPPING, cls := 0x120000, subVendor := 0x1E4A,
    subsystem := if getF s fDEV_ID_ORDER = 1 then 2 else 3 }
/-- The SR-IOV capability of the PF: TotalVFs, First VF Offset, VF Stride and VF Device ID (R318, R319). -/
def totalVfs : Nat := 63
def firstVfOffset : Nat := 1
def vfStride : Nat := 1
def vfDeviceId : Nat := 0x1025

/-- The size of BAR 2k, k = 0 to 2, of the PF and of a VF (R322). -/
def barSize (vf : Bool) (k : Nat) : Nat := if k = 1 then (if vf then 2 ^ 16 else 2 ^ 19) else 2 ^ 26
/-- BAR 2k of the PF or of the SR-IOV capability as it reads: the address above its size, a 64-bit memory BAR, BAR4
prefetchable (R322). -/
def barValue (s : State) (vf : Bool) (k : Nat) : Nat :=
  let a := ((if vf then s.pcie.vfBars else s.pcie.bars).toList.getD k 0).toNat
  a / barSize vf k * barSize vf k + 4 + (if k = 2 then 8 else 0)
/-- Where BAR 2k of function f lies in host memory; the apertures of the VFs follow one another. -/
def barBase (s : State) (f k : Nat) : Nat :=
  if f = 0 then barValue s false k / barSize false k * barSize false k
  else barValue s true k / barSize true k * barSize true k + (f - 1) * barSize true k

end Sys2Proof.Machine
end

