-- ==== Sys2Proof/Machine/Hbm.lean ====
section
/-! DEFINITION. The memory targets request by request: the banks of the staging SRAM, the scratchpads in parts, home
controllers and stack controllers, hot windows and SNP invalidations (R304, R305, R363–R387, R400). -/
namespace Sys2Proof.Machine
open Sys2Proof

/-! ### Requests and answers -/

/-- A request as a target judges it. -/
def memReq (r : LineReq) : MemReq :=
  { node := r.node.toNat, master := r.master.toNat, write := r.write, addr := 64 * r.line.toNat,
    en := (List.range 64).map fun i => r.en.getLsbD i,
    data := (List.range 64).map fun i => (r.data >>> (8 * i)).setWidth 8 }
/-- A target answers a requester. -/
def answer (node status : Nat) (data : List Byte) (poison : Nat) (s : State) : State :=
  { s with answers := s.answers ++ [⟨node, status, data, poison⟩] }
/-- The access table of node d refuses a request: it is answered ACCESS_DENIED and logged (R569, R574). -/
def refuse (d : Nat) (q : MemReq) (s : State) : State :=
  answer q.node 1 [] 0 (refusalLog d q.addr q.master (b2n q.write) 1 s)
def allowed (s : State) (d : Nat) (q : MemReq) : Bool := aclAllows s d q.master q.write q.addr

/-! ### Staging SRAM (R363–R366) -/

/-- The bank of a staging offset (R363). -/
def bankOf (a : Nat) : Nat := 8 * bits a 24 2 + bits a 6 3
/-- A granted read. -/
def bankRead (q : MemReq) (s : State) : State :=
  let (st, d, po, s) := secRead (stgNote q.master) q.addr q.en s
  answer q.node st d po s
/-- A granted write. -/
def bankWrite (q : MemReq) (s : State) : State :=
  let (st, s) := secWrite (stgNote q.master) q.addr q.en q.data s
  answer q.node st [] 0 s
/-- Word w of the line is written by both ports with different data in a byte that both enable. -/
def collides (a b : MemReq) (w : Nat) : Bool :=
  (List.range 8).any fun i =>
    a.en.getD (8 * w + i) false && b.en.getD (8 * w + i) false && a.data.getD (8 * w + i) 0 != b.data.getD (8 * w + i) 0
/-- Two writes to one line on ports A and B: each word in which they differ is counted and logged (R365). -/
def countCollisions (k : Nat) (a b : MemReq) (s : State) : State :=
  if a.addr = b.addr then
    ((List.range 8).filter (collides a b)).foldl (fun s w =>
      devLogM 8 0 0 a.master (0x60 + k) (a.addr + 8 * w) (a.master + b.master * 2 ^ 8 + k * 2 ^ 16)
        (satF (fSTG_COLL_COUNT k) 1 s)) s
  else s
/-- A request that bank k can serve now: in the bank, on a line Survey has not borrowed. -/
def bankTakes (s : State) (k : Nat) (q : MemReq) : Bool :=
  decide (q.addr < 0x4000000) && bankOf q.addr == k && !lineBorrowed s q.addr
/-- Stored bits of memory words flip: of the words of a set. -/
def upset (mine : Nat → Bool) (ups : List Upset) (s : State) : State :=
  (ups.filter fun u => mine u.word.toNat).foldl (fun s u =>
    setErr u.word.toNat (tget 0 s.memErr u.word.toNat ^^^ u.flip) s) s
/-- The grants of a bank in one nc (R364): the first ready request of the master whose turn it is goes to port A, that of
the next master to port B. -/
def grants (last : Nat) (qs : List MemReq) : List MemReq :=
  match nextTurn 256 last (qs.map (·.master)) with
  | none => []
  | some a =>
    (qs.find? (·.master == a)).toList ++
    match nextTurn 256 a ((qs.map (·.master)).filter (· != a)) with
    | none => []
    | some b => (qs.find? (·.master == b)).toList
/-- STAGING_ACCESS (R364–R366): an nc of bank k with requests ready for it, in order of arrival. The bank grants two, and a
ready request that it does not grant counts a conflict. Reads see the bank as it stood; where both write a byte, port A's
is stored. -/
def execStagingAccess (k : Fin 32) (ready : List LineReq) (ups : List Upset) (s : State) : Out :=
  let s := upset (fun w => decide (8 * w < 0x4000000) && bankOf (8 * w) == k.val) ups s
  if ¬ domOpen s (37 + k / 8) then ok s
  else
    let rs := (ready.map memReq).filter (bankTakes s k)
    let gs := grants (tget 255 s.stgTurn k) rs
    let s := (gs.foldl (fun l q => l.erase q) rs).foldl (fun s q => satF (fSTG_CONFLICT_COUNT q.master (k / 8)) 1 s) s
    let s := match gs.getLast? with
      | some q => { s with stgTurn := tset 255 s.stgTurn k q.master }
      | none => s
    let s := (gs.filter fun q => !allowed s (0x60 + k) q).foldl (fun s q => refuse (0x60 + k) q s) s
    let go := gs.filter (allowed s (0x60 + k))
    let s := (go.filter fun q => !q.write).foldl (fun s q => bankRead q s) s
    let ws := go.filter (·.write)
    let s := ws.reverse.foldl (fun s q => bankWrite q s) s
    match ws with
    | [x, y] => ok (countCollisions k x y s)
    | _ => ok s

/-! ### Scratchpads (R304, R305) -/

/-- The banks a request touches. -/
def partsOf (q : MemReq) : List Nat :=
  (List.range 8).filter fun w => (List.range 8).any fun i => q.en.getD (8 * w + i) false
/-- A request to scratchpad n arrives: refused by the table, or split into its parts. Answers whether it is there. -/
def spadArrive (n : Nat) (r : LineReq) (s : State) : Bool × State :=
  let q := memReq r
  if s.spadQ.any (fun e => e.n == n && e.req == r) then (true, s)
  else if ¬ domOpen s (quadDom n) ∨ locate q.addr ≠ some (.spad, n) ∨ partsOf q = [] then (false, s)
  else if ¬ allowed s n q then (false, refuse n q s)
  else (true, { s with spadQ := s.spadQ ++ [⟨n, r, partsOf q, [], 0, [], 0⟩] })
/-- The part of bank k of a request is done. -/
def spadDo (n k : Nat) (q : MemReq) (e : SpadReq) (s : State) : SpadReq × State :=
  let en := (List.range 64).map fun i => decide (i / 8 = k) && q.en.getD i false
  if q.write then
    let (st, s) := secWrite (spadNote n q.master 4) q.addr en q.data s
    ({ e with left := e.left.erase k, status := max e.status st }, s)
  else
    let (st, d, po, s) := secRead (spadNote n q.master 4) q.addr en s
    let data := (List.range 8).foldl (fun t i => tset 0 t (8 * k + i) (d.getD (8 * k + i) 0)) e.data
    ({ e with left := e.left.erase k, status := max e.status st, data := data, poison := e.poison ||| po }, s)
/-- SCRATCHPAD_PART: the part of bank k proceeds after it has waited; the last part sends the response. -/
def execScratchpadPart (n : Fin 64) (r : LineReq) (k : Fin 8) (waited : BitVec 32) (ups : List Upset) (s : State) : Out :=
  let s := upset (fun w => decide (8 * w / 0x20000 = 0x800 + n.val)) ups s
  let (there, s) := spadArrive n r s
  match s.spadQ.find? (fun e => e.n == n.val && e.req == r) with
  | some e =>
    if there && e.left.contains k then
      let q := memReq r
      let s := if getF s (fSPAD_WAIT_MAX_WAIT n) < waited.toNat then
          setFs [(fSPAD_WAIT_MAX_WAIT n, waited.toNat), (fSPAD_WAIT_MAX_BANK n, k)] s else s
      let (e', s) := spadDo n k q e s
      if e'.left = [] then
        ok (answer q.node e'.status (if q.write then [] else (List.range 64).map fun i => tget 0 e'.data i) e'.poison
          { s with spadQ := s.spadQ.erase e })
      else ok { s with spadQ := s.spadQ.map fun x => if x = e then e' else x }
    else ok s
  | none => ok s
/-- The counter of bank k in SPAD_STARVE. -/
def fStarve (n k : Nat) : Fld := rowFld rowSPAD_STARVE n 0 (8 * k, 8, .rc, 0)
/-- SPAD_STARVE: the part of bank k has waited 256 ac, and counts once. -/
def execSpadStarve (n : Fin 64) (r : LineReq) (k : Fin 8) (s : State) : Out :=
  let (there, s) := spadArrive n r s
  match s.spadQ.find? (fun e => e.n == n.val && e.req == r) with
  | some e =>
    if there && e.left.contains k && !e.starved.contains k then
      ok (satF (fStarve n k) 1
        { s with spadQ := s.spadQ.map fun x => if x = e then { e with starved := e.starved ++ [k.val] } else x })
    else ok s
  | none => ok s

/-! ### Stack controllers (R368–R370, R376) -/

/-- A home controller that waits after RETRY for one pseudo-channel forwards no other request to it (R410). -/
def stackRetry (s : State) (home ra : Nat) : Bool :=
  s.retryQ.any fun e => e.1 == home && match e.2.2.2 with | .stack y => y.ra / 2 ^ 30 == ra / 2 ^ 30 | _ => false
/-- An Anchorage takes nothing more. -/
def anchFull (x : Dom) : Bool := decide (8 ≤ x.anch.length) || (match x.trans with | some t => t.reset | none => false)
/-- A request at the router edge of the domain of its stack (R409, R410, R524). -/
def stackEdge (x : HbmReq) (k : Nat) (s : State) : State :=
  let home := homeOfAddr x.req.addr
  let d := nodeDom (rawNode x.ra)
  if domOpen s d then { s with hbmQ := s.hbmQ ++ [x] }
  else if bitF s (fPWR_DOM_FAULT d) ∨ (0 < k ∧ getF s fNOC_TMO_RETRY_LIM < k) then
    answer x.req.node 7 [] 0 (wakeTimedOut home x.req.addr x.req.master s)
  else if anchFull (getDom s d) then
    satF (fNI_STAT_RETRY home) 1 { s with retryQ := s.retryQ ++ [(home, d, k, .stack x)] }
  else postWake d 7 (updDom d (fun y => { y with anch := y.anch ++ [.stack x] }) s)
/-- A request goes to the controller of its stack: of a home controller on another tile, over the network (R368, R376,
R395). -/
def toStack (ra : Nat) (fwd : Bool) (q : MemReq) (s : State) : State :=
  let home := homeOfAddr q.addr
  let dest := rawNode ra
  let x : HbmReq := ⟨ra, fwd, q⟩
  if stackFailed s ra then answer q.node 3 [] 0 (stackLost ra q.master s)
  else if ¬ fwd ∨ nodeDom home = nodeDom dest then stackEdge x 0 s
  else match routeFailsAt s home dest with
    | some k =>
      (match requestFails k 0 home dest q.addr q.master s with
        | (true, s) => answer q.node 5 [] 0 (discardData q.write k home dest s)
        | (false, s) => if getF s fNOC_TMO_TIMEOUT = 0 then s else
          answer q.node 6 [] 0 (timedOut 0 home dest q.addr q.master (discardData q.write k home dest s)))
    | none =>
      if stackRetry s home ra then { s with retryQ := s.retryQ ++ [(home, nodeDom dest, 0, .stack x)] } else stackEdge x 0 s
/-- RAW_REQUEST (R376): the request goes straight to its stack controller, whose table judges it. -/
def execRawRequest (r : LineReq) (s : State) : Out :=
  let q := memReq r
  match locate q.addr with
  | some (.raw, node) =>
    if ¬ domOpen s (nodeDom node) then ok s
    else if ¬ allowed s node q then ok (refuse node q s)
    else ok (toStack (q.addr - hbmRBase) false q s)
  | _ => ok s

/-- The sequencers whose caches hold lines of a page, but for the writing one (R380). -/
def otherSharers (s : State) (hva m : Nat) : List Nat :=
  match tlook s.chartCache (hva / 65536) with
  | some l => l.sharers.filter (· != m)
  | none => []
/-- The answer of a write that a home controller forwarded leaves once every sharer has acknowledged (R380). The edge of
a domain not in Run acknowledges at once, and the whole cache is invalidated (R412). -/
def answerWrite (q : MemReq) (s : State) : State :=
  let line := (q.addr - hbmVBase) / 64
  let all := otherSharers s (q.addr - hbmVBase) q.master
  let s := (all.filter fun n => !domOpen s (quadDom n)).foldl (fun s n => updCore n (fun c => { c with cache := [] }) s) s
  match all.filter fun n => domOpen s (quadDom n) with
  | [] => answer q.node 0 [] 0 s
  | l => { s with invals := s.invals ++ l.map fun n => ⟨0, n, line, false⟩,
                  invWait := s.invWait ++ [(line, ⟨q.node, 0, [], 0⟩)] }
/-- A stack controller answers a request; of a forwarded one the answer goes back to its home controller (R376), which
ends the request by timeout when it does not arrive (R395, R407). -/
def stackAnswers (x : HbmReq) (status : Nat) (data : List Byte) (poison : Nat) (s : State) : State :=
  let q := x.req
  let home := homeOfAddr q.addr
  let node := rawNode x.ra
  match if x.fwd && nodeDom home != nodeDom node then routeFailsAt s node home else none with
  | none => if x.fwd && q.write && status == 0 then answerWrite q s else answer q.node status data poison s
  | some k =>
    let s := discardData (!q.write && (status == 0 || status == 4)) k node home (routeDiscard k 1 node home s)
    if getF s fNOC_TMO_TIMEOUT = 0 then s else answer q.node 6 [] 0 (timedOut 0 home node q.addr q.master s)
/-- The access of one request at its stack (R369). -/
def hbmAct (x : HbmReq) (s : State) : State :=
  let q := x.req
  if q.write then let (st, s) := hbmWrite x.ra q.master q.en q.data s; stackAnswers x st [] 0 s
  else let (st, d, po, s) := hbmRead x.ra q.master q.en s; stackAnswers x st d po s
/-- What the stack finds in the bursts of a request. -/
def stackUpset (x : HbmReq) (e : HbmEcc) (s : State) : State :=
  let v := match e with | .clean => 0 | .corrected => 1 | .uncorrectable => 2
  if v = 0 then s
  else (burstsOf x.ra x.req.en).foldl (fun s b => { s with hbmErr := tset 0 s.hbmErr b (max v (tget 0 s.hbmErr b)) }) s
/-- The NI that sent a request to a stack controller. -/
def stackSource (x : HbmReq) : Nat := if x.fwd then homeOfAddr x.req.addr else x.req.node
/-- The requests that have reached the queue of a pseudo-channel: of each NI four at most, which hold its credits; the
others wait before it (R401). -/
def inQueue (c : Nat) : List HbmReq → List HbmReq → List HbmReq
  | _, [] => []
  | seen, x :: t =>
    if x.ra / 2 ^ 30 ≠ c then inQueue c seen t
    else if (seen.filter fun y => stackSource y == stackSource x).length < 4 then x :: inQueue c (x :: seen) t
    else inQueue c seen t
/-- The request that pseudo-channel c serves next: its masters in turn, each one's oldest (R372, R404). -/
def stackNext (s : State) (c : Nat) : Option HbmReq :=
  let l := inQueue c [] s.hbmQ
  match nextTurn 256 (tget 255 s.hbmTurn c) (l.map (·.req.master)) with
  | some m => l.find? (·.req.master == m)
  | none => none
/-- HBM_SERVE (R369, R372): pseudo-channel c serves a request, in whose bursts the stack finds what `e` says. -/
def execHbmServe (c : Fin 128) (e : HbmEcc) (s : State) : Out :=
  match stackNext s c with
  | some x =>
    if domOpen s (16 + c / 32) ∧ ¬ channelHeld s x.ra then
      ok (hbmAct x (stackUpset x e { s with hbmQ := s.hbmQ.erase x, hbmTurn := tset 255 s.hbmTurn c x.req.master }))
    else ok s
  | none => ok s

/-! ### Home controllers (R375, R376) -/

/-- Steps 2 to 4 of R375 for a request, and its way to the stack. -/
def translate (v : BitVec 32) (q : MemReq) (s : State) : State :=
  let hva := q.addr - hbmVBase
  match chartDecide s v q.master q.write hva with
  | .error (st, ty) => answer q.node st [] 0 (chartRefuse (homeNode (hva / 65536)) q.addr q.master st ty s)
  | .ok ra => toStack ra true q s
/-- TRANSLATED_REQUEST: the home controller judges the request, and translates it or waits for the entry. -/
def execTranslatedRequest (r : LineReq) (s : State) : Out :=
  let q := memReq r
  match locate q.addr with
  | some (.xlat, node) =>
    let page := (q.addr - hbmVBase) / 65536
    if ¬ domOpen s (nodeDom node) then ok s
    else if ¬ allowed s node q then ok (refuse node q s)
    else if s.xlatWait.any (fun w => (w.addr - hbmVBase) / 65536 == page) then ok { s with xlatWait := s.xlatWait ++ [q] }
    else match tlook s.chartCache page with
      | some l => ok (translate l.entry q s)
      | none => ok (satF (fHBM_XLAT_MISS (page % 4)) 1 { s with xlatWait := s.xlatWait ++ [q] })
  | _ => ok s
/-- CHART_FETCH_DONE (R376, R377): the entry of page i arrives, some of whose stored bits may have flipped; the requests that wait for it proceed in order, or
receive ECC_UNCORRECTABLE. -/
def execChartFetchDone (i : Fin 2097152) (flip : BitVec 39) (s : State) : Out :=
  let s := { s with chartErr := tset 0 s.chartErr i (tget 0 s.chartErr i ^^^ flip) }
  let mine := s.xlatWait.filter fun w => (w.addr - hbmVBase) / 65536 == i.val
  if mine = [] then ok s
  else
    let s := { s with xlatWait := s.xlatWait.filter fun w => (w.addr - hbmVBase) / 65536 != i.val }
    let (v, r, s) := chartFetch i s
    if r = 2 then ok (mine.foldl (fun s q => answer q.node 4 [] 0 s) s)
    else ok (mine.foldl (fun s q => translate v q s) (cacheEntry i v s))

/-! ### Hot pseudo-channels (R373) -/

/-- Pseudo-channel c at the end of a window. -/
def hotChannel (total : Nat) (obs : List HotObs) (c : Nat) (s : State) : State :=
  let hot := match obs.find? (fun o => o.c.val == c) with
    | some o => o.full && decide (getF s fHOT_CFG_SHARE * total < 64 * o.served)
    | none => false
  if hot then
    let run := tget 0 s.hotRun c + 1
    let s := satF (fHOT_CNT_WINDOWS c) 1 { s with hotRun := tset 0 s.hotRun c run }
    if getF s fHOT_CFG_RUN ≠ 0 ∧ getF s fHOT_CFG_RUN ≤ run ∧ ¬ bitF s (fHOT_CNT_HOT c) then
      setF (fHOT_CNT_HOT c) 1 (devLogM 17 0 0 0xFF (rawNode (c * 2 ^ 30)) c (getF s (fHOT_CNT_WINDOWS c)) s)
    else s
  else setF (fHOT_CNT_HOT c) 0 { s with hotRun := tset 0 s.hotRun c 0 }
/-- HOT_WINDOW: a window of 1 µs ends. -/
def execHotWindow (obs : List HotObs) (s : State) : Out :=
  let total := (obs.map (·.served)).sum
  ok ((List.range 128).foldl (fun s c => hotChannel total obs c s) s)

/-! ### Seeds and the Chart's registers (R371, R374, R385) -/

/-- VALID_CNT of CHART_CNT[p]. -/
def chartCnt (s : State) (p : Nat) : Nat :=
  s.chart.countP fun e => e.2.getLsbD 29 && bits e.2.toNat 21 6 == p
/-- A write of HBM_SEED[p] (R371). -/
def writeHbmSeed (p v en : Nat) (s : State) : State :=
  let old := getF s (fHBM_SEED_SEED p)
  let e := fldEn (fHBM_SEED_SEED p) en
  if old - (old &&& e) + (fldIn (fHBM_SEED_SEED p) v &&& e) ≠ old ∧ chartCnt s p ≠ 0 then setF (fHBM_SEED_REJ p) 1 s
  else writeRow' rowHBM_SEED p 0 v en s
/-- HBM_SEED_WRITE (R371). -/
def execHbmSeedWrite (m : BitVec 8) (p : Fin 64) (v : Word) (s : State) : Out :=
  hostCmd m (0x4A000 + 8 * p) (writeHbmSeed p v.toNat allBits) s
/-- STACK_TEMPERATURE_READ (R368, R388): TEMP follows the test port, and above 85 °C the refresh rate is doubled. -/
def execStackTemperatureRead (k : Fin 4) (t : BitVec 8) (s : State) : Out :=
  if bitF s (fHBM_STAT_READY k) then
    ok (setF (fHBM_STAT_TEMP k) t.toNat { s with hbmFast := tset false s.hbmFast k (decide (85 < t.toNat)) })
  else ok s

/-! ### Invalidations (R378, R380, R400, R412) -/

/-- An invalidation has acted at its node. -/
def actInval (kind node what : Nat) (s : State) : State :=
  { s with invals := s.invals.map fun v =>
      if v.kind = kind ∧ v.node = node ∧ v.what = what then { v with acted := true } else v }
/-- At the edge of a domain not in Run the whole cache of the node goes (R412). -/
def lineInvalidate (n line : Nat) (s : State) : State :=
  actInval 0 n line (updCore n (fun c => { c with cache := if domOpen s (quadDom n) then terase c.cache line else [] }) s)
/-- LINE_INVALIDATE (R380): the line leaves the data cache of sequencer n. -/
def execLineInvalidate (n : Fin 64) (line : BitVec 31) (s : State) : Out := ok (lineInvalidate n line.toNat s)
/-- The whole data cache of a sequencer, or the whole Chart cache of a home controller with the lines of its pages. -/
def invalidateAll (d : Nat) (s : State) : State :=
  if d < 64 then updCore d (fun c => { c with cache := [] }) s
  else if d < 96 then
    let k := (d - 64) / 8
    let mine := s.chartCache.filter fun e => e.1 % 4 == k
    mine.foldl (fun s e => dropPageLines e.1 e.2.sharers s)
      { s with chartCache := s.chartCache.filter fun e => e.1 % 4 != k }
  else s
/-- An entry invalidation at node d, which is the home controller of the page or does nothing. -/
def entryInvalidate (d i : Nat) (s : State) : State :=
  if nodeDom d ≠ 16 + i % 4 then s
  else
    let s := match tlook s.chartCache i with
      | some l =>
        let s := satF (fHBM_XLAT_SHOOT (i % 4)) 1 s
        if domOpen s (nodeDom d) then dropPageLines i l.sharers { s with chartCache := terase s.chartCache i }
        else invalidateAll d s
      | none => s
    actInval 1 (homeNode i) i s
/-- ENTRY_INVALIDATE (R378): the home controller drops the entry of page i, with the lines of the page (R380). -/
def execEntryInvalidate (i : Fin 2097152) (s : State) : Out := ok (entryInvalidate (homeNode i) i s)
/-- INVALIDATE_ALL (R400): the whole data cache of a sequencer, or the whole Chart cache of a home controller. -/
def execInvalidateAll (d : BitVec 8) (s : State) : Out := ok (invalidateAll d.toNat s)
/-- Answers whose line has no invalidation outstanding leave. -/
def releaseAnswers (s : State) : State :=
  let due := s.invWait.filter fun w => !s.invals.any fun v => v.kind == 0 && v.what == w.1
  { s with invWait := s.invWait.filter (fun w => s.invals.any fun v => v.kind == 0 && v.what == w.1),
           answers := s.answers ++ due.map (·.2) }
/-- Page i lies in the run of a CHART_UPDATE. -/
def updates (j : Job) (page : Nat) : Bool :=
  decide (dBits j 2 0 21 ≤ page) && decide (page < dBits j 2 0 21 + dBits j 3 0 22)
/-- Every CHART_UPDATE that has the last of its acknowledgements completes (R378). -/
def chartDone (s : State) : State :=
  let due := s.jobs.filter fun j => j.phase == .running && j.op == 0xB && j.stage == 3 &&
    !(s.invals.any fun v => v.kind == 1 && updates j v.what)
  due.foldl (fun s j => completeJob j.id 0 0 s) s
/-- The acknowledgement of the oldest invalidation that has acted at node d arrives. -/
def acknowledge (d : Nat) (s : State) : State :=
  match s.invals.find? (fun v => v.node == d && v.acted && !(v.kind == 1 && entryBusy s v.what)) with
  | some v => chartDone (releaseAnswers { s with invals := s.invals.erase v })
  | none => s
/-- ACKNOWLEDGE (R378, R380). -/
def execAcknowledge (d : BitVec 8) (s : State) : Out := ok (acknowledge d.toNat s)

end Sys2Proof.Machine
end

