-- ==== Sys2Proof/Machine/Rings.lean ====
section
/-! DEFINITION. Rings: configuration, doorbells, the fetch and the checks of descriptors, the descriptors that move no
data, messages, and functions (R320–R339, R342–R359, R520, R530). -/
namespace Sys2Proof.Machine
open Sys2Proof

/-! ### Configuration of a ring (R328, R329, R356) -/

/-- Ring c is an enabled completion ring of function f. -/
def isCqOf (s : State) (c f : Nat) : Bool :=
  bitF s (fRING_CFG_ENABLE c) && getF s (fRING_CFG_KIND c) == 1 && ringOwner s c == some f
/-- Submission rings that name completion ring c. -/
def namesCq (s : State) (c q : Nat) : Bool := getF s (fRING_CFG_KIND q) == 0 && getF s (fRING_CFG_CQ q) == c
/-- The first check of R328 that refuses an enable, 0 when every one passes. -/
def enableCheck (s : State) (f r : Nat) : Nat :=
  let lg := getF s (fRING_CFG_LOG2SIZE r)
  let kind := getF s (fRING_CFG_KIND r)
  if lg < 4 ∨ 16 < lg then 1
  else if kind = 3 then 2
  else if ringOwner s r ≠ some f then 4
  else if kind = 0 ∧ ¬ isCqOf s (getF s (fRING_CFG_CQ r)) f then 5
  else if kind = 0 ∧ bitF s (fRING_CFG_BIND_EN r) ∧ ownerOf s (getF s (fRING_CFG_BIND_SEQ r)) ≠ some f then 6
  else if getF s (fRING_PTR_IN_FLIGHT r) ≠ 0 then 7
  else 0
/-- The OVERFLOW event that a ring with space again owes (R349). -/
def payOverflow (r : Nat) (s : State) : State :=
  let lost := tget 0 s.evtLost r
  if lost ≠ 0 ∧ bitF s (fRING_CFG_ENABLE r) ∧ getF s (fRING_CFG_KIND r) = 2 ∧ ringFull s r = false ∧ ¬ bitF s fDEV_ERR_FATAL ∧ ¬ s.cqHold then
    { ringWrite r lost (eventQ1 4 r s) s with evtLost := terase s.evtLost r }
  else s
/-- A write that sets ENABLE of a disabled ring, its other fields stored (R328). -/
def enableRing (f r : Nat) (s : State) : State :=
  let k := enableCheck s f r
  if k = 0 then
    payOverflow r (setFs [(fRING_CFG_ENABLE r, 1), (fRING_STAT_CFG_STATUS r, 0), (fRING_PTR_HEAD r, 0), (fRING_PTR_TAIL r, 0),
      (fRING_PTR_PHASE r, 1), (fRING_STAT_STOPPED r, 0)] s)
  else setFs [(fRING_STAT_CFG_STATUS r, 8), (fRING_STAT_CFG_DETAIL r, k)] s
/-- Disabling completion ring r is refused (R329). -/
def disableRefused (s : State) (r : Nat) : Bool :=
  getF s (fRING_CFG_KIND r) == 1 && (List.range 8192).any fun q =>
    namesCq s r q && (bitF s (fRING_CFG_ENABLE q) || decide (getF s (fRING_PTR_IN_FLIGHT q) ≠ 0))
/-- A write of RING_CFG[r] by function f. -/
def writeRingCfg (f r v en : Nat) (s : State) : State :=
  let on := onesIn (fRING_CFG_ENABLE r) v en = 1
  let off := fldEn (fRING_CFG_ENABLE r) en = 1 ∧ ¬ on
  if bitF s (fRING_CFG_ENABLE r) then
    if off ∧ disableRefused s r then s
    else
      let s := storeF (fRING_CFG_MOD r) v en (storeF (fRING_CFG_IRQ_EN r) v en s)
      if off then setF (fRING_CFG_ENABLE r) 0 s else s
  else
    let s := ((rowFlds rowRING_CFG r 0).drop 1).foldl (fun s x => writeFld x v en s) s
    if on then enableRing f r s else s
/-- A write of RING_BASE[r], discarded while the ring is enabled. -/
def writeRingBase (r v en : Nat) (s : State) : State :=
  if bitF s (fRING_CFG_ENABLE r) then s else writeRow' rowRING_BASE r 0 v en s
def ringMaster (f : Fin 64) : BitVec 8 := BitVec.ofNat 8 (0x80 + f)
/-- RING_ENABLE (R328): function f writes RING_CFG with ENABLE 1. -/
def execRingEnable (f : Fin 64) (r : Fin 8192) (v : Word) (s : State) : Out :=
  hostCmd (ringMaster f) (0x80008 + 32 * r) (writeRingCfg f r (v ||| 1).toNat allBits) s
/-- RING_DISABLE (R329): function f writes RING_CFG with ENABLE 0. -/
def execRingDisable (f : Fin 64) (r : Fin 8192) (v : Word) (s : State) : Out :=
  hostCmd (ringMaster f) (0x80008 + 32 * r) (writeRingCfg f r (v &&& ~~~1).toNat allBits) s
/-- A write of RG_OWNER[g] (R321). -/
def writeRgOwner (g v en : Nat) (s : State) : State :=
  let old := getF s (fRG_OWNER_OWNER g) + getF s (fRG_OWNER_ASSIGNED g) * 2 ^ 6
  let new := old - (old &&& en) + (v % 2 ^ 7 &&& en)
  if new ≠ old ∧ (List.range 64).any (fun i => bitF s (fRING_CFG_ENABLE (64 * g + i))) then setF (fRG_OWNER_REJ g) 1 s
  else writeRow' rowRG_OWNER g 0 v en s
/-- RG_OWNER_WRITE (R321). -/
def execRgOwnerWrite (m : BitVec 8) (g : Fin 128) (v : Word) (s : State) : Out :=
  hostCmd m (0x41400 + 8 * g) (writeRgOwner g v.toNat allBits) s

/-! ### Messages (R347) -/

/-- MSIX_HOLDOFF_END (R347). -/
def execMsixHoldoffEnd (r : Fin 8192) (s : State) : Out :=
  if s.cqHold then ok s else
  match tlook s.holdoff r with
  | some true =>
    let s := { s with holdoff := terase s.holdoff r }
    if bitF s (fRING_CFG_IRQ_EN r) then ok (announce r s) else ok s
  | some false => ok { s with holdoff := terase s.holdoff r }
  | none => ok s

/-! ### Fetching (R333, R346, R350) -/

/-- Descriptors in progress over all rings. -/
def inProgress (s : State) : Nat := s.jobs.length + s.heldCqe.length + (s.fetches.map (·.count)).sum
/-- How many descriptors the next fetch of ring r takes. -/
def fetchCount (s : State) (r : Nat) : Nat :=
  let n := ringSize s r
  let head := getF s (fRING_PTR_HEAD r)
  let new := (getF s (fRING_PTR_TAIL r) + n - head) % n
  min (min new (n - head)) (min (32 - getF s (fRING_PTR_IN_FLIGHT r)) (256 - inProgress s))
/-- Ring r may fetch now. -/
def mayFetch (s : State) (r : Nat) : Bool :=
  let cq := getF s (fRING_CFG_CQ r)
  bitF s (fRING_CFG_ENABLE r) && getF s (fRING_CFG_KIND r) == 0 && !bitF s (fRING_STAT_STOPPED r) && !s.ringStop &&
  !s.offNow && s.off.isNone && !ringFull s cq && !s.heldCqe.any (fun h => getF s (fRING_CFG_CQ h.job.ring) == cq) &&
  decide (0 < fetchCount s r)
/-- The enabled rings that have descriptors to fetch. -/
def fetchRings (s : State) : List Nat :=
  (uniq (s.regs.filterMap fun e =>
    if 0x80000 ≤ e.1 / 64 ∧ e.1 / 64 < 0xC0000 then some ((e.1 / 64 - 0x80000) / 32) else none)).filter (mayFetch s)
/-- It is the turn of ring r (R333): of the functions that have descriptors to fetch its owner comes next, and of the rings
of that function it does. -/
def fetchTurn (s : State) (r : Nat) : Bool :=
  let own (q : Nat) : Nat := (ringOwner s q).getD 0
  let last := tget 8191 s.fetchRing (own r)
  mayFetch s r && (fetchRings s).all fun q =>
    if own q = own r then decide (roundAfter 8192 last r ≤ roundAfter 8192 last q)
    else decide (roundAfter 64 s.fetchFn (own r) < roundAfter 64 s.fetchFn (own q))
/-- The host reads of a fetch of k descriptors from index `head` on (R333): each at most the max read request size, split
also at every 4 KiB boundary. -/
def fetchReads (s : State) (r : Nat) : Nat → Nat → Nat → Nat → List Fetch
  | 0, _, _, _ => []
  | fuel + 1, head, k, id =>
    if k = 0 then []
    else
      let n := max 1 (min k (min (s.pcie.mrrs / 64) ((4096 - 64 * head % 4096) / 64)))
      ⟨r, head, n, id⟩ :: fetchReads s r fuel (head + n) (k - n) (id + n)
/-- DESCRIPTOR_FETCH (R333): in its turn, ring r takes its new descriptors; `ce` errors that it meets in hub state are
corrected and counted (R542). -/
def execDescriptorFetch (r : Fin 8192) (ce : BitVec 8) (s : State) : Out :=
  let s := satF fDEV_ERR_HUB_CE ce.toNat s
  if fetchTurn s r then
    let k := fetchCount s r
    let head := getF s (fRING_PTR_HEAD r)
    let f := (ringOwner s r).getD 0
    ok { (incF (fRING_PTR_IN_FLIGHT r) k (setF (fRING_PTR_HEAD r) ((head + k) % ringSize s r) s)) with
           fetches := s.fetches ++ fetchReads s r k head k s.jobNo, jobNo := s.jobNo + k,
           fetchFn := f, fetchRing := tset 8191 s.fetchRing f r }
  else ok s
/-- DESCRIPTOR_FETCH_FAIL (R350): the oldest read of ring r fails; no descriptor of that read runs. -/
def execDescriptorFetchFail (r : Fin 8192) (s : State) : Out :=
  match s.fetches.find? (fun f => f.ring == r.val) with
  | some f =>
    let s := { s with fetches := s.fetches.erase f }
    let s := setF (fRING_PTR_IN_FLIGHT r) (getF s (fRING_PTR_IN_FLIGHT r) - f.count) s
    let s := setFs [(fRING_STAT_STOPPED r, 1), (fRING_STAT_HOST_ERR r, 1)] s
    ok (postEvent ((ringOwner s r).getD 0) 3 r 2 s)
  | none => ok s

/-! ### The checks of a descriptor (R336–R338) -/

/-- Bits lo to lo + w − 1. -/
def mask (lo w : Nat) : Nat := (2 ^ w - 1) * 2 ^ lo
/-- The named bits of D0 to D7 of an opcode (R335, R336). -/
def namedBits (op : Nat) : List Nat :=
  let all := mask 0 64
  let d0 := mask 0 9 + mask 32 32
  let t := d0 + mask 16 6
  match op with
  | 1 => [t, mask 0 14, all, all, all, all, 0, 0]
  | 2 | 3 => [d0, all, mask 0 48, mask 0 32, 0, 0, 0, 0]
  | 4 => [d0, mask 0 48, mask 0 48, mask 0 32, 0, 0, 0, 0]
  | 5 => [t, all, mask 0 13, mask 0 14, 1, 0, 0, 0]
  | 6 => [t, all, mask 0 14, mask 0 15, 1, 0, 0, 0]
  | 7 => [d0, all, mask 0 3 + mask 8 4 + mask 16 5, mask 0 32, 1, 0, 0, 0]
  | 8 => [d0, mask 0 2, 0, 0, 0, 0, 0, 0]
  | 9 => [d0, mask 0 7 + mask 8 1, mask 0 32, mask 0 6, all, 0, 0, 0]
  | 0xA => [d0, mask 0 6 + mask 8 3, 0, 0, 0, 0, 0, 0]
  | 0xB => [d0, all, mask 0 21, mask 0 22, 1, 0, 0, 0]
  | 0xC => [t, mask 0 4, 0, 0, 0, 0, 0, 0]
  | 0xD => [t, all, all, mask 0 32, 1 + mask 8 8, 0, 0, 0]
  | 0xE => [d0, mask 0 4, all, 0, 0, 0, 0, 0]
  | _ => [d0, 0, 0, 0, 0, 0, 0, 0]
/-- The opcodes with a SPACE bit in D4. -/
def hasSpace (op : Nat) : Bool := [5, 6, 7, 0xB, 0xD].contains op
/-- The address of D1 lies in NoC space. -/
def spaceNoc (j : Job) : Bool := hasSpace j.op && dBits j 4 0 1 == 1
/-- The named bits of doubleword i of a descriptor; of a NoC address only [47:0]. -/
def namedOf (j : Job) (i : Nat) : Nat :=
  let n := (namedBits j.op).getD i 0
  if i = 1 ∧ spaceNoc j then n % 2 ^ 48 else n
/-- The lowest reserved bit that is set, counted from D0 bit 0. -/
def reservedSet (j : Job) : Option Nat :=
  (List.range 512).find? fun b => (dBits j (b / 64) (b % 64) 1 == 1) && !(namedOf j (b / 64)).testBit (b % 64)
/-- A partition field belongs to function f, or, for the PF, to no partition. -/
def seqAllowed (s : State) (f x : Nat) : Bool :=
  match ownerOf s x with
  | some g => g == f
  | none => f == 0
/-- Every field of quad d lies in partitions of function f. -/
def quadOwned (s : State) (f d : Nat) : Bool := decide (d < 16) && (quadFields d).all fun q => ownerOf s q == some f
/-- R337. -/
def mayIssue (s : State) (j : Job) : Bool :=
  match j.op with
  | 1 | 0xD => (match ownerOf s (jTarget j) with | some g => g == j.func | none => true)
  | 5 | 6 => seqAllowed s j.func (jTarget j)
  | 7 => (getF s (fFUNC_CFG_STRIP_GRANT j.func)).testBit (dBits j 2 0 3)
  | 9 =>
    let w := dBits j 1 0 7
    decide (72 ≤ w) || (if 64 ≤ w then j.func == 0 else seqAllowed s j.func w)
  | 0xA => j.func == 0 || (dBits j 1 8 3 != 4 && quadOwned s j.func (dBits j 1 0 6))
  | 0xB | 0xC => j.func == 0
  | 0xE => bitF s (fFUNC_CFG_BAR_GRANT j.func)
  | _ => true
/-- Check 4 of R338. -/
def isEmpty (j : Job) : Bool :=
  match j.op with
  | 2 | 3 | 4 => dBits j 3 0 32 == 0
  | 5 => dBits j 3 0 14 == 0
  | 6 => dBits j 3 0 15 == 0
  | 7 => dBits j 3 0 32 == 0 || dBits j 2 16 5 == 0
  | 0xB => dBits j 3 0 22 == 0
  | 0xD => dBits j 2 0 64 == 0
  | _ => false
/-- Checks 1 to 4 of R338: the status and DETAIL of the first that applies. -/
def checkDesc (s : State) (j : Job) : Option (Nat × Nat) :=
  if 0xF ≤ j.op then some (9, 0)
  else if ¬ mayIssue s j then some (1, 0)
  else match reservedSet j with
    | some b => some (8, 2 ^ 31 + b)
    | none => if isEmpty j then some (11, 0) else none

/-! ### Decode and start (R338, R351, R352) -/

/-- The first descriptor of ring r that has not started. -/
def headJob (s : State) (r : Nat) : Option Job :=
  s.jobs.find? fun j => j.ring == r && (j.phase == .arrived || j.phase == .ready)
/-- A FENCE of ring r that has not completed holds the descriptors behind it: it waits, or its completion does (R351). -/
def fenced (s : State) (r : Nat) : Bool :=
  s.jobs.any (fun j => j.ring == r && j.op == 8 && j.phase == .running) ||
    s.heldCqe.any fun h => h.job.ring == r && h.job.op == 8
/-- Descriptors of ring r are decided in order until one is ready to run, or a FENCE holds the ring. -/
def advance (r : Nat) : Nat → State → State
  | 0, s => s
  | k + 1, s =>
    match headJob s r with
    | some j =>
      if fenced s r || s.ringStop || j.phase == .ready then s
      else match checkDesc s j with
        | some (st, det) => advance r k (completeJob j.id st det s)
        | none => updJob j.id (fun j => { j with phase := .ready }) s
    | none => s
def advanceRing (r : Nat) (s : State) : State := advance r 33 s
/-- The rings that have descriptors not yet started. -/
def advanceAll (s : State) : State := (uniq (s.jobs.map (·.ring))).foldl (fun s r => advanceRing r s) s
/-- A descriptor as fetched from ring r. -/
def newJob (s : State) (r index id : Nat) (w : BitVec 512) : Job :=
  let d := (List.range 8).map fun i => bits w.toNat (64 * i) 64
  let d0 := d.getD 0 0
  { id := id, ring := r, index := index, func := (ringOwner s r).getD 0, op := d0 % 256, suppress := d0.testBit 8,
    tag := bits d0 32 32, d := d, phase := .arrived, eng := none, stage := 0, pos := 0, fail := none, data := [],
    reads := [], mute := false }
/-- DESCRIPTOR_ARRIVAL (R338): the oldest read of ring r returns its descriptors, which are decided in order. -/
def execDescriptorArrival (r : Fin 8192) (ds : List (BitVec 512)) (s : State) : Out :=
  match s.fetches.find? (fun f => f.ring == r.val) with
  | some f =>
    if ds.length = f.count then
      let js := (List.range f.count).map fun i => newJob s r (f.first + i) (f.id + i) (ds.getD i 0)
      ok (advanceRing r { s with fetches := s.fetches.erase f, jobs := s.jobs ++ js })
    else ok s
  | none => ok s
/-- A descriptor starts: it runs, with a DMA engine where its opcode needs one. -/
def runJob (j : Job) (stage : Nat) (s : State) : State :=
  let s := updJob j.id (fun j => { j with phase := .running, stage := stage }) s
  if usesEngine j.op then giveEngine s else s
/-- The descriptor of ring r that is ready starts when it has opcode op; the descriptors behind it are then decided. -/
def startOp (r : Fin 8192) (op : Nat) (act : Job → State → State) (s : State) : Out :=
  match headJob s r with
  | some j =>
    if j.phase = .ready ∧ j.op = op ∧ ¬ bitF s fDEV_ERR_FATAL then ok (advanceRing r (act j s)) else ok s
  | none => ok s
/-- A descriptor that fails a check of its opcode. -/
def badParam (det : Nat) (j : Job) (s : State) : State := completeJob j.id 8 det s

/-! ### Doorbells (R323, R331, R332, R334) -/

/-- The ring of slot `slot` of BAR2 of function f, counted in 64-byte slots from the start of the BAR (R322, R323): the
pages of a VF are its ring groups in ascending order, 16 at most. -/
def doorbellRing (s : State) (f slot : Nat) : Option Nat :=
  if f = 0 then some slot
  else ((groupsOf s f).take 16)[slot / 64]?.map fun g => 64 * g + slot % 64
/-- Function f reaches the doorbell of ring r: the endpoint answers, f owns the group, and no FLR of f is under way
(R323, R353). -/
def doorbellReaches (s : State) (f r : Nat) : Bool :=
  hostReaches s (0x80 + f) && ringOwner s r == some f && !s.flrWait.any (fun e => e.1 == f)
/-- A discarded doorbell (R332). -/
def doorbellBad (bit : Fld) (r : Nat) (s : State) : State :=
  postEvent ((ringOwner s r).getD 0) 3 r 1 (setF bit 1 s)
/-- Held completions leave while their rings have space; a FENCE's lets the descriptors behind it start (R346, R351). -/
def releaseWaiting (s : State) : State := if s.heldCqe = [] then s else advanceAll (releaseHeld s)
/-- A doorbell write of function f to the slot of ring r. -/
def doorbell (f r size off v : Nat) (s : State) : State :=
  let n := ringSize s r
  let old := getF s (fRING_PTR_HEAD r)
  let tail := getF s (fRING_PTR_TAIL r)
  if ¬ doorbellReaches s f r then s
  else if size ≠ 4 ∨ off ≠ 0 ∨ 2 ^ 16 ≤ v then doorbellBad (fRING_STAT_DB_FMT r) r s
  else if ¬ bitF s (fRING_CFG_ENABLE r) ∨ n ≤ v then doorbellBad (fRING_STAT_DB_BAD r) r s
  else if getF s (fRING_CFG_KIND r) = 0 then
    let s := setF (fRING_PTR_TAIL r) v s
    if v ≠ tail ∧ bitF s (fRING_CFG_BIND_EN r) then raiseIrq (getF s (fRING_CFG_BIND_SEQ r)) 16 s else s
  else if (tail + n - old) % n < (tail + n - v) % n then doorbellBad (fRING_STAT_DB_BAD r) r s
  else payOverflow r (releaseWaiting (setF (fRING_PTR_HEAD r) v s))
/-- SQ_DOORBELL (R331): a doorbell of a submission ring. -/
def execSqDoorbell (f : Fin 64) (slot : Fin 8192) (size : Fin 65) (off : Fin 64) (v : BitVec 32) (s : State) : Out :=
  match doorbellRing s f slot with
  | some r => if getF s (fRING_CFG_KIND r) = 0 then ok (doorbell f r size off v.toNat s) else ok s
  | none => ok s
/-- CQ_DOORBELL (R331): a doorbell of a completion or event ring. -/
def execCqDoorbell (f : Fin 64) (slot : Fin 8192) (size : Fin 65) (off : Fin 64) (v : BitVec 32) (s : State) : Out :=
  match doorbellRing s f slot with
  | some r => if getF s (fRING_CFG_KIND r) = 0 then ok s else ok (doorbell f r size off v.toNat s)
  | none => ok s

/-! ### Descriptors without data (R336, R339, R342, R351, R520, R530) -/

/-- NOP. -/
def execNop (r : Fin 8192) (s : State) : Out := startOp r 0 (fun j s => completeJob j.id 0 0 s) s

/-- A LAUNCH of sequencer n has passed its checks and not completed (R352). -/
def launching (s : State) (n : Nat) : Bool :=
  s.jobs.any fun j => j.op == 1 && j.phase == .running && jTarget j == n
/-- The ring engine sends the start message of a LAUNCH to its sequencer (R339, R398), and a wake request for each quad of
the partition that is not in Run (R521). -/
def sendStart (j : Job) (s : State) : State :=
  let n := jTarget j
  match (List.range 64).find? fun t => !tidTaken s 0xA8 t with
  | none => s
  | some t =>
    let dark := (partQuads s n).filter fun q => !domOpen s q
    dark.foldl (fun s q => postWake q 8 s) (submit ⟨0xA8, n, t, .start j.id⟩ (runJob j 0 s))
/-- A removal of the partition of master n has been accepted and not yet completed (R286, R287). -/
def removing (s : State) (n : Nat) : Bool := s.partCmd.any fun c => c.op == 2 && c.master == n
/-- LAUNCH (R339): a partition that is being removed counts as none. -/
def execLaunch (r : Fin 8192) (s : State) : Out :=
  startOp r 1 (fun j s =>
    let n := jTarget j
    if (partAt s n).isNone ∨ removing s n then badParam 1 j s
    else if ¬ launchable s n ∨ launching s n then badParam 2 j s
    else if ¬ tget false s.imageOk n then badParam 3 j s
    else sendStart j s) s

/-- FENCE (R351): it holds its ring until its scope has completed. -/
def execFence (r : Fin 8192) (s : State) : Out :=
  startOp r 8 (fun j s => if dBits j 1 0 2 = 3 then badParam 1 j s else runJob j 0 s) s
/-- Ring q lies in the scope of a FENCE. -/
def inScope (s : State) (j : Job) (q : Nat) : Bool :=
  match dBits j 1 0 2 with
  | 0 => q == j.ring
  | 1 => q / 64 == j.ring / 64
  | _ => ringOwner s q == some j.func
/-- Every descriptor of the scope that was fetched before the FENCE has completed. -/
def fenceMet (s : State) (j : Job) : Bool :=
  !(s.jobs.any fun k => decide (k.id < j.id) && inScope s j k.ring) &&
  !(s.heldCqe.any fun h => decide (h.job.id < j.id) && inScope s j h.job.ring) &&
  !(s.fetches.any fun f => decide (f.id < j.id) && inScope s j f.ring)
/-- FENCE_RELEASE (R351). -/
def execFenceRelease (r : Fin 8192) (s : State) : Out :=
  match s.jobs.find? (fun j => j.ring == r.val && j.op == 8 && j.phase == .running) with
  | some j => if fenceMet s j then ok (advanceRing r (completeJob j.id 0 0 s)) else ok s
  | none => ok s

/-- POWER (R520, R521, R530). -/
def execPower (r : Fin 8192) (s : State) : Out :=
  startOp r 0xA (fun j s =>
    let d := dBits j 1 0 6
    let st := dBits j 1 8 3
    if 5 ≤ st ∨ (st ≤ 3 ∧ 40 < d) ∨ (st = 4 ∧ d ≠ 63) then badParam 1 j s
    else if st = 4 then
      if (List.range 64).all (coreHalted s) then { (runJob j 0 s) with off := some j.id } else badParam 2 j s
    else if d < 16 ∧ st ≠ 0 ∧ quadBusy s d then badParam 2 j s
    else requestState d st (.desc j.id) (runJob j 0 s)) s

/-! ### Functions (R320, R353, R354) -/

/-- The rings of the groups of function f return to their reset values. -/
def resetRings (f : Nat) (s : State) : State :=
  let gs := groupsOf s f
  let mine (r : Nat) : Bool := gs.contains (r / 64)
  { s with regs := s.regs.filter (fun e => !(decide (0x80000 ≤ e.1 / 64 ∧ e.1 / 64 < 0xC0000) && mine ((e.1 / 64 - 0x80000) / 32))),
           holdoff := s.holdoff.filter (fun e => !mine e.1), evtLost := s.evtLost.filter (fun e => !mine e.1) }
/-- The named descriptors leave with no completion, and their engines are free again. -/
def dropWhere (p : Job → Bool) (s : State) : State :=
  (s.jobs.filter p).foldl (fun s j => freeEngine j s) { s with jobs := s.jobs.filter fun j => !p j }
/-- Partitions of a function. -/
def ownedParts (s : State) (f : Nat) : List (Nat × Part) := s.parts.filter fun e => e.2.func == f
/-- Step 3 of R353: the descriptors of function f stop with no completion, and no event is written for it; a SPARE of
its rings runs on without one (R77). -/
def dropJobs (f : Nat) (s : State) : State :=
  let s := dropWhere (fun j => j.func == f && !(j.op == 0xC && j.phase == .running)) s
  { s with jobs := s.jobs.map fun j => if j.func = f then { j with mute := true } else j,
           fetches := s.fetches.filter (fun x => ringOwner s x.ring != some f),
           heldCqe := s.heldCqe.filter (fun h => h.job.func != f), evtHeld := s.evtHeld.filter (fun e => e.1 != f) }
/-- A READBACK of a partition of function f writes nothing further and completes with no entry (R613). -/
def dropReadbacks (f : Nat) (s : State) : State :=
  dropWhere (fun j => j.op == 0xD && j.phase == .running && ownerOf s (jTarget j) == some f) s
/-- A SPARE still runs on a partition of function f: the partition reset waits for it (R557). -/
def flrBlocked (s : State) (f : Nat) : Bool :=
  s.jobs.any fun j => j.op == 0xC && j.phase == .running && ownerOf s (jTarget j) == some f
/-- Steps 2 to 5 of R353. -/
def flrActs (f : Nat) (s : State) : State :=
  let s := (ownedParts s f).foldl (fun s e => resetPart e.1 e.2 s) s
  let s := resetRings f (dropJobs f s)
  { s with msixTab := s.msixTab.filter (fun e => e.1 / 32 != f), msixPba := s.msixPba.filter (fun e => e.1 / 32 != f) }
/-- A VF that ceases to be enabled gives its partitions to the PF and its ring groups up (R354). -/
def strip (f : Nat) (s : State) : State :=
  let s := setF (fFUNC_STAT_ENABLED f) 0 s
  let s := (groupsOf s f).foldl (fun s g => setF (fRG_OWNER_ASSIGNED g) 0 s) s
  { s with parts := s.parts.map fun e => if e.2.func = f then (e.1, { e.2 with func := 0 }) else e }
/-- A reset of function f has reached its partitions: it acts, and the function may cease. -/
def flrEnd (f : Nat) (cease : Bool) (s : State) : State := if cease then strip f (flrActs f s) else flrActs f s
/-- A function-level reset, after which the function may cease. Its doorbells are discarded at once (step 1); each later
step begins when the one before it has ended (R353). -/
def flr (f : Nat) (cease : Bool) (s : State) : State :=
  let s := dropReadbacks f s
  if flrBlocked s f then { s with flrWait := s.flrWait ++ [(f, cease)] } else flrEnd f cease s
/-- Resets that waited for a SPARE act once it has completed. -/
def flrResume (s : State) : State :=
  let due := s.flrWait.filter fun e => !flrBlocked s e.1
  due.foldl (fun s e => flrEnd e.1 e.2 s) { s with flrWait := s.flrWait.filter fun e => flrBlocked s e.1 }
/-- The VFs above `num` that are enabled. -/
def vfsAbove (s : State) (num : Nat) : List Nat :=
  (List.range 64).filter fun f => decide (num < f) && bitF s (fFUNC_STAT_ENABLED f)
/-- FLR (R353, R354): of the PF, it clears VF Enable first. -/
def execFlr (f : Fin 64) (s : State) : Out :=
  if hostReaches s (0x80 + f) then
    let s := if f = 0 then
        (vfsAbove s 0).foldl (fun s v => flr v true s) { s with pcie := { s.pcie with vfEnable := false, numVfs := 0 } } else s
    ok (flr f false s)
  else ok s
/-- VF_ENABLE (R320): VF Enable is 1 and NumVFs is at least n for VFs 1 to num. -/
def execVfEnable (num : Fin 64) (s : State) : Out :=
  if endpointReady s then
    let k := max num.val (if s.pcie.vfEnable then s.pcie.numVfs else 0)
    ok (((List.range 64).filter fun f => decide (0 < f ∧ f ≤ num.val)).foldl (fun s f => setF (fFUNC_STAT_ENABLED f) 1 s)
      { s with pcie := { s.pcie with vfEnable := true, numVfs := k } })
  else ok s
/-- VF_DISABLE (R354): VF Enable clears (num 0), or NumVFs falls to num. -/
def execVfDisable (num : Fin 64) (s : State) : Out :=
  if endpointReady s then
    ok ((vfsAbove s num).foldl (fun s v => flr v true s)
      { s with pcie := { s.pcie with vfEnable := s.pcie.vfEnable && num.val != 0, numVfs := min num.val s.pcie.numVfs } })
  else ok s

/-! ### BAR4 (R322, R324, R325) -/

/-- One line of a BAR4 access; a refused read returns 0. -/
def bar4Line (f : Nat) (wr : Bool) (a : Nat) (en : List Bool) (data : List Byte) (s : State) : Resp × State :=
  match nocAccess 0xA8 (0x80 + f) wr a en data s with
  | (.done st d _, s) => (.done (if st = 1 then 0 else st) (if d = [] then List.replicate en.length 0 else d), s)
  | x => x
/-- The lines of a BAR4 access, in order; `none`: a line waits for its domain. -/
def bar4Lines (f : Nat) (wr : Bool) (a0 : Nat) (en : List Bool) (data : List Byte) :
    List (Nat × Nat) → State → Option (Nat × List Byte) × State
  | [], s => (some (0, []), s)
  | (a, k) :: t, s =>
    match bar4Line f wr a ((en.drop (a - a0)).take k) ((data.drop (a - a0)).take k) s with
    | (.wait, s) => (none, s)
    | (.done st d _, s) =>
      match bar4Lines f wr a0 en data t s with
      | (some (st', d'), s) => (some (if st = 0 then st' else st, d ++ d'), s)
      | (none, s) => (none, s)
/-- BAR4_ACCESS (R325): bytes at an offset of BAR4 of function f; uncorrectable data returns poisoned, EP set. -/
def execBar4Access (f : Fin 64) (wr : Bool) (off : BitVec 26) (en : List Bool) (data : List Byte) (s : State) : Out :=
  if hostReaches s (0x80 + f) ∧ en.length ≤ 512 ∧ off.toNat + en.length ≤ 2 ^ 26 then
    match bar4Lines f wr off.toNat en data (splitLines off.toNat en.length) s with
    | (some (st, d), s) => if wr then ok s else ok (answer 0xA8 st d (b2n (st == 4)) s)
    | (none, s) => ok s
  else ok s

end Sys2Proof.Machine
end

