-- ==== Sys2Proof/Machine/Links.lean ====
section
/-! DEFINITION. Fleet links: bring-up, identity and authentication, codewords received, link-layer flits, lanes, wakes
(R425–R445, R450–R461). -/
namespace Sys2Proof.Machine
open Sys2Proof

/-! ### Lanes -/

/-- Lanes in FLP mode as a map (R445, R457). -/
def flpMask (s : State) (j : Nat) : Nat :=
  let all := 2 ^ linkLanes j - 1
  if j < 8 then all - (all &&& getF s (fLANE_MODE_FABRIC j)) else all
def laneErr (j l lo w : Nat) : Fld := rowFld rowLANE_ERR j l (lo, w, .rc, 0)
/-- The lanes of a link in use, shown in LINK_STAT and LANE_MAP. -/
def setTx (j m : Nat) (s : State) : State := setFs [(fLANE_MAP_TX_ACT j, m), (fLINK_STAT_TX_N j, popc 5 m)] s
def setRx (j m : Nat) (s : State) : State := setFs [(fLANE_MAP_RX_ACT j, m), (fLINK_STAT_RX_N j, popc 5 m)] s
def txAct (s : State) (j : Nat) : Nat := getF s (fLANE_MAP_TX_ACT j)
def rxAct (s : State) (j : Nat) : Nat := getF s (fLANE_MAP_RX_ACT j)
def minLanes (s : State) (j : Nat) : Nat := getF s (fLINK_CTL_MIN_LANES j)

/-- Lanes of a map. -/
def lanesIn (j m : Nat) : List Nat := (List.range (linkLanes j)).filter fun l => m.testBit l
/-- Map m without lane l. -/
def without (m l : Nat) : Nat := m - (m &&& 2 ^ l)
/-- The peer's lane that receive lane l carries, as its codewords have shown, and the receive lane of a lane of the peer. -/
def peerLane (k : Link) (l : Nat) : Nat := tget l k.peer l
def ownLane (s : State) (j p : Nat) : Nat :=
  ((List.range (linkLanes j)).find? fun l => peerLane (getLink s j) l == p).getD p
/-- A set falls below MIN_LANES (R441). -/
def tooFew (s : State) (j m : Nat) : Bool := decide (popc 5 m < minLanes s j)
/-- The transmit set changes at the first codeword that is to be sent again, else at the next CWSEQ not yet transmitted
(R441, R442). -/
def announceSet (j m : Nat) (s : State) : State :=
  setTx j m (updLink j (fun l =>
    let n := match l.resend with | c :: _ => c.seq | [] => l.txNext
    { l with set := some (m, n), base := n, span := (l.txNext + 4096 - n) % 4096 }) s)

/-! ### Flits -/

/-- A CONTROL flit of a type, with further payload bits (R440). -/
def control (ty rest : Nat) : Flit := mkFlit 5 0 false (ty + rest)
/-- The first received flit of a class acts, if it is the one a command names. -/
def takeFlit (j cls : Nat) (p : Flit → Bool) (act : Flit → State → State) (s : State) : Out :=
  match (getLink s j).rxq.find? (fun f => f.cls.toNat == cls) with
  | some f => if p f then ok (act f (updLink j (fun l => { l with rxq := l.rxq.erase f }) s)) else ok s
  | none => ok s
/-- Whether a CONTROL flit has a type. -/
def isControl (ty : Nat) (f : Flit) : Bool := pBits f 0 8 == ty

/-! ### Bring-up (R437–R440, R443) -/

/-- Whether a link may go on from a bring-up state. -/
def atState (s : State) (j st : Nat) : Bool := linkState s j == st && domRun s (linkDomain j)
/-- A write of LINK_CTL[j] (R437, R443, R453, R455). -/
def writeLinkCtl (j v en : Nat) (s : State) : State :=
  let was := bitF s (fLINK_CTL_ENABLE j)
  let s := writeTy .rw rowLINK_CTL j 0 v en s
  let now := bitF s (fLINK_CTL_ENABLE j)
  let m := minLanes s j
  let s :=
    if ¬ was ∧ now then
      if m = 0 ∨ popc 5 (flpMask s j) < m then setFs [(fLINK_CTL_ENABLE j, 0), (fLINK_STAT_CFG_REJ j, 1)] s
      else
        let s := setF (fLINK_PEER_VALID j) 0 s
        if domRun s (linkDomain j) then setF (fLINK_STAT_STATE j) 1 s else s
    else if was ∧ ¬ now then linkDown j 1 s
    else s
  if onesIn (fLINK_CTL_REVEILLE j) v en = 1 ∧ domRun s (linkDomain j) ∧
      (linkState s j < 2 ∨ linkState s j = 7) then
    setFs [(fLINK_CTL_REVEILLE j, 1), (fLINK_STAT_REV_BUSY j, 1)] s
  else s
def linkBase (j : Nat) : Nat := 0x60000 + 0x1000 * j
/-- LINK_ENABLE (R437): LINK_CTL is written with ENABLE 1. -/
def execLinkEnable (m : BitVec 8) (j : Fin 10) (v : Word) (s : State) : Out :=
  hostCmd m (linkBase j) (writeLinkCtl j (v ||| 1).toNat (allBits - 2 ^ 5)) s
/-- SIGNAL_DETECT (R437): the lanes on which signal is present. -/
def execSignalDetect (j : Fin 10) (lanes : BitVec 32) (s : State) : Out :=
  let s := (List.range (linkLanes j)).foldl (fun s l => setF (laneErr j l 48 1) (b2n (!lanes.getLsbD l)) s) s
  if atState s j 1 ∧ minLanes s j ≤ popc 5 (lanes.toNat &&& flpMask s j) then ok (setF (fLINK_STAT_STATE j) 2 s) else ok s
/-- Lanes that have trained late join the sets (R437). -/
def joinLate (j tx rx : Nat) (s : State) : State :=
  let k := getLink s j
  let (tx, rx) := (tx &&& k.lateTx, rx &&& k.lateRx)
  let s := updLink j (fun k => { k with lateTx := k.lateTx - tx, lateRx := k.lateRx - rx }) s
  let s := if tx = 0 then s else announceSet j (txAct s j ||| tx) s
  let s := setRx j (rxAct s j ||| rx) s
  let s := (lanesIn j rx).foldl (fun s l => linkEvent j (4 + l * 2 ^ 8) s) s
  (lanesIn j tx).foldl (fun s l => linkEvent j (4 + l * 2 ^ 8 + 2 ^ 13) s) s
/-- TRAIN_DONE (R437): the lanes that have trained with the peer, of each direction. -/
def execTrainDone (j : Fin 10) (tx rx : BitVec 32) (s : State) : Out :=
  let (tx, rx) := (tx.toNat &&& flpMask s j, rx.toNat &&& flpMask s j)
  if atState s j 2 then
    if tooFew s j tx || tooFew s j rx then ok s else ok (setF (fLINK_STAT_STATE j) 3 s)
  else if 4 ≤ linkState s j ∧ linkState s j ≤ 6 then ok (joinLate j tx rx s)
  else ok s
/-- The IDENT flit of link j (R438). -/
def identOf (s : State) (j : Nat) : Flit :=
  control 1 (getF s fFLEET_ID_FX * 2 ^ 8 + getF s fFLEET_ID_FY * 2 ^ 12 + getF s fFLEET_ID_FZ * 2 ^ 16 + j * 2 ^ 20 +
    getF s (fLINK_CTL_AUTH_EN j) * 2 ^ 24)
/-- ALIGN_DONE (R437): codeword lock and the first TXSET are agreed; the link sends IDENT. -/
def execAlignDone (j : Fin 10) (tx rx : BitVec 32) (s : State) : Out :=
  let tx := tx.toNat &&& flpMask s j
  let rx := rx.toNat &&& flpMask s j
  if atState s j 3 ∧ ¬ tooFew s j tx ∧ ¬ tooFew s j rx then
    let s := setRx j rx (setTx j tx (setF (fLINK_STAT_STATE j) 4 s))
    let (f, all) := (identOf s j, flpMask s j)
    ok (sendFlit j f (updLink j (fun l => { Link.reset with
      tunQ := l.tunQ, tun := l.tun, lateTx := all - tx, lateRx := all - rx, own := { AuthSide.reset with ident := f.p } }) s))
  else ok s
/-- BRINGUP_TIMEOUT (R437). -/
def execBringupTimeout (j : Fin 10) (s : State) : Out :=
  let st := linkState s j
  if 2 ≤ st ∧ st ≤ 5 then
    let s := updLink j (fun l => { Link.reset with tunQ := l.tunQ, tun := l.tun }) s
    ok (setF (fLINK_STAT_STATE j) (if st = 5 then 7 else 1) (setRx j 0 (setTx j 0 s)))
  else ok s
/-- The link becomes ACTIVE (R437, R454). -/
def goActive (j : Nat) (s : State) : State := linkEvent j 1 (setF (fLINK_STAT_STATE j) 6 s)
/-- The link is held until software clears ENABLE. -/
def goHeld (j : Nat) (s : State) : State := setF (fLINK_STAT_STATE j) 7 s
/-- The coordinates and the link number that R425 and R428 lead link j to expect of its peer. -/
def expectedPeer (s : State) (j : Nat) : Nat × Nat × Nat × Nat :=
  let (dx, dy, dz) := (getF s fFLEET_ID_DXM + 1, getF s fFLEET_ID_DYM + 1, getF s fFLEET_ID_DZM + 1)
  let (x, y, z) := (getF s fFLEET_ID_FX, getF s fFLEET_ID_FY, getF s fFLEET_ID_FZ)
  let (x, y, z) := match j with
    | 0 | 2 => (x, (y + dy - 1) % dy, z)
    | 1 | 5 => ((x + dx - 1) % dx, y, z)
    | 3 | 7 => ((x + 1) % dx, y, z)
    | 4 | 6 => (x, (y + 1) % dy, z)
    | 8 => (x, y, (z + 1) % dz)
    | _ => (x, y, (z + dz - 1) % dz)
  (x, y, z, peerLink j)
/-- Octets in flits of a CONTROL type: bits [15:8] the segment's index, then 26 octets each (R440). -/
def sendSegments (j ty : Nat) (l : List Byte) (s : State) : State :=
  let segs := groups 26 l.length l
  (List.range segs.length).foldl (fun s i =>
    sendFlit j (control ty (i % 256 * 2 ^ 8 + leNum (segs.getD i []) * 2 ^ 16)) s) s
/-- The 26 octets of a segment. -/
def segment (f : Flit) : List Byte := leBytes 26 (pBits f 16 208)
/-- The nonce of this side, drawn when the exchange begins, goes to the peer. -/
def sendNonce (j : Nat) (s : State) : State :=
  let (d, s) := draw s
  let n := leBytes 48 (Config.nonce d).toNat
  sendSegments j 2 n (updLink j (fun k => { k with own := { k.own with nonce := n } }) s)
/-- The Lodestar key signs (R577, R590). -/
def canSign (s : State) : Bool := bitF s fSEC_STAT_ID_OK && !bitF s fSEC_STAT_LODESTAR_OFF
/-- A signature of the Lodestar key over a message. -/
def lodestarSign (msg : List Byte) (s : State) : List Byte × State :=
  let (d, s) := draw s
  (ecdsaSign lodestarKey ((Config.signK d).toNat % (ecN - 1) + 1) msg, s)
/-- What the proving side signs: the nonces of the requiring and of the proving side, then their IDENT payloads. -/
def authMessage (req prv : AuthSide) : List Byte :=
  req.nonce.take 48 ++ prv.nonce.take 48 ++ leBytes 28 req.ident.toNat ++ leBytes 28 prv.ident.toNat
/-- IDENT (R438): the peer's identity arrives, is recorded and checked. -/
def execIdentFlit (j : Fin 10) (s : State) : Out :=
  if linkState s j = 4 then
    takeFlit j 5 (isControl 1) (fun f s =>
      let s := updLink j (fun k => { k with far := { k.far with ident := f.p } }) s
      let (x, y, z, k) := (pBits f 8 4, pBits f 12 4, pBits f 16 4, pBits f 20 4)
      let s := setFs [(fLINK_PEER_FX j, x), (fLINK_PEER_FY j, y), (fLINK_PEER_FZ j, z), (fLINK_PEER_LINK j, k),
        (fLINK_PEER_VALID j, 1)] s
      let bad := decide ((x, y, z, k) ≠ expectedPeer s j)
      let s := if bad then linkEvent j 6 (setF (fLINK_STAT_PEER_BAD j) 1 s) else s
      if bad ∧ bitF s (fLINK_CTL_CHK_PEER j) then goHeld j s
      else if bitF s (fLINK_CTL_AUTH_EN j) then sendNonce j (setF (fLINK_STAT_STATE j) 5 s)
      else goActive j s) s
  else ok s
/-- The proof of this side (R439): device and intermediate certificate, and the signature, unless R577 or R590 withhold it. -/
def prove (j : Nat) (s : State) : State :=
  let s := if (getLink s j).own.nonce.isEmpty then sendNonce j s else s
  let s := match regionChain (certRegion s) with
    | some (_, inter, dev) => sendSegments j 3 (dev ++ inter) s
    | none => s
  if canSign s then
    let k := getLink s j
    let (g, s) := lodestarSign (authMessage k.far k.own) s
    sendSegments j 4 g s
  else s
/-- NONCE (R439): a segment of the peer's nonce arrives; after the second the part proves its identity. -/
def execNonce (j : Fin 10) (s : State) : Out :=
  takeFlit j 5 (isControl 2) (fun f s =>
    let n := (getLink s j).far.nonce
    let s := updLink j (fun k => { k with far := { k.far with nonce := n ++ segment f } }) s
    if n.length = 26 then prove j s else s) s
/-- CERT (R439): a segment of the peer's certificates arrives. -/
def execCert (j : Fin 10) (s : State) : Out :=
  takeFlit j 5 (isControl 3) (fun f s =>
    updLink j (fun k => { k with far := { k.far with certs := k.far.certs ++ segment f } }) s) s
/-- What the peer has proved: the low 32 bits of its serial number, when the chain and the signature over both nonces and both
IDENT payloads verify. -/
def peerProved (k : Link) : Option Nat :=
  match readCert k.far.certs with
  | none => none
  | some (dev, rest) => match readCert rest with
    | none => none
    | some (inter, _) =>
      if 52 ≤ k.far.nonce.length ∧ chainGood dev inter ∧
          ecdsaVerify dev.key (authMessage k.own k.far) (k.far.sig.take 48) ((k.far.sig.drop 48).take 48) then
        some (beNum dev.serial % 2 ^ 32)
      else none
/-- SIG (R439): a segment of the signature arrives; after the fourth, chain and signature are verified. -/
def execSig (j : Fin 10) (s : State) : Out :=
  takeFlit j 5 (isControl 4) (fun f s =>
    let g := (getLink s j).far.sig
    let s := updLink j (fun k => { k with far := { k.far with sig := g ++ segment f } }) s
    if g.length = 78 ∧ linkState s j = 5 then
      match peerProved (getLink s j) with
      | some sn => goActive j (setFs [(fLINK_STAT_AUTH_OK j, 1), (fLINK_PEER_SN j, sn)] s)
      | none => goHeld j (linkEvent j 7 (setF (fLINK_STAT_AUTH_FAIL j) 1 s))
    else s) s
/-- RTT_MEASURE (R435): the round trip in ns, from IDENT on. -/
def execRttMeasure (j : Fin 10) (ns : BitVec 16) (s : State) : Out :=
  if 4 ≤ linkState s j ∧ linkState s j ≤ 6 then ok (setF (fLINK_STAT_RTT j) ns.toNat s) else ok s

/-! ### Retirement and retraining (R441, R442) -/

/-- Lane l goes back into neither set: it has retrained, or is dead. -/
def endRetrain (j l : Nat) (s : State) : State :=
  let c := getF s (fLANE_CMD_RETRAIN j)
  setF (fLANE_CMD_RETRAIN j) (without c l)
    (updLink j (fun k => { k with rt := without k.rt l, rtSent := without k.rtSent l, rtRecv := without k.rtRecv l }) s)
/-- The retraining of lane l starts: the pair leaves both sets and RETRAIN goes to the peer; a dead lane stays retired. -/
def startRetrain (j l : Nat) (s : State) : State :=
  if (getLink s j).rt.testBit l ∨ bitF s (laneErr j l 49 1) then s
  else
    let s := updLink j (fun k => { k with rt := k.rt + 2 ^ l }) s
    let s := setRx j (without (rxAct s j) l) s
    let s := if (txAct s j).testBit l then announceSet j (without (txAct s j) l) s else s
    if tooFew s j (txAct s j) || tooFew s j (rxAct s j) then (if linkActive s j then linkDown j 2 s else s)
    else sendFlit j (control 7 (l * 2 ^ 8)) s
/-- Receive lane l is retired (R441). -/
def retireLane (j l : Nat) (s : State) : State :=
  if (rxAct s j).testBit l then
    let m := without (rxAct s j) l
    let s := linkEvent j (3 + l * 2 ^ 8) (setRx j m (updLink j (fun k =>
      { k with rxreq := k.rxreq ||| 2 ^ peerLane k l, errs := k.errs.filter fun e => e.lane != l }) s))
    if tooFew s j m then (if linkActive s j then linkDown j 2 s else s)
    else if bitF s (fLINK_CTL_AUTO_RT j) then startRetrain j l s
    else s
  else s
/-- LANE_LOSS (R441). -/
def execLaneLoss (j : Fin 10) (l : Fin 32) (s : State) : Out :=
  if l.val < linkLanes j then ok (retireLane j l (setF (laneErr j l 48 1) 1 s)) else ok s
/-- A write of LANE_CMD[j] (R441, R442, R457): RETRAIN acts on a lane that either direction lacks. -/
def writeLaneCmd (j v en : Nat) (s : State) : State :=
  let s := (lanesIn j (onesIn (fLANE_CMD_RETIRE j) v en)).foldl (fun s l => retireLane j l s) s
  (lanesIn j (onesIn (fLANE_CMD_RETRAIN j) v en)).foldl (fun s l =>
    if linkActive s j ∧ (flpMask s j).testBit l ∧ ¬ (rxAct s j &&& txAct s j).testBit l then
      let s := setFs [(laneErr j l 49 1, 0), (laneErr j l 50 2, 0),
        (fLANE_CMD_RETRAIN j, getF s (fLANE_CMD_RETRAIN j) ||| 2 ^ l)] s
      startRetrain j l s
    else s) s
/-- LANE_RETIRE (R441): software writes RETIRE. -/
def execLaneRetire (m : BitVec 8) (j : Fin 10) (lanes : BitVec 32) (s : State) : Out :=
  hostCmd m (linkBase j + 0x20) (writeLaneCmd j lanes.toNat allBits) s
/-- LANE_RETRAIN (R442): software writes RETRAIN. -/
def execLaneRetrain (m : BitVec 8) (j : Fin 10) (lanes : BitVec 32) (s : State) : Out :=
  hostCmd m (linkBase j + 0x20) (writeLaneCmd j (lanes.toNat * 2 ^ 32) allBits) s
/-- RETRAIN (R442): the peer's flit, which names a lane of the peer, starts the retraining of the lane paired with it. -/
def execRetrain (j : Fin 10) (s : State) : Out :=
  takeFlit j 5 (isControl 7) (fun f s =>
    let l := ownLane s j (pBits f 8 5)
    if l < linkLanes j then startRetrain j l s else s) s
/-- The lane rejoins both sets once each side has sent RETRAIN_DONE (R442). -/
def maybeRejoin (j l : Nat) (s : State) : State :=
  let k := getLink s j
  if (k.rtSent &&& k.rtRecv).testBit l then
    let s := endRetrain j l (updLink j (fun k => { k with
      rxreq := without k.rxreq (peerLane k l), scr := terase k.scr l, dscr := terase k.dscr l }) s)
    let s := announceSet j (txAct s j ||| 2 ^ l) (setRx j (rxAct s j ||| 2 ^ l) s)
    linkEvent j (4 + l * 2 ^ 8) (setFs [(laneErr j l 48 1, 0), (laneErr j l 50 2, 0)] s)
  else s
/-- RETRAIN_DONE (R442): lane l has trained here, which this side tells the peer; or the peer's RETRAIN_DONE arrives. -/
def execRetrainDone (j : Fin 10) (trained : Option (Fin 32)) (s : State) : Out :=
  match trained with
  | some l =>
    let k := getLink s j
    if k.rt.testBit l ∧ ¬ k.rtSent.testBit l then
      ok (maybeRejoin j l (updLink j (fun k => { k with rtSent := k.rtSent + 2 ^ l.val }) (sendFlit j (control 8 (l * 2 ^ 8)) s)))
    else ok s
  | none => takeFlit j 5 (isControl 8) (fun f s =>
      let l := ownLane s j (pBits f 8 5)
      if (getLink s j).rt.testBit l then maybeRejoin j l (updLink j (fun k => { k with rtRecv := k.rtRecv ||| 2 ^ l }) s)
      else s) s
/-- RETRAIN_FAIL (R442): an attempt fails; after the third the lane is DEAD. -/
def execRetrainFail (j : Fin 10) (l : Fin 32) (s : State) : Out :=
  if (getLink s j).rt.testBit l then
    let k := getF s (laneErr j l 50 2) + 1
    let s := setF (laneErr j l 50 2) k s
    if 3 ≤ k then ok (linkEvent j (5 + l * 2 ^ 8) (setF (laneErr j l 49 1) 1 (endRetrain j l s)))
    else ok (sendFlit j (control 7 (l * 2 ^ 8)) s)
  else ok s

/-! ### Codewords and link-layer flits (R429–R436) -/

/-- Errors of lane l are noted, and retire it when those of the last ms reach a threshold (R441). -/
def laneErrors (j l ce : Nat) (ue : Bool) (s : State) : State :=
  let now := nsNow s
  let s := updLink j (fun k => { k with errs := ⟨now, l, ce, ue⟩ :: k.errs.filter fun e => decide (now < e.ns + 1000000) }) s
  let errs := (getLink s j).errs.filter fun e => e.lane == l
  let ct := getF s (fLINK_CTL_CE_THR j)
  let ut := getF s (fLINK_CTL_UE_THR j)
  if (ct ≠ 0 ∧ 1024 * ct < (errs.map (·.ce)).sum) ∨ (ut ≠ 0 ∧ ut ≤ errs.countP (·.ue)) then retireLane j l s else s
/-- A stamp: Meridian time in units of 2⁻¹⁶ ns. -/
def stampNow (s : State) : Nat := s.mer / 2 ^ 16
/-- A flit that is discarded and counted (R431, R440, R468). -/
def flitBad (f : Flit) : Bool :=
  let ty := pBits f 0 8
  f.cls == 7 || f.rsv != 0 || (f.cls == 5 && (ty == 0 || decide (8 < ty))) ||
  (f.cls == 3 && (ty == 0 || decide (4 < ty))) || (f.cls == 4 && (ty == 0 || decide (2 < ty)))
/-- A flit that is kept: no IDLE, no MERIDIAN flit of a replay (R450), no HALO flit on links 8 and 9 (R444). -/
def flitKept (j : Nat) (rpl : Bool) (f : Flit) : Bool :=
  !flitBad f && f.cls != 0 && !(rpl && f.cls == 3) && !(decide (8 ≤ j) && f.cls == 1)
/-- The codeword that was awaited is delivered. -/
def deliverWord (j : Nat) (c : Codeword) (s : State) : State :=
  updLink j (fun k => { k with
    rxNext := (k.rxNext + 1) % 4096, discard := false, rxq := k.rxq ++ c.flits.filter (flitKept j c.rpl) })
    (satF (fLINK_ERR2_FLIT_BAD j) (c.flits.countP flitBad) s)
/-- The codewords that waited for it follow, at most n of them. -/
def deliverAhead (j : Nat) : Nat → State → State
  | 0, s => s
  | n + 1, s =>
    let k := getLink s j
    match k.ahead.find? fun c => c.seq == k.rxNext with
    | some c => deliverAhead j n (deliverWord j c (updLink j (fun k => { k with ahead := k.ahead.erase c }) s))
    | none => s
/-- From the awaited codeword on everything is to be sent again (R434). -/
def nakFrom (j : Nat) (s : State) : State := updLink j (fun k => { k with discard := true, nakDue := true, ahead := [] }) s
/-- A codeword is placed by CWSEQ (R430): one that lies less than a round of the active lanes ahead waits for those before it; one
further ahead shows that the awaited one is lost. While codewords are discarded, only a replay shows that. -/
def placeWord (j : Nat) (c : Codeword) (s : State) : State :=
  let k := getLink s j
  let n := popc 5 (rxAct s j)
  let d := (c.seq + 4096 - k.rxNext) % 4096
  if d = 0 then deliverAhead j n (deliverWord j c s)
  else if 2048 ≤ d then s
  else if k.discard then (if c.rpl ∧ n ≤ d then nakFrom j s else s)
  else if d < n then updLink j (fun k => { k with ahead := c :: k.ahead.filter fun x => x.seq != c.seq }) s
  else nakFrom j s
/-- CODEWORD_RECEIVE (R434): the 5,440 bits of a codeword arrive on a receive lane; it is placed, or discarded and NAKed. -/
def execCodewordReceive (j : Fin 10) (lane : Fin 32) (w : BitVec 5440) (s : State) : Out :=
  let st := linkState s j
  let l := lane.val
  if 4 ≤ st ∧ st ≤ 6 ∧ (rxAct s j).testBit l then
    let (c, past) := laneDecode (stampNow s) (tget 0 (getLink s j).dscr l) w.toNat
    let s := updLink j (fun k => { k with dscr := tset 0 k.dscr l past }) s
    match c with
    | none =>
      let s := satF (laneErr j l 32 16) 1 (satF (fLINK_ERR_CW_UE j) 1 s)
      ok (laneErrors j l 0 true (nakFrom j s))
    | some (c, fixed) =>
      let s := if fixed = 0 then s else satF (laneErr j l 0 32) fixed (satF (fLINK_ERR_CW_CE j) 1 s)
      let s := placeWord j c (updLink j (fun k => { k with peer := if c.lane = l then terase k.peer l else tput k.peer l c.lane }) s)
      ok (if fixed = 0 then s else laneErrors j l fixed false s)
  else ok s

/-- The acknowledged codewords leave the replay buffer (R433). -/
def ackUpTo (a : Nat) (l : List Codeword) : List Codeword := l.filter fun c => decide (0 < (c.seq + 4096 - a) % 4096 ∧ (c.seq + 4096 - a) % 4096 < 2048)
/-- A NAK: every codeword from NAKSEQ on is sent again, and the sixteenth in a row takes the link down (R434). -/
def actNak (j q : Nat) (s : State) : State :=
  let k := getLink s j
  let n := if k.nakSeq = q ∧ k.naks ≠ 0 then k.naks + 1 else 1
  let s := updLink j (fun k => { k with
    nakSeq := q, naks := n, resend := k.unacked.filter fun c => decide ((c.seq + 4096 - q) % 4096 < 2048) }) s
  if 16 ≤ n ∧ linkActive s j then linkDown j 5 s else s
/-- RXREQ: the named lanes leave the transmit set (R441), and retrain with AUTO_RT = 1 (R442). -/
def actRxreq (j m : Nat) (s : State) : State :=
  let out := txAct s j &&& m
  if out = 0 then s
  else
    let s := (lanesIn j out).foldl (fun s l => linkEvent j (3 + l * 2 ^ 8 + 2 ^ 13) s) s
    let left := txAct s j - out
    if tooFew s j left then (if linkActive s j then linkDown j 2 s else setTx j left s)
    else
      let s := announceSet j left s
      if bitF s (fLINK_CTL_AUTO_RT j) then (lanesIn j out).foldl (fun s l => startRetrain j l s) s else s
/-- LL_FLIT (R433): the ACK, NAK, credits and lane sets of the next link-layer flit act, in CWSEQ order. -/
def execLlFlit (j : Fin 10) (s : State) : Out :=
  takeFlit j 6 (fun _ => true) (fun f s =>
    let s := updLink j (fun k =>
      let cred := (List.range 16).foldl (fun t c => tset 0 t c (tget 0 t c + pBits f (6 * c + 32) 6)) k.cred
      let un := ackUpTo (pBits f 0 12) k.unacked
      { k with unacked := un, cred := cred, tqCred := k.tqCred + pBits f 128 7, tsCred := k.tsCred + pBits f 135 7,
               naks := if pBits f 12 1 = 1 then k.naks else 0 }) s
    let s := if pBits f 12 1 = 1 then actNak j (pBits f 13 12) s else s
    let s := if pBits f 220 1 = 1 then
        let set := pBits f 176 32
        let s := updLink j (fun k => { k with rxreq := k.rxreq &&& set }) s
        let k := getLink s j
        setRx j (((lanesIn j (rxAct s j)).filter fun l => set.testBit (peerLane k l)).foldl (fun m l => m + 2 ^ l) 0) s
      else s
    actRxreq j (pBits f 144 32) s) s
/-- LL_SILENCE (R443). -/
def execLlSilence (j : Fin 10) (s : State) : Out := if linkActive s j then ok (linkDown j 4 s) else ok s

/-! ### Parking and waking (R451–R453) -/

/-- PARK_ACK (R451): the drain proceeds to the seal. -/
def execParkAck (j : Fin 10) (s : State) : Out :=
  takeFlit j 5 (isControl 6) (fun _ s =>
    if (getLink s j).parkSent then updLink j (fun l => { l with parked := true }) s else s) s
/-- PARK_ACK_TIMEOUT (R451). -/
def execParkAckTimeout (j : Fin 10) (s : State) : Out :=
  if (getLink s j).parkSent then ok (updLink j (fun l => { l with parked := true }) s) else ok s
/-- WMODE and DET of link j (R461). -/
def fWmode (j : Nat) : Fld := rowFld rowLINK_WAKE 0 0 (2 * j, 2, .rw, 0)
def fDet (j : Nat) : Fld := rowFld rowLINK_WAKE 0 0 (32 + j, 1, .w1c, 0)
/-- A detection of an AON detector (R452, R526). -/
def linkWake (j src : Nat) (s : State) : State :=
  let s := setF (fDet j) 1 s
  if isOff s then { recordOffWake src s with offWake := true } else postWake (linkDomain j) src s
/-- The AON detector of link j watches. -/
def watching (s : State) (j : Nat) : Bool := isOff s || domState s (linkDomain j) != 0
/-- LINK_WAKE_DETECT (R452). -/
def execLinkWakeDetect (j : Fin 10) (s : State) : Out :=
  if getF s (fWmode j) = 1 ∧ watching s j then ok (linkWake j 1 s) else ok s
/-- REVEILLE_DETECT (R453). -/
def execReveilleDetect (j : Fin 10) (s : State) : Out :=
  if getF s (fWmode j) = 2 ∧ watching s j then ok (linkWake j 2 s) else ok s
/-- A write of LINK_WAKE: one that holds 3 in any field is discarded as a whole (R452, R461). -/
def writeLinkWake (v en : Nat) (s : State) : State :=
  if (List.range 10).any (fun j => bits (newVal s rowLINK_WAKE 0 v en) (2 * j) 2 == 3) then s
  else writeRow' rowLINK_WAKE 0 0 v en s
/-- REVEILLE (R453): REVEILLE of LINK_CTL is written. -/
def execReveille (m : BitVec 8) (j : Fin 10) (s : State) : Out :=
  hostCmd m (linkBase j) (writeLinkCtl j (2 ^ 5) (2 ^ 5)) s
/-- REVEILLE_END (R453). -/
def execReveilleEnd (j : Fin 10) (s : State) : Out :=
  if bitF s (fLINK_STAT_REV_BUSY j) then ok (setFs [(fLINK_CTL_REVEILLE j, 0), (fLINK_STAT_REV_BUSY j, 0)] s) else ok s

/-! ### FLEET_ID and LANE_MODE (R427, R445) -/

/-- A write of FLEET_ID, discarded while any link is enabled; the election is held with the new IDX (R463). -/
def writeFleetId (v en : Nat) (s : State) : State :=
  if (List.range 10).any (fun j => bitF s (fLINK_CTL_ENABLE j)) then s
  else elect (children s) (parentLink s) (writeRow' rowFLEET_ID 0 0 v en s)
/-- FLEET_ID_WRITE (R427). -/
def execFleetIdWrite (m : BitVec 8) (v : Word) (s : State) : Out :=
  hostCmd m 0x4F000 (writeFleetId v.toNat allBits) s
/-- A write of LANE_MODE[j]: refused while ENABLE is 1, reserved on links 8 and 9. -/
def writeLaneMode (j v en : Nat) (s : State) : State :=
  if 8 ≤ j then s
  else if bitF s (fLINK_CTL_ENABLE j) then setF (fLINK_STAT_CFG_REJ j) 1 s
  else writeRow' rowLANE_MODE j 0 v en s
/-- LANE_MODE_WRITE (R445). -/
def execLaneModeWrite (m : BitVec 8) (j : Fin 10) (v : Word) (s : State) : Out :=
  hostCmd m (linkBase j + 0x28) (writeLaneMode j v.toNat allBits) s

end Sys2Proof.Machine
end

