-- ==== Sys2Proof/Machine/Meridian.lean ====
section
/-! DEFINITION. The Meridian's election and discipline, watches and fleet barriers (R462–R481). -/
namespace Sys2Proof.Machine
open Sys2Proof

/-! ### Election (R463, R464) -/

/-- A write of MER_CTL. -/
def writeMerCtl (v en : Nat) (s : State) : State :=
  elect (children s) (parentLink s) (writeRow' rowMER_CTL 0 0 v en s)
/-- What is known when link j announces a candidate: each one it has announced is kept until it is forgotten, and PARENT is
that of its latest ANNOUNCE (R463, R464). -/
def learn (j : Nat) (c : Cand) (l : List (Nat × Cand)) : List (Nat × Cand) :=
  ((l.filter fun e => !(e.1 == j && e.2.prio == c.prio && e.2.idx == c.idx)).map fun e =>
    if e.1 = j then (j, { e.2 with child := c.child }) else e) ++ [(j, c)]
/-- ANNOUNCE (R463): a candidate arrives on link j, and is taken with HOPS + 1; above 32 it is discarded. -/
def execAnnounce (j : Fin 10) (s : State) : Out :=
  takeFlit j 3 (isControl 1) (fun f s =>
    let h := pBits f 28 6 + 1
    let none := 32 < h ∨ pBits f 8 8 = 0
    updCands (learn j ⟨if none then 0 else pBits f 8 8, if none then 0 else pBits f 16 12, h, pBits f 34 1 == 1⟩) s) s
/-- ANNOUNCE_TIMER (R463): the best candidate goes out on every ACTIVE link, with PARENT on the parent link. -/
def execAnnounceTimer (s : State) : Out :=
  let (p, i, h) := match bestCand s with | some (p, i, h, _) => (p, i, h) | none => (0, 0, 0)
  ok (((List.range 10).filter (linkActive s)).foldl (fun s j =>
    let par := b2n (parentLink s == some j)
    sendFlit j (mkFlit 3 0 false (1 + p * 2 ^ 8 + i * 2 ^ 16 + h * 2 ^ 28 + par * 2 ^ 34)) s) s)
/-- CANDIDATE_TIMEOUT (R463, R466): link j has not repeated candidate (PRIO, IDX) for 20 µs: it is forgotten. -/
def execCandidateTimeout (j : Fin 10) (prio : BitVec 8) (idx : BitVec 12) (s : State) : Out :=
  let it (c : Cand) : Bool := c.prio == prio.toNat && c.idx == idx.toNat
  if s.cands.any fun e => e.1 == j.val && it e.2 then
    let kids := children s
    let par := parentLink s
    let was : Bool := match bestCand s with | some (p, i, _, _) => p == prio.toNat && i == idx.toNat | none => false
    let s := { s with cands := s.cands.filter fun e => !(e.1 == j.val && it e.2) }
    let s := if was ∧ merState s = 2 ∧ ¬ s.cands.any (fun e => it e.2) then setMerState 3 s else s
    ok (elect kids par s)
  else ok s

/-! ### Discipline (R465, R466) -/

/-- A MERIDIAN flit of a TYPE with a stamp. -/
def stampFlit (ty t : Nat) : Flit := mkFlit 3 0 false (ty + (t / 2 ^ 16) % 2 ^ 64 * 2 ^ 8 + t % 2 ^ 16 * 2 ^ 72)
def stampOf (f : Flit) : Nat := pBits f 8 64 * 2 ^ 16 + pBits f 72 16
/-- SYNC_INTERVAL (R465): the package sends SYNC to its children and, when it is not MASTER, starts an exchange. The stamps
of SYNC and DELAY_REQ are put in when their codeword starts. -/
def execSyncInterval (s : State) : Out :=
  let s := (children s).foldl (fun s j => sendFlit j (stampFlit 2 0) s) s
  if merState s = 4 ∨ (parentLink s).isNone then ok { s with exch := none } else ok { s with exch := some ⟨none, 0, 0⟩ }
/-- SYNC (R465): t1 arrives from the parent, and t2 was stamped on receipt; DELAY_REQ follows. -/
def execSync (j : Fin 10) (s : State) : Out :=
  takeFlit j 3 (isControl 2) (fun f s =>
    match s.exch with
    | some ⟨none, _, _⟩ =>
      if parentLink s = some j.val then sendFlit j (stampFlit 3 0) { s with exch := some ⟨some (stampOf f), f.rx, 0⟩ } else s
    | _ => s) s
/-- DELAY_REQ (R465): the parent stamped t4 on its receipt and returns it in DELAY_RESP. -/
def execDelayReq (j : Fin 10) (s : State) : Out :=
  takeFlit j 3 (isControl 3) (fun f s => sendFlit j (stampFlit 4 f.rx) s) s

/-- Shift a time by a step. -/
def shiftTime (d : Int) (t : Nat) : Nat := ((t : Int) + d).toNat
/-- The counter steps, and the scheduled times of every enabled watch with it, of a fleet watch also the release of its
barrier (R466). `th` is 2θ in units of 2⁻¹⁶ ns. -/
def stepMeridian (th : Int) (s : State) : State :=
  let old := merNs s
  let s := { s with mer := ((s.mer : Int) - th * 2 ^ 15).toNat }
  let d : Int := (merNs s : Int) - old
  ((List.range 72).filter fun w => bitF s (fWATCH_CFG_ENABLE w)).foldl (fun s w =>
    let x := tget Watch.reset s.watches w
    let x := { x with start := shiftTime d x.start, b := shiftTime d x.b, doneAt := x.doneAt.map (shiftTime d) }
    let s := setF (fWATCH_NEXT_END w) (shiftTime d (getF s (fWATCH_NEXT_END w)))
      { s with watches := tset Watch.reset s.watches w x }
    if 64 ≤ w then updBar (w - 56) (fun y => { y with release := y.release.map (shiftTime d) }) s else s) s
/-- The rate is trimmed within ±200 ppm (R462, R466). -/
def trimRate (s : State) : State :=
  let (d, s) := draw s
  { s with merInc := 2 ^ 31 - 429496 + Config.merTrim d % 858993 }
/-- θ in ps, saturated, as OFFSET shows it (R478). -/
def offsetPs (th : Int) : Nat :=
  let p := th * 1000 / 2 ^ 17
  (BitVec.ofInt 32 (max (-(2 ^ 31)) (min (2 ^ 31 - 1) p))).toNat
/-- The action on an offset θ (R466). `th` is 2θ in units of 2⁻¹⁶ ns. -/
def actTheta (th : Int) (s : State) : State :=
  let s := setF fMER_STAT_OFFSET (offsetPs th) s
  let far := decide (2 * 1000 * 2 ^ 16 < th.natAbs)
  let near := decide (th.natAbs < 2 * 2 * 2 ^ 16)
  match merState s with
  | 1 =>
    let s := if far then stepMeridian th s else trimRate s
    let s := { s with locks := if near then s.locks + 1 else 0 }
    if 16 ≤ s.locks then setMerState 2 s else s
  | 2 => let s := trimRate s; if far then setMerState 1 s else s
  | _ => s
/-- DELAY_RESP (R465, R466): t4 arrives and the exchange ends. -/
def execDelayResp (j : Fin 10) (s : State) : Out :=
  takeFlit j 3 (isControl 4) (fun f s =>
    match s.exch with
    | some ⟨some t1, t2, t3⟩ =>
      if parentLink s = some j.val then
        actTheta (((t2 : Int) - t1) - ((stampOf f : Int) - t3)) { s with exch := none }
      else s
    | _ => s) s

/-! ### Watches (R469–R475) -/

/-- A WATCH event of a watch: to the PF, and to the function that owns a sequencer watch (R475). -/
def watchEvent (w data : Nat) (s : State) : State :=
  let s := postEvent 0 5 w data s
  if w < 64 then
    match ownerOf s w with
    | some f => if f = 0 then s else postEvent f 5 w data s
    | none => s
  else s
/-- The period that follows a bell (R472). -/
def nextPeriod (s : State) (w lag : Nat) : Nat :=
  let p := getF s (fWATCH_CFG_PERIOD w)
  let s64 := getF s (fWATCH_CFG_SHORTEN w)
  max (p - p * s64 / 64) (p - lag)
/-- LAG and the lost watch at a bell (R472, R473). -/
def noteLag (w lag : Nat) (s : State) : State :=
  let p := getF s (fWATCH_CFG_PERIOD w)
  let sat := min lag (2 ^ 32 - 1)
  let s := setF (fWATCH_STAT_LAG w) sat s
  let s := if 16 * p < lag ∧ ¬ bitF s (fWATCH_STAT_LOSTNOW w) then
      watchEvent w (1 + sat * 2 ^ 32) (setFs [(fWATCH_STAT_LOST w, 1), (fWATCH_STAT_LOSTNOW w, 1)] s) else s
  if lag = 0 then setF (fWATCH_STAT_LOSTNOW w) 0 s else s
/-- The bell of watch w rings at time b: the next period is chosen. Without DONE_REQ the work of a sequencer watch is done
at the bell (R471). -/
def ringAt (w b : Nat) (s : State) : State :=
  let x := tget Watch.reset s.watches w
  let k := if x.begun then x.k + 1 else 0
  let lag := b - (x.start + k * getF s (fWATCH_CFG_PERIOD w))
  let d := if w < 64 then 1 - getF s (fWATCH_MODE_DONE_REQ w) else 0
  let s := setF (fWATCH_STAT_DONE w) d (incF (fWATCH_STAT_BELLS w) 1 s)
  let s := noteLag w lag (updWatch w (fun x => { x with k := k, b := b, lag := lag, begun := true, doneAt := none }) s)
  setF (fWATCH_NEXT_END w) (b + nextPeriod s w lag) s
/-- The logic of a quad runs: it is in Run, and no Dusk has sealed it. -/
def quadRuns (s : State) (d : Nat) : Bool :=
  domRun s d && (match (getDom s d).trans with | some t => decide (t.phase ≤ 2) && !t.reset | none => true)
/-- The interrupt of a bell in sequencer n, or the wake of its quad (R475). -/
def bellIrq (n : Nat) (s : State) : State :=
  let d := quadDom n
  if quadRuns s d then raiseIrq n 17 s
  else postWake d 6 (updWatch n (fun x => { x with bell := true }) s)
/-- A follower rings with its fleet watch (R474): its own period is ignored. -/
def ringFollower (w n : Nat) (s : State) : State :=
  let s := setF (fWATCH_STAT_DONE n) (1 - getF s (fWATCH_MODE_DONE_REQ n)) (incF (fWATCH_STAT_BELLS n) 1 s)
  let s := updWatch n (fun x => { x with begun := true, doneAt := none, b := (getWatch s w).b }) s
  bellIrq n (setF (fWATCH_NEXT_END n) (getF s (fWATCH_NEXT_END w)) s)
/-- A bell of fleet watch w rings in this package, and its followers ring with it. -/
def fleetBell (w b : Nat) (s : State) : State :=
  let s := ringAt w b s
  fleetDone w ((followers s w).foldl (fun s n => ringFollower w n s) s)
/-- The time of the bell that is due, if one is: the scheduled end has passed and the work is done (R472). -/
def bellDue (s : State) (w : Nat) : Option Nat :=
  let x := getWatch s w
  let e := getF s (fWATCH_NEXT_END w)
  if ¬ bitF s (fWATCH_CFG_ENABLE w) ∨ merNs s < (if x.begun then e else x.start) then none
  else if ¬ x.begun then some x.start
  else if 64 ≤ w then none
  else if ¬ bitF s (fWATCH_MODE_DONE_REQ w) then some e
  else x.doneAt.map fun t => max e t
/-- WATCH_BELL (R472, R474): a follower rings only with its fleet watch, and a fleet watch after its first bell only at
its barrier's release. -/
def execWatchBell (w : Fin 72) (s : State) : Out :=
  match bellDue s w with
  | some b =>
    if 64 ≤ w.val then ok (fleetBell w b s)
    else if bitF s (fWATCH_MODE_FOLLOW_EN w) then ok s
    else ok (bellIrq w (ringAt w b s))
  | none => ok s
/-- A write of W_DONE by sequencer n (R471). A follower's periods are those of its fleet watch (R474). -/
def wDone (n : Nat) (s : State) : State :=
  let w := if bitF s (fWATCH_MODE_FOLLOW_EN n) then 64 + getF s (fWATCH_MODE_FOLLOW n) else n
  if ¬ bitF s (fWATCH_CFG_ENABLE n) then s
  else if bitF s (fWATCH_STAT_DONE n) ∨ ¬ bitF s (fWATCH_CFG_ENABLE w) ∨ ¬ (getWatch s w).begun then
    setF (fWATCH_STAT_EXTRA n) 1 s
  else
    let s := setF (fWATCH_STAT_DONE n) 1 (updWatch n (fun x => { x with doneAt := some (merNs s) }) s)
    if bitF s (fWATCH_MODE_FOLLOW_EN n) then fleetDone (64 + getF s (fWATCH_MODE_FOLLOW n)) s else s
/-- W_DONE (R471): the image of a running core reports its work done. -/
def execWDone (n : Fin 64) (s : State) : Out := if coreHalted s n then ok s else ok (wDone n s)
/-- A write of WATCH_MODE[w] (R474, R480). -/
def writeWatchMode (w v en : Nat) (s : State) : State :=
  if 64 ≤ w ∨ bitF s (fWATCH_CFG_ENABLE w) then s else writeRow' rowWATCH_MODE w 0 v en s
/-- WATCH_MODE_WRITE (R474). -/
def execWatchModeWrite (m : BitVec 8) (w : Fin 72) (v : Word) (s : State) : Out :=
  hostCmd m (0x45008 + 32 * w) (writeWatchMode w v.toNat allBits) s
/-- The check of R342 and R469 that a WATCH_SET fails, 0 when none. -/
def watchCheck (s : State) (j : Job) : Nat :=
  let w := dBits j 1 0 7
  let en := dBits j 1 8 1 = 1
  if 72 ≤ w then 1
  else if 32 < dBits j 3 0 6 then 2
  else if en ∧ dBits j 4 0 64 ≤ merNs s then 3
  else if en ∧ dBits j 2 0 32 < 1000 then 4
  else if en ∧ 64 ≤ w ∧ merState s ≠ 2 ∧ merState s ≠ 4 then 5
  else 0
/-- Watch w starts with a new schedule (R469); WATCH_NEXT shows START + P at once (R472). A bell that waits for its quad
still rings, and a W_DONE of the same ns counts for the new schedule, whose first bell has not rung (R471). -/
def startWatch (w period shorten start : Nat) (s : State) : State :=
  let x := getWatch s w
  let same := x.doneAt = some (merNs s) ∧ bitF s (fWATCH_MODE_DONE_REQ w) ∧ w < 64
  let s := updWatch w (fun x => { Watch.reset with start := start, bell := x.bell }) s
  let s := setFs [(fWATCH_CFG_PERIOD w, period), (fWATCH_CFG_SHORTEN w, shorten), (fWATCH_CFG_ENABLE w, 1), (fWATCH_STAT_LAG w, 0),
    (fWATCH_STAT_LOSTNOW w, 0), (fWATCH_STAT_DONE w, 0), (fWATCH_NEXT_END w, start + period)] s
  if same then setF (fWATCH_STAT_EXTRA w) 1 s else s
/-- WATCH_SET with ENABLE = 0: a bell that waits for its quad has rung and still interrupts. -/
def endWatch (w : Nat) (s : State) : State :=
  let bell := (getWatch s w).bell
  updWatch w (fun x => { x with bell := bell }) (stopWatch w s)
/-- WATCH_SET (R469). -/
def execWatchSet (r : Fin 8192) (s : State) : Out :=
  startOp r 9 (fun j s =>
    let w := dBits j 1 0 7
    let k := watchCheck s j
    if k ≠ 0 then badParam k j s
    else if dBits j 1 8 1 = 1 then completeJob j.id 0 0 (startWatch w (dBits j 2 0 32) (dBits j 3 0 6) (dBits j 4 0 64) s)
    else completeJob j.id 0 0 (endWatch w s)) s

/-! ### Fleet barriers (R476, R477) -/

/-- BARRIER (R476): the descriptor arrives, or joins the arrival of its package. -/
def execBarrier (r : Fin 8192) (s : State) : Out :=
  startOp r 0xE (fun j s =>
    if 8 ≤ dBits j 1 0 4 then badParam 1 j s else arriveAt (dBits j 1 0 4) (updJob j.id (fun j => { j with pos := nsNow s }) (runJob j 0 s))) s
/-- ARRIVE (R476, R477): the ARRIVE of a child, for this generation or already for the next. A new child that arrives late,
at a generation the package has released or completed, is sent its RELEASE. -/
def execArrive (j : Fin 10) (s : State) : Out :=
  takeFlit j 4 (isControl 1) (fun f s =>
    let b := pBits f 8 4
    let g := getF s (fBAR_STAT_GEN b)
    if pBits f 12 8 = g then
      let s := updBar b (fun x => { x with kids := uniq (x.kids ++ [j.val]) }) s
      match (getBar s b).release with
      | some t => sendFlit j (releaseFlit b g t) s
      | none => barrierUp b s
    else if pBits f 12 8 = (g + 255) % 256 then
      match (getBar s b).last with
      | some t => sendFlit j (releaseFlit b ((g + 255) % 256) t) s
      | none => s
    else if pBits f 12 8 = (g + 1) % 256 then updBar b (fun x => { x with early := uniq (x.early ++ [j.val]) }) s
    else s) s
/-- RELEASE (R476, R477): it is forwarded and kept, or discarded and counted. -/
def execRelease (j : Fin 10) (s : State) : Out :=
  takeFlit j 4 (isControl 2) (fun f s =>
    let b := pBits f 8 4
    let t := pBits f 20 64
    if pBits f 12 8 ≠ getF s (fBAR_STAT_GEN b) then satF (fBAR_STAT_BAD b) 1 s
    else if (getBar s b).release.isSome then s
    else releaseDown b t (updBar b (fun x => { x with late := decide (t < merNs s) }) s)) s
/-- The BARRIER descriptors of a barrier complete together. -/
def completeBarrier (b : Nat) (s : State) : State :=
  let ids := (s.jobs.filter fun j => j.op == 0xE && j.phase == .running && dBits j 1 0 4 == b).map (·.id)
  ids.foldl (fun s i => completeJob i 0 0 s) s
/-- BARRIER_COMPLETE (R474, R476): T_r is reached, and the generation completes and advances. A fleet watch whose schedule
was replaced meanwhile does not ring: its first bell is at START (R469). -/
def execBarrierComplete (b : Fin 16) (s : State) : Out :=
  let x := getBar s b
  match x.release with
  | some t =>
    if t ≤ merNs s then
      let s := if x.late then satF (fBAR_STAT_LATE b) 1 s else s
      let s := setF (fBAR_STAT_ARRIVED b) 0 (incF (fBAR_STAT_GEN b) 1 s)
      let s := updBar b (fun _ => { Barrier.reset with kids := x.early, last := some t }) s
      if 8 ≤ b.val then
        let w := 56 + b.val
        if bitF s (fWATCH_CFG_ENABLE w) ∧ (getWatch s w).begun ∧ bitF s (fWATCH_STAT_DONE w) then ok (fleetBell w t s) else ok s
      else ok (completeBarrier b s)
    else ok s
  | none => ok s
/-- The end of the TIMEOUT of a BARRIER that runs, in ns of the part's time. -/
def barrierEnd (j : Job) : Nat := j.pos + dBits j 2 0 64
/-- BARRIER_TIMEOUT (R476): of the BARRIERs of ring r whose TIMEOUT has passed the first to end ends; the arrival stands. -/
def execBarrierTimeout (r : Fin 8192) (s : State) : Out :=
  let due := s.jobs.filter fun j => j.ring == r.val && j.op == 0xE && j.phase == .running && dBits j 2 0 64 != 0 &&
    decide (barrierEnd j ≤ nsNow s)
  match due.find? (fun j => due.all fun k => decide (barrierEnd j ≤ barrierEnd k)) with
  | some j => ok (completeJob j.id 7 0 s)
  | none => ok s

end Sys2Proof.Machine
end

