-- ==== Sys2Proof/Machine/Fabric.lean ====
section
/-! DEFINITION. The boundary fabric at work: coves, the strip bus, block ports, the edge ports, pads, regional clocks,
capture and readback, link channels and lanes (R483–R500, R507, R508, R545). -/
namespace Sys2Proof.Machine
open Sys2Proof

/-! ### Cove frames (R486, R501) -/

def coveFrame (s : State) (g c : Nat) : Option Nat := (tlook (getStrip s g).coves c).map (·.toNat)
def cvTable (f i : Nat) : Nat := bits f (16 * i) 16
def cvInit (f : Nat) : Nat := bits f 1024 64
def cvByp (f i : Nat) : Bool := f.testBit (1088 + i)
def cvGmode (f q : Nat) : Nat := bits f (1152 + 2 * q) 2
def cvTree (f : Nat) : Nat := bits f 1188 2
def cvPad (f : Nat) : Nat := bits f 5888 2
/-- The select of output k (R486). -/
def cvSel (f k : Nat) : Nat := bits f (1280 + 9 * k) 9
/-- A 64:1 multiplexer: its four groups are all in GMODE 2. -/
def cvM64 (f j : Nat) : Bool := f.testBit (1184 + j) && (List.range 4).all fun q => cvGmode f (4 * j + q) == 2
/-- The hard sources and sinks that cove c has (R489). -/
def hasSource (c h : Nat) : Bool :=
  decide (h < 2) || (decide (h < 4) && c % 64 == 0) || h == 4 || ((h == 5 || h == 6) && c % 32 == 19) || decide (7 ≤ h)
def hasSink (c k : Nat) : Bool :=
  decide (k < 2) || (k == 2 && c % 64 == 0) || ((k == 3 || k == 4) && c % 32 == 19) || (k == 5 && c % 4 == 0) ||
  (k == 6 && c % 4 == 1) || decide (8 ≤ k)

/-! ### One cove (R483, R485, R487) -/

/-- What the multiplexers of a cove see: LUT and combined outputs, flip-flops, tracks and hard sources. -/
structure CoveIn where
  luts : Nat
  ff : Nat
  trk : Nat
  hard : Nat
  deriving DecidableEq, Repr

/-- A multiplexer with a select code (R485); what is reserved drives 0. -/
def srcBit (v : CoveIn) (code : Nat) : Bool :=
  if code < 64 then v.luts.testBit code
  else if code < 128 then v.ff.testBit (code - 64)
  else if code < 256 then v.trk.testBit (code - 128)
  else if code < 320 then v.hard.testBit (code - 256)
  else code == 321
/-- Inputs in0 to in3 of cell i as an index, and X. -/
def cellIn (f : Nat) (v : CoveIn) (i : Nat) : Nat :=
  ((List.range 4).map fun b => b2n (srcBit v (cvSel f (5 * i + b))) * 2 ^ b).sum
def cellX (f : Nat) (v : CoveIn) (i : Nat) : Bool := srcBit v (cvSel f (5 * i + 4))
/-- The four X of the cells from i on as a number. -/
def fourX (f : Nat) (v : CoveIn) (i : Nat) : Nat := ((List.range 4).map fun a => b2n (cellX f v (i + a)) * 2 ^ a).sum
/-- The 16:1 multiplexer of the group of cell i under a select (R483). -/
def mux16 (f : Nat) (v : CoveIn) (i sel : Nat) : Bool := (cellIn f v (i + sel / 4)).testBit (sel % 4)
/-- The output of cell i (R483). -/
def cellOut (f : Nat) (v : CoveIn) (i : Nat) : Bool :=
  let q := i / 4
  match cvGmode f q with
  | 0 => (cvTable f i).testBit (cellIn f v i)
  | 1 =>
    let p := i - i % 2
    let x := cellIn f v p
    if i % 2 = 0 ∧ ¬ cellX f v p then (cvTable f p).testBit x else (cvTable f (p + 1)).testBit x
  | 2 =>
    if i % 4 ≠ 0 then false
    else
      let j := i / 16
      if cvM64 f j then
        let sel := fourX f v (16 * j)
        if i % 16 = 0 then
          mux16 f v (16 * j + 4 * (b2n (cellX f v (16 * j + 4)) + 2 * b2n (cellX f v (16 * j + 5)))) sel
        else mux16 f v i sel
      else mux16 f v i (fourX f v i)
  | _ => false
/-- The LUT outputs settle: no path is deeper than 7 levels (R503). -/
def settleCove (f : Nat) : Nat → CoveIn → CoveIn
  | 0, v => v
  | n + 1, v => settleCove f n { v with luts := ((List.range 64).map fun i => b2n (cellOut f v i) * 2 ^ i).sum }

/-! ### What a cove sees (R487, R489, R494) -/

/-- The release stage of what runs on tree t in reach r (R504, R505): 0 or 1 loading, 2 outputs enabled, 3 block writes
enabled, 4 released. -/
def treeStage (s : State) (g r t : Nat) : Nat :=
  match tlook (getStrip s g).rel r with
  | some k => if k < 2 then k else max k (tget 2 (getStrip s g).relTree t)
  | none => if (getF s (fFAB_STAT_LOADED g)).testBit r then 4 else 0
/-- The release stage of cove c, and of block k, which counts on its ATREE. -/
def stageOf (s : State) (g c : Nat) : Nat := treeStage s g (c / 16) (match coveFrame s g c with | some f => cvTree f | none => 0)
def blkStage (s : State) (g k : Nat) : Nat := treeStage s g (k / 2) (bfTreeA (blkFrame s g k))
/-- The track registers a cove sees: up tracks from the cove below, down tracks from the cove above. -/
def trackView (x : Strip) (c : Nat) : Nat :=
  let up := if c = 0 then 0 else (tget 0 x.tracks (c - 1)).toNat % 2 ^ 64
  let dn := (tget 0 x.tracks (c + 1)).toNat / 2 ^ 64
  up + dn * 2 ^ 64
/-- The synchroniser depth of tree t (R31). -/
def treeN (s : State) (g t : Nat) : Nat :=
  if getF s (fFAB_CLK_SRC g t) ≤ 1 ∧ getF s (fFAB_CLK_DIV g t) = 0 then 3 else 2
/-- What the synchronisers into tree t show. `late`: this edge meets the longer crossing. -/
def syncView (s : State) (g t : Nat) (late : Bool) : BitVec 9 :=
  (tget [] (getStrip s g).hist t).getD (treeN s g t - 1 + b2n late) 0x100
/-- Flags, UE and data out of a port, as source 7 and sources 8 to 63 of its four coves (R489). -/
def portSources (s : State) (g k : Nat) (portB : Bool) (n : Nat) : Nat :=
  let f := blkFrame s g k
  let b := getBlk s g k
  let d := widthD (bfWidth f)
  let flag := fun (x : Bool) => b2n x * 2 ^ 7
  if bfMode f = 0 then (if portB then 0 else bits (Config.blkIdle s.fresh % 2 ^ (unitBits f * unitsOf (bfWidth f))) (56 * n) 56 * 2 ^ 8)
  else if isRam f then
    let v := if portB then b.outB else b.outA
    (if n = 2 then flag (if portB then b.ueB else b.ueA) else 0) + bits v (56 * n) 56 * 2 ^ 8
  else
    let held := blkHeld b
    let fl := if portB then
        (match n with
          | 0 => b.vis == 0 | 1 => decide (b.vis ≤ bfAe f) | 2 => b.ueB | _ => b.vis == d)
      else
        (match n with
          | 0 => held == d | 1 => decide (d ≤ held + bfAf f) | 2 => b.ueA | _ => held == 0)
    let v := if portB ∧ 0 < b.vis then (readEntry g k b.head s).1
      else Config.blkIdle s.fresh % 2 ^ (unitBits f * unitsOf (bfWidth f))
    flag fl + bits v (56 * n) 56 * 2 ^ 8
/-- The hard sources of cove c (R489). -/
def hardView (s : State) (g c t : Nat) (pins : BitVec 8) (ph : BitVec 65) : Nat :=
  let x := getStrip s g
  let m := c / 64
  let sy := syncView s g t (ph.getLsbD 64)
  let edge := if segUsable s (4 * g + m) then
      bits (tget 0 x.edgeReg m).toNat (2 * (c % 64)) 2 +
        (if c % 64 = 0 then b2n (x.stb.getLsbD m) * 4 + b2n (x.tk.getLsbD m) * 8 else 0)
    else 0
  let pin := if c % 32 = 19 then b2n (pins.getLsbD (c / 32)) * 2 ^ 5 + b2n (sy.getLsbD (c / 32)) * 2 ^ 6 else 0
  edge + b2n (sy.getLsbD 8) * 2 ^ 4 + pin + portSources s g (c / 8) (decide (4 ≤ c % 8)) (c % 4)

/-- A cove whose outputs are enabled, settled: its frame and what its multiplexers see. -/
def coveView (s : State) (g c : Nat) (pins : BitVec 8) (ph : BitVec 65) : Option (Nat × CoveIn) :=
  if stageOf s g c < 2 then none
  else (coveFrame s g c).map fun f =>
    let x := getStrip s g
    let v : CoveIn := ⟨0, (tget 0 x.ffs c).toNat, trackView x c, hardView s g c (cvTree f) pins ph⟩
    (f, settleCove f 8 v)
/-- The coves of some trees, settled. -/
def coveViews (s : State) (g : Nat) (on : Nat → Bool) (pins : BitVec 8) (ph : BitVec 65) : Tbl (Nat × CoveIn) :=
  (List.range 256).filterMap fun c =>
    match coveFrame s g c with
    | some f => if on (cvTree f) then (coveView s g c pins ph).map fun v => (c, v) else none
    | none => none
/-- Hard sink k of cove c; 0 where the cove drives nothing. -/
def sinkBit (vs : Tbl (Nat × CoveIn)) (c k : Nat) : Bool :=
  match tlook vs c with
  | some (f, v) => srcBit v (cvSel f (448 + k))
  | none => false
/-- Bits of the sinks from index lo. -/
def sinkBits (vs : Tbl (Nat × CoveIn)) (c lo n : Nat) : Nat :=
  ((List.range n).map fun i => b2n (sinkBit vs c (lo + i)) * 2 ^ i).sum

/-! ### An edge of trees (R483, R487, R491, R492, R494) -/

/-- Flip-flops and track registers of the settled coves capture; flip-flops of a reach not fully released stay at INIT. -/
def captureCoves (g : Nat) (vs : Tbl (Nat × CoveIn)) (s : State) : State :=
  let x0 := getStrip s g
  let x := vs.foldl (fun x (c, f, v) =>
    let ff := ((List.range 64).map fun i => b2n (if cvByp f i then cellX f v i else v.luts.testBit i) * 2 ^ i).sum
    let tr := ((List.range 128).map fun t =>
      let k := cvSel f (320 + t)
      b2n (if k = 322 then v.trk.testBit t else srcBit v k) * 2 ^ t).sum
    let tr := (if c = 255 then tr / 2 ^ 64 * 2 ^ 64 else tr) % (if c = 0 then 2 ^ 64 else 2 ^ 128)
    { x with ffs := (if stageOf s g c = 4 then tset 0 x.ffs c (BitVec.ofNat 64 ff) else x.ffs),
             tracks := tset 0 x.tracks c (BitVec.ofNat 128 tr) }) x0
  updStrip g (fun _ => x) s

/-- What the sinks of a port ask: WE, EN, ADDR and the data in. -/
structure PortIn where
  we : Bool
  en : Bool
  addr : Nat
  data : Nat
  deriving DecidableEq, Repr
/-- The sinks of the port whose base cove is b. The model takes ADDR modulo the number of entries. -/
def portIn (s : State) (g : Nat) (vs : Tbl (Nat × CoveIn)) (k b : Nat) : PortIn :=
  let f := blkFrame s g k
  let n := if isRam f then 2 else 4
  { we := sinkBit vs b 5 && decide (3 ≤ blkStage s g k), en := sinkBit vs (b + 1) 6,
    addr := (if isRam f then sinkBits vs (b + 2) 8 12 else 0) % widthD (bfWidth f),
    data := ((List.range n).map fun i => sinkBits vs (b + i) 8 56 * 2 ^ (56 * i)).sum }
/-- A RAM port reads (R491, R493). -/
def ramRead (g k : Nat) (portB : Bool) (p : PortIn) (s : State) : State :=
  if p.en then
    let (v, r, s) := readEntry g k p.addr s
    let s := noteEntry g k p.addr r s
    updBlk g k (fun b => if portB then { b with outB := v, ueB := r == 2 } else { b with outA := v, ueA := r == 2 }) s
  else updBlk g k (fun b => if portB then { b with ueB := false } else { b with ueA := false }) s
def ramWrite (g k : Nat) (p : PortIn) (s : State) : State := if p.we then writeEntry g k p.addr p.data s else s
/-- The ports of a RAM block whose trees have an edge. In dual-clock RAM `order` says which of two coinciding edges acts
first. -/
def ramEdge (g k : Nat) (a b : Option PortIn) (order : Bool) (s : State) : State :=
  match a, b with
  | some a, some b =>
    if bfMode (blkFrame s g k) = 1 then
      ramWrite g k a (ramWrite g k b (ramRead g k true b (ramRead g k false a s)))
    else if order then ramWrite g k b (ramRead g k true b (ramWrite g k a (ramRead g k false a s)))
    else ramWrite g k a (ramRead g k false a (ramWrite g k b (ramRead g k true b s)))
  | some a, none => ramWrite g k a (ramRead g k false a s)
  | none, some b => ramWrite g k b (ramRead g k true b s)
  | none, none => s
/-- The user ports of a queue whose trees have an edge (R492). -/
def queueEdge (g k : Nat) (a b : Option PortIn) (lateA lateB : Bool) (s : State) : State :=
  let f := blkFrame s g k
  let full := blkFull s g k
  let nf := (getBlk s g k).freed.length
  let pop := match b with | some p => p.en | none => false
  let push := match a with | some p => p.we | none => false
  let data := match a with | some p => p.data | none => 0
  let both := bfMode f == 3 && push && pop && full
  -- the reader's edge
  let s := if b.isSome then
      let s := updBlk g k (fun x => { x with ueB := false }) s
      if pop then (popBlk g k s).2 else s
    else s
  -- the writer's edge
  let s := if push then
      if both then storeTail g k data s
      else if full then setF (fFAB_BLK_OVF g k) 1 s
      else storeTail g k data s
    else s
  let s := if b.isSome ∧ crossB f then updBlk g k (fun x =>
      let old := if push then x.ages.dropLast else x.ages
      let ages := old.map (· + 1) ++ (if push then x.ages.drop old.length else [])
      { x with ages := ages, vis := max x.vis (ripe ages (treeN s g (bfTreeB f)) lateB) }) s else s
  if a.isSome ∧ crossA f then updBlk g k (fun x =>
      let fr := (x.freed.take nf).map (· + 1) ++ x.freed.drop nf
      { x with freed := fr.drop (ripe fr (treeN s g (bfTreeA f)) lateA) }) s else s
/-- A block at an edge of the trees that `on` names. -/
def blockEdge (g k : Nat) (vs : Tbl (Nat × CoveIn)) (on : Nat → Bool) (ph : BitVec 65) (s : State) : State :=
  let f := blkFrame s g k
  let r := blkStage s g k
  if bfMode f = 0 ∨ r < 2 then s
  else
    let a := if userA f ∧ on (bfTreeA f) then some (portIn s g vs k (8 * k)) else none
    let b := if userB f ∧ on (bfTreeB f) then some (portIn s g vs k (8 * k + 4)) else none
    if isRam f then ramEdge g k a b (ph.getLsbD k) s
    else queueEdge g k a b (ph.getLsbD (32 + k)) (ph.getLsbD k) s

/-- A tree follows the array clock undivided, as R499 asks of coves that use the edge port. -/
def arrayTree (s : State) (g t : Nat) : Bool := getF s (fFAB_CLK_SRC g t) == 0 && getF s (fFAB_CLK_DIV g t) == 0
/-- The edge ports at the end of an ac (R494): EDGE_IN loads from sinks 0 and 1, sink 2 acknowledges, and the registers
of sources 0 to 3 load. -/
def edgeClock (g : Nat) (vs : Tbl (Nat × CoveIn)) (on : Nat → Bool) (s : State) : State :=
  let s := (List.range 4).foldl (fun s m =>
    let seg := 4 * g + m
    let v := vs.foldl (fun v (c, f, w) =>
      if c / 64 = m then
        let p := 2 * (c % 64)
        v - v / 2 ^ p % 4 * 2 ^ p + (b2n (srcBit w (cvSel f 448)) + 2 * b2n (srcBit w (cvSel f 449))) * 2 ^ p
      else v) (tget 0 s.edgeIn seg).toNat
    let s := { s with edgeIn := tset 0 s.edgeIn seg (BitVec.ofNat 128 v) }
    if sinkBit vs (64 * m) 2 ∧ segUsable s seg then haloAck seg s else s) s
  if (List.range 4).any (fun t => on t && arrayTree s g t) then
    let segs := (List.range 4).map (4 * g + ·)
    let s := updStrip g (fun x => { x with
      edgeReg := (List.range 4).foldl (fun t m => match tlook s.edgeOut (4 * g + m) with
        | some b => tset 0 t m b
        | none => t) x.edgeReg,
      stb := BitVec.ofNat 4 ((List.range 4).map fun m => b2n (tlook s.edgeOut (4 * g + m)).isSome * 2 ^ m).sum,
      tk := BitVec.ofNat 4 ((List.range 4).map fun m => b2n (tget false s.inTake (4 * g + m)) * 2 ^ m).sum }) s
    { s with edgeOut := segs.foldl terase s.edgeOut, inTake := segs.foldl terase s.inTake }
  else s
/-- The pads of the settled coves (R496). -/
def drivePads (g : Nat) (vs : Tbl (Nat × CoveIn)) (s : State) : State :=
  (List.range 8).foldl (fun s i =>
    match tlook vs (32 * i + 19) with
    | some (f, v) => updStrip g (fun x => { x with
        pads := tset 0 x.pads i (b2n (srcBit v (cvSel f 451)) + 2 * b2n (srcBit v (cvSel f 452))) }) s
    | none => s) s
/-- The outputs of domain d are clamped: it is in Sleep or Deep, or a Dusk to either is past its seal (R529). -/
def clamped (s : State) (d : Nat) : Bool :=
  decide (2 ≤ domState s d) || (match (getDom s d).trans with | some t => t.phase == 3 && decide (2 ≤ t.dst) | none => false)
/-- The pad of pin i: its OUT and OE, and its pull; high impedance without pull while its reach is not enabled or its
domain is clamped (R496, R504, R529). -/
def padOf (s : State) (g i : Nat) : Nat × Nat :=
  let c := 32 * i + 19
  if ¬ clamped s (20 + g) ∧ 2 ≤ stageOf s g c then
    (tget 0 (getStrip s g).pads i, match coveFrame s g c with | some f => cvPad f | none => 0)
  else (0, 0)
/-- Flips of stored units. -/
def upsetBlks (g : Nat) (ups : List BlkUpset) (s : State) : State :=
  ups.foldl (fun s u =>
    let f := blkFrame s g u.k
    if bfMode f ≠ 0 ∧ u.unit.val < unitCount f then
      let dm : BitVec 72 := if bfEcc f then u.mask &&& BitVec.ofNat 72 (2 ^ unitBits f - 1)
        else u.mask &&& BitVec.ofNat 72 (2 ^ min 72 (unitBits f) - 1)
      updBlk g u.k (fun b => { b with
        mem := tset 0 b.mem u.unit (tget 0 b.mem u.unit ^^^ dm),
        err := if bfEcc f then tset 0 b.err u.unit (tget 0 b.err u.unit ^^^ (dm ||| (u.mask &&& ~~~0xFFFFFFFFFFFFFFFF#72))) else b.err }) s
    else s) s
/-- Captures of the trees with an edge copy their flip-flops as they stood before it (R507). -/
def captureTrees (g : Nat) (on : Nat → Bool) (s : State) : State :=
  let x := getStrip s g
  let due := x.capWait.filter on
  if due = [] then s
  else updStrip g (fun x => { x with
    capWait := x.capWait.filter (fun t => !on t),
    cap := (List.range 256).foldl (fun t c => match coveFrame s g c with
      | some f => if due.contains (cvTree f) then tset 0 t c (tget 0 x.ffs c) else t
      | none => t) x.cap }) s
/-- What the synchronisers of a tree sample at its edge. -/
def sampleSync (g : Nat) (on : Nat → Bool) (pins : BitVec 8) (s : State) : State :=
  let w : BitVec 9 := (if linkActive s g then 0 else 0x100#9) ||| pins.setWidth 9
  updStrip g (fun x => { x with
    hist := (List.range 4).foldl (fun h t => if on t then tset [] h t ((w :: tget [] h t).take 4) else h) x.hist }) s

/-- TREE_EDGE (R483): the trees `ts` of strip g have a rising edge at one instant. `pins` are the levels at the GPIO
pins; `ph` says, for each crossing, whether this edge meets the longer latency of R31 (bit k the read side of block k,
bit 32 + k its write side, bit 64 the synchronisers). -/
def execTreeEdge (g : Fin 8) (ts : BitVec 4) (pins : BitVec 8) (ph : BitVec 65) (ups : List BlkUpset) (s : State) : Out :=
  let g := g.val
  if domRun s (20 + g) then
    let on (t : Nat) : Bool := ts.getLsbD t && !bitF s (fFAB_CLK_SWITCHING g t)
    let s := upsetBlks g ups s
    let vs := coveViews s g on pins ph
    let s := captureTrees g on s
    let s := captureCoves g vs s
    let s := (List.range 32).foldl (fun s k => blockEdge g k vs on ph s) s
    let s := sampleSync g on pins (edgeClock g vs on s)
    let vs := coveViews s g on pins ph
    ok (drivePads g vs { s with fresh := s.fresh + 1 })
  else ok s

/-! ### Regional clocks (R498–R500) -/

/-- The sources that outputs with a select in a list of codes draw on. -/
def usedSels (c f : Nat) : List Nat :=
  (List.range 512).filterMap fun k =>
    if 448 ≤ k ∧ ¬ hasSink c (k - 448) then none else some (cvSel f k)
/-- A hard sink is used when its select is not a constant. -/
def sinkUsed (c f k : Nat) : Bool := hasSink c k && cvSel f (448 + k) != 320 && cvSel f (448 + k) != 321
/-- A cove uses hard sources 0–3 or sinks 0–2 (R499). -/
def usesEdge (c f : Nat) : Bool :=
  (usedSels c f).any (fun k => decide (256 ≤ k ∧ k < 260) && hasSource c (k - 256)) ||
  (List.range 3).any (sinkUsed c f)
/-- The select codes that cell i's output depends on. -/
def cellSels (f i : Nat) : List Nat :=
  let ins (i : Nat) : List Nat := (List.range 4).map fun b => cvSel f (5 * i + b)
  let x (i : Nat) : Nat := cvSel f (5 * i + 4)
  match cvGmode f (i / 4) with
  | 0 => ins i
  | 1 => ins (i - i % 2) ++ (if i % 2 = 0 then [x i] else [])
  | 2 =>
    if i % 4 ≠ 0 then []
    else
      let grp (i : Nat) : List Nat := (List.range 4).flatMap fun a => ins (i + a)
      let j := i / 16
      if cvM64 f j then
        let sh := (List.range 4).map fun a => x (16 * j + a)
        if i % 16 = 0 then (List.range 4).flatMap (fun q => grp (16 * j + 4 * q)) ++ sh ++ [x (16 * j + 4), x (16 * j + 5)]
        else grp i ++ sh
      else grp i ++ (List.range 4).map fun a => x (i + a)
  | _ => []
def cellLevels (f i : Nat) : Nat := if cvM64 f (i / 16) && i % 16 == 0 then 2 else 1
/-- Levels up to each cell after n relaxations. -/
def levels (f : Nat) : Nat → List Nat
  | 0 => List.replicate 64 0
  | n + 1 =>
    let d := levels f n
    (List.range 64).map fun i =>
      (cellSels f i).foldl (fun m k => if k < 64 then max m (d.getD k 0 + cellLevels f i) else m) (cellLevels f i)
/-- The depth of a cove (R484, R499), `none` with a combinational loop. -/
def coveDepth (c f : Nat) : Option Nat :=
  let d := levels f 65
  if d ≠ levels f 66 then none
  else
    let at' (k : Nat) : Nat := if k < 64 then d.getD k 0 else 0
    let ffs := (List.range 64).map fun i => if cvByp f i then at' (cvSel f (5 * i + 4)) else d.getD i 0
    let trs := (List.range 128).map fun t => at' (cvSel f (320 + t))
    let sks := ((List.range 64).filter (hasSink c)).map fun k => at' (cvSel f (448 + k))
    some ((ffs ++ trs ++ sks).foldl max 0)
/-- The periods of R498, and fd, in units of 1/195 ns. -/
def srcPeriod (s : State) (src : Nat) : Nat :=
  match src with | 0 => (if isLc2 s then 150 else 130) | 1 => 117 | 2 => 975 | _ => 7800
def fdUnits : Nat := 130
/-- A cove of some depth keeps R499 on a tree with a source and a divider. -/
def coveMeets (s : State) (c f src div : Nat) : Bool :=
  decide ((coveDepth c f).getD 8 * fdUnits ≤ srcPeriod s src * (div + 1)) && (!usesEdge c f || (src == 0 && div == 0))
/-- The frames of the coves that hold a configuration. -/
def coveList (s : State) (g : Nat) : List (Nat × Nat) := (getStrip s g).coves.map fun e => (e.1, e.2.toNat)
/-- DEPTH of tree t (R499). -/
def treeDepth (s : State) (g t : Nat) : Nat :=
  ((coveList s g).filter fun e => cvTree e.2 == t).foldl (fun m e => max m ((coveDepth e.1 e.2).getD 0)) 0

/-- A write of FAB_CLK[g, t] (R499, R500, R510). -/
def writeFabClk (g t v en : Nat) (s : State) : State :=
  let old := rawReg s rowFAB_CLK g t
  let new := old - (old &&& en) + (v &&& en)
  let (src, lane, div) := (bits new 0 2, bits new 2 5, bits new 8 4)
  let all := ((coveList s g).filter fun e => cvTree e.2 == t).all fun e => coveMeets s e.1 e.2 src div
  if bitF s (fFAB_CLK_SWITCHING g t) ∨ 23 < lane ∨ ¬ all then setF (fFAB_CLK_CLK_REJ g t) 1 s
  else
    let same := src = getF s (fFAB_CLK_SRC g t) ∧ lane = getF s (fFAB_CLK_LANE g t) ∧ div = getF s (fFAB_CLK_DIV g t)
    let s := writeRow' rowFAB_CLK g t v en s
    if same then s else setF (fFAB_CLK_SWITCHING g t) 1 s
def stripBase (g : Nat) : Nat := 0x58000 + 0x1000 * g
/-- FAB_CLK_WRITE (R500). -/
def execFabClkWrite (m : BitVec 8) (g : Fin 8) (t : Fin 4) (v : Word) (s : State) : Out :=
  hostCmd m (stripBase g + 0x10 + 8 * t) (writeFabClk g t v.toNat allBits) s
/-- CLOCK_RESTART (R500). `dead`: the old clock gave no edge within 1 µs. -/
def execClockRestart (g : Fin 8) (t : Fin 4) (dead : Bool) (s : State) : Out :=
  if bitF s (fFAB_CLK_SWITCHING g t) then
    let s := setF (fFAB_CLK_SWITCHING g t) 0 s
    ok (if dead then setF (fFAB_CLK_DEAD_SRC g t) 1 s else s)
  else ok s
/-- CLK_LOST (R500). -/
def execClkLost (g : Fin 8) (t : Fin 4) (s : State) : Out :=
  if bitF s (fFAB_CLK_SWITCHING g t) then ok s else ok (setF (fFAB_CLK_CLK_LOST g t) 1 s)

/-! ### Capture and readback (R507, R508, R545) -/

/-- A write of FAB_CAP[g] (R507): ignored while a capture is under way. -/
def writeFabCap (g v en : Nat) (s : State) : State :=
  if onesIn (fFAB_CAP_CAPTURE g) v en = 1 ∧ ¬ bitF s (fFAB_CAP_CAPTURE g) then
    updStrip g (fun x => { x with capWait := [0, 1, 2, 3] })
      (setFs [(fFAB_CAP_CAPTURE g, 1), (fFAB_CAP_DONE g, 0)] s)
  else s
/-- CAPTURE (R507). -/
def execCapture (m : BitVec 8) (g : Fin 8) (s : State) : Out := hostCmd m (stripBase g + 0x40) (writeFabCap g 1 allBits) s
/-- CAPTURE_DONE (R507): a tree that has had no edge is copied as it stands, and DONE is set. -/
def execCaptureDone (g : Fin 8) (s : State) : Out :=
  if bitF s (fFAB_CAP_CAPTURE g) then
    ok (setFs [(fFAB_CAP_CAPTURE g, 0), (fFAB_CAP_DONE g, 1)] (captureTrees g (fun _ => true) s))
  else ok s
/-- A read of FAB_RB_DATA[g] (R508): the selected item; a block word sets RB_CHK and RB_UE. -/
def readFabRb (g : Nat) (s : State) : Nat × State :=
  if getF s (fFAB_RB_SEL_KIND g) = 0 then ((tget 0 (getStrip s g).cap (getF s (fFAB_RB_SEL_COVE g))).toNat, s)
  else
    let k := getF s (fFAB_RB_SEL_BLOCK g)
    let u := getF s (fFAB_RB_SEL_ADDR g)
    let f := blkFrame s g k
    if unitCount f ≤ u then (0, setFs [(fFAB_RB_SEL_RB_CHK g, 0), (fFAB_RB_SEL_RB_UE g, 0)] s)
    else
      let raw := tget 0 (getBlk s g k).err u
      let (v, r, s) := readUnit g k u s
      let chk := if bfEcc f then
          ((Config.blkCheck (BitVec.ofNat 64 v ^^^ (if r = 2 then raw.setWidth 64 else 0))) ^^^ (raw >>> 64).setWidth 8).toNat
        else v / 2 ^ 64
      (v % 2 ^ 64, setFs [(fFAB_RB_SEL_RB_CHK g, chk), (fFAB_RB_SEL_RB_UE g, b2n (r == 2))] s)
/-- FAB_RB_DATA_READ (R508): master m reads FAB_RB_DATA. -/
def execFabRbDataRead (m : BitVec 8) (g : Fin 8) (s : State) : Out :=
  let o := stripBase g + 0x50
  if hostPasses s m.toNat o then
    let (st, s) := regGate (homeOf m.toNat) m.toNat m.toNat false o s
    if st = 0 then
      let (v, s) := readFabRb g s
      let (st, s) := regAnswer (homeOf m.toNat) m.toNat o 0 s
      ok (answerRead m.toNat st v s)
    else ok (answerRead m.toNat st 0 s)
  else ok s
/-- CONFIG_SCAN (R545): the frames of loaded reaches whose parity fails, by reach and by frame as R503 counts from 1. -/
def execConfigScan (g : Fin 8) (bad : List (Fin 16 × Fin 18)) (s : State) : Out :=
  if domRun s (20 + g) then
    ok (bad.foldl (fun s e =>
      if (getF s (fFAB_STAT_LOADED g)).testBit e.1 ∧ ¬ (getF s (fFAB_STAT_LOADING g)).testBit e.1 then
        devLogM 13 2 0 (0x50 + g) (0x90 + g) (g + e.1 * 2 ^ 8 + (e.2 + 1) * 2 ^ 16) 0 s
      else s) s)
  else ok s

/-! ### Link channels and lanes (R495, R445) -/

/-- HALO_FLIT_TX (R495): link j takes the head of the transmit block of channel c against a credit of the peer. `late`:
its clock meets the longer crossing (R31). -/
def execHaloFlitTx (j : Fin 8) (c : Fin 16) (late : Bool) (s : State) : Out :=
  if linkActive s j ∧ domRun s (20 + j) ∧ 0 < tget 0 (getLink s j).cred c then
    match boundBlk s j 5 c with
    | some k =>
      let s := linkSees j k late s
      if 0 < (getBlk s j k).vis then
        let (v, s) := dropHead j k s
        let s := updLink j (fun l => { l with cred := tset 0 l.cred c (tget 0 l.cred c - 1) }) s
        ok (sendFlit j (mkFlit 1 c false v) s)
      else ok s
    | none => ok s
  else ok s
/-- HALO_FLIT_RX (R495): the next received flit of channel c is pushed into its receive block; without one, or while the
block's writes are not enabled, it is lost. -/
def execHaloFlitRx (j : Fin 8) (c : Fin 16) (s : State) : Out :=
  match (getLink s j).rxq.find? (fun f => f.cls == 1 && f.chan == BitVec.ofNat 4 c) with
  | some f =>
    let s := updLink j (fun l => { l with
      rxq := l.rxq.erase f, given := tset 0 l.given c (tget 0 l.given c - 1) }) s
    match boundBlk s j 6 c with
    | some k => if domRun s (20 + j) ∧ 3 ≤ blkStage s j k then ok (pushBlk j k f.p.toNat (linkFreed j k s)) else ok s
    | none => ok s
  | none => ok s

end Sys2Proof.Machine
end

