-- ==== Sys2Proof/Machine/LinkTx.lean ====
section
/-! DEFINITION. The transmitter of a fleet link: the next codeword with its link-layer flit, traffic flits and replays
(R429, R430, R433, R434, R436, R451). -/
namespace Sys2Proof.Machine
open Sys2Proof

/-- The LL flit that link j sends next (R433, R441). -/
def llFlit (s : State) (j : Nat) : Flit :=
  let l := getLink s j
  let free (c : Nat) : Nat := if j < 8 then min 63 (haloFree s j c) - tget 0 l.given c else 0
  let hc := ((List.range 16).map fun c => free c * 2 ^ (32 + 6 * c)).sum
  mkFlit 6 0 false ((l.rxNext + 4095) % 4096 + b2n l.nakDue * 2 ^ 12 + (if l.nakDue then l.rxNext * 2 ^ 13 else 0) + hc +
    (64 - l.tqGiven) * 2 ^ 128 + (64 - l.tsGiven) * 2 ^ 135 + l.rxreq * 2 ^ 144 +
    txAct s j * 2 ^ 176 + l.base * 2 ^ 208 + b2n l.set.isSome * 2 ^ 220)
/-- The credits that an LL flit gives, its NAK, and the set it announces, have left. -/
def llSent (j : Nat) (s : State) : State :=
  updLink j (fun l =>
    { l with given := (List.range 16).foldl (fun t c =>
               if j < 8 then tset 0 t c (max (tget 0 l.given c) (min 63 (haloFree s j c))) else t) l.given,
             tqGiven := 64, tsGiven := 64, set := none, nakDue := false }) s

/-- The waiting flit that R436 prefers. A TUNNEL packet takes one credit, spent with its last flit; after five other flits of a codeword a waiting TUNNEL flit goes first. -/
def nextFlit (l : Link) (others : Nat) : Option Flit :=
  let resp := if 0 < l.tsCred then l.txq.find? (fun f => f.cls == 2 && f.chan == 1) else none
  let req := if 0 < l.tqCred then l.txq.find? (fun f => f.cls == 2 && f.chan == 0) else none
  let tun := resp.orElse fun _ => req
  let rest := ([3, 4, 5, 1].findSome? fun c => l.txq.find? fun f => f.cls.toNat == c).orElse fun _ => tun
  if others ≥ 5 then tun.orElse fun _ => rest else rest
/-- Up to n traffic slots; the rest are IDLE. -/
def fillSlots : Nat → Nat → Link → List Flit × Link
  | 0, _, l => ([], l)
  | n + 1, others, l =>
    match nextFlit l others with
    | none => let (fs, l) := fillSlots n others l; (mkFlit 0 0 false 0 :: fs, l)
    | some f =>
      let isT := f.cls == 2
      let spent (ch : BitVec 4) : Nat := b2n (isT && f.chan == ch && f.last)
      let l := { l with txq := l.txq.erase f, tqCred := l.tqCred - spent 0, tsCred := l.tsCred - spent 1 }
      let (fs, l) := fillSlots n (if isT then 0 else others + 1) l
      (f :: fs, l)
/-- The lane that a CWSEQ leaves on: round-robin over the set from SETSEQ on (R430). -/
def laneOf (s : State) (j seq : Nat) : Nat :=
  let ls := lanesIn j (txAct s j)
  let k := getLink s j
  let back := (k.txNext + 4096 - seq) % 4096
  ls.getD ((k.span + 4096 * ls.length - back) % max 1 ls.length) 0
/-- A drained link sends PARK once its TUNNEL requests are answered and its HALO flits sent (R451). -/
def maybePark (j : Nat) (s : State) : State :=
  let l := getLink s j
  let draining : Bool := match (getDom s (linkDomain j)).trans with | some t => t.phase == 2 | none => false
  let halo := l.txq.any (fun f => f.cls == 1) || (decide (j < 8) && (List.range 32).any fun k =>
    bfMode (blkFrame s j k) == 5 && decide (0 < (getBlk s j k).ages.length))
  let busy : Bool := match l.tun with | some t => !t.out.isEmpty | none => false
  if linkActive s j ∧ draining ∧ ¬ l.parkSent ∧ ¬ halo ∧ ¬ busy then
    updLink j (fun l => { l with parkSent := true }) (sendFlit j (control 5 0) s)
  else s
/-- The stamp of a SYNC or DELAY_REQ flit is the start of the codeword that carries it (R465). -/
def stampTx (s : State) (f : Flit) : Flit :=
  if f.cls == 3 && (isControl 2 f || isControl 3 f) then stampFlit (pBits f 0 8) (stampNow s) else f
/-- The exchange with the parent keeps t3 of the DELAY_REQ that leaves on link j. -/
def noteT3 (j : Nat) (fs : List Flit) (s : State) : State :=
  if parentLink s == some j && fs.any (fun f => f.cls == 3 && isControl 3 f) then
    { s with exch := s.exch.map fun e => { e with t3 := stampNow s } } else s
/-- A codeword leaves on its lane, scrambled and encoded (R429). -/
def emit (j : Nat) (c : Codeword) (s : State) : State :=
  let (w, past) := laneEncode (tget 0 (getLink s j).scr c.lane) c
  let s := updLink j (fun l => { l with scr := tset 0 l.scr c.lane past }) s
  { s with lineTx := s.lineTx ++ [⟨j, c, BitVec.ofNat 5440 w⟩] }
/-- The next new codeword leaves: an LL flit in slot 0 unless CWSEQ mod 5 is 4, then the traffic flits that `fill` takes for the
other slots. -/
def emitNew (j : Nat) (fill : Nat → Link → List Flit × Link) (s : State) : State :=
  let seq := (getLink s j).txNext
  let ll := decide (seq % 5 ≠ 4)
  let (fs, l) := fill (if ll then 19 else 20) (getLink s j)
  let fs := fs.map (stampTx s)
  let c : Codeword := ⟨seq, false, laneOf s j seq, if ll then llFlit s j :: fs else fs⟩
  let s := updLink j (fun _ => { l with txNext := (seq + 1) % 4096, span := l.span + 1, unacked := l.unacked ++ [c] }) s
  emit j c (noteT3 j fs (if ll then llSent j s else s))
/-- Idle slots. -/
def idleFlits (n : Nat) : List Flit := List.replicate n (mkFlit 0 0 false 0)
/-- CODEWORD_TRANSMIT (R430): the next codeword of link j leaves: a replay when one is due, else a new one. -/
def execCodewordTransmit (j : Fin 10) (s : State) : Out :=
  let j := j.val
  if 4 ≤ linkState s j ∧ linkState s j ≤ 6 ∧ txAct s j ≠ 0 ∧ domRun s (linkDomain j) then
    let s := maybePark j s
    match (getLink s j).resend with
    | c :: r =>
      let c := { c with rpl := true, lane := laneOf s j c.seq }
      ok (emit j c (satF (fLINK_ERR_REPLAY j) 1 (updLink j (fun l => { l with resend := r }) s)))
    | [] => ok (emitNew j (fun n l => if 512 ≤ l.unacked.length then (idleFlits n, l) else fillSlots n 0 l) s)
  else ok s
/-- LINK_PARK (R451): the peer's PARK is answered with PARK_ACK in the next codeword, and the link goes down. -/
def execLinkPark (j : Fin 10) (s : State) : Out :=
  if linkActive s j then
    takeFlit j 5 (isControl 5) (fun _ s =>
      linkDown j 3 (emitNew j (fun n l => (control 6 0 :: idleFlits (n - 1), l)) s)) s
  else ok s

end Sys2Proof.Machine
end

