-- ==== Sys2Proof/Machine/FabLoad.lean ====
section
/-! DEFINITION. Loading a strip: FABRIC_LOAD, its validator, the loading state and the release stages (R501–R506), and
the extend values of the loads (R584). -/
namespace Sys2Proof.Machine
open Sys2Proof

/-! ### Measurements (R584) -/

/-- The extend value at a measurement index, as 48 bytes. -/
def extendValue (s : State) (idx : Nat) : List Byte := leBytes 48 (tget 0 s.measures idx).toNat
/-- A load that completes with OK extends its value. -/
def extendWith (idx kind start count : Nat) (data : List Byte) (s : State) : State :=
  let h := leBytes 4 kind ++ leBytes 4 start ++ leBytes 4 count ++ leBytes 4 0
  let e := sha384 (extendValue s idx ++ sha384 (h ++ data))
  { s with measures := tset 0 s.measures idx (BitVec.ofNat 384 (leNum e)) }

/-! ### Reach images (R501) -/

def imageBytes : Nat := 16576
/-- CRC-32 of IEEE 802.3 over bytes. -/
def crcStep (c : BitVec 32) : BitVec 32 := if c.getLsbD 0 then (c >>> 1) ^^^ 0xEDB88320#32 else c >>> 1
def crcByte (c : BitVec 32) (b : Byte) : BitVec 32 := (List.range 8).foldl (fun c _ => crcStep c) (c ^^^ b.setWidth 32)
def crc32 (l : List Byte) : BitVec 32 := ~~~(l.foldl crcByte 0xFFFFFFFF#32)

/-- A reach image: its header, cove frames and block frames as numbers, and whether its CRC matches. -/
structure ReachImg where
  head : Nat
  coves : List Nat
  blks : List Nat
  crcOk : Bool
  deriving DecidableEq, Repr
def reachImg (l : List Byte) : ReachImg :=
  let h := leNum (l.take 64)
  let r := l.drop 64
  { head := h, coves := (List.range 16).map fun i => leNum ((r.drop (1024 * i)).take 1024),
    blks := (List.range 2).map fun i => leNum ((r.drop (16384 + 64 * i)).take 64),
    crcOk := (crc32 r).toNat == bits h 32 32 }
/-- The images of a source, one for each reach. -/
def reachImgs (n : Nat) (l : List Byte) : List ReachImg := (groups imageBytes n l).map reachImg

/-! ### The validator (R503) -/

/-- The configuration a load would leave: cove frames and block frames of the strip. -/
structure Conf where
  coves : Tbl Nat
  blks : Tbl Nat
  deriving DecidableEq, Repr
def confAfter (s : State) (g first : Nat) (is : List ReachImg) : Conf :=
  let x := getStrip s g
  let c0 : Conf := ⟨x.coves.map fun e => (e.1, e.2.toNat), x.frames.map fun e => (e.1, e.2.toNat)⟩
  (List.range is.length).foldl (fun c i =>
    match is[i]? with
    | some im =>
      ⟨(List.range 16).foldl (fun t k => tput t (16 * (first + i) + k) (im.coves.getD k 0)) c.coves,
       (List.range 2).foldl (fun t k => tput t (2 * (first + i) + k) (im.blks.getD k 0)) c.blks⟩
    | none => c) c0

def ckReservedHead (h : Nat) : Bool := bits h 19 1 != 0 || bits h 24 8 != 0 || bits h 64 448 != 0
def ckReservedCove (c f : Nat) : Bool :=
  bits f 1190 90 != 0 || bits f 5890 2302 != 0 || (c % 32 != 19 && cvPad f != 0)
def ckInvalidCove (c f : Nat) : Bool :=
  (List.range 16).any (fun q => cvGmode f q == 3) || (c % 32 == 19 && cvPad f == 3)
def ckInvalidBlk (f : Nat) : Bool :=
  let (m, w, e) := (bfMode f, bfWidth f, bfEcc f)
  decide (9 ≤ m) || decide (5 ≤ w) || ((m == 1 || m == 2) && w == 4) || ((m == 5 || m == 6) && !(w == 4 && e)) ||
  ((m == 7 || m == 8) && !(w == 3 && e)) || (e && decide (w ≤ 2)) || ((m == 1 || m == 3) && bfTreeA f != bfTreeB f) ||
  decide (widthD w < bfAe f) || decide (widthD w < bfAf f) || ((m == 5 || m == 6) && decide (15 < bfBind f)) ||
  ((m == 7 || m == 8) && decide (23 < bfBind f))
/-- Another block binds the same channel or lane in the same mode (check 5). -/
def ckBind (c : Conf) (k f : Nat) : Bool :=
  decide (5 ≤ bfMode f) && c.blks.any fun e => e.1 != k && bfMode e.2 == bfMode f && bfBind e.2 == bfBind f
/-- Check 6. -/
def ckDepth (c f : Nat) : Bool := match coveDepth c f with | some d => decide (7 < d) | none => true
/-- The upstream cove of track t in cove c. -/
def upstream (c t : Nat) : Option Nat := if t < 64 then (if c = 0 then none else some (c - 1)) else (if c = 255 then none else some (c + 1))
/-- The track register of cove c continues a segment that a select upstream has begun. -/
def trackFed (c : Conf) (t : Nat) : Nat → Nat → Bool
  | 0, _ => false
  | n + 1, k =>
    match upstream k t with
    | some u => match tlook c.coves u with
      | some f => cvSel f (320 + t) != 322 || trackFed c t n u
      | none => false
    | none => false
/-- The user tree of the port whose signals cove c carries, if user logic holds that port. -/
def portTree (c : Conf) (cv : Nat) : Option Nat :=
  let f := tget 0 c.blks (cv / 8)
  if cv % 8 < 4 then (if userA f then some (bfTreeA f) else none) else (if userB f then some (bfTreeB f) else none)
/-- Cove cv uses a signal of its block port (R489). -/
def usesPort (c : Conf) (cv f : Nat) : Bool :=
  bfMode (tget 0 c.blks (cv / 8)) != 0 &&
  ((usedSels cv f).any (fun k => decide (263 ≤ k ∧ k < 320)) || (List.range 59).any fun i => sinkUsed cv f (i + 5))
/-- Check 7 at a cove. -/
def ckTracks (c : Conf) (cv f : Nat) : Bool :=
  let tree (u : Nat) : Nat := match tlook c.coves u with | some g => cvTree g | none => cvTree f
  let differs (t : Nat) : Bool := match upstream cv t with | some u => tree u != cvTree f | none => false
  (List.range 128).any (fun t => cvSel f (320 + t) == 322 && trackFed c t 256 cv && differs t) ||
  (usedSels cv f).any (fun k => decide (128 ≤ k ∧ k < 256) && differs (k - 128)) ||
  (usesPort c cv f && (match portTree c cv with | some t => t != cvTree f | none => false))
/-- Check 8 at a cove. -/
def ckClock (s : State) (g cv f : Nat) : Bool :=
  let t := cvTree f
  !coveMeets s cv f (getF s (fFAB_CLK_SRC g t)) (getF s (fFAB_CLK_DIV g t))

/-- Whether a frame of the new images fails a check from 1 to 4; frames count as R502 numbers them. -/
def imgFails (g r check frame : Nat) (im : ReachImg) : Bool :=
  let cv := 16 * r + (frame - 1)
  match check with
  | 1 => frame == 0 && (bits im.head 0 16 != 1 || bits im.head 16 3 != g || bits im.head 20 4 != r)
  | 2 => frame == 0 && !im.crcOk
  | 3 => if frame = 0 then ckReservedHead im.head
    else if frame ≤ 16 then ckReservedCove cv (im.coves.getD (frame - 1) 0)
    else bits (im.blks.getD (frame - 17) 0) 41 471 != 0
  | _ => if frame = 0 then false
    else if frame ≤ 16 then ckInvalidCove cv (im.coves.getD (frame - 1) 0)
    else ckInvalidBlk (im.blks.getD (frame - 17) 0)
/-- Whether a frame of the configuration after the load fails a check from 5 to 8. -/
def confFails (s : State) (g : Nat) (c : Conf) (r check frame : Nat) : Bool :=
  if frame = 0 then false
  else if frame ≤ 16 then
    let cv := 16 * r + (frame - 1)
    match tlook c.coves cv with
    | some f => (match check with | 6 => ckDepth cv f | 7 => ckTracks c cv f | 8 => ckClock s g cv f | _ => false)
    | none => false
  else
    let k := 2 * r + (frame - 17)
    check == 5 && ckBind c k (tget 0 c.blks k)
/-- The first failure: check, reach and frame (R502, R503). -/
def validate (s : State) (g first : Nat) (is : List ReachImg) : Option (Nat × Nat × Nat) :=
  let c := confAfter s g first is
  let old (k : Nat) : Option (Nat × Nat × Nat) :=
    (List.range is.length).findSome? fun i => (List.range 19).findSome? fun fr =>
      match is[i]? with
      | some im => if imgFails g (first + i) k fr im then some (k, first + i, fr) else none
      | none => none
  let new (k : Nat) : Option (Nat × Nat × Nat) :=
    (List.range 16).findSome? fun r => (List.range 19).findSome? fun fr =>
      if confFails s g c r k fr then some (k, r, fr) else none
  ([1, 2, 3, 4].findSome? old).orElse fun _ => [5, 6, 7, 8].findSome? new

/-! ### FABRIC_LOAD (R502, R504–R506) -/

def ldStrip (j : Job) : Nat := dBits j 2 0 3
def ldFirst (j : Job) : Nat := dBits j 2 8 4
def ldCount (j : Job) : Nat := dBits j 2 16 5
/-- The reaches of a load as a mask. -/
def ldMask (j : Job) : Nat := (2 ^ ldCount j - 1) * 2 ^ ldFirst j
def ldReaches (j : Job) : List Nat := (List.range (ldCount j)).map (· + ldFirst j)
/-- FABRIC_LOAD (R502): checks, then the source read. -/
def execFabricLoad (r : Fin 8192) (s : State) : Out :=
  startOp r 7 (fun j s =>
    if 16 < ldFirst j + ldCount j then badParam 1 j s
    else if ¬ domRun s (20 + ldStrip j) then badParam 2 j s
    else if dBits j 3 0 32 ≠ ldCount j * imageBytes then badParam 3 j s
    else runJob j 0 s) s
/-- A load of strip g is past its validation. -/
def loadOf (s : State) (g : Nat) : Option Job := runningJob s fun j => j.op == 7 && ldStrip j == g && decide (2 ≤ j.stage)
/-- A block of the region is, or would be, bound to a HALO channel while link g is in use (R502). -/
def haloBound (s : State) (g : Nat) (j : Job) (is : List ReachImg) : Bool :=
  let halo (f : Nat) : Bool := bfMode f == 5 || bfMode f == 6
  decide (2 ≤ linkState s g ∧ linkState s g ≤ 6) &&
    ((ldReaches j).any (fun r => halo (blkFrame s g (2 * r)) || halo (blkFrame s g (2 * r + 1))) ||
     is.any fun im => im.blks.any halo)
/-- The region enters the loading state (R504). -/
def enterLoading (j : Job) (s : State) : State :=
  let g := ldStrip j
  let rs := ldReaches j
  let s := setFs [(fFAB_STAT_LOADING g, getF s (fFAB_STAT_LOADING g) ||| ldMask j),
    (fFAB_STAT_LOADED g, getF s (fFAB_STAT_LOADED g) - (getF s (fFAB_STAT_LOADED g) &&& ldMask j))] s
  let s := updStrip g (fun x => { x with
    ffs := rs.foldl (fun t r => (List.range 16).foldl (fun t i =>
      let c := 16 * r + i
      tset 0 t c (match tlook x.coves c with | some f => BitVec.ofNat 64 (cvInit f.toNat) | none => 0)) t) x.ffs,
    tracks := x.tracks.filter fun e => !rs.contains (e.1 / 16),
    blocks := x.blocks.filter fun e => !rs.contains (e.1 / 2),
    rel := rs.foldl (fun t r => tput t r 1) x.rel }) s
  updJob j.id (fun j => { j with stage := 2 }) s
/-- A load whose source has been read is validated, and enters the loading state or completes (R502, R506). -/
def beginLoad (j : Job) (s : State) : State :=
  let g := ldStrip j
  let is := reachImgs (ldCount j) j.data
  if ¬ domRun s (20 + g) then completeJob j.id 8 2 s
  else if haloBound s g j is then completeJob j.id 8 4 s
  else match validate s g (ldFirst j) is with
    | some (k, r, fr) => completeJob j.id 8 (0x3000000 + k * 2 ^ 16 + r * 2 ^ 8 + fr) s
    | none => enterLoading j s
/-- The next load that waits for strip g begins; those that fail let the next one begin. -/
def nextLoad (g : Nat) : Nat → State → State
  | 0, s => s
  | n + 1, s =>
    if (loadOf s g).isSome then s
    else match (getStrip s g).waiting with
      | [] => s
      | id :: t =>
        let s := updStrip g (fun x => { x with waiting := t }) s
        nextLoad g n (match findJob s id with | some j => beginLoad j s | none => s)
/-- The source of a load has been read: it takes its turn (R506). -/
def loadRead (j : Job) (s : State) : State :=
  let g := ldStrip j
  nextLoad g 257 (updStrip g (fun x => { x with waiting := x.waiting ++ [j.id] }) (leaveEngine j.id 1 s))
/-- LOAD_RELEASE (R505): writing ends; the new frames stand, flip-flops hold their INIT, and outputs are enabled. -/
def execLoadRelease (g : Fin 8) (s : State) : Out :=
  match loadOf s g with
  | some j =>
    if j.stage = 2 then
      let is := reachImgs (ldCount j) j.data
      let c := confAfter s g (ldFirst j) is
      let rs := ldReaches j
      let s := updStrip g (fun x => { x with
        coves := c.coves.map (fun e => (e.1, BitVec.ofNat 8192 e.2)),
        frames := (c.blks.filter (fun e => e.2 != 0)).map (fun e => (e.1, BitVec.ofNat 512 e.2)),
        ffs := c.coves.foldl (fun t e =>
          if rs.contains (e.1 / 16) then tset 0 t e.1 (BitVec.ofNat 64 (cvInit e.2)) else t) x.ffs,
        rel := rs.foldl (fun t r => tput t r 2) x.rel, relTree := [] }) s
      ok (updJob j.id (fun j => { j with stage := 3 }) s)
    else ok s
  | none => ok s

/-- An output of a cove that drives 0 under R486. -/
def outWarns (c f k : Nat) : Bool :=
  let v := cvSel f k
  if 448 ≤ k ∧ ¬ hasSink c (k - 448) then false
  else decide (323 ≤ v) || (v == 322 && !(decide (320 ≤ k ∧ k < 448))) ||
    (decide (256 ≤ v ∧ v < 320) && !hasSource c (v - 256))
/-- The lowest cove and output of a release that warn. -/
def firstWarn (s : State) (g : Nat) (rs : List Nat) : Option (Nat × Nat) :=
  ((rs.flatMap fun r => (List.range 16).map fun i => 16 * r + i)).findSome? fun c =>
    (coveFrame s g c).bind fun f => ((List.range 512).find? (outWarns c f)).map fun k => (c, k)
/-- CFG_WARN captures under R87 (R509). -/
def noteWarn (g : Nat) (w : Option (Nat × Nat)) (s : State) : State :=
  match w with
  | none => s
  | some (c, k) =>
    if bitF s (fFAB_STAT_CFG_WARN g) then setF (fFAB_STAT_WARN_OVF g) 1 s
    else setFs [(fFAB_STAT_CFG_WARN g, 1), (fFAB_STAT_WARN_COVE g, c), (fFAB_STAT_WARN_OUT g, k)] s
/-- The reaches of a strip that are being released after a reset of its domain (R602). -/
def resetReaches (s : State) (g : Nat) : List Nat :=
  ((getStrip s g).rel.map (·.1)).filter fun r => !(getF s (fFAB_STAT_LOADING g)).testBit r
/-- The trees that coves and blocks of some reaches run on. -/
def releaseTrees (s : State) (g : Nat) (rs : List Nat) : List Nat :=
  uniq (rs.flatMap fun r =>
    ((List.range 16).filterMap fun i => (coveFrame s g (16 * r + i)).map cvTree) ++
    ((List.range 2).filter fun i => bfMode (blkFrame s g (2 * r + i)) != 0).map fun i => bfTreeA (blkFrame s g (2 * r + i)))
/-- RELEASE_STAGE (R505, R602): what runs on tree t of a region in release passes its next stage. When every tree of the region
has passed the last, the reaches are released, and a load completes. A region in reset first has its outputs enabled. -/
def execReleaseStage (g : Fin 8) (t : Fin 4) (s : State) : Out :=
  let load := (loadOf s g).filter fun j => j.stage == 3
  let rs := match load with | some j => ldReaches j | none => resetReaches s g
  if rs = [] then ok s
  else if rs.any fun r => tget 0 (getStrip s g).rel r == 1 then
    ok (updStrip g (fun x => { x with rel := rs.foldl (fun u r => tput u r 2) x.rel, relTree := [] }) s)
  else
    let s := updStrip g (fun x => { x with relTree := tput x.relTree t (min 4 (tget 2 x.relTree t + 1)) }) s
    if (releaseTrees s g rs).any fun t => tget 2 (getStrip s g).relTree t != 4 then ok s
    else
      let s := updStrip g (fun x => { x with rel := rs.foldl terase x.rel, relTree := [] }) s
      match load with
      | some j =>
        let s := setFs [(fFAB_STAT_LOADED g, getF s (fFAB_STAT_LOADED g) ||| ldMask j),
          (fFAB_STAT_LOADING g, getF s (fFAB_STAT_LOADING g) - (getF s (fFAB_STAT_LOADING g) &&& ldMask j))] s
        let s := extendWith (0x90 + g) 3 (ldFirst j) (ldCount j) j.data (noteWarn g (firstWarn s g rs) s)
        ok (nextLoad g 257 (completeJob j.id 0 0 s))
      | none => ok s

/-! ### Lanes in FABRIC mode (R445, R495) -/

/-- A block frame binds lane l (R495). -/
def bindsLane (l f : Nat) : Bool := (bfMode f == 7 || bfMode f == 8) && bfBind f == l
/-- Lane l of link g is held in reset: a block of a loading region binds it, as configured or as it will be (R504, R505). -/
def laneHeld (s : State) (g l : Nat) : Bool :=
  let new : Tbl Nat := match loadOf s g with
    | some j => (confAfter s g (ldFirst j) (reachImgs (ldCount j) j.data)).blks
    | none => []
  (List.range 32).any fun k => blkStage s g k != 4 && (bindsLane l (blkFrame s g k) || bindsLane l (tget 0 new k))
/-- Lane l is in FABRIC mode, trained and not held in reset (R445, R504). -/
def laneLive (s : State) (g l : Nat) : Bool :=
  (getF s (fLANE_MODE_FABRIC g)).testBit l && decide (3 ≤ linkState s g) && domRun s (linkDomain g) && domRun s (20 + g) &&
    !laneHeld s g l
/-- PMA_WORD_RECEIVED (R495): a cycle of the recovered clock of lane l. The word is pushed; freed entries then come nearer
to that clock (R31). -/
def execPmaWordReceived (g : Fin 8) (l : Fin 24) (w : Word) (late : Bool) (s : State) : Out :=
  match boundBlk s g 7 l with
  | some k =>
    if laneLive s g l then
      ok (updBlk g k (fun b =>
        let fr := b.freed.map (· + 1)
        { b with freed := fr.drop (ripe fr 3 late) }) (pushBlk g k w.toNat s))
    else ok s
  | none => ok s
/-- PMA_WORD_SENT (R495): a cycle of the link core clock. The lane pops a word, or sends the last one again; pushed entries
then come nearer to that clock (R31). -/
def execPmaWordSent (g : Fin 8) (l : Fin 24) (late : Bool) (s : State) : Out :=
  match boundBlk s g 8 l with
  | some k =>
    if laneLive s g l then
      let last := (getBlk s g k).last
      let (r, s) := popBlk g k s
      let w := match r with | some v => BitVec.ofNat 64 v | none => last
      let s := updBlk g k (fun b =>
        let ages := b.ages.map (· + 1)
        { b with last := w, ages := ages, vis := max b.vis (ripe ages 3 late) }) s
      ok { s with pmaTx := s.pmaTx ++ [(g.val, l.val, w)] }
    else ok s
  | none => ok s

end Sys2Proof.Machine
end

