-- ==== Sys2Proof/Machine/Service.lean ====
section
/-! DEFINITION. Service while the part runs: sparing, HBM recalibration, hub firmware, fatal errors, fuses and the locks
of access tables (R74–R77, R548, R555–R560, R573, R580, R582). -/
namespace Sys2Proof.Machine
open Sys2Proof

/-! ### Hub operations on a partition (R112, R115, R118, R203) -/

/-- The hub requests the array of master n, `sp` for a SPARE, else for a READBACK: the pending bit and its interrupt. -/
def hubRequest (n : Nat) (sp : Bool) (s : State) : State :=
  let s := updSeq n (fun q => if sp then { q with pendSp := true } else { q with pendRb := true }) s
  takeIfIdle n (raiseIrq n (if sp then 21 else 20) s)
/-- The hub has the array of master n: a yield has completed, or the micro-sequencer is TRAPPED, and every work queue and
word port is idle. -/
def hubReady (s : State) (n : Nat) : Bool :=
  let q := getSeq s n
  q.stop.isNone && (q.state == .yielded || q.state == .trapped) && drained q && groupComplete s n && !wpRunning s n
/-- The hub's operation begins. -/
def hubBegin (n : Nat) (sp : Bool) (s : State) : State :=
  updSeq n (fun q => { q with
    hubSvc := true, pendSp := q.pendSp && !sp, pendRb := q.pendRb && sp }) s
/-- The hub's operation ends. -/
def hubEnd (n : Nat) (s : State) : State := takeIfIdle n (hubRelease n s)

/-! ### SPARE (R74–R77, R555–R557) -/

def spareCol (j : Job) : Nat := dBits j 1 0 4
def spareOf (s : State) (f stage : Nat) : Option Job :=
  runningJob s fun j => j.op == 0xC && jTarget j == f && j.stage == stage
/-- SPARE (R555): the checks, then the pretest. -/
def execSpare (r : Fin 8192) (s : State) : Out :=
  startOp r 0xC (fun j s =>
    let f := jTarget j
    if bitF s (fSPARE_MAP_ACTIVE f) ∨ bitF s (fSPARE_MAP_SPARE_BAD f) ∨
        s.jobs.any (fun k => k.op == 0xC && k.phase == .running && jTarget k == f) then badParam 1 j s
    else if ¬ domRun s (quadDom f) then badParam 2 j s
    else runJob j 0 s) s
/-- SPARE_PRETEST_DONE (R555, R556): the spare column fails its pretest, or the preemption is requested. -/
def execSparePretestDone (f : Fin 64) (good : Bool) (s : State) : Out :=
  match spareOf s f 0 with
  | some j =>
    if good then
      let s := updJob j.id (fun j => { j with stage := 1 }) s
      match partOf s f with
      | some (n, _) => ok (hubRequest n true s)
      | none => ok s
    else ok (flrResume (actPending (badParam 3 j (setF (fSPARE_MAP_SPARE_BAD f) 1 s))))
  | none => ok s
/-- A READBACK of the partition comes before the repair copy of descriptor `id`: it was fetched earlier (R613), or it has
the array already (R77). -/
def readbackFirst (s : State) (n id : Nat) : Bool :=
  s.jobs.any fun j => j.op == 0xD && j.phase == .running && jTarget j == n && (decide (j.id < id) || decide (3 ≤ j.stage))
/-- SPARE_QUIESCED (R556): Survey yields its row (R79) and the repair copy starts. -/
def execSpareQuiesced (f : Fin 64) (s : State) : Out :=
  match spareOf s f 1 with
  | some j =>
    let start (s : State) : State :=
      setF (fSPARE_MAP_COPY_BUSY f) 1 (updJob j.id (fun j => { j with stage := 2 }) (rowYield f 0 s))
    match partOf s f with
    | some (n, _) =>
      if hubReady s n ∧ ¬ readbackFirst s n j.id then ok (start (hubBegin n true s)) else ok s
    | none => ok (start s)
  | none => ok s

/-- The stored rows of the columns that move, by row address. -/
def movedErrs (s : State) (f col : Nat) : List (Nat × RowErr) :=
  let l := (getField s f).rowErr.filter fun e => decide (col ≤ e.1 / 4096 % 17 ∧ e.1 / 4096 % 17 < 16)
  let put := fun (x : Nat × RowErr) (l : List (Nat × RowErr)) =>
    l.takeWhile (fun y => decide (y.1 % 4096 ≤ x.1 % 4096)) ++ [x] ++ l.dropWhile (fun y => decide (y.1 % 4096 ≤ x.1 % 4096))
  l.foldl (fun acc x => put x acc) []
/-- One stored row in error moves one column east (R71, R76): corrected, or written poisoned and logged. -/
def moveErr (f : Nat) (k : Nat) (e : RowErr) (s : State) : State :=
  let (srow, pcol, row) := (k / 4096 / 17, k / 4096 % 17, k % 4096)
  let (d, s) := draw s
  let (fix, r) := decodeRow e.mask d
  let s := updField f (fun x => { x with rows := tset 0 x.rows row (tget 0 x.rows row ^^^ slicePlane (16 * srow + pcol) fix) }) s
  match r with
  | none => s
  | some (ue, pos) =>
    let s := peError f 3 row 0 ⟨srow, pcol, ue, pos⟩ s
    if ue then devLogF 1 2 f f (errCapValue s f) (setRowErr f (rowKey srow (pcol + 1) row) ⟨poisonMask, true⟩ s) else s
/-- The repair copy (R76): every destination row is written whole. -/
def repairCopy (f col : Nat) (s : State) : State :=
  let l := movedErrs s f col
  let s := updField f (fun x => { x with
    rowErr := x.rowErr.filter (fun e => decide (e.1 / 4096 % 17 < col)), fwd := none }) s
  l.foldl (fun s e => moveErr f e.1 e.2 s) s
/-- SPARE_MAP of a field as a register value (R91). -/
def spareMapValue (s : State) (f : Nat) : Nat :=
  getF s (fSPARE_MAP_FAILED_COL f) + getF s (fSPARE_MAP_ACTIVE f) * 2 ^ 8 + getF s (fSPARE_MAP_SPARE_BAD f) * 2 ^ 9 +
  getF s (fSPARE_MAP_COPY_BUSY f) * 2 ^ 10
/-- The repair copy of a field ends and its multiplexers switch to column `col` (R76, R90, R91): an armed injection acts on
the copied row. -/
def spareSwitch (f col : Nat) (s : State) : State :=
  let s := setFs [(fSPARE_MAP_FAILED_COL f, col), (fSPARE_MAP_ACTIVE f, 1), (fSPARE_MAP_COPY_BUSY f, 0)] (repairCopy f col s)
  if col < getF s (fPEMEM_INJ_PCOL f) then inject f (getF s (fPEMEM_INJ_ROW f)) s else s
/-- SPARE_COPY_DONE (R76, R556): the multiplexers switch, an armed injection acts on the copied row (R90), and issue
resumes. -/
def execSpareCopyDone (f : Fin 64) (s : State) : Out :=
  match spareOf s f 2 with
  | some j =>
    let s := spareSwitch f (spareCol j) s
    let s := completeJob j.id 0 0 (devLogF 18 0 f f (spareMapValue s f) s)
    let s := match partOf s f with | some (n, _) => hubEnd n s | none => s
    ok (flrResume (actPending s))
  | none => ok s

/-! ### HBM_RECAL (R559, R564) -/

/-- A write of HBM_RECAL[k]. -/
def writeHbmRecal (k v en : Nat) (s : State) : State :=
  let s := writeTy .rw rowHBM_RECAL k 0 v en (writeTy .w1c rowHBM_RECAL k 0 v en s)
  if onesIn (fHBM_RECAL_GO k) v en = 1 then
    if ¬ domRun s (16 + k) ∨ bitF s (fHBM_STAT_FAILED k) ∨ bitF s (fHBM_RECAL_BUSY k) then setF (fHBM_RECAL_REJ k) 1 s
    else
      let s := setFs [(fHBM_RECAL_GO k, 1), (fHBM_RECAL_BUSY k, 1)] s
      { s with hbmHeld := s.hbmHeld ++ [16 * k + getF s (fHBM_RECAL_CH k)] }
  else s
/-- HBM_RECAL (R559): channel ch of stack k. -/
def execHbmRecal (m : BitVec 8) (k : Fin 4) (ch : Fin 16) (s : State) : Out :=
  hostCmd m (0x50018 + 0x1000 * k) (writeHbmRecal k (ch + 16) allBits) s
/-- HBM_RECAL_DONE (R559): the duration in µs. -/
def execHbmRecalDone (k : Fin 4) (us : BitVec 16) (s : State) : Out :=
  if bitF s (fHBM_RECAL_BUSY k) then
    let s := setFs [(fHBM_RECAL_GO k, 0), (fHBM_RECAL_BUSY k, 0), (fHBM_RECAL_LAST_US k, us.toNat)] s
    ok { s with hbmHeld := s.hbmHeld.filter fun x => x / 16 != k.val }
  else ok s

/-! ### Hub firmware (R560, R565, R578–R580) -/

/-- What the checks of R580 see of an image: a header of 256 bytes and its body. -/
def slotImg (l : List Byte) : SlotImg :=
  let b (i : Nat) : Nat := (l.getD i 0).toNat
  let len := leNum ((l.drop 4).take 4)
  let key := (l.drop 16).take 97
  let msg := l.take 128 ++ (l.drop 256).take len
  let zero (lo n : Nat) : Bool := ((l.drop lo).take n).all (· == 0)
  { form := leNum (l.take 4) == 1 && len % 4 == 0 && decide (len ≤ 2 ^ 23) && decide (256 + len ≤ l.length) &&
      decide (b 8 ≤ 64) && decide (b 9 ≤ 1) && zero 10 6 && zero 113 15 && zero 224 32,
    keySel := b 9 == 1, svn := BitVec.ofNat 7 (b 8),
    keyOk := sha384 key == leBytes 48 (Config.fwKeyHash (b 9)).toNat,
    sigOk := ecdsaVerify key msg ((l.drop 128).take 48) ((l.drop 176).take 48),
    digest := BitVec.ofNat 384 (leNum (sha384 msg)) }
/-- The image that starts a slot: erased flash behind what has been written. -/
def flashImg (l : List Byte) : SlotImg :=
  let len := min (256 + leNum ((l.drop 4).take 4)) 0x900000
  slotImg (l ++ List.replicate (len - l.length) 0xFF)
/-- The checks of R580 but for the SVN, and the whole. -/
def slotSound (s : State) (i : SlotImg) : Bool :=
  i.form && !(getF s fSEC_STAT_REVOKE).testBit (b2n i.keySel) && i.keyOk && i.sigOk
def slotValid (s : State) (i : SlotImg) : Bool := slotSound s i && decide (getF s fSEC_STAT_SVN_FUSE ≤ i.svn.toNat)

def fwError (why : Nat) (s : State) : State := setFs [(fFW_CTL_FW_ERR, 1), (fFW_CTL_ERR_WHY, why)] s
/-- A write of FW_CTL: STAGE or SWITCH begins, or is refused. -/
def writeFwCtl (v en : Nat) (s : State) : State :=
  let s := writeTy .w1c rowFW_CTL 0 0 v en s
  let s := if onesIn fFW_CTL_STAGE v en = 1 then
      (if bitF s fFW_CTL_BUSY then fwError 5 s else setFs [(fFW_CTL_STAGE, 1), (fFW_CTL_BUSY, 1)] s) else s
  if onesIn fFW_CTL_SWITCH v en = 1 then
    if bitF s fFW_CTL_BUSY then fwError 5 s
    else if ¬ bitF s fFW_CTL_READY then fwError 4 s
    else { setFs [(fFW_CTL_SWITCH, 1), (fFW_CTL_BUSY, 1)] s with ringStop := true, cqHold := true }
  else s
/-- FW_STAGE (R560). -/
def execFwStage (m : BitVec 8) (s : State) : Out := hostCmd m 0x4D000 (writeFwCtl 2 allBits) s
/-- The inactive slot holds these bytes. -/
def setInactive (l : List Byte) (s : State) : State :=
  { s with flash := if bitF s fFW_CTL_ACTIVE then { s.flash with a := l } else { s.flash with b := l } }
/-- FW_STAGE_DONE (R560): the staged image is verified, and programmed when it is valid; `flashOk`: programming works. -/
def execFwStageDone (flashOk : Bool) (s : State) : Out :=
  if bitF s fFW_CTL_STAGE then
    let s := setFs [(fFW_CTL_STAGE, 0), (fFW_CTL_BUSY, 0)] s
    let off := getF s fFW_SRC_OFFSET
    let len := getF s fFW_SRC_LEN
    if 2 ^ 26 < off + len then ok (fwError 1 s)
    else
      let (st, l, _, s) := secRead (stgNote 0x61) off (List.replicate len true) s
      let i := slotImg l
      if st ≠ 0 ∨ ¬ slotSound s i then ok (fwError 1 s)
      else if ¬ slotValid s i then ok (fwError 2 s)
      else if ¬ flashOk then ok (fwError 3 (setF fFW_CTL_READY 0 (setInactive [] s)))
      else ok (setF fFW_CTL_READY 1 (setInactive (l.take (256 + leNum ((l.drop 4).take 4))) s))
  else ok s
/-- FW_SWITCH (R560). -/
def execFwSwitch (m : BitVec 8) (s : State) : Out := hostCmd m 0x4D000 (writeFwCtl 4 allBits) s

/-- A copy of the slot record, if it is valid: ACTIVE and SEQ (R579). -/
def slotRecord (l : List Byte) : Option (Bool × BitVec 32) :=
  let b := (List.range 12).map fun i => l.getD i 0xFF
  let act := b.getD 2 0
  if leNum (b.take 2) = 1 ∧ (act = 0 ∨ act = 1) ∧ b.getD 3 0 = 0 ∧ leNum (b.drop 8) = (crc32 (b.take 8)).toNat then
    some (act == 1, BitVec.ofNat 32 (leNum ((b.drop 4).take 4)))
  else none
/-- The bytes of a slot record. -/
def recordBytes (act : Bool) (seq : BitVec 32) : List Byte :=
  let h := leBytes 2 1 ++ leBytes 2 (b2n act) ++ leBytes 4 seq.toNat
  h ++ leBytes 4 (crc32 h).toNat
/-- Whether slot-record copy 0 is the one in use, with its ACTIVE and SEQ; `none`: neither is valid (R579). -/
def recordInUse (f : Flash) : Option (Bool × Bool × BitVec 32) :=
  match slotRecord f.rec0, slotRecord f.rec1 with
  | some (x, a), some (y, b) =>
    let d := (b - a).toNat
    if 1 ≤ d ∧ d < 2 ^ 31 then some (false, y, b) else some (true, x, a)
  | some r, none => some (true, r)
  | none, some r => some (false, r)
  | none, none => none
/-- The preferred slot: true for B (R580). -/
def preferredSlot (f : Flash) : Bool := match recordInUse f with | some (_, act, _) => act | none => false
/-- SWITCH writes the copy not in use, with SEQ one above (R579). -/
def writeRecord' (act : Bool) (f : Flash) : Flash :=
  match recordInUse f with
  | some (true, _, n) => { f with rec1 := recordBytes act (n + 1) }
  | some (false, _, n) => { f with rec0 := recordBytes act (n + 1) }
  | none => { f with rec0 := recordBytes act 1 }
/-- The hub runs an image of a slot: the fields of SEC_STAT and FW_CTL that show it (R565, R592). -/
def runImage (act : Bool) (s : State) : State :=
  let i := flashImg (if act then s.flash.b else s.flash.a)
  let s := setFs [(fFW_CTL_ACTIVE, b2n act), (fSEC_STAT_BOOT_SLOT, b2n act), (fSEC_STAT_KEY_SEL, b2n i.keySel),
    (fSEC_STAT_SVN_IMG, i.svn.toNat)] s
  { s with image := some i }
/-- FW_SWITCH_DONE (R560): the hub runs the other slot and releases what it held; `us` is the pause of the rings. -/
def execFwSwitchDone (us : BitVec 32) (s : State) : Out :=
  if bitF s fFW_CTL_SWITCH then
    let act := !bitF s fFW_CTL_ACTIVE
    let s := runImage act { s with flash := writeRecord' act s.flash }
    let s := setFs [(fFW_CTL_SWITCH, 0), (fFW_CTL_BUSY, 0), (fFW_CTL_READY, 0), (fFW_CTL_PAUSE_US, us.toNat)] s
    let held := s.evtHeld
    let s := releaseHeld { s with cqHold := false, evtHeld := [], ringStop := bitF s fDEV_ERR_FATAL }
    let s := if bitF s fDEV_ERR_FATAL then s else held.foldl (fun s e => postEntry e.1 e.2.1 e.2.2 s) s
    let s := s.evtLost.foldl (fun s e => payOverflow e.1 s) s
    ok (advanceAll (devLogM 19 0 0 0xFF 0xAA (b2n act) us.toNat s))
  else ok s

/-! ### Fatal errors (R548) -/

/-- FATAL_ERROR: unit as DEV_ERR codes it, and the address within it. -/
def execFatalError (unit : Fin 4) (addr : Word) (s : State) : Out :=
  let s := setFs [(fDEV_ERR_FATAL, 1), (fDEV_ERR_UNIT, unit)] { s with ringStop := true, aer := true }
  ok (devLogM 20 4 0 0xFF 0xA8 unit addr.toNat s)

/-! ### Fuses (R582, R592) -/

/-- A write of SEC_CTL. -/
def writeSecCtl (v en : Nat) (s : State) : State :=
  let s := writeTy .w1c rowSEC_CTL 0 0 v en s
  let s := if onesIn fSEC_CTL_SVN_COMMIT v en = 1 then
      (if getF s fSEC_STAT_SVN_IMG ≤ getF s fSEC_STAT_SVN_FUSE then setF fSEC_CTL_COMMIT_REJ 1 s
       else setFs [(fSEC_CTL_SVN_COMMIT, 1), (fSEC_CTL_BUSY, 1)] s) else s
  if onesIn fSEC_CTL_REVOKE0 v en = 1 then
    if bitF s fSEC_STAT_KEY_SEL then setFs [(fSEC_CTL_REVOKE0, 1), (fSEC_CTL_BUSY, 1)] s else setF fSEC_CTL_COMMIT_REJ 1 s
  else s
/-- SVN_COMMIT and REVOKE0 (R582). -/
def execSvnCommit (m : BitVec 8) (s : State) : Out := hostCmd m 0x4E008 (writeSecCtl 1 allBits) s
def execRevoke0 (m : BitVec 8) (s : State) : Out := hostCmd m 0x4E008 (writeSecCtl 2 allBits) s
/-- The fuse writes under way take effect; those of them that `take` allows. -/
def endFuses (take : Bool) (s : State) : State :=
  let s := if take ∧ bitF s fSEC_CTL_SVN_COMMIT then setF fSEC_STAT_SVN_FUSE (getF s fSEC_STAT_SVN_IMG) s else s
  let s := if take ∧ bitF s fSEC_CTL_REVOKE0 then setF fSEC_STAT_REVOKE (getF s fSEC_STAT_REVOKE ||| 1) s else s
  setFs [(fSEC_CTL_SVN_COMMIT, 0), (fSEC_CTL_REVOKE0, 0), (fSEC_CTL_BUSY, 0)] s
/-- FUSE_WRITE_DONE (R582). -/
def execFuseWriteDone (s : State) : Out := if bitF s fSEC_CTL_BUSY then ok (endFuses true s) else ok s

/-! ### Access tables (R573, R593–R595) -/

/-- A write of a register of the table of node d: discarded for a reserved node, and while the table is locked. -/
def aclWrite (d : Nat) (act : State → State) (s : State) : State :=
  if ¬ nodeExists d then s
  else if bitF s (fACL_CTL_LOCK d) then setF (fACL_CTL_LOCK_REJ d) 1 s
  else act s
def writeAclPerm (d m v en : Nat) (s : State) : State :=
  if masterReserved m then s else aclWrite d (writeRow' rowACL_PERM d m v en) s
def writeAclBase (d r v en : Nat) (s : State) : State := aclWrite d (writeRow' rowACL_BASE d r v en) s
def writeAclLimit (d r v en : Nat) (s : State) : State := aclWrite d (writeRow' rowACL_LIMIT d r v en) s
def writeAclCtl (d v en : Nat) (s : State) : State := aclWrite d (writeRow' rowACL_CTL d 0 v en) s
/-- ACL_LOCK (R573). -/
def execAclLock (m : BitVec 8) (d : BitVec 8) (s : State) : Out :=
  hostCmd m (0x890000 + 8 * d.toNat) (writeAclCtl d.toNat 1 allBits) s

end Sys2Proof.Machine
end

