-- ==== Sys2Proof/Machine/Reset.lean ====
section
/-! DEFINITION. Resets and boot: what each reset keeps, domain resets, warm reset, power-on, the boot steps, and the
supplies (R579–R582, R596–R606, R631–R635). -/
namespace Sys2Proof.Machine
open Sys2Proof

/-! ### Domain reset (R597, R601, R602) -/

/-- The registers of a block of offsets return to their reset values, but for those that `keep` names. -/
def resetRegs (drop : Nat → Bool) (s : State) : State := { s with regs := s.regs.filter fun e => !drop (e.1 / 64) }
/-- A core after a reset that keeps its instruction SRAM. -/
def resetCore (c : Core) : Core := { Core.reset with imem := c.imem }
/-- A sequencer and its field take the domain column of R597. -/
def resetSeqDomain (n : Nat) (s : State) : State :=
  let s := resetRegs (fun o => o / 0x1000 == n && o % 0x1000 != 0x340) s
  let s := updSeq n (fun _ => MSeq.reset) (updCore n resetCore s)
  updField n resetFieldPe { s with verdict := terase s.verdict n, pwrNote := terase s.pwrNote n,
                                   noteMask := terase s.noteMask n, pwrRes := terase s.pwrRes n }
/-- Strip g: flip-flops to INIT, queues emptied, track registers and block outputs cleared. -/
def resetStripLogic (g : Nat) (s : State) : State :=
  updStrip g (fun x => { x with
    ffs := x.coves.foldl (fun t e => tset 0 t e.1 (BitVec.ofNat 64 (cvInit e.2.toNat))) [],
    tracks := [], edgeReg := [], stb := 0, tk := 0, hist := [], pads := [],
    blocks := x.blocks.map fun e =>
      if isQueue (tget 0 x.frames e.1).toNat then (e.1, { emptyQueue e.2 with last := 0 })
      else (e.1, { e.2 with outA := 0, outB := 0, ueA := false, ueB := false }) }) s
/-- The links of a domain. -/
def domLinks (d : Nat) : List Nat := (List.range 10).filter fun j => linkDomain j == d
/-- Link j and its registers return to reset. -/
def resetLink (j : Nat) (s : State) : State :=
  let s := if j < 8 then emptyLinkQueues j s else s
  resetRegs (fun o => decide (linkBase j ≤ o ∧ o < linkBase j + 0x1000)) { s with links := terase s.links j }
/-- What an accepted domain reset does at once (R602). -/
def domainActs (d : Nat) (s : State) : State :=
  if d < 16 then (quadFields d).foldl (fun s n => resetSeqDomain n s) (surveySeal d s)
  else if d < 20 then
    let s := invalidateAll (0x40 + 8 * (d - 16)) s
    { s with hbmFast := terase s.hbmFast (d - 16) }
  else if d < 28 then
    let g := d - 20
    updStrip g (fun x => { x with
      rel := (List.range 16).foldl (fun t r => if (getF s (fFAB_STAT_LOADED g)).testBit r then tput t r 1 else t) x.rel })
      (resetStripLogic g s)
  else if d < 37 then (domLinks d).foldl (fun s j => resetLink j s) s
  else s
/-- Why a domain reset is refused, 0 when it is not (R601). -/
def domRstWhy (s : State) (d : Nat) : Nat :=
  if 40 < d then 1
  else if ¬ domRun s d ∨ (getDom s d).trans.isSome ∨ (getDom s d).slot.isSome then 2
  else if d < 16 ∧ (quadFields d).any (fun f => (partOf s f).isSome) then 3
  else if (domLinks d).any (fun j => bitF s (fLINK_CTL_ENABLE j)) then 4
  else if 20 ≤ d ∧ d < 28 ∧ s.jobs.any (fun j => j.op == 7 && j.phase == .running && ldStrip j == d - 20) then 5
  else if bitF s fDOM_RST_BUSY then 6
  else 0
/-- A write of DOM_RST. -/
def writeDomRst (v en : Nat) (s : State) : State :=
  let s := writeTy .w1c rowDOM_RST 0 0 v en s
  let s := storeF fDOM_RST_DOMAIN v en s
  if onesIn fDOM_RST_GO v en = 1 then
    let d := getF s fDOM_RST_DOMAIN
    let why := domRstWhy s d
    if why = 0 then
      let s := setFs [(fDOM_RST_GO, 1), (fDOM_RST_BUSY, 1)] s
      domainActs d (updDom d (fun x => { x with trans := some ⟨0, 0, .none, 0, [], true, true⟩ }) { s with rstDom := d })
    else setFs [(fDOM_RST_REJ, 1), (fDOM_RST_WHY, why)] s
  else s
/-- DOMAIN_RESET (R601). -/
def execDomainReset (m : BitVec 8) (d : Fin 64) (s : State) : Out :=
  hostCmd m 0x42018 (writeDomRst (d + 2 ^ 8) allBits) s
/-- DOMAIN_RESET_DONE (R602): the reset ends, of a strip after its staged release; what waited in the slot starts. -/
def execDomainResetDone (s : State) : Out :=
  if bitF s fDOM_RST_BUSY then
    let d := s.rstDom
    if 20 ≤ d ∧ d < 28 ∧ resetReaches s (d - 20) ≠ [] then ok s
    else
      let s := setFs [(fDOM_RST_GO, 0), (fDOM_RST_BUSY, 0)] (updDom d (fun x => { x with trans := none }) s)
      let s := ringWaiting d (deliverHeld d s)
      match (getDom s d).slot with
      | some (p, w) =>
        let s := updDom d (fun x => { x with slot := none }) s
        if p = 0 then ok (answerAsker w 0 s) else ok (startTrans d p w s)
      | none => ok s
  else ok s

/-! ### What warm and power-on reset keep (R597) -/

/-- Offsets of the registers that a warm reset keeps: SPARE_MAP, the AON block, FAB_STAT and FAB_CLK, and the Logbooks. -/
def warmKeeps (o : Nat) : Bool :=
  (decide (o < 0x40000) && o % 0x1000 == 0x340) || decide (0x54000 ≤ o ∧ o < 0x55000) ||
  (decide (0x58000 ≤ o ∧ o < 0x60000) && (o % 0x1000 == 0 || decide (0x10 ≤ o % 0x1000 ∧ o % 0x1000 < 0x30))) ||
  (decide (0x200000 ≤ o ∧ o < 0x300000) && o != 0x208808)
/-- The AON registers. -/
def aonReg (o : Nat) : Bool := decide (0x54000 ≤ o ∧ o < 0x55000)
/-- Field values that are no register of their block but fuses: SVN_FUSE, REVOKE and the ordering code. -/
def fuses (s : State) : List (Fld × Nat) :=
  [(fSEC_STAT_SVN_FUSE, getF s fSEC_STAT_SVN_FUSE), (fSEC_STAT_REVOKE, getF s fSEC_STAT_REVOKE),
   (fDEV_ID_ORDER, getF s fDEV_ID_ORDER)]
/-- What has left the part, and what the outside holds, is beyond any reset. -/
def keepOutside (s t : State) : State :=
  { t with pending := s.pending, ticks := s.ticks, fresh := s.fresh, hostTx := s.hostTx, lineTx := s.lineTx,
           pmaTx := s.pmaTx, spdmTx := s.spdmTx, answers := s.answers, flash := s.flash, aonBase := s.aonBase, aonAt := s.aonAt,
           gpioV := s.gpioV, avs := s.avs, tap := s.tap }
/-- Power-on reset: memories, registers and state at their reset values; AON registers and fuses stay (R597, R599). -/
def powerOn (s : State) : State :=
  setFs (fuses s) { keepOutside s State.reset with regs := s.regs.filter (fun e => aonReg (e.1 / 64)), aer := false }
/-- The whole part but the AON domain after a warm reset (R597, R598); what holds until power-on reset stays (R590,
R591). -/
def warmLogic (s : State) : State :=
  let cnt := getF s fRST_CAUSE_WARM_CNT
  let t := { keepOutside s State.reset with
    regs := s.regs.filter (fun e => warmKeeps (e.1 / 64)),
    fields := s.fields.map (fun e => (e.1, resetFieldPe e.2)),
    cores := s.cores.map (fun e => (e.1, resetCore e.2)),
    alm := s.alm, almErr := s.almErr, mem := s.mem, memErr := s.memErr, hbmErr := s.hbmErr, chart := s.chart, chartErr := s.chartErr,
    mer := s.mer, dbgShut := s.dbgShut, dlog := s.dlog, tlogUnread := s.tlogUnread, measures := s.measures, imageOk := s.imageOk,
    strips := s.strips, pins := s.pins }
  let t := (List.range 8).foldl (fun t g => resetStripLogic g t) t
  setFs (fuses s ++ [(fRST_CAUSE_CAUSE, 2), (fRST_CAUSE_WARM_CNT, cnt + 1),
    (fSEC_STAT_LODESTAR_OFF, getF s fSEC_STAT_LODESTAR_OFF)]) t

/-! ### Warm reset (R598) -/

/-- Repair copies under way end and switch: once started, a copy is not abandoned (R77). -/
def endCopies (s : State) : State :=
  s.jobs.foldl (fun s j => if j.op = 0xC ∧ j.phase = .running ∧ j.stage = 2 then spareSwitch (jTarget j) (spareCol j) s else s) s
/-- PERST_N_FALL (R598): a fuse write and the repair copies complete, a flash programming step is abandoned, Survey's regions are restored,
every domain goes to Deep and domain 62 is reset, as soon as V_T is 0.80 V (R632). -/
def execPerstNFall (s : State) : Out :=
  if s.offNow ∨ s.warmWait ∨ getF s fBOOT_STAT_STEP = 0 then ok s
  else
    let s := endCopies (endFuses true s)
    let s := if bitF s fFW_CTL_STAGE then setInactive [] s else s
    let s := (List.range 12).foldl (fun s i => match borrowed s (i / 3) (i % 3) with
      | some b => surveyRestore b s | none => s) s
    let s := { s with jobs := [], fetches := [], heldCqe := [], evtHeld := [], cqHold := false, ringStop := true }
    let s := (List.range 41).foldl (fun s d => setF (fPWR_DOM_STATE d) 3 (setDom d Dom.reset s)) s
    if s.avs.vt = 800 ∧ s.avs.pend = none then ok (warmLogic s)
    else ok { setFs [(fBOOT_STAT_STEP, 0), (fBOOT_STAT_DONE, 0)] s with warmWait := true }

/-! ### Power (R596, R634, R635) -/

/-- PWR_GOOD_FALL (R634): power-on reset is held, and no wake counts that came before. A fuse write it interrupts leaves its
bit as `fused` says. A part that was Off still records wakes (R635). -/
def execPwrGoodFall (fused : Bool) (s : State) : Out :=
  let s := endFuses fused s
  let s := if bitF s fFW_CTL_STAGE then setInactive [] s else s
  ok { powerOn { s with avs := { s.avs with vt := 800, pend := none } } with offNow := s.offNow, pwrLow := true }
/-- AON_POWER_UP (R635): VDD_AON rises from below 0.5 V, and with it the whole part is unpowered state. -/
def execAonPowerUp (s : State) : Out :=
  ok { setFs (fuses s) { keepOutside s State.reset with ticks := 0, aonBase := 0, aonAt := 0 } with
         tap := State.reset.tap, avs := { s.avs with vt := 800, pend := none } }

/-! ### Boot (R599, R603–R606) -/

/-- A TAP instruction that takes the balls holds boot off (R616). -/
def scanHolds (s : State) : Bool := s.tap.balls != 0
/-- BOOT_START (R603): PWR_GOOD rises, the part wakes from Off, or PERST_N is high after a warm reset. -/
def execBootStart (s : State) : Out :=
  if scanHolds s then ok s
  else if s.offNow then
    if s.offWake ∨ s.pwrLow then
      ok (setFs [(fRST_CAUSE_CAUSE, if s.offWake then 3 else 1), (fBOOT_STAT_STEP, 1)] (powerOn s))
    else ok s
  else if s.warmWait ∨ getF s fBOOT_STAT_STEP ≠ 0 then ok s
  else if getF s fRST_CAUSE_CAUSE = 2 then ok (setF fBOOT_STAT_STEP 2 s)
  else ok (setF fBOOT_STAT_STEP 1 { s with pwrLow := false })

def bootFail (why : Nat) (s : State) : State := setFs [(fBOOT_STAT_FAILED, 1), (fBOOT_STAT_FAIL_WHY, why)] s
/-- Step 3 (R580): the preferred slot, else the other with FALLBACK, else boot fails. -/
def bootFirmware (s : State) : State :=
  let p := preferredSlot s.flash
  let good (x : Bool) : Bool := slotValid s (flashImg (if x then s.flash.b else s.flash.a))
  if good p then runImage p (setFs [(fBOOT_STAT_STEP, 4), (fSEC_STAT_FALLBACK, 0)] s)
  else if good (!p) then runImage (!p) (setFs [(fBOOT_STAT_STEP, 4), (fSEC_STAT_FALLBACK, 1)] s)
  else bootFail 1 s
/-- Step 5 (R528): calibration sets the bias of every domain; tables and routes take their boot values. -/
def bootTiles (s : State) : State :=
  (List.range 41).foldl (fun s d =>
    let (k, s) := draw s
    setF (fPWR_DOM_BIAS d) (Config.bodyBias k % 26 * 4) s) s
/-- Step 6 (R368, R605): the stacks train; one that fails is marked and logged. -/
def bootMemories (fail : BitVec 4) (s : State) : State :=
  (List.range 4).foldl (fun s k =>
    if fail.getLsbD k then
      let s := setFs [(fHBM_STAT_READY k, 0), (fHBM_STAT_FAILED k, 1)] s
      devLogM 10 2 0 0xFF (0x40 + 8 * k) k (hbmErrValue s k) s
    else setF (fHBM_STAT_READY k) 1 s) s
/-- The endpoint is configuration-ready, and the host configures it (R318, R322, R604). -/
def configure (c : PcieCfg) (s : State) : State :=
  { s with pcie := { s.pcie with
      mps := 128 * 2 ^ c.mps.val, mrrs := 128 * 2 ^ c.mrrs.val, relaxed := c.relaxed, cto := c.cto.toNat, ctoOff := c.ctoOff,
      bars := c.bars, vfBars := c.vfBars } }
/-- BOOT_STEP_DONE (R603): the step in progress ends and the next begins; step 1 ends when PERST_N is high (R640), and
not while a TAP instruction holds the balls (R616). -/
def execBootStepDone (o : BootObs) (s : State) : Out :=
  if bitF s fBOOT_STAT_FAILED then ok s
  else
    let go (k : Nat) (s : State) : State := setF fBOOT_STAT_STEP k s
    match getF s fBOOT_STAT_STEP with
    | 1 => if scanHolds s then ok s else ok (go 2 s)
    | 2 => if o.pll then ok (go 3 s) else ok (bootFail 2 s)
    | 3 => ok (bootFirmware { s with flash := o.flash.getD s.flash })
    | 4 => ok (go 5 (setF fSEC_STAT_ID_OK (b2n (identityGood (certRegion s))) s))
    | 5 => ok (go 6 (bootTiles s))
    | 6 => ok (go 7 (bootMemories o.hbmFail s))
    | 7 => ok (go 8 (setF (fFUNC_STAT_ENABLED 0) 1 (configure o.cfg s)))
    | 8 =>
      let s := (List.range 41).foldl (fun s d => setF (fPWR_DOM_STATE d) 3 s) s
      ok (setFs [(fBOOT_STAT_STEP, 9), (fBOOT_STAT_DONE, 1), (fBOOT_STAT_BOOT_MS, o.ms.toNat)] s)
    | _ => ok s

/-! ### Supplies (R631, R632) -/

/-- AVS_WRITE (R632): a new target of at most 10 mV change, within 0.65 V to 0.85 V, when none is unacknowledged; from
step 2 of boot on, and toward 0.80 V once PERST_N has fallen. -/
def execAvsWrite (mv : Fin 1024) (s : State) : Out :=
  let v := s.avs.vt
  let near := decide (mv.val ≤ v + 10 ∧ v ≤ mv.val + 10)
  let toward := !s.warmWait || decide ((v ≤ mv.val ∧ mv.val ≤ 800) ∨ (800 ≤ mv.val ∧ mv.val ≤ v))
  if s.avs.pend = none ∧ 650 ≤ mv.val ∧ mv.val ≤ 850 ∧ near ∧ toward ∧ (2 ≤ getF s fBOOT_STAT_STEP ∨ s.warmWait) then
    ok { s with avs := { s.avs with pend := some mv.val, sent := s.avs.sent ++ [mv.val] } }
  else ok s
/-- AVS_ACK (R632): V_T follows; a warm reset that waited for 0.80 V goes on. -/
def execAvsAck (s : State) : Out :=
  match s.avs.pend with
  | some v =>
    let s := { s with avs := { s.avs with vt := v, pend := none } }
    if s.warmWait ∧ v = 800 then ok (warmLogic s) else ok s
  | none => ok s
/-- AVS_RETRY (R632): the value is written again. -/
def execAvsRetry (s : State) : Out :=
  match s.avs.pend with
  | some v => ok { s with avs := { s.avs with sent := s.avs.sent ++ [v] } }
  | none => ok s
/-- VDD_GPIO_RISE (R631): the part senses the level of bank g. -/
def execVddGpioRise (g : Fin 8) (high : Bool) (s : State) : Out :=
  ok { s with gpioV := tput s.gpioV g (if high then 2 else 1) }

end Sys2Proof.Machine
end

