-- ==== Sys2Proof/Machine/Registers.lean ====
section
/-! DEFINITION. The register map as a whole (chapter 21): which register lies at an offset, what a read returns and
clears, what a write does, and the accesses of the host, of the management controller and of line requests (R18–R20,
R324, R550, R562, R570, R620–R625). -/
namespace Sys2Proof.Machine
open Sys2Proof

/-! ### Where the registers lie (R620, R625, R627) -/

/-- What lies at an offset: a register of the tables at instance (i, j), doubleword k of an entry of the device Logbook,
an entry of a route table, or a doubleword of a function's MSI-X table and pending bits. -/
inductive Reg where
  | row (r : RegRow) (i j : Nat)
  | dlog (i k : Nat)
  | route (d b e : Nat)
  | msix (f o : Nat)
  deriving DecidableEq, Repr

/-- The instance of a register at an offset. -/
def rowAt (r : RegRow) (o : Nat) : Option (Nat × Nat) :=
  if o < r.base then none
  else
    let d := o - r.base
    let (i, d) := if r.s1 = 0 then (0, d) else (d / r.s1, d % r.s1)
    let (j, d) := if r.s2 = 0 then (0, d) else (d / r.s2, d % r.s2)
    if i < r.n1 ∧ j < r.n2 ∧ d = 0 then some (i, j) else none
/-- The MSI-X entry at an offset (R625): `bar` is an access through BAR0 of the function `who`. -/
def msixAt (bar : Bool) (who x : Nat) : Option Reg :=
  let place (f x : Nat) : Option Reg := if x < 0x200 ∨ x = 0x800 then some (.msix f x) else none
  if x < 0x1000 then (if bar then (funcOf who).bind fun f => place f x else none)
  else if x / 0x1000 ≤ 64 then place (x / 0x1000 - 1) (x % 0x1000)
  else none
/-- The register at an offset that is a multiple of 8. -/
def regAt (bar : Bool) (who o : Nat) : Option Reg :=
  if 0x200000 ≤ o ∧ o < 0x208000 then some (.dlog ((o - 0x200000) / 32) (o % 32 / 8))
  else if 0x500000 ≤ o ∧ o < 0x600000 then
    some (.route ((o - 0x500000) / 0x1000) (o % 0x1000 / 0x800) (o % 0x800 / 8))
  else if 0x100000 ≤ o ∧ o < 0x180000 then msixAt bar who (o - 0x100000)
  else regRows.findSome? fun r => (rowAt r o).map fun p => .row r p.1 p.2

/-! ### What a read returns -/

/-- MSEQ_LAT (R129). -/
def mseqLat (s : State) (n : Nat) : Nat :=
  match partOf s n with
  | some (_, p) =>
    let span := match shapeClass p with | 1 => 1 | 2 => 2 | _ => 3
    lnH1 p + lnH64 p * 2 ^ 4 + lSnd p * 2 ^ 8 + bDepth p * 2 ^ 12 + 24 * 2 ^ 16 + span * 2 ^ 21
  | none => 0
/-- TUN_STAT (R459). -/
def tunStat (s : State) (j : Nat) : Nat :=
  let l := getLink s j
  storedVal s rowTUN_STAT j 0 + l.tunQ.length + b2n l.tun.isSome * 2 ^ 4
/-- FAB_BLK (R512): COUNT as port B sees it. -/
def fabBlk (s : State) (g k : Nat) : Nat :=
  storedVal s rowFAB_BLK g k + (if isQueue (blkFrame s g k) then (getBlk (if linkB (blkFrame s g k) then linkSees g k true s else s) g k).vis else 0)
/-- CHART_RD_DATA (R386): the stored entry, corrected where it can be. -/
def chartPeek (s : State) : Nat × State :=
  let page := getF s fCHART_RD_INDEX
  let v := tget 0 s.chart page
  let m := tget 0 s.chartErr page
  match popc 6 m.toNat with
  | 0 => (v.toNat, s)
  | 1 => ((v ^^^ m.setWidth 32).toNat, s)
  | 2 => (v.toNat + 2 ^ 32, s)
  | _ =>
    let (d, s) := draw s
    if Config.eccOutcome d < 2 then ((Config.eccData d).toNat % 2 ^ 32, s) else (v.toNat + 2 ^ 32, s)
/-- What a register of the tables reads as, by the identity `who`, before any RC field clears. -/
def rowRead (who : Nat) (r : RegRow) (i j : Nat) (s : State) : Nat × State :=
  match r.name with
  | .mseq_status => (mseqStatus s i, s)
  | .mseq_lat => (mseqLat s i, s)
  | .edge_cfg => (edgeCfgValue s i, s)
  | .edge_status => (edgeStatus s i, s)
  | .halo_stat => (haloStat s i, s)
  | .smode => (smodeValue s i, s)
  | .lane_exc => (laneExc s i j, s)
  | .sflags => (sflagsValue s i, s)
  | .sutor_stat => (sutorStat s i, s)
  | .wp_stat => (wpStat s i, s)
  | .seq_status => (seqStatus s i, s)
  | .park_ctl => (parkCtl s i, s)
  | .rb_sel => if who = 0x40 then (storedVal s r i j, s) else rbSelRead who i s
  | .rb_data => rbHostRead who i s
  | .part_map => (partMap s i, s)
  | .chart_cnt => (chartCnt s i, s)
  | .chart_rd_data => chartPeek s
  | .mer_time => (merNs s % 2 ^ 64, s)
  | .aon_time => (aonNow s % 2 ^ 64, s)
  | .watch_mode => (if 64 ≤ i then 0 else storedVal s r i j, s)
  | .pwr_dom => (if 40 < i then 0 else storedVal s r i j, s)
  | .tun_stat => (tunStat s i, s)
  | .fab_clk => (storedVal s r i j + treeDepth s i j * 2 ^ 16, s)
  | .fab_rb_data => readFabRb i s
  | .fab_blk => (fabBlk s i j, s)
  | .sec_stat => (storedVal s r i j + b2n Config.ownerKey * 2 ^ 25, s)
  | .dev_id => (storedVal s r i j + Config.serial.toNat % 2 ^ 32 * 2 ^ 32, s)
  | .ni_stat | .ni_ecc => (if nodeExists i then storedVal s r i j else 0, s)
  | .stg_conflict => (if masterReserved i then 0 else storedVal s r i j, s)
  | _ => (storedVal s r i j, s)
/-- A read of a target Logbook entry marks it read (R562). -/
def markRead (r : RegRow) (i j : Nat) (s : State) : State :=
  if r.name = .tlog_t0 ∨ r.name = .tlog_t1 then { s with tlogUnread := terase s.tlogUnread (16 * i + j) } else s
/-- Doubleword k of entry i of the device Logbook, as `who` reads it (R550, R562). -/
def dlogRead (s : State) (who i k : Nat) : Nat :=
  match tlook s.dlog i with
  | some e =>
    if pfOrMc who ∨ ((funcOf who).any e.vfs.contains) then
      (match k with | 0 => e.l0 | 1 => e.l1 | 2 => e.l2 | _ => e.l3) % 2 ^ 64
    else 0
  | none => 0
/-- A doubleword of a function's MSI-X table or pending bits (R625). -/
def msixRead (s : State) (f o : Nat) : Nat :=
  if o = 0x800 then ((List.range 32).map fun v => b2n (tget false s.msixPba (32 * f + v)) * 2 ^ v).sum
  else bits (tget msixReset s.msixTab (32 * f + o / 16)).toNat (64 * (o / 8 % 2)) 64
/-- A read of the bits `en` of a register: its value there, and the state after RC fields have cleared. -/
def regRead (who : Nat) (r : Reg) (en : Nat) (s : State) : Nat × State :=
  match r with
  | .row r i j =>
    let (v, s) := rowRead who r i j s
    (v &&& en, markRead r i j (clearRc r i j en s))
  | .dlog i k => (dlogRead s who i k &&& en, s)
  | .route d b e => ((if nodeExists d then routeEntry s d b e else 0) &&& en, s)
  | .msix f o => (msixRead s f o &&& en, s)
/-- A read of RB_DATA that a repair copy holds up (R309), or of RESUME5 before its last Census is in (R114). -/
def regWaits (s : State) (who : Nat) (r : Reg) : Bool :=
  match r with
  | .row r i _ => (r.name == .rb_data && who == 0x80 && masterHalted s i && !rbFault s i && rbWaits s i) ||
      (r.name == .resume5 && recordOpen (getSeq s i))
  | _ => false

/-! ### What a write does -/

/-- A write of GOV_CTL (R539): a limit outside its range stays as it is. -/
def writeGovCtl (v en : Nat) (s : State) : State :=
  let new := newVal s rowGOV_CTL 0 v en
  let s := storeF fGOV_CTL_GOV_EN v en s
  let s := if 400 ≤ bits new 8 10 ∧ bits new 8 10 ≤ 880 then setF fGOV_CTL_PLIM (bits new 8 10) s else s
  if 85 ≤ bits new 24 8 ∧ bits new 24 8 ≤ 120 then setF fGOV_CTL_TLIM (bits new 24 8) s else s
/-- A write of TUN_CMD enqueues a command, or sets FULL (R446). -/
def writeTunCmd (j v en : Nat) (s : State) : State :=
  if en % 2 ^ 32 = 0 then s
  else if 8 ≤ (getLink s j).tunQ.length then setF (fTUN_STAT_FULL j) 1 s
  else
    let c : TunCmd := ⟨getF s (fTUN_LADDR_ADDR j), getF s (fTUN_RADDR_ADDR j), bits v 0 24, v.testBit 24, v.testBit 25⟩
    updLink j (fun l => { l with tunQ := l.tunQ ++ [c] }) s
/-- A write of PWR_DOM (R522, R537): the end of FAULT lets the Anchorage wake the domain. -/
def writePwrDom (d v en : Nat) (s : State) : State :=
  if 40 < d then s
  else
    let was := bitF s (fPWR_DOM_FAULT d)
    let s := writeTy .w1c rowPWR_DOM d 0 v en s
    if was ∧ ¬ bitF s (fPWR_DOM_FAULT d) then anchorWake d s else s
/-- A write of a register of the tables by the identity `who`, or through an I/O port of its sequencer. -/
def rowWrite (port : Bool) (who : Nat) (r : RegRow) (i j v en : Nat) (s : State) : State :=
  match r.name with
  | .seq_ctl => writeSeqCtl port who i v en s
  | .park_ctl => writeParkCtl port i v en s
  | .rb_sel => writeRbSel port who i v en s
  | .hmsg_in => writeHmsgIn port who i v en s
  | .hmsg_out => writeHmsgOut port i v en s
  | .mseq_ctl => writeMseqCtl port i v en s
  | .resume0 | .resume1 | .resume2 | .resume3 | .resume4 | .resume5 | .resume6 | .resume7 => writeResume port r i v en s
  | .edge_cfg => writeEdgeCfg i v en s
  | .halo_stat => writeHaloStat i v en s
  | .lease_map => writeLeaseMap i v en s
  | .scmd => writeScmd port i v en s
  | .smode => writeSmode port i v en s
  | .part_cmd => writePartCmd (bits (v &&& en) 0 2) (bits v 8 6) ⟨bits v 16 2, bits v 18 2, bits v 24 6⟩ s
  | .ring_base => writeRingBase i v en s
  | .ring_cfg => writeRingCfg ((funcOf who).getD 0) i v en s
  | .rg_owner => writeRgOwner i v en s
  | .hbm_seed => writeHbmSeed i v en s
  | .noc_ctl => writeNocCtl v en s
  | .router_ctl => writeRouterCtl i v en s
  | .link_ctl => writeLinkCtl i v en s
  | .lane_cmd => writeLaneCmd i v en s
  | .lane_mode => writeLaneMode i v en s
  | .tun_cmd => writeTunCmd i v en s
  | .fleet_id => writeFleetId v en s
  | .link_wake => writeLinkWake v en s
  | .mer_ctl => writeMerCtl v en s
  | .watch_mode => writeWatchMode i v en s
  | .fab_clk => writeFabClk i j v en s
  | .fab_cap => writeFabCap i v en s
  | .pwr_dom => writePwrDom i v en s
  | .gov_ctl => writeGovCtl v en s
  | .survey_ctl => surveyDisable i (writeRow' r i j v en s)
  | .hbm_recal => writeHbmRecal i v en s
  | .fw_ctl => writeFwCtl v en s
  | .sec_ctl => writeSecCtl v en s
  | .acl_perm => writeAclPerm i j v en s
  | .acl_base => writeAclBase i j v en s
  | .acl_limit => writeAclLimit i j v en s
  | .acl_ctl => writeAclCtl i v en s
  | .dom_rst => writeDomRst v en s
  | _ => writeRow' r i j v en s
/-- A write of a doubleword of a function's MSI-X table (R625): a message that was pending is sent when its entry is
unmasked. Of the vector control only the mask bit is kept. -/
def msixWrite (f o v en : Nat) (s : State) : State :=
  if o = 0x800 then s
  else
    let k := 32 * f + o / 16
    let old := (tget msixReset s.msixTab k).toNat
    let (a, b) := (bits old 0 64, bits old 64 64)
    let upd (x : Nat) : Nat := x - (x &&& en) + (v % 2 ^ 64 &&& en)
    let (a, b) := if o / 8 % 2 = 0 then (upd a, b) else (a, upd b)
    let s := { s with msixTab := tset msixReset s.msixTab k (BitVec.ofNat 128 (a + b % 2 ^ 33 * 2 ^ 64)) }
    if b.testBit 32 = false ∧ tget false s.msixPba k then
      msix f (o / 16) { s with msixPba := terase s.msixPba k }
    else s
/-- A write of the bits `en` of a register. -/
def regWrite (who : Nat) (r : Reg) (v en : Nat) (s : State) : State :=
  match r with
  | .row r i j => rowWrite false who r i j v en s
  | .dlog _ _ => s
  | .route d b e => writeRoute d b e v en s
  | .msix f o => msixWrite f o v en s

/-! ### One access (R324, R570, R620–R623) -/

/-- An access of the bits `en` of the 8 bytes at offset o, by node src under master ID m, as the identity `who`: its
status and the value read. An offset that holds no register reads 0 and is not judged by a table (R324). -/
def regAccess (src m who : Nat) (bar wr : Bool) (o en v : Nat) (s : State) : Nat × Nat × State :=
  match (if hiddenEntry s who wr o then none else regAt bar who o) with
  | none =>
    (match regRoute src m o s with
      | (0, s) =>
        let (st, s) := if bar then (0, s) else emptyJudge m o s
        let (st, s) := regAnswer src m o st s
        (st, 0, s)
      | (st, s) => (st, 0, s))
  | some r =>
    let (st, s) := regGate src m who wr o s
    if st ≠ 0 then (st, 0, s)
    else
      let (x, s) := if wr then (0, regWrite who r v en s) else regRead who r en s
      let (st, s) := regAnswer src m o 0 s
      (st, (if st = 0 then x else 0), s)
/-- The bits of a register that an access of n bytes at o reaches, if its size and alignment are right (R324). -/
def sizeEn (n o : Nat) : Option Nat :=
  if n = 8 ∧ o % 8 = 0 then some allBits
  else if n = 4 ∧ o % 4 = 0 then some (if o % 8 = 0 then 2 ^ 32 - 1 else allBits - (2 ^ 32 - 1))
  else none
/-- The identity behind an access waits for a repair copy or for a record. -/
def accessWaits (s : State) (bar : Bool) (who o : Nat) : Bool :=
  match regAt bar who (o / 8 * 8) with | some r => regWaits s who r | none => false
/-- REGISTER_READ (R18, R324, R620–R622): master m reads n bytes at offset o of the register map: a function through its
BAR0, or the management controller. -/
def execRegisterRead (m : BitVec 8) (o : BitVec 26) (n : Fin 65) (s : State) : Out :=
  let o := o.toNat
  let m := m.toNat
  let bar := m != 0x61
  if ¬ hostReaches s m then ok s
  else match sizeEn n o with
  | none => ok (answer (homeOf m) 0 (List.replicate n 0) 0 s)
  | some en =>
    if accessWaits s bar m o || regHeld s (homeOf m) (o / 8 * 8) then ok s
    else
      let (st, v, s) := regAccess (homeOf m) m m bar false (o / 8 * 8) en 0 s
      ok (answer (homeOf m) (if bar then 0 else st) (leBytes n (v / 2 ^ (8 * (o % 8)))) 0 s)
/-- REGISTER_WRITE (R18, R324, R620–R622): master m writes n bytes at offset o of the register map. -/
def execRegisterWrite (m : BitVec 8) (o : BitVec 26) (n : Fin 65) (v : Word) (s : State) : Out :=
  let o := o.toNat
  let m := m.toNat
  if ¬ hostReaches s m then ok s
  else match sizeEn n o with
  | none => ok s
  | some en =>
    if regHeld s (homeOf m) (o / 8 * 8) then ok s
    else ok (regAccess (homeOf m) m m (m != 0x61) true (o / 8 * 8) en (v.toNat * 2 ^ (8 * (o % 8))) s).2.2

/-! ### Line requests to the register range (R623) -/

/-- The bits of a word that its byte enables reach: all, one aligned half, or none. -/
def beEn (be : Nat) : Nat :=
  if be = 0xFF then allBits else if be = 0x0F then 2 ^ 32 - 1 else if be = 0xF0 then allBits - (2 ^ 32 - 1) else 0
/-- The words of a line from word i on, in ascending order: the first status that is not OK, and the data read. -/
def lineWords (src m : Nat) (wr : Bool) (o : Nat) (en : List Bool) (data : List Byte) :
    List Nat → Nat × List Byte × State → Nat × List Byte × State
  | [], x => x
  | i :: t, (st, d, s) =>
    let e := beEn (((List.range 8).map fun k => b2n (en.getD (8 * i + k) false) * 2 ^ k).sum)
    let (st', x, s) := if e = 0 then (0, 0, s)
      else regAccess src m m false wr (o + 8 * i) e (leNum ((data.drop (8 * i)).take 8)) s
    lineWords src m wr o en data t (if st = 0 then st' else st, d ++ leBytes 8 x, s)
/-- A line request waits while a window holds it (R417) or one of its words waits. -/
def lineWaits (s : State) (src m : Nat) (wr : Bool) (o : Nat) (en : List Bool) : Bool :=
  regHeld s src o || !wr && (List.range 8).any fun i => en.getD (8 * i) false && accessWaits s false m (o + 8 * i)
/-- A line request to the register range: `en` and `data` of the 64 bytes of the line at offset o. -/
def regLine (src m : Nat) (wr : Bool) (o : Nat) (en : List Bool) (data : List Byte) (s : State) : Nat × List Byte × State :=
  lineWords src m wr o en data (List.range 8) (0, [], s)
/-- REGISTER_LINE_REQUEST (R623): the line request of a DMA engine, a word port or a tunnel engine. -/
def execRegisterLineRequest (r : LineReq) (s : State) : Out :=
  let a := 64 * r.line.toNat
  if 0x20000000 ≤ a ∧ a < 0x24000000 then
    let en := (List.range 64).map r.en.getLsbD
    if lineWaits s r.node.toNat r.master.toNat r.write (a - 0x20000000) en then ok s else
    let (st, d, s) := regLine r.node.toNat r.master.toNat r.write (a - 0x20000000) en
      ((List.range 64).map fun i => (r.data >>> (8 * i)).setWidth 8) s
    ok (answer r.node.toNat st (if r.write then [] else d) 0 s)
  else ok s

/-- Bytes of a line in the middle of the map: an access of a few bytes, as enables and data of its whole line. -/
def widen (a : Nat) (en : List Bool) (data : List Byte) : List Bool × List Byte :=
  let k := a % 64
  (List.replicate k false ++ en ++ List.replicate (64 - k - en.length) false,
   List.replicate k 0 ++ data ++ List.replicate (64 - k - data.length) 0)
/-- One request of an NI to whatever lies at its address (R361, R623): a memory, or the register range. -/
def anyAccess (src m : Nat) (wr : Bool) (a : Nat) (en : List Bool) (data : List Byte) (s : State) : Resp × State :=
  if 0x20000000 ≤ a ∧ a < 0x24000000 then
    let (e, d) := widen a en data
    let o := (a - 0x20000000) / 64 * 64
    if lineWaits s src m wr o e then (.wait, s) else
    let (st, x, s) := regLine src m wr o e d s
    (.done st (if wr then [] else (x.drop (a % 64)).take en.length), s)
  else nocAccess src m wr a en data s

end Sys2Proof.Machine
end

