-- ==== Sys2Proof/Machine/Ports.lean ====
section
/-! DEFINITION. The I/O space of a sequencer: the register window, the watch ports and the power-request ports (R275,
R306–R309, R481, R536, R626). -/
namespace Sys2Proof.Machine
open Sys2Proof

/-- The register that a port of the window reaches (R306): SUTOR_RES and SEQ_ECC have none (R561). -/
def portRow (n p : Nat) : Option (RegRow × Nat × Nat) :=
  if p ≤ 0xAF then
    match regAt false 0x40 (0x1000 * n + 8 * p) with
    | some (.row r i j) => some (r, i, j)
    | _ => none
  else none
/-- A port that first waits for every outstanding ACALL (R307). -/
def portWaits (s : State) (n p : Nat) : Bool :=
  decide (0x48 ≤ p ∧ p ≤ 0xAF) || (p == 4 && decide (getF s (fRB_SEL_KIND n) ≤ 7))
/-- The bits of PWR_NOTE and NOTE_MASK (R536). -/
def noteBits : Nat := 2 ^ 41 - 1 + 2 ^ 48
/-- The value read from a port, and the state after the read; `none`: the port is unassigned. -/
def portRead (n p : Nat) (s : State) : Option (Nat × State) :=
  match p with
  | 0x0200 | 0x0240 => some (0, s)
  | 0x0201 => some (storedVal s rowWATCH_STAT n 0, s)
  | 0x0202 => some (merNs s % 2 ^ 64, s)
  | 0x0203 => some (storedVal s rowWATCH_MODE n 0, s)
  | 0x0204 => some (storedVal s rowWATCH_NEXT n 0, s)
  | 0x0241 => some (tget 0 s.pwrRes n % 32, s)
  | 0x0242 => some (tget 0 s.pwrNote n, { s with pwrNote := terase s.pwrNote n })
  | 0x0243 => some (tget 0 s.noteMask n, s)
  | _ =>
    match portRow n p with
    | some (r, i, j) =>
      if p = 4 then some (rbRead n s)
      else
        let (v, s) := regRead 0x40 (.row r i j) allBits s
        some (v, if p = 5 then setF (fSEQ_STATUS_MSG_FULL n) 0 s else s)
    | none => none
/-- What a write to a port does; `none`: the port is unassigned. -/
def portWrite (n p : Nat) (v : Word) (s : State) : Option State :=
  match p with
  | 0x0200 => some (wDone n s)
  | 0x0201 => some (writeRow' rowWATCH_STAT n 0 v.toNat allBits s)
  | 0x0203 => some (writeWatchMode n v.toNat allBits s)
  | 0x0202 | 0x0204 | 0x0241 | 0x0242 => some s
  | 0x0240 => some (pwrReq n v s)
  | 0x0243 => some { s with noteMask := tset 0 s.noteMask n (v.toNat &&& noteBits) }
  | _ => (portRow n p).map fun (r, i, j) => rowWrite true 0x40 r i j v.toNat allBits s

/-- The port an IN or OUT names (R275). -/
def portOf (s : State) (n : Nat) (o : BOp) : Nat := (regOf s n o.rs + immS o).toNat
def badPort (p : Nat) (s : State) : OpRes := .trap s 2 0 0 (bad32 p) 0
/-- IN: the port is read into rd once its wait has ended; RB_DATA faults on what it may not return and waits for a
repair copy (R307, R309), and RESUME5 waits for a Census that has still to enter the record (R114). -/
def inOp (n : Nat) (o : BOp) (s : State) : OpRes :=
  let p := portOf s n o
  let go (s : State) : OpRes :=
    if p = 4 ∧ rbFault s n then badPort p s
    else if p = 4 ∧ rbWaits s n ∨ p = 0x85 ∧ recordOpen (getSeq s n) then .stall s
    else match portRead n p s with
      | some (v, s) => wrote n o.rd (BitVec.ofNat 64 v) s
      | none => badPort p s
  if 0xFFFF < p ∨ (portRead n p s).isNone then badPort p s
  else if portWaits s n p then afterAcalls n go s else go s
/-- OUT: the port is written with rd once its wait has ended. SCMD and SMODE are written at once while STATE is IDLE,
YIELDED or TRAPPED (R184). -/
def outOp (n : Nat) (o : BOp) (s : State) : OpRes :=
  let p := portOf s n o
  let go (s : State) : OpRes :=
    match portWrite n p (regOf s n o.rd) s with
    | some s => .done s none
    | none => badPort p s
  if 0xFFFF < p ∨ (portWrite n p 0 s).isNone then badPort p s
  else if portWaits s n p ∧ ¬ ((p = 0xA0 ∨ p = 0xA1) ∧ quiet s n) then afterAcalls n go s else go s
/-- IN (R307). -/
def execInPort (n : Fin 64) (e : CoreErr) (s : State) : Out :=
  ok (runWord n .inPort (fun o _ s => inOp n o s) e s)
/-- OUT (R307). -/
def execOutPort (n : Fin 64) (e : CoreErr) (s : State) : Out :=
  ok (runWord n .outPort (fun o _ s => outOp n o s) e s)
/-- PWR_REQ (R536): the image of a running core writes PWR_REQ through its port. -/
def execPwrReq (n : Fin 64) (v : Word) (s : State) : Out :=
  if coreHalted s n then ok s else ok (pwrReq n v s)

end Sys2Proof.Machine
end

