-- ==== Sys2Proof/Machine/Tunnel.lean ====
section
/-! DEFINITION. The tunnel engines of the fleet links (R446–R449, R451, R454, R459). -/
namespace Sys2Proof.Machine
open Sys2Proof

/-! ### Packets (R448) -/

/-- The node of link j and the master ID of its engine (R392, R566). -/
def tunMaster (j : Nat) : Nat := if j < 8 then 0x58 + j else 0x60
/-- The three data flits that hold 64 bytes: 0–27, 28–55 and 56–63. -/
def dataFlits (chan : Nat) (d : List Byte) : List Flit :=
  [mkFlit 2 chan false (leNum (d.take 28)), mkFlit 2 chan false (leNum ((d.drop 28).take 28)),
   mkFlit 2 chan true (leNum ((d.drop 56).take 8))]
/-- A request packet: address RADDR[39:6], OP, TID and byte enables; the data of a write. -/
def tunRequest (wr : Bool) (raddr tid : Nat) (en : List Bool) (d : List Byte) : List Flit :=
  let be := ((List.range 64).map fun i => b2n (en.getD i false) * 2 ^ i).sum
  let head := raddr / 64 % 2 ^ 34 + b2n wr * 2 ^ 34 + tid * 2 ^ 36 + be * 2 ^ 42
  mkFlit 2 0 (!wr) head :: (if wr then dataFlits 0 d else [])
/-- A response packet: STATUS, TID, and for a read POISON and the data. -/
def tunResponse (rd : Bool) (st tid po : Nat) (d : List Byte) : List Flit :=
  mkFlit 2 1 (!rd) (st + tid * 2 ^ 4 + b2n rd * 2 ^ 10 + (if rd then po * 2 ^ 11 else 0)) :: (if rd then dataFlits 1 d else [])
/-- The first whole packet of a TUNNEL channel among received flits, and the flits without it. -/
def splitPacket (chan : Nat) : List Flit → Option (List Flit × List Flit)
  | [] => none
  | f :: t =>
    if f.cls = 2 ∧ f.chan.toNat = chan then
      if f.last then some ([f], t)
      else (splitPacket chan t).map fun (p, r) => (f :: p, r)
    else (splitPacket chan t).map fun (p, r) => (p, f :: r)
/-- The 64 bytes of a packet's data flits. -/
def packetData (p : List Flit) : List Byte :=
  let f (i : Nat) : Nat := match p[i]? with | some x => x.p.toNat | none => 0
  leBytes 28 (f 1) ++ leBytes 28 (f 2) ++ leBytes 8 (f 3)
def sendFlits (j : Nat) (fs : List Flit) (s : State) : State := fs.foldl (fun s f => sendFlit j f s) s

/-! ### Commands (R446, R447) -/

/-- TUNNEL_COMMAND (R446): master m writes TUN_CMD. -/
def execTunnelCommand (m : BitVec 8) (j : Fin 10) (v : Word) (s : State) : Out :=
  hostCmd m (linkBase j + 0x210) (writeTunCmd j v.toNat allBits) s
/-- The running command of link j completes with a status (R447, R454, R459). -/
def completeTun (j st : Nat) (s : State) : State :=
  match (getLink s j).tun with
  | some t =>
    let s := incF (fTUN_STAT_DONE j) 1 (updLink j (fun l => { l with tun := none }) s)
    let k := getF s (fTUN_STAT_DONE j)
    let s := if st ≠ 0 ∧ st ≠ 11 ∧ ¬ bitF s (fTUN_STAT_ERR j) then
        setFs [(fTUN_STAT_ERR j, 1), (fTUN_STAT_STATUS j, st), (fTUN_STAT_CMDNO j, k)] s else s
    if t.cmd.evt then linkEvent j (8 + k * 2 ^ 32 + st * 2 ^ 48) s else s
  | none => s
/-- A TID that no outstanding request has. -/
def freeTid (t : TunRun) : Nat := ((List.range 64).find? fun k => t.out.all fun o => o.1 != k).getD 0
/-- The next line of the running command is requested: a local read, and a write to the peer; or a read from the
peer. `false`: none is, or its local read waits. -/
def issueLine (j : Nat) (s : State) : Bool × State :=
  match (getLink s j).tun with
  | some t =>
    if t.begun ∧ t.fail = none ∧ t.next < t.cmd.len ∧ t.out.length < 64 ∧ linkActive s j then
      let ra := t.cmd.raddr + t.next
      let k := min (t.cmd.len - t.next) (64 - ra % 64)
      let en := List.replicate (ra % 64) false ++ List.replicate k true
      let tid := freeTid t
      let sent (fs : List Flit) (s : State) : Bool × State :=
        (true, sendFlits j fs (updLink j (fun l => { l with
          tun := some { t with next := t.next + k, out := t.out ++ [(tid, t.next, k)] } }) s))
      if t.cmd.dir then sent (tunRequest false ra tid en []) s
      else match anyAccess (linkNode j) (tunMaster j) false (t.cmd.laddr + t.next) (List.replicate k true) [] s with
        | (.wait, s) => (false, s)
        | (.done 0 d _, s) => sent (tunRequest true ra tid en (List.replicate (ra % 64) 0 ++ d)) s
        | (.done st _ _, s) => (false, updLink j (fun l => { l with tun := some { t with fail := some st } }) s)
    else (false, s)
  | none => (false, s)
/-- Requests are issued while there are lines to request, up to 64 outstanding. -/
def issueLines (j : Nat) : Nat → State → State
  | 0, s => s
  | n + 1, s =>
    let (more, s) := issueLine j s
    if more then issueLines j n s else s
/-- The link's domain drains for a Dusk (R451). -/
def draining (s : State) (j : Nat) : Bool :=
  match (getDom s (linkDomain j)).trans with | some t => t.phase == 2 | none => false
/-- The engine takes a command and checks it. -/
def takeTun (j : Nat) (c : TunCmd) (s : State) : State :=
  let s := updLink j (fun l => { l with tunQ := l.tunQ.tail, tun := some ⟨c, linkActive s j, 0, [], none⟩ }) s
  if c.len = 0 then completeTun j 11 s
  else if c.laddr % 64 ≠ c.raddr % 64 ∨ 2 ^ 40 < c.raddr + c.len then completeTun j 8 s
  else issueLines j 64 s
/-- TUNNEL_START (R447): the engine of link j takes its next command and checks it; a command that waited begins when
the link is ACTIVE, and one whose local reads waited goes on. -/
def execTunnelStart (j : Fin 10) (s : State) : Out :=
  if domRun s (linkDomain j) then
    match (getLink s j).tun, (getLink s j).tunQ with
    | none, c :: _ => if draining s j then ok s else ok (takeTun j c s)
    | none, [] => ok s
    | some t, _ =>
      if linkActive s j then
        ok (issueLines j 64 (updLink j (fun l => { l with tun := some { t with begun := true } }) s))
      else ok s
  else ok s
/-- TUNNEL_WAIT_TIMEOUT (R447). -/
def execTunnelWaitTimeout (j : Fin 10) (s : State) : Out :=
  match (getLink s j).tun with
  | some t => if ¬ t.begun ∧ ¬ linkActive s j then ok (completeTun j 7 s) else ok s
  | none => ok s
/-- TUNNEL_COMMAND_DONE (R447): every request has been answered. -/
def execTunnelCommandDone (j : Fin 10) (s : State) : Out :=
  match (getLink s j).tun with
  | some t =>
    if t.out = [] ∧ t.begun ∧ (t.fail.isSome ∨ t.cmd.len ≤ t.next) then ok (completeTun j (t.fail.getD 0) s) else ok s
  | none => ok s

/-! ### Packets that arrive (R448, R449) -/

/-- A request packet has been taken: its credit will return (R433). -/
def tookRequest (j : Nat) (rest : List Flit) (s : State) : State :=
  updLink j (fun l => { l with rxq := rest, tqGiven := l.tqGiven - 1 }) s
/-- TUNNEL_REQUEST (R449): the next request of the peer is refused, or injected and answered. -/
def execTunnelRequest (j : Fin 10) (s : State) : Out :=
  match splitPacket 0 (getLink s j).rxq with
  | some (p, rest) =>
    let h := (p.headD (mkFlit 0 0 false 0))
    let wr := pBits h 34 2 = 1
    let tid := pBits h 36 6
    let en := (List.range 64).map fun i => pBits h (42 + i) 1 == 1
    if ¬ bitF s (fLINK_CTL_TUN_IN j) then
      ok (sendFlits j (tunResponse (!wr) 1 tid 0 (List.replicate 64 0)) (tookRequest j rest s))
    else match anyAccess (linkNode j) (tunMaster j) wr (64 * pBits h 0 34) en (packetData p) s with
      | (.wait, s) => ok s
      | (.done st d po, s) => ok (sendFlits j (tunResponse (!wr) st tid po d) (tookRequest j rest s))
  | none => ok s
/-- The answer to an outstanding request is in. -/
def tunAnswered (j tid st : Nat) (s : State) : State :=
  updLink j (fun l => { l with tun := l.tun.map fun t =>
    { t with out := t.out.filter fun o => o.1 != tid,
             fail := if t.fail = none ∧ st ≠ 0 then some st else t.fail } }) s
/-- TUNNEL_RESPONSE (R447, R448): the next response of the peer arrives; the data of a read go to local memory, and
further requests are issued. -/
def execTunnelResponse (j : Fin 10) (s : State) : Out :=
  match splitPacket 1 (getLink s j).rxq with
  | some (p, rest) =>
    let h := (p.headD (mkFlit 0 0 false 0))
    let st := pBits h 0 4
    let tid := pBits h 4 6
    let took (s : State) : State := updLink j (fun l => { l with rxq := rest, tsGiven := l.tsGiven - 1 }) s
    match (getLink s j).tun with
    | some t =>
      match t.out.find? (fun o => o.1 == tid) with
      | some (_, o, k) =>
        if t.cmd.dir ∧ st = 0 then
          let d := ((packetData p).drop ((t.cmd.raddr + o) % 64)).take k
          match anyAccess (linkNode j) (tunMaster j) true (t.cmd.laddr + o) (List.replicate k true) d s with
          | (.wait, s) => ok s
          | (.done st _ _, s) => ok (issueLines j 64 (tunAnswered j tid st (took s)))
        else ok (issueLines j 64 (tunAnswered j tid st (took s)))
      | none => ok (took s)
    | none => ok (took s)
  | none => ok s

end Sys2Proof.Machine
end

