-- ==== Sys2Proof/Machine/WordPort.lean ====
section
/-! DEFINITION. The word ports: lane words between a field's slices and the NoC (R199–R203). -/
namespace Sys2Proof.Machine
open Sys2Proof

/-- The bytes of element k of an outbound transfer: lane k mod 64 of slice ⌊k / 64⌋, its low bytes. -/
def wpElem (x : Field) (t : WpRun) (k : Nat) : List Byte :=
  let w := if t.srcTo then tget 0 (getSlice x (k / 64)).tob (k % 64) else laneWord (fillA x t.bank) (k / 64) (k % 64)
  leBytes t.esize w.toNat
/-- The 64 bytes of an outbound transfer from byte p on. -/
def wpLine (x : Field) (t : WpRun) (p : Nat) : List Byte :=
  (List.range (64 / t.esize)).flatMap fun i => wpElem x t (p / t.esize + i)
/-- The first error of a transfer: its status and field (R201). -/
def wpError (n f st : Nat) (s : State) : State :=
  if bitF s (fWP_STAT_ERR n) then s
  else setFs [(fWP_STAT_ERR n, 1), (fWP_STAT_STATUS n, st), (fWP_STAT_FIELD n, f)] s
/-- The request for the line at byte p of the transfer of field f. -/
def wpRequest (f : Nat) (t : WpRun) (p : Nat) (s : State) : Resp × State :=
  anyAccess f t.n (!t.inward) (t.addr + p) (List.replicate 64 true) (if t.inward then [] else wpLine (getField s f) t p) s
/-- Bytes an inbound transfer has read, at byte p. -/
def putBytes (l : List Byte) (p : Nat) (d : List Byte) : List Byte :=
  let l := l ++ List.replicate (p - l.length) 0
  l.take p ++ d ++ l.drop (p + d.length)
/-- The lines of the transfer of field f go in order; the answer is the status of the first that fails, 0 when none
does, and `none` when a line waits for its domain. -/
def wpLines (f : Nat) : Nat → State → Option Nat × State
  | 0, s => (some 0, s)
  | k + 1, s =>
    match (getField s f).wp with
    | none => (some 0, s)
    | some t =>
      if 16384 * t.esize ≤ t.pos then (some 0, s)
      else match wpRequest f t t.pos s with
        | (.wait, s) => (none, s)
        | (.done 0 d _, s) => wpLines f k (updField f (fun x => { x with
            wp := some { t with pos := t.pos + 64, got := if t.inward then putBytes t.got t.pos d else [] } }) s)
        | (.done st _ _, s) => (some st, wpError t.n f st s)
/-- Lines that were outstanding behind the failing one return too (R201). -/
def wpLate (f : Nat) (late : BitVec 64) (s : State) : State :=
  (List.range 64).foldl (fun s i =>
    if late.getLsbD i then
      match (getField s f).wp with
      | some t =>
        let p := t.pos + 64 * (i + 1)
        if 16384 * t.esize ≤ p then s
        else match wpRequest f t p s with
          | (.done 0 d _, s) =>
            if t.inward then updField f (fun x => { x with wp := some { t with got := putBytes t.got p d } }) s else s
          | (_, s) => s
      | none => s
    else s) s
/-- An inbound transfer has loaded TO: lanes it did not fill are 0 (R194, R199, R201). -/
def wpFill (f : Nat) (t : WpRun) (s : State) : State :=
  let word (k : Nat) : Word := BitVec.ofNat 64 (leNum ((t.got.drop (k * t.esize)).take t.esize))
  let s := updField f (fun x => (List.range 256).foldl (fun x sl => setSlice sl { getSlice x sl with
    tob := (List.range 64).foldl (fun tb l => tset 0 tb l (word (64 * sl + l))) [] } x) x) s
  updSeq t.n (fun q => { q with opt := 0, undrained := some 0 }) s
/-- WP_TRANSFER_END (R200, R201): the transfer of field f runs to its end; `late` names the lines after a failing one
that were outstanding with it and returned. While a line waits for its domain the transfer goes on running. -/
def execWpTransferEnd (f : Fin 64) (late : BitVec 64) (s : State) : Out :=
  match wpLines f 2049 s with
  | (none, s) => ok s
  | (some st, s) =>
    let s := if st = 0 then s else wpLate f late s
    match (getField s f).wp with
    | some t =>
      let s := if t.inward then wpFill f t s else s
      ok (updField f (fun x => { x with wp := none }) s)
    | none => ok s

end Sys2Proof.Machine
end

