-- ==== Sys2Proof/Machine/Dma.lean ====
section
/-! DEFINITION. The DMA engines: transfers, host reads and the loads (R120–R122, R340, R341, R378, R381, R382). -/
namespace Sys2Proof.Machine
open Sys2Proof

/-! ### Engines -/

/-- The descriptor that engine e holds. -/
def engineJob (s : State) (e : Nat) : Option Job := runningJob s fun j => j.eng == some e
/-- The bytes a descriptor moves or reads from its source. -/
def moveLen (j : Job) : Nat :=
  match j.op with
  | 5 => 16 * dBits j 3 0 14
  | 6 => 4 * dBits j 3 0 15
  | 0xB => 4 * dBits j 3 0 22
  | _ => dBits j 3 0 32
/-- The bytes of its source that have been read. -/
def gotBytes (j : Job) : Nat := j.pos + j.data.length
/-- A failed request; the one with the lowest offset counts, and host reads from its offset on no longer matter (R340). -/
def failMove (id st side off : Nat) (s : State) : State :=
  updJob id (fun j =>
    let low := match j.fail with | some (_, _, c) => decide (off < c) | none => true
    if low then { j with fail := some (st, side, off), reads := j.reads.filter fun r => decide (r.off < off) } else j) s
/-- The next source bytes have arrived; of a load they are what DONE counts (R389). -/
def gotData (id : Nat) (d : List Byte) (s : State) : State :=
  let s := updJob id (fun j => { j with data := j.data ++ d }) s
  match findJob s id with
  | some j =>
    if [5, 6, 7, 0xB].contains j.op then (match j.eng with | some e => incF (fDMA_STAT_DONE e) d.length s | none => s) else s
  | none => s
/-- k bytes have reached the destination. -/
def sentData (id k : Nat) (s : State) : State :=
  let s := updJob id (fun j => { j with pos := j.pos + k, data := j.data.drop k }) s
  match findJob s id with
  | some j => (match j.eng with | some e => incF (fDMA_STAT_DONE e) k s | none => s)
  | none => s
/-- A request of the engine that holds a descriptor (R381, R382). -/
def engineAccess (j : Job) (wr : Bool) (a : Nat) (k : Nat) (data : List Byte) (s : State) : Resp × State :=
  anyAccess (0x80 + j.eng.getD 0) (0x80 + j.func) wr a (List.replicate k true) data s

/-- Source lines at NoC address `src` are read in ascending order until all are in or one fails. `false`: a line waits
for its domain. -/
def gather (id src : Nat) : Nat → State → Bool × State
  | 0, s => (true, s)
  | n + 1, s =>
    match findJob s id with
    | none => (true, s)
    | some j =>
      let got := gotBytes j
      if j.fail.isSome ∨ moveLen j ≤ got then (true, s)
      else
        let k := min (moveLen j - got) (64 - (src + got) % 64)
        match engineAccess j false (src + got) k [] s with
        | (.wait, s) => (false, s)
        | (.done 0 d _, s) => gather id src n (gotData id d s)
        | (.done st _ _, s) => (true, failMove id st 0 got s)
/-- Bytes on hand go to NoC address `dst` line by line; a line that more data will fill is kept unless `all`. -/
def flush (all : Bool) (id dst : Nat) : Nat → State → Bool × State
  | 0, s => (true, s)
  | n + 1, s =>
    match findJob s id with
    | none => (true, s)
    | some j =>
      let bad : Bool := match j.fail with | some (_, _, off) => decide (off ≤ j.pos) | none => false
      let room := 64 - (dst + j.pos) % 64
      if bad || j.data.isEmpty || (!all && decide (j.data.length < min room (moveLen j - j.pos))) then (true, s)
      else
        let k := min j.data.length room
        match engineAccess j true (dst + j.pos) k (j.data.take k) s with
        | (.wait, s) => (false, s)
        | (.done 0 _ _, s) => flush all id dst n (sentData id k s)
        | (.done st _ _, s) => (true, failMove id st 0 j.pos s)
/-- Posted data writes to host memory, cut at every 4 KiB boundary and at the max payload size (R318, R382). -/
def hostPieces (func : Nat) : Nat → Nat → List Byte → State → State
  | 0, _, _, s => s
  | n + 1, a, d, s =>
    if d = [] then s
    else
      let k := max 1 (min s.pcie.mps (4096 - a % 4096))
      hostPieces func n (a + k) (d.drop k) { s with hostTx := s.hostTx ++ [⟨func, a, d.take k, s.pcie.relaxed⟩] }
def hostStore (func a : Nat) (d : List Byte) (s : State) : State := hostPieces func (d.length + 1) a d s

/-! ### What a failed transfer leaves behind (R340) -/

/-- Free bytes. -/
def freeBytes (k : Nat) (s : State) : List Byte × State :=
  let (d, s) := draw s
  ((List.range k).map (Config.lateByte d), s)
/-- Requests that were outstanding with the failing one write unspecified bytes at and after the failing offset `off`:
`late` names the 64-byte lines of the transfer from there on. -/
def lateNoc (j : Job) (dst len off : Nat) (late : BitVec 64) (s : State) : State :=
  (List.range 64).foldl (fun s i =>
    let o := if i = 0 then off else off + 64 * i - (dst + off) % 64
    let k := min (64 - (dst + o) % 64) (len - o)
    if late.getLsbD i ∧ o < len then
      let (d, s) := freeBytes k s
      (engineAccess j true (dst + o) k d s).2
    else s) s
def lateHost (j : Job) (dst len off : Nat) (late : BitVec 64) (s : State) : State :=
  (List.range 64).foldl (fun s i =>
    let o := off + 64 * i
    let k := min 64 (len - o)
    if late.getLsbD i ∧ o < len then
      let (d, s) := freeBytes k s
      hostStore j.func (dst + o) d s
    else s) s
/-- DETAIL of a failed transfer. -/
def failDetail (side off : Nat) : Nat := off % 2 ^ 31 + side * 2 ^ 31

/-! ### DMA_IN, DMA_OUT and COPY (R340) -/

/-- The check of LEN. -/
def startMove (r : Fin 8192) (op : Nat) (s : State) : Out :=
  startOp r op (fun j s => if 2 ^ 31 < moveLen j then badParam 1 j s else runJob j 0 s) s
/-- DMA_IN. -/
def execDmaIn (r : Fin 8192) (s : State) : Out := startMove r 2 s
/-- DMA_OUT. -/
def execDmaOut (r : Fin 8192) (s : State) : Out := startMove r 3 s
/-- COPY: its ranges must not overlap. -/
def execCopy (r : Fin 8192) (s : State) : Out :=
  startOp r 4 (fun j s =>
    let a := dBits j 1 0 48
    let b := dBits j 2 0 48
    if 2 ^ 31 < moveLen j then badParam 1 j s
    else if a < b + moveLen j ∧ b < a + moveLen j then badParam 2 j s
    else runJob j 0 s) s
/-- The source of a running descriptor is host memory. -/
def fromHost (j : Job) : Bool := j.op == 2 || ([5, 6, 7, 0xB].contains j.op && j.stage == 0 && dBits j 4 0 1 == 0)
/-- The host address that the source of a descriptor starts at. -/
def hostSource (j : Job) : Nat := dBits j 1 0 64
/-- A host read whose data has not all arrived. -/
def HostRd.open (r : HostRd) : Bool := decide (r.got.length < r.len)
/-- The host reads of a descriptor, once its engine has issued what it may (R382): in ascending offset, each within one
4 KiB page of the host and the max read request size, 32 outstanding, none after a failure. -/
def issueReads (mrrs : Nat) (j : Job) : Nat → List HostRd → List HostRd
  | 0, l => l
  | fuel + 1, l =>
    let at' := match l.getLast? with | some r => r.off + r.len | none => gotBytes j
    if 32 ≤ (l.filter HostRd.open).length ∨ moveLen j ≤ at' ∨ j.fail.isSome then l
    else
      let a := hostSource j + at'
      issueReads mrrs j fuel (l ++ [⟨at', max 1 (min (moveLen j - at') (min mrrs (4096 - a % 4096))), []⟩])
def hostReads (s : State) (j : Job) : List HostRd := issueReads s.pcie.mrrs j 32 j.reads
/-- The descriptor whose source engine e reads from the host, and the i-th of its host reads that are outstanding. -/
def hostReading (s : State) (e i : Nat) : Option (Job × HostRd) :=
  match engineJob s e with
  | some j => if fromHost j then ((hostReads s j).filter HostRd.open)[i]?.map fun r => (j, r) else none
  | none => none
/-- Reads that are whole, and with nothing missing before them, pass into the bytes in hand. -/
def takeReads (id : Nat) : Nat → State → State
  | 0, s => s
  | fuel + 1, s =>
    match findJob s id with
    | some j =>
      (match j.reads with
        | r :: t => if r.open then s else takeReads id fuel (gotData id r.got (updJob id (fun j => { j with reads := t }) s))
        | [] => s)
    | none => s
/-- HOST_READ_COMPLETION (R340, R382): data of outstanding host read i of engine e arrives, or the status that ends it;
the lines of a DMA_IN that are whole go to their destination. -/
def execHostReadCompletion (e : Fin 16) (i : Fin 32) (x : HostRead) (s : State) : Out :=
  match hostReading s e i with
  | some (j, r) =>
    let s := updJob j.id (fun j => { j with reads := hostReads s j }) s
    let bad (st : Nat) : Out := ok (failMove j.id st 1 r.off s)
    match x with
    | .data d =>
      if r.got.length + d.length ≤ r.len then
        let s := updJob j.id (fun j => { j with
          reads := j.reads.map fun q => if q.off = r.off then { q with got := q.got ++ d } else q }) s
        let s := takeReads j.id ((hostReads s j).length + 1) s
        if j.op = 2 then ok (flush false j.id (dBits j 2 0 48) (moveLen j / 64 + 3) s).2 else ok s
      else ok s
    | .unsupported => bad 3
    | .abort => bad 1
    | .poisoned => bad 4
  | none => ok s
/-- HOST_READ_TIMEOUT (R318, R340): host read i of engine e times out; never with Completion Timeout Disable. -/
def execHostReadTimeout (e : Fin 16) (i : Fin 32) (s : State) : Out :=
  match hostReading s e i with
  | some (j, r) =>
    if s.pcie.ctoOff then ok s
    else ok (failMove j.id 6 1 r.off (updJob j.id (fun j => { j with reads := hostReads s j }) s))
  | none => ok s
/-- A transfer whose requests have all returned completes. -/
def endMove (id : Nat) (late : BitVec 64) (s : State) : State :=
  match findJob s id with
  | none => s
  | some j =>
    match j.fail with
    | none => if j.pos = moveLen j ∧ j.data = [] then completeJob id 0 0 s else s
    | some (st, side, off) =>
      if j.reads ≠ [] then s
      else
      let s := if j.op = 3 then lateHost j (dBits j 1 0 64) (moveLen j) off late s
        else lateNoc j (dBits j 2 0 48) (moveLen j) off late s
      completeJob id st (failDetail side off) s
/-- The bytes of a DMA_OUT that have been read leave for the host. -/
def sendOut (id : Nat) (s : State) : State :=
  match findJob s id with
  | some j => sentData id j.data.length (hostStore j.func (dBits j 1 0 64 + j.pos) j.data s)
  | none => s
/-- DMA_TRANSFER_END (R340): what engine e still has to move is moved, and the transfer completes. -/
def execDmaTransferEnd (e : Fin 16) (late : BitVec 64) (s : State) : Out :=
  match engineJob s e with
  | none => ok s
  | some j =>
    let fuel := moveLen j / 64 + 3
    match j.op with
    | 2 =>
      let (go, s) := flush j.fail.isSome j.id (dBits j 2 0 48) fuel s
      if go then ok (endMove j.id late s) else ok s
    | 3 =>
      let (go, s) := gather j.id (dBits j 2 0 48) fuel s
      if go then ok (endMove j.id late (sendOut j.id s)) else ok s
    | 4 =>
      let (go, s) := gather j.id (dBits j 1 0 48) fuel s
      if go then
        let (go, s) := flush true j.id (dBits j 2 0 48) fuel s
        if go then ok (endMove j.id late s) else ok s
      else ok s
    | _ => ok s

/-! ### Loads (R120–R122, R125, R341, R378, R584) -/

/-- The target of an ALMANAC_LOAD is quiesced (R120). -/
def loadQuiesced (s : State) (n : Nat) : Bool :=
  let st := (getSeq s n).state
  coreHalted s n && (getSeq s n).stop.isNone &&
    (st == .unassigned || st == .follower || st == .idle || st == .yielded || st == .trapped)
/-- ALMANAC_LOAD (R120). -/
def execAlmanacLoad (r : Fin 8192) (s : State) : Out :=
  startOp r 5 (fun j s =>
    if ¬ loadQuiesced s (jTarget j) then badParam 0xFFFF j s
    else if 8192 < dBits j 2 0 13 + dBits j 3 0 14 then badParam 0xFFFE j s
    else runJob j 0 s) s
/-- IMAGE_LOAD (R341). -/
def execImageLoad (r : Fin 8192) (s : State) : Out :=
  startOp r 6 (fun j s =>
    if ¬ coreHalted s (jTarget j) then badParam 0xFFFF j s
    else if 16384 < dBits j 2 0 14 + dBits j 3 0 15 then badParam 0xFFFE j s
    else runJob j 0 s) s
/-- CHART_UPDATE (R342, R378). -/
def execChartUpdate (r : Fin 8192) (s : State) : Out :=
  startOp r 0xB (fun j s => if 2097152 < dBits j 2 0 21 + dBits j 3 0 22 then badParam 1 j s else runJob j 0 s) s

/-- Element i of a source whose elements have k bytes. -/
def srcWord (j : Job) (k i : Nat) : Nat := leNum ((j.data.drop (k * i)).take k)
/-- The microword i of an ALMANAC_LOAD. -/
def srcMicro (j : Job) (i : Nat) : MicroWord := BitVec.ofNat 128 (srcWord j 16 i)
/-- The source of an ALMANAC_LOAD has been read: every word is validated (R120, R125). -/
def almRead (j : Job) (s : State) : State :=
  match (List.range (dBits j 3 0 14)).find? fun i => mwReserved (srcMicro j i) with
  | some i => completeJob j.id 8 (dBits j 2 0 13 + i) s
  | none => leaveEngine j.id 1 s
/-- One entry of the Chart is written with fresh check bits; a cached copy that changes is shot down (R378). -/
def writeChart (page v : Nat) (s : State) : State :=
  let new : BitVec 32 := BitVec.ofNat 32 v
  let old := tget 0 s.chart page
  let s := { s with chart := tset 0 s.chart page new, chartErr := terase s.chartErr page }
  match tlook s.chartCache page with
  | some _ => if old = new then s else { s with invals := s.invals ++ [⟨1, homeNode page, page, false⟩] }
  | none => s
/-- The source of a CHART_UPDATE has been read: it is validated and written (R378). -/
def chartRead (j : Job) (s : State) : State :=
  let n := dBits j 3 0 22
  match (List.range n).find? fun i => decide (2 ^ 30 ≤ srcWord j 4 i) with
  | some i => completeJob j.id 8 (0x2000000 + i) s
  | none =>
    let s := (List.range n).foldl (fun s i => writeChart (dBits j 2 0 21 + i) (srcWord j 4 i) s) s
    chartDone (leaveEngine j.id 3 s)
/-- A load whose source is in goes on; one whose source read failed completes with that status and DETAIL 0 (R341). -/
def sourceIn (id : Nat) (s : State) : State :=
  match findJob s id with
  | none => s
  | some j =>
    match j.fail with
    | some (st, _, _) => if j.reads ≠ [] then s else completeJob id st 0 s
    | none =>
      if gotBytes j < moveLen j then s
      else match j.op with
        | 5 => almRead j s
        | 6 => leaveEngine id 1 s
        | 7 => loadRead j s
        | _ => chartRead j s
/-- SOURCE_READ_DONE (R341): the source of the load that engine e holds has been read; a source in NoC space is read
now. -/
def execSourceReadDone (e : Fin 16) (s : State) : Out :=
  match engineJob s e with
  | some j =>
    if [5, 6, 7, 0xB].contains j.op ∧ j.stage = 0 then
      if dBits j 4 0 1 = 1 then
        let (go, s) := gather j.id (dBits j 1 0 48) (moveLen j / 64 + 3) s
        if go then ok (sourceIn j.id s) else ok s
      else ok (sourceIn j.id s)
    else ok s
  | none => ok s

/-- An ALMANAC_LOAD writes its words with fresh check bits (R121). -/
def almWrite (n : Nat) (j : Job) (s : State) : State :=
  (List.range (dBits j 3 0 14)).foldl (fun s i =>
    let k := almKey n (dBits j 2 0 13 + i)
    { s with alm := tput s.alm k (srcMicro j i), almErr := terase s.almErr k }) s
/-- An IMAGE_LOAD writes its words. -/
def imageWrite (n : Nat) (j : Job) (s : State) : State :=
  updCore n (fun c => { c with
    imem := (List.range (dBits j 3 0 15)).foldl (fun t i =>
      tset 0 t (dBits j 2 0 14 + i) (BitVec.ofNat 32 (srcWord j 4 i))) c.imem }) s
/-- LOAD_WRITE_DONE (R121, R123, R341, R584): the oldest load of sequencer n that has read its source writes every word,
is measured and completes. -/
def execLoadWriteDone (n : Fin 64) (s : State) : Out :=
  match runningJob s (fun j => (j.op == 5 || j.op == 6) && j.stage == 1 && jTarget j == n.val) with
  | some j =>
    if j.op = 5 then
      let s := almWrite n j (almYield n s)
      ok (completeJob j.id 0 0 (extendWith (0x10 + n) 1 (dBits j 2 0 13) (dBits j 3 0 14) j.data s))
    else
      let s := imageWrite n j s
      let s := { s with imageOk := tput s.imageOk n true }
      ok (completeJob j.id 0 0 (extendWith (0x50 + n) 2 (dBits j 2 0 14) (dBits j 3 0 15) j.data s))
  | none => ok s

end Sys2Proof.Machine
end

