-- ==== Sys2Proof/Machine/Readback.lean ====
section
/-! DEFINITION. READBACK: a snapshot of a partition (R82, R607–R613). -/
namespace Sys2Proof.Machine
open Sys2Proof

/-! ### Sizes (R608) -/

def rbMask (j : Job) : Nat := dBits j 2 0 64
def rbSel (j : Job) : Nat := dBits j 4 8 8
/-- The sizes of the parts by SEL bit. -/
def partSizes : List Nat := [8519680, 18432, 2097152, 16384, 132096, 67584, 133120, 4096]
def sectionSize (sel : Nat) : Nat :=
  ((List.range 8).map fun i => if sel.testBit i then partSizes.getD i 0 else 0).sum
def rankCount (m : Nat) : Nat := ((List.range 64).filter m.testBit).length
def snapSize (m sel : Nat) : Nat := 4096 + rankCount m * sectionSize sel

/-! ### The parts of a field section (R608, R610, R611) -/

/-- A bitmap of k bytes with the named bits set. -/
def bitmap (k : Nat) (l : List Nat) : List Byte :=
  (List.range k).map fun i => BitVec.ofNat 8 ((l.filter fun b => b / 8 == i).map fun b => 2 ^ (b % 8)).sum
/-- k doublewords given by their place. -/
def dwords (k : Nat) (g : Nat → Nat) : List Byte := (List.range k).flatMap fun i => leBytes 8 (g i)
/-- Elements read in order with the errors they meet: their bytes, and the places of those that are uncorrectable. -/
def readAll (read : Nat → State → List Byte × Bool × State) (k : Nat) (s : State) : List Byte × List Nat × State :=
  (List.range k).foldl (fun (d, us, s) i =>
    let (w, ue, s) := read i s
    (d ++ w, if ue then us ++ [i] else us, s)) (([] : List Byte), ([] : List Nat), s)

/-- SEL bit 0: PE memory, decoded as R82 states. -/
def snapRows (f : Nat) (s : State) : List Byte × Nat × State :=
  let (d, us, s) := readAll (fun i s =>
    let (w, ue, s) := readbackRow f (i % 256) (i / 256) s
    (leBytes 8 w.toNat, ue, s)) 1048576 s
  (d ++ bitmap 131072 us, us.length, s)
/-- SEL bit 1: flags and n-latches. -/
def snapFlags (f : Nat) (s : State) : List Byte :=
  let x := getField s f
  dwords 2304 fun i => (sliceRow (i % 256) (if i / 256 < 8 then getFlag x (i / 256) else x.nlatch)).toNat
/-- SEL bit 2: doubleword i of the block of slice sl (R610). -/
def sliceDword (x : Field) (q : MSeq) (sl i : Nat) : Nat :=
  let y := getSlice x sl
  let l := i % 64
  match i / 64 with
  | 0 => (laneWord x.ta0 sl l).toNat
  | 1 => (laneWord x.ta1 sl l).toNat
  | 2 => (laneWord x.tb0 sl l).toNat
  | 3 => (laneWord x.tb1 sl l).toNat
  | 4 => (tget 0 y.tob l).toNat
  | 5 => (heldWord y.cb y.cbOld l).toNat
  | 6 => (tget 0 y.acc0 l).toNat
  | 7 => (tget 0 y.acc1 l).toNat
  | 8 => (heldWord y.sh0 y.sh0Old l).toNat
  | 9 => (heldWord y.sh1 y.sh1Old l).toNat
  | 10 =>
    (match l with
      | 0 => validBits y.cb
      | 1 => validBits y.sh0
      | 2 => validBits y.sh1
      | 3 => xstateValue q
      | 4 => modeOf y
      | _ => if 8 ≤ l ∧ l < 16 then leNum ((List.range 8).map fun k => tget 0 y.flags (8 * (l - 8) + k)) else 0)
  | _ => 0
def snapSlices (n f : Nat) (s : State) : List Byte :=
  dwords 262144 fun i => sliceDword (getField s f) (getSeq s n) (i / 1024) (i % 1024)
/-- SEL bit 3: doubleword i of the sequencer part of sequencer f (R611). -/
def seqDword (s : State) (f i : Nat) : Nat :=
  let c := getCore s f
  let q := getSeq s f
  let o := 8 * i
  let entry (l : List QEntry) (k : Nat) : Nat :=
    match l[k / 2]? with
    | some e => if k % 2 = 0 then entryWord0 e else entryWord1 e
    | none => 0
  if o < 0x40 then (readReg c i).toNat
  else if o < 0x1780 then windowReg c ((o - 0x40) / 192) (8 + (o - 0x40) % 192 / 8)
  else if 0x1800 ≤ o ∧ o < 0x18F8 then windowHidden c ((o - 0x1800) / 8)
  else if 0x1900 ≤ o ∧ o ≤ 0x1A40 then ((srValue s f ((o - 0x1900) / 8)).getD 0).toNat
  else if 0x1C00 ≤ o ∧ o < 0x1D00 then entry q.queue ((o - 0x1C00) / 8)
  else if 0x1D00 ≤ o ∧ o < 0x1E00 then entry q.park ((o - 0x1D00) / 8)
  else if o = 0x1E00 then mseqStatus s f
  else if o = 0x1E08 then rawReg s rowMSEQ_SND f 0
  else if o = 0x1E10 then seqStatus s f
  else if 0x1E40 ≤ o ∧ o < 0x1E80 then
    rawReg s ([rowRESUME0, rowRESUME1, rowRESUME2, rowRESUME3, rowRESUME4, rowRESUME5, rowRESUME6, rowRESUME7].getD
      ((o - 0x1E40) / 8) rowRESUME0) f 0
  else 0
/-- SEL bit 4: a word of the Almanac; a corrected or uncorrectable word is counted and captured. -/
def almSnap (n a : Nat) (s : State) : List Byte × Bool × State :=
  let (r, s) := fetchMicro s n a
  let stored := tget 0 s.alm (almKey n a)
  match r with
  | .absent => (leBytes 16 0, false, s)
  | .word w none => (leBytes 16 w.toNat, false, s)
  | .word w (some pos) => (leBytes 16 w.toNat, false, almCapture n false false pos a 0 0 (satF (fALM_ECC_CE_CNT n) 1 s))
  | .bad =>
    let s := almCapture n true false 0 a 0 0 (satF (fALM_ECC_UE_CNT n) 1 s)
    let v := stored ^^^ (tget 0 s.almErr (almKey n a)).setWidth 128
    (leBytes 16 v.toNat, true, devLogM 3 2 0 0xFF n n (almCapValue s n) s)
def snapAlm (n : Nat) (s : State) : List Byte × Nat × State :=
  let (d, us, s) := readAll (almSnap n) 8192 s
  (d ++ bitmap 1024 us, us.length, s)
/-- SEL bit 5: a word of the instruction SRAM; `isr` names the words that the part finds in error, true:
uncorrectable. -/
def isrSnap (isr : List (Fin 64 × Fin 16384 × Bool)) (n a : Nat) (s : State) : List Byte × Bool × State :=
  let w := leBytes 4 (tget 0 (getCore s n).imem a).toNat
  match isr.find? fun e => e.1.val == n && e.2.1.val == a with
  | some (_, _, false) => (w, false, satF (fSEQ_ECC_ISR_CE n) 1 s)
  | some (_, _, true) =>
    let s := satF (fSEQ_ECC_ISR_UE n) 1 s
    (w, true, devLogM 6 2 0 0xFF n a (seqEccValue s n) s)
  | none => (w, false, s)
def snapIsr (isr : List (Fin 64 × Fin 16384 × Bool)) (n : Nat) (s : State) : List Byte × Nat × State :=
  let (d, us, s) := readAll (isrSnap isr n) 16384 s
  (d ++ bitmap 2048 us, us.length, s)
/-- SEL bit 6: the scratchpad. -/
def snapSpad (n : Nat) (s : State) : List Byte × Nat × State :=
  let (d, us, s) := readAll (fun i s =>
    let w := (0x10000000 + 0x20000 * n) / 8 + i
    let (v, r, s) := secWord s w
    (leBytes 8 v.toNat, r == 2, if r = 0 then s else spadNote n 0xFF 0 (r == 2) w s)) 16384 s
  (d ++ bitmap 2048 us, us.length, s)
/-- SEL bit 7: a register of SEQ[n] as it reads, without side effect. -/
def regSnap (s : State) (n i : Nat) : Nat :=
  match regAt false 0x80 (0x1000 * n + 8 * i) with
  | some (.row r a b) =>
    if r.name = .rb_data then (if rbFault s n then 0 else (rbRead n s).1) else (rowRead 0x80 r a b s).1
  | _ => 0
/-- One field section: its bytes, uncorrectable PE rows and other uncorrectable items. -/
def snapSection (isr : List (Fin 64 × Fin 16384 × Bool)) (n f sel : Nat) (s : State) : List Byte × Nat × Nat × State :=
  let on (i : Nat) : Bool := sel.testBit i
  let (d0, u0, s) := if on 0 then snapRows f s else ([], 0, s)
  let d1 := if on 1 then snapFlags f s else []
  let d2 := if on 2 then snapSlices n f s else []
  let d3 := if on 3 then dwords 2048 (seqDword s f) else []
  let (d4, u4, s) := if on 4 then snapAlm f s else ([], 0, s)
  let (d5, u5, s) := if on 5 then snapIsr isr f s else ([], 0, s)
  let (d6, u6, s) := if on 6 then snapSpad f s else ([], 0, s)
  let d7 := if on 7 then dwords 512 (regSnap s f) else []
  (d0 ++ d1 ++ d2 ++ d3 ++ d4 ++ d5 ++ d6 ++ d7, u0, u4 + u5 + u6, s)

/-! ### The snapshot (R608, R609) -/

/-- Doubleword i of the header. -/
def headDword (s : State) (j : Job) (p : Part) (pe other i : Nat) : Nat :=
  let n := jTarget j
  let fs := partFields (n, p)
  match i with
  | 0 => 1 + rbSel j * 2 ^ 32 + n * 2 ^ 40 + p.wlog * 2 ^ 46 + p.hlog * 2 ^ 48
  | 1 => rbMask j
  | 2 => snapSize (rbMask j) (rbSel j)
  | 3 => sectionSize (rbSel j)
  | 4 => j.pos % 2 ^ 64
  | 5 => pe + other * 2 ^ 32
  | 6 => getF s (fRESUME0_KIND n) + b2n (coreHalted s n) * 8
  | _ =>
    if 8 ≤ i ∧ i - 8 < fs.length then
      let f := fs.getD (i - 8) 0
      f + spareMapValue s f % 2 ^ 11 * 2 ^ 16 + b2n ((rbMask j).testBit (i - 8)) * 2 ^ 63
    else 0
/-- The whole snapshot, and the uncorrectable items in it. -/
def snapshot (isr : List (Fin 64 × Fin 16384 × Bool)) (j : Job) (p : Part) (s : State) : List Byte × Nat × State :=
  let n := jTarget j
  let fs := partFields (n, p)
  let head := headDword s j p
  let (d, pe, other, s) := ((List.range fs.length).filter (rbMask j).testBit).foldl (fun (d, pe, other, s) r =>
    let (x, a, b, s) := snapSection isr n (fs.getD r 0) (rbSel j) s
    (d ++ x, pe + a, other + b, s)) (([] : List Byte), 0, 0, s)
  (dwords 512 (head pe other) ++ d, pe + other, s)

/-! ### The steps (R607, R613) -/

/-- Survey yields the rows it holds of a partition (R79, R607); no microword is held for them. -/
def surveyClear (n : Nat) (s : State) : State := (fieldsOf s n).foldl (fun s f => rowYield f 0 s) s
/-- A repair copy runs in the partition (R77). -/
def copying (s : State) (n : Nat) : Bool := (fieldsOf s n).any fun f => bitF s (fSPARE_MAP_COPY_BUSY f)
/-- The READBACK may have its array: a SPARE of the partition that runs has come first, and no repair copy runs. -/
def spareFirst (s : State) (n id : Nat) : Bool :=
  let fs := fieldsOf s n
  copying s n ||
    s.jobs.any fun k => k.op == 0xC && k.phase == .running && fs.contains (jTarget k) && decide (k.id < id)
/-- Another READBACK of the partition is past its first step. -/
def readbackBusy (s : State) (n id : Nat) : Bool :=
  s.jobs.any fun k => k.op == 0xD && k.phase == .running && jTarget k == n && decide (1 ≤ k.stage) && k.id != id
/-- A READBACK goes one step further where it can: 0 wakes its quads, 1 has asked for the array, 3 holds it and the
core. -/
def rbAdvance (id : Nat) (s : State) : State :=
  match findJob s id with
  | none => s
  | some j =>
    let n := jTarget j
    match j.stage with
    | 0 =>
      if (partAt s n).isNone then badParam 1 j s
      else
        let dark := (partQuads s n).filter fun q => !domRun s q
        if dark ≠ [] then dark.foldl (fun s q => postWake q 8 s) s
        else if j.eng.isSome ∧ ¬ readbackBusy s n id then
          hubRequest n false (updJob id (fun j => { j with stage := 1 }) s)
        else s
    | 1 =>
      if hubReady s n ∧ ¬ spareFirst s n id then
        let s := surveyClear n (hubBegin n false s)
        updJob id (fun j => { j with stage := 3, pos := merNs s }) s
      else s
    | _ => s
/-- READBACK (R342, R607): the ready descriptor of ring r starts; else the first READBACK of the ring that waits goes on,
when its quads are in Run, and then when the array is its. -/
def execReadback (r : Fin 8192) (s : State) : Out :=
  match headJob s r with
  | some j =>
    if j.phase = .ready ∧ j.op = 0xD then
      startOp r 0xD (fun j s =>
        match partAt s (jTarget j) with
        | none => badParam 1 j s
        | some p =>
          if 2 ^ (2 ^ (p.wlog + p.hlog)) ≤ rbMask j then badParam 2 j s
          else if dBits j 3 0 32 < snapSize (rbMask j) (rbSel j) then badParam 3 j s
          else rbAdvance j.id (rbAdvance j.id (runJob j 0 s))) s
    else
      match runningJob s (fun k => k.op == 0xD && k.ring == r.val && decide (k.stage < 3)) with
      | some k => ok (rbAdvance k.id (rbAdvance k.id s))
      | none => ok s
  | none =>
    match runningJob s (fun k => k.op == 0xD && k.ring == r.val && decide (k.stage < 3)) with
    | some k => ok (rbAdvance k.id (rbAdvance k.id s))
    | none => ok s

/-- The partition is released and the READBACK completes (R607, R612, R613). -/
def endReadback (j : Job) (st det : Nat) (s : State) : State :=
  let n := jTarget j
  flrResume (actPending (finishWord n (hubEnd n (completeJob j.id st det s))))
/-- Lines of a snapshot for NoC space; `false`: a line waits. -/
def snapLines (id dst : Nat) : Nat → State → Bool × State
  | 0, s => (true, s)
  | n + 1, s =>
    match findJob s id with
    | none => (true, s)
    | some j =>
      if j.fail.isSome ∨ j.data.length ≤ j.pos then (true, s)
      else
        let k := min (j.data.length - j.pos) (64 - (dst + j.pos) % 64)
        match engineAccess j true (dst + j.pos) k ((j.data.drop j.pos).take k) s with
        | (.wait, s) => (false, s)
        | (.done 0 _ _, s) =>
          let s := updJob id (fun j => { j with pos := j.pos + k }) s
          snapLines id dst n (match j.eng with | some e => incF (fDMA_STAT_DONE e) k s | none => s)
        | (.done st _ _, s) => (true, failMove id st 0 j.pos s)
/-- The uncorrectable items a snapshot's header counts. -/
def snapBad (d : List Byte) : Nat :=
  min (leNum ((d.drop 0x28).take 4) + leNum ((d.drop 0x2C).take 4)) (2 ^ 32 - 1)
/-- READBACK_COPY_DONE (R607, R612): the READBACK that holds the partition of master n copies its state and writes the
snapshot; `isr` names the instruction words found in error, `late` what a failing write leaves behind it. -/
def execReadbackCopyDone (n : Fin 64) (isr : List (Fin 64 × Fin 16384 × Bool)) (late : BitVec 64) (s : State) : Out :=
  match runningJob s (fun j => j.op == 0xD && jTarget j == n.val && decide (3 ≤ j.stage)), partAt s n with
  | some j, some p =>
    if j.stage = 3 ∧ copying s n then ok s
    else
    let s := if j.stage = 3 then
        let (d, _, s) := snapshot isr j p s
        updJob j.id (fun j => { j with stage := 4, pos := 0, data := d }) s
      else s
    match findJob s j.id with
    | none => ok s
    | some j =>
      if dBits j 4 0 1 = 0 then
        let s := hostStore j.func (dBits j 1 0 64) j.data s
        let s := match j.eng with | some e => incF (fDMA_STAT_DONE e) j.data.length s | none => s
        ok (endReadback j 0 (snapBad j.data) s)
      else
        let dst := dBits j 1 0 48
        let (go, s) := snapLines j.id dst (j.data.length / 64 + 3) s
        if go then
          match findJob s j.id with
          | none => ok s
          | some j =>
            match j.fail with
            | none => ok (endReadback j 0 (snapBad j.data) s)
            | some (st, side, off) =>
              ok (endReadback j st (failDetail side off) (lateNoc j dst j.data.length off late s))
        else ok s
  | _, _ => ok s

end Sys2Proof.Machine
end

