-- ==== Sys2Proof/Machine/Packets.lean ====
section
/-! DEFINITION. Packets on the network: injection, hops, parity, ejection, and what a request without an answer comes to
(R390–R416). -/
namespace Sys2Proof.Machine
open Sys2Proof

/-! ### Injection and hops (R393–R397, R402–R406, R417) -/

/-- What the block of a node hands to its NI. -/
def inject' (x : NocMove) (s : State) : State :=
  match x with
  | .line r =>
    let q := memReq r
    let src := r.node.toNat
    if ¬ nodeExists src then s
    else match locate q.addr with
      | none => { tgtLog src q.addr q.master 2 3 s with answers := s.answers ++ [⟨src, 3, [], 0⟩] }
      | some (.regs, _) => s
      | some (_, d) => submit ⟨src, d, r.tid.toNat, .req q⟩ s
  | .register src tid m wr a be v =>
    let a := 8 * a.toNat
    if nodeExists src.toNat ∧ 0x20000000 ≤ a ∧ a < 0x24000000 then
      submit ⟨src.toNat, serveNode (a - 0x20000000), tid.toNat, .mgmt m.toNat wr a be v⟩ s
    else s
  | .invalidate src d tid k v =>
    if nodeExists src.toNat ∧ nodeExists d.toNat then sendPacket src.toNat d.toNat tid.toNat (.inv k v.toNat) s else s
  | .move _ => s

/-- A router input finds a flit's parity wrong k times (R406). -/
def parityErrors : Nat → Nat → Nat → Packet → State → State
  | _, _, 0, _, s => s
  | r, port, k + 1, p, s =>
    parityErrors r port k p (nocCapture 0 p.net r p.src p.dest port (satF (fROUTER_STAT_PAR_CNT r) 1 s))
/-- A flit reaches an input of router r after `errs` failed attempts. With the third failed replay it is lost, and the
port toward it, if it has a PORT_EN bit, fails (R406). -/
def enterRouter (r port errs : Nat) (p : Packet) (pass : State → State) (lose : State → State) (s : State) : State :=
  let s := satF (fROUTER_STAT_REPLAY r) (min errs 3) (parityErrors r port errs p s)
  if errs = 4 then
    let s := nocCapture 1 p.net r p.src p.dest port (lose s)
    devLogM 11 2 0 (bodyMaster p.body) p.src (bodyAddr p.body) (nocCapValue s) s
  else pass s
/-- A packet whose route fails at its router: a request is answered ROUTE_INVALID when the way back is open (R395). -/
def hopFails (p : Packet) (port : Nat) (s : State) : State :=
  let x : RouteErr := ⟨p.router, port, p.came⟩
  if isRequest p.body then
    match requestFails x p.net p.src p.dest (bodyAddr p.body) (bodyMaster p.body) s with
    | (true, s) => endOutst p.src p.tid 5 [] 0 s
    | (false, s) => s
  else routeDiscard x p.net p.src p.dest s

/-- The router input through which a packet came: the bearing, or 4 from its NI. -/
def inputOf (p : Packet) : Nat :=
  match p.came with
  | [] => 4
  | x :: _ => ((List.range 4).find? fun b => (routerPorts p.router).testBit b && neighbour p.router b == x).getD 4
/-- The virtual channel and the flits of a SNP packet (R400). -/
def snpShape : PBody → Nat × Nat
  | .inv _ _ => (0, 1)
  | .ack => (1, 1)
  | .mgmt _ wr _ _ _ => (2, if wr then 3 else 2)
  | .mrsp _ _ => (3, 2)
  | _ => (0, 1)
/-- The flits of a virtual channel at an input of router r (R402). -/
def flitsAt (s : State) (r port vc : Nat) : Nat :=
  ((s.net.filter fun q => q.net == 3 && q.entered && q.router == r && inputOf q == port && (snpShape q.body).1 == vc).map
    fun q => (snpShape q.body).2).sum
/-- The input of router r has room for a packet (R402, R403). -/
def hasRoom (s : State) (r port : Nat) (p : Packet) : Bool :=
  p.net != 3 || decide (flitsAt s r port (snpShape p.body).1 + (snpShape p.body).2 ≤ 4)
/-- An earlier packet of the same ends and network is not ahead of packet i on its way, or, for a packet about to leave the
network, still in it (R404). -/
def behind (l : List Packet) (i : Nat) (out : Bool) (p : Packet) : Bool :=
  (l.take i).any fun q => q.net == p.net && q.src == p.src && q.dest == p.dest &&
    (out || !q.entered || (p.entered && decide (q.hop ≤ p.hop)))
/-- The output that a packet at a router asks for: a bearing, or the local port of its node. -/
def outputOf (s : State) (p : Packet) : Option Nat :=
  match hopAct s p.router p.heading p.turns p.hop p.dest with
  | .leave h r => if bitF s (fROUTER_STAT_BUSY r) ∨ ¬ hasRoom s r ((h + 2) % 4) p then none else some h
  | .deliver => some (4 + p.dest)
  | .fail _ => none
/-- An output serves its inputs in turn, of SNP its virtual channels (R402): what a packet counts as. -/
def turnId (p : Packet) : Nat := if p.net = 3 then (snpShape p.body).1 else inputOf p
def turnKey (r o net : Nat) : Nat := (512 * r + o) * 4 + net
/-- It is the turn of packet i at its output, among those there that can go. -/
def hisTurn (s : State) (i o : Nat) (p : Packet) : Bool :=
  let last := tget 4 s.arb (turnKey p.router o p.net)
  (List.range s.net.length).all fun k =>
    match s.net[k]? with
    | some q => k == i || !(q.entered && q.router == p.router && q.net == p.net && outputOf s q == some o &&
        !behind s.net k (decide (4 ≤ o)) q) || decide (roundAfter 5 last (turnId p) ≤ roundAfter 5 last (turnId q))
    | none => true
/-- Packet i has gone through output o of its router. -/
def tookTurn (o : Nat) (p : Packet) (s : State) : State :=
  { s with arb := tset 4 s.arb (turnKey p.router o p.net) (turnId p) }
/-- Packet i of those in flight enters its first router from its NI, or does what the router where it stands makes of its
TURN (R394, R395, R402–R406, R417). -/
def movePacket (i errs : Nat) (s : State) : State :=
  match s.net[i]? with
  | none => s
  | some p =>
    let gone (s : State) : State := { s with net := s.net.eraseIdx i }
    if ¬ p.entered then
      if behind s.net i false p ∨ bitF s (fROUTER_STAT_BUSY p.router) ∨ ¬ hasRoom s p.router 4 p then s
      else enterRouter p.router 4 errs p (fun s => { s with net := s.net.set i { p with entered := true } }) gone s
    else match hopAct s p.router p.heading p.turns p.hop p.dest with
      | .fail port => hopFails p port (gone s)
      | .deliver =>
        if behind s.net i true p ∨ ¬ hisTurn s i (4 + p.dest) p then s
        else { tookTurn (4 + p.dest) p (gone s) with eject := s.eject ++ [p] }
      | .leave h r =>
        if behind s.net i false p ∨ outputOf s p = none ∨ ¬ hisTurn s i h p then s
        else enterRouter r ((h + 2) % 4) errs p
          (fun s => { s with net := s.net.set i { p with
            router := r, heading := h, hop := p.hop + 1, came := p.router :: p.came } })
          (fun s => failPort p.router h (gone s)) (tookTurn h p s)
/-- NOC_HOP (R394, R401, R406): a block hands its NI a request, or a packet goes on by one router; `errs` attempts to send
it on fail the parity check of the next router, and `upset` names a route entry whose parity fails from now on. -/
def execNocHop (x : NocMove) (errs : Fin 5) (upset : Option (BitVec 8 × Fin 2 × BitVec 8)) (s : State) : Out :=
  let s := match upset with
    | some (d, b, e) =>
      let k := routeKey d.toNat b e.toNat
      if s.routeErr.contains k then s else { s with routeErr := s.routeErr ++ [k] }
    | none => s
  match x with
  | .move i => ok (pump (movePacket i.toNat errs s))
  | y => ok (inject' y s)

/-! ### At the destination (R402–R412, R524) -/

/-- A memory request, whole, at the router edge of its domain: passed, refused, or held (R409, R410, R524); whether it has
left the edge. `bad`: its write data is uncorrectable (R407). -/
def serveRequest (p : Packet) (q : MemReq) (bad : Bool) (s : State) : Bool × State :=
  let d := nodeDom p.dest
  let reply (st : Nat) (data : List Byte) (po : Nat) (s : State) : Bool × State :=
    (true, respond p.dest p.src p.tid st data po (!q.write) (returnCredit p.src p.tid s))
  if domOpen s d then
    let s := accepted p.src p.tid s
    if bad then reply 4 [] 0 s
    else match locate q.addr with
      | some (r, _) =>
        (match serveMem r p.dest q.master q.write q.addr q.en q.data s with
          | (.done st data po, s) => reply st data po s
          | (.wait, s) => (false, s))
      | none => (true, s)
  else if bitF s (fPWR_DOM_FAULT d) then reply 7 [] 0 s
  else if anchFull (getDom s d) then reply 6 [] 0 s
  else
    (true, postWake d 7 (accepted p.src p.tid
      (updDom d (fun x => { x with anch := x.anch ++ [.packet { p with body := .req q, bad := bad }] }) s)))
/-- A start message at the router edge of its sequencer's domain (R409, R410, R518, R521, R524): the image starts when every
quad of its partition is in Run and none is about to leave it. -/
def serveStart (p : Packet) (id : Nat) (s : State) : Bool × State :=
  let d := nodeDom p.dest
  let reply (st : Nat) (s : State) : Bool × State :=
    (true, respond p.dest p.src p.tid st [] 0 false (returnCredit p.src p.tid s))
  if startDue s id then
    let s := accepted p.src p.tid s
    match findJob s id with
    | some j => reply 0 (startImage (jTarget j) j (updJob id (fun j => { j with stage := 1 }) s))
    | none => reply 0 s
  else if bitF s (fPWR_DOM_FAULT d) ∧ ¬ domOpen s d then reply 7 s
  else if anchFull (getDom s d) then reply 6 s
  else
    let s := accepted p.src p.tid (updDom d (fun x => { x with anch := x.anch ++ [.packet p] }) s)
    (true, if domOpen s d then s else postWake d 7 s)
/-- A register access at the node that serves it (R411, R570). -/
def serveRegister (p : Packet) (m : Nat) (wr : Bool) (a : Nat) (be : BitVec 8) (v : Word) (s : State) : State :=
  let o := a - 0x20000000
  let en := beEn be.toNat
  let reply (st : Nat) (x : Nat) (s : State) : State :=
    sendPacket p.dest p.src p.tid (.mrsp st (BitVec.ofNat 64 x)) (returnCredit p.src p.tid s)
  match regAt false m o with
  | none =>
    let (st, s) := emptyJudge m o s
    reply st 0 s
  | some r =>
    let (st, s) := regJudge m m wr o s
    if st ≠ 0 ∨ en = 0 then reply st 0 s
    else if wr then reply 0 0 (regWrite m r v.toNat en s)
    else
      let (x, s) := regRead m r en s
      reply 0 x s
/-- The half of a write that waits at a target for the other. -/
def halfOf (s : State) (p : Packet) (net : Nat) : Option Packet :=
  (s.halves.find? fun h => h.2.src == p.src && h.2.tid == p.tid && h.2.dest == p.dest && h.2.net == net).map (·.2)
def dropHalf (h : Packet) (s : State) : State := { s with halves := s.halves.filter fun e => e.2 != h }
def keepHalf (p : Packet) (s : State) : State := { s with halves := s.halves ++ [(s.ticks, p)] }
/-- A response arrives at its requester (R407, R410). -/
def gotRsp (p : Packet) (st : Nat) (has : Bool) (po : Nat) (s : State) : State :=
  match outOf s p.dest p.tid with
  | none => satF (fNI_ECC_LATE p.dest) 1 s
  | some o =>
    if st = 6 then
      satF (fNI_STAT_RETRY p.dest) 1
        (updOutst p.dest p.tid (fun o => { o with waiting := true, retry := true, credit := false }) s)
    else if has then
      match halfOf s p 2 with
      | some h => (match h.body with
        | .dat d bad _ => endOutst p.dest p.tid (if bad = 0 then st else 4) d (po ||| bad) s
        | _ => s)
      | none => updOutst p.dest p.tid (fun o => { o with status := some (st, po) }) s
    else if st = 7 then endOutst p.dest p.tid 7 [] 0 (wakeTimedOut p.dest (bodyAddr o.body) (bodyMaster o.body) s)
    else endOutst p.dest p.tid st [] 0 s
/-- A DAT flit is checked word by word at the NI that receives it (R407). -/
def checkDat (p : Packet) (e : DatErr) (s : State) : State :=
  let s := satF (fNI_ECC_DAT_CE p.dest) (popc 3 e.fixed.toNat) s
  if e.bad = 0 then s
  else
    let s := nocCapture 3 2 0 p.src p.dest 0 (satF (fNI_ECC_DAT_UE p.dest) (popc 3 e.bad.toNat) s)
    devLogM 11 2 4 0xFF p.dest 0 (nocCapValue s) s
/-- An invalidation acts at its node (R378, R380, R400). -/
def actSnp (d k v : Nat) (s : State) : State :=
  match k with
  | 0 => lineInvalidate d v s
  | 1 => entryInvalidate d v s
  | _ => invalidateAll d s
/-- The halves of a write have met; while its target cannot serve it, it stands there whole. -/
def servePair (p : Packet) (q : MemReq) (bad : Bool) (s : State) : Bool × State :=
  match serveRequest p q bad s with
  | (true, s) => (true, s)
  | (false, s) => (true, { s with eject := { p with body := .req q, bad := bad } :: s.eject })
/-- The ejected packet p acts at its NI; whether it has left. -/
def deliverPacket (p : Packet) (e : DatErr) (s : State) : Bool × State :=
  match p.body with
  | .req q =>
    if q.write ∧ q.data = [] then
      match halfOf s p 2 with
      | some h => (match h.body with
        | .dat d bad _ => servePair p { q with data := d } (bad != 0) (dropHalf h s)
        | _ => (true, s))
      | none => (true, keepHalf p s)
    else serveRequest p q p.bad s
  | .start id => serveStart p id s
  | .dat d bad wr =>
    let s := checkDat p e s
    let bad := bad ||| e.bad.toNat
    let p' : Packet := { p with body := .dat d bad wr }
    if wr then
      match halfOf s p 0 with
      | some h => (match h.body with
        | .req q => servePair h { q with data := d } (bad != 0) (dropHalf h s)
        | _ => (true, s))
      | none => (true, keepHalf p' s)
    else match outOf s p.dest p.tid with
      | some o => (match o.status with
        | some (st, po) => (true, endOutst p.dest p.tid (if bad = 0 then st else 4) d (po ||| bad) s)
        | none => (true, keepHalf p' s))
      | none => (true, s)
  | .rsp st has po => (true, gotRsp p st has po s)
  | .mgmt m wr a be v =>
    if !wr && accessWaits s false m (a - 0x20000000) then (false, s) else (true, serveRegister p m wr a be v s)
  | .mrsp st v => (true, endOutst p.dest p.tid st (leBytes 8 v.toNat) 0 s)
  | .inv k v => (true, sendPacket p.dest p.src p.tid .ack (actSnp p.dest k v s))
  | .ack => (true, acknowledge p.src s)
/-- An earlier ejected packet comes first: of the same ends and network, or, of requests, of the same master and line at
the same target (R404), or one that an Anchorage of the same domain has held (R409). -/
def ejectBehind (l : List Packet) (i : Nat) (p : Packet) : Bool :=
  (l.take i).any fun q =>
    (q.held && !p.held && p.net == 0 && nodeDom q.dest == nodeDom p.dest) ||
    (q.dest == p.dest && q.net == p.net &&
      match q.body, p.body with
      | .req a, .req b => a.master == b.master && a.addr == b.addr
      | _, _ => q.src == p.src)
/-- NOC_DELIVER (R402): ejected packet i is checked at its destination NI and acts there. -/
def execNocDeliver (i : BitVec 16) (e : DatErr) (s : State) : Out :=
  match s.eject[i.toNat]? with
  | none => ok s
  | some p =>
    if ejectBehind s.eject i.toNat p then ok s
    else
      let (left, t) := deliverPacket p e s
      ok (pump (if left then { t with eject := t.eject.erase p } else t))

/-! ### Requests without an answer (R407, R410) -/

/-- A block whose access waits in an Anchorage or after RETRY. -/
def accessHeld (s : State) (src : Nat) : Bool :=
  s.retryQ.any (fun e => e.1 == src && e.2.2.2 == .access src) || s.doms.any fun e => e.2.anch.contains (.access src)
/-- What the block of a node waits for is given up. -/
def dropAccess (src : Nat) (s : State) : State :=
  { s with retryQ := s.retryQ.filter (fun e => !(e.1 == src && e.2.2.2 == .access src)),
           doms := s.doms.map fun e => (e.1, { e.2 with anch := e.2.anch.filter fun h => h != .access src }) }
/-- RESPONSE_TIMEOUT (R407): request tid of the NI of a node, or the waiting access of its block, ends with RETRY. -/
def execResponseTimeout (src : BitVec 8) (tid : BitVec 6) (s : State) : Out :=
  if getF s fNOC_TMO_TIMEOUT = 0 then ok s
  else match outOf s src.toNat tid.toNat with
    | some o =>
      if o.waiting then ok s
      else ok (pump (endOutst o.src o.tid 6 [] 0
        (timedOut (bodyNet o.body) o.src o.dest (bodyAddr o.body) (bodyMaster o.body) s)))
    | none =>
      let v := tlook s.verdict src.toNat
      if (accessHeld s src.toNat ∧ v = none) ∨ v = some 8 then
        ok { dropAccess src.toNat s with verdict := tput s.verdict src.toNat 6 }
      else ok s
/-- ORPHAN_TIMEOUT (R407): the half of write tid of node src that target d holds is discarded. -/
def execOrphanTimeout (d src : BitVec 8) (tid : BitVec 6) (s : State) : Out :=
  if getF s fNOC_TMO_TIMEOUT = 0 then ok s
  else match s.halves.find? (fun h => h.2.dest == d.toNat && h.2.src == src.toNat && h.2.tid == tid.toNat) with
    | some h =>
      let write := match h.2.body with | .req _ => true | .dat _ _ wr => wr | _ => false
      if write then
        ok (nocCapture 5 h.2.net 0 h.2.src h.2.dest 0 (satF (fNI_ECC_ORPHAN h.2.dest) 1 (dropHalf h.2 s)))
      else ok s
    | none => ok s
/-- A block's access, or a request that a home controller forwards, waits after RETRY: it is sent again, or ends with
WAKE_TIMEOUT. -/
def resendHeld (e : Nat × Nat × Nat × Held) (s : State) : State :=
  let (src, d, k, h) := e
  let s1 : State := { s with retryQ := s.retryQ.erase e }
  match h with
  | .stack x => stackEdge x (k + 1) s1
  | _ =>
    if domOpen s d then s1
    else if getF s fNOC_TMO_RETRY_LIM ≤ k ∨ bitF s (fPWR_DOM_FAULT d) then { s1 with verdict := tput s1.verdict src 7 }
    else if anchFull (getDom s d) then
      satF (fNI_STAT_RETRY src) 1 { s1 with retryQ := s1.retryQ ++ [(src, d, k + 1, h)] }
    else postWake d 7 (updDom d (fun x => { x with anch := x.anch ++ [h] }) s1)
/-- RETRY_RESEND (R410): after RETRY_GAP request tid of the NI of a node, or else what its block waits with, is sent
again, or completes with WAKE_TIMEOUT at the limit. It takes a changed route only when no other request to its
destination is outstanding under the former one (R416). -/
def execRetryResend (src : BitVec 8) (tid : BitVec 6) (s : State) : Out :=
  match outOf s src.toNat tid.toNat with
  | some o =>
    if ¬ o.waiting then ok s
    else if getF s fNOC_TMO_RETRY_LIM ≤ o.resends then
      ok (pump (endOutst o.src o.tid 7 [] 0 (wakeTimedOut o.src (bodyAddr o.body) (bodyMaster o.body) s)))
    else
      let e := activeRoute s o.src o.dest
      if s.outst.any (fun x => x.src == o.src && x.dest == o.dest && x.tid != o.tid && x.route != e) then ok s
      else if e.testBit 34 then
        ok (sendRequest o.src o.dest o.tid e o.body (updOutst o.src o.tid (fun o => { o with
          waiting := false, resends := o.resends + 1, since := s.ticks, route := e, credit := true }) s))
      else
        ok (pump (endOutst o.src o.tid 5 [] 0
          (requestFails ⟨40, 0, []⟩ (bodyNet o.body) o.src o.dest (bodyAddr o.body) (bodyMaster o.body) s).2))
  | none =>
    match s.retryQ.find? (fun e => e.1 == src.toNat) with
    | some e => ok (resendHeld e s)
    | none => ok s

end Sys2Proof.Machine
end

