-- ==== Sys2Proof/Machine/Security.lean ====
section
/-! DEFINITION. The TAP and the debug port, the MCTP endpoint and the SPDM responder (R575–R577, R583–R592,
R614–R617). -/
namespace Sys2Proof.Machine
open Sys2Proof

/-! ### The TAP (R614–R616) -/

/-- The bits of a number, the lowest first. -/
def bitList (k v : Nat) : List Bool := (List.range k).map fun i => v.testBit i
/-- Boundary scan may take the balls: PERST_N is low, as it still is in step 1 of a power-on boot (R640), or boot has
failed (R616). -/
def scanAllowed (s : State) : Bool :=
  !s.offNow && (s.warmWait || getF s fBOOT_STAT_STEP == 0 ||
    (getF s fBOOT_STAT_STEP == 1 && getF s fRST_CAUSE_CAUSE == 1) || bitF s fBOOT_STAT_FAILED)
/-- An instruction is loaded and its data register has captured `dr`; the balls are released. -/
def loadIr (code : BitVec 8) (dr : List Bool) (s : State) : State :=
  { s with tap := { s.tap with ir := code, dr := dr, balls := 0 } }
/-- An instruction that takes the balls in manner k: with the boundary register, or with the bypass register alone.
Where it may not, it selects bypass. -/
def takeBalls (code : BitVec 8) (k : Nat) (scan : Bool) (cells upd : List Bool) (s : State) : State :=
  if scanAllowed s then
    { s with tap := { ir := code, dr := if scan then cells else [false], bsr := if scan then upd else s.tap.bsr, balls := k } }
  else loadIr code [false] s
/-- TAP_RESET. -/
def execTapReset (s : State) : Out := ok { s with tap := { s.tap with ir := 2, balls := 0 } }
/-- EXTEST: the cells capture `cells`, and the boundary register then drives `upd`. -/
def execExtest (cells upd : List Bool) (s : State) : Out := ok (takeBalls 0x00 1 true cells upd s)
/-- SAMPLE/PRELOAD. -/
def execSamplePreload (cells upd : List Bool) (s : State) : Out :=
  let s := loadIr 0x01 cells s
  ok { s with tap := { s.tap with bsr := upd } }
/-- IDCODE. -/
def execIdcode (s : State) : Out := ok (loadIr 0x02 (bitList 32 0x11024D6B) s)
/-- HIGHZ. -/
def execHighz (s : State) : Out := ok (takeBalls 0x03 2 false [] [] s)
/-- CLAMP: the outputs stand as the boundary register has them. -/
def execClamp (s : State) : Out := ok (takeBalls 0x04 3 false [] [] s)
/-- EXTEST_PULSE and EXTEST_TRAIN. -/
def execExtestPulse (cells upd : List Bool) (s : State) : Out := ok (takeBalls 0x05 4 true cells upd s)
def execExtestTrain (cells upd : List Bool) (s : State) : Out := ok (takeBalls 0x06 5 true cells upd s)
/-- BYPASS. -/
def execBypass (s : State) : Out := ok (loadIr 0xFF [false] s)

/-! ### Unlocking (R589–R591) -/

/-- The management controller runs: the part is not Off and boot has reached it. -/
def mcRuns (s : State) : Bool := !s.offNow && !s.warmWait && decide (3 ≤ getF s fBOOT_STAT_STEP)
/-- DBG_CHAL: a fresh nonce and the serial number. -/
def execDbgChal (s : State) : Out :=
  if mcRuns s then
    let (d, s) := draw s
    let v := Config.nonce d
    ok { loadIr 0x10 (bitList 384 v.toNat ++ bitList 128 Config.serial.toNat) s with nonce := some v }
  else ok (loadIr 0x10 [false] s)
/-- The level is one the key may ask for (R590). -/
def levelAllowed (slot level : Nat) : Bool :=
  (slot == 1 && Config.ownerKey && (level == 1 || level == 2)) || (slot == 0 && level == 3)
/-- The response verifies against the outstanding nonce: byte i of each item is bits 8i of its field. -/
def responseGood (nonce : BitVec 384) (v : Nat) : Bool :=
  let b := leBytes 195 v
  let level := (b.getD 0 0).toNat
  let slot := (b.getD 1 0).toNat
  let key := (b.drop 2).take 97
  let msg := leBytes 48 nonce.toNat ++ leBytes 16 Config.serial.toNat ++ b.take 1
  levelAllowed slot level && sha384 key == leBytes 48 (Config.dbgKeyHash slot).toNat &&
    ecdsaVerify key msg ((b.drop 99).take 48) ((b.drop 147).take 48)
/-- DBG_RESP: a response is examined while fewer than three have failed since power-on reset; a warm reset clears the count
but not that (R591, R597). -/
def execDbgResp (v : BitVec 1560) (s : State) : Out :=
  let s := loadIr 0x11 [] s
  if ¬ mcRuns s ∨ s.dbgShut then ok s
  else
    let pass := match s.nonce with | some k => responseGood k v.toNat | none => false
    let s := { s with nonce := none }
    if pass then
      let level := v.toNat % 256
      let s := setF fSEC_STAT_DBG_LEVEL level s
      ok (if level = 3 then setF fSEC_STAT_LODESTAR_OFF 1 s else s)
    else ok (satF fSEC_STAT_DBG_FAIL 1 { s with dbgShut := decide (2 ≤ getF s fSEC_STAT_DBG_FAIL) })
/-- DBG_STAT. -/
def execDbgStat (s : State) : Out :=
  ok (loadIr 0x13 (bitList 32 (getF s fSEC_STAT_DBG_LEVEL + getF s fSEC_STAT_DBG_FAIL * 4 + getF s fSEC_STAT_ID_OK * 16)) s)

/-! ### Debug accesses (R617) -/

/-- What Capture-DR of DBG_ACC returns. -/
def dbgCapture (s : State) : List Bool :=
  bitList 64 (s.dbg.status + b2n s.dbg.busy.isSome * 16) ++ bitList 64 s.dbg.data.toNat
/-- DBG_ACC: the data register captures, and its update starts an access unless one is under way. -/
def execDbgAcc (v : BitVec 128) (s : State) : Out :=
  let s := loadIr 0x12 (dbgCapture s) s
  if s.dbg.busy.isSome ∨ ¬ mcRuns s then ok s
  else
    let wr := v.getLsbD 48
    let level := getF s fSEC_STAT_DBG_LEVEL
    if level = 0 ∨ (level = 1 ∧ wr) then ok { s with dbg := ⟨none, 1, 0⟩ }
    else ok { s with dbg := { s.dbg with
      busy := some (bits v.toNat 3 45 * 8, wr, (v >>> 56).setWidth 8, (v >>> 64).setWidth 64) } }
/-- A debug access to memory: in the management class, so that a Deep domain answers DOMAIN_DARK (R411). -/
def dbgMemory (r : Region) (node : Nat) (wr : Bool) (a : Nat) (be : BitVec 8) (v : Word) (s : State) : Resp × State :=
  if routeHeld s 0xAA node then (.wait, s) else
  match routeFailsAt s 0xAA node with
  | some x => (match requestFails x 3 0xAA node a 0x61 s with
    | (true, s) => (.done 5 [], s)
    | (false, s) => (.done 6 [], timedOut 3 0xAA node a 0x61 s))
  | none =>
    if mgmtState s (nodeDom node) = 3 then (.done 2 [], tgtLog node a 0x61 3 2 s)
    else match serveMem r node 0x61 wr a ((List.range 8).map be.getLsbD) (leBytes 8 v.toNat) s with
      | (.wait, s) => (.wait, s)
      | (.done st d po, s) =>
        match routeFailsAt s node 0xAA with
        | none => (.done st d po, s)
        | some k => (.done 6 [], timedOut 3 0xAA node a 0x61 (routeDiscard k 3 node 0xAA s))
/-- A debug access, wherever its address lies. -/
def dbgAccess (a : Nat) (wr : Bool) (be : BitVec 8) (v : Word) (s : State) : Resp × State :=
  match locate a with
  | none => (.done 3 [], tgtLog 0xAA a 0x61 2 3 s)
  | some (.regs, _) =>
    let o := a - 0x20000000
    if ¬ wr ∧ accessWaits s false 0x80 o ∨ regHeld s 0xAA o then (.wait, s)
    else
      let (st, x, s) := regAccess 0xAA 0x61 0x80 false wr o (beEn be.toNat) v.toNat s
      (.done st (leBytes 8 x), s)
  | some (r, node) => dbgMemory r node wr a be v s
/-- DBG_ACC_DONE: the access completes. -/
def execDbgAccDone (s : State) : Out :=
  match s.dbg.busy with
  | none => ok s
  | some (a, wr, be, v) =>
    match dbgAccess a wr be v s with
    | (.wait, s) => ok s
    | (.done st d _, s) => ok { s with dbg := ⟨none, st, if wr then 0 else BitVec.ofNat 64 (leNum d)⟩ }

/-! ### MCTP and SPDM (R586–R588) -/

/-- The MCTP endpoint answers on transport t (0 PCIe, 1 SMBus): not while Off, during a firmware switch, or, on PCIe,
before the endpoint is ready. -/
def mctpUp (s : State) (t : Nat) : Bool :=
  !s.offNow && !s.cqHold && (if t = 0 then endpointReady s else !s.warmWait && decide (3 ≤ getF s fBOOT_STAT_STEP))
/-- The SPDM responder answers: besides, the identity check has ended and boot has not failed (R577, R581). -/
def spdmUp (s : State) (t : Nat) : Bool := mctpUp s t && !bitF s fBOOT_STAT_FAILED && decide (5 ≤ getF s fBOOT_STAT_STEP)
def reply (t : Nat) (m : SpdmMsg) (s : State) : State := { s with spdmTx := s.spdmTx ++ [(t, m)] }
/-- SET_ENDPOINT_ID (R586): the bus owner assigns an identifier; 0x00 and 0xFF assign none. -/
def execSetEndpointId (t : Fin 2) (eid : BitVec 8) (s : State) : Out :=
  if mctpUp s t then
    let s := if eid = 0 ∨ eid = 0xFF then s else { s with eids := tset 0 s.eids t eid.toNat }
    ok (reply t (.endpointId (tget 0 s.eids t)) s)
  else ok s
/-- A request in the connection state `need` or later; before it the request is unexpected. -/
def spdmReq (t need : Nat) (act : State → State) (s : State) : Out :=
  if spdmUp s t then
    if tget 0 s.spdm t < need then ok (reply t (.error 4) s) else ok (act s)
  else ok s
def setConn (t k : Nat) (s : State) : State := { s with spdm := tset 0 s.spdm t k }
/-- GET_VERSION. -/
def execGetVersion (t : Fin 2) (s : State) : Out := spdmReq t 0 (fun s => reply t .version (setConn t 1 s)) s
/-- GET_CAPABILITIES, after GET_VERSION alone. -/
def execGetCapabilities (t : Fin 2) (s : State) : Out :=
  spdmReq t 1 (fun s => if tget 0 s.spdm t = 1 then reply t .capabilities (setConn t 2 s) else reply t (.error 4) s) s
/-- NEGOTIATE_ALGORITHMS, after GET_CAPABILITIES alone; `offered`: the requester offers the responder's algorithms. -/
def execNegotiateAlgorithms (t : Fin 2) (offered : Bool) (s : State) : Out :=
  spdmReq t 2 (fun s =>
    if tget 0 s.spdm t ≠ 2 then reply t (.error 4) s
    else if offered then reply t .algorithms (setConn t 3 s) else reply t (.error 1) s) s

/-- The certificate chain of slot 0 (R576, R587). -/
def certChain (s : State) : List Byte := spdmChain (certRegion s)
/-- A request that needs the part's identity (R577). -/
def identified (t : Nat) (act : State → State) (s : State) : State :=
  if bitF s fSEC_STAT_ID_OK then act s else reply t (.error 5) s
/-- GET_DIGESTS. -/
def execGetDigests (t : Fin 2) (s : State) : Out :=
  spdmReq t 3 (identified t (fun s => reply t (.digests (sha384 (certChain s))) s)) s
/-- GET_CERTIFICATE: a portion of the chain of slot 0. -/
def execGetCertificate (t : Fin 2) (slot : BitVec 8) (off len : BitVec 16) (s : State) : Out :=
  spdmReq t 3 (identified t (fun s =>
    let left := (certChain s).drop off.toNat
    if slot ≠ 0 ∨ left = [] then reply t (.error 1) s
    else reply t (.certificate (left.take len.toNat) (left.length - len.toNat)) s)) s

/-! ### Measurements (R583–R585) -/

def dwordList (l : List Nat) : List Byte := l.flatMap (leBytes 8)
/-- The content digest of the access tables. -/
def aclDigest (s : State) : List Byte :=
  let v (r : RegRow) (i j : Nat) : Nat := (rowRead 0x61 r i j s).1
  sha384 ((List.range 256).flatMap fun d =>
    dwordList (((List.range 8).flatMap fun r => [v rowACL_BASE d r, v rowACL_LIMIT d r]) ++
      ((List.range 256).map fun m => v rowACL_PERM d m) ++ [v rowACL_CTL d 0]))
/-- The content digest of the Chart, as stored. -/
def chartDigest (s : State) : List Byte :=
  sha384 ((List.range 2097152).flatMap fun i =>
    leBytes 4 (tget 0 s.chart i ^^^ (tget 0 s.chartErr i).setWidth 32).toNat)
/-- The content digest of partitions and ownership. -/
def ownDigest (s : State) : List Byte :=
  let v (r : RegRow) (i : Nat) : Nat := (rowRead 0x61 r i 0 s).1
  sha384 (dwordList ((List.range 64).map (v rowPART_MAP) ++ (List.range 128).map (v rowRG_OWNER) ++
    (List.range 64).map (v rowHBM_SEED) ++ (List.range 64).map (v rowFUNC_CFG)))
/-- The security state, 8 bytes. -/
def secBytes (s : State) : List Byte :=
  ([fSEC_STAT_SVN_FUSE, fSEC_STAT_SVN_IMG, fSEC_STAT_KEY_SEL, fSEC_STAT_REVOKE, fSEC_STAT_DBG_LEVEL, fSEC_STAT_ID_OK,
    fSEC_STAT_LODESTAR_OFF, fSEC_STAT_FALLBACK].map (getF s)).map (BitVec.ofNat 8)
/-- The indices present. -/
def measureIndices : List Nat := [1, 2, 3, 4, 5, 6] ++ (List.range 136).map (· + 0x10)
/-- A measurement: its index, value type and value. -/
def measurement (s : State) (i : Nat) : Nat × Nat × List Byte :=
  match i with
  | 1 => (1, 0x00, leBytes 48 Config.romDigest.toNat)
  | 2 => (2, 0x01, leBytes 48 ((s.image.map SlotImg.digest).getD 0).toNat)
  | 3 => (3, 0x82, secBytes s)
  | 4 => (4, 0x03, aclDigest s)
  | 5 => (5, 0x03, chartDigest s)
  | 6 => (6, 0x03, ownDigest s)
  | _ => (i, 0x01, extendValue s i)
/-- A measurement block as the summary hash reads it. -/
def measureBlock (m : Nat × Nat × List Byte) : List Byte :=
  let v := m.2.2
  leBytes 1 m.1 ++ leBytes 1 1 ++ leBytes 2 (v.length + 3) ++ leBytes 1 m.2.1 ++ leBytes 2 v.length ++ v
/-- A fresh nonce, and the Lodestar key's signature over what DSP0274 has an answer cover. -/
def signed (s : State) : BitVec 256 × List Byte × State :=
  let (a, s) := draw s
  let (b, s) := draw s
  let (g, s) := lodestarSign (Config.spdmTranscript b) s
  ((Config.nonce a).setWidth 256, g, s)
/-- A content digest of the Chart waits for a CHART_UPDATE in progress (R585). -/
def digestWaits (s : State) : Bool := s.jobs.any fun j => j.op == 0xB && j.phase == .running && j.stage == 3
/-- CHALLENGE: `summary` asks for no measurement summary (0), the trusted part of them (1) or all (0xFF). -/
def execChallenge (t : Fin 2) (slot summary : BitVec 8) (s : State) : Out :=
  if summary = 0xFF ∧ digestWaits s then ok s else
  spdmReq t 3 (fun s =>
    if ¬ canSign s then reply t (.error 5) s
    else if slot ≠ 0 ∨ ¬ (summary = 0 ∨ summary = 1 ∨ summary = 0xFF) then reply t (.error 1) s
    else
      let (sum, s) : List Byte × State :=
        if summary = 0 then ([], s)
        else if summary = 1 then
          let (d, s) := draw s
          (leBytes 48 (Config.nonce d).toNat, s)
        else (sha384 (measureIndices.flatMap fun i => measureBlock (measurement s i)), s)
      let (n, g, s) := signed s
      reply t (.challengeAuth (sha384 (certChain s)) n sum g) s) s
/-- GET_MEASUREMENTS: operation 0 asks how many there are, 0xFF for all, another value for one. -/
def execGetMeasurements (t : Fin 2) (op : BitVec 8) (sign : Bool) (s : State) : Out :=
  if (op = 5 ∨ op = 0xFF) ∧ digestWaits s then ok s else
  spdmReq t 3 (fun s =>
    let idx := if op = 0 then [] else if op = 0xFF then measureIndices else [op.toNat]
    if sign ∧ ¬ canSign s then reply t (.error 5) s
    else if idx.any (fun i => !measureIndices.contains i) then reply t (.error 1) s
    else
      let recs := idx.map (measurement s)
      let (n, g, s) := signed s
      reply t (.measurements (if op = 0 then measureIndices.length else recs.length) recs n (if sign then some g else none)) s) s
/-- SPDM_UNSUPPORTED: any other request. -/
def execSpdmUnsupported (t : Fin 2) (s : State) : Out := spdmReq t 0 (reply t (.error 7)) s
/-- SPDM_BUSY (R588): a request on transport t while one of the other transport is being served. -/
def execSpdmBusy (t : Fin 2) (s : State) : Out := spdmReq t 0 (reply t (.error 3)) s

end Sys2Proof.Machine
end

