-- ==== Sys2Proof/Machine/Dispatch.lean ====
section
/-! DEFINITION. exec: one arm per command of the table; each arm is one direct call of the command's meaning. -/
namespace Sys2Proof.Machine
open Sys2Proof

def exec (i : Instr) (s : State) : Host.Outcome State Fault Refusal :=
  match i with
  | .peExecute n ups bc => Sys2Proof.Machine.execPeExecute n ups bc s
  | .nlatchDelivery n => Sys2Proof.Machine.execNlatchDelivery n s
  | .ueReport n => Sys2Proof.Machine.execUeReport n s
  | .nextWord n flip => Sys2Proof.Machine.execNextWord n flip s
  | .jump n flip => Sys2Proof.Machine.execJump n flip s
  | .microCall n flip => Sys2Proof.Machine.execMicroCall n flip s
  | .microReturn n flip => Sys2Proof.Machine.execMicroReturn n flip s
  | .branchAny n flip => Sys2Proof.Machine.execBranchAny n flip s
  | .branchNone n flip => Sys2Proof.Machine.execBranchNone n flip s
  | .loopC0 n flip => Sys2Proof.Machine.execLoopC0 n flip s
  | .loopC1 n flip => Sys2Proof.Machine.execLoopC1 n flip s
  | .dispatch n flip => Sys2Proof.Machine.execDispatch n flip s
  | .endWord n flip => Sys2Proof.Machine.execEndWord n flip s
  | .holdWord n flip => Sys2Proof.Machine.execHoldWord n flip s
  | .branchMflag n flip => Sys2Proof.Machine.execBranchMflag n flip s
  | .routineStart n => Sys2Proof.Machine.execRoutineStart n s
  | .routineComplete n => Sys2Proof.Machine.execRoutineComplete n s
  | .yieldComplete n => Sys2Proof.Machine.execYieldComplete n s
  | .arrayTrapRecord n => Sys2Proof.Machine.execArrayTrapRecord n s
  | .soundingResult n => Sys2Proof.Machine.execSoundingResult n s
  | .censusResult n => Sys2Proof.Machine.execCensusResult n s
  | .treeMismatch n level f sl => Sys2Proof.Machine.execTreeMismatch n level f sl s
  | .censusMismatch n level f sl => Sys2Proof.Machine.execCensusMismatch n level f sl s
  | .haloAck g m => Sys2Proof.Machine.execHaloAck g m s
  | .xpIdle n => Sys2Proof.Machine.execXpIdle n s
  | .lda n => Sys2Proof.Machine.execLda n s
  | .ldb n => Sys2Proof.Machine.execLdb n s
  | .ldab n => Sys2Proof.Machine.execLdab n s
  | .step n => Sys2Proof.Machine.execStep n s
  | .stepLda n => Sys2Proof.Machine.execStepLda n s
  | .stepLdb n => Sys2Proof.Machine.execStepLdb n s
  | .stepLdab n => Sys2Proof.Machine.execStepLdab n s
  | .swap n => Sys2Proof.Machine.execSwap n s
  | .commit n => Sys2Proof.Machine.execCommit n s
  | .treset n => Sys2Proof.Machine.execTreset n s
  | .wpgo n => Sys2Proof.Machine.execWpgo n s
  | .wpwait n => Sys2Proof.Machine.execWpwait n s
  | .wpTransferEnd f late => Sys2Proof.Machine.execWpTransferEnd f late s
  | .wordTimeComplete f sl fail => Sys2Proof.Machine.execWordTimeComplete f sl fail s
  | .divideComplete f sl d => Sys2Proof.Machine.execDivideComplete f sl d s
  | .sutorNop f sl => Sys2Proof.Machine.execSutorNop f sl s
  | .fadd f sl => Sys2Proof.Machine.execFadd f sl s
  | .fsub f sl => Sys2Proof.Machine.execFsub f sl s
  | .fmul f sl => Sys2Proof.Machine.execFmul f sl s
  | .fma f sl => Sys2Proof.Machine.execFma f sl s
  | .fmin f sl => Sys2Proof.Machine.execFmin f sl s
  | .fmax f sl => Sys2Proof.Machine.execFmax f sl s
  | .fabs f sl => Sys2Proof.Machine.execFabs f sl s
  | .fcmpeq f sl => Sys2Proof.Machine.execFcmpeq f sl s
  | .fcmplt f sl => Sys2Proof.Machine.execFcmplt f sl s
  | .fcmple f sl => Sys2Proof.Machine.execFcmple f sl s
  | .cvt f sl => Sys2Proof.Machine.execCvt f sl s
  | .imul f sl => Sys2Proof.Machine.execImul f sl s
  | .imulh f sl => Sys2Proof.Machine.execImulh f sl s
  | .idiv f sl => Sys2Proof.Machine.execIdiv f sl s
  | .irem f sl => Sys2Proof.Machine.execIrem f sl s
  | .imin f sl => Sys2Proof.Machine.execImin f sl s
  | .imax f sl => Sys2Proof.Machine.execImax f sl s
  | .iabs f sl => Sys2Proof.Machine.execIabs f sl s
  | .icmpeq f sl => Sys2Proof.Machine.execIcmpeq f sl s
  | .icmplt f sl => Sys2Proof.Machine.execIcmplt f sl s
  | .dadd f sl => Sys2Proof.Machine.execDadd f sl s
  | .dsub f sl => Sys2Proof.Machine.execDsub f sl s
  | .accrd f sl => Sys2Proof.Machine.execAccrd f sl s
  | .accld f sl => Sys2Proof.Machine.execAccld f sl s
  | .accz f sl => Sys2Proof.Machine.execAccz f sl s
  | .smodeWrite m n v => Sys2Proof.Machine.execSmodeWrite m n v s
  | .yieldReq m n => Sys2Proof.Machine.execYieldReq m n s
  | .resume m n => Sys2Proof.Machine.execResume m n s
  | .abort m n => Sys2Proof.Machine.execAbort m n s
  | .parkQueue m n => Sys2Proof.Machine.execParkQueue m n s
  | .unpark m n => Sys2Proof.Machine.execUnpark m n s
  | .dropPark m n => Sys2Proof.Machine.execDropPark m n s
  | .seqHalt m n => Sys2Proof.Machine.execSeqHalt m n s
  | .preq m n => Sys2Proof.Machine.execPreq m n s
  | .hmsgInWrite m n v => Sys2Proof.Machine.execHmsgInWrite m n v s
  | .hmsgOutWrite n v => Sys2Proof.Machine.execHmsgOutWrite n v s
  | .timerMatch n => Sys2Proof.Machine.execTimerMatch n s
  | .edgeCfgWrite m n v => Sys2Proof.Machine.execEdgeCfgWrite m n v s
  | .haloClr m n => Sys2Proof.Machine.execHaloClr m n s
  | .leaseMapWrite m n v => Sys2Proof.Machine.execLeaseMapWrite m n v s
  | .injectArm m n v => Sys2Proof.Machine.execInjectArm m n v s
  | .rbDataRead m n => Sys2Proof.Machine.execRbDataRead m n s
  | .surveyBorrow t r fail sweep => Sys2Proof.Machine.execSurveyBorrow t r fail sweep s
  | .rowYield f stall => Sys2Proof.Machine.execRowYield f stall s
  | .stagingYield q stall => Sys2Proof.Machine.execStagingYield q stall s
  | .trapEntry n => Sys2Proof.Machine.execTrapEntry n s
  | .interruptEntry n => Sys2Proof.Machine.execInterruptEntry n s
  | .add n e => Sys2Proof.Machine.execAdd n e s
  | .sub n e => Sys2Proof.Machine.execSub n e s
  | .andOp n e => Sys2Proof.Machine.execAndOp n e s
  | .orOp n e => Sys2Proof.Machine.execOrOp n e s
  | .xorOp n e => Sys2Proof.Machine.execXorOp n e s
  | .andn n e => Sys2Proof.Machine.execAndn n e s
  | .sll n e => Sys2Proof.Machine.execSll n e s
  | .srl n e => Sys2Proof.Machine.execSrl n e s
  | .sra n e => Sys2Proof.Machine.execSra n e s
  | .ror n e => Sys2Proof.Machine.execRor n e s
  | .mul n e => Sys2Proof.Machine.execMul n e s
  | .mulh n e => Sys2Proof.Machine.execMulh n e s
  | .mulhu n e => Sys2Proof.Machine.execMulhu n e s
  | .div n e => Sys2Proof.Machine.execDiv n e s
  | .divu n e => Sys2Proof.Machine.execDivu n e s
  | .rem n e => Sys2Proof.Machine.execRem n e s
  | .remu n e => Sys2Proof.Machine.execRemu n e s
  | .seteq n e => Sys2Proof.Machine.execSeteq n e s
  | .setne n e => Sys2Proof.Machine.execSetne n e s
  | .setlt n e => Sys2Proof.Machine.execSetlt n e s
  | .setltu n e => Sys2Proof.Machine.execSetltu n e s
  | .min n e => Sys2Proof.Machine.execMin n e s
  | .max n e => Sys2Proof.Machine.execMax n e s
  | .minu n e => Sys2Proof.Machine.execMinu n e s
  | .maxu n e => Sys2Proof.Machine.execMaxu n e s
  | .perm n e => Sys2Proof.Machine.execPerm n e s
  | .clz n e => Sys2Proof.Machine.execClz n e s
  | .ctz n e => Sys2Proof.Machine.execCtz n e s
  | .popc n e => Sys2Proof.Machine.execPopc n e s
  | .addi n e => Sys2Proof.Machine.execAddi n e s
  | .andi n e => Sys2Proof.Machine.execAndi n e s
  | .ori n e => Sys2Proof.Machine.execOri n e s
  | .xori n e => Sys2Proof.Machine.execXori n e s
  | .setlti n e => Sys2Proof.Machine.execSetlti n e s
  | .setltui n e => Sys2Proof.Machine.execSetltui n e s
  | .lsi n e => Sys2Proof.Machine.execLsi n e s
  | .ld8 n e => Sys2Proof.Machine.execLd8 n e s
  | .ld16 n e => Sys2Proof.Machine.execLd16 n e s
  | .ld32 n e => Sys2Proof.Machine.execLd32 n e s
  | .ld64 n e => Sys2Proof.Machine.execLd64 n e s
  | .ld8s n e => Sys2Proof.Machine.execLd8s n e s
  | .ld16s n e => Sys2Proof.Machine.execLd16s n e s
  | .ld32s n e => Sys2Proof.Machine.execLd32s n e s
  | .st8 n e => Sys2Proof.Machine.execSt8 n e s
  | .st16 n e => Sys2Proof.Machine.execSt16 n e s
  | .st32 n e => Sys2Proof.Machine.execSt32 n e s
  | .st64 n e => Sys2Proof.Machine.execSt64 n e s
  | .ild n e => Sys2Proof.Machine.execIld n e s
  | .inPort n e => Sys2Proof.Machine.execInPort n e s
  | .outPort n e => Sys2Proof.Machine.execOutPort n e s
  | .loop n e => Sys2Proof.Machine.execLoop n e s
  | .beq n e => Sys2Proof.Machine.execBeq n e s
  | .bne n e => Sys2Proof.Machine.execBne n e s
  | .blt n e => Sys2Proof.Machine.execBlt n e s
  | .bge n e => Sys2Proof.Machine.execBge n e s
  | .bltu n e => Sys2Proof.Machine.execBltu n e s
  | .bgeu n e => Sys2Proof.Machine.execBgeu n e s
  | .beqz n e => Sys2Proof.Machine.execBeqz n e s
  | .bnez n e => Sys2Proof.Machine.execBnez n e s
  | .bltz n e => Sys2Proof.Machine.execBltz n e s
  | .bgez n e => Sys2Proof.Machine.execBgez n e s
  | .bgtz n e => Sys2Proof.Machine.execBgtz n e s
  | .blez n e => Sys2Proof.Machine.execBlez n e s
  | .jmp n e => Sys2Proof.Machine.execJmp n e s
  | .call n e => Sys2Proof.Machine.execCall n e s
  | .callr n e => Sys2Proof.Machine.execCallr n e s
  | .acall n e => Sys2Proof.Machine.execAcall n e s
  | .bfx n e => Sys2Proof.Machine.execBfx n e s
  | .bfi n e => Sys2Proof.Machine.execBfi n e s
  | .mfsr n e => Sys2Proof.Machine.execMfsr n e s
  | .mtsr n e => Sys2Proof.Machine.execMtsr n e s
  | .slli n e => Sys2Proof.Machine.execSlli n e s
  | .srli n e => Sys2Proof.Machine.execSrli n e s
  | .srai n e => Sys2Proof.Machine.execSrai n e s
  | .returnOp n e => Sys2Proof.Machine.execReturnOp n e s
  | .jr n e => Sys2Proof.Machine.execJr n e s
  | .eret n e => Sys2Proof.Machine.execEret n e s
  | .haltOp n e => Sys2Proof.Machine.execHaltOp n e s
  | .await n e => Sys2Proof.Machine.execAwait n e s
  | .asnd n e => Sys2Proof.Machine.execAsnd n e s
  | .brk n e => Sys2Proof.Machine.execBrk n e s
  | .shortNop n e => Sys2Proof.Machine.execShortNop n e s
  | .mov n e => Sys2Proof.Machine.execMov n e s
  | .shortAdd n e => Sys2Proof.Machine.execShortAdd n e s
  | .shortSub n e => Sys2Proof.Machine.execShortSub n e s
  | .shortAnd n e => Sys2Proof.Machine.execShortAnd n e s
  | .shortOr n e => Sys2Proof.Machine.execShortOr n e s
  | .shortXor n e => Sys2Proof.Machine.execShortXor n e s
  | .notOp n e => Sys2Proof.Machine.execNotOp n e s
  | .neg n e => Sys2Proof.Machine.execNeg n e s
  | .adds n e => Sys2Proof.Machine.execAdds n e s
  | .movi n e => Sys2Proof.Machine.execMovi n e s
  | .slls n e => Sys2Proof.Machine.execSlls n e s
  | .srls n e => Sys2Proof.Machine.execSrls n e s
  | .sras n e => Sys2Proof.Machine.execSras n e s
  | .shortClz n e => Sys2Proof.Machine.execShortClz n e s
  | .shortCtz n e => Sys2Proof.Machine.execShortCtz n e s
  | .shortPopc n e => Sys2Proof.Machine.execShortPopc n e s
  | .ldq n e => Sys2Proof.Machine.execLdq n e s
  | .stq n e => Sys2Proof.Machine.execStq n e s
  | .ldqp n e => Sys2Proof.Machine.execLdqp n e s
  | .stqp n e => Sys2Proof.Machine.execStqp n e s
  | .zxw n e => Sys2Proof.Machine.execZxw n e s
  | .sxw n e => Sys2Proof.Machine.execSxw n e s
  | .bswap n e => Sys2Proof.Machine.execBswap n e s
  | .rep n e => Sys2Proof.Machine.execRep n e s
  | .repi n e => Sys2Proof.Machine.execRepi n e s
  | .scratchpadPart n r k w ups => Sys2Proof.Machine.execScratchpadPart n r k w ups s
  | .spadStarve n r k => Sys2Proof.Machine.execSpadStarve n r k s
  | .sqDoorbell f r size off v => Sys2Proof.Machine.execSqDoorbell f r size off v s
  | .cqDoorbell f r size off v => Sys2Proof.Machine.execCqDoorbell f r size off v s
  | .descriptorFetch r ce => Sys2Proof.Machine.execDescriptorFetch r ce s
  | .descriptorArrival r ds => Sys2Proof.Machine.execDescriptorArrival r ds s
  | .descriptorFetchFail r => Sys2Proof.Machine.execDescriptorFetchFail r s
  | .nop r => Sys2Proof.Machine.execNop r s
  | .launch r => Sys2Proof.Machine.execLaunch r s
  | .dmaIn r => Sys2Proof.Machine.execDmaIn r s
  | .dmaOut r => Sys2Proof.Machine.execDmaOut r s
  | .copy r => Sys2Proof.Machine.execCopy r s
  | .dmaTransferEnd e late => Sys2Proof.Machine.execDmaTransferEnd e late s
  | .hostReadTimeout e k => Sys2Proof.Machine.execHostReadTimeout e k s
  | .almanacLoad r => Sys2Proof.Machine.execAlmanacLoad r s
  | .imageLoad r => Sys2Proof.Machine.execImageLoad r s
  | .sourceReadDone e => Sys2Proof.Machine.execSourceReadDone e s
  | .loadWriteDone n => Sys2Proof.Machine.execLoadWriteDone n s
  | .fabricLoad r => Sys2Proof.Machine.execFabricLoad r s
  | .fence r => Sys2Proof.Machine.execFence r s
  | .fenceRelease r => Sys2Proof.Machine.execFenceRelease r s
  | .watchSet r => Sys2Proof.Machine.execWatchSet r s
  | .power r => Sys2Proof.Machine.execPower r s
  | .chartUpdate r => Sys2Proof.Machine.execChartUpdate r s
  | .spare r => Sys2Proof.Machine.execSpare r s
  | .readback r => Sys2Proof.Machine.execReadback r s
  | .readbackCopyDone n isr late => Sys2Proof.Machine.execReadbackCopyDone n isr late s
  | .barrier r => Sys2Proof.Machine.execBarrier r s
  | .msixHoldoffEnd r => Sys2Proof.Machine.execMsixHoldoffEnd r s
  | .ringEnable f r v => Sys2Proof.Machine.execRingEnable f r v s
  | .ringDisable f r v => Sys2Proof.Machine.execRingDisable f r v s
  | .rgOwnerWrite m g v => Sys2Proof.Machine.execRgOwnerWrite m g v s
  | .flr f => Sys2Proof.Machine.execFlr f s
  | .vfDisable num => Sys2Proof.Machine.execVfDisable num s
  | .bar4Access f wr off en data => Sys2Proof.Machine.execBar4Access f wr off en data s
  | .registerWrite m o n v => Sys2Proof.Machine.execRegisterWrite m o n v s
  | .registerLineRequest r => Sys2Proof.Machine.execRegisterLineRequest r s
  | .stagingAccess k rs ups => Sys2Proof.Machine.execStagingAccess k rs ups s
  | .translatedRequest r => Sys2Proof.Machine.execTranslatedRequest r s
  | .chartFetchDone k flip => Sys2Proof.Machine.execChartFetchDone k flip s
  | .rawRequest r => Sys2Proof.Machine.execRawRequest r s
  | .hbmServe c e => Sys2Proof.Machine.execHbmServe c e s
  | .hotWindow obs => Sys2Proof.Machine.execHotWindow obs s
  | .hbmSeedWrite m p v => Sys2Proof.Machine.execHbmSeedWrite m p v s
  | .lineInvalidate n line => Sys2Proof.Machine.execLineInvalidate n line s
  | .entryInvalidate ix => Sys2Proof.Machine.execEntryInvalidate ix s
  | .invalidateAll d => Sys2Proof.Machine.execInvalidateAll d s
  | .acknowledge d => Sys2Proof.Machine.execAcknowledge d s
  | .nocHop x errs upset => Sys2Proof.Machine.execNocHop x errs upset s
  | .nocDeliver ix e => Sys2Proof.Machine.execNocDeliver ix e s
  | .responseTimeout src tid => Sys2Proof.Machine.execResponseTimeout src tid s
  | .orphanTimeout d src tid => Sys2Proof.Machine.execOrphanTimeout d src tid s
  | .retryResend src tid => Sys2Proof.Machine.execRetryResend src tid s
  | .routeWrite m d b e v => Sys2Proof.Machine.execRouteWrite m d b e v s
  | .epochSwitch m => Sys2Proof.Machine.execEpochSwitch m s
  | .epochSwitchDone => Sys2Proof.Machine.execEpochSwitchDone s
  | .routerGo m r pe => Sys2Proof.Machine.execRouterGo m r pe s
  | .routerWindowEnd r => Sys2Proof.Machine.execRouterWindowEnd r s
  | .linkEnable m j v => Sys2Proof.Machine.execLinkEnable m j v s
  | .signalDetect j lanes => Sys2Proof.Machine.execSignalDetect j lanes s
  | .trainDone j tx rx => Sys2Proof.Machine.execTrainDone j tx rx s
  | .alignDone j tx rx => Sys2Proof.Machine.execAlignDone j tx rx s
  | .bringupTimeout j => Sys2Proof.Machine.execBringupTimeout j s
  | .identFlit j => Sys2Proof.Machine.execIdentFlit j s
  | .nonce j => Sys2Proof.Machine.execNonce j s
  | .cert j => Sys2Proof.Machine.execCert j s
  | .sig j => Sys2Proof.Machine.execSig j s
  | .codewordReceive j lane bits => Sys2Proof.Machine.execCodewordReceive j lane bits s
  | .llFlit j => Sys2Proof.Machine.execLlFlit j s
  | .laneLoss j l => Sys2Proof.Machine.execLaneLoss j l s
  | .laneRetire m j lanes => Sys2Proof.Machine.execLaneRetire m j lanes s
  | .laneRetrain m j lanes => Sys2Proof.Machine.execLaneRetrain m j lanes s
  | .retrain j => Sys2Proof.Machine.execRetrain j s
  | .retrainDone j trained => Sys2Proof.Machine.execRetrainDone j trained s
  | .retrainFail j l => Sys2Proof.Machine.execRetrainFail j l s
  | .llSilence j => Sys2Proof.Machine.execLlSilence j s
  | .rttMeasure j ns => Sys2Proof.Machine.execRttMeasure j ns s
  | .haloFlitTx j c late => Sys2Proof.Machine.execHaloFlitTx j c late s
  | .haloFlitRx j c => Sys2Proof.Machine.execHaloFlitRx j c s
  | .tunnelCommand m j v => Sys2Proof.Machine.execTunnelCommand m j v s
  | .tunnelStart j => Sys2Proof.Machine.execTunnelStart j s
  | .tunnelWaitTimeout j => Sys2Proof.Machine.execTunnelWaitTimeout j s
  | .tunnelCommandDone j => Sys2Proof.Machine.execTunnelCommandDone j s
  | .tunnelRequest j => Sys2Proof.Machine.execTunnelRequest j s
  | .tunnelResponse j => Sys2Proof.Machine.execTunnelResponse j s
  | .linkPark j => Sys2Proof.Machine.execLinkPark j s
  | .parkAck j => Sys2Proof.Machine.execParkAck j s
  | .parkAckTimeout j => Sys2Proof.Machine.execParkAckTimeout j s
  | .linkWakeDetect j => Sys2Proof.Machine.execLinkWakeDetect j s
  | .reveilleDetect j => Sys2Proof.Machine.execReveilleDetect j s
  | .reveille m j => Sys2Proof.Machine.execReveille m j s
  | .reveilleEnd j => Sys2Proof.Machine.execReveilleEnd j s
  | .fleetIdWrite m v => Sys2Proof.Machine.execFleetIdWrite m v s
  | .laneModeWrite m j v => Sys2Proof.Machine.execLaneModeWrite m j v s
  | .announce j => Sys2Proof.Machine.execAnnounce j s
  | .announceTimer => Sys2Proof.Machine.execAnnounceTimer s
  | .candidateTimeout j prio idx => Sys2Proof.Machine.execCandidateTimeout j prio idx s
  | .syncInterval => Sys2Proof.Machine.execSyncInterval s
  | .sync j => Sys2Proof.Machine.execSync j s
  | .delayReq j => Sys2Proof.Machine.execDelayReq j s
  | .delayResp j => Sys2Proof.Machine.execDelayResp j s
  | .watchBell w => Sys2Proof.Machine.execWatchBell w s
  | .wDone n => Sys2Proof.Machine.execWDone n s
  | .watchModeWrite m w v => Sys2Proof.Machine.execWatchModeWrite m w v s
  | .arrive j => Sys2Proof.Machine.execArrive j s
  | .release j => Sys2Proof.Machine.execRelease j s
  | .barrierComplete b => Sys2Proof.Machine.execBarrierComplete b s
  | .barrierTimeout r => Sys2Proof.Machine.execBarrierTimeout r s
  | .fabClkWrite m g t v => Sys2Proof.Machine.execFabClkWrite m g t v s
  | .clockRestart g t dead => Sys2Proof.Machine.execClockRestart g t dead s
  | .clkLost g t => Sys2Proof.Machine.execClkLost g t s
  | .capture m g => Sys2Proof.Machine.execCapture m g s
  | .captureDone g => Sys2Proof.Machine.execCaptureDone g s
  | .fabRbDataRead m g => Sys2Proof.Machine.execFabRbDataRead m g s
  | .loadRelease g => Sys2Proof.Machine.execLoadRelease g s
  | .releaseStage g t => Sys2Proof.Machine.execReleaseStage g t s
  | .configScan g bad => Sys2Proof.Machine.execConfigScan g bad s
  | .pwrReq n v => Sys2Proof.Machine.execPwrReq n v s
  | .duskDrainEnd d => Sys2Proof.Machine.execDuskDrainEnd d s
  | .drainMaxExpiry d => Sys2Proof.Machine.execDrainMaxExpiry d s
  | .duskStepDone d => Sys2Proof.Machine.execDuskStepDone d s
  | .dawnStepDone d => Sys2Proof.Machine.execDawnStepDone d s
  | .dawnStepTimeout d => Sys2Proof.Machine.execDawnStepTimeout d s
  | .faultClear d => Sys2Proof.Machine.execFaultClear d s
  | .wakeN => Sys2Proof.Machine.execWakeN s
  | .pcieWake => Sys2Proof.Machine.execPcieWake s
  | .aonTimerMatch => Sys2Proof.Machine.execAonTimerMatch s
  | .governorUpdate pwr tj => Sys2Proof.Machine.execGovernorUpdate pwr tj s
  | .thermalTrip => Sys2Proof.Machine.execThermalTrip s
  | .offEntry => Sys2Proof.Machine.execOffEntry s
  | .sparePretestDone f good => Sys2Proof.Machine.execSparePretestDone f good s
  | .spareQuiesced f => Sys2Proof.Machine.execSpareQuiesced f s
  | .spareCopyDone f => Sys2Proof.Machine.execSpareCopyDone f s
  | .hbmRecal m k ch => Sys2Proof.Machine.execHbmRecal m k ch s
  | .hbmRecalDone k us => Sys2Proof.Machine.execHbmRecalDone k us s
  | .fwStage m => Sys2Proof.Machine.execFwStage m s
  | .fwStageDone flashOk => Sys2Proof.Machine.execFwStageDone flashOk s
  | .fwSwitch m => Sys2Proof.Machine.execFwSwitch m s
  | .fwSwitchDone us => Sys2Proof.Machine.execFwSwitchDone us s
  | .svnCommit m => Sys2Proof.Machine.execSvnCommit m s
  | .revoke0 m => Sys2Proof.Machine.execRevoke0 m s
  | .fuseWriteDone => Sys2Proof.Machine.execFuseWriteDone s
  | .fatalError unit addr => Sys2Proof.Machine.execFatalError unit addr s
  | .domainReset m d => Sys2Proof.Machine.execDomainReset m d s
  | .domainResetDone => Sys2Proof.Machine.execDomainResetDone s
  | .partitionDefine m f wlog hlog func => Sys2Proof.Machine.execPartitionDefine m f wlog hlog func s
  | .partitionRemove m f => Sys2Proof.Machine.execPartitionRemove m f s
  | .partitionReset m f => Sys2Proof.Machine.execPartitionReset m f s
  | .partCmdDone => Sys2Proof.Machine.execPartCmdDone s
  | .aclLock m d => Sys2Proof.Machine.execAclLock m d s
  | .tapReset => Sys2Proof.Machine.execTapReset s
  | .extest cells upd => Sys2Proof.Machine.execExtest cells upd s
  | .samplePreload cells upd => Sys2Proof.Machine.execSamplePreload cells upd s
  | .idcode => Sys2Proof.Machine.execIdcode s
  | .highz => Sys2Proof.Machine.execHighz s
  | .clamp => Sys2Proof.Machine.execClamp s
  | .extestPulse cells upd => Sys2Proof.Machine.execExtestPulse cells upd s
  | .extestTrain cells upd => Sys2Proof.Machine.execExtestTrain cells upd s
  | .bypass => Sys2Proof.Machine.execBypass s
  | .dbgChal => Sys2Proof.Machine.execDbgChal s
  | .dbgResp v => Sys2Proof.Machine.execDbgResp v s
  | .dbgAcc v => Sys2Proof.Machine.execDbgAcc v s
  | .dbgAccDone => Sys2Proof.Machine.execDbgAccDone s
  | .dbgStat => Sys2Proof.Machine.execDbgStat s
  | .setEndpointId t eid => Sys2Proof.Machine.execSetEndpointId t eid s
  | .getVersion t => Sys2Proof.Machine.execGetVersion t s
  | .getCapabilities t => Sys2Proof.Machine.execGetCapabilities t s
  | .negotiateAlgorithms t offered => Sys2Proof.Machine.execNegotiateAlgorithms t offered s
  | .getDigests t => Sys2Proof.Machine.execGetDigests t s
  | .getCertificate t slot off len => Sys2Proof.Machine.execGetCertificate t slot off len s
  | .challenge t slot summary => Sys2Proof.Machine.execChallenge t slot summary s
  | .getMeasurements t op sign => Sys2Proof.Machine.execGetMeasurements t op sign s
  | .spdmUnsupported t => Sys2Proof.Machine.execSpdmUnsupported t s
  | .spdmBusy t => Sys2Proof.Machine.execSpdmBusy t s
  | .pwrGoodFall fused => Sys2Proof.Machine.execPwrGoodFall fused s
  | .aonPowerUp => Sys2Proof.Machine.execAonPowerUp s
  | .perstNFall => Sys2Proof.Machine.execPerstNFall s
  | .bootStart => Sys2Proof.Machine.execBootStart s
  | .bootStepDone o => Sys2Proof.Machine.execBootStepDone o s
  | .avsWrite mv => Sys2Proof.Machine.execAvsWrite mv s
  | .avsAck => Sys2Proof.Machine.execAvsAck s
  | .avsRetry => Sys2Proof.Machine.execAvsRetry s
  | .registerRead m o n => Sys2Proof.Machine.execRegisterRead m o n s
  | .treeEdge g ts pins ph ups => Sys2Proof.Machine.execTreeEdge g ts pins ph ups s
  | .pmaWordReceived g l w late => Sys2Proof.Machine.execPmaWordReceived g l w late s
  | .pmaWordSent g l late => Sys2Proof.Machine.execPmaWordSent g l late s
  | .codewordTransmit j => Sys2Proof.Machine.execCodewordTransmit j s
  | .hostReadCompletion e k x => Sys2Proof.Machine.execHostReadCompletion e k x s
  | .vfEnable num => Sys2Proof.Machine.execVfEnable num s
  | .stackTemperatureRead k t => Sys2Proof.Machine.execStackTemperatureRead k t s
  | .vddGpioRise g high => Sys2Proof.Machine.execVddGpioRise g high s

end Sys2Proof.Machine
end

