-- ==== Sys2Proof/Safety.lean ====
section
/-! DEFINITION. What counts as a sound state, in the terms that statements use. -/
namespace Sys2Proof.Machine
open Sys2Proof

/-- The memory of the part is in its canonical form: addresses strictly rising, no byte listed that reads as 0. -/
abbrev Memory.wf (m : List Host.Cell) : Bool := tcanon 0 m
/-- The invariant of the memories: staging, scratchpads and HBM are held canonically. -/
abbrev State.memOk (s : State) : Prop := Memory.wf s.mem = true
/-- What the state keeps about descriptors, events, partitions and resets names rings, DMA engines, functions and sequencers
that the part has: rings 0 to 8191 (R321), engines 0 to 15 (R381), functions and sequencers 0 to 63 (R568, R14). -/
structure State.Numbered (s : State) : Prop where
  jobs : ∀ j ∈ s.jobs, j.ring < 8192 ∧ ∀ e, j.eng = some e → e < 16
  held : ∀ h ∈ s.heldCqe, h.job.ring < 8192
  events : ∀ e ∈ s.evtHeld, e.1 < 64
  parts : ∀ p ∈ s.parts, p.1 < 64 ∧ p.2.func < 64
  command : ∀ c, s.partCmd = some c → c.master < 64 ∧ c.part.func < 64
  resets : ∀ e ∈ s.flrWait, e.1 < 64

end Sys2Proof.Machine
end

