-- ==== Sys2Proof/WellFormed.lean ====
section
/-! DEFINITION. Which commands are well formed: their masters and nodes exist, and their lists fit together. A command
that is not still has its meaning; it is one that nothing outside the part sends. -/
namespace Sys2Proof
open Sys2Proof.Machine

/-- The master ID of the host's functions and of the management controller (R568). -/
def masterHost (m : BitVec 8) : Bool := m == 0x61 || (decide (0x80 ≤ m.toNat) && decide (m.toNat ≤ 0xBF))
/-- A line request comes from a node that exists, under a master ID that is not reserved. -/
def LineReq.wf (r : LineReq) : Bool := nodeExists r.node.toNat && !masterReserved r.master.toNat
/-- A step of a packet names nodes that exist. -/
def NocMove.wf : NocMove → Bool
  | .line r => r.wf
  | .register src _ m _ _ _ _ => nodeExists src.toNat && !masterReserved m.toNat
  | .invalidate src d _ _ _ => nodeExists src.toNat && nodeExists d.toNat
  | .move _ => true

/-- A command is well formed. -/
def Instr.wf : Instr → Bool
  | .smodeWrite m _ _ => masterHost m
  | .yieldReq m _ => masterHost m
  | .resume m _ => masterHost m
  | .abort m _ => masterHost m
  | .parkQueue m _ => masterHost m
  | .unpark m _ => masterHost m
  | .dropPark m _ => masterHost m
  | .seqHalt m _ => masterHost m
  | .preq m _ => masterHost m
  | .hmsgInWrite m _ _ => masterHost m
  | .edgeCfgWrite m _ _ => masterHost m
  | .haloClr m _ => masterHost m
  | .leaseMapWrite m _ _ => masterHost m
  | .injectArm m _ _ => masterHost m
  | .rbDataRead m _ => masterHost m
  | .scratchpadPart _ r _ _ _ => r.wf
  | .spadStarve _ r _ => r.wf
  | .rgOwnerWrite m _ _ => masterHost m
  | .bar4Access _ wr _ en data => decide (en.length ≤ 512) && (if wr then data.length == en.length else data.isEmpty)
  | .registerWrite m o n _ => masterHost m && ((n.val == 4 && o.toNat % 4 == 0) || (n.val == 8 && o.toNat % 8 == 0))
  | .registerLineRequest r => r.wf
  | .stagingAccess _ rs _ => rs.all LineReq.wf
  | .translatedRequest r => r.wf
  | .rawRequest r => r.wf
  | .hbmSeedWrite m _ _ => masterHost m
  | .nocHop x _ _ => x.wf
  | .routeWrite m _ _ _ _ => masterHost m
  | .epochSwitch m => masterHost m
  | .routerGo m _ _ => masterHost m
  | .linkEnable m _ _ => masterHost m
  | .laneRetire m _ _ => masterHost m
  | .laneRetrain m _ _ => masterHost m
  | .tunnelCommand m _ _ => masterHost m
  | .reveille m _ => masterHost m
  | .fleetIdWrite m _ => masterHost m
  | .laneModeWrite m _ _ => masterHost m
  | .watchModeWrite m _ _ => masterHost m
  | .fabClkWrite m _ _ _ => masterHost m
  | .capture m _ => masterHost m
  | .fabRbDataRead m _ => masterHost m
  | .hbmRecal m _ _ => masterHost m
  | .fwStage m => masterHost m
  | .fwSwitch m => masterHost m
  | .svnCommit m => masterHost m
  | .revoke0 m => masterHost m
  | .domainReset m _ => masterHost m
  | .partitionDefine m _ _ _ _ => masterHost m
  | .partitionRemove m _ => masterHost m
  | .partitionReset m _ => masterHost m
  | .aclLock m _ => masterHost m
  | .extest cells upd => cells.length == upd.length
  | .samplePreload cells upd => cells.length == upd.length
  | .extestPulse cells upd => cells.length == upd.length
  | .extestTrain cells upd => cells.length == upd.length
  | .registerRead m o n => masterHost m && ((n.val == 4 && o.toNat % 4 == 0) || (n.val == 8 && o.toNat % 8 == 0))
  | _ => true

end Sys2Proof
end

