-- ==== Sys2Proof/Certificates/Slice0/Obligations.lean ====
section
/-! DEFINITION. The statements for the provers, with the few names they share. -/
namespace Sys2Proof.Claims
open Sys2Proof Sys2Proof.Machine

/-- A number of bits set in a list of truth values. -/
def trues (l : List Bool) : Nat := (l.filter id).length

/-! ### The Belsar core -/

/-- The core of sequencer n may run its next word, and the word at its program counter is the long operation o. -/
def AtLong (s : State) (n : Fin 64) (o : BOp) : Prop :=
  coreReady s n = true ∧ imemWord s n (getCore s n).pc = some (.long o)
/-- As above for a pair, from its first operation. -/
def AtPair (s : State) (n : Fin 64) (a b : BOp) : Prop :=
  coreReady s n = true ∧ (getCore s n).slot = false ∧ imemWord s n (getCore s n).pc = some (.pair a b)
/-- A word completes without a taken transfer: the pc, repeat and loop levels go on as `completeWord` says (R277, R278),
and a halt that waited takes effect (R289). -/
def wordDone (n : Nat) (s : State) : State := finishWord n (updCore n (completeWord none) s)
/-- A word completes with control going to word t. -/
def wordGoes (n : Nat) (t : BitVec 14) (s : State) : State :=
  finishWord n (updCore n (completeWord (some (t, false, none))) s)
/-- A word ends in a trap with a cause and its particulars, at the operation that stands in `slot`. -/
def wordTraps (n cause status why : Nat) (bad : Option (BitVec 32)) (mcsrc : Nat) (slot : Bool) (s : State) : State :=
  finishWord n (raiseTrap n cause slot status why bad mcsrc s)

/-- The commands of the R-form operations, each with the result it writes to rd from rs, rt and the old rd. -/
def aluTable : List ((Fin 64 → CoreErr → Instr) × Op × (Word → Word → Word → Word)) :=
  [(.add, .add, fun a b _ => a + b), (.sub, .sub, fun a b _ => a - b), (.andOp, .andOp, fun a b _ => a &&& b),
   (.orOp, .orOp, fun a b _ => a ||| b), (.xorOp, .xorOp, fun a b _ => a ^^^ b),
   (.andn, .andn, fun a b _ => a &&& ~~~b), (.sll, .sll, fun a b _ => a <<< (b.toNat % 64)),
   (.srl, .srl, fun a b _ => a >>> (b.toNat % 64)), (.sra, .sra, fun a b _ => a.sshiftRight (b.toNat % 64)),
   (.ror, .ror, fun a b _ => a.rotateRight (b.toNat % 64)), (.mul, .mul, fun a b _ => a * b),
   (.mulh, .mulh, fun a b _ => BitVec.ofInt 64 (a.toInt * b.toInt / 2 ^ 64)),
   (.mulhu, .mulhu, fun a b _ => BitVec.ofNat 64 (a.toNat * b.toNat / 2 ^ 64)),
   (.seteq, .seteq, fun a b _ => if a = b then 1 else 0), (.setne, .setne, fun a b _ => if a = b then 0 else 1),
   (.setlt, .setlt, fun a b _ => if a.toInt < b.toInt then 1 else 0),
   (.setltu, .setltu, fun a b _ => if a.toNat < b.toNat then 1 else 0),
   (.min, .min, fun a b _ => if a.toInt < b.toInt then a else b),
   (.max, .max, fun a b _ => if a.toInt < b.toInt then b else a),
   (.minu, .minu, fun a b _ => if a.toNat < b.toNat then a else b),
   (.maxu, .maxu, fun a b _ => if a.toNat < b.toNat then b else a)]
/-- The divisions, PERM and the counts, in the same shape (R269–R271). -/
def divTable : List ((Fin 64 → CoreErr → Instr) × Op × (Word → Word → Word → Word)) :=
  [(.div, .div, fun a b _ => if b = 0 then BitVec.allOnes 64 else BitVec.ofInt 64 (a.toInt.tdiv b.toInt)),
   (.divu, .divu, fun a b _ => if b = 0 then BitVec.allOnes 64 else BitVec.ofNat 64 (a.toNat / b.toNat)),
   (.rem, .rem, fun a b _ => if b = 0 then a else BitVec.ofInt 64 (a.toInt.tmod b.toInt)),
   (.remu, .remu, fun a b _ => if b = 0 then a else BitVec.ofNat 64 (a.toNat % b.toNat)),
   (.perm, .perm, fun a b d => BitVec.ofNat 64 (leNum ((List.range 8).map fun i =>
     let k := b.toNat / 2 ^ (4 * i) % 16
     if k < 8 then BitVec.ofNat 8 (a.toNat / 2 ^ (8 * k)) else BitVec.ofNat 8 (d.toNat / 2 ^ (8 * (k - 8)))))),
   (.clz, .clz, fun a _ _ => if a = 0 then 64 else BitVec.ofNat 64 (63 - a.toNat.log2)),
   (.ctz, .ctz, fun a _ _ => BitVec.ofNat 64 (((List.range 64).find? fun i => a.getLsbD i).getD 64)),
   (.popc, .popc, fun a _ _ => BitVec.ofNat 64 (trues ((List.range 64).map fun i => a.getLsbD i)))]
/-- The operations of an immediate: the result from rs, the old rd and the raw immediate of `BOp`. -/
def immTable : List ((Fin 64 → CoreErr → Instr) × Op × (Word → Word → Nat → Word)) :=
  [(.addi, .addi, fun a _ i => a + (BitVec.ofNat 14 i).signExtend 64),
   (.andi, .andi, fun a _ i => a &&& BitVec.ofNat 64 i), (.ori, .ori, fun a _ i => a ||| BitVec.ofNat 64 i),
   (.xori, .xori, fun a _ i => a ^^^ BitVec.ofNat 64 i),
   (.setlti, .setlti, fun a _ i => if a.toInt < (BitVec.ofNat 14 i).toInt then 1 else 0),
   (.setltui, .setltui, fun a _ i => if a.toNat < ((BitVec.ofNat 14 i).signExtend 64).toNat then 1 else 0),
   (.lsi, .lsi, fun a _ i => (a <<< 14) ||| BitVec.ofNat 64 i),
   (.slli, .slli, fun a _ i => a <<< i), (.srli, .srli, fun a _ i => a >>> i),
   (.srai, .srai, fun a _ i => a.sshiftRight i),
   (.bfx, .bfx, fun a _ i =>
     let len := if i / 64 % 64 = 0 then 64 else i / 64 % 64
     let v := a.toNat / 2 ^ (i % 64) % 2 ^ len
     if i.testBit 12 then (BitVec.ofNat len v).signExtend 64 else BitVec.ofNat 64 v),
   (.bfi, .bfi, fun a d i =>
     let len := if i / 64 % 64 = 0 then 64 else i / 64 % 64
     let m := BitVec.ofNat 64 ((2 ^ len - 1) * 2 ^ (i % 64))
     (d &&& ~~~m) ||| ((a <<< (i % 64)) &&& m))]
/-- The short operations that write one register: the result from the old rd, from rs and from the rs field. -/
def shortTable : List ((Fin 64 → CoreErr → Instr) × Op × (Word → Word → Nat → Word)) :=
  [(.mov, .mov, fun _ b _ => b), (.shortAdd, .shortAdd, fun a b _ => a + b),
   (.shortSub, .shortSub, fun a b _ => a - b), (.shortAnd, .shortAnd, fun a b _ => a &&& b),
   (.shortOr, .shortOr, fun a b _ => a ||| b), (.shortXor, .shortXor, fun a b _ => a ^^^ b),
   (.notOp, .notOp, fun _ b _ => ~~~b), (.neg, .neg, fun _ b _ => 0 - b),
   (.adds, .adds, fun a _ i => a + (BitVec.ofNat 5 i).signExtend 64),
   (.movi, .movi, fun _ _ i => (BitVec.ofNat 5 i).signExtend 64),
   (.slls, .slls, fun a _ i => a <<< i), (.srls, .srls, fun a _ i => a >>> i),
   (.sras, .sras, fun a _ i => a.sshiftRight i),
   (.shortClz, .shortClz, fun _ b _ => if b = 0 then 64 else BitVec.ofNat 64 (63 - b.toNat.log2)),
   (.shortCtz, .shortCtz, fun _ b _ => BitVec.ofNat 64 (((List.range 64).find? fun i => b.getLsbD i).getD 64)),
   (.shortPopc, .shortPopc, fun _ b _ => BitVec.ofNat 64 (trues ((List.range 64).map fun i => b.getLsbD i))),
   (.zxw, .zxw, fun _ b _ => BitVec.ofNat 64 (b.toNat % 2 ^ 32)),
   (.sxw, .sxw, fun _ b _ => (b.setWidth 32).signExtend 64),
   (.bswap, .bswap, fun _ b _ => BitVec.ofNat 64 (leNum ((leBytes 8 b.toNat).reverse)))]
/-- The compare-and-branch operations with their conditions on rs and rt. -/
def branchTable : List ((Fin 64 → CoreErr → Instr) × Op × (Word → Word → Bool)) :=
  [(.beq, .beq, fun a b => decide (a = b)), (.bne, .bne, fun a b => decide (a ≠ b)),
   (.blt, .blt, fun a b => decide (a.toInt < b.toInt)), (.bge, .bge, fun a b => decide (b.toInt ≤ a.toInt)),
   (.bltu, .bltu, fun a b => decide (a.toNat < b.toNat)), (.bgeu, .bgeu, fun a b => decide (b.toNat ≤ a.toNat)),
   (.beqz, .beqz, fun a _ => decide (a.toInt = 0)), (.bnez, .bnez, fun a _ => decide (a.toInt ≠ 0)),
   (.bltz, .bltz, fun a _ => decide (a.toInt < 0)), (.bgez, .bgez, fun a _ => decide (0 ≤ a.toInt)),
   (.bgtz, .bgtz, fun a _ => decide (0 < a.toInt)), (.blez, .blez, fun a _ => decide (a.toInt ≤ 0))]
/-- The loads: width in bytes and whether the value is sign-extended. -/
def loadTable : List ((Fin 64 → CoreErr → Instr) × Op × Nat × Bool) :=
  [(.ld8, .ld8, 1, false), (.ld16, .ld16, 2, false), (.ld32, .ld32, 4, false), (.ld64, .ld64, 8, false),
   (.ld8s, .ld8s, 1, true), (.ld16s, .ld16s, 2, true), (.ld32s, .ld32s, 4, true)]
/-- The stores with their widths. -/
def storeTable : List ((Fin 64 → CoreErr → Instr) × Op × Nat) :=
  [(.st8, .st8, 1), (.st16, .st16, 2), (.st32, .st32, 4), (.st64, .st64, 8)]
/-- The value of w little-endian bytes, extended to 64 bits. -/
def loadVal (w : Nat) (sgn : Bool) (d : List Byte) : Word :=
  if sgn then (BitVec.ofNat (8 * w) (leNum d)).signExtend 64 else BitVec.ofNat 64 (leNum d)
/-- The effective address rs + imm of a long load or store (R273). -/
def ea (s : State) (n : Fin 64) (o : BOp) : Nat := (regOf s n o.rs + (BitVec.ofNat 14 o.imm).signExtend 64).toNat
/-- Where byte a of the scratchpad of sequencer n lies in the memory of the part (R361). -/
def spad (n : Fin 64) (a : Nat) : Nat := 0x10000000 + n.val * 0x20000 + a

end Sys2Proof.Claims

open Sys2Proof Sys2Proof.Machine Sys2Proof.Claims
/-- R266: the register operations, for every operand.
Beside the rules it rests on the model's own choices of the log: entry 3. -/
def Obligations.AluResults : Prop :=
  ∀ e ∈ aluTable, ∀ (n : Fin 64) (s : State) (o : BOp), AtLong s n o → o.op = e.2.1 →
    exec (e.1 n .none) s =
      .next (wordDone n (setReg n o.rd (e.2.2 (regOf s n o.rs) (regOf s n o.rt) (regOf s n o.rd)) s))

/-- R269, R270, R271: quotients truncate toward zero, remainders take the dividend's sign, PERM picks source bytes of rs
and the old rd, and the counts of 0 are 64. -/
def Obligations.DivisionAndCountResults : Prop :=
  ∀ e ∈ divTable, ∀ (n : Fin 64) (s : State) (o : BOp), AtLong s n o → o.op = e.2.1 →
    exec (e.1 n .none) s =
      .next (wordDone n (setReg n o.rd (e.2.2 (regOf s n o.rs) (regOf s n o.rt) (regOf s n o.rd)) s))

/-- R265, R268: operations of an immediate.
Beside the rules it rests on the model's own choices of the log: entry 3. -/
def Obligations.ImmediateResults : Prop :=
  ∀ e ∈ immTable, ∀ (n : Fin 64) (s : State) (o : BOp), AtLong s n o → o.op = e.2.1 →
    exec (e.1 n .none) s =
      .next (wordDone n (setReg n o.rd (e.2.2 (regOf s n o.rs) (regOf s n o.rd) o.imm) s))

/-- R272, R255, R267: transfers of control, which change no register and no loop level.
Beside the rules it rests on the model's own choices of the log: entry 3. -/
def Obligations.BranchesGoToTheirTargets : Prop :=
  (∀ e ∈ branchTable, ∀ (n : Fin 64) (s : State) (o : BOp), AtLong s n o → o.op = e.2.1 →
    exec (e.1 n .none) s = .next (if e.2.2 (regOf s n o.rs) (regOf s n o.rt) then
        wordGoes n ((getCore s n).pc + BitVec.ofNat 14 o.imm) s else wordDone n s)) ∧
  (∀ (n : Fin 64) (s : State) (o : BOp), AtLong s n o → o.op = .jmp →
    exec (.jmp n .none) s =
      .next (wordGoes n ((getCore s n).pc + (BitVec.ofNat 16 o.imm).signExtend 14) s)) ∧
  (∀ (n : Fin 64) (s : State) (o : BOp), AtLong s n o → o.op = .jr →
    exec (.jr n .none) s = .next (wordGoes n ((regOf s n o.rs).setWidth 14) s))

/-- R273, R265: accesses of the scratchpad; the store is stated byte by byte, with its frame.
Beside the rules it rests on the model's own choices of the log: entries 17, 32. -/
def Obligations.ScratchpadLoadsAndStores : Prop :=
  (∀ e ∈ loadTable, ∀ (n : Fin 64) (s : State) (o : BOp), AtLong s n o → o.op = e.2.1 →
    ea s n o < 0x20000 → ea s n o % e.2.2.1 = 0 → tget 0 s.memErr (spad n (ea s n o) / 8) = 0 →
    exec (e.1 n .none) s = .next (wordDone n
      (setReg n o.rd (loadVal e.2.2.1 e.2.2.2 (memBytes s (spad n (ea s n o)) e.2.2.1)) s))) ∧
  (∀ e ∈ storeTable, ∀ (n : Fin 64) (s : State) (o : BOp), AtLong s n o → o.op = e.2.1 →
    ea s n o < 0x20000 → ea s n o % e.2.2 = 0 → tget 0 s.memErr (spad n (ea s n o) / 8) = 0 →
    ∃ u, exec (e.1 n .none) s = .next (wordDone n u) ∧
      (∀ a, memByte u a = if spad n (ea s n o) ≤ a ∧ a < spad n (ea s n o) + e.2.2 then
        BitVec.ofNat 8 ((regOf s n o.rd).toNat / 2 ^ (8 * (a - spad n (ea s n o)))) else memByte s a) ∧
      u.cores = s.cores ∧ u.regs = s.regs ∧ u.seqs = s.seqs ∧ u.jobs = s.jobs ∧ u.pending = s.pending)

/-- R273, R379: accesses outside the scratchpad.
Beside the rules it rests on the model's own choices of the log: entries 17, 33. -/
def Obligations.RemoteLoadsAndStores : Prop :=
  (∀ e ∈ loadTable, ∀ (n : Fin 64) (s u : State) (o : BOp) (d : List Byte) (po st : Nat), AtLong s n o → o.op = e.2.1 →
    dataRegion (ea s n o) = some 1 → ea s n o % e.2.2.1 = 0 →
    let req := nocAccess n n false (ea s n o - 0x4000000) (List.replicate e.2.2.1 true) [] s
    (req = (.done 0 d po, u) →
      exec (e.1 n .none) s = .next (wordDone n (setReg n o.rd (loadVal e.2.2.1 e.2.2.2 d) u))) ∧
    (st ≠ 0 → req = (.done st d po, u) →
      exec (e.1 n .none) s = .next (wordTraps n 3 st 0 (some (BitVec.ofNat 32 (ea s n o))) 0 false u)) ∧
    (req = (.wait, u) →
      exec (e.1 n .none) s = .next (updCore n (fun c => { c with mid := true, slot := false }) u))) ∧
  (∀ e ∈ storeTable, ∀ (n : Fin 64) (s u : State) (o : BOp) (d : List Byte) (po : Nat), AtLong s n o → o.op = e.2.1 →
    dataRegion (ea s n o) = some 1 → ea s n o % e.2.2 = 0 →
    nocAccess n n true (ea s n o - 0x4000000) (List.replicate e.2.2 true) (leBytes e.2.2 (regOf s n o.rd).toNat) s =
      (.done 0 d po, u) →
    exec (e.1 n .none) s = .next (wordDone n u)) ∧
  (∀ e ∈ loadTable, ∀ (n : Fin 64) (s : State) (o : BOp) (k : Nat) (l : CacheLine), AtLong s n o → o.op = e.2.1 →
    dataRegion (ea s n o) = some (2 + k) → ea s n o % e.2.2.1 = 0 →
    tlook (getCore s n).cache ((dataAddr s n (ea s n o) - hbmVBase) / 64) = some l →
    exec (e.1 n .none) s = .next (wordDone n (setReg n o.rd (loadVal e.2.2.1 e.2.2.2
      ((List.range e.2.2.1).map fun i => tget 0 l.bytes (dataAddr s n (ea s n o) % 64 + i))) s)))

/-- R273, R274, R253, R546: the synchronous traps of fetch, decoding and data access; `wordTraps` keeps the trap for its entry.
Beside the rules it rests on the model's own choices of the log: entry 38. -/
def Obligations.DataAccessFaults : Prop :=
  (∀ e ∈ loadTable, ∀ (n : Fin 64) (s : State) (o : BOp), AtLong s n o → o.op = e.2.1 →
    (dataRegion (ea s n o) = none ∨ ea s n o % e.2.2.1 ≠ 0) →
    exec (e.1 n .none) s = .next (wordTraps n 2 0 0 (some (BitVec.ofNat 32 (ea s n o))) 0 false s)) ∧
  (∀ e ∈ storeTable, ∀ (n : Fin 64) (s : State) (o : BOp), AtLong s n o → o.op = e.2.1 →
    (dataRegion (ea s n o) = none ∨ ea s n o % e.2.2 ≠ 0) →
    exec (e.1 n .none) s = .next (wordTraps n 2 0 0 (some (BitVec.ofNat 32 (ea s n o))) 0 false s)) ∧
  (∀ (n : Fin 64) (s : State) (o : BOp), AtLong s n o → o.op = .ild →
    exec (.ild n .none) s = .next (if ea s n o < 16384 then
        wordDone n (setReg n o.rd ((tget 0 (getCore s n).imem (ea s n o)).setWidth 64) s)
      else wordTraps n 2 0 0 (some (BitVec.ofNat 32 (ea s n o))) 0 false s)) ∧
  (∀ (n : Fin 64) (s : State), coreReady s n = true → imemWord s n (getCore s n).pc = none →
    exec (.add n .none) s = .next (raiseTrap n 1 false 0 0 none 0 s)) ∧
  (∀ (n : Fin 64) (s : State), coreReady s n = true → ∃ u,
    exec (.add n .fetchUe) s = .next (raiseTrap n 10 (getCore s n).slot 0 0 none 5 u) ∧ u.mem = s.mem ∧
      u.cores = s.cores)

/-- R262: `u` is the state the first operation leaves.
Beside the rules it rests on the model's own choices of the log: entry 34. -/
def Obligations.PairsRunInOrder : Prop :=
  (∀ e ∈ shortTable, ∀ f ∈ shortTable, ∀ (n : Fin 64) (s : State) (a b : BOp), AtPair s n a b →
    a.op = e.2.1 → b.op = f.2.1 →
    let u := setReg n a.rd (e.2.2 (regOf s n a.rd) (regOf s n a.rs) a.rs) s
    exec (e.1 n .none) s =
      .next (wordDone n (setReg n b.rd (f.2.2 (regOf u n b.rd) (regOf u n b.rs) b.rs) u))) ∧
  (∀ (n : Fin 64) (s : State) (a b : BOp), AtPair s n a b → a.op = .shortNop → b.op = .shortNop →
    exec (.shortNop n .none) s = .next (wordDone n s)) ∧
  (∀ f ∈ shortTable, ∀ (n : Fin 64) (s : State) (a b : BOp), AtPair s n a b → a.op = .shortNop → b.op = f.2.1 →
    exec (.shortNop n .none) s =
      .next (wordDone n (setReg n b.rd (f.2.2 (regOf s n b.rd) (regOf s n b.rs) b.rs) s)))

/-- R264: the memory operations of a pair.
Beside the rules it rests on the model's own choices of the log: entries 17, 34. -/
def Obligations.QuadAccessesAndPostIncrement : Prop :=
  ∀ (n : Fin 64) (s : State) (a b : BOp), AtPair s n a b → b.op = .shortNop →
    let p := spad n (regOf s n a.rs).toNat
    let v : Word := BitVec.ofNat 64 (leNum (memBytes s p 8))
    let stored (u : State) : Prop := u.cores = s.cores ∧ u.regs = s.regs ∧ u.seqs = s.seqs ∧
      ∀ x, memByte u x = if p ≤ x ∧ x < p + 8 then BitVec.ofNat 8 ((regOf s n a.rd).toNat / 2 ^ (8 * (x - p)))
        else memByte s x
    (regOf s n a.rs).toNat < 0x20000 → (regOf s n a.rs).toNat % 8 = 0 → tget 0 s.memErr (p / 8) = 0 →
    (a.op = .ldq → exec (.ldq n .none) s = .next (wordDone n (setReg n a.rd v s))) ∧
    (a.op = .ldqp →
      exec (.ldqp n .none) s = .next (wordDone n (setReg n a.rs (regOf s n a.rs + 8) (setReg n a.rd v s)))) ∧
    (a.op = .stq → ∃ u, exec (.stq n .none) s = .next (wordDone n u) ∧ stored u) ∧
    (a.op = .stqp → ∃ u,
      exec (.stqp n .none) s = .next (wordDone n (setReg n a.rs (regOf s n a.rs + 8) u)) ∧ stored u)

/-- R278: both prefixes, in both slots, with no halt requested.
Beside the rules it rests on the model's own choices of the log: entries 34, 133. -/
def Obligations.RepeatsTurnTheirTarget : Prop :=
  (∀ e ∈ [((.rep : Fin 64 → CoreErr → Instr), Op.rep), (.repi, .repi)], ∀ f ∈ shortTable,
    ∀ (n : Fin 64) (s : State) (a b : BOp), AtPair s n a b → a.op = e.2 → b.op = f.2.1 →
    getF s (fSEQ_CTL_HALT n) = 0 → (getCore s n).rep = none →
    let k := if e.2 = .rep then (regOf s n a.rs).toNat % 2 ^ 32 else a.rd * 32 + a.rs
    let v := f.2.2 (regOf s n b.rd) (regOf s n b.rs) b.rs
    (k = 0 → exec (e.1 n .none) s = .next (updCore n (fun c =>
      { c with state := .running, mid := false, pc := c.pc + 1, slot := false, rep := none }) s)) ∧
    (1 < k → ∃ t, exec (e.1 n .none) s = .next t ∧ (getCore t n).pc = (getCore s n).pc ∧
      (getCore t n).slot = true ∧ (getCore t n).rep = some ⟨k - 1, false⟩ ∧ regOf t n b.rd = v ∧ t.mem = s.mem) ∧
    (k = 1 → ∃ t, exec (e.1 n .none) s = .next t ∧ (getCore t n).pc = (loopEnd (getCore s n) (getCore s n).pc).1 ∧
      (getCore t n).slot = false ∧ (getCore t n).rep = none ∧ regOf t n b.rd = v ∧ t.mem = s.mem)) ∧
  (∀ e ∈ [Op.rep, .repi], ∀ (n : Fin 64) (s : State) (a b : BOp), AtPair s n a b → a.op = .shortNop →
    b.op = e → getF s (fSEQ_CTL_HALT n) = 0 → (getCore s n).rep = none →
    let t := (loopEnd (getCore s n) (getCore s n).pc).1
    let k := if e = .rep then (regOf s n b.rs).toNat % 2 ^ 32 else b.rd * 32 + b.rs
    noRepeatWord (imemWord s n t) = false → 0 < k →
    ∃ u, exec (.shortNop n .none) s = .next u ∧ (getCore u n).pc = t ∧ (getCore u n).slot = false ∧
      (getCore u n).rep = some ⟨k, true⟩ ∧ u.mem = s.mem ∧ ∀ r < 32, regOf u n r = regOf s n r)

/-- R276, R277: the examination is stated for each level on the state the levels above it have left.
Beside the rules it rests on the model's own choices of the log: entry 35. -/
def Obligations.LoopsAndLoopEnds : Prop :=
  (∀ (n : Fin 64) (s : State) (o : BOp), AtLong s n o → o.op = .loop →
    let c := getCore s n
    let k : BitVec 32 := (regOf s n o.rs).setWidth 32
    let u := updCore n (fun c => setSr (8 + o.rd) (k.setWidth 64)
      (setSr (4 + o.rd) ((c.pc + BitVec.ofNat 14 o.imm).setWidth 64) (setSr o.rd ((c.pc + 1).setWidth 64) c))) s
    (k ≠ 0 → exec (.loop n .none) s = .next (wordDone n u)) ∧
    (k = 0 → exec (.loop n .none) s = .next (wordGoes n (c.pc + BitVec.ofNat 14 o.imm + 1) u))) ∧
  (∀ (c : Core), c.rep = none →
    let ends (c : Core) (l : Nat) : Prop := getSr c (8 + l) ≠ 0 ∧ (getSr c (4 + l)).setWidth 14 = c.pc
    let dec (c : Core) (l : Nat) : Core := setSr (8 + l) (getSr c (8 + l) - 1) c
    let fin (c : Core) (t : BitVec 14) : Core := { c with state := .running, mid := false, pc := t, slot := false }
    ((∀ l < 4, ¬ ends c l) → completeWord none c = fin c (c.pc + 1)) ∧
    (∀ l < 4, (∀ m < 4, l < m → ¬ ends c m) → ends c l → getSr c (8 + l) ≠ 1 →
      completeWord none c = fin (dec c l) ((getSr c l).setWidth 14)) ∧
    (ends c 3 → getSr c 11 = 1 → ends c 2 → getSr c 10 ≠ 1 →
      completeWord none c = fin (dec (dec c 3) 2) ((getSr c 2).setWidth 14)))

/-- R257, R259, R260: calls without a spill or a fill.
Beside the rules it rests on the model's own choices of the log: entries 17, 36, 37. -/
def Obligations.CallsSlideTheWindow : Prop :=
  (∀ e ∈ [((.call : Fin 64 → CoreErr → Instr), Op.call), (.callr, .callr)],
    ∀ (n : Fin 64) (s : State) (o : BOp), AtLong s n o → o.op = e.2 → getF s (fSEQ_CTL_HALT n) = 0 →
    let c := getCore s n
    let target : BitVec 14 := if e.2 = .call then c.pc + (BitVec.ofNat 16 o.imm).signExtend 14
      else (regOf s n o.rs).setWidth 14
    (c.depth < 0xFFFFFF → c.res < 31 → ∃ t, exec (e.1 n .none) s = .next t ∧ (getCore t n).pc = target ∧
      (getCore t n).res = c.res + 1 ∧ (getCore t n).depth = c.depth + 1 ∧
      tget 0 (getCore t n).masks c.cwp = BitVec.ofNat 8 o.m8 ∧ tget 0 (getCore t n).ras c.cwp = c.pc + 1 ∧
      (∀ r < 8, regOf t n r = regOf s n r ∧ regOf t n (8 + r) = regOf s n (24 + r)) ∧ t.mem = s.mem) ∧
    (c.depth = 0xFFFFFF → exec (e.1 n .none) s = .next (wordTraps n 7 0 5 (some 0) 0 false s))) ∧
  (∀ (n : Fin 64) (s : State) (o : BOp), AtLong s n o → o.op = .returnOp → getF s (fSEQ_CTL_HALT n) = 0 →
    let c := getCore s n
    (0 < c.depth → 2 ≤ c.res → c.cwp < 504 → ∃ t, exec (.returnOp n .none) s = .next t ∧
      (getCore t n).res = c.res - 1 ∧ (getCore t n).depth = c.depth - 1 ∧
      (getCore t n).pc = tget 0 c.ras (getCore t n).cwp ∧ (getCore t n).cwp = (c.cwp + 488) % 504 ∧
      (∀ r < 8, regOf t n r = regOf s n r ∧ regOf t n (24 + r) = regOf s n (8 + r)) ∧ t.mem = s.mem) ∧
    (c.depth = 0 → exec (.returnOp n .none) s = .next (wordTraps n 7 0 4 (some 0) 0 false s)))

/-- R108, R111, R291, R292, R267.
Beside the rules it rests on the model's own choices of the log: entries 19, 38. -/
def Obligations.ArrayWordsOfTheCore : Prop :=
  (∀ (n : Fin 64) (s : State) (o : BOp), AtLong s n o → o.op = .acall → (getSeq s n).queue.length < 16 →
    let a := regOf s n o.rs
    let b := regOf s n (o.rs + 1)
    exec (.acall n .none) s = .next (wordDone n (updSeq n (fun q => { q with queue := q.queue ++
      [⟨BitVec.ofNat 13 o.imm, BitVec.ofNat 13 (bits a.toNat 0 13), BitVec.ofNat 13 (bits a.toNat 16 13),
        BitVec.ofNat 13 (bits a.toNat 32 13), BitVec.ofNat 16 (bits b.toNat 0 16), BitVec.ofNat 16 (bits b.toNat 16 16),
        BitVec.ofNat 16 (bits b.toNat 32 16), (getCore s n).pc, false⟩] }) s))) ∧
  (∀ (n : Fin 64) (s : State) (o : BOp), AtLong s n o → outstanding (getSeq s n) = false →
    (o.op = .await → exec (.await n .none) s = .next (wordDone n s)) ∧
    (o.op = .asnd → exec (.asnd n .none) s =
      .next (wordDone n (setReg n o.rd (BitVec.ofNat 64 (rawReg s rowMSEQ_SND n 0)) s))) ∧
    (o.op = .haltOp → exec (.haltOp n .none) s = .next (haltCore n 1 s))) ∧
  (∀ e ∈ [((.await : Fin 64 → CoreErr → Instr), Op.await), (.asnd, .asnd), (.haltOp, .haltOp)],
    ∀ (n : Fin 64) (s : State) (o : BOp), AtLong s n o → o.op = e.2 → outstanding (getSeq s n) = true →
    ((getSeq s n).state = .issuing → getF s (fSEQ_CTL_HALT n) = 0 →
      exec (e.1 n .none) s = .next (updCore n (fun c => { c with state := .waiting }) s)) ∧
    ((getSeq s n).state = .trapped → exec (e.1 n .none) s = .next (haltCore n 3 s))) ∧
  (∀ (n : Fin 64) (s : State) (o : BOp), AtLong s n o → o.op = .brk →
    exec (.brk n .none) s = .next (wordTraps n 8 0 0 none 0 false s))

/-- R281, R316: special registers; R481, R536, R275: ports.
Beside the rules it rests on the model's own choices of the log: entry 77. -/
def Obligations.SpecialRegistersAndPorts : Prop :=
  (∀ (n : Fin 64) (s : State) (o : BOp) (m : Word), AtLong s n o → o.op = .mtsr → srMask o.imm = some m →
    exec (.mtsr n .none) s = .next (wordDone n (updCore n (fun c => if o.imm = 0x15 then
      setSr 0x15 (getSr c 0x15 &&& ~~~(regOf s n o.rs &&& m)) c else setSr o.imm (regOf s n o.rs &&& m) c) s))) ∧
  (∀ (n : Fin 64) (s : State) (o : BOp), AtLong s n o → o.op = .mfsr →
    (srMask o.imm ≠ none → exec (.mfsr n .none) s =
      .next (wordDone n (setReg n o.rd (getSr (getCore s n) o.imm) s))) ∧
    (o.imm = 0x18 → exec (.mfsr n .none) s = .next (wordDone n (setReg n o.rd
      (BitVec.ofNat 64 ((getCore s n).res + (getCore s n).depth * 2 ^ 8)) s)))) ∧
  (∀ e ∈ [((.mtsr : Fin 64 → CoreErr → Instr), Op.mtsr), (.mfsr, .mfsr)],
    ∀ (n : Fin 64) (s : State) (o : BOp), AtLong s n o → o.op = e.2 → srMask o.imm = none →
      (e.2 = .mtsr ∨ (o.imm ≠ 0x18 ∧ o.imm ≠ 0x28)) →
      exec (e.1 n .none) s = .next (wordTraps n 1 0 0 none 0 false s)) ∧
  (∀ (n : Fin 64) (s : State) (o : BOp), AtLong s n o →
    (o.op = .inPort → ea s n o = 0x0202 →
      exec (.inPort n .none) s = .next (wordDone n (setReg n o.rd (BitVec.ofNat 64 (merNs s)) s))) ∧
    (o.op = .inPort → ea s n o = 0x0243 →
      exec (.inPort n .none) s = .next (wordDone n (setReg n o.rd (BitVec.ofNat 64 (tget 0 s.noteMask n)) s))) ∧
    (o.op = .inPort → 0x10000 ≤ ea s n o →
      exec (.inPort n .none) s = .next (wordTraps n 2 0 0 (some (BitVec.ofNat 32 (ea s n o))) 0 false s)) ∧
    (o.op = .outPort → ea s n o = 0x0243 → exec (.outPort n .none) s = .next (wordDone n
      { s with noteMask := tset 0 s.noteMask n ((regOf s n o.rd).toNat &&& (2 ^ 41 - 1 + 2 ^ 48)) })) ∧
    (o.op = .outPort → 0x10000 ≤ ea s n o →
      exec (.outPort n .none) s = .next (wordTraps n 2 0 0 (some (BitVec.ofNat 32 (ea s n o))) 0 false s)))

/-- R295, R297; TSTAT holds IE in bit 0, PIE 1, IN_TRAP 2, ARRAY 3 and MCSRC from bit 4 (R316). -/
def Obligations.TrapAndInterruptEntry : Prop :=
  (∀ (n : Fin 64) (s : State) (t : SyncTrap), (getCore s n).state ≠ .halted → (getCore s n).mid = false →
    (getCore s n).trap = some t → (getSr (getCore s n) 0x13).getLsbD 2 = false →
    ∃ u, exec (.trapEntry n) s = .next u ∧
      let c := getCore s n
      let d := getCore u n
      getSr d 0x10 = (t.pc.setWidth 64 ||| (if t.slot then 0x4000 else 0)) ∧
      getSr d 0x11 = BitVec.ofNat 64 (t.cause + t.status * 2 ^ 8 + t.why * 2 ^ 12) ∧
      getSr d 0x12 = (match t.badaddr with | some a => a.setWidth 64 | none => getSr c 0x12) ∧
      getSr d 0x0C = (match t.rep with
        | some r => BitVec.ofNat 64 (r.rem % 2 ^ 32 + 2 ^ 32 + (if r.whole then 2 ^ 33 else 0)) | none => 0) ∧
      getSr d 0x13 = BitVec.ofNat 64 ((getSr c 0x13).toNat % 2 * 2 + 4 + t.mcsrc * 16) ∧
      d.pc = BitVec.ofNat 14 (4 * t.cause) ∧ d.slot = false ∧ d.trap = none ∧ d.shared = c.shared ∧
      d.window = c.window ∧ d.cwp = c.cwp ∧ getSr d 0x16 = getSr c 0x16 ∧ u.mem = s.mem ∧ u.regs = s.regs) ∧
  (∀ (n : Fin 64) (s : State) (st : Stop), (getCore s n).state ≠ .halted → (getCore s n).mid = false →
    (getCore s n).trap = none → (getSeq s n).atrap = some st → (getSr (getCore s n) 0x13).getLsbD 2 = false →
    ∃ u, exec (.trapEntry n) s = .next u ∧
      getSr (getCore u n) 0x11 = BitVec.ofNat 64 st.cause ∧ getSr (getCore u n) 0x16 = st.apc.setWidth 64 ∧
      getSr (getCore u n) 0x13 =
        BitVec.ofNat 64 ((getSr (getCore s n) 0x13).toNat % 2 * 2 + 4 + 8 + st.mcsrc * 16) ∧
      (getCore u n).pc = BitVec.ofNat 14 (4 * st.cause) ∧ (getSeq u n).atrap = none ∧ u.mem = s.mem) ∧
  (∀ (n : Fin 64) (s : State) (k : Nat), (getCore s n).state ≠ .halted → (getCore s n).mid = false →
    (getCore s n).trap = none → arrayDue s n = false → coreHeld s n = false → irqDue (getCore s n) = some k →
    ∃ u, exec (.interruptEntry n) s = .next u ∧ (getCore u n).pc = BitVec.ofNat 14 (4 * k) ∧
      getSr (getCore u n) 0x11 = BitVec.ofNat 64 k ∧
      getSr (getCore u n) 0x13 = BitVec.ofNat 64 ((getSr (getCore s n) 0x13).toNat % 2 * 2 + 4) ∧
      getSr (getCore u n) 0x10 = ((getCore s n).pc.setWidth 64 ||| (if (getCore s n).slot then 0x4000 else 0)) ∧
      (getCore u n).shared = (getCore s n).shared ∧ (getCore u n).window = (getCore s n).window ∧ u.mem = s.mem) ∧
  (∀ (n : Fin 64) (s : State) (o : BOp), AtLong s n o → o.op = .eret → getF s (fSEQ_CTL_HALT n) = 0 →
    (getSr (getCore s n) 0x0C).getLsbD 32 = false →
    ∃ u, exec (.eret n .none) s = .next u ∧ (getCore u n).pc = (getSr (getCore s n) 0x10).setWidth 14 ∧
      (getCore u n).slot = (getSr (getCore s n) 0x10).getLsbD 14 ∧
      (getSr (getCore u n) 0x13).getLsbD 0 = (getSr (getCore s n) 0x13).getLsbD 1 ∧
      (getSr (getCore u n) 0x13).getLsbD 2 = false ∧ (getSr (getCore u n) 0x13) >>> 3 = (getSr (getCore s n) 0x13) >>> 3 ∧
      getSr (getCore u n) 0x11 = getSr (getCore s n) 0x11 ∧ getSr (getCore u n) 0x16 = getSr (getCore s n) 0x16 ∧
      (getCore u n).shared = (getCore s n).shared ∧ (getCore u n).window = (getCore s n).window ∧ u.mem = s.mem)

/-- No bit of an encoding is dropped.
Beside the rules it rests on the model's own choices of the log: entry 128. -/
def Obligations.BelsarDecodeInvertsEncode : Prop :=
  ∀ w : BWord, w.wf = true → encodeBelsar w < 2 ^ 32 ∧ decodeBelsar (encodeBelsar w) = some w

/-- The other direction of the round trip.
Beside the rules it rests on the model's own choices of the log: entry 128. -/
def Obligations.BelsarWordsAreUnambiguous : Prop :=
  ∀ (v : Nat) (w : BWord), v < 2 ^ 32 → decodeBelsar v = some w → w.wf = true ∧ encodeBelsar w = v

/-- A sanity statement over literal words.
Beside the rules it rests on the model's own choices of the log: entry 128. -/
def Obligations.BelsarWordsOfTheSpec : Prop :=
  decodeBelsar 0b0_000000_00001_00010_00011_0_000000000 = some (.long ⟨.add, 1, 2, 3, 0, 0⟩) ∧
  decodeBelsar 0b0_000001_11111_01010_0_11111111111111 = some (.long ⟨.addi, 31, 10, 0, 0x3FFF, 0⟩) ∧
  decodeBelsar 0b0_010000_00101_00110_0_00000000001000 = some (.long ⟨.st8, 5, 6, 0, 8, 0⟩) ∧
  decodeBelsar 0b0_011000_00001_00010_0_11111111111110 = some (.long ⟨.beq, 0, 1, 2, 0x3FFE, 0⟩) ∧
  decodeBelsar 0b0_010111_000_10_00111_0_00000000000100 = some (.long ⟨.loop, 2, 7, 0, 4, 0⟩) ∧
  decodeBelsar 0b0_100101_00001111_0_1111111111111111 = some (.long ⟨.call, 0, 0, 0, 0xFFFF, 0x0F⟩) ∧
  decodeBelsar 0b0_100111_1000000000001_01000_0000000 = some (.long ⟨.acall, 0, 8, 0, 0x1001, 0⟩) ∧
  decodeBelsar 0b0_101000_00011_00100_001000_001100_1_00 = some (.long ⟨.bfx, 3, 4, 0, 8 + 64 * 12 + 4096, 0⟩) ∧
  decodeBelsar 0b0_101010_00000_00000_00000_0_000000010 = some (.long ⟨.eret, 0, 0, 0, 0, 0⟩) ∧
  decodeBelsar 0b1_11001_00000_10000_00010_01010_01001_0 =
    some (.pair ⟨.repi, 0, 16, 0, 0, 0⟩ ⟨.shortAdd, 10, 9, 0, 0, 0⟩) ∧
  decodeBelsar 0b0_001111_00000_00000_00000_0_000000000 = none ∧
  decodeBelsar 0b0_000000_00001_00010_00011_0_000011101 = none ∧
  decodeBelsar 0b0_000000_00001_00010_00011_1_000000000 = none ∧
  decodeBelsar 0b0_010111_000_10_00111_0_00000000000000 = none ∧
  decodeBelsar 0b0_100111_0000000000001_11111_0000000 = none
namespace Sys2Proof.Claims

/-! ### The array -/

/-- Master n issues word w in its next slot: it holds a routine and a partition in Run, nothing has stopped it, the word at
the micro-PC is w, without error, its slot has come, nothing holds it, and it meets no COMMIT failure. -/
def Issues (s : State) (n : Fin 64) (p : Part) (w : MicroWord) : Prop :=
  issuing s n = some p ∧ tlook s.alm (almKey n (getSeq s n).upc.toNat) = some w ∧
  tget 0 s.almErr (almKey n (getSeq s n).upc.toNat) = 0 ∧ mwReserved w = false ∧ slotAhead p (getSeq s n) = false ∧
  held s n p (getSeq s n) w = false ∧ commitCheck s n (getSeq s n) w = none
/-- No preemption is pending and no port of the word is at fault, so that issue goes on after it. -/
def GoesOn (s : State) (n : Fin 64) (w : MicroWord) : Prop :=
  (getSeq s n).pendSw = false ∧ (getSeq s n).pendRb = false ∧ (getSeq s n).pendSp = false ∧
  faultPorts w (getSeq s n).ptrs = []
/-- The commands of the SEQ codes that end no routine, each with its code and its next micro-PC (R97, R100). -/
def seqTable : List ((Fin 64 → BitVec 137 → Instr) × Nat × (State → Fin 64 → Part → MSeq → MicroWord → BitVec 13)) :=
  [(.nextWord, 0, fun _ _ _ q _ => q.upc + 1), (.jump, 1, fun _ _ _ _ w => mwTarget w),
   (.microCall, 2, fun _ _ _ _ w => mwTarget w), (.microReturn, 3, fun _ _ _ q _ => q.stack.getLast?.getD 0),
   (.branchAny, 4, fun _ _ p q w => if testedSnd q (lSnd p) q.slot = 1 then mwTarget w else q.upc + 1),
   (.branchNone, 5, fun _ _ p q w => if testedSnd q (lSnd p) q.slot = 1 then q.upc + 1 else mwTarget w),
   (.loopC0, 6, fun _ _ _ q w => if q.ptrs.c0 = 1 then q.upc + 1 else mwTarget w),
   (.loopC1, 7, fun _ _ _ q w => if q.ptrs.c1 = 1 then q.upc + 1 else mwTarget w),
   (.dispatch, 8, fun _ _ _ q w => mwTarget w + BitVec.ofNat 13 (q.ptrs.dparam.toNat % 2 ^ (mwImm w).toNat)),
   (.holdWord, 10, fun _ _ _ q w =>
     if (match q.hold with | some k => k - 1 | none => (mwImm w).toNat) = 0 then q.upc + 1 else q.upc),
   (.branchMflag, 11, fun s n _ q w =>
     if (if mwImm w = 0 then getF s (fARRAY_FAULT_ADDR_FAULT n) = 1
         else if mwImm w = 1 then ∀ r ∈ q.cens, r.slot + 24 ≤ q.slot else ∀ e ∈ q.halo, e.2 = 0)
     then mwTarget w else q.upc + 1)]
/-- The state once the slices have taken the XP part of the last executed word. -/
def xpTaken (n : Nat) (s : State) : State := updSeq n (fun q => { q with xp := none }) s
/-- The one-pass operations of the Sutor unit: command, code, and the value and flags from FMT, SFMT, SGN, RM, a, b and the
accumulator operand (R187). -/
def sutorTable : List ((Fin 64 → Fin 256 → Instr) × Nat ×
    (Nat → Nat → Bool → Nat → Word → Word → Word → Option Word × Flags)) :=
  let fl (g : Nat → Nat → Fp → Fp → Fp → Word × Flags) (f _sf : Nat) (_ : Bool) (rm : Nat) (a b c : Word) :
      Option Word × Flags := let r := g f rm (fpOf f a) (fpOf f b) (fpOf f c); (some r.1, r.2)
  let int (g : Nat → Int → Int → Int) (f _sf : Nat) (sg : Bool) (_ : Nat) (a b _ : Word) : Option Word × Flags :=
    (some (intEnc (fmtWidth f) (g (fmtWidth f) (intOf (fmtWidth f) sg a) (intOf (fmtWidth f) sg b))), 0)
  let two (g : Nat → Word → Word → Word × Flags) (f _sf : Nat) (_ : Bool) (_ : Nat) (a b _ : Word) :
      Option Word × Flags := let r := g f a b; (some r.1, r.2)
  [(.sutorNop, 0x00, fun _ _ _ _ _ _ _ => (none, 0)), (.fadd, 0x01, fl fun f rm x y _ => fpAdd f rm x y),
   (.fsub, 0x02, fl fun f rm x y _ => fpAdd f rm x y.neg), (.fmul, 0x03, fl fun f rm x y _ => fpMul f rm x y),
   (.fma, 0x04, fl fpFma), (.fmin, 0x05, two fun f a b => fpMinMax f false a b),
   (.fmax, 0x06, two fun f a b => fpMinMax f true a b), (.fabs, 0x07, two fun f a _ => fpAbs f a),
   (.fcmpeq, 0x08, two fun f a b => fpCompare f 0 a b), (.fcmplt, 0x09, two fun f a b => fpCompare f 1 a b),
   (.fcmple, 0x0A, two fun f a b => fpCompare f 2 a b),
   (.cvt, 0x0B, fun f sf sg rm a _ _ => let r := cvt f sf rm sg a; (some r.1, r.2)),
   (.imul, 0x10, int fun _ i j => i * j), (.imulh, 0x11, int fun w i j => i * j / (2 ^ w : Nat)),
   (.imin, 0x14, int fun _ i j => if i ≤ j then i else j), (.imax, 0x15, int fun _ i j => if i ≤ j then j else i),
   (.iabs, 0x16, fun f _ sg _ a _ _ => (some (intEnc (fmtWidth f) (if sg then ((intOf (fmtWidth f) sg a).natAbs : Int)
     else intOf (fmtWidth f) sg a)), 0)),
   (.icmpeq, 0x17, fun f _ sg _ a b _ =>
     (some (if intOf (fmtWidth f) sg a = intOf (fmtWidth f) sg b then 1 else 0), 0)),
   (.icmplt, 0x18, fun f _ sg _ a b _ =>
     (some (if intOf (fmtWidth f) sg a < intOf (fmtWidth f) sg b then 1 else 0), 0)),
   (.dadd, 0x20, two fun _ a b => decAdd false a b), (.dsub, 0x21, two fun _ a b => decAdd true a b),
   (.accrd, 0x30, fun _ _ _ _ _ _ c => (some c, 0)), (.accld, 0x31, fun _ _ _ _ a _ _ => (some a, 0)),
   (.accz, 0x32, fun _ _ _ _ _ _ _ => (some 0, 0))]

end Sys2Proof.Claims

/-- R97 to R102: the words that do not end their routine.
Beside the rules it rests on the model's own choices of the log: entries 11, 22, 27. -/
def Obligations.MicrowordsIssue : Prop :=
  ∀ e ∈ seqTable, ∀ (n : Fin 64) (s : State) (p : Part) (w : MicroWord), Issues s n p w → GoesOn s n w →
    mwSeq w = e.2.1 → (e.2.1 = 3 → (getSeq s n).stack ≠ []) →
    let q := getSeq s n
    ∃ t, exec (e.1 n 0) s = .next t ∧
      let r := getSeq t n
      r.upc = e.2.2 s n p q w ∧ r.slot = q.slot + 1 ∧ r.state = .issuing ∧ r.stop = none ∧ r.cur = q.cur ∧
      r.ptrs = ptrUpdate (mwPtr w) (mwImm w) (ctrUpdate w q.ptrs) ∧
      r.stack = (if e.2.1 = 2 then (if q.stack.length = 4 then q.stack.tail else q.stack) ++ [q.upc + 1]
        else if e.2.1 = 3 then q.stack.dropLast else q.stack) ∧
      (r.pipe.map fun x => (x.slot, x.upc, x.word, x.eaA, x.eaB, x.eaC)) =
        (q.pipe.map fun x => (x.slot, x.upc, x.word, x.eaA, x.eaB, x.eaC)) ++
          [(q.slot, q.upc, w, eaA w q.ptrs, eaB w q.ptrs, eaC w q.ptrs)] ∧
      t.mem = s.mem ∧ t.cores = s.cores ∧ t.fields = s.fields ∧ t.pending = s.pending

/-- R109, R110, R97.
Beside the rules it rests on the model's own choices of the log: entries 11, 19. -/
def Obligations.RoutinesBeginAndEnd : Prop :=
  (∀ e ∈ [((.endWord : Fin 64 → BitVec 137 → Instr), 9), (.microReturn, 3)],
    ∀ (n : Fin 64) (s : State) (p : Part) (w : MicroWord), Issues s n p w → GoesOn s n w → mwSeq w = e.2 →
    (e.2 = 3 → (getSeq s n).stack = []) →
    (∀ h l, (getSeq s n).queue = h :: l → ∃ t, exec (e.1 n 0) s = .next t ∧
      (getSeq t n).state = .issuing ∧ (getSeq t n).upc = h.entry ∧ (getSeq t n).stack = [] ∧
      (getSeq t n).queue = l ∧ (getSeq t n).cur = some ⟨h.apc, h.released, 0⟩ ∧
      (getSeq t n).ptrs = ⟨h.c0, h.c1, h.p1, h.p2, h.p3, h.c0, h.c1, h.p1, h.p2, h.p3, h.dparam⟩ ∧
      t.mem = s.mem ∧ t.cores = s.cores ∧ t.fields = s.fields) ∧
    ((getSeq s n).queue = [] → ∃ t, exec (e.1 n 0) s = .next t ∧ (getSeq t n).state = .idle ∧
      (getSeq t n).cur = none ∧ (e.2 = 3 → getF t (fMSEQ_STATUS_STK_UNF n) = 1) ∧ t.mem = s.mem ∧ t.cores = s.cores)) ∧
  (∀ (n : Fin 64) (s : State) (h : QEntry) (l : List QEntry), (getSeq s n).state = .idle → (getSeq s n).stop = none →
    (getSeq s n).queue = h :: l →
    exec (.routineStart n) s = .next (updSeq n (fun q => { q with
      state := .issuing, upc := h.entry, stack := [], hold := none, queue := l, cur := some ⟨h.apc, h.released, 0⟩,
      ptrs := ⟨h.c0, h.c1, h.p1, h.p2, h.p3, h.c0, h.c1, h.p1, h.p2, h.p3, h.dparam⟩ }) s)) ∧
  (∀ (n : Fin 64) (s : State) (r : Routine) (l : List Routine), (getSeq s n).ended = r :: l →
    r.endSlot < (getSeq s n).done →
    (∀ x ∈ (getSeq s n).snds ++ (getSeq s n).cens, x.arrived = true ∨ r.endSlot < x.slot) →
    exec (.routineComplete n) s = .next (updSeq n (fun q => { q with ended := l }) s))

/-- R113, R651.
Beside the rules it rests on the model's own choices of the log: entries 23, 134. -/
def Obligations.YieldsAndTrapsRecord : Prop :=
  let record (t : State) (n : Fin 64) (st : Stop) : Prop :=
    getF t (fRESUME0_VALID n) = (if st.valid then 1 else 0) ∧ getF t (fRESUME0_KIND n) = st.kind % 8 ∧
    getF t (fRESUME0_UPC n) = st.upc.toNat ∧ getF t (fRESUME0_IN_HOLD n) = (if st.inHold then 1 else 0)
  (∀ (n : Fin 64) (s : State) (st : Stop), (getSeq s n).stop = some st → drained (getSeq s n) = true → st.cause = 0 →
    ∃ t, exec (.yieldComplete n) s = .next t ∧ (getSeq t n).state = .yielded ∧ (getSeq t n).stop = none ∧
      (getSeq t n).queue = (getSeq s n).queue.map (fun e => { e with released := e.released || st.sw }) ∧
      (getSeq t n).recApc = st.apc ∧ record t n st ∧ t.mem = s.mem ∧ t.cores = s.cores ∧ t.fields = s.fields) ∧
  (∀ (n : Fin 64) (s : State) (st : Stop), (getSeq s n).stop = some st → drained (getSeq s n) = true → st.cause ≠ 0 →
    earlierDone (getSeq s n) st = true → (getCore s n).state ≠ .halted →
    ∃ t, exec (.arrayTrapRecord n) s = .next t ∧ (getSeq t n).state = .trapped ∧
      (getSeq t n).stop = none ∧ (getSeq t n).queue = [] ∧
      (getSeq t n).atrap = some { st with discarded := (getSeq s n).queue } ∧ record t n st ∧ t.mem = s.mem ∧
      t.cores = s.cores ∧ t.fields = s.fields)

/-- R165, R166, R169, R170, R70.
Beside the rules it rests on the model's own choices of the log: entries 4, 26. -/
def Obligations.SoundingsAndCensusesArrive : Prop :=
  let stopped (t s : State) (n : Fin 64) (mc : Nat) : Prop := ∃ st, (getSeq t n).stop = some st ∧ st.kind = 4 ∧
    st.cause = 10 ∧ st.mcsrc = mc ∧ st.upc = (getSeq s n).upc ∧ (getSeq t n).state = .held ∧ t.mem = s.mem ∧
    t.fields = s.fields
  (∀ (n : Fin 64) (s : State) (r : TreeRec) (v : Nat), inFlight (getSeq s n).snds = some r → r.value = some v →
    exec (.soundingResult n) s = .next (updSeq n (fun q => { q with snds := q.snds.map fun x =>
      if x.slot = r.slot then { x with arrived := true } else x }) (setF (fMSEQ_SND_LAST_SND n) v s))) ∧
  (∀ (n : Fin 64) (s : State) (r : TreeRec) (v : Nat), inFlight (getSeq s n).cens = some r → r.value = some v →
    ∃ t, exec (.censusResult n) s = .next t ∧ getF t (fMSEQ_SND_CEN_VALID n) = 1 ∧
      getF t (fMSEQ_SND_LAST_CENSUS n) = v % 2 ^ (fMSEQ_SND_LAST_CENSUS n).w ∧
      (getSr (getCore t n) 0x15).getLsbD 18 = true ∧ t.mem = s.mem ∧
      (getSeq t n).cens = (getSeq s n).cens.map fun x => if x.slot = r.slot then { x with arrived := true } else x) ∧
  (∀ (n f : Fin 64) (lv : Fin 4) (sl : Fin 256) (s : State) (p : Part) (r : TreeRec), partAt s n = some p →
    (getSeq s n).state = .issuing → (getSeq s n).stop = none →
    (inFlight (getSeq s n).snds = some r → r.slot + lSnd p ≤ (getSeq s n).slot →
      ∃ t, exec (.treeMismatch n lv f sl) s = .next t ∧ stopped t s n 4 ∧
        (getSeq t n).snds = (getSeq s n).snds.filter fun x => decide (x.slot ≠ r.slot)) ∧
    (inFlight (getSeq s n).cens = some r → r.slot + 24 ≤ (getSeq s n).slot →
      ∃ t, exec (.censusMismatch n lv f sl) s = .next t ∧ stopped t s n 4 ∧
        (getSeq t n).cens = (getSeq s n).cens.filter fun x => decide (x.slot ≠ r.slot))) ∧
  (∀ (n : Fin 64) (s : State) (r : Report) (l : List Report), (getSeq s n).reports = r :: l →
    (getSeq s n).state = .issuing → (getSeq s n).stop = none → r.due ≤ (getSeq s n).slot →
    ∃ t, exec (.ueReport n) s = .next t ∧ stopped t s n r.mcsrc ∧ (getSeq t n).reports = l)

/-- R37, R48, R160. The second clause computes the written row from the rows the word reads.
Beside the rules it rests on the model's own choices of the log: entries 18, 20. -/
def Obligations.PesExecuteTheWord : Prop :=
  (∀ (n : Fin 64) (ups : List RowUpset) (bc : List BcErr) (s : State) (p : Part) (w : PipeWord),
    peReady (applyUpsets ups s) n = some (p, w) →
    exec (.peExecute n ups bc) s = .next (peWord n p w bc (applyUpsets ups s))) ∧
  (∀ (n : Fin 64) (s : State) (p : Part) (w : PipeWord), peReady s n = some (p, w) → p.wlog = 0 → p.hlog = 0 → (getField s n).rowErr = [] →
    getF s (fPEMEM_INJ_ARM n) = 0 → mwNews w.word = 0 → mwSnd w.word = 0 → mwWsrc w.word = 0 →
    w.eaA.toNat < 4096 → w.eaB.toNat < 4096 → w.eaC.toNat < 4096 → mwWen w.word ≠ 0 →
    let x := getField s n
    let a := tget 0 x.rows w.eaA.toNat
    let b := tget 0 x.rows w.eaB.toNat
    let fin := getFlag x (mwFin w.word)
    let en := wenPlane (mwWen w.word) (getFlag x 1)
    ∃ t, exec (.peExecute n [] []) s = .next t ∧
      (∀ r, tget 0 (getField t n).rows r = if r = w.eaC.toNat then
        (tget 0 x.rows r &&& ~~~en) ||| (ttPlane (mwTtS w.word) a b fin &&& en) else tget 0 x.rows r) ∧
      (∀ k, getFlag (getField t n) k = if k = mwFout w.word then ttPlane (mwTtK w.word) a b fin else getFlag x k) ∧
      (getField t n).nlatch = x.nlatch ∧ (getSeq t n).done = w.slot + 1 ∧ (getSeq t n).pipe = (getSeq s n).pipe.tail ∧
      t.mem = s.mem ∧ t.regs = s.regs ∧ t.cores = s.cores) ∧
  (∀ (n : Fin 64) (s : State) (d : Delivery), nextDelivery (getSeq s n) = some d →
    exec (.nlatchDelivery n) s = .next (updSeq n (fun q => { q with flight := q.flight.filter (fun e => decide (e.slot ≠ d.slot)) })
      (d.planes.foldl (fun s e => updField e.1 (fun x => { x with nlatch := e.2 }) s) s))) ∧
  (∀ (g : Fin 8) (m : Fin 4) (n : Nat) (p : Part) (s : State),
    s.parts.find? (fun e => (List.range 4).any fun d => (sideSegs e.1 e.2 d).contains (4 * g.val + m.val)) = some (n, p) →
    segUsable s (4 * g.val + m.val) = true → tget 0 (getSeq s n).halo (4 * g.val + m.val) ≠ 0 →
    ∃ t, exec (.haloAck g m) s = .next t ∧ t.regs = s.regs ∧ t.mem = s.mem ∧
      (getSeq t n).halo = tset 0 (getSeq s n).halo (4 * g.val + m.val)
        (tget 0 (getSeq s n).halo (4 * g.val + m.val) - 1))

/-- R178 to R181, R199, R200.
Beside the rules it rests on the model's own choices of the log: entries 27, 131, 132. -/
def Obligations.TransposerWords : Prop :=
  ∀ (n : Fin 64) (s : State) (x : XpWord), (getSeq s n).xp = some x →
    let q := getSeq s n
    let u := xpTaken n s
    (x.xp = 0 → exec (.xpIdle n) s = .next u) ∧
    (x.xp = 12 → exec (.wpwait n) s = .next u) ∧
    (x.xp = 1 → exec (.lda n) s = .next (if q.fra < 64 then updSeq n (fun q => { q with fra := q.fra + 1, loaded := true })
        (x.rowA.foldl (fun s e => updField e.1 (loadA q.bank q.fra e.2) s) u) else setF (fSUTOR_STAT_LD_OVF n) 1 u)) ∧
    (x.xp = 2 → exec (.ldb n) s = .next (if q.frb < 64 then updSeq n (fun q => { q with frb := q.frb + 1, loaded := true })
        (x.rowB.foldl (fun s e => updField e.1 (loadB q.bank q.frb e.2) s) u) else setF (fSUTOR_STAT_LD_OVF n) 1 u)) ∧
    (x.xp = 3 → q.fra < 64 → q.frb < 64 → ∃ t, exec (.ldab n) s = .next t ∧ (getSeq t n).fra = q.fra + 1 ∧
      (getSeq t n).frb = q.frb + 1 ∧ (getSeq t n).lp = q.lp ∧ t.mem = s.mem ∧ t.regs = s.regs) ∧
    (x.xp = 4 → q.lp < 64 → ∃ t, exec (.step n) s = .next t ∧
      (getSeq t n).lp = q.lp + packOf (getF s (fSCMD_OP n)) (getF s (fSCMD_FMT n)) (getF s (fSCMD_SFMT n)) ∧
      (getSeq t n).pend = true ∧ (getSeq t n).fra = q.fra ∧ t.mem = s.mem ∧ t.regs = s.regs ∧
      ∀ f v, x.rowA = [(f, v)] → (getField t f).wq.length = (getField s f).wq.length + 1) ∧
    (x.xp = 5 → exec (.stepLda n) s = .next (xpLoad n x (xpStepWord n x u))) ∧
    (x.xp = 6 → exec (.stepLdb n) s = .next (xpLoad n x (xpStepWord n x u))) ∧
    (x.xp = 7 → exec (.stepLdab n) s = .next (xpLoad n x (xpStepWord n x u))) ∧
    (x.xp = 8 → ∃ t, exec (.swap n) s = .next t ∧ (getSeq t n).bank = !q.bank ∧ (getSeq t n).fra = 0 ∧
      (getSeq t n).frb = 0 ∧ (getSeq t n).lp = 0 ∧
      (∀ f ∈ fieldsOf s n, f ∉ x.idle → fillA (getField t f) (!q.bank) = []) ∧
      t.mem = s.mem ∧ t.regs = s.regs) ∧
    (x.xp = 10 → ∃ t, exec (.treset n) s = .next t ∧ (getSeq t n).fra = 0 ∧ (getSeq t n).frb = 0 ∧
      (getSeq t n).lp = 64 ∧ (getSeq t n).opt = b2n x.drains ∧
      (∀ f ∈ fieldsOf s n, f ∉ x.idle → (getField t f).ta0 = [] ∧ (getField t f).ta1 = [] ∧ (getField t f).tb0 = [] ∧
        (getField t f).tb1 = [] ∧ (getField t f).wq = (getField s f).wq) ∧ t.mem = s.mem ∧ t.regs = s.regs) ∧
    (x.xp = 11 → (∀ p, partAt s n = some p → p.wlog ≤ 3) → ∃ t, exec (.wpgo n) s = .next t ∧
      (∀ r < (fieldsOf s n).length, (fieldsOf s n).getD r 0 ∉ x.idle →
        (getField t ((fieldsOf s n).getD r 0)).wp = some ⟨n, bitF s (fWP_CMD_DIR n),
        bitF s (fWP_CMD_SRC n), 2 ^ getF s (fWP_CMD_ESIZE n),
        64 * (getF s (fWP_ADDR_ADDR n) + r * getF s (fWP_CMD_FSTRIDE n)), q.bank, 0, []⟩) ∧
      t.mem = s.mem ∧ t.regs = s.regs)

/-- R194, R189, R190. `deliver` writes values to CB or a shadow and ORs the flags of each lane.
Beside the rules it rests on the model's own choices of the log: entry 4. -/
def Obligations.CommitAndCompletion : Prop :=
  (∀ (n : Fin 64) (s : State) (x : XpWord), (getSeq s n).xp = some x → x.xp = 9 → ∃ t, exec (.commit n) s = .next t ∧
    (getSeq t n).pend = false ∧ (∀ f ∈ fieldsOf s n, f ∉ x.idle → (getField t f).wq = []) ∧
    getF t (fSFLAGS_STICKY n) = (getF s (fSFLAGS_STICKY n) |||
      (((fieldsOf s n).filter fun f => !x.idle.contains f).foldl (fun acc f =>
      (getField s f).slices.foldl (fun acc e => acc ||| orFlags e.2) acc) (0 : Flags)).toNat) % 2 ^ (fSFLAGS_STICKY n).w ∧
    t.mem = s.mem ∧ t.cores = s.cores) ∧
  (∀ (f : Fin 64) (sl : Fin 256) (s : State) (rs : List LaneResult) (l : List (List LaneResult)),
    (getSlice (getField s f) sl).pipe = rs :: l →
    exec (.wordTimeComplete f sl none) s =
      .next (deliver f sl rs true (updSlice f sl (fun y => { y with pipe := l }) s)) ∧
    ∀ e, ∃ t, exec (.wordTimeComplete f sl (some e)) s = .next t ∧
      (getSlice (getField t f) sl).mark = true ∧ (getSlice (getField t f) sl).pipe = l ∧ t.mem = s.mem) ∧
  (∀ (f : Fin 64) (sl : Fin 256) (d : Fin 4) (s : State) (j : DivJob),
    (getSlice (getField s f) sl).divq.find? (fun j => j.lane % 4 == d.val) = some j →
    let r := intDiv (fmtWidth j.fmt) j.sgn j.rem j.a j.b
    exec (.divideComplete f sl d) s = .next (deliver f sl [⟨j.lane, j.dst, j.asel, some r.1, r.2⟩] true
      (updSlice f sl (fun y => { y with divq := dropJob d y.divq }) s)))

/-- R187 to R190.
Beside the rules it rests on the model's own choices of the log: entry 4. -/
def Obligations.SutorWordTimes : Prop :=
  (∀ e ∈ sutorTable, ∀ (f : Fin 64) (sl : Fin 256) (s : State) (wt : WordTime), nextWordTime s f sl = some wt →
    wt.op = e.2.1 → (getSlice (getField s f) sl).divq = [] →
    (∀ rs ∈ (getSlice (getField s f) sl).pipe, ∀ r ∈ rs, r.lane < wt.lane0 ∨ wt.lane0 + wt.k ≤ r.lane) →
    let lanes (y : Slice) : List LaneResult := (wtLanes wt).map fun l =>
      let r := e.2.2 wt.fmt wt.sfmt wt.sgn y.rm.toNat (laneWord wt.ta sl l) (laneWord wt.tb sl l) (accOperand y wt.asel l)
      ⟨l, wt.dst, wt.asel, r.1, r.2⟩
    exec (e.1 f sl) s =
      .next (updSlice f sl (fun y => { y with head := y.head + 1, pipe := y.pipe ++ [lanes y] }) s)) ∧
  (∀ e ∈ [((.idiv : Fin 64 → Fin 256 → Instr), 0x12), (.irem, 0x13)], ∀ (f : Fin 64) (sl : Fin 256) (s : State)
    (wt : WordTime), nextWordTime s f sl = some wt → wt.op = e.2 →
    let js : List DivJob := (wtLanes wt).map fun l =>
      ⟨(getSlice (getField s f) sl).head, l, laneWord wt.ta sl l, laneWord wt.tb sl l, e.2 == 0x13, wt.fmt, wt.sgn, wt.asel, wt.dst⟩
    exec (e.1 f sl) s = .next (updSlice f sl (fun y => { y with head := y.head + 1, divq := y.divq ++ js }) s))

/-- R225. -/
def Obligations.FloatSpecialCases : Prop :=
  let canon (f : Nat) : Word := if f = 0 then 0x7FF8000000000000 else if f = 1 then 0x7FC00000 else if f = 2 then 0x7E00
    else 0x7FC0
  ∀ (f sf rm : Nat) (sg : Bool) (a b c v : Word) (fl : Flags) (op : Nat), f < 4 → sf < 4 → rm < 5 → 1 ≤ op →
    (op ≤ 7 ∨ op = 0x0B) → sutorOp op f sf sg rm a b c = (some v, fl) → (fpOf f v).isNan = true → v = canon f

/-- R244, through `intOf`, which reads the low w bits under SGN. -/
def Obligations.IntegerDivision : Prop :=
  ∀ (w : Nat) (sg : Bool) (a b : Word), w ∈ [8, 16, 32, 64] →
    let x := intOf w sg a
    let y := intOf w sg b
    let q := (intDiv w sg false a b).1
    let r := (intDiv w sg true a b).1
    (intDiv w sg false a b).2 = (intDiv w sg true a b).2 ∧ q.toNat < 2 ^ w ∧ r.toNat < 2 ^ w ∧
    (y = 0 → q.toNat = 2 ^ w - 1 ∧ intOf w sg r = x ∧ (intDiv w sg false a b).2 = flDZ) ∧
    (sg = true → x = -((2 ^ (w - 1) : Nat) : Int) → y = -1 →
      intOf w sg q = x ∧ r = 0 ∧ (intDiv w sg false a b).2 = flIO) ∧
    (y ≠ 0 → ¬ (sg = true ∧ x = -((2 ^ (w - 1) : Nat) : Int) ∧ y = -1) →
      x = intOf w sg q * y + intOf w sg r ∧ (intOf w sg r).natAbs < y.natAbs ∧
      (intOf w sg r = 0 ∨ (0 < intOf w sg r ↔ 0 < x)) ∧ (intDiv w sg false a b).2 = 0)
namespace Sys2Proof.Claims

/-! ### Registers written from outside -/

/-- Master m reaches the register at BAR0 offset o for a write: the part answers it, the route is there and
held by no window, and neither the fixed rules nor the access table refuse it (R320, R395, R411, R417, R570). -/
def HostPath (s : State) (m : BitVec 8) (o : Nat) : Prop :=
  hostPasses s m.toNat o = true ∧ regGate (homeOf m.toNat) m.toNat m.toNat true o s = (0, s)
/-- The response of such a write goes back: nothing changes, unless its route fails (R395, R407). -/
def hostBack (m : BitVec 8) (o : Nat) (s : State) : State := (regAnswer (homeOf m.toNat) m.toNat o 0 s).2
/-- The micro-sequencer of n is YIELDED or TRAPPED, without a hub operation in service. -/
def Stopped (s : State) (n : Fin 64) : Prop :=
  ((getSeq s n).state = .yielded ∨ (getSeq s n).state = .trapped) ∧ (getSeq s n).hubSvc = false
/-- Bit k of the interrupts pending in sequencer n is set, and nothing else of its core changes (R300). -/
def irqSet (n k : Nat) (s : State) : State :=
  updCore n (fun c => setSr 0x15 (getSr c 0x15 ||| (1#64 <<< k)) c) s

end Sys2Proof.Claims

/-- R112, R116 to R118, R302, R290; R289, R300, R314, R162, R79, R89.
Beside the rules it rests on the model's own choices of the log: entries 24, 25, 40, 41, 42, 43. -/
def Obligations.SequencerAndPreemptionCommands : Prop :=
  (∀ (m : BitVec 8) (n : Fin 64) (s : State), masterHalted s n = true →
    let q := getSeq s n
    let quiet : Prop := q.pendSw = false ∧ q.pendRb = false ∧ q.pendSp = false
    let o1 := 0x1000 * n.val + 0x200
    let o2 := 0x1000 * n.val + 0x10
    let same (u : State) : Prop := u.mem = s.mem ∧ u.fields = s.fields ∧ u.cores = s.cores
    (HostPath s m o1 → q.state = .issuing → exec (.yieldReq m n) s =
      .next (hostBack m o1 (updSeq n (fun q => { q with pendSw := true }) (setF (fMSEQ_CTL_YIELD_REQ n) 1 s)))) ∧
    (HostPath s m o1 → q.state = .idle → q.stop = none → ∃ u, exec (.yieldReq m n) s = .next (hostBack m o1 u) ∧
      (getSeq u n).state = .yielded ∧ getF u (fRESUME0_KIND n) = 5 ∧ getF u (fRESUME0_UPC n) = 0 ∧ same u) ∧
    (HostPath s m o1 → Stopped s n → getF s (fRESUME0_VALID n) = 1 → getF s (fRESUME0_DEPTH n) ≤ 4 →
      getF s (fRESUME0_KIND n) = 1 → getF s (fRESUME0_IN_HOLD n) = 0 → ∃ u, exec (.resume m n) s =
      .next (hostBack m o1 u) ∧ (getSeq u n).state = .issuing ∧
      (getSeq u n).upc = BitVec.ofNat 13 (getF s (fRESUME0_UPC n)) ∧
      (getSeq u n).ptrs.c0 = BitVec.ofNat 16 (getF s (fRESUME1_C0 n)) ∧
      (getSeq u n).ptrs.p1 = BitVec.ofNat 13 (getF s (fRESUME2_P1 n)) ∧ getF u (fRESUME0_VALID n) = 0 ∧ same u) ∧
    (HostPath s m o1 → Stopped s n → quiet → q.queue = [] → ∃ u, exec (.abort m n) s = .next (hostBack m o1 u) ∧
      (getSeq u n).state = .idle ∧ (getSeq u n).cur = none ∧ getF u (fRESUME0_VALID n) = 0 ∧ u.mem = s.mem) ∧
    (HostPath s m o2 → Stopped s n → quiet → q.pend = false → q.park.length + q.queue.length ≤ 16 → ∃ u,
      exec (.parkQueue m n) s = .next (hostBack m o2 u) ∧ (getSeq u n).queue = [] ∧ (getSeq u n).state = .idle ∧
      (getSeq u n).park = q.park ++ q.queue.map (fun e => { e with released := true }) ∧ u.mem = s.mem) ∧
    (HostPath s m o2 → Stopped s n → q.park.length + q.queue.length ≤ 16 → exec (.unpark m n) s =
      .next (hostBack m o2 (updSeq n (fun q => { q with
        queue := q.park.map (fun e => { e with released := false }) ++ q.queue, park := [] }) s))) ∧
    (HostPath s m o2 → q.state ≠ .follower →
      exec (.dropPark m n) s = .next (hostBack m o2 (updSeq n (fun q => { q with park := [] }) s)))) ∧
  (∀ (m : BitVec 8) (n : Fin 64) (v : Word) (s : State),
    let o (k : Nat) : Nat := 0x1000 * n.val + k
    let lead : Prop := (getSeq s n).state ≠ .follower
    (HostPath s m (o 0) → lead → masterFunc m.toNat ≠ none →
      (getCore s n).state ≠ .halted → (getCore s n).mid = false → coreHeld s n = false →
      exec (.seqHalt m n) s = .next (hostBack m (o 0) (haltCore n 4 s))) ∧
    (HostPath s m (o 0) → lead → m = 0x80 → exec (.preq m n) s = .next (hostBack m (o 0) (irqSet n 20 s))) ∧
    (HostPath s m (o 0) → (¬ lead ∨ masterFunc m.toNat = none) →
      exec (.seqHalt m n) s = .next (hostBack m (o 0) s)) ∧
    (HostPath s m (o 0) → (¬ lead ∨ m ≠ 0x80) → exec (.preq m n) s = .next (hostBack m (o 0) s)) ∧
    (HostPath s m (o 0x28) → (¬ lead ∨ m ≠ 0x61 ∧ (masterFunc m.toNat = none ∨ ownerOf s n ≠ masterFunc m.toNat)) →
      exec (.hmsgInWrite m n v) s = .next (hostBack m (o 0x28) s)) ∧
    (HostPath s m (o 0x28) → lead → (m = 0x61 ∨ (masterFunc m.toNat ≠ none ∧ ownerOf s n = masterFunc m.toNat)) →
      exec (.hmsgInWrite m n v) s = .next (hostBack m (o 0x28) (irqSet n 19 (setF (fSEQ_STATUS_MSG_FULL n) 1
        (storeF (fHMSG_IN_DATA n) v.toNat allBits (if getF s (fSEQ_STATUS_MSG_FULL n) = 1 then
          setF (fSEQ_STATUS_MSG_OVF n) 1 s else s)))))) ∧
    (∀ f, (getCore s n).state ≠ .halted → ownerOf s n = some f →
      let u := storeF (fHMSG_OUT_DATA n) v.toNat allBits s
      exec (.hmsgOutWrite n v) s = .next (postEvent f 1 n (getF u (fHMSG_OUT_DATA n)) u)) ∧
    ((getCore s n).state ≠ .halted → getF s (fTIMER_COMPARE n) ≠ 0 → cycleOf s n = getF s (fTIMER_COMPARE n) →
      exec (.timerMatch n) s = .next (irqSet n 23 s)) ∧
    (HostPath s m (o 0x270) → exec (.haloClr m n) s =
      .next (hostBack m (o 0x270) (updSeq n (fun q => { q with halo := [], haloAge := [] }) s))) ∧
    (HostPath s m (o 0x300) → getF s (fSURVEY_YIELD_BORROWED n) = 0 → exec (.leaseMapWrite m n v) s =
      .next (hostBack m (o 0x300) (storeF (fLEASE_MAP_FREE n) v.toNat allBits s))) ∧
    (HostPath s m (o 0x338) → ∃ u, exec (.injectArm m n v) s = .next (hostBack m (o 0x338) u) ∧
      getF u (fPEMEM_INJ_ARM n) = 1 ∧ getF u (fPEMEM_INJ_ROW n) = bits v.toNat (fPEMEM_INJ_ROW n).lo (fPEMEM_INJ_ROW n).w ∧
      u.mem = s.mem ∧ u.fields = s.fields ∧ u.seqs = s.seqs))


/-- R184, R208, R155, R308.
Beside the rules it rests on the model's own choices of the log: entries 44, 138. -/
def Obligations.ArrayConfiguration : Prop :=
  ∀ (m : BitVec 8) (n : Fin 64) (v : Word) (s : State),
    let st := (getSeq s n).state
    let calm : Prop := st = .idle ∨ st = .yielded ∨ st = .trapped
    let o1 := 0x1000 * n.val + 0x508
    let o2 := 0x1000 * n.val + 0x260
    (HostPath s m o1 → calm → partAt s n ≠ none → getF s (fSLICE_SEL_ALL n) = 1 → v.toNat % 8 < 5 →
      exec (.smodeWrite m n v) s = .next (hostBack m o1 (updPartSlices n (fun y => { y with
        rm := BitVec.ofNat 3 v.toNat, ten := BitVec.ofNat 8 (v.toNat / 2 ^ 8) }) s))) ∧
    (HostPath s m o1 → (¬ calm ∨ 5 ≤ v.toNat % 8) →
      exec (.smodeWrite m n v) s = .next (hostBack m o1 (setF (fSUTOR_STAT_MODE_REJ n) 1 s))) ∧
    (HostPath s m o2 → ∃ u, exec (.edgeCfgWrite m n v) s = .next (hostBack m o2 u) ∧ u.mem = s.mem ∧
      u.seqs = s.seqs ∧ u.fields = s.fields ∧
      let bad : Bool := (List.range 4).any fun d => bits v.toNat (2 * d) 2 == 3 && !(pkgEdges s n).testBit d
      (partAt s n = none → getF u (fEDGE_STATUS_CFG_REJ n) = 1 ∧ getF u (fEDGE_STATUS_REJ_WHY n) = 3) ∧
      (partAt s n ≠ none → ¬ calm → getF u (fEDGE_STATUS_CFG_REJ n) = 1 ∧ getF u (fEDGE_STATUS_REJ_WHY n) = 1) ∧
      (partAt s n ≠ none → calm → bad = true →
        getF u (fEDGE_STATUS_CFG_REJ n) = 1 ∧ getF u (fEDGE_STATUS_REJ_WHY n) = 2) ∧
      (partAt s n ≠ none → calm → bad = false → getF u (fEDGE_CFG_MODE_N n) = bits v.toNat 0 2 ∧
        getF u (fEDGE_CFG_MODE_E n) = bits v.toNat 2 2 ∧ getF u (fEDGE_CFG_MODE_S n) = bits v.toNat 4 2 ∧
        getF u (fEDGE_CFG_MODE_W n) = bits v.toNat 6 2 ∧ getF u (fEDGE_CFG_HALO_N n) = bits v.toNat 8 1)) ∧
    (let k := getF s (fRB_SEL_KIND n)
     let f := getF s (fRB_SEL_FIELD n)
     hostPasses s 0x80 (0x1000 * n.val + 0x20) = true → regGate 0xA8 0x80 0x80 false (0x1000 * n.val + 0x20) s = (0, s) →
     routeFailsAt s (serveNode (0x1000 * n.val + 0x20)) 0xA8 = none → masterHalted s n = true →
     st ≠ .issuing → st ≠ .held → 1 ≤ k → k ≤ 13 → (8 ≤ k ∨ (fieldsOf s n).contains f = true) →
     exec (.rbDataRead 0x80 n) s = .next { s with answers := s.answers ++ [⟨0xA8, 0,
       leBytes 8 (rbItem s n k f (getF s (fRB_SEL_SLICE n)) (getF s (fRB_SEL_INDEX n))), 0⟩] })

/-- R552, R79, R553.
Beside the rules it rests on the model's own choices of the log: entries 45, 46. -/
def Obligations.SurveyBorrowsAndYields : Prop :=
  (∀ (t : Fin 4) (r : SurveyRegion) (f : List MarchFail) (sw : Bool) (s : State), regionTile r = t.val →
    borrowed s t (regionKind r) = none → mayBorrow s r = false → exec (.surveyBorrow t r f sw) s = .next s) ∧
  (∀ (t : Fin 4) (f : Fin 64) (row : Fin 4096) (mf : List MarchFail) (sw : Bool) (s : State), tileOf f = t.val →
    borrowed s t 0 = none → mayBorrow s (.peRow f row) = true → (getField s f).rowErr = [] →
    ∃ u, exec (.surveyBorrow t (.peRow f row) mf sw) s = .next u ∧
      borrowed u t 0 = some ⟨.peRow f row, tget 0 (getField s f).rows row, [], []⟩ ∧
      getF u (fSURVEY_YIELD_BORROWED f) = 1 ∧ getF u (fSURVEY_YIELD_BROW f) = row ∧ u.fields = s.fields ∧ u.mem = s.mem) ∧
  (∀ (t : Fin 4) (n : Fin 64) (l : Fin 512) (mf : List MarchFail) (sw : Bool) (s : State), tileOf n = t.val →
    borrowed s t 1 = none → mayBorrow s (.almLine n l) = true →
    exec (.surveyBorrow t (.almLine n l) mf sw) s =
      .next { s with borrow := tput s.borrow (4 * t.val + 1) ⟨.almLine n l, 0, [], []⟩ }) ∧
  (∀ (t : Fin 4) (r : SurveyRegion) (b : Borrow) (sw : Bool) (s : State), regionTile r = t.val →
    borrowed s t (regionKind r) = some b → b.region = r →
    exec (.surveyBorrow t r [] sw) s = .next (let u := surveyRestore b s
      if sw then setF (fSURVEY_STAT_SWEEPS t) (getF u (fSURVEY_STAT_SWEEPS t) + 1) u else u)) ∧
  (∀ (f : Fin 64) (st : Fin 49) (n : Nat) (p : Part) (w : MicroWord) (b : Borrow) (row : Fin 4096) (s : State),
    partOf s f = some (n, p) → (getSeq s n).state = .held → (getSeq s n).stop = none →
    tlook s.alm (almKey n (getSeq s n).upc.toNat) = some w → tget 0 s.almErr (almKey n (getSeq s n).upc.toNat) = 0 →
    issuing s n = some p → getF s (fSURVEY_YIELD_BORROWED f) = 1 → getF s (fSURVEY_YIELD_BROW f) = row →
    (eaA w (getSeq s n).ptrs).toNat = row → borrowed s (tileOf f) 0 = some b → b.region = .peRow f row →
    ∃ u, exec (.rowYield f st) s = .next u ∧ borrowed u (tileOf f) 0 = none ∧
      getF u (fSURVEY_YIELD_BORROWED f) = 0 ∧ st.val ≤ getF u (fSURVEY_YIELD_MAX_STALL f) ∧ u.mem = s.mem ∧
      (getF s (fPEMEM_INJ_ARM f) = 0 → tget 0 (getField u f).rows row = b.plane)) ∧
  (∀ (q : Fin 4) (st : Fin 65) (b : Borrow) (s : State), borrowed s q 2 = some b →
    exec (.stagingYield q st) s =
      .next (maxF (fSURVEY_STAT_STG_MAX_STALL q) st (satF (fSURVEY_STAT_STG_YIELDS q) 1 (surveyRestore b s))))
namespace Sys2Proof.Claims

/-! ### Descriptors -/

/-- Descriptor j is the next of ring r to start; it has passed checks 1 to 4 of R338, and no fatal error stands. -/
def Ready (s : State) (r : Fin 8192) (op : Nat) (j : Job) : Prop :=
  headJob s r = some j ∧ j.phase = .ready ∧ j.op = op ∧ bitF s fDEV_ERR_FATAL = false
/-- It runs from a stage, and the descriptors behind it are decided. -/
def runs (r : Fin 8192) (j : Job) (stage : Nat) (s : State) : State := advanceRing r (runJob j stage s)
/-- It completes with a status and DETAIL, and the descriptors behind it are decided. -/
def ends (r : Fin 8192) (j : Job) (st det : Nat) (s : State) : State := advanceRing r (completeJob j.id st det s)
/-- The descriptors that move data, with the DETAIL of the first check of R339 to R342 or R378 that fails, 0 for none. -/
def moveTable : List ((Fin 8192 → Instr) × Nat × (State → Job → Nat)) :=
  let len (_ : State) (j : Job) : Nat := if 2 ^ 31 < dBits j 3 0 32 then 1 else 0
  [(.dmaIn, 2, len), (.dmaOut, 3, len),
   (.copy, 4, fun s j => if len s j = 1 then 1 else if dBits j 1 0 48 < dBits j 2 0 48 + dBits j 3 0 32 ∧
     dBits j 2 0 48 < dBits j 1 0 48 + dBits j 3 0 32 then 2 else 0),
   (.almanacLoad, 5, fun s j => if loadQuiesced s (jTarget j) = false then 0xFFFF
     else if 8192 < dBits j 2 0 13 + dBits j 3 0 14 then 0xFFFE else 0),
   (.imageLoad, 6, fun s j => if (getCore s (jTarget j)).state ≠ .halted then 0xFFFF
     else if 16384 < dBits j 2 0 14 + dBits j 3 0 15 then 0xFFFE else 0),
   (.chartUpdate, 0xB, fun _ j => if 2097152 < dBits j 2 0 21 + dBits j 3 0 22 then 1 else 0)]

end Sys2Proof.Claims

/-- R340, R120, R341, R378, R504.
Beside the rules it rests on the model's own choices of the log: entries 104, 136. -/
def Obligations.MoveDescriptorsStart : Prop :=
  (∀ e ∈ moveTable, ∀ (r : Fin 8192) (s : State) (j : Job), Ready s r e.2.1 j →
    exec (e.1 r) s = .next (if e.2.2 s j = 0 then runs r j 0 s else ends r j 8 (e.2.2 s j) s)) ∧
  (∀ (r : Fin 8192) (s : State) (j : Job), Ready s r 7 j →
    let d := if 16 < ldFirst j + ldCount j then 1 else if domRun s (20 + ldStrip j) = false then 2
      else if dBits j 3 0 32 ≠ ldCount j * imageBytes then 3 else 0
    exec (.fabricLoad r) s = .next (if d = 0 then runs r j 0 s else ends r j 8 d s))

/-- R336, R339, R351, R472, R520, R476, R555, R613.
Beside the rules it rests on the model's own choices of the log: entries 53, 54, 63, 114. -/
def Obligations.ControlDescriptors : Prop :=
  ∀ (r : Fin 8192) (s : State) (j : Job),
    (Ready s r 0 j → exec (.nop r) s = .next (ends r j 0 0 s)) ∧
    (Ready s r 8 j → exec (.fence r) s = .next (if dBits j 1 0 2 = 3 then ends r j 8 1 s else runs r j 0 s)) ∧
    (s.jobs.find? (fun j => j.ring == r.val && j.op == 8 && j.phase == .running) = some j → fenceMet s j = true →
      exec (.fenceRelease r) s = .next (ends r j 0 0 s)) ∧
    (Ready s r 1 j →
      let n := jTarget j
      let held : Prop := partAt s n ≠ none ∧ removing s n = false
      (¬ held → exec (.launch r) s = .next (ends r j 8 1 s)) ∧
      (held → (launchable s n = false ∨ launching s n = true) → exec (.launch r) s = .next (ends r j 8 2 s)) ∧
      (held → launchable s n = true → launching s n = false → tget false s.imageOk n = false →
        exec (.launch r) s = .next (ends r j 8 3 s)) ∧
      (held → launchable s n = true → launching s n = false → tget false s.imageOk n = true →
        (∀ q ∈ partQuads s n, domOpen s q = true) → tidTaken s 0xA8 0 = false →
        mayInject s ⟨0xA8, n, 0, .start j.id⟩ = true → (activeRoute s 0xA8 n).testBit 34 = true →
        exec (.launch r) s = .next (advanceRing r (issueRequest ⟨0xA8, n, 0, .start j.id⟩ (runJob j 0 s))))) ∧
    (Ready s r 9 j → watchCheck s j = 0 → exec (.watchSet r) s = .next (ends r j 0 0
      (if dBits j 1 8 1 = 1 then startWatch (dBits j 1 0 7) (dBits j 2 0 32) (dBits j 3 0 6) (dBits j 4 0 64) s
        else endWatch (dBits j 1 0 7) s))) ∧
    (Ready s r 9 j → watchCheck s j ≠ 0 → exec (.watchSet r) s = .next (ends r j 8 (watchCheck s j) s)) ∧
    (Ready s r 0xA j → dBits j 1 0 6 ≤ 40 → dBits j 1 8 3 = 0 → exec (.power r) s =
      .next (advanceRing r (requestState (dBits j 1 0 6) 0 (.desc j.id) (runJob j 0 s)))) ∧
    (Ready s r 0xA j → 5 ≤ dBits j 1 8 3 → exec (.power r) s = .next (ends r j 8 1 s)) ∧
    (Ready s r 0xE j → exec (.barrier r) s = .next (if 8 ≤ dBits j 1 0 4 then ends r j 8 1 s
      else advanceRing r (arriveAt (dBits j 1 0 4)
        (updJob j.id (fun j => { j with pos := nsNow s }) (runJob j 0 s))))) ∧
    (Ready s r 0xC j → getF s (fSPARE_MAP_ACTIVE (jTarget j)) = 0 → getF s (fSPARE_MAP_SPARE_BAD (jTarget j)) = 0 →
      (∀ k ∈ s.jobs, ¬ (k.op = 0xC ∧ k.phase = .running ∧ jTarget k = jTarget j)) →
      exec (.spare r) s = .next (if domRun s (quadDom (jTarget j)) then runs r j 0 s else ends r j 8 2 s)) ∧
    (Ready s r 0xD j → partAt s (jTarget j) = none → exec (.readback r) s = .next (ends r j 8 1 s)) ∧
    (∀ p, Ready s r 0xD j → partAt s (jTarget j) = some p → rbMask j < 2 ^ (2 ^ (p.wlog + p.hlog)) →
      snapSize (rbMask j) (rbSel j) ≤ dBits j 3 0 32 → exec (.readback r) s =
        .next (advanceRing r (rbAdvance j.id (rbAdvance j.id (runJob j 0 s)))))

/-- R343, R344, R346.
Beside the rules it rests on the model's own choices of the log: entries 13, 137. -/
def Obligations.CompletionEntries : Prop :=
  ∀ (s : State) (j : Job) (st det : Nat), findJob s j.id = some j → j.eng = none → j.mute = false → j.suppress = false →
    (∀ k ∈ s.jobs, k.id ≠ j.id → wantsEngine k = false) →
    let cq := getF s (fRING_CFG_CQ j.ring)
    let size := 2 ^ getF s (fRING_CFG_LOG2SIZE cq)
    let tail := getF s (fRING_PTR_TAIL cq) % size
    let ph := getF s (fRING_PTR_PHASE cq)
    let t := completeJob j.id st det s
    t.jobs = s.jobs.filter (fun k => k.id != j.id) ∧ t.mem = s.mem ∧ t.seqs = s.seqs ∧ t.cores = s.cores ∧
    (cqeBlocked s cq = false → getF s (fRING_CFG_IRQ_EN cq) = 0 → cq ≠ j.ring →
      t.hostTx = s.hostTx ++ [⟨(ringOwner s cq).getD 0, 4096 * getF s (fRING_BASE_BASE cq) + 16 * tail,
        leBytes 8 (j.tag + j.index * 2 ^ 32 + getF s (fRING_PTR_HEAD j.ring) * 2 ^ 48) ++
        leBytes 8 ((det % 2 ^ 32 + j.ring * 2 ^ 32 + j.op * 2 ^ 48 + st * 2 ^ 56) % 2 ^ 63 + ph * 2 ^ 63), false⟩] ∧
      getF t (fRING_PTR_TAIL cq) = (tail + 1) % size % 2 ^ 16 ∧
      (tail + 1 = size → getF t (fRING_PTR_PHASE cq) = (1 - ph) % 2) ∧
      getF t (fRING_PTR_IN_FLIGHT j.ring) =
        (getF s (fRING_PTR_IN_FLIGHT j.ring) - 1) % 2 ^ (fRING_PTR_IN_FLIGHT j.ring).w) ∧
    (ringFull s cq = true → t.heldCqe = s.heldCqe ++ [⟨j, st, det⟩] ∧ t.hostTx = s.hostTx ∧
      getF t (fRING_STAT_FULL_HELD cq) = 1)

/-- R331 to R333, R323, R338, R350, R328, R329, R321, R347.
Beside the rules it rests on the model's own choices of the log: entries 49, 50, 51, 52, 151, 165. -/
def Obligations.DoorbellsAndFetches : Prop :=
  (∀ (f : Fin 64) (slot : Fin 8192) (r : Nat) (v : BitVec 32) (s : State), doorbellReaches s f r = true → v.toNat < 2 ^ 16 →
    (if f.val = 0 then slot.val = r
      else slot.val < 1024 ∧ r % 64 = slot.val % 64 ∧ (groupsOf s f)[slot.val / 64]? = some (r / 64)) →
    getF s (fRING_CFG_ENABLE r) = 1 →
    let n := ringSize s r
    let tail := getF s (fRING_PTR_TAIL r)
    (getF s (fRING_CFG_KIND r) = 0 → v.toNat < n → exec (.sqDoorbell f slot 4 0 v) s = .next (
      if v.toNat ≠ tail ∧ getF s (fRING_CFG_BIND_EN r) = 1 then
        irqSet (getF s (fRING_CFG_BIND_SEQ r)) 16 (setF (fRING_PTR_TAIL r) v.toNat s)
      else setF (fRING_PTR_TAIL r) v.toNat s)) ∧
    (getF s (fRING_CFG_KIND r) ≠ 0 → v.toNat < n →
      (tail + n - v.toNat) % n ≤ (tail + n - getF s (fRING_PTR_HEAD r)) % n → s.heldCqe = [] → tget 0 s.evtLost r = 0 →
      exec (.cqDoorbell f slot 4 0 v) s = .next (setF (fRING_PTR_HEAD r) v.toNat s)) ∧
    (getF s (fRING_CFG_KIND r) = 0 → n ≤ v.toNat → exec (.sqDoorbell f slot 4 0 v) s =
      .next (postEvent ((ringOwner s r).getD 0) 3 r 1 (setF (fRING_STAT_DB_BAD r) 1 s)))) ∧
  (∀ (r : Fin 8192) (ce : BitVec 8) (s : State), let u := satF fDEV_ERR_HUB_CE ce.toNat s
    fetchTurn u r = true →
    let k := fetchCount u r
    let h := getF s (fRING_PTR_HEAD r)
    ∃ t, exec (.descriptorFetch r ce) s = .next t ∧ t.fetches = s.fetches ++ fetchReads s r k h k s.jobNo ∧
      t.jobNo = s.jobNo + k ∧ getF t (fRING_PTR_HEAD r) = (h + k) % ringSize s r % 2 ^ 16 ∧ t.jobs = s.jobs ∧
      getF t fDEV_ERR_HUB_CE = min (getF s fDEV_ERR_HUB_CE + ce.toNat) (2 ^ fDEV_ERR_HUB_CE.w - 1) ∧
      tget 8191 t.fetchRing ((ringOwner s r).getD 0) = r ∧ t.mem = s.mem) ∧
  (∀ (s : State) (r h k id : Nat), 64 ≤ s.pcie.mrrs →
    ((fetchReads s r k h k id).map (·.count)).sum = k ∧
    ∀ x ∈ fetchReads s r k h k id, x.ring = r ∧ 64 * x.count ≤ s.pcie.mrrs ∧ 64 * x.first % 4096 + 64 * x.count ≤ 4096 ∧
      h ≤ x.first ∧ x.first - h = x.id - id) ∧
  (∀ (r : Fin 8192) (s : State) (f : Fetch) (ds : List (BitVec 512)),
    s.fetches.find? (fun f => f.ring == r.val) = some f →
    (ds.length = f.count → exec (.descriptorArrival r ds) s = .next (advanceRing r { s with
      fetches := s.fetches.erase f,
      jobs := s.jobs ++ (List.range f.count).map fun i => newJob s r (f.first + i) (f.id + i) (ds.getD i 0) })) ∧
    ∃ t, exec (.descriptorFetchFail r) s = .next t ∧ t.fetches = s.fetches.erase f ∧
      getF t (fRING_STAT_STOPPED r) = 1 ∧ getF t (fRING_STAT_HOST_ERR r) = 1 ∧ t.jobs = s.jobs ∧ t.mem = s.mem) ∧
  (∀ (r : Fin 8192) (s : State), s.cqHold = false →
    (tlook s.holdoff r = some true → exec (.msixHoldoffEnd r) s =
      .next (let u := { s with holdoff := terase s.holdoff r }
        if bitF s (fRING_CFG_IRQ_EN r) then announce r u else u)) ∧
    (tlook s.holdoff r = some false → exec (.msixHoldoffEnd r) s = .next { s with holdoff := terase s.holdoff r })) ∧
  (∀ (f : Fin 64) (r : Fin 8192) (v : Word) (s : State), HostPath s (ringMaster f) (0x80008 + 32 * r.val) →
    let new (x : Fld) : Nat := bits v.toNat x.lo x.w
    (getF s (fRING_CFG_ENABLE r) = 0 → ringOwner s r = some f.val → getF s (fRING_PTR_IN_FLIGHT r) = 0 →
      4 ≤ new (fRING_CFG_LOG2SIZE r) → new (fRING_CFG_LOG2SIZE r) ≤ 16 → new (fRING_CFG_KIND r) ≠ 3 →
      (new (fRING_CFG_KIND r) = 0 → isCqOf s (new (fRING_CFG_CQ r)) f = true ∧
        (new (fRING_CFG_BIND_EN r) = 1 → ownerOf s (new (fRING_CFG_BIND_SEQ r)) = some f.val)) →
      tget 0 s.evtLost r = 0 → ∃ u,
      exec (.ringEnable f r v) s = .next (hostBack (ringMaster f) (0x80008 + 32 * r.val) u) ∧
      getF u (fRING_CFG_ENABLE r) = 1 ∧ getF u (fRING_CFG_KIND r) = new (fRING_CFG_KIND r) ∧
      getF u (fRING_CFG_LOG2SIZE r) = new (fRING_CFG_LOG2SIZE r) ∧ getF u (fRING_CFG_CQ r) = new (fRING_CFG_CQ r) ∧
      getF u (fRING_PTR_HEAD r) = 0 ∧ getF u (fRING_PTR_TAIL r) = 0 ∧ getF u (fRING_PTR_PHASE r) = 1 ∧
      getF u (fRING_STAT_CFG_STATUS r) = 0 ∧ u.mem = s.mem) ∧
    (getF s (fRING_CFG_ENABLE r) = 0 → (new (fRING_CFG_LOG2SIZE r) < 4 ∨ 16 < new (fRING_CFG_LOG2SIZE r)) → ∃ u,
      exec (.ringEnable f r v) s = .next (hostBack (ringMaster f) (0x80008 + 32 * r.val) u) ∧
      getF u (fRING_CFG_ENABLE r) = 0 ∧ getF u (fRING_STAT_CFG_STATUS r) = 8 ∧ getF u (fRING_STAT_CFG_DETAIL r) = 1 ∧
      u.mem = s.mem) ∧
    (getF s (fRING_CFG_ENABLE r) = 1 → disableRefused s r = false → ∃ u,
      exec (.ringDisable f r v) s = .next (hostBack (ringMaster f) (0x80008 + 32 * r.val) u) ∧
      getF u (fRING_CFG_ENABLE r) = 0 ∧ getF u (fRING_CFG_KIND r) = getF s (fRING_CFG_KIND r) ∧ u.mem = s.mem)) ∧
  (∀ (m : BitVec 8) (g : Fin 128) (v : Word) (s : State), HostPath s m (0x41400 + 8 * g.val) →
    (∀ i < 64, getF s (fRING_CFG_ENABLE (64 * g.val + i)) = 0) → ∃ u,
      exec (.rgOwnerWrite m g v) s = .next (hostBack m (0x41400 + 8 * g.val) u) ∧
      getF u (fRG_OWNER_OWNER g) = v.toNat % 64 ∧ getF u (fRG_OWNER_ASSIGNED g) = v.toNat / 64 % 2 ∧ u.mem = s.mem)

/-- R340, R341, R121, R607, R200.
Beside the rules it rests on the model's own choices of the log: entries 57, 60, 64, 65, 70. -/
def Obligations.TransfersAndLoadsEnd : Prop :=
  (∀ (e : Fin 16) (i : Fin 32) (s : State) (j : Job) (r : HostRd), hostReading s e i = some (j, r) →
    let u := updJob j.id (fun j => { j with reads := hostReads s j }) s
    exec (.hostReadTimeout e i) s = .next (if s.pcie.ctoOff then s else failMove j.id 6 1 r.off u) ∧
    exec (.hostReadCompletion e i .unsupported) s = .next (failMove j.id 3 1 r.off u) ∧
    exec (.hostReadCompletion e i .abort) s = .next (failMove j.id 1 1 r.off u) ∧
    exec (.hostReadCompletion e i .poisoned) s = .next (failMove j.id 4 1 r.off u) ∧
    ∀ d, r.got.length + d.length ≤ r.len → j.op ≠ 2 → exec (.hostReadCompletion e i (.data d)) s =
      .next (takeReads j.id ((hostReads s j).length + 1) (updJob j.id (fun j => { j with
        reads := j.reads.map fun q => if q.off = r.off then { q with got := q.got ++ d } else q }) u))) ∧
  (∀ (e : Fin 16) (late : BitVec 64) (s : State) (j : Job), engineJob s e = some j → findJob s j.id = some j →
    (j.op = 2 → j.fail = none → j.data = [] → j.pos = moveLen j →
      exec (.dmaTransferEnd e late) s = .next (completeJob j.id 0 0 s)) ∧
    (j.op = 3 → j.fail = none → j.pos + j.data.length = moveLen j → exec (.dmaTransferEnd e late) s =
      .next (completeJob j.id 0 0 (sentData j.id j.data.length (hostStore j.func (dBits j 1 0 64 + j.pos) j.data s)))) ∧
    (∀ st sd off, j.op = 4 → j.fail = some (st, sd, off) → off ≤ j.pos → j.reads = [] → late = 0 →
      exec (.dmaTransferEnd e late) s = .next (completeJob j.id st (off % 2 ^ 31 + sd * 2 ^ 31) s)) ∧
    (j.op = 5 → j.stage = 0 → j.fail = none → dBits j 4 0 1 = 0 → moveLen j ≤ gotBytes j →
      ((∀ i < dBits j 3 0 14, mwReserved (srcMicro j i) = false) →
        exec (.sourceReadDone e) s = .next (leaveEngine j.id 1 s)) ∧
      (∀ i < dBits j 3 0 14, mwReserved (srcMicro j i) = true → (∀ k < i, mwReserved (srcMicro j k) = false) →
        exec (.sourceReadDone e) s = .next (completeJob j.id 8 (dBits j 2 0 13 + i) s)))) ∧
  (∀ (n : Fin 64) (s : State) (j : Job),
    runningJob s (fun j => (j.op == 5 || j.op == 6) && j.stage == 1 && jTarget j == n.val) = some j →
    ∃ t, exec (.loadWriteDone n) s = .next t ∧ t.mem = s.mem ∧ (findJob s j.id = some j → findJob t j.id = none) ∧
      (j.op = 5 → ∀ i < dBits j 3 0 14, tlook t.alm (almKey n (dBits j 2 0 13 + i)) = some (srcMicro j i) ∧
        tget 0 t.almErr (almKey n (dBits j 2 0 13 + i)) = 0) ∧
      (j.op = 6 → tget false t.imageOk n = true ∧ ∀ i < dBits j 3 0 15,
        tget 0 (getCore t n).imem (dBits j 2 0 14 + i) = BitVec.ofNat 32 (srcWord j 4 i))) ∧
  (∀ (n : Fin 64) (isr : List (Fin 64 × Fin 16384 × Bool)) (late : BitVec 64) (s : State) (j : Job) (p : Part),
    runningJob s (fun j => j.op == 0xD && jTarget j == n.val && decide (3 ≤ j.stage)) = some j → partAt s n = some p →
    findJob s j.id = some j → j.stage = 4 → j.eng = none → dBits j 4 0 1 = 0 →
    exec (.readbackCopyDone n isr late) s =
      .next (endReadback j 0 (snapBad j.data) (hostStore j.func (dBits j 1 0 64) j.data s))) ∧
  (∀ (f : Fin 64) (late : BitVec 64) (s u : State) (t : WpRun), wpLines f 2049 s = (some 0, u) →
    (getField u f).wp = some t → exec (.wpTransferEnd f late) s =
      .next (updField f (fun x => { x with wp := none }) (if t.inward then wpFill f t u else u)))
namespace Sys2Proof.Claims

/-! ### Requests at memory targets -/

/-- The address of the line of a request. -/
def lineAddr (r : LineReq) : Nat := 64 * r.line.toNat
/-- Byte i of the data of a request. -/
def reqByte (r : LineReq) (i : Nat) : Byte := (r.data >>> (8 * i)).setWidth 8
/-- The SECDED words of the line at a hold no error. -/
def Clean (s : State) (a : Nat) : Prop := ∀ w, a / 8 ≤ w → w < a / 8 + 8 → tget 0 s.memErr w = 0
/-- The byte a write stores at address x, if it stores one there. -/
def stores (r : LineReq) (x : Nat) : Option Byte :=
  if r.write = true ∧ lineAddr r ≤ x ∧ x < lineAddr r + 64 ∧ r.en.getLsbD (x - lineAddr r) = true then
    some (reqByte r (x - lineAddr r)) else none
/-- What an undisturbed answer to a request brings: of a read the enabled bytes, of a write nothing. -/
def lineBack (s : State) (r : LineReq) : List Byte :=
  if r.write then [] else (List.range 64).map fun i => if r.en.getLsbD i then memByte s (lineAddr r + i) else 0
/-- The access table of node d lets a request pass (R569). -/
def Passes (s : State) (d : Nat) (r : LineReq) : Prop := aclAllows s d r.master.toNat r.write (lineAddr r) = true
/-- A request that has just reached scratchpad n and passed its table. -/
def NewAtSpad (s : State) (n : Fin 64) (r : LineReq) : Prop :=
  (∀ e ∈ s.spadQ, ¬ (e.n = n.val ∧ e.req = r)) ∧ domOpen s (quadDom n) = true ∧
  locate (lineAddr r) = some (.spad, n.val) ∧ Passes s n r ∧ Clean s (lineAddr r)
/-- Two writes store different bytes somewhere in 8-byte word w of their line (R365). -/
def differAt (a b : LineReq) (w : Nat) : Bool :=
  (List.range 8).any fun i => a.en.getLsbD (8 * w + i) && b.en.getLsbD (8 * w + i) &&
    reqByte a (8 * w + i) != reqByte b (8 * w + i)
/-- The home controller's verdict of R375 on a Chart entry: a status other than OK, or `none`. -/
def entryStatus (s : State) (v : BitVec 32) (m : Nat) (wr : Bool) : Option Nat :=
  let perm := v.toNat / 2 ^ 27 % 4
  if v.getLsbD 29 = false then some 3
  else if perm ≠ 3 ∧ (perm = 0 ∨ ownerPass s m (v.toNat / 2 ^ 21 % 64) = false) then some 1
  else if perm = 1 ∧ wr = true then some 1 else none
/-- The raw address of HBM address a under a Chart entry (R370, R374). -/
def entryRaw (s : State) (v : BitVec 32) (a : Nat) : Nat :=
  rawOf (getF s (fHBM_SEED_SEED (v.toNat / 2 ^ 21 % 64))) (v.toNat % 2 ^ 21 * 65536 + (a - hbmVBase) % 65536)
/-- The stack of a raw address is in service and its domain takes requests. -/
def StackUp (s : State) (ra : Nat) : Prop := stackFailed s ra = false ∧ domOpen s (nodeDom (rawNode ra)) = true
/-- The home controller of HBM address a can forward a request to the stack of a raw address at once. -/
def Forwards (s : State) (a ra : Nat) : Prop :=
  StackUp s ra ∧ (nodeDom (homeOfAddr a) = nodeDom (rawNode ra) ∨
    routeFailsAt s (homeOfAddr a) (rawNode ra) = none ∧ stackRetry s (homeOfAddr a) ra = false)
/-- The answer of a stack controller reaches the requester. -/
def Returns (s : State) (x : HbmReq) : Prop :=
  x.fwd = false ∨ nodeDom (homeOfAddr x.req.addr) = nodeDom (rawNode x.ra) ∨
    routeFailsAt s (rawNode x.ra) (homeOfAddr x.req.addr) = none

end Sys2Proof.Claims

/-- R363 to R366, R569: every byte of memory is accounted for.
Beside the rules it rests on the model's own choices of the log: entries 69, 166. -/
def Obligations.StagingBanksServe : Prop :=
  ∀ (k : Fin 32) (s : State), domOpen s (37 + k.val / 8) = true →
    let good (r : LineReq) : Prop := bankTakes s k (memReq r) = true ∧ Passes s (0x60 + k.val) r ∧ Clean s (lineAddr r)
    let turn (r : LineReq) : Nat := roundAfter 256 (tget 255 s.stgTurn k) r.master.toNat
    (∀ a : LineReq, good a → ∃ t, exec (.stagingAccess k [a] []) s = .next t ∧
      (∀ x, memByte t x = (stores a x).getD (memByte s x)) ∧ t.answers = s.answers ++ [⟨a.node.toNat, 0, lineBack s a, 0⟩] ∧
      tget 255 t.stgTurn k = a.master.toNat ∧ t.regs = s.regs ∧ t.cores = s.cores ∧ t.seqs = s.seqs) ∧
    (∀ a b : LineReq, good a → good b → a.master ≠ b.master → turn a ≤ turn b → ∀ l, (l = [a, b] ∨ (l = [b, a] ∧ turn a < turn b)) →
      ∃ t, exec (.stagingAccess k l []) s = .next t ∧
        (∀ x, memByte t x = (stores a x).getD ((stores b x).getD (memByte s x))) ∧
        (∀ r, r = a ∨ r = b → ⟨r.node.toNat, 0, lineBack s r, 0⟩ ∈ t.answers) ∧
        tget 255 t.stgTurn k = b.master.toNat ∧
        t.answers.length = s.answers.length + 2 ∧ t.cores = s.cores ∧ t.seqs = s.seqs) ∧
    (∀ a b : LineReq, good a → good b → a.write = true → b.write = true → a.master ≠ b.master → a.line = b.line →
      turn a < turn b →
      let n := trues ((List.range 8).map (differAt a b))
      ∃ t, exec (.stagingAccess k [a, b] []) s = .next t ∧
        getF t (fSTG_COLL_COUNT k) = min (getF s (fSTG_COLL_COUNT k) + n) (2 ^ 32 - 1)) ∧
    (∀ a b : LineReq, good a → good b → a.master = b.master →
      let c := fSTG_CONFLICT_COUNT a.master.toNat (k.val / 8)
      ∃ t, exec (.stagingAccess k [a, b] []) s = .next t ∧ getF t c = min (getF s c + 1) (2 ^ c.w - 1) ∧
        t.answers = s.answers ++ [⟨a.node.toNat, 0, lineBack s a, 0⟩] ∧
        ∀ x, memByte t x = (stores a x).getD (memByte s x)) ∧
    (∀ r : LineReq, bankTakes s k (memReq r) = true → ¬ Passes s (0x60 + k.val) r →
      let u := refusalLog (0x60 + k.val) (lineAddr r) r.master.toNat (if r.write then 1 else 0) 1
        { s with stgTurn := tset 255 s.stgTurn k r.master.toNat }
      exec (.stagingAccess k [r] []) s =
        .next { u with answers := u.answers ++ [⟨r.node.toNat, 1, [], 0⟩] })

/-- R304, R305, R546.
Beside the rules it rests on the model's own choices of the log: entry 31. -/
def Obligations.ScratchpadPartsProceed : Prop :=
  (∀ (n : Fin 64) (r : LineReq) (k : Fin 8) (w : BitVec 32) (s : State), NewAtSpad s n r →
    (partsOf (memReq r) = [k.val] → ∃ t, exec (.scratchpadPart n r k w []) s = .next t ∧
      (∀ x, memByte t x = (stores r x).getD (memByte s x)) ∧ t.spadQ = s.spadQ ∧
      t.answers = s.answers ++ [⟨r.node.toNat, 0, lineBack s r, 0⟩] ∧
      (getF s (fSPAD_WAIT_MAX_WAIT n) < w.toNat →
        getF t (fSPAD_WAIT_MAX_WAIT n) = w.toNat ∧ getF t (fSPAD_WAIT_MAX_BANK n) = k.val) ∧
      (w.toNat ≤ getF s (fSPAD_WAIT_MAX_WAIT n) → t.regs = s.regs) ∧ t.cores = s.cores) ∧
    (k.val ∈ partsOf (memReq r) → partsOf (memReq r) ≠ [k.val] → ∃ t e, exec (.scratchpadPart n r k w []) s = .next t ∧
      t.answers = s.answers ∧ t.spadQ = s.spadQ ++ [e] ∧ e.n = n.val ∧ e.req = r ∧
      e.left = (partsOf (memReq r)).erase k.val) ∧
    (k.val ∈ partsOf (memReq r) → ∃ t e, exec (.spadStarve n r k) s = .next t ∧ t.spadQ = s.spadQ ++ [e] ∧
      e.starved = [k.val] ∧ e.left = partsOf (memReq r) ∧ t.mem = s.mem ∧ t.answers = s.answers ∧
      getF t (fSPAD_STARVE_BANK n k) = min (getF s (fSPAD_STARVE_BANK n k) + 1) 255)) ∧
  (∀ (n : Fin 64) (r : LineReq) (k : Fin 8) (s : State) (e : SpadReq),
    s.spadQ.find? (fun e => e.n == n.val && e.req == r) = some e → k.val ∈ e.starved →
    exec (.spadStarve n r k) s = .next s)

/-- R375, R376, R368, R369, R372, R377.
Beside the rules it rests on the model's own choices of the log: entries 31, 66, 67, 166, 171. -/
def Obligations.HbmRequestsReachTheirStack : Prop :=
  (∀ (r : LineReq) (node : Nat) (s : State), locate (lineAddr r) = some (.raw, node) →
    domOpen s (nodeDom node) = true → Passes s node r →
    let ra := lineAddr r - hbmRBase
    (StackUp s ra → exec (.rawRequest r) s = .next { s with hbmQ := s.hbmQ ++ [⟨ra, false, memReq r⟩] }) ∧
    (stackFailed s ra = true → ∃ t, exec (.rawRequest r) s = .next t ∧ t.hbmQ = s.hbmQ ∧ t.mem = s.mem ∧
      t.answers = s.answers ++ [⟨r.node.toNat, 3, [], 0⟩])) ∧
  (∀ (r : LineReq) (node : Nat) (s : State), locate (lineAddr r) = some (.xlat, node) →
    domOpen s (nodeDom node) = true → Passes s node r →
    let page := (lineAddr r - hbmVBase) / 65536
    (∀ w ∈ s.xlatWait, (w.addr - hbmVBase) / 65536 ≠ page) →
    (∀ (l : ChartLine) (st : Nat), tlook s.chartCache page = some l →
      entryStatus s l.entry r.master.toNat r.write = some st → ∃ t, exec (.translatedRequest r) s = .next t ∧
        t.hbmQ = s.hbmQ ∧ t.mem = s.mem ∧ t.answers = s.answers ++ [⟨r.node.toNat, st, [], 0⟩]) ∧
    (∀ l : ChartLine, tlook s.chartCache page = some l → entryStatus s l.entry r.master.toNat r.write = none →
      Forwards s (lineAddr r) (entryRaw s l.entry (lineAddr r)) → exec (.translatedRequest r) s =
        .next { s with hbmQ := s.hbmQ ++ [⟨entryRaw s l.entry (lineAddr r), true, memReq r⟩] }) ∧
    (tlook s.chartCache page = none → exec (.translatedRequest r) s =
      .next (satF (fHBM_XLAT_MISS (page % 4)) 1 { s with xlatWait := s.xlatWait ++ [memReq r] }))) ∧
  (∀ (i : Fin 2097152) (flip : BitVec 39) (s : State) (q : MemReq), s.xlatWait = [q] → (q.addr - hbmVBase) / 65536 = i.val →
    let v := tget 0 s.chart i
    let err := tget 0 s.chartErr i ^^^ flip
    (err = 0 → tlook s.chartCache i = none → entryStatus s v q.master q.write = none →
      Forwards s q.addr (entryRaw s v q.addr) →
      ∃ t, exec (.chartFetchDone i flip) s = .next t ∧ t.xlatWait = [] ∧ tlook t.chartCache i = some ⟨v, []⟩ ∧
        t.hbmQ = s.hbmQ ++ [⟨entryRaw s v q.addr, true, q⟩] ∧ t.mem = s.mem ∧ t.answers = s.answers) ∧
    (popc 6 err.toNat = 2 → ∃ t, exec (.chartFetchDone i flip) s = .next t ∧ t.xlatWait = [] ∧
      t.hbmQ = s.hbmQ ∧ t.mem = s.mem ∧ t.answers = s.answers ++ [⟨q.node, 4, [], 0⟩] ∧
      getF t fCHART_ECC_UE_CNT = min (getF s fCHART_ECC_UE_CNT + 1) (2 ^ fCHART_ECC_UE_CNT.w - 1))) ∧
  (∀ (c : Fin 128) (e : HbmEcc) (s : State) (x : HbmReq), stackNext s c = some x →
    domOpen s (16 + c.val / 32) = true → channelHeld s x.ra = false → Returns s x →
    (∀ b ∈ burstsOf x.ra x.req.en, tget 0 s.hbmErr b = 0) → burstsOf x.ra x.req.en ≠ [] →
    let base := hbmRBase + x.ra
    let d := (List.range x.req.en.length).map fun i => if x.req.en.getD i false then memByte s (base + i) else 0
    (x.req.write = false → e = .clean → exec (.hbmServe c e) s = .next { s with
      hbmQ := s.hbmQ.erase x, hbmTurn := tset 255 s.hbmTurn c x.req.master,
      answers := s.answers ++ [⟨x.req.node, 0, d, 0⟩] }) ∧
    (x.req.write = false → e = .uncorrectable → ∃ t po, exec (.hbmServe c e) s = .next t ∧ t.mem = s.mem ∧
      t.hbmQ = s.hbmQ.erase x ∧ t.answers = s.answers ++ [⟨x.req.node, 4, d, po⟩] ∧ po ≠ 0 ∧
      getF t (fHBM_ERR_UE_CNT (x.ra / 2 ^ 35 % 4)) = min (getF s (fHBM_ERR_UE_CNT (x.ra / 2 ^ 35 % 4)) + 1)
        (2 ^ (fHBM_ERR_UE_CNT (x.ra / 2 ^ 35 % 4)).w - 1)) ∧
    (x.req.write = true → e ≠ .uncorrectable → x.fwd = false → ∃ t, exec (.hbmServe c e) s = .next t ∧
      (∀ y, memByte t y = if base ≤ y ∧ x.req.en.getD (y - base) false = true then x.req.data.getD (y - base) 0
        else memByte s y) ∧ t.hbmQ = s.hbmQ.erase x ∧ t.answers = s.answers ++ [⟨x.req.node, 0, [], 0⟩]) ∧
    (x.req.write = true → e = .uncorrectable → (∃ b ∈ burstsOf x.ra x.req.en, fillsBurst x.ra x.req.en b = false) →
      ∃ t, exec (.hbmServe c e) s = .next t ∧
      t.mem = s.mem ∧ t.hbmQ = s.hbmQ.erase x ∧ t.answers = s.answers ++ [⟨x.req.node, 4, [], 0⟩]))

/-- R380, R378, R400, R373, R371, R368.
Beside the rules it rests on the model's own choices of the log: entries 33, 68. -/
def Obligations.InvalidationsAndWindows : Prop :=
  (∀ (n : Fin 64) (line : BitVec 31) (s : State), domOpen s (quadDom n) = true → ∃ t, exec (.lineInvalidate n line) s = .next t ∧
    tlook (getCore t n).cache line.toNat = none ∧
    (∀ l, l ≠ line.toNat → tlook (getCore t n).cache l = tlook (getCore s n).cache l) ∧
    (∀ k, k ≠ n.val → getCore t k = getCore s k) ∧ t.mem = s.mem ∧ t.chartCache = s.chartCache ∧ t.answers = s.answers) ∧
  (∀ (n : Fin 64) (line : BitVec 31) (s : State), domOpen s (quadDom n) = false → ∃ t, exec (.lineInvalidate n line) s = .next t ∧
    (getCore t n).cache = [] ∧ (∀ k, k ≠ n.val → getCore t k = getCore s k) ∧ t.mem = s.mem ∧ t.chartCache = s.chartCache) ∧
  (∀ (i : Fin 2097152) (s : State), domOpen s (16 + i.val % 4) = true → ∃ t, exec (.entryInvalidate i) s = .next t ∧
    tlook t.chartCache i = none ∧
    (∀ j, j ≠ i.val → tlook t.chartCache j = tlook s.chartCache j) ∧ t.mem = s.mem ∧
    ∀ l, tlook s.chartCache i = some l →
      getF t (fHBM_XLAT_SHOOT (i.val % 4)) = min (getF s (fHBM_XLAT_SHOOT (i.val % 4)) + 1) (2 ^ 32 - 1) ∧
      ∀ n ∈ l.sharers, ∀ line, line / 1024 = i.val → tlook (getCore t n).cache line = none) ∧
  (∀ (d : BitVec 8) (s : State), ∃ t, exec (.invalidateAll d) s = .next t ∧ t.mem = s.mem ∧
    (d.toNat < 64 → (getCore t d.toNat).cache = []) ∧
    (64 ≤ d.toNat → d.toNat < 96 → ∀ j, tlook t.chartCache j =
      if j % 4 = (d.toNat - 64) / 8 then none else tlook s.chartCache j)) ∧
  (∀ (d : BitVec 8) (s : State) (v : Inval),
    s.invals.find? (fun v => v.node == d.toNat && v.acted && !(v.kind == 1 && entryBusy s v.what)) = some v →
    ∃ t, exec (.acknowledge d) s = .next t ∧ t.invals = s.invals.erase v ∧ t.mem = s.mem ∧
      ∀ w ∈ s.invWait, (∀ x ∈ s.invals.erase v, ¬ (x.kind = 0 ∧ x.what = w.1)) → w.2 ∈ t.answers ∧ w ∉ t.invWait) ∧
  (∀ (obs : List HotObs) (s : State), ∃ t, exec (.hotWindow obs) s = .next t ∧ t.mem = s.mem ∧ ∀ c : Fin 128,
    let hot := match obs.find? (fun o => o.c == c) with
      | some o => o.full && decide (getF s fHOT_CFG_SHARE * (obs.map (·.served)).sum < 64 * o.served)
      | none => false
    let run := tget 0 s.hotRun c + 1
    (hot = false → tget 0 t.hotRun c = 0 ∧ getF t (fHOT_CNT_HOT c) = 0 ∧
      getF t (fHOT_CNT_WINDOWS c) = getF s (fHOT_CNT_WINDOWS c)) ∧
    (hot = true → tget 0 t.hotRun c = run ∧
      getF t (fHOT_CNT_WINDOWS c) = min (getF s (fHOT_CNT_WINDOWS c) + 1) (2 ^ 32 - 1) ∧
      getF t (fHOT_CNT_HOT c) =
        if getF s fHOT_CFG_RUN ≠ 0 ∧ getF s fHOT_CFG_RUN ≤ run then 1 else getF s (fHOT_CNT_HOT c))) ∧
  (∀ (m : BitVec 8) (p : Fin 64) (v : Word) (s : State), HostPath s m (0x4A000 + 8 * p.val) →
    (chartCnt s p = 0 → ∃ u, exec (.hbmSeedWrite m p v) s = .next (hostBack m (0x4A000 + 8 * p.val) u) ∧
      getF u (fHBM_SEED_SEED p) = v.toNat % 4 ∧ u.mem = s.mem ∧ u.chart = s.chart) ∧
    (chartCnt s p ≠ 0 → v.toNat % 4 ≠ getF s (fHBM_SEED_SEED p) → exec (.hbmSeedWrite m p v) s =
      .next (hostBack m (0x4A000 + 8 * p.val) (setF (fHBM_SEED_REJ p) 1 s)))) ∧
  (∀ (k : Fin 4) (x : BitVec 8) (s : State), getF s (fHBM_STAT_READY k) = 1 → exec (.stackTemperatureRead k x) s =
    .next (setF (fHBM_STAT_TEMP k) x.toNat { s with hbmFast := tset false s.hbmFast k (decide (85 < x.toNat)) }))
namespace Sys2Proof.Claims

/-! ### Register accesses -/

/-- Master m reaches register r at offset o for an access of `n` bytes: the size is right, and routes, fixed rules and
access tables let it pass and its answer return, and no window holds it (R324, R395, R417, R570). -/
def RegPath (s : State) (m : BitVec 8) (wr : Bool) (o n en : Nat) (r : Reg) : Prop :=
  hostPasses s m.toNat (o / 8 * 8) = true ∧ sizeEn n o = some en ∧ regAt (m != 0x61) m.toNat (o / 8 * 8) = some r ∧
  regGate (homeOf m.toNat) m.toNat m.toNat wr (o / 8 * 8) s = (0, s) ∧
  routeFailsAt s (serveNode (o / 8 * 8)) (homeOf m.toNat) = none
/-- Registers that are nothing but their stored fields. -/
def plainRegs : List RegName :=
  [.array_fault, .pemem_ecc, .pemem_err_cap, .pemem_inj, .alm_ecc, .alm_err_cap, .snd_tree_err, .slice_sel, .wp_addr,
   .wp_cmd, .spad_starve, .spad_wait, .func_cfg, .func_stat, .stg_ecc, .stg_err_cap, .chart_ecc, .chart_rd, .hot_cfg,
   .hot_cnt, .hbm_stat, .hbm_err, .hbm_xlat, .dma_stat, .noc_tmo, .noc_err_cap, .router_stat, .link_err, .link_err2,
   .lane_err, .tun_laddr, .tun_raddr, .bar_cfg, .bar_stat, .watch_cfg, .watch_stat, .watch_next, .fab_stat, .pwr_cfg,
   .pwr_wakemap, .gov_stat, .wake_cause, .wake_time, .wake_en, .seq_ecc, .dlog_ptr, .dev_err, .survey_stat, .fw_src,
   .rst_cause, .boot_stat]

end Sys2Proof.Claims

/-- R18, R324, R570, R623.
Beside the rules it rests on the model's own choices of the log: entries 15, 71, 72, 73. -/
def Obligations.RegisterAccesses : Prop :=
  (∀ (m : BitVec 8) (o : BitVec 26) (n : Fin 65) (v : Word) (s : State) (r : RegRow) (i j en : Nat),
    RegPath s m true o.toNat n en (.row r i j) → r.name ∈ plainRegs →
    let x := v.toNat * 2 ^ (8 * (o.toNat % 8))
    ∃ t, exec (.registerWrite m o n v) s = .next t ∧ t.mem = s.mem ∧ ∀ f ∈ rowFlds r i j,
      getF t f = match f.ty with
        | .rw => getF s f - (getF s f &&& fldEn f en) + (fldIn f x &&& fldEn f en)
        | .w1c => getF s f - (getF s f &&& (fldIn f x &&& fldEn f en))
        | .w1s => getF s f ||| (fldIn f x &&& fldEn f en)
        | _ => getF s f) ∧
  (∀ (m : BitVec 8) (o : BitVec 26) (n : Fin 65) (s : State) (r : RegRow) (i j en : Nat),
    RegPath s m false o.toNat n en (.row r i j) → r.name ∈ plainRegs →
    ∃ t, exec (.registerRead m o n) s = .next t ∧ t.mem = s.mem ∧
      t.answers = s.answers ++
        [⟨homeOf m.toNat, 0, leBytes n ((storedVal s r i j &&& en) / 2 ^ (8 * (o.toNat % 8))), 0⟩] ∧
      ∀ f ∈ rowFlds r i j, getF t f = if f.ty = .rc then getF s f - (getF s f &&& fldEn f en) else getF s f) ∧
  (∀ (m : BitVec 8) (o : BitVec 26) (n : Fin 65) (v : Word) (s : State),
    (hostReaches s m.toNat = false ∨ sizeEn n o.toNat = none → exec (.registerWrite m o n v) s = .next s) ∧
    (hostReaches s m.toNat = false → exec (.registerRead m o n) s = .next s) ∧
    (hostReaches s m.toNat = true → sizeEn n o.toNat = none → exec (.registerRead m o n) s =
      .next { s with answers := s.answers ++ [⟨homeOf m.toNat, 0, List.replicate n 0, 0⟩] })) ∧
  (∀ (r : LineReq) (i : Fin 8) (s : State), 0x20000000 ≤ lineAddr r → lineAddr r < 0x24000000 →
    (∀ k < 64, r.en.getLsbD k = decide (k / 8 = i.val)) →
    lineWaits s r.node.toNat r.master.toNat r.write (lineAddr r - 0x20000000) ((List.range 64).map r.en.getLsbD) = false →
    let word := leNum ((List.range 8).map fun k => reqByte r (8 * i.val + k))
    let x := regAccess r.node.toNat r.master.toNat r.master.toNat false r.write (lineAddr r - 0x20000000 + 8 * i.val)
      allBits word s
    exec (.registerLineRequest r) s = .next { x.2.2 with answers := x.2.2.answers ++ [⟨r.node.toNat, x.1,
      if r.write then [] else List.replicate (8 * i.val) 0 ++ leBytes 8 x.2.1 ++ List.replicate (56 - 8 * i.val) 0, 0⟩] }) ∧
  (∀ (r : LineReq) (s : State), lineAddr r < 0x20000000 ∨ 0x24000000 ≤ lineAddr r →
    exec (.registerLineRequest r) s = .next s)

/-- R320, R353, R354, R325.
Beside the rules it rests on the model's own choices of the log: entries 55, 56, 58, 59. -/
def Obligations.FunctionsAndBar4 : Prop :=
  (∀ (num : Fin 64) (s : State), endpointReady s = true → ∃ t, exec (.vfEnable num) s = .next t ∧ t.mem = s.mem ∧
    t.jobs = s.jobs ∧ t.parts = s.parts ∧ ∀ f : Fin 64, getF t (fFUNC_STAT_ENABLED f) =
      if 0 < f.val ∧ f.val ≤ num.val then 1 else getF s (fFUNC_STAT_ENABLED f)) ∧
  (∀ (num : Fin 64) (s : State), endpointReady s = true → (∀ j ∈ s.jobs, j.op ≠ 0xC) →
    ∃ t, exec (.vfDisable num) s = .next t ∧ ∀ v : Fin 64, num.val < v.val → getF t (fFUNC_STAT_ENABLED v) = 0 ∧
      (getF s (fFUNC_STAT_ENABLED v) = 1 → (∀ e ∈ t.parts, e.2.func ≠ v.val) ∧
        ∀ g < 128, getF t (fRG_OWNER_ASSIGNED g) = 0 ∨ getF t (fRG_OWNER_OWNER g) ≠ v.val)) ∧
  (∀ (f : Fin 64) (s : State), hostReaches s (0x80 + f.val) = true → (∀ j ∈ s.jobs, j.op ≠ 0xC) →
    ∃ t, exec (.flr f) s = .next t ∧ (∀ j ∈ t.jobs, j.func ≠ f.val) ∧
      (∀ r < 8192, ringOwner s r = some f.val → getF t (fRING_CFG_ENABLE r) = 0) ∧
      ∀ v < 32, tget msixReset t.msixTab (32 * f.val + v) = msixReset ∧ tget false t.msixPba (32 * f.val + v) = false) ∧
  (∀ (f : Fin 64) (wr : Bool) (off : BitVec 26) (en : List Bool) (data : List Byte) (s u : State) (st po : Nat)
      (d : List Byte), hostReaches s (0x80 + f.val) = true → en ≠ [] → en.length + off.toNat % 64 ≤ 64 →
    data.length ≤ en.length →
    (nocAccess 0xA8 (0x80 + f.val) wr off.toNat en data s = (.done st d po, u) →
      exec (.bar4Access f wr off en data) s = .next (if wr then u else { u with answers := u.answers ++
        [⟨0xA8, if st = 1 then 0 else st, if d = [] then List.replicate en.length 0 else d, if st = 4 then 1 else 0⟩] })) ∧
    (nocAccess 0xA8 (0x80 + f.val) wr off.toNat en data s = (.wait, u) →
      exec (.bar4Access f wr off en data) s = .next u))
namespace Sys2Proof.Claims

/-! ### Packets -/

/-- The NI of node src may inject request `b` numbered tid to d, by the VALID route entry e. -/
def Injects (s : State) (src d tid e : Nat) (b : PBody) : Prop :=
  nodeExists src = true ∧ tidTaken s src tid = false ∧ mayInject s ⟨src, d, tid, b⟩ = true ∧
  activeRoute s src d = e ∧ e.testBit 34 = true
/-- The packet of a request or answer as it leaves its NI (R393, R397). -/
def leaves (net src d tid e : Nat) (b : PBody) : Packet :=
  { net := net, dest := d, src := src, tid := tid, heading := e / 2 ^ 32 % 4, turns := e % 2 ^ 32, hop := 0,
    router := nodeRouter src, came := [], body := b, entered := false, held := false, bad := false }
/-- A request as its NI keeps it outstanding. -/
def waits (s : State) (src d tid e : Nat) (b : PBody) : Outst :=
  ⟨src, tid, d, b, s.ticks, 0, false, false, none, e, true⟩
/-- Packet p stands at place i in flight, at a router or, not `entered`, before its first; no request waits at an NI. -/
def Moves (s : State) (i : BitVec 16) (p : Packet) (entered : Bool) : Prop :=
  s.net[i.toNat]? = some p ∧ p.entered = entered ∧ s.niWait = []
/-- The state without packet i in flight. -/
def withoutPacket (i : BitVec 16) (s : State) : State := { s with net := s.net.eraseIdx i.toNat }
/-- Ejected packet p is next of its order at its NI. -/
def Ejects (s : State) (i : BitVec 16) (p : Packet) : Prop :=
  s.eject[i.toNat]? = some p ∧ ejectBehind s.eject i.toNat p = false
/-- Packet p has acted at its NI and leaves; requests that waited for it may go out (R401). -/
def actsAs (p : Packet) (t : State) : State := pump { t with eject := t.eject.erase p }
/-- A request outstanding that is no start message: what answers it reaches its block. -/
def ofBlock (o : Outst) : Prop := ∀ id, o.body ≠ .start id

end Sys2Proof.Claims

/-- R393 to R397, R401, R402, R404, R406, R417, R542.
Beside the rules it rests on the model's own choices of the log: entries 81, 82, 83, 166, 187. -/
def Obligations.PacketsEnterAndHop : Prop :=
  (∀ (r : LineReq) (x : Fin 5) (s : State) (g : Region) (d e : Nat),
    let q := memReq r
    let src := r.node.toNat
    let tid := r.tid.toNat
    (locate (lineAddr r) = some (g, d) → g ≠ .regs → Injects s src d tid e (.req q) →
      exec (.nocHop (.line r) x none) s = .next { s with
        outst := s.outst ++ [waits s src d tid e (.req q)],
        net := s.net ++ (if r.write then [leaves 0 src d tid e (.req { q with data := [] }),
          leaves 2 src d tid e (.dat q.data 0 true)] else [leaves 0 src d tid e (.req q)]) }) ∧
    (locate (lineAddr r) = some (g, d) → g ≠ .regs → nodeExists src = true → tidTaken s src tid = false →
      mayInject s ⟨src, d, tid, .req q⟩ = false →
      exec (.nocHop (.line r) x none) s = .next { s with niWait := s.niWait ++ [⟨src, d, tid, .req q⟩] }) ∧
    (locate (lineAddr r) = none → nodeExists src = true → ∃ t, exec (.nocHop (.line r) x none) s = .next t ∧
      t.net = s.net ∧ t.outst = s.outst ∧ t.mem = s.mem ∧ t.answers = s.answers ++ [⟨src, 3, [], 0⟩]) ∧
    (locate (lineAddr r) = some (g, d) → g ≠ .regs → nodeExists src = true → tidTaken s src tid = false →
      mayInject s ⟨src, d, tid, .req q⟩ = true →
      (activeRoute s src d).testBit 34 = false → ∃ t, exec (.nocHop (.line r) x none) s = .next t ∧ t.net = s.net ∧
        t.outst = s.outst ∧ t.mem = s.mem ∧ t.answers = s.answers ++ [⟨src, 5, [], 0⟩])) ∧
  (∀ (src m : BitVec 8) (tid : BitVec 6) (wr : Bool) (a : BitVec 45) (be : BitVec 8) (v : Word) (x : Fin 5) (s : State)
      (e : Nat), 0x20000000 ≤ 8 * a.toNat → 8 * a.toNat < 0x24000000 →
    let d := serveNode (8 * a.toNat - 0x20000000)
    let b : PBody := .mgmt m.toNat wr (8 * a.toNat) be v
    Injects s src.toNat d tid.toNat e b → exec (.nocHop (.register src tid m wr a be v) x none) s = .next { s with
      outst := s.outst ++ [waits s src.toNat d tid.toNat e b], net := s.net ++ [leaves 3 src.toNat d tid.toNat e b] }) ∧
  (∀ (src d : BitVec 8) (tid : BitVec 6) (k : Fin 3) (v : BitVec 31) (x : Fin 5) (s : State) (e : Nat),
    nodeExists src.toNat = true → nodeExists d.toNat = true → activeRoute s src.toNat d.toNat = e → e.testBit 34 = true →
    exec (.nocHop (.invalidate src d tid k v) x none) s =
      .next { s with net := s.net ++ [leaves 3 src.toNat d.toNat tid.toNat e (.inv k v.toNat)] }) ∧
  (∀ (i : BitVec 16) (x : Fin 5) (s : State) (p : Packet), Moves s i p false → behind s.net i.toNat false p = false →
    getF s (fROUTER_STAT_BUSY p.router) = 0 → hasRoom s p.router 4 p = true →
    (x.val < 4 → ∃ t, exec (.nocHop (.move i) x none) s = .next t ∧
      t.net = s.net.set i.toNat { p with entered := true } ∧ t.eject = s.eject ∧ t.mem = s.mem ∧
      getF t (fROUTER_STAT_PAR_CNT p.router) = min (getF s (fROUTER_STAT_PAR_CNT p.router) + x.val) (2 ^ 16 - 1)) ∧
    (x.val = 4 → ∃ t, exec (.nocHop (.move i) x none) s = .next t ∧ t.net = s.net.eraseIdx i.toNat ∧
      t.portsOff = s.portsOff ∧ t.mem = s.mem)) ∧
  (∀ (i : BitVec 16) (x : Fin 5) (s : State) (p : Packet), Moves s i p true →
    let act := hopAct s p.router p.heading p.turns p.hop p.dest
    (act = .deliver → behind s.net i.toNat true p = false → hisTurn s i.toNat (4 + p.dest) p = true →
      exec (.nocHop (.move i) x none) s = .next { withoutPacket i s with
        eject := s.eject ++ [p], arb := tset 4 s.arb (turnKey p.router (4 + p.dest) p.net) (turnId p) }) ∧
    (∀ port, act = .fail port → ∃ t, exec (.nocHop (.move i) x none) s = .next t ∧
      t.net = s.net.eraseIdx i.toNat ∧ t.eject = s.eject ∧ t.mem = s.mem) ∧
    (∀ h r, act = .leave h r →
      (getF s (fROUTER_STAT_BUSY r) = 1 ∨ hasRoom s r ((h + 2) % 4) p = false → exec (.nocHop (.move i) x none) s = .next s) ∧
      (getF s (fROUTER_STAT_BUSY r) = 0 → hasRoom s r ((h + 2) % 4) p = true → behind s.net i.toNat false p = false →
        hisTurn s i.toNat h p = true →
        (x.val < 4 → ∃ t, exec (.nocHop (.move i) x none) s = .next t ∧
          t.net = s.net.set i.toNat { p with router := r, heading := h, hop := p.hop + 1, came := p.router :: p.came } ∧
          t.eject = s.eject ∧ t.mem = s.mem ∧
          getF t (fROUTER_STAT_PAR_CNT r) = min (getF s (fROUTER_STAT_PAR_CNT r) + x.val) (2 ^ 16 - 1) ∧
          getF t (fROUTER_STAT_REPLAY r) = min (getF s (fROUTER_STAT_REPLAY r) + x.val) (2 ^ 16 - 1)) ∧
        (x.val = 4 → ∃ t, exec (.nocHop (.move i) x none) s = .next t ∧
          t.net = s.net.eraseIdx i.toNat ∧ t.mem = s.mem ∧ portOpen t p.router h = false)))) ∧
  (∀ (i : BitVec 16) (x : Fin 5) (d e : BitVec 8) (b : Fin 2) (s : State), s.net = [] → s.niWait = [] →
    getF s fNOC_CTL_ACTIVE = b.val → ∃ t, exec (.nocHop (.move i) x (some (d, b, e))) s = .next t ∧
    (activeRoute t d.toNat e.toNat).testBit 34 = false ∧ t.routes = s.routes ∧ t.net = [] ∧ t.mem = s.mem)

/-- R398, R402, R407, R409 to R411, R380, R400, R339, R521.
Beside the rules it rests on the model's own choices of the log: entries 81, 84, 85, 140, 173, 174. -/
def Obligations.PacketsActAtTheirNode : Prop :=
  (∀ (i : BitVec 16) (x : DatErr) (s : State) (p : Packet), Ejects s i p →
    (∀ q g st d po w, p.body = .req q → q.write = false → p.bad = false → domOpen s (nodeDom p.dest) = true →
      (∃ k, locate q.addr = some (g, k)) →
      serveMem g p.dest q.master false q.addr q.en q.data (accepted p.src p.tid s) = (.done st d po, w) →
      exec (.nocDeliver i x) s =
        .next (actsAs p (respond p.dest p.src p.tid st d po true (returnCredit p.src p.tid w)))) ∧
    (∀ q, p.body = .req q → q.write = false → domOpen s (nodeDom p.dest) = false →
      getF s (fPWR_DOM_FAULT (nodeDom p.dest)) = 0 → (getDom s (nodeDom p.dest)).anch.length < 8 →
      (getDom s (nodeDom p.dest)).trans = none → (getDom s (nodeDom p.dest)).slot = none → s.niWait = [] →
      ∃ t, exec (.nocDeliver i x) s = .next t ∧ t.mem = s.mem ∧ t.net = s.net ∧ t.answers = s.answers ∧
        (getDom t (nodeDom p.dest)).anch = (getDom s (nodeDom p.dest)).anch ++ [.packet p] ∧
        (getDom t (nodeDom p.dest)).trans ≠ none) ∧
    (∀ q, p.body = .req q → q.write = true → q.data = [] → halfOf s p 2 = none →
      exec (.nocDeliver i x) s = .next (actsAs p { s with halves := s.halves ++ [(s.ticks, p)] })) ∧
    (∀ id j, p.body = .start id → startDue s id = true → findJob s id = some j → exec (.nocDeliver i x) s =
      .next (actsAs p (respond p.dest p.src p.tid 0 [] 0 false (returnCredit p.src p.tid (startImage (jTarget j) j
        (updJob id (fun j => { j with stage := 1 }) (accepted p.src p.tid s))))))) ∧
    (∀ st po o, p.body = .rsp st false po → outOf s p.dest p.tid = some o → ofBlock o → st ≠ 6 → st ≠ 7 → s.niWait = [] →
      ∃ t, exec (.nocDeliver i x) s = .next t ∧ t.outst = s.outst.filter (fun o => !(o.src == p.dest && o.tid == p.tid)) ∧
        t.answers = s.answers ++ [⟨p.dest, st, [], 0⟩] ∧ t.mem = s.mem ∧ t.regs = s.regs ∧ t.net = s.net) ∧
    (∀ o has po, p.body = .rsp 6 has po → outOf s p.dest p.tid = some o → s.niWait = [] →
      ∃ t, exec (.nocDeliver i x) s = .next t ∧ (∃ o', outOf t p.dest p.tid = some o' ∧ o'.waiting = true ∧
        o'.retry = true ∧ o'.credit = false) ∧ t.answers = s.answers) ∧
    (∀ st has po, p.body = .rsp st has po → outOf s p.dest p.tid = none →
      exec (.nocDeliver i x) s = .next (actsAs p (satF (fNI_ECC_LATE p.dest) 1 s))) ∧
    (∀ m wr a be v, p.body = .mgmt m wr a be v → wr = true →
      exec (.nocDeliver i x) s = .next (actsAs p (serveRegister p m wr a be v s))) ∧
    (∀ st v o, p.body = .mrsp st v → outOf s p.dest p.tid = some o → ofBlock o → s.niWait = [] →
      ∃ t, exec (.nocDeliver i x) s = .next t ∧ t.outst = s.outst.filter (fun o => !(o.src == p.dest && o.tid == p.tid)) ∧
        t.answers = s.answers ++ [⟨p.dest, st, leBytes 8 v.toNat, 0⟩] ∧ t.mem = s.mem ∧ t.regs = s.regs ∧ t.net = s.net) ∧
    (∀ v, p.body = .inv 0 v → exec (.nocDeliver i x) s =
      .next (actsAs p (sendPacket p.dest p.src p.tid .ack (lineInvalidate p.dest v s)))) ∧
    (p.body = .ack → exec (.nocDeliver i x) s = .next (actsAs p (acknowledge p.src s)))) ∧
  (∀ (src : BitVec 8) (tid : BitVec 6) (s : State) (o : Outst), outOf s src.toNat tid.toNat = some o → ofBlock o →
    s.niWait = [] →
    (getF s fNOC_TMO_TIMEOUT ≠ 0 → o.waiting = false → ∃ t, exec (.responseTimeout src tid) s = .next t ∧
      outOf t src.toNat tid.toNat = none ∧ t.answers = s.answers ++ [⟨src.toNat, 6, [], 0⟩] ∧ t.mem = s.mem) ∧
    (o.waiting = true → getF s fNOC_TMO_RETRY_LIM ≤ o.resends → ∃ t, exec (.retryResend src tid) s = .next t ∧
      outOf t src.toNat tid.toNat = none ∧ t.answers = s.answers ++ [⟨src.toNat, 7, [], 0⟩] ∧ t.mem = s.mem) ∧
    (o.waiting = true → o.resends < getF s fNOC_TMO_RETRY_LIM → (activeRoute s o.src o.dest).testBit 34 = true →
      (∀ y ∈ s.outst, y.src = o.src → y.dest = o.dest → y.tid = o.tid ∨ y.route = activeRoute s o.src o.dest) →
      ∃ t o', exec (.retryResend src tid) s = .next t ∧ outOf t src.toNat tid.toNat = some o' ∧
        o'.waiting = false ∧ o'.resends = o.resends + 1 ∧ s.net.length < t.net.length ∧ t.answers = s.answers)) ∧
  (∀ (d src : BitVec 8) (tid : BitVec 6) (s : State) (h : Nat × Packet) (data : List Byte) (po : Nat),
    s.halves.find? (fun h => h.2.dest == d.toNat && h.2.src == src.toNat && h.2.tid == tid.toNat) = some h →
    h.2.body = .dat data po true → getF s fNOC_TMO_TIMEOUT ≠ 0 → ∃ t, exec (.orphanTimeout d src tid) s = .next t ∧
      h ∉ t.halves ∧ t.mem = s.mem ∧ t.answers = s.answers ∧
      getF t (fNI_ECC_ORPHAN d.toNat) = min (getF s (fNI_ECC_ORPHAN d.toNat) + 1) 255)

/-- R414, R415, R417, R422.
Beside the rules it rests on the model's own choices of the log: entry 80. -/
def Obligations.RoutesEpochsAndWindows : Prop :=
  (∀ (m d : BitVec 8) (b : Fin 2) (e : BitVec 8) (v : Word) (s : State),
    let o := 0x500000 + 0x1000 * d.toNat + 0x800 * b.val + 8 * e.toNat
    HostPath s m o → nodeExists d.toNat = true →
    (getF s fNOC_CTL_SW_BUSY = 0 → getF s fNOC_CTL_ACTIVE ≠ b.val → ∃ u, exec (.routeWrite m d b e v) s =
      .next (hostBack m o u) ∧ routeEntry u d.toNat b e.toNat = v.toNat % 2 ^ 35 ∧
      (∀ d' b' e', routeKey d' b' e' ≠ routeKey d.toNat b e.toNat → routeEntry u d' b' e' = routeEntry s d' b' e') ∧
      u.regs = s.regs ∧ u.mem = s.mem) ∧
    (getF s fNOC_CTL_SW_BUSY = 1 ∨ getF s fNOC_CTL_ACTIVE = b.val → exec (.routeWrite m d b e v) s =
      .next (hostBack m o (setF fNOC_CTL_REJ 1 s)))) ∧
  (∀ (m : BitVec 8) (s : State), HostPath s m 0x400000 →
    (getF s fNOC_CTL_SW_BUSY = 0 → exec (.epochSwitch m) s =
      .next (hostBack m 0x400000 (setF fNOC_CTL_SW_BUSY 1 (setF fNOC_CTL_SWITCH 1 s)))) ∧
    (getF s fNOC_CTL_SW_BUSY = 1 → exec (.epochSwitch m) s = .next (hostBack m 0x400000 (setF fNOC_CTL_REJ 1 s)))) ∧
  (∀ s : State, getF s fNOC_CTL_SW_BUSY = 1 → s.niWait = [] → ∃ t, exec .epochSwitchDone s = .next t ∧
    getF t fNOC_CTL_ACTIVE = 1 - getF s fNOC_CTL_ACTIVE ∧ getF t fNOC_CTL_SW_BUSY = 0 ∧ getF t fNOC_CTL_SWITCH = 0 ∧
    t.routes = s.routes ∧ t.mem = s.mem) ∧
  (∀ (m : BitVec 8) (r : Fin 40) (pe : BitVec 4) (s : State), HostPath s m (0x401000 + 16 * r.val) →
    (∀ k ∈ r.val :: neighbours r, getF s (fROUTER_STAT_BUSY k) = 0) → ∃ u, exec (.routerGo m r pe) s =
      .next (hostBack m (0x401000 + 16 * r.val) u) ∧ getF u (fROUTER_CTL_PORT_EN r) = pe.toNat &&& routerPorts r ∧
      getF u (fROUTER_STAT_BUSY r) = 1 ∧ u.portsOff = s.portsOff ∧ u.mem = s.mem) ∧
  (∀ (r : Fin 40) (s : State), getF s (fROUTER_STAT_BUSY r) = 1 → ∃ t, exec (.routerWindowEnd r) s = .next t ∧
    getF t (fROUTER_STAT_BUSY r) = 0 ∧ getF t (fROUTER_CTL_GO r) = 0 ∧ t.mem = s.mem ∧ t.routes = s.routes ∧
    (∀ b < 4, portOpen t r b = ((routerPorts r).testBit b && (getF s (fROUTER_CTL_PORT_EN r)).testBit b)) ∧
    ∀ b < 4, (getF t (fROUTER_STAT_FAILED r)).testBit b = ((getF s (fROUTER_STAT_FAILED r)).testBit b &&
      !(getF s (fROUTER_CTL_PORT_EN r)).testBit b))
namespace Sys2Proof.Claims

/-! ### Fleet links -/

/-- The next received flit of a class on link j is f. -/
def NextFlit (s : State) (j : Fin 10) (cls : Nat) (f : Flit) : Prop :=
  (getLink s j).rxq.find? (fun f => f.cls.toNat == cls) = some f
/-- It has been taken. -/
def took (j : Fin 10) (f : Flit) (s : State) : State := updLink j (fun l => { l with rxq := l.rxq.erase f }) s
/-- The register base of link j. -/
def linkReg (j : Fin 10) : Nat := 0x60000 + 0x1000 * j.val
/-- Lanes in FLP mode among a map. -/
def flpLanes (s : State) (j : Fin 10) (m : BitVec 32) : Nat := m.toNat &&& flpMask s j
/-- The peer that IDENT flit f names is the one that wiring and coordinates lead the link to expect (R425, R438). -/
def asExpected (s : State) (j : Fin 10) (f : Flit) : Bool :=
  decide ((pBits f 8 4, pBits f 12 4, pBits f 16 4, pBits f 20 4) = expectedPeer s j)
/-- A request of the NI of node src for the staging line at a goes through at once: route, credit, edge, table, Survey. -/
def LineOpen (s : State) (src m : Nat) (wr : Bool) (a : Nat) (en : List Bool) (data : List Byte) : Prop :=
  ∃ d, locate a = some (.staging, d) ∧ tlook s.verdict src = none ∧ routeHeld s src d = false ∧
    mayInject s ⟨src, d, 0, .req ⟨src, m, wr, a, en, data⟩⟩ = true ∧ routeFailsAt s src d = none ∧
    routeFailsAt s d src = none ∧ domOpen s (nodeDom d) = true ∧ aclAllows s d m wr a = true ∧
    lineBorrowed s a = false ∧ Clean s a

end Sys2Proof.Claims

/-- R437, R438, R439, R440, R425, R435.
Beside the rules it rests on the model's own choices of the log: entries 4, 87, 88. -/
def Obligations.LinksComeUp : Prop :=
  (∀ (m : BitVec 8) (j : Fin 10) (v : Word) (s : State), HostPath s m (linkReg j) →
    getF s (fLINK_CTL_ENABLE j) = 0 → ∃ u, exec (.linkEnable m j v) s = .next (hostBack m (linkReg j) u) ∧
      u.mem = s.mem ∧ getF u (fLINK_CTL_MIN_LANES j) = v.toNat / 2 ^ 8 % 64 ∧
      (let ok := decide (1 ≤ v.toNat / 2 ^ 8 % 64 ∧ v.toNat / 2 ^ 8 % 64 ≤ popc 5 (flpMask s j))
       (ok = true → getF u (fLINK_CTL_ENABLE j) = 1 ∧ getF u (fLINK_PEER_VALID j) = 0 ∧
         (domRun s (linkDomain j) = true → getF u (fLINK_STAT_STATE j) = 1)) ∧
       (ok = false → getF u (fLINK_CTL_ENABLE j) = 0 ∧ getF u (fLINK_STAT_CFG_REJ j) = 1 ∧
         getF u (fLINK_STAT_STATE j) = getF s (fLINK_STAT_STATE j)))) ∧
  (∀ (j : Fin 10) (l : BitVec 32) (s : State), ∃ t, exec (.signalDetect j l) s = .next t ∧ t.mem = s.mem ∧
    (∀ i < linkLanes j, getF t (fLANE_ERR_LOS j i) = if l.getLsbD i then 0 else 1) ∧
    getF t (fLINK_STAT_STATE j) = if getF s (fLINK_STAT_STATE j) = 1 ∧ domRun s (linkDomain j) = true ∧
      getF s (fLINK_CTL_MIN_LANES j) ≤ popc 5 (flpLanes s j l) then 2 else getF s (fLINK_STAT_STATE j)) ∧
  (∀ (j : Fin 10) (tx rx : BitVec 32) (s : State),
    (domRun s (linkDomain j) = true → getF s (fLINK_CTL_MIN_LANES j) ≤ popc 5 (flpLanes s j tx) →
      getF s (fLINK_CTL_MIN_LANES j) ≤ popc 5 (flpLanes s j rx) →
      (getF s (fLINK_STAT_STATE j) = 2 → exec (.trainDone j tx rx) s = .next (setF (fLINK_STAT_STATE j) 3 s)) ∧
      (getF s (fLINK_STAT_STATE j) = 3 → ∃ t, exec (.alignDone j tx rx) s = .next t ∧ t.mem = s.mem ∧
        getF t (fLINK_STAT_STATE j) = 4 ∧ getF t (fLANE_MAP_TX_ACT j) = flpLanes s j tx ∧
        getF t (fLANE_MAP_RX_ACT j) = flpLanes s j rx ∧ (getLink t j).txq = [identOf s j] ∧ (getLink t j).rxNext = 0)) ∧
    (4 ≤ getF s (fLINK_STAT_STATE j) → getF s (fLINK_STAT_STATE j) ≤ 6 → ∃ t, exec (.trainDone j tx rx) s = .next t ∧
      getF t (fLANE_MAP_TX_ACT j) = getF s (fLANE_MAP_TX_ACT j) ||| (flpLanes s j tx &&& (getLink s j).lateTx) ∧
      getF t (fLANE_MAP_RX_ACT j) = getF s (fLANE_MAP_RX_ACT j) ||| (flpLanes s j rx &&& (getLink s j).lateRx) ∧
      getF t (fLINK_STAT_STATE j) = getF s (fLINK_STAT_STATE j) ∧ t.mem = s.mem)) ∧
  (∀ (j : Fin 10) (s : State), 2 ≤ getF s (fLINK_STAT_STATE j) → getF s (fLINK_STAT_STATE j) ≤ 5 →
    ∃ t, exec (.bringupTimeout j) s = .next t ∧ t.mem = s.mem ∧ getF t (fLANE_MAP_TX_ACT j) = 0 ∧
      getF t (fLANE_MAP_RX_ACT j) = 0 ∧ (getLink t j).rxq = [] ∧
      getF t (fLINK_STAT_STATE j) = if getF s (fLINK_STAT_STATE j) = 5 then 7 else 1) ∧
  (∀ (j : Fin 10) (s : State) (f : Flit), getF s (fLINK_STAT_STATE j) = 4 → NextFlit s j 5 f → pBits f 0 8 = 1 →
    ∃ t, exec (.identFlit j) s = .next t ∧ t.mem = s.mem ∧ getF t (fLINK_PEER_FX j) = pBits f 8 4 ∧
      getF t (fLINK_PEER_FY j) = pBits f 12 4 ∧ getF t (fLINK_PEER_FZ j) = pBits f 16 4 ∧
      getF t (fLINK_PEER_LINK j) = pBits f 20 4 ∧ getF t (fLINK_PEER_VALID j) = 1 ∧
      getF t (fLINK_STAT_PEER_BAD j) = (if asExpected s j f then getF s (fLINK_STAT_PEER_BAD j) else 1) ∧
      getF t (fLINK_STAT_STATE j) = if asExpected s j f = false ∧ getF s (fLINK_CTL_CHK_PEER j) = 1 then 7
        else if getF s (fLINK_CTL_AUTH_EN j) = 1 then 5 else 6) ∧
  (∀ (j : Fin 10) (s : State) (f : Flit), NextFlit s j 5 f →
    let far := (getLink s j).far
    let has (x : AuthSide) : State := updLink j (fun l => { l with far := x }) (took j f s)
    (pBits f 0 8 = 2 →
      (far.nonce.length ≠ 26 → exec (.nonce j) s = .next (has { far with nonce := far.nonce ++ segment f })) ∧
      (∀ root inter dev, far.nonce.length = 26 → (getF s (fLINK_STAT_STATE j) = 5 ∨ getF s (fLINK_STAT_STATE j) = 6) →
        (getLink s j).own.nonce ≠ [] → regionChain (certRegion s) = some (root, inter, dev) →
        getF s fSEC_STAT_ID_OK = 1 → getF s fSEC_STAT_LODESTAR_OFF = 0 → ∃ t, exec (.nonce j) s = .next t ∧
        (getLink t j).far.nonce = far.nonce ++ segment f ∧ t.mem = s.mem ∧ t.regs = s.regs ∧
        (getLink t j).txq.length = (getLink s j).txq.length + (dev.length + inter.length + 25) / 26 + 4)) ∧
    (pBits f 0 8 = 3 → exec (.cert j) s = .next (has { far with certs := far.certs ++ segment f })) ∧
    (pBits f 0 8 = 4 →
      let got : AuthSide := { far with sig := far.sig ++ segment f }
      (far.sig.length ≠ 78 ∨ getF s (fLINK_STAT_STATE j) ≠ 5 → exec (.sig j) s = .next (has got)) ∧
      (far.sig.length = 78 → getF s (fLINK_STAT_STATE j) = 5 → ∃ t, exec (.sig j) s = .next t ∧ t.mem = s.mem ∧
        match peerProved { getLink s j with far := got } with
        | some sn => getF t (fLINK_STAT_STATE j) = 6 ∧ getF t (fLINK_STAT_AUTH_OK j) = 1 ∧ getF t (fLINK_PEER_SN j) = sn
        | none => getF t (fLINK_STAT_STATE j) = 7 ∧ getF t (fLINK_STAT_AUTH_FAIL j) = 1))) ∧
  (∀ (j : Fin 10) (ns : BitVec 16) (s : State), 4 ≤ getF s (fLINK_STAT_STATE j) → getF s (fLINK_STAT_STATE j) ≤ 6 →
    exec (.rttMeasure j ns) s = .next (setF (fLINK_STAT_RTT j) ns.toNat s))

/-- R429 to R434, R441 to R443, R445.
Beside the rules it rests on the model's own choices of the log: entries 86, 88, 89. -/
def Obligations.CodewordsAndLanes : Prop :=
  (∀ past v : Nat, v < 2 ^ 5140 → rsDecode (rsEncode (scramble past v)) = some (scramble past v, 0) ∧
    descramble past (scramble past v) = v) ∧
  (∀ (j : Fin 10) (s : State), 4 ≤ getF s (fLINK_STAT_STATE j) → getF s (fLINK_STAT_STATE j) ≤ 6 →
    getF s (fLANE_MAP_TX_ACT j) ≠ 0 → domRun s (linkDomain j) = true → (getDom s (linkDomain j)).trans = none →
    (∀ c r, (getLink s j).resend = c :: r → exec (.codewordTransmit j) s =
      .next (emit j { c with rpl := true, lane := laneOf s j c.seq }
        (satF (fLINK_ERR_REPLAY j) 1 (updLink j (fun l => { l with resend := r }) s)))) ∧
    ((getLink s j).resend = [] → ∃ t c w, exec (.codewordTransmit j) s = .next t ∧ t.lineTx = s.lineTx ++ [⟨j, c, w⟩] ∧
      w.toNat = (laneEncode (tget 0 (getLink s j).scr c.lane) c).1 % 2 ^ 5440 ∧
      c.seq = (getLink s j).txNext ∧ c.rpl = false ∧ c.flits.length = 20 ∧
      (c.seq % 5 ≠ 4 → c.flits.head? = some (llFlit s j)) ∧ (getLink t j).txNext = (c.seq + 1) % 4096 ∧
      (getLink t j).unacked = (getLink s j).unacked ++ [c] ∧ t.mem = s.mem ∧ t.regs = s.regs)) ∧
  (∀ (j : Fin 10) (l : Fin 32) (w : BitVec 5440) (s : State), 4 ≤ getF s (fLINK_STAT_STATE j) →
    getF s (fLINK_STAT_STATE j) ≤ 6 → (getF s (fLANE_MAP_RX_ACT j)).testBit l.val = true →
    let k := getLink s j
    let word := (laneDecode (stampNow s) (tget 0 k.dscr l) w.toNat).1
    let n := popc 5 (getF s (fLANE_MAP_RX_ACT j))
    (∀ c, word = some (c, 0) → c.seq = k.rxNext → k.ahead = [] → ∃ t, exec (.codewordReceive j l w) s = .next t ∧
      (getLink t j).rxNext = (k.rxNext + 1) % 4096 ∧ (getLink t j).discard = false ∧
      (getLink t j).rxq = k.rxq ++ c.flits.filter (flitKept j c.rpl) ∧ t.mem = s.mem) ∧
    (∀ c d, word = some (c, 0) → d = (c.seq + 4096 - k.rxNext) % 4096 → 0 < d → d < 2048 → k.discard = false →
      ∃ t, exec (.codewordReceive j l w) s = .next t ∧ (getLink t j).rxq = k.rxq ∧ (getLink t j).rxNext = k.rxNext ∧
        t.mem = s.mem ∧ (d < n → (getLink t j).discard = false ∧ c ∈ (getLink t j).ahead) ∧
        (n ≤ d → (getLink t j).discard = true ∧ (getLink t j).nakDue = true)) ∧
    (word = none → getF s (fLINK_CTL_CE_THR j) = 0 → getF s (fLINK_CTL_UE_THR j) = 0 →
      ∃ t, exec (.codewordReceive j l w) s = .next t ∧ (getLink t j).discard = true ∧ (getLink t j).nakDue = true ∧
        (getLink t j).rxq = k.rxq ∧ getF t (fLINK_ERR_CW_UE j) = min (getF s (fLINK_ERR_CW_UE j) + 1) (2 ^ 16 - 1) ∧
        getF t (fLANE_ERR_CW_UE j l) = min (getF s (fLANE_ERR_CW_UE j l) + 1) (2 ^ 16 - 1))) ∧
  (∀ (j : Fin 10) (s : State) (f : Flit), NextFlit s j 6 f → pBits f 144 32 = 0 → pBits f 220 1 = 0 →
    let left := (getLink s j).unacked.filter fun c => decide
      (0 < (c.seq + 4096 - pBits f 0 12) % 4096 ∧ (c.seq + 4096 - pBits f 0 12) % 4096 < 2048)
    (pBits f 12 1 = 0 → ∃ t, exec (.llFlit j) s = .next t ∧ (getLink t j).unacked = left ∧ (getLink t j).naks = 0 ∧
      (getLink t j).tqCred = (getLink s j).tqCred + pBits f 128 7 ∧
      (∀ c < 16, tget 0 (getLink t j).cred c = tget 0 (getLink s j).cred c + pBits f (6 * c + 32) 6) ∧ t.regs = s.regs) ∧
    (pBits f 12 1 = 1 → (getLink s j).naks = 0 → ∃ t, exec (.llFlit j) s = .next t ∧ (getLink t j).naks = 1 ∧
      (getLink t j).resend = left.filter (fun c => decide ((c.seq + 4096 - pBits f 13 12) % 4096 < 2048)) ∧
      t.regs = s.regs)) ∧
  (∀ (j : Fin 10) (s : State), getF s (fLINK_STAT_STATE j) = 6 → ∃ t, exec (.llSilence j) s = .next t ∧
    getF t (fLINK_STAT_STATE j) = getF s (fLINK_CTL_ENABLE j) ∧ getF t (fLINK_STAT_DOWN_WHY j) = 4 ∧
    getF t (fLANE_MAP_TX_ACT j) = 0 ∧ (getLink t j).unacked = [] ∧ (∀ e ∈ t.cands, e.1 ≠ j.val) ∧ t.mem = s.mem) ∧
  (∀ (j : Fin 10) (l : Fin 32) (s : State), l.val < linkLanes j →
    (getF s (fLANE_MAP_RX_ACT j)).testBit l.val = true → getF s (fLINK_CTL_AUTO_RT j) = 0 →
    getF s (fLINK_CTL_MIN_LANES j) ≤ popc 5 (getF s (fLANE_MAP_RX_ACT j) - 2 ^ l.val) →
    (∃ t, exec (.laneLoss j l) s = .next t ∧ getF t (fLANE_MAP_RX_ACT j) = getF s (fLANE_MAP_RX_ACT j) - 2 ^ l.val ∧
      getF t (fLANE_ERR_LOS j l) = 1 ∧ (getLink t j).rxreq = (getLink s j).rxreq ||| 2 ^ peerLane (getLink s j) l ∧
      getF t (fLINK_STAT_STATE j) = getF s (fLINK_STAT_STATE j)) ∧
    ∀ m : BitVec 8, HostPath s m (linkReg j + 0x20) → ∃ u, exec (.laneRetire m j (BitVec.ofNat 32 (2 ^ l.val))) s =
      .next (hostBack m (linkReg j + 0x20) u) ∧ getF u (fLANE_MAP_RX_ACT j) = getF s (fLANE_MAP_RX_ACT j) - 2 ^ l.val ∧
      (getLink u j).rxreq = (getLink s j).rxreq ||| 2 ^ peerLane (getLink s j) l) ∧
  (∀ (j : Fin 10) (l : Fin 32) (s : State), l.val < linkLanes j → getF s (fLINK_STAT_STATE j) = 6 →
    (getLink s j).rt.testBit l.val = false → (getF s (fLANE_MAP_RX_ACT j)).testBit l.val = false →
    (getF s (fLANE_MAP_TX_ACT j)).testBit l.val = false →
    getF s (fLINK_CTL_MIN_LANES j) ≤ popc 5 (getF s (fLANE_MAP_RX_ACT j)) →
    getF s (fLINK_CTL_MIN_LANES j) ≤ popc 5 (getF s (fLANE_MAP_TX_ACT j)) →
    (∀ m : BitVec 8, HostPath s m (linkReg j + 0x20) → (flpMask s j).testBit l.val = true → ∃ u,
        exec (.laneRetrain m j (BitVec.ofNat 32 (2 ^ l.val))) s = .next (hostBack m (linkReg j + 0x20) u) ∧
        (getLink u j).rt = (getLink s j).rt + 2 ^ l.val ∧ getF u (fLANE_ERR_DEAD j l) = 0 ∧
        (getF u (fLANE_CMD_RETRAIN j)).testBit l.val = true ∧
        (getLink u j).txq = (getLink s j).txq ++ [control 7 (l.val * 2 ^ 8)]) ∧
    (∀ f, NextFlit s j 5 f → pBits f 0 8 = 7 → ownLane s j (pBits f 8 5) = l.val → getF s (fLANE_ERR_DEAD j l) = 0 →
      ∃ t, exec (.retrain j) s = .next t ∧
      (getLink t j).rt = (getLink s j).rt + 2 ^ l.val ∧ getF t (fLANE_MAP_RX_ACT j) = getF s (fLANE_MAP_RX_ACT j) ∧
      getF t (fLANE_MAP_TX_ACT j) = getF s (fLANE_MAP_TX_ACT j) ∧
      (getLink t j).txq = (getLink s j).txq ++ [control 7 (l.val * 2 ^ 8)])) ∧
  (∀ (j : Fin 10) (l : Fin 32) (s : State), (getLink s j).rt.testBit l.val = true →
    ((getLink s j).rtSent.testBit l.val = false → (getLink s j).rtRecv.testBit l.val = false →
      exec (.retrainDone j (some l)) s = .next (updLink j (fun k => { k with rtSent := k.rtSent + 2 ^ l.val })
        (sendFlit j (control 8 (l.val * 2 ^ 8)) s))) ∧
    (∀ f, NextFlit s j 5 f → pBits f 0 8 = 8 → ownLane s j (pBits f 8 5) = l.val →
      (getLink s j).rtSent.testBit l.val = true → ∃ t, exec (.retrainDone j none) s = .next t ∧
      getF t (fLANE_MAP_TX_ACT j) = getF s (fLANE_MAP_TX_ACT j) ||| 2 ^ l.val ∧
      getF t (fLANE_MAP_RX_ACT j) = getF s (fLANE_MAP_RX_ACT j) ||| 2 ^ l.val ∧
      (getLink t j).rt = (getLink s j).rt - 2 ^ l.val ∧ getF t (fLANE_ERR_LOS j l) = 0 ∧ t.mem = s.mem) ∧
    (getF s (fLANE_ERR_TRIES j l) < 2 → ∃ t, exec (.retrainFail j l) s = .next t ∧ (getLink t j).rt = (getLink s j).rt ∧
      getF t (fLANE_ERR_TRIES j l) = getF s (fLANE_ERR_TRIES j l) + 1) ∧
    (2 ≤ getF s (fLANE_ERR_TRIES j l) → ∃ t, exec (.retrainFail j l) s = .next t ∧ getF t (fLANE_ERR_DEAD j l) = 1 ∧
      (getLink t j).rt = (getLink s j).rt - 2 ^ l.val)) ∧
  (∀ (m : BitVec 8) (j : Fin 10) (v : Word) (s : State), HostPath s m (linkReg j + 0x28) →
    (j.val < 8 → getF s (fLINK_CTL_ENABLE j) = 0 → exec (.laneModeWrite m j v) s =
      .next (hostBack m (linkReg j + 0x28) (writeFld (fLANE_MODE_FABRIC j) v.toNat allBits s))) ∧
    (j.val < 8 → getF s (fLINK_CTL_ENABLE j) = 1 → exec (.laneModeWrite m j v) s =
      .next (hostBack m (linkReg j + 0x28) (setF (fLINK_STAT_CFG_REJ j) 1 s))) ∧
    (8 ≤ j.val → exec (.laneModeWrite m j v) s = .next (hostBack m (linkReg j + 0x28) s)))

/-- R446 to R449, R495, R444, R451 to R453, R427.
Beside the rules it rests on the model's own choices of the log: entries 75, 89, 90, 91. -/
def Obligations.TunnelsHalosAndParking : Prop :=
  (∀ (m : BitVec 8) (j : Fin 10) (v : Word) (s : State), HostPath s m (linkReg j + 0x210) →
    (8 ≤ (getLink s j).tunQ.length → exec (.tunnelCommand m j v) s =
      .next (hostBack m (linkReg j + 0x210) (setF (fTUN_STAT_FULL j) 1 s))) ∧
    ((getLink s j).tunQ.length < 8 → exec (.tunnelCommand m j v) s =
      .next (hostBack m (linkReg j + 0x210) (updLink j (fun l => { l with
        tunQ := l.tunQ ++ [⟨getF s (fTUN_LADDR_ADDR j), getF s (fTUN_RADDR_ADDR j), v.toNat % 2 ^ 24, v.getLsbD 24,
          v.getLsbD 25⟩] }) s)))) ∧
  (∀ (j : Fin 10) (s : State) (c : TunCmd) (r : List TunCmd), domRun s (linkDomain j) = true →
    (getLink s j).tun = none → (getLink s j).tunQ = c :: r → (getDom s (linkDomain j)).trans = none →
    (c.len = 0 → ∃ t, exec (.tunnelStart j) s = .next t ∧ (getLink t j).tun = none ∧ (getLink t j).tunQ = r ∧
      getF t (fTUN_STAT_DONE j) = (getF s (fTUN_STAT_DONE j) + 1) % 2 ^ 16 ∧
      getF t (fTUN_STAT_ERR j) = getF s (fTUN_STAT_ERR j) ∧ t.mem = s.mem) ∧
    (c.len ≠ 0 → c.laddr % 64 ≠ c.raddr % 64 → ∃ t, exec (.tunnelStart j) s = .next t ∧ (getLink t j).tun = none ∧
      (getLink t j).tunQ = r ∧ getF t (fTUN_STAT_ERR j) = 1 ∧ t.mem = s.mem) ∧
    (c.len ≠ 0 → c.laddr % 64 = c.raddr % 64 → c.raddr + c.len ≤ 2 ^ 40 →
      (linkActive s j = false → exec (.tunnelStart j) s = .next (updLink j (fun l => { l with
        tunQ := r, tun := some ⟨c, false, 0, [], none⟩ }) s)) ∧
      (linkActive s j = true → c.dir = true → c.len ≤ 64 - c.raddr % 64 → ∃ t, exec (.tunnelStart j) s = .next t ∧
        (getLink t j).tun = some ⟨c, true, c.len, [(0, 0, c.len)], none⟩ ∧ t.mem = s.mem ∧ (getLink t j).txq =
          (getLink s j).txq ++ tunRequest false c.raddr 0
            (List.replicate (c.raddr % 64) false ++ List.replicate c.len true) []))) ∧
  (∀ (j : Fin 10) (s : State) (x : TunRun), (getLink s j).tun = some x →
    (x.begun = false → linkActive s j = false → ∃ t, exec (.tunnelWaitTimeout j) s = .next t ∧ (getLink t j).tun = none ∧
      getF t (fTUN_STAT_ERR j) = 1 ∧ (getF s (fTUN_STAT_ERR j) = 0 → getF t (fTUN_STAT_STATUS j) = 7) ∧ t.mem = s.mem) ∧
    (x.out = [] → x.begun = true → x.fail = none → x.cmd.len ≤ x.next → x.cmd.evt = false →
      exec (.tunnelCommandDone j) s = .next (incF (fTUN_STAT_DONE j) 1 (updLink j (fun l => { l with tun := none }) s))) ∧
    (∀ p rest, splitPacket 1 (getLink s j).rxq = some (p, rest) → x.cmd.dir = false → x.fail = none →
      x.cmd.len ≤ x.next → pBits (p.headD (mkFlit 0 0 false 0)) 0 4 = 0 →
      (∃ e ∈ x.out, e.1 = pBits (p.headD (mkFlit 0 0 false 0)) 4 6) → ∃ t, exec (.tunnelResponse j) s = .next t ∧
        (getLink t j).tun = some { x with out := x.out.filter fun e => e.1 != pBits (p.headD (mkFlit 0 0 false 0)) 4 6 } ∧
        (getLink t j).rxq = rest ∧ t.mem = s.mem)) ∧
  (∀ (j : Fin 10) (s : State) (p rest : List Flit), splitPacket 0 (getLink s j).rxq = some (p, rest) →
    getF s (fLINK_CTL_TUN_IN j) = 0 → linkActive s j = true → ∃ t, exec (.tunnelRequest j) s = .next t ∧
      (getLink t j).rxq = rest ∧ t.mem = s.mem ∧ t.regs = s.regs ∧ (getLink t j).txq = (getLink s j).txq ++
        tunResponse (!decide (pBits (p.headD (mkFlit 0 0 false 0)) 34 2 = 1)) 1
          (pBits (p.headD (mkFlit 0 0 false 0)) 36 6) 0 (List.replicate 64 0)) ∧
  (∀ (j : Fin 10) (s : State) (p rest : List Flit), splitPacket 0 (getLink s j).rxq = some (p, rest) →
    getF s (fLINK_CTL_TUN_IN j) = 1 → linkActive s j = true →
    let h := p.headD (mkFlit 0 0 false 0)
    let wr := decide (pBits h 34 2 = 1)
    let a := 64 * pBits h 0 34
    let en := (List.range 64).map fun i => pBits h (42 + i) 1 == 1
    LineOpen s (linkNode j) (tunMaster j) wr a en (packetData p) → ∃ t, exec (.tunnelRequest j) s = .next t ∧
      (getLink t j).rxq = rest ∧ t.regs = s.regs ∧
      (∀ x, memByte t x = if wr = true ∧ a ≤ x ∧ x < a + 64 ∧ en.getD (x - a) false = true then
        (packetData p).getD (x - a) 0 else memByte s x) ∧
      (getLink t j).txq = (getLink s j).txq ++ tunResponse (!wr) 0 (pBits h 36 6) 0
        ((List.range 64).map fun i => if en.getD i false then memByte s (a + i) else 0)) ∧
  (∀ (j : Fin 8) (c : Fin 16) (s : State) (k : Nat), domRun s (20 + j.val) = true →
    (boundBlk s j 5 c = some k → linkActive s j = true → 0 < tget 0 (getLink s j).cred c → 0 < (getBlk s j k).vis →
      ∀ late, ∃ t f, exec (.haloFlitTx j c late) s = .next t ∧ (getLink t j).txq = (getLink s j).txq ++ [f] ∧ f.cls = 1 ∧
        f.chan = BitVec.ofNat 4 c ∧ tget 0 (getLink t j).cred c = tget 0 (getLink s j).cred c - 1 ∧
        (getBlk t j k).ages = (getBlk s j k).ages.tail ∧ t.mem = s.mem) ∧
    (∀ f, boundBlk s j 6 c = some k → 3 ≤ blkStage s j k → blkFull (linkFreed j k s) j k = false →
      (getLink s j).rxq.find? (fun f => f.cls == 1 && f.chan == BitVec.ofNat 4 c) = some f →
      ∃ t, exec (.haloFlitRx j c) s = .next t ∧ (getLink t j).rxq = (getLink s j).rxq.erase f ∧
        (getBlk t j k).ages = (getBlk s j k).ages ++ [0] ∧ t.mem = s.mem)) ∧
  (∀ (j : Fin 10) (s : State) (f : Flit), NextFlit s j 5 f →
    (pBits f 0 8 = 5 → linkActive s j = true → ∃ t, exec (.linkPark j) s = .next t ∧
      getF t (fLINK_STAT_DOWN_WHY j) = 3 ∧ getF t (fLINK_STAT_STATE j) = getF s (fLINK_CTL_ENABLE j) ∧
      (∃ c w, t.lineTx = s.lineTx ++ [⟨j, c, w⟩] ∧ control 6 0 ∈ c.flits ∧ c.flits.length = 20) ∧ t.mem = s.mem) ∧
    (pBits f 0 8 = 6 → (getLink s j).parkSent = true → exec (.parkAck j) s =
      .next (updLink j (fun l => { l with parked := true }) (took j f s)))) ∧
  (∀ (j : Fin 10) (s : State), (getLink s j).parkSent = true → exec (.parkAckTimeout j) s =
    .next (updLink j (fun l => { l with parked := true }) s)) ∧
  (∀ (j : Fin 10) (s : State), s.offNow = false → domState s (linkDomain j) ≠ 0 →
    getF s (fPWR_DOM_FAULT (linkDomain j)) = 0 → (getDom s (linkDomain j)).trans = none →
    (getDom s (linkDomain j)).slot = none →
    (getF s (fLINK_WAKE_WMODE j) = 1 → ∃ t, exec (.linkWakeDetect j) s = .next t ∧ getF t (fLINK_WAKE_DET j) = 1 ∧
      (getDom t (linkDomain j)).trans ≠ none ∧ getF t fWAKE_CAUSE_SRC = 1 ∧ t.mem = s.mem) ∧
    (getF s (fLINK_WAKE_WMODE j) = 2 → ∃ t, exec (.reveilleDetect j) s = .next t ∧ getF t (fLINK_WAKE_DET j) = 1 ∧
      (getDom t (linkDomain j)).trans ≠ none ∧ getF t fWAKE_CAUSE_SRC = 2 ∧ t.mem = s.mem)) ∧
  (∀ (m : BitVec 8) (j : Fin 10) (s : State), HostPath s m (linkReg j) → domRun s (linkDomain j) = true →
    getF s (fLINK_STAT_STATE j) = 0 → exec (.reveille m j) s = .next (hostBack m (linkReg j)
      (setF (fLINK_STAT_REV_BUSY j) 1 (setF (fLINK_CTL_REVEILLE j) 1 s)))) ∧
  (∀ (j : Fin 10) (s : State), getF s (fLINK_STAT_REV_BUSY j) = 1 → exec (.reveilleEnd j) s =
    .next (setF (fLINK_STAT_REV_BUSY j) 0 (setF (fLINK_CTL_REVEILLE j) 0 s))) ∧
  (∀ (m : BitVec 8) (v : Word) (s : State), HostPath s m 0x4F000 →
    ((∀ j < 10, getF s (fLINK_CTL_ENABLE j) = 0) → ∃ u, exec (.fleetIdWrite m v) s = .next (hostBack m 0x4F000 u) ∧
      getF u fFLEET_ID_FX = v.toNat % 16 ∧ getF u fFLEET_ID_FY = v.toNat / 16 % 16 ∧
      getF u fFLEET_ID_FZ = v.toNat / 256 % 16 ∧ getF u fFLEET_ID_DXM = v.toNat / 2 ^ 16 % 16 ∧ u.mem = s.mem) ∧
    ((∃ j < 10, getF s (fLINK_CTL_ENABLE j) = 1) → exec (.fleetIdWrite m v) s = .next (hostBack m 0x4F000 s)))
namespace Sys2Proof.Claims

/-! ### Meridian, watches and barriers -/

/-- A candidate flit as taken: none beyond 32 hops, or without a priority (R463). -/
def candOf (f : Flit) : Cand :=
  let none := 32 < pBits f 28 6 + 1 ∨ pBits f 8 8 = 0
  ⟨if none then 0 else pBits f 8 8, if none then 0 else pBits f 16 12, pBits f 28 6 + 1, pBits f 34 1 == 1⟩
/-- Candidate c of link j is the one of a priority and an index. -/
def isCand (j : Nat) (p i : Nat) (e : Nat × Cand) : Bool := e.1 == j && (e.2.prio == p && e.2.idx == i)
/-- 2θ of R465 in units of 2⁻¹⁶ ns, from the three stamps kept and the fourth in f. -/
def thetaOf (t1 t2 t3 : Nat) (f : Flit) : Int :=
  ((t2 : Int) - t1) - (((pBits f 8 64 * 2 ^ 16 + pBits f 72 16 : Nat) : Int) - t3)
/-- The time from which a watch may ring: its START, then its scheduled end. -/
def endOf (s : State) (w : Nat) : Nat :=
  if (getWatch s w).begun then getF s (fWATCH_NEXT_END w) else (getWatch s w).start
/-- A watch is enabled and due by its schedule; its period, and the lag at time b (R472). -/
def Rings (s : State) (w : Fin 72) : Prop :=
  getF s (fWATCH_CFG_ENABLE w) = 1 ∧ endOf s w ≤ merNs s
def lagAt (s : State) (w : Nat) (b : Nat) : Nat :=
  b - ((getWatch s w).start + (if (getWatch s w).begun then (getWatch s w).k + 1 else 0) * getF s (fWATCH_CFG_PERIOD w))

end Sys2Proof.Claims

/-- R463 to R466, R478.
Beside the rules it rests on the model's own choices of the log: entries 92, 93. -/
def Obligations.ElectionAndDiscipline : Prop :=
  (∀ (j : Fin 10) (s : State) (f : Flit), NextFlit s j 3 f → pBits f 0 8 = 1 → ∃ t, exec (.announce j) s = .next t ∧
    t.cands = learn j (candOf f) s.cands ∧
    t.master = (bestCand t).map (·.2.1) ∧ t.mem = s.mem ∧ t.mer = s.mer) ∧
  (∀ s : State, ∃ t, exec .announceTimer s = .next t ∧ t.regs = s.regs ∧ t.cands = s.cands ∧ ∀ j < 10,
    linkActive s j = true → (getLink t j).txq = (getLink s j).txq ++ [mkFlit 3 0 false (match bestCand s with
      | some (p, i, h, _) => 1 + p * 2 ^ 8 + i * 2 ^ 16 + h * 2 ^ 28 + (if parentLink s = some j then 1 else 0) * 2 ^ 34
      | none => 1)]) ∧
  (∀ (j : Fin 10) (p : BitVec 8) (i : BitVec 12) (s : State), (∃ e ∈ s.cands, isCand j p.toNat i.toNat e = true) →
    ∃ t, exec (.candidateTimeout j p i) s = .next t ∧ t.cands = s.cands.filter (fun e => !isCand j p.toNat i.toNat e) ∧
      t.master = (bestCand t).map (·.2.1) ∧ t.mem = s.mem) ∧
  (∀ s : State, (getF s fMER_STAT_STATE ≠ 4 → parentLink s ≠ none → ∃ t, exec .syncInterval s = .next t ∧
      t.exch = some ⟨none, 0, 0⟩ ∧ t.regs = s.regs ∧ (∀ j, (∀ k ∈ children s, k ≠ j) → getLink t j = getLink s j) ∧
      ∀ j ∈ children s, (getLink t j).txq = (getLink s j).txq ++ [stampFlit 2 0]) ∧
    (getF s fMER_STAT_STATE = 4 → ∃ t, exec .syncInterval s = .next t ∧ t.exch = none ∧ t.regs = s.regs)) ∧
  (∀ (j : Fin 10) (s : State) (f : Flit) (a b : Nat), NextFlit s j 3 f → pBits f 0 8 = 2 → parentLink s = some j.val →
    s.exch = some ⟨none, a, b⟩ → linkActive s j = true → exec (.sync j) s = .next (
      let u : State := { took j f s with
        exch := some ⟨some (pBits f 8 64 * 2 ^ 16 + pBits f 72 16), f.rx, 0⟩ }
      updLink j (fun l => { l with txq := l.txq ++ [stampFlit 3 0] }) u)) ∧
  (∀ (j : Fin 10) (s : State) (f : Flit), NextFlit s j 3 f → pBits f 0 8 = 3 → linkActive s j = true →
    exec (.delayReq j) s = .next (updLink j (fun l => { l with
      txq := l.txq ++ [stampFlit 4 f.rx] }) (took j f s))) ∧
  (∀ (j : Fin 10) (s : State) (f : Flit) (t1 t2 t3 : Nat), NextFlit s j 3 f → pBits f 0 8 = 4 →
    parentLink s = some j.val → s.exch = some ⟨some t1, t2, t3⟩ → ∃ t, exec (.delayResp j) s = .next t ∧
      t.exch = none ∧ t.mem = s.mem ∧ getF t fMER_STAT_OFFSET = offsetPs (thetaOf t1 t2 t3 f) ∧
      (getF s fMER_STAT_STATE = 1 → 2 * 1000 * 2 ^ 16 < (thetaOf t1 t2 t3 f).natAbs →
        t.mer = ((s.mer : Int) - thetaOf t1 t2 t3 f * 2 ^ 15).toNat ∧ t.merInc = s.merInc) ∧
      (getF s fMER_STAT_STATE ≠ 1 ∨ (thetaOf t1 t2 t3 f).natAbs ≤ 2 * 1000 * 2 ^ 16 → t.mer = s.mer))

/-- R471 to R477, R480.
Beside the rules it rests on the model's own choices of the log: entries 94, 95. -/
def Obligations.WatchesAndBarriers : Prop :=
  ((∀ (w : Fin 72) (s : State) (b : Nat), w.val < 64 → Rings s w → getF s (fWATCH_MODE_FOLLOW_EN w) = 0 →
    (((getWatch s w).begun = false ∧ b = (getWatch s w).start) ∨
      ((getWatch s w).begun = true ∧ getF s (fWATCH_MODE_DONE_REQ w) = 0 ∧ b = getF s (fWATCH_NEXT_END w)) ∨
      (∃ d, (getWatch s w).begun = true ∧ getF s (fWATCH_MODE_DONE_REQ w) = 1 ∧ (getWatch s w).doneAt = some d ∧
        b = max (getF s (fWATCH_NEXT_END w)) d)) →
    domRun s (quadDom w) = true → (getDom s (quadDom w)).trans = none →
    ∃ t, exec (.watchBell w) s = .next t ∧
      getF t (fWATCH_STAT_BELLS w) = (getF s (fWATCH_STAT_BELLS w) + 1) % 2 ^ 16 ∧ getF t (fWATCH_STAT_DONE w) = 1 - getF s (fWATCH_MODE_DONE_REQ w) ∧
      getF t (fWATCH_STAT_LAG w) = min (lagAt s w b) (2 ^ 32 - 1) ∧
      (16 * getF s (fWATCH_CFG_PERIOD w) < lagAt s w b → getF s (fWATCH_STAT_LOSTNOW w) = 0 →
        getF t (fWATCH_STAT_LOST w) = 1) ∧
      getF t (fWATCH_NEXT_END w) = (b + max (getF s (fWATCH_CFG_PERIOD w) -
        getF s (fWATCH_CFG_PERIOD w) * getF s (fWATCH_CFG_SHORTEN w) / 64)
        (getF s (fWATCH_CFG_PERIOD w) - lagAt s w b)) % 2 ^ 64 ∧
      (getSr (getCore t w) 0x15).getLsbD 17 = true ∧ (getWatch t w).b = b ∧ t.mem = s.mem) ∧
  (∀ (w : Fin 72) (s : State), getF s (fWATCH_CFG_ENABLE w) = 0 ∨ merNs s < endOf s w →
    exec (.watchBell w) s = .next s) ∧
  (∀ (n : Fin 64) (s : State), (getCore s n).state ≠ .halted → getF s (fWATCH_CFG_ENABLE n) = 1 →
    (getF s (fWATCH_STAT_DONE n) = 1 ∨ (getF s (fWATCH_MODE_FOLLOW_EN n) = 0 ∧ (getWatch s n).begun = false) →
      exec (.wDone n) s = .next (setF (fWATCH_STAT_EXTRA n) 1 s)) ∧
    (getF s (fWATCH_STAT_DONE n) = 0 → (getWatch s n).begun = true → getF s (fWATCH_MODE_FOLLOW_EN n) = 0 →
      exec (.wDone n) s = .next (setF (fWATCH_STAT_DONE n) 1
        (updWatch n (fun x => { x with doneAt := some (merNs s) }) s)))) ∧
  (∀ (m : BitVec 8) (w : Fin 72) (v : Word) (s : State), HostPath s m (0x45008 + 32 * w.val) →
    (w.val < 64 → getF s (fWATCH_CFG_ENABLE w) = 0 → ∃ u, exec (.watchModeWrite m w v) s =
      .next (hostBack m (0x45008 + 32 * w.val) u) ∧ getF u (fWATCH_MODE_DONE_REQ w) = v.toNat % 2 ∧
      getF u (fWATCH_MODE_FOLLOW_EN w) = v.toNat / 2 % 2 ∧ getF u (fWATCH_MODE_FOLLOW w) = v.toNat / 4 % 8 ∧
      u.mem = s.mem) ∧
    (64 ≤ w.val ∨ getF s (fWATCH_CFG_ENABLE w) = 1 → exec (.watchModeWrite m w v) s =
      .next (hostBack m (0x45008 + 32 * w.val) s)))) ∧
  ((∀ (j : Fin 10) (s : State) (f : Flit), NextFlit s j 4 f → pBits f 0 8 = 1 →
    let b := pBits f 8 4
    let g := getF s (fBAR_STAT_GEN b)
    (pBits f 12 8 = g → (getBar s b).release = none → getF s (fBAR_STAT_ARRIVED b) = 0 → exec (.arrive j) s =
      .next (updBar b (fun x => { x with kids := uniq (x.kids ++ [j.val]) }) (took j f s))) ∧
    (∀ r, pBits f 12 8 = g → (getBar s b).release = some r → exec (.arrive j) s = .next (sendFlit j (releaseFlit b g r)
      (updBar b (fun x => { x with kids := uniq (x.kids ++ [j.val]) }) (took j f s)))) ∧
    (∀ r, pBits f 12 8 = (g + 255) % 256 → (getBar s b).last = some r →
      exec (.arrive j) s = .next (sendFlit j (releaseFlit b ((g + 255) % 256) r) (took j f s))) ∧
    (pBits f 12 8 = (g + 1) % 256 → exec (.arrive j) s =
      .next (updBar b (fun x => { x with early := uniq (x.early ++ [j.val]) }) (took j f s))) ∧
    (pBits f 12 8 ≠ g → pBits f 12 8 ≠ (g + 1) % 256 → pBits f 12 8 ≠ (g + 255) % 256 ∨ (getBar s b).last = none →
      exec (.arrive j) s = .next (took j f s))) ∧
  (∀ (j : Fin 10) (s : State) (f : Flit), NextFlit s j 4 f → pBits f 0 8 = 2 →
    let b := pBits f 8 4
    (pBits f 12 8 ≠ getF s (fBAR_STAT_GEN b) → exec (.release j) s = .next (satF (fBAR_STAT_BAD b) 1 (took j f s))) ∧
    (pBits f 12 8 = getF s (fBAR_STAT_GEN b) → (getBar s b).release = none → ∃ t, exec (.release j) s = .next t ∧
      (getBar t b).release = some (pBits f 20 64) ∧ (getBar t b).late = decide (pBits f 20 64 < merNs s) ∧
      t.regs = s.regs ∧ t.mem = s.mem)) ∧
  (∀ (b : Fin 16) (s : State) (r : Nat), (getBar s b).release = some r →
    (merNs s < r → exec (.barrierComplete b) s = .next s) ∧
    (r ≤ merNs s → b.val < 8 → ∃ t, exec (.barrierComplete b) s = .next t ∧
      getF t (fBAR_STAT_GEN b) = (getF s (fBAR_STAT_GEN b) + 1) % 256 ∧ getF t (fBAR_STAT_ARRIVED b) = 0 ∧
      (getBar t b).release = none ∧ (getBar t b).kids = (getBar s b).early ∧ (getBar t b).last = some r ∧
      getF t (fBAR_STAT_LATE b) = (if (getBar s b).late then min (getF s (fBAR_STAT_LATE b) + 1) (2 ^ 16 - 1)
        else getF s (fBAR_STAT_LATE b)) ∧
      (∀ j ∈ t.jobs, ¬ (j.op = 0xE ∧ j.phase = .running ∧ dBits j 1 0 4 = b.val)) ∧ t.mem = s.mem)) ∧
  (∀ (r : Fin 8192) (s : State) (j : Job),
    let runs (k : Job) : Prop := k.ring = r.val ∧ k.op = 0xE ∧ k.phase = .running ∧ dBits k 2 0 64 ≠ 0
    j ∈ s.jobs → runs j → barrierEnd j ≤ nsNow s → (∀ k ∈ s.jobs, runs k → k = j ∨ barrierEnd j < barrierEnd k) →
    exec (.barrierTimeout r) s = .next (completeJob j.id 7 0 s)))

namespace Sys2Proof.Claims

/-! ### Boundary fabric -/

/-- The trees of `ts` that have an edge: those not being switched. -/
def edgeOn (s : State) (g : Fin 8) (ts : BitVec 4) (t : Nat) : Bool := ts.getLsbD t && !bitF s (fFAB_CLK_SWITCHING g t)
/-- Every cove of tree t keeps R499 with a source and divider. -/
def treeMeets (s : State) (g : Fin 8) (t : Fin 4) (src div : Nat) : Prop :=
  ∀ e ∈ coveList s g, cvTree e.2 = t.val → coveMeets s e.1 e.2 src div = true

end Sys2Proof.Claims

/-- R483, R492, R495, R507.
Beside the rules it rests on the model's own choices of the log: entries 96, 97, 98, 101, 102. -/
def Obligations.FabricEdges : Prop :=
  (∀ (g : Fin 8) (ts : BitVec 4) (pins : BitVec 8) (ph : BitVec 65) (s : State), domRun s (20 + g.val) = true →
    ∃ t, exec (.treeEdge g ts pins ph []) s = .next t ∧ t.mem = s.mem ∧
      (∀ c < 256, ∀ f v, coveFrame s g c = some f → edgeOn s g ts (cvTree f) = true → stageOf s g c = 4 →
        coveView s g c pins ph = some (f, v) → ∀ i < 64, (tget 0 (getStrip t g).ffs c).getLsbD i =
          if cvByp f i then cellX f v i else v.luts.testBit i) ∧
      (∀ c f, coveFrame s g c = some f → edgeOn s g ts (cvTree f) = false →
        tget 0 (getStrip t g).ffs c = tget 0 (getStrip s g).ffs c ∧
        tget 0 (getStrip t g).tracks c = tget 0 (getStrip s g).tracks c) ∧
      (∀ c < 256, ∀ f, coveFrame s g c = some f → edgeOn s g ts (cvTree f) = true →
        cvTree f ∈ (getStrip s g).capWait →
        tget 0 (getStrip t g).cap c = tget 0 (getStrip s g).ffs c ∧ cvTree f ∉ (getStrip t g).capWait) ∧
      (∀ k < 32, bfMode (blkFrame s g k) = 3 → 2 ≤ blkStage s g k →
        edgeOn s g ts (bfTreeA (blkFrame s g k)) = true → bfTreeB (blkFrame s g k) = bfTreeA (blkFrame s g k) →
        blkFull s g k = false →
        let vs := coveViews s g (edgeOn s g ts) pins ph
        let a := portIn s g vs k (8 * k)
        let b := portIn s g vs k (8 * k + 4)
        let x := getBlk s g k
        (getBlk t g k).ages =
          (if b.en = true ∧ x.vis ≠ 0 then x.ages.tail else x.ages) ++ (if a.we then [0] else []) ∧
        (getBlk t g k).head = (if b.en = true ∧ x.vis ≠ 0 then (x.head + 1) % widthD (bfWidth (blkFrame s g k)) else x.head) ∧
        (b.en = false → a.we = true → bfWidth (blkFrame s g k) < 4 →
          tget 0 (getBlk t g k).mem ((x.head + x.ages.length) % widthD (bfWidth (blkFrame s g k))) =
            BitVec.ofNat 72 (bits a.data 0 (unitBits (blkFrame s g k)))))) ∧
  (∀ (g : Fin 8) (ts : BitVec 4) (pins : BitVec 8) (ph : BitVec 65) (ups : List BlkUpset) (s : State),
    domRun s (20 + g.val) = false → exec (.treeEdge g ts pins ph ups) s = .next s) ∧
  (∀ (g : Fin 8) (l : Fin 24) (w : Word) (late : Bool) (s : State) (k : Nat), boundBlk s g 7 l = some k →
    laneLive s g l = true →
    (blkFull s g k = true → ∃ t, exec (.pmaWordReceived g l w late) s = .next t ∧ getF t (fFAB_BLK_OVF g k) = 1 ∧
      (getBlk t g k).ages = (getBlk s g k).ages ∧ (getBlk t g k).mem = (getBlk s g k).mem ∧ t.mem = s.mem) ∧
    (blkFull s g k = false → ∃ t, exec (.pmaWordReceived g l w late) s = .next t ∧
      (getBlk t g k).ages = (getBlk s g k).ages ++ [0] ∧ t.mem = s.mem ∧ t.regs = s.regs)) ∧
  (∀ (g : Fin 8) (l : Fin 24) (late : Bool) (s : State) (k : Nat), boundBlk s g 8 l = some k → laneLive s g l = true →
    ((getBlk s g k).vis = 0 → ∃ t, exec (.pmaWordSent g l late) s = .next t ∧ t.mem = s.mem ∧
      t.pmaTx = s.pmaTx ++ [(g.val, l.val, (getBlk s g k).last)] ∧ getF t (fFAB_BLK_UNF g k) = 1) ∧
    ((getBlk s g k).vis ≠ 0 → ∃ t, exec (.pmaWordSent g l late) s = .next t ∧ t.mem = s.mem ∧
      t.pmaTx = s.pmaTx ++ [(g.val, l.val, BitVec.ofNat 64 (readEntry g k (getBlk s g k).head s).1)] ∧
      (getBlk t g k).ages = (getBlk s g k).ages.tail.map (· + 1) ∧
      (getBlk t g k).last = BitVec.ofNat 64 (readEntry g k (getBlk s g k).head s).1))

/-- R500, R505, R507, R508, R602, R545.
Beside the rules it rests on the model's own choices of the log: entries 104, 105, 106. -/
def Obligations.FabricClocksAndLoads : Prop :=
  (∀ (m : BitVec 8) (g : Fin 8) (t : Fin 4) (v : Word) (s : State),
    let o := 0x58010 + 0x1000 * g.val + 8 * t.val
    let src := v.toNat % 4
    let lane := v.toNat / 4 % 32
    let div := v.toNat / 256 % 16
    HostPath s m o →
    (getF s (fFAB_CLK_SWITCHING g t) = 0 → lane ≤ 23 → treeMeets s g t src div → ∃ u,
      exec (.fabClkWrite m g t v) s = .next (hostBack m o u) ∧ getF u (fFAB_CLK_SRC g t) = src ∧
      getF u (fFAB_CLK_LANE g t) = lane ∧ getF u (fFAB_CLK_DIV g t) = div ∧ u.mem = s.mem ∧
      getF u (fFAB_CLK_SWITCHING g t) = (if src = getF s (fFAB_CLK_SRC g t) ∧ lane = getF s (fFAB_CLK_LANE g t) ∧
        div = getF s (fFAB_CLK_DIV g t) then 0 else 1)) ∧
    (getF s (fFAB_CLK_SWITCHING g t) = 1 ∨ 23 < lane ∨ ¬ treeMeets s g t src div →
      exec (.fabClkWrite m g t v) s = .next (hostBack m o (setF (fFAB_CLK_CLK_REJ g t) 1 s)))) ∧
  (∀ (g : Fin 8) (t : Fin 4) (dead : Bool) (s : State),
    (getF s (fFAB_CLK_SWITCHING g t) = 1 → ∃ u, exec (.clockRestart g t dead) s = .next u ∧ u.mem = s.mem ∧
      getF u (fFAB_CLK_SWITCHING g t) = 0 ∧
      getF u (fFAB_CLK_DEAD_SRC g t) = (if dead then 1 else getF s (fFAB_CLK_DEAD_SRC g t)) ∧
      getF u (fFAB_CLK_SRC g t) = getF s (fFAB_CLK_SRC g t) ∧ getF u (fFAB_CLK_DIV g t) = getF s (fFAB_CLK_DIV g t)) ∧
    (getF s (fFAB_CLK_SWITCHING g t) = 0 → exec (.clkLost g t) s = .next (setF (fFAB_CLK_CLK_LOST g t) 1 s))) ∧
  (∀ (m : BitVec 8) (g : Fin 8) (s : State), HostPath s m (0x58040 + 0x1000 * g.val) →
    (getF s (fFAB_CAP_CAPTURE g) = 0 → ∃ u, exec (.capture m g) s = .next (hostBack m (0x58040 + 0x1000 * g.val) u) ∧
      getF u (fFAB_CAP_CAPTURE g) = 1 ∧ getF u (fFAB_CAP_DONE g) = 0 ∧ (getStrip u g).capWait = [0, 1, 2, 3] ∧
      (getStrip u g).ffs = (getStrip s g).ffs ∧ u.mem = s.mem) ∧
    (getF s (fFAB_CAP_CAPTURE g) = 1 → exec (.capture m g) s = .next (hostBack m (0x58040 + 0x1000 * g.val) s))) ∧
  (∀ (g : Fin 8) (s : State), getF s (fFAB_CAP_CAPTURE g) = 1 → ∃ t, exec (.captureDone g) s = .next t ∧
    getF t (fFAB_CAP_CAPTURE g) = 0 ∧ getF t (fFAB_CAP_DONE g) = 1 ∧ (getStrip t g).capWait = [] ∧ t.mem = s.mem ∧
    ∀ c < 256, ∀ f, coveFrame s g c = some f → cvTree f ∈ (getStrip s g).capWait →
      tget 0 (getStrip t g).cap c = tget 0 (getStrip s g).ffs c) ∧
  (∀ (m : BitVec 8) (g : Fin 8) (s : State), let o := 0x58050 + 0x1000 * g.val
    hostPasses s m.toNat o = true → regGate (homeOf m.toNat) m.toNat m.toNat false o s = (0, s) →
    regAnswer (homeOf m.toNat) m.toNat o 0 s = (0, s) → getF s (fFAB_RB_SEL_KIND g) = 0 →
    exec (.fabRbDataRead m g) s = .next { s with answers := s.answers ++ [⟨homeOf m.toNat, 0,
      leBytes 8 (tget 0 (getStrip s g).cap (getF s (fFAB_RB_SEL_COVE g))).toNat, 0⟩] }) ∧
  (∀ (g : Fin 8) (s : State) (j : Job), loadOf s g = some j →
    (j.stage = 2 → ∃ t, exec (.loadRelease g) s = .next t ∧ t.mem = s.mem ∧ t.regs = s.regs ∧
      (∀ r ∈ ldReaches j, ∀ x, treeStage t g r x = 2) ∧
      (∀ i im, (reachImgs (ldCount j) j.data)[i]? = some im → ∀ k < 16,
        coveFrame t g (16 * (ldFirst j + i) + k) = some (im.coves.getD k 0 % 2 ^ 8192) ∧
        (tsorted (getStrip s g).coves = true → i < ldCount j →
          tget 0 (getStrip t g).ffs (16 * (ldFirst j + i) + k) = BitVec.ofNat 64 (cvInit (im.coves.getD k 0)))) ∧
      (∀ c, (∀ r ∈ ldReaches j, c / 16 ≠ r) → (reachImgs (ldCount j) j.data).length ≤ ldCount j →
        coveFrame t g c = coveFrame s g c)) ∧
    (∀ x : Fin 4, j.stage = 3 → ldReaches j ≠ [] → (∀ r ∈ ldReaches j, tlook (getStrip s g).rel r = some 2) →
      let old := (getStrip s g).relTree
      let new (y : Nat) : Nat := if y = x.val then min 4 (tget 2 old x + 1) else tget 2 old y
      ((∃ y ∈ releaseTrees s g (ldReaches j), new y ≠ 4) → ∃ t, exec (.releaseStage g x) s = .next t ∧ t.mem = s.mem ∧
        t.regs = s.regs ∧ ∀ r ∈ ldReaches j, ∀ y, treeStage t g r y = max 2 (new y)) ∧
      ((∀ y ∈ releaseTrees s g (ldReaches j), new y = 4) → s.Numbered → (getStrip s g).waiting = [] →
        ∃ t, exec (.releaseStage g x) s = .next t ∧
        (∀ r ∈ ldReaches j, r < 16 → (∀ y, treeStage t g r y = 4) ∧ (getF t (fFAB_STAT_LOADING g)).testBit r = false) ∧
        tget 0 t.measures (0x90 + g.val) =
          tget 0 (extendWith (0x90 + g) 3 (ldFirst j) (ldCount j) j.data s).measures (0x90 + g.val)))) ∧
  (∀ (g : Fin 8) (x : Fin 4) (s : State), loadOf s g = none →
    (∃ r ∈ resetReaches s g, tget 0 (getStrip s g).rel r = 1) → ∃ t, exec (.releaseStage g x) s = .next t ∧
      t.mem = s.mem ∧ t.regs = s.regs ∧ ∀ r ∈ resetReaches s g, ∀ y, treeStage t g r y = 2) ∧
  (∀ (g : Fin 8) (r : Fin 16) (f : Fin 18) (s : State), domRun s (20 + g.val) = true →
    (getF s (fFAB_STAT_LOADED g)).testBit r = true → (getF s (fFAB_STAT_LOADING g)).testBit r = false →
    exec (.configScan g [(r, f)]) s = .next (devLogM 13 2 0 (0x50 + g.val) (0x90 + g.val)
      (g.val + r.val * 2 ^ 8 + (f.val + 1) * 2 ^ 16) 0 s))
namespace Sys2Proof.Claims

/-! ### Power -/

/-- Domain d is not in Run, without FAULT, a transition or a request in its slot. -/
def Dark (s : State) (d : Nat) : Prop :=
  domState s d ≠ 0 ∧ getF s (fPWR_DOM_FAULT d) = 0 ∧ (getDom s d).trans = none ∧ (getDom s d).slot = none
/-- A Dawn of domain d has started for wake source k, and is recorded (R527). -/
def Dawns (s t : State) (d k : Nat) : Prop :=
  (∃ x, (getDom t d).trans = some x ∧ x.src = domState s d ∧ x.dst = 0) ∧ getF t fWAKE_CAUSE_SRC = k ∧
  getF t fWAKE_CAUSE_DOMAIN = d ∧ getF t fWAKE_CAUSE_FROM_OFF = 0 ∧ getF t fWAKE_TIME_NS = merNs s % 2 ^ 64 ∧
  t.mem = s.mem
/-- What the last step of a transition from state w to x leaves: the state, its count, and no transition (R522). A Dawn
that failed ends in the Deep it began in: no change of state. -/
def Reached (s t : State) (d w x : Nat) : Prop :=
  getF t (fPWR_DOM_STATE d) = x ∧ (getDom t d).trans = none ∧ getF t (fPWR_DOM_BUSY d) = 0 ∧
  getF t (fPWR_DOM_TRANS d) = (if w = x then getF s (fPWR_DOM_TRANS d)
    else min (getF s (fPWR_DOM_TRANS d) + 1) (2 ^ 16 - 1)) ∧ t.mem = s.mem
/-- The three mapped wake sources: command, its bit of WAKE_EN, its map and its code (R526). -/
def wakeTable : List (Instr × Fld × Nat × Nat) :=
  [(.pcieWake, fWAKE_EN_PCIE, 0, 3), (.wakeN, fWAKE_EN_WAKEN, 1, 4), (.aonTimerMatch, fWAKE_EN_TIMER, 2, 5)]

end Sys2Proof.Claims

/-- R516, R518, R522 to R524, R526, R527, R530, R532, R533, R536. `Numbered` is an invariant that `StepKeepsTheState`
states.
Beside the rules it rests on the model's own choices of the log: entries 108, 109, 110, 113. -/
def Obligations.PowerTransitions : Prop :=
  (∀ (d : Fin 41) (s : State) (t : Trans), (getDom s d).trans = some t → t.phase = 2 → domOutstanding s d = false →
    drainHeld s d = false → ∀ c ∈ [Instr.duskDrainEnd d, Instr.drainMaxExpiry d], ∃ u, exec c s = .next u ∧
      (d.val < 37 ∨ s.borrow = [] → u.mem = s.mem) ∧ (getDom u d).trans =
        some { t with phase := 3, steps := duskSteps d t.src t.dst, closed := true } ∧ domOpen u d = false) ∧
  (∀ (d : Fin 41) (s : State) (t : Trans), (getDom s d).trans = some t → t.phase = 2 →
    (domOutstanding s d = true ∨ drainHeld s d = true) → exec (.duskDrainEnd d) s = .next s ∧
      ∃ u, exec (.drainMaxExpiry d) s = .next u ∧ (getDom u d).trans = some { t with closed := true } ∧ u.mem = s.mem) ∧
  (∀ (d : Fin 41) (s : State) (t : Trans), (getDom s d).trans = some t → s.Numbered →
    (∀ a k r, t.steps = a :: k :: r →
      (t.phase = 3 → exec (.duskStepDone d) s =
        .next (updDom d (fun x => { x with trans := some { t with steps := k :: r } }) s)) ∧
      (4 ≤ t.phase → ∃ u, exec (.dawnStepDone d) s = .next u ∧ u.mem = s.mem ∧
        (getDom u d).trans = some { t with steps := k :: r, phase := 3 + k })) ∧
    (∀ a, t.steps = [a] → t.dst ≤ 3 → (getDom s d).slot = none →
      (t.phase = 3 → (getDom s d).anch = [] → ∃ u, exec (.duskStepDone d) s = .next u ∧ Reached s u d t.src t.dst) ∧
      (t.phase = 3 → (getDom s d).anch ≠ [] → t.dst ≠ 0 → getF s (fPWR_DOM_FAULT d) = 0 → ∃ u x,
        exec (.duskStepDone d) s = .next u ∧ (getDom u d).trans = some x ∧ x.src = t.dst ∧ x.dst = 0 ∧
        getF u fWAKE_CAUSE_SRC = 7 ∧ getF u (fPWR_DOM_STATE d) = t.dst ∧ u.mem = s.mem) ∧
      (4 ≤ t.phase → ∃ u, exec (.dawnStepDone d) s = .next u ∧ ((getDom s d).anch = [] → Reached s u d t.src t.dst) ∧
        (t.dst = 0 → getF u (fPWR_DOM_STATE d) = 0 ∧ ∀ p, .packet p ∈ (getDom s d).anch → (∀ id, p.body ≠ .start id) →
          { p with held := true } ∈ u.eject))) ∧
    (4 ≤ t.phase → ∃ u, exec (.dawnStepTimeout d) s = .next u ∧
      getF u (fPWR_DOM_FAULT d) = 1 ∧ (getDom u d).anch = [] ∧ (getDom u d).slot = none ∧ u.mem = s.mem ∧
      (∃ x, (getDom u d).trans = some x ∧ x.dst = 3 ∧ x.phase = 3 ∧ x.steps =
        (match t.phase with | 4 => [6] | 5 => [5, 6] | 6 => [4, 5, 6] | _ => [3, 4, 5, 6])) ∧
      (∀ n, .access n ∈ (getDom s d).anch → tlook u.verdict n = some 7))) ∧
  (∀ (d : Fin 41) (s : State), ((getDom s d).anch = [] → exec (.faultClear d) s = .next (setF (fPWR_DOM_FAULT d) 0 s)) ∧
    ((getDom s d).anch ≠ [] → domState s d ≠ 0 → (getDom s d).trans = none → (getDom s d).slot = none →
      ∃ t, exec (.faultClear d) s = .next t ∧ getF t (fPWR_DOM_FAULT d) = 0 ∧ Dawns s t d 7)) ∧
  (∀ w ∈ wakeTable, ∀ (s : State), (w.1 = .aonTimerMatch → getF s fAON_TIMER_COMPARE ≠ 0 ∧
      getF s fAON_TIMER_COMPARE ≤ aonNow s) →
    (getF s w.2.1 = 0 → exec w.1 s = .next s) ∧
    (getF s w.2.1 = 1 → s.offNow = true → ∃ t, exec w.1 s = .next t ∧ t.offWake = true ∧
      getF t fWAKE_CAUSE_SRC = w.2.2.2 ∧ getF t fWAKE_CAUSE_DOMAIN = 63 ∧ getF t fWAKE_CAUSE_FROM_OFF = 1 ∧
      getF t fWAKE_TIME_NS = aonNow s % 2 ^ 64 ∧ t.mem = s.mem) ∧
    (∀ d : Fin 41, getF s w.2.1 = 1 → s.offNow = false → Dark s d → getF s (fPWR_WAKEMAP_DOMS w.2.2.1) = 2 ^ d.val →
      ∃ t, exec w.1 s = .next t ∧ Dawns s t d w.2.2.2)) ∧
  (∀ (p : BitVec 10) (tj : BitVec 8) (s : State), ∃ t, exec (.governorUpdate p tj) s = .next t ∧ t.mem = s.mem ∧
    getF t fGOV_STAT_PWR_W = p.toNat ∧ getF t fGOV_STAT_TJ = tj.toNat ∧
    (getF s fGOV_CTL_GOV_EN = 0 → getF t fGOV_STAT_K = getF s fGOV_STAT_K) ∧
    (getF s fGOV_CTL_GOV_EN = 1 →
      let k := getF s fGOV_STAT_K
      let lim := getF s fGOV_CTL_PLIM
      let hot := decide (lim < p.toNat ∨ (getF s fGOV_CTL_TLIM : Int) ≤ tj.toInt)
      let cool := decide (p.toNat + 16 < lim ∧ tj.toInt < (getF s fGOV_CTL_TLIM : Int) - 2)
      let k' := if hot then min 56 (k + 1) else if cool then k - 1 else k
      getF t fGOV_STAT_K = k' ∧ getF t fGOV_STAT_LIMITED = (if k' = 0 then 0 else 1) ∧
      getF t fGOV_STAT_OVER = (if k = 56 ∧ lim < p.toNat then 1 else getF s fGOV_STAT_OVER) ∧
      (decide (k = 0) ≠ decide (k' = 0) → ∀ n < 64, (tget 0 t.pwrNote n).testBit 48 = true))) ∧
  (∀ s : State, exec .thermalTrip s = .next { s with pins := { s.pins with thermTrip := true } }) ∧
  (∀ (s : State) (id : Nat), s.off = some id → s.fetches = [] → (∀ j ∈ s.jobs, j.id = id) → ∃ t,
    exec .offEntry s = .next t ∧ t.offNow = true ∧ t.off = none ∧ t.mem = s.mem ∧
    ∀ d < 41, getF t (fPWR_DOM_STATE d) = 3 ∧ getDom t d = Dom.reset) ∧
  (∀ (n : Fin 64) (v : Word) (s : State), (getCore s n).state ≠ .halted →
    let dom := v.toNat % 64
    let st := v.toNat / 256 % 8
    let k := tget 0 s.pwrRes n / 32 + 1
    let e := if 3 < st then 8 else if 40 < dom ∨ (getF s (fPWR_GRANT_DOMS n)).testBit dom = false then 1
      else if dom = quadDom n then 1 else if dom < 16 ∧ st ≠ 0 ∧ quadBusy s dom = true then 8 else 0
    (e ≠ 0 → exec (.pwrReq n v) s = .next { s with pwrRes := tset 0 s.pwrRes n (k * 32 + e * 2) }) ∧
    (e = 0 → (getDom s dom).trans = none → (getDom s dom).slot = none → getF s (fPWR_DOM_FAULT dom) = 0 →
      (st = domState s dom → ∃ t, exec (.pwrReq n v) s = .next t ∧ tget 0 t.pwrRes n = k * 32 ∧ t.regs = s.regs ∧
        t.doms = s.doms ∧ t.mem = s.mem) ∧
      (st ≠ domState s dom → ∃ t, exec (.pwrReq n v) s = .next t ∧ tget 0 t.pwrRes n = k * 32 + 1 ∧
        (dom < 37 ∨ s.borrow = [] → t.mem = s.mem) ∧ ∃ x, (getDom t dom).trans = some x ∧ x.src = domState s dom ∧ x.dst = st ∧ x.who = .port n k)))
/-- R555, R556, R559, R560, R573, R579, R582, R548. `Numbered` is an invariant that `StepKeepsTheState` states.
Beside the rules it rests on the model's own choices of the log: entries 114, 115, 116, 117. -/
def Obligations.ServiceOperations : Prop :=
  (∀ (f : Fin 64) (s : State) (j : Job), s.Numbered → spareOf s f 0 = some j →
    (∃ t, exec (.sparePretestDone f false) s = .next t ∧ getF t (fSPARE_MAP_SPARE_BAD f) = 1 ∧ t.mem = s.mem ∧
      ∀ k ∈ t.jobs, k.id ≠ j.id) ∧
    (partOf s f = none → exec (.sparePretestDone f true) s =
      .next (updJob j.id (fun j => { j with stage := 1 }) s)) ∧
    (∀ n p, partOf s f = some (n, p) → ∃ t, exec (.sparePretestDone f true) s = .next t ∧ (getSeq t n).pendSp = true ∧
      (getSr (getCore t n) 0x15).getLsbD 21 = true ∧ t.mem = s.mem ∧ t.fields = s.fields)) ∧
  (∀ (f : Fin 64) (s : State) (j : Job), spareOf s f 1 = some j →
    (partOf s f = none → ∃ t, exec (.spareQuiesced f) s = .next t ∧ getF t (fSPARE_MAP_COPY_BUSY f) = 1 ∧ t.mem = s.mem) ∧
    (∀ n p, partOf s f = some (n, p) → hubReady s n = true → readbackFirst s n j.id = false →
      ∃ t, exec (.spareQuiesced f) s = .next t ∧ getF t (fSPARE_MAP_COPY_BUSY f) = 1 ∧ (getSeq t n).hubSvc = true ∧
        (getSeq t n).pendSp = false ∧ t.mem = s.mem) ∧
    (∀ n p, partOf s f = some (n, p) → (hubReady s n = false ∨ readbackFirst s n j.id = true) →
      exec (.spareQuiesced f) s = .next s)) ∧
  (∀ (f : Fin 64) (s : State) (j : Job), s.Numbered → spareOf s f 2 = some j → ∃ t,
    exec (.spareCopyDone f) s = .next t ∧ getF t (fSPARE_MAP_FAILED_COL f) = spareCol j ∧
    getF t (fSPARE_MAP_ACTIVE f) = 1 ∧ getF t (fSPARE_MAP_COPY_BUSY f) = 0 ∧ t.mem = s.mem ∧ ∀ k ∈ t.jobs, k.id ≠ j.id) ∧
  (∀ (m : BitVec 8) (k : Fin 4) (ch : Fin 16) (s : State), let o := 0x50018 + 0x1000 * k.val
    HostPath s m o → ∃ u, exec (.hbmRecal m k ch) s = .next (hostBack m o u) ∧ getF u (fHBM_RECAL_CH k) = ch.val ∧
      u.mem = s.mem ∧
      (domRun s (16 + k.val) = true ∧ getF s (fHBM_STAT_FAILED k) = 0 ∧ getF s (fHBM_RECAL_BUSY k) = 0 →
        getF u (fHBM_RECAL_BUSY k) = 1 ∧ u.hbmHeld = s.hbmHeld ++ [16 * k.val + ch.val]) ∧
      (domRun s (16 + k.val) = false ∨ getF s (fHBM_STAT_FAILED k) = 1 ∨ getF s (fHBM_RECAL_BUSY k) = 1 →
        getF u (fHBM_RECAL_REJ k) = 1 ∧ getF u (fHBM_RECAL_BUSY k) = getF s (fHBM_RECAL_BUSY k) ∧ u.hbmHeld = s.hbmHeld)) ∧
  (∀ (k : Fin 4) (us : BitVec 16) (s : State), getF s (fHBM_RECAL_BUSY k) = 1 → ∃ t,
    exec (.hbmRecalDone k us) s = .next t ∧ getF t (fHBM_RECAL_BUSY k) = 0 ∧ getF t (fHBM_RECAL_GO k) = 0 ∧
    getF t (fHBM_RECAL_LAST_US k) = us.toNat ∧ (∀ x ∈ t.hbmHeld, x / 16 ≠ k.val) ∧ t.mem = s.mem) ∧
  (∀ (m : BitVec 8) (s : State), HostPath s m 0x4D000 →
    (getF s fFW_CTL_BUSY = 1 → ∀ c ∈ [Instr.fwStage m, Instr.fwSwitch m], exec c s =
      .next (hostBack m 0x4D000 (setFs [(fFW_CTL_FW_ERR, 1), (fFW_CTL_ERR_WHY, 5)] s))) ∧
    (getF s fFW_CTL_BUSY = 0 → exec (.fwStage m) s =
      .next (hostBack m 0x4D000 (setFs [(fFW_CTL_STAGE, 1), (fFW_CTL_BUSY, 1)] s))) ∧
    (getF s fFW_CTL_BUSY = 0 → getF s fFW_CTL_READY = 0 → exec (.fwSwitch m) s =
      .next (hostBack m 0x4D000 (setFs [(fFW_CTL_FW_ERR, 1), (fFW_CTL_ERR_WHY, 4)] s))) ∧
    (getF s fFW_CTL_BUSY = 0 → getF s fFW_CTL_READY = 1 → ∃ u, exec (.fwSwitch m) s = .next (hostBack m 0x4D000 u) ∧
      getF u fFW_CTL_SWITCH = 1 ∧ getF u fFW_CTL_BUSY = 1 ∧ u.ringStop = true ∧ u.cqHold = true ∧ u.mem = s.mem)) ∧
  (∀ (ok : Bool) (s : State), getF s fFW_CTL_STAGE = 1 →
    let u := setFs [(fFW_CTL_STAGE, 0), (fFW_CTL_BUSY, 0)] s
    let len := getF s fFW_SRC_LEN
    let r := secRead (stgNote 0x61) (getF s fFW_SRC_OFFSET) (List.replicate len true) u
    let i := slotImg r.2.1
    let fails (k : Nat) (x : State) : State := setFs [(fFW_CTL_FW_ERR, 1), (fFW_CTL_ERR_WHY, k)] x
    exec (.fwStageDone ok) s = .next (if 2 ^ 26 < getF s fFW_SRC_OFFSET + len then fails 1 u
      else if r.1 ≠ 0 ∨ slotSound s i = false then fails 1 r.2.2.2
      else if i.svn.toNat < getF s fSEC_STAT_SVN_FUSE then fails 2 r.2.2.2
      else if ok = true then setF fFW_CTL_READY 1 (setInactive (r.2.1.take (256 + leNum ((r.2.1.drop 4).take 4))) r.2.2.2)
      else fails 3 (setF fFW_CTL_READY 0 (setInactive [] r.2.2.2)))) ∧
  (∀ (us : BitVec 32) (s : State), s.Numbered → getF s fFW_CTL_SWITCH = 1 → ∃ t, exec (.fwSwitchDone us) s = .next t ∧
    getF t fFW_CTL_ACTIVE = 1 - getF s fFW_CTL_ACTIVE ∧ getF t fSEC_STAT_BOOT_SLOT = 1 - getF s fFW_CTL_ACTIVE ∧
    getF t fFW_CTL_SWITCH = 0 ∧ getF t fFW_CTL_BUSY = 0 ∧ getF t fFW_CTL_READY = 0 ∧
    getF t fFW_CTL_PAUSE_US = us.toNat ∧ t.cqHold = false ∧ t.evtHeld = [] ∧ t.mem = s.mem ∧
    t.flash = writeRecord' (getF s fFW_CTL_ACTIVE == 0) s.flash) ∧
  (∀ (m : BitVec 8) (s : State), HostPath s m 0x4E008 →
    let back (l : List (Fld × Nat)) : Host.Outcome State Fault Refusal := .next (hostBack m 0x4E008 (setFs l s))
    exec (.svnCommit m) s = (if getF s fSEC_STAT_SVN_IMG ≤ getF s fSEC_STAT_SVN_FUSE then back [(fSEC_CTL_COMMIT_REJ, 1)]
      else back [(fSEC_CTL_SVN_COMMIT, 1), (fSEC_CTL_BUSY, 1)]) ∧
    exec (.revoke0 m) s = (if getF s fSEC_STAT_KEY_SEL = 1 then back [(fSEC_CTL_REVOKE0, 1), (fSEC_CTL_BUSY, 1)]
      else back [(fSEC_CTL_COMMIT_REJ, 1)])) ∧
  (∀ s : State, (getF s fSEC_CTL_BUSY = 0 → exec .fuseWriteDone s = .next s) ∧
    (getF s fSEC_CTL_BUSY = 1 → ∃ t, exec .fuseWriteDone s = .next t ∧ t.mem = s.mem ∧ getF t fSEC_CTL_BUSY = 0 ∧
      getF t fSEC_CTL_SVN_COMMIT = 0 ∧ getF t fSEC_CTL_REVOKE0 = 0 ∧
      getF t fSEC_STAT_SVN_FUSE = (if getF s fSEC_CTL_SVN_COMMIT = 1 then getF s fSEC_STAT_SVN_IMG
        else getF s fSEC_STAT_SVN_FUSE) ∧
      (getF t fSEC_STAT_REVOKE).testBit 0 = ((getF s fSEC_STAT_REVOKE).testBit 0 || getF s fSEC_CTL_REVOKE0 == 1))) ∧
  (∀ (k : Fin 4) (a : Word) (s : State), ∃ t, exec (.fatalError k a) s = .next t ∧ getF t fDEV_ERR_FATAL = 1 ∧
    getF t fDEV_ERR_UNIT = k.val ∧ t.ringStop = true ∧ t.aer = true ∧ t.mem = s.mem ∧ t.evtHeld = s.evtHeld ∧
    t.hostTx = s.hostTx) ∧
  (∀ (m d : BitVec 8) (s : State), let o := 0x890000 + 8 * d.toNat
    HostPath s m o →
    (nodeExists d.toNat = false → exec (.aclLock m d) s = .next (hostBack m o s)) ∧
    (nodeExists d.toNat = true → getF s (fACL_CTL_LOCK d.toNat) = 1 →
      exec (.aclLock m d) s = .next (hostBack m o (setF (fACL_CTL_LOCK_REJ d.toNat) 1 s))) ∧
    (nodeExists d.toNat = true → getF s (fACL_CTL_LOCK d.toNat) = 0 →
      exec (.aclLock m d) s = .next (hostBack m o (setF (fACL_CTL_LOCK d.toNat) 1 s))))
namespace Sys2Proof.Claims

/-! ### Resets, partitions, boot and supplies -/

/-- A partition reset as R600 has it: the fields keep PE rows, their sequencers start over, the master's core halts. -/
def PartReset (s t : State) (n : Nat) (p : Part) : Prop :=
  (getCore t n).state = .halted ∧ t.mem = s.mem ∧ ∀ f ∈ partFields (n, p),
    (getSeq t f).state = (if f = n then .idle else .follower) ∧ (getField t f).rows = (getField s f).rows ∧
    (getField t f).rowErr = (getField s f).rowErr ∧ getF t (fRESUME0_VALID f) = 0
/-- What a refused command of a block's register leaves: REJ and WHY. -/
def partRej (w : Nat) (s : State) : State := setFs [(fPART_STAT_REJ, 1), (fPART_STAT_WHY, w)] s

end Sys2Proof.Claims

/-- R286, R287, R600 to R602. `Numbered` is an invariant that `StepKeepsTheState` states.
Beside the rules it rests on the model's own choices of the log: entries 47, 48, 144. -/
def Obligations.PartitionCommands : Prop :=
  (∀ (m : BitVec 8) (f : Fin 64) (w h : Fin 4) (fn : Fin 64) (s : State), HostPath s m 0x40000 →
    let p : Part := ⟨w, h, fn⟩
    let fs := partFields (f.val, p)
    let why := if getF s fPART_STAT_BUSY = 1 then 7 else if getF s (fFUNC_STAT_ENABLED fn) = 0 then 6
      else if fcol f % 2 ^ w.val ≠ 0 ∨ frow f % 2 ^ h.val ≠ 0 then 1
      else if ∃ g ∈ fs, (partOf s g).isSome then 2 else if ∃ g ∈ fs, (getCore s g).state ≠ .halted then 3
      else if rectInvolved s fs = true ∨ wpInvolves s fs = true then 5 else 0
    (why ≠ 0 → exec (.partitionDefine m f w h fn) s = .next (hostBack m 0x40000 (partRej why s))) ∧
    (why = 0 → exec (.partitionDefine m f w h fn) s = .next (hostBack m 0x40000
      (setF fPART_STAT_BUSY 1 { s with partCmd := some ⟨1, f, p, false⟩ })))) ∧
  (∀ (m : BitVec 8) (f : Fin 64) (s : State), HostPath s m 0x40000 →
    (getF s fPART_STAT_BUSY = 1 → ∀ c ∈ [Instr.partitionRemove m f, Instr.partitionReset m f],
      exec c s = .next (hostBack m 0x40000 (partRej 7 s))) ∧
    (getF s fPART_STAT_BUSY = 0 → partAt s f = none → ∀ c ∈ [Instr.partitionRemove m f, Instr.partitionReset m f],
      exec c s = .next (hostBack m 0x40000 (partRej 4 s))) ∧
    (∀ p, getF s fPART_STAT_BUSY = 0 → partAt s f = some p →
      let fs := partFields (f.val, p)
      let why := if (getCore s f).state ≠ .halted then 3
        else if rectInvolved s fs = true ∨ wpInvolves s fs = true ∨ launchPending s f = true then 5 else 0
      (why ≠ 0 → exec (.partitionRemove m f) s = .next (hostBack m 0x40000 (partRej why s))) ∧
      (why = 0 → ∃ u, exec (.partitionRemove m f) s = .next (hostBack m 0x40000 u) ∧ getF u fPART_STAT_BUSY = 1 ∧
        u.partCmd = some ⟨2, f, p, true⟩ ∧ PartReset s u f p) ∧
      (involved s f = true → exec (.partitionReset m f) s = .next (hostBack m 0x40000
        (setF fPART_STAT_BUSY 1 { s with partCmd := some ⟨3, f, p, false⟩ }))) ∧
      (involved s f = false → s.Numbered → ∃ u, exec (.partitionReset m f) s = .next (hostBack m 0x40000 u) ∧
        getF u fPART_STAT_BUSY = 1 ∧ u.partCmd = some ⟨3, f, p, true⟩ ∧ PartReset s u f p))) ∧
  (∀ (s : State) (c : PartCmd), s.partCmd = some c → s.Numbered →
    (c.op = 1 → ∃ t, exec .partCmdDone s = .next t ∧ t.partCmd = none ∧ getF t fPART_STAT_BUSY = 0 ∧
      partAt t c.master = some c.part ∧ PartReset s t c.master c.part) ∧
    (c.op = 2 → ∃ t, exec .partCmdDone s = .next t ∧ t.partCmd = none ∧ getF t fPART_STAT_BUSY = 0 ∧
      partAt t c.master = none ∧ t.mem = s.mem ∧
      ∀ f ∈ partFields (c.master, c.part), (getSeq t f).state = .unassigned) ∧
    (c.op = 3 → exec .partCmdDone s = .next (if c.acted then setF fPART_STAT_BUSY 0 { s with partCmd := none } else s))) ∧
  (∀ (m : BitVec 8) (d : Fin 64) (s : State), HostPath s m 0x42018 →
    let why := if 40 < d.val then 1
      else if getF s (fPWR_DOM_STATE d) ≠ 0 ∨ (getDom s d).trans.isSome ∨ (getDom s d).slot.isSome then 2
      else if d.val < 16 ∧ ∃ f ∈ quadFields d, (partOf s f).isSome then 3
      else if ∃ j ∈ domLinks d, getF s (fLINK_CTL_ENABLE j) = 1 then 4
      else if 20 ≤ d.val ∧ d.val < 28 ∧ ∃ j ∈ s.jobs, j.op = 7 ∧ j.phase = .running ∧ ldStrip j = d.val - 20 then 5
      else if getF s fDOM_RST_BUSY = 1 then 6 else 0
    ∃ u, exec (.domainReset m d) s = .next (hostBack m 0x42018 u) ∧ u.mem = s.mem ∧
      (why ≠ 0 → getF u fDOM_RST_REJ = 1 ∧ getF u fDOM_RST_WHY = why ∧ u.doms = s.doms ∧ u.seqs = s.seqs) ∧
      (why = 0 → getF u fDOM_RST_BUSY = 1 ∧ getF u fDOM_RST_DOMAIN = d.val ∧ u.rstDom = d.val ∧
        (getDom u d).trans = some ⟨0, 0, .none, 0, [], true, true⟩ ∧
        (d.val < 16 → ∀ n ∈ quadFields d, getSeq u n = MSeq.reset ∧ getCore u n = resetCore (getCore s n)) ∧
        (28 ≤ d.val → d.val < 37 → ∀ j ∈ domLinks d, getLink u j = Link.reset ∧ getF u (fLINK_STAT_STATE j) = 0))) ∧
  (∀ s : State, getF s fDOM_RST_BUSY = 1 → let d := s.rstDom
    (20 ≤ d ∧ d < 28 → resetReaches s (d - 20) ≠ [] → exec .domainResetDone s = .next s) ∧
    ((20 ≤ d → d < 28 → resetReaches s (d - 20) = []) → (getDom s d).slot = none → ∃ t,
      exec .domainResetDone s = .next t ∧ getF t fDOM_RST_BUSY = 0 ∧ getF t fDOM_RST_GO = 0 ∧ (getDom t d).trans = none ∧
      t.mem = s.mem))

/-- R597 to R599, R603, R580, R631, R632, R634, R635.
Beside the rules it rests on the model's own choices of the log: entries 6, 118, 119, 120. -/
def Obligations.ResetsBootAndSupplies : Prop :=
  (∀ (b : Bool) (s : State), ∃ t, exec (.pwrGoodFall b) s = .next t ∧ t.mem = [] ∧ t.parts = [] ∧ t.jobs = [] ∧
    getF t fBOOT_STAT_STEP = 0 ∧ getF t fWAKE_CAUSE_SRC = getF s fWAKE_CAUSE_SRC ∧
    getF t fAON_TIMER_COMPARE = getF s fAON_TIMER_COMPARE ∧ getF t fRST_CAUSE_CAUSE = 1 ∧ t.avs.vt = 800 ∧
    t.hostTx = s.hostTx ∧ t.flash.rec0 = s.flash.rec0 ∧ t.pwrLow = true ∧ t.offNow = s.offNow ∧
    getF t fSEC_STAT_SVN_FUSE = (if b = true ∧ getF s fSEC_CTL_SVN_COMMIT = 1 then getF s fSEC_STAT_SVN_IMG
      else getF s fSEC_STAT_SVN_FUSE)) ∧
  (∀ s : State, ∃ t, exec .aonPowerUp s = .next t ∧ t.mem = [] ∧ t.parts = [] ∧ t.ticks = 0 ∧ t.offNow = false ∧
    getF t fWAKE_CAUSE_SRC = 0 ∧ getF t fWAKE_EN_WAKEN = 1 ∧ getF t fAON_TIMER_COMPARE = 0 ∧
    getF t fSEC_STAT_SVN_FUSE = getF s fSEC_STAT_SVN_FUSE) ∧
  (∀ s : State, (s.offNow = true ∨ s.warmWait = true ∨ getF s fBOOT_STAT_STEP = 0 → exec .perstNFall s = .next s) ∧
    (s.offNow = false → s.warmWait = false → getF s fBOOT_STAT_STEP ≠ 0 →
      (s.avs.vt = 800 → s.avs.pend = none → ∃ t, exec .perstNFall s = .next t ∧
        (s.borrow = [] → t.mem = s.mem ∧ t.alm = s.alm) ∧
        t.jobs = [] ∧ t.parts = [] ∧ getF t fRST_CAUSE_CAUSE = 2 ∧
        getF t fRST_CAUSE_WARM_CNT = (getF s fRST_CAUSE_WARM_CNT + 1) % 2 ^ 16 ∧ getF t fBOOT_STAT_STEP = 0 ∧
        (∀ d < 41, getF t (fPWR_DOM_STATE d) = 3) ∧ ∀ n < 64, (getCore t n).imem = (getCore s n).imem ∧
          (getCore t n).state = .halted) ∧
      (s.avs.vt ≠ 800 ∨ s.avs.pend ≠ none → ∃ t, exec .perstNFall s = .next t ∧ t.warmWait = true ∧
        getF t fBOOT_STAT_STEP = 0 ∧ t.jobs = [] ∧ (s.borrow = [] → t.mem = s.mem)))) ∧
  (∀ s : State, (s.tap.balls ≠ 0 → exec .bootStart s = .next s) ∧
    (s.tap.balls = 0 → s.offNow = false → s.warmWait = false → getF s fBOOT_STAT_STEP = 0 → exec .bootStart s =
      .next (if getF s fRST_CAUSE_CAUSE = 2 then setF fBOOT_STAT_STEP 2 s
        else setF fBOOT_STAT_STEP 1 { s with pwrLow := false })) ∧
    (s.tap.balls = 0 → s.offNow = false → (s.warmWait = true ∨ getF s fBOOT_STAT_STEP ≠ 0) →
      exec .bootStart s = .next s) ∧
    (s.tap.balls = 0 → s.offNow = true → (s.offWake = false → s.pwrLow = false → exec .bootStart s = .next s) ∧
      (s.offWake = true ∨ s.pwrLow = true → ∃ t, exec .bootStart s = .next t ∧ t.offNow = false ∧
        getF t fRST_CAUSE_CAUSE = (if s.offWake then 3 else 1) ∧
        getF t fBOOT_STAT_STEP = 1 ∧ t.mem = [] ∧ getF t fWAKE_CAUSE_FROM_OFF = getF s fWAKE_CAUSE_FROM_OFF))) ∧
  (∀ (o : BootObs) (s : State), getF s fBOOT_STAT_FAILED = 0 → let k := getF s fBOOT_STAT_STEP
    ∃ t, exec (.bootStepDone o) s = .next t ∧ t.mem = s.mem ∧
      (k = 1 → getF t fBOOT_STAT_STEP = (if s.tap.balls = 0 then 2 else 1)) ∧
      (k ∈ [4, 5, 6, 7, 8] → getF t fBOOT_STAT_STEP = k + 1 ∧ getF t fBOOT_STAT_FAILED = 0) ∧
      (k = 2 → (o.pll = true → getF t fBOOT_STAT_STEP = 3) ∧
        (o.pll = false → getF t fBOOT_STAT_FAILED = 1 ∧ getF t fBOOT_STAT_FAIL_WHY = 2 ∧ getF t fBOOT_STAT_STEP = 2)) ∧
      (k = 3 → let fl := o.flash.getD s.flash
        let good (x : Bool) : Bool := slotValid s (flashImg (if x then fl.b else fl.a))
        let p := preferredSlot fl
        if good p = true ∨ good (!p) = true then getF t fBOOT_STAT_STEP = 4 ∧ getF t fSEC_STAT_FALLBACK = b2n (!good p) ∧
          getF t fFW_CTL_ACTIVE = b2n (if good p then p else !p)
        else getF t fBOOT_STAT_FAILED = 1 ∧ getF t fBOOT_STAT_FAIL_WHY = 1) ∧
      (k = 4 → getF t fSEC_STAT_ID_OK = b2n (identityGood (certRegion s))) ∧
      (k = 5 → ∀ d < 41, getF t (fPWR_DOM_BIAS d) ≤ 100 ∧ getF t (fPWR_DOM_BIAS d) % 4 = 0) ∧
      (k = 6 → ∀ i < 4, getF t (fHBM_STAT_READY i) = (if o.hbmFail.getLsbD i then 0 else 1) ∧
        (o.hbmFail.getLsbD i = true → getF t (fHBM_STAT_FAILED i) = 1)) ∧
      (k = 7 → getF t (fFUNC_STAT_ENABLED 0) = 1 ∧ t.pcie.mps = 128 * 2 ^ o.cfg.mps.val ∧
        t.pcie.mrrs = 128 * 2 ^ o.cfg.mrrs.val ∧ t.pcie.ctoOff = o.cfg.ctoOff ∧ t.pcie.bars = o.cfg.bars) ∧
      (k = 8 → getF t fBOOT_STAT_DONE = 1 ∧ getF t fBOOT_STAT_BOOT_MS = o.ms.toNat ∧
        ∀ d < 41, getF t (fPWR_DOM_STATE d) = 3)) ∧
  (∀ (mv : Fin 1024) (s : State), 2 ≤ getF s fBOOT_STAT_STEP ∨ s.warmWait = true →
    exec (.avsWrite mv) s = .next (if s.avs.pend = none ∧ 650 ≤ mv.val ∧ mv.val ≤ 850 ∧ mv.val ≤ s.avs.vt + 10 ∧
        s.avs.vt ≤ mv.val + 10 ∧ (s.warmWait = true →
          (s.avs.vt ≤ mv.val ∧ mv.val ≤ 800) ∨ (800 ≤ mv.val ∧ mv.val ≤ s.avs.vt)) then
      { s with avs := { s.avs with pend := some mv.val, sent := s.avs.sent ++ [mv.val] } } else s)) ∧
  (∀ (s : State) (v : Nat), s.avs.pend = some v →
    exec .avsRetry s = .next { s with avs := { s.avs with sent := s.avs.sent ++ [v] } } ∧
    (s.warmWait = false ∨ v ≠ 800 → exec .avsAck s = .next { s with avs := { s.avs with vt := v, pend := none } }) ∧
    (s.warmWait = true → v = 800 → ∃ t, exec .avsAck s = .next t ∧ t.warmWait = false ∧ t.mem = s.mem ∧
      getF t fRST_CAUSE_CAUSE = 2)) ∧
  (∀ (g : Fin 8) (high : Bool) (s : State), ∃ t, exec (.vddGpioRise g high) s = .next t ∧ t.regs = s.regs ∧
    t.mem = s.mem ∧ tlook t.gpioV g = some (if high then 2 else 1))
namespace Sys2Proof.Claims

/-! ### Test access, debug and identity -/

/-- The SPDM responder sends message m on transport t, and nothing else changes. -/
def sends (t : Fin 2) (m : SpdmMsg) (s : State) : State := { s with spdmTx := s.spdmTx ++ [(t.val, m)] }
/-- It sends m, and its connection on t stands at k. -/
def opens (t : Fin 2) (k : Nat) (m : SpdmMsg) (s : State) : State := sends t m { s with spdm := tset 0 s.spdm t.val k }
/-- What the TAP holds after an instruction that takes the balls as k, if scan may; else bypass. -/
def tapTakes (code : BitVec 8) (k : Nat) (dr bsr : List Bool) (s : State) : State :=
  { s with tap := if scanAllowed s then ⟨code, dr, bsr, k⟩ else ⟨code, [false], s.tap.bsr, 0⟩ }

end Sys2Proof.Claims

/-- R614, R616, R617, R589 to R591, R586, R588, R577, R585. The order of SPDM requests and the error codes are the model's
(log entry 123); nonces and signatures are free values.
Beside the rules it rests on the model's own choices of the log: entries 121, 122, 123, 124, 125. -/
def Obligations.TestAccessAndIdentity : Prop :=
  (∀ (cells upd : List Bool) (s : State),
    exec .tapReset s = .next { s with tap := { s.tap with ir := 2, balls := 0 } } ∧
    exec (.extest cells upd) s = .next (tapTakes 0x00 1 cells upd s) ∧
    exec (.extestPulse cells upd) s = .next (tapTakes 0x05 4 cells upd s) ∧
    exec (.extestTrain cells upd) s = .next (tapTakes 0x06 5 cells upd s) ∧
    exec .highz s = .next (tapTakes 0x03 2 [false] s.tap.bsr s) ∧
    exec .clamp s = .next (tapTakes 0x04 3 [false] s.tap.bsr s) ∧
    exec (.samplePreload cells upd) s = .next { s with tap := ⟨0x01, cells, upd, 0⟩ } ∧
    exec .bypass s = .next { s with tap := ⟨0xFF, [false], s.tap.bsr, 0⟩ } ∧
    exec .idcode s = .next { s with tap := ⟨0x02, bitList 32 0x11024D6B, s.tap.bsr, 0⟩ } ∧
    exec .dbgStat s = .next { s with tap := ⟨0x13, bitList 32 (getF s fSEC_STAT_DBG_LEVEL +
      getF s fSEC_STAT_DBG_FAIL * 4 + getF s fSEC_STAT_ID_OK * 16), s.tap.bsr, 0⟩ }) ∧
  (∀ s : State, (mcRuns s = false → exec .dbgChal s = .next { s with tap := ⟨0x10, [false], s.tap.bsr, 0⟩ }) ∧
    (mcRuns s = true → ∃ t v, exec .dbgChal s = .next t ∧ t.nonce = some v ∧ t.regs = s.regs ∧ t.mem = s.mem ∧
      t.tap.dr = bitList 384 v.toNat ++ bitList 128 Config.serial.toNat)) ∧
  (∀ (v : BitVec 1560) (s : State),
    (mcRuns s = false ∨ s.dbgShut = true →
      exec (.dbgResp v) s = .next { s with tap := ⟨0x11, [], s.tap.bsr, 0⟩ }) ∧
    (mcRuns s = true → s.dbgShut = false → ∃ t, exec (.dbgResp v) s = .next t ∧ t.nonce = none ∧ t.mem = s.mem ∧
      (let good : Bool := s.nonce.any fun k => responseGood k v.toNat
       getF t fSEC_STAT_DBG_LEVEL = (if good then v.toNat % 256 else getF s fSEC_STAT_DBG_LEVEL) ∧
       getF t fSEC_STAT_DBG_FAIL = min (getF s fSEC_STAT_DBG_FAIL + b2n (!good)) 3 ∧
       t.dbgShut = (!good && decide (2 ≤ getF s fSEC_STAT_DBG_FAIL)) ∧
       getF t fSEC_STAT_LODESTAR_OFF = (if good ∧ v.toNat % 256 = 3 then 1 else getF s fSEC_STAT_LODESTAR_OFF)))) ∧
  (∀ (v : BitVec 128) (s : State), ∃ t, exec (.dbgAcc v) s = .next t ∧ t.tap.ir = 0x12 ∧ t.tap.dr = dbgCapture s ∧
    t.regs = s.regs ∧ t.mem = s.mem ∧
    (s.dbg.busy ≠ none ∨ mcRuns s = false → t.dbg = s.dbg) ∧
    (s.dbg.busy = none → mcRuns s = true →
      t.dbg = if getF s fSEC_STAT_DBG_LEVEL = 0 ∨ (getF s fSEC_STAT_DBG_LEVEL = 1 ∧ v.getLsbD 48 = true) then ⟨none, 1, 0⟩
        else { s.dbg with busy := some (v.toNat / 8 % 2 ^ 45 * 8, v.getLsbD 48, (v >>> 56).setWidth 8, (v >>> 64).setWidth 64) })) ∧
  (∀ (s : State) (a : Nat) (wr : Bool) (be : BitVec 8) (v : Word), s.dbg.busy = some (a, wr, be, v) →
    (locate a = none → ∃ t, exec .dbgAccDone s = .next t ∧ t.dbg = ⟨none, 3, 0⟩ ∧ t.mem = s.mem) ∧
    (∀ st d po u, dbgAccess a wr be v s = (.done st d po, u) → exec .dbgAccDone s =
      .next { u with dbg := ⟨none, st, if wr then 0 else BitVec.ofNat 64 (leNum d)⟩ }) ∧
    (∀ u, dbgAccess a wr be v s = (.wait, u) → exec .dbgAccDone s = .next u)) ∧
  (∀ (t : Fin 2) (e : BitVec 8) (s : State), (mctpUp s t = false → exec (.setEndpointId t e) s = .next s) ∧
    (mctpUp s t = true → exec (.setEndpointId t e) s = .next (if e = 0 ∨ e = 0xFF then
        sends t (.endpointId (tget 0 s.eids t.val)) s
      else sends t (.endpointId e.toNat) { s with eids := tset 0 s.eids t.val e.toNat }))) ∧
  (∀ (t : Fin 2) (o sg : Bool) (slot x op : BitVec 8) (off len : BitVec 16) (s : State),
    (spdmUp s t = false → ∀ c ∈ [Instr.getVersion t, .getCapabilities t, .negotiateAlgorithms t o, .getDigests t,
        .getCertificate t slot off len, .challenge t slot x, .getMeasurements t op sg, .spdmUnsupported t, .spdmBusy t],
      exec c s = .next s) ∧
    (spdmUp s t = true →
      let k := tget 0 s.spdm t.val
      exec (.getVersion t) s = .next (opens t 1 .version s) ∧
      exec (.getCapabilities t) s = .next (if k = 1 then opens t 2 .capabilities s else sends t (.error 4) s) ∧
      exec (.negotiateAlgorithms t o) s = .next (if k ≠ 2 then sends t (.error 4) s
        else if o then opens t 3 .algorithms s else sends t (.error 1) s) ∧
      exec (.spdmUnsupported t) s = .next (sends t (.error 7) s) ∧
      exec (.spdmBusy t) s = .next (sends t (.error 3) s) ∧
      (k < 3 → digestWaits s = false → ∀ c ∈ [Instr.getDigests t, .getCertificate t slot off len, .challenge t slot x,
        .getMeasurements t op sg], exec c s = .next (sends t (.error 4) s)) ∧
      (3 ≤ k → getF s fSEC_STAT_ID_OK = 0 → digestWaits s = false → ∀ c ∈ [Instr.getDigests t,
        .getCertificate t slot off len, .challenge t slot x, .getMeasurements t op true],
        exec c s = .next (sends t (.error 5) s)) ∧
      (3 ≤ k → getF s fSEC_STAT_ID_OK = 1 →
        exec (.getDigests t) s = .next (sends t (.digests (sha384 (certChain s))) s) ∧
        exec (.getCertificate t slot off len) s = .next (if slot ≠ 0 ∨ (certChain s).length ≤ off.toNat then
            sends t (.error 1) s
          else sends t (.certificate (((certChain s).drop off.toNat).take len.toNat)
            ((certChain s).length - off.toNat - len.toNat)) s) ∧
        (getF s fSEC_STAT_LODESTAR_OFF = 0 → slot = 0 → x = 0 → ∃ n g, exec (.challenge t slot x) s =
          .next (sends t (.challengeAuth (sha384 (certChain s)) n [] g) { s with fresh := s.fresh + 3 }))) ∧
      (3 ≤ k → ∃ n, exec (.getMeasurements t 0 false) s =
        .next (sends t (.measurements 142 [] n none) { s with fresh := s.fresh + 3 })) ∧
      (3 ≤ k → op ≠ 0 → op ≠ 0xFF → digestWaits s = false →
        (op.toNat ∉ measureIndices → exec (.getMeasurements t op false) s = .next (sends t (.error 1) s)) ∧
        (op.toNat ∈ measureIndices → ∃ n, exec (.getMeasurements t op false) s =
          .next (sends t (.measurements 1 [measurement s op.toNat] n none) { s with fresh := s.fresh + 3 })))))
namespace Sys2Proof.Claims

/-! ### The machine -/

/-- Register fields whose reset value the spec's tables give as other than 0, with that value, for instances i and k. -/
def resetTable (i k : Nat) : List (Fld × Nat) :=
  [(fSLICE_SEL_ALL i, 1), (fHOT_CFG_SHARE, 8), (fHOT_CFG_RUN, 100), (fNOC_TMO_TIMEOUT, 262144), (fNOC_TMO_RETRY_LIM, 64),
   (fNOC_TMO_RETRY_GAP, 512), (fLINK_CTL_CHK_PEER k, 1), (fLINK_CTL_AUTO_RT k, 1), (fLINK_CTL_MIN_LANES k, 16),
   (fLINK_CTL_REV_US k, 20), (fLINK_CTL_CE_THR k, 16), (fLINK_CTL_TUN_WAIT k, 1000), (fLINK_CTL_UE_THR k, 4),
   (fBAR_CFG_SKEW, 8000), (fWATCH_MODE_DONE_REQ i, 1), (fPWR_CFG_DRAIN_QUIET, 32), (fPWR_CFG_DRAIN_MAX, 100),
   (fGOV_CTL_GOV_EN, 1), (fGOV_CTL_PLIM, 880), (fGOV_CTL_TLIM, 110), (fWAKE_EN_WAKEN, 1), (fWAKE_EN_PCIE, 0),
   (fRST_CAUSE_CAUSE, 1), (fBOOT_STAT_STEP, 0), (fBOOT_STAT_DONE, 0), (fDEV_ERR_FATAL, 0), (fPWR_DOM_STATE k, 3)]

end Sys2Proof.Claims

/-- A block's queue of commands is first in, first out. The tick on an empty queue is the model's choice (log entry
2), at the clock rates of R5 and R462; the Meridian counter is held while the part is Off, and until boot begins after
power-on (log entries 95, 179).
Beside the rules it rests on the model's own choices of the log: entries 1, 2, 95, 179. -/
def Obligations.QueueOrder : Prop :=
  (∀ (c : Instr) (rest : List Instr) (s : State), s.pending = c :: rest → step s = exec c { s with pending := rest }) ∧
  (∀ s : State, s.pending = [] → step s = .next { s with
    ticks := s.ticks + 1
    mer := if (s.ticks + 1) % 39 = 0 ∧ s.offNow = false ∧
        ¬ (getF s fBOOT_STAT_STEP = 0 ∧ getF s fRST_CAUSE_CAUSE ≠ 2 ∧ s.warmWait = false) then s.mer + s.merInc
      else s.mer })

/-- The reset values of the register tables, R289 for the cores, R106 for the micro-sequencers.
Beside the rules it rests on the model's own choices of the log: entries 6, 9. -/
def Obligations.ResetState : Prop :=
  State.reset.memOk ∧ State.reset.Numbered ∧ State.reset.pending = [] ∧ State.reset.parts = [] ∧ State.reset.jobs = [] ∧
  State.reset.offNow = false ∧
  (∀ n < 64, (getCore State.reset n).state = .halted ∧ (getSeq State.reset n).state = .unassigned ∧
    partOf State.reset n = none) ∧
  (∀ d < 41, getDom State.reset d = Dom.reset) ∧
  (∀ a, memByte State.reset a = 0) ∧
  (∀ i < 64, ∀ k < 10, ∀ e ∈ resetTable i k, getF State.reset e.1 = e.2)

/-- The invariant behind the statements over every state; the canonical form is the model's (log entry 8).
Beside the rules it rests on the model's own choices of the log: entries 6, 8, 126. -/
def Obligations.StepKeepsTheState : Prop :=
  (∀ (c : Instr) (s : State), s.memOk → s.Numbered → ∃ t, exec c s = .next t ∧ t.memOk ∧ t.Numbered) ∧
  (∀ s : State, s.memOk → s.Numbered → ∃ t, step s = .next t ∧ t.memOk ∧ t.Numbered)
end

