-- ==== Sys2Proof/Laws/Codec.lean ====
section
/-! SUPPORT. The line code of a fleet link: an undisturbed word is decoded as it was encoded. -/
namespace Sys2Proof.Machine
open Sys2Proof

/-- A low part of b bits beside a high part of a bits. -/
theorem beside_lt {x p a b : Nat} (hx : x < 2 ^ b) (hp : p < 2 ^ a) : x + p * 2 ^ b < 2 ^ (a + b) :=
  calc x + p * 2 ^ b < 2 ^ b + p * 2 ^ b := Nat.add_lt_add_right hx _
    _ = (p + 1) * 2 ^ b := by rw [Nat.add_mul, Nat.one_mul, Nat.add_comm]
    _ ≤ 2 ^ a * 2 ^ b := Nat.mul_le_mul_right _ hp
    _ = 2 ^ (a + b) := (Nat.pow_add 2 a b).symm

/-- Fields side by side stay within their bits. -/
theorem packed_lt (w : Nat) (l : List Nat) : packed w l < 2 ^ (w * l.length) := by
  induction l with
  | nil => simp [packed]
  | cons x t ih =>
    simp only [packed, List.length_cons, Nat.mul_add, Nat.mul_one]
    exact beside_lt (Nat.mod_lt x (Nat.two_pow_pos w)) ih

/-- There are 30 check symbols. -/
theorem rsCheck_length (msg : List Nat) : (rsCheck msg).length = 30 := by
  have taps : rsGenerator.length = 31 := by decide +kernel
  unfold rsCheck
  refine List.foldlRecOn (motive := fun (r : List Nat) => r.length = 30) msg _ (by simp) fun reg h m _ => ?_
  simp [h, taps]

/-- A code word has 5,440 bits. -/
theorem rsEncode_lt {m : Nat} (h : m < 2 ^ 5140) : rsEncode m < 2 ^ 5440 := by
  have p := packed_lt 10 (rsCheck (symbols 514 m))
  rw [rsCheck_length] at p
  exact beside_lt (a := 300) h p

/-- The first 5,140 bits of a code word are its message. -/
theorem bits_rsEncode {m : Nat} (h : m < 2 ^ 5140) : bits (rsEncode m) 0 5140 = m := by
  simp only [bits, rsEncode, Nat.pow_zero, Nat.div_one, Nat.add_mul_mod_self_right]
  exact Nat.mod_eq_of_lt h

/-- A word that is the code word of its own message bits is decoded with no symbol corrected. -/
theorem rsDecode_eq {w : Nat} (h : rsEncode (bits w 0 5140) = w) : rsDecode w = some (bits w 0 5140, 0) := by
  unfold rsDecode
  exact if_pos h
theorem rsDecode_rsEncode {m : Nat} (h : m < 2 ^ 5140) : rsDecode (rsEncode m) = some (m, 0) := by
  rw [rsDecode_eq (by rw [bits_rsEncode h]), bits_rsEncode h]

/-- A scrambled message keeps its length. -/
theorem scramble_lt (past m : Nat) : scramble past m < 2 ^ 5140 := Nat.mod_lt _ (Nat.two_pow_pos _)
/-- What a lane makes of a word that can be decoded. -/
theorem laneDecode_eq {w v n : Nat} (rx past : Nat) (h : rsDecode w = some (v, n)) :
    laneDecode rx past w = ((messageOf rx (descramble past v)).map fun c => (c, n), scrPast v) := by
  unfold laneDecode
  rw [h]
  rfl
/-- What a lane makes of a codeword. -/
theorem laneEncode_eq (past : Nat) (c : Codeword) : laneEncode past c =
    (rsEncode (scramble past (messageBits c)), scrPast (scramble past (messageBits c))) := rfl
/-- A code word survives as 5,440 bits. -/
theorem toNat_rsEncode {m : Nat} (h : m < 2 ^ 5140) : (BitVec.ofNat 5440 (rsEncode m)).toNat = rsEncode m := by
  rw [BitVec.toNat_ofNat]
  exact Nat.mod_eq_of_lt (rsEncode_lt h)
/-- A word that arrives as it left a lane brings the message that was sent, with no symbol corrected. -/
theorem laneDecode_laneEncode (rx past : Nat) (c : Codeword) :
    laneDecode rx past (BitVec.ofNat 5440 (laneEncode past c).1).toNat =
      ((messageOf rx (descramble past (scramble past (messageBits c)))).map fun c => (c, 0), (laneEncode past c).2) := by
  have h := scramble_lt past (messageBits c)
  rw [laneEncode_eq, toNat_rsEncode h, laneDecode_eq rx past (rsDecode_rsEncode h)]

end Sys2Proof.Machine
end

