-- ==== Sys2Proof/Laws/Map.lean ====
section
/-! SUPPORT. Sparse tables: what a look-up finds after an update, and that the updates keep the canonical form. -/
namespace Sys2Proof.Machine
open Sys2Proof

variable {α : Type}

/-! ### Look-ups -/

@[simp] theorem tlook_nil (k : Nat) : tlook ([] : Tbl α) k = none := rfl
@[simp] theorem tget_nil (d : α) (k : Nat) : tget d ([] : Tbl α) k = d := rfl

@[simp] theorem tlook_tput_same (m : Tbl α) (k : Nat) (v : α) : tlook (tput m k v) k = some v := by
  induction m with
  | nil => simp [tput, tlook]
  | cons e t ih =>
    obtain ⟨j, u⟩ := e
    simp only [tput]
    split
    · simp [tlook]
    · split
      · simp [tlook]
      · rename_i h1 h2
        simp [tlook, ih, Ne.symm h2]

theorem tlook_tput_other (m : Tbl α) {k j : Nat} (v : α) (h : j ≠ k) : tlook (tput m k v) j = tlook m j := by
  induction m with
  | nil => simp [tput, tlook, Ne.symm h]
  | cons e t ih =>
    obtain ⟨i, u⟩ := e
    simp only [tput]
    split
    · simp [tlook, Ne.symm h]
    · split
      · rename_i h1 h2
        subst h2
        simp [tlook, Ne.symm h]
      · simp only [tlook, ih]

@[simp] theorem tlook_terase_same (m : Tbl α) (k : Nat) : tlook (terase m k) k = none := by
  induction m with
  | nil => rfl
  | cons e t ih =>
    obtain ⟨j, u⟩ := e
    simp only [terase]
    split
    · exact ih
    · rename_i h
      simp [tlook, h, ih]

theorem tlook_terase_other (m : Tbl α) {k j : Nat} (h : j ≠ k) : tlook (terase m k) j = tlook m j := by
  induction m with
  | nil => rfl
  | cons e t ih =>
    obtain ⟨i, u⟩ := e
    simp only [terase]
    split
    · rename_i hi
      subst hi
      rw [ih]
      simp [tlook, Ne.symm h]
    · simp only [tlook, ih]

@[simp] theorem tget_tset_same [DecidableEq α] (d : α) (m : Tbl α) (k : Nat) (v : α) : tget d (tset d m k v) k = v := by
  unfold tget tset
  split
  · rename_i h
    simp [h]
  · simp

theorem tlook_tset_other [DecidableEq α] (d : α) (m : Tbl α) {k j : Nat} (v : α) (h : j ≠ k) :
    tlook (tset d m k v) j = tlook m j := by
  unfold tset
  split
  · exact tlook_terase_other m h
  · exact tlook_tput_other m v h

theorem tget_tset_other [DecidableEq α] (d : α) (m : Tbl α) {k j : Nat} (v : α) (h : j ≠ k) :
    tget d (tset d m k v) j = tget d m j := by
  unfold tget
  rw [tlook_tset_other d m v h]

/-- Two updates of one table at different keys, read back. -/
theorem tget_tset [DecidableEq α] (d : α) (m : Tbl α) (k j : Nat) (v : α) :
    tget d (tset d m k v) j = if j = k then v else tget d m j := by
  split
  · rename_i h
    subst h
    simp
  · exact tget_tset_other d m v ‹_›

/-! ### Canonical form -/

theorem tsorted_cons {e : Nat × α} {t : Tbl α} :
    tsorted (e :: t) = true ↔ (∀ x ∈ t, e.1 < x.1) ∧ tsorted t = true := by
  induction t generalizing e with
  | nil => simp [tsorted]
  | cons f t ih =>
    obtain ⟨j, u⟩ := e
    obtain ⟨k, v⟩ := f
    simp only [tsorted, Bool.and_eq_true, decide_eq_true_eq, List.mem_cons, forall_eq_or_imp]
    constructor
    · rintro ⟨h, hs⟩
      refine ⟨⟨h, fun x hx => ?_⟩, hs⟩
      exact Nat.lt_trans h ((ih.mp hs).1 x hx)
    · rintro ⟨⟨h, -⟩, hs⟩
      exact ⟨h, hs⟩

theorem mem_terase {m : Tbl α} {k : Nat} {x : Nat × α} (h : x ∈ terase m k) : x ∈ m := by
  induction m with
  | nil => exact h
  | cons e t ih =>
    obtain ⟨j, u⟩ := e
    simp only [terase] at h
    split at h
    · exact List.mem_cons_of_mem _ (ih h)
    · rcases List.mem_cons.mp h with rfl | h
      · exact List.mem_cons_self
      · exact List.mem_cons_of_mem _ (ih h)

theorem mem_tput {m : Tbl α} {k : Nat} {v : α} {x : Nat × α} (h : x ∈ tput m k v) : x = (k, v) ∨ x ∈ m := by
  induction m with
  | nil => simpa [tput] using h
  | cons e t ih =>
    obtain ⟨j, u⟩ := e
    simp only [tput] at h
    split at h
    · rcases List.mem_cons.mp h with rfl | h
      · exact .inl rfl
      · exact .inr h
    · split at h
      · rcases List.mem_cons.mp h with rfl | h
        · exact .inl rfl
        · exact .inr (List.mem_cons_of_mem _ h)
      · rcases List.mem_cons.mp h with rfl | h
        · exact .inr List.mem_cons_self
        · rcases ih h with h | h
          · exact .inl h
          · exact .inr (List.mem_cons_of_mem _ h)

theorem tsorted_terase {m : Tbl α} (k : Nat) (h : tsorted m = true) : tsorted (terase m k) = true := by
  induction m with
  | nil => rfl
  | cons e t ih =>
    obtain ⟨h1, h2⟩ := tsorted_cons.mp h
    simp only [terase]
    split
    · exact ih h2
    · exact tsorted_cons.mpr ⟨fun x hx => h1 x (mem_terase hx), ih h2⟩

theorem tsorted_tput {m : Tbl α} (k : Nat) (v : α) (h : tsorted m = true) : tsorted (tput m k v) = true := by
  induction m with
  | nil => rfl
  | cons e t ih =>
    obtain ⟨j, u⟩ := e
    obtain ⟨h1, h2⟩ := tsorted_cons.mp h
    simp only [tput]
    split
    · rename_i hk
      refine tsorted_cons.mpr ⟨fun x hx => ?_, h⟩
      rcases List.mem_cons.mp hx with rfl | hx
      · exact hk
      · exact Nat.lt_trans hk (h1 x hx)
    · split
      · rename_i hk
        subst hk
        exact tsorted_cons.mpr ⟨h1, h2⟩
      · refine tsorted_cons.mpr ⟨fun x hx => ?_, ih h2⟩
        rcases mem_tput hx with rfl | hx
        · simp only
          omega
        · exact h1 x hx

/-- A write keeps the canonical form. -/
theorem tcanon_tset [DecidableEq α] {d : α} {m : Tbl α} (k : Nat) (v : α) (h : tcanon d m = true) :
    tcanon d (tset d m k v) = true := by
  simp only [tcanon, Bool.and_eq_true, List.all_eq_true, decide_eq_true_eq] at h ⊢
  unfold tset
  split
  · exact ⟨tsorted_terase k h.1, fun x hx => h.2 x (mem_terase hx)⟩
  · refine ⟨tsorted_tput k v h.1, fun x hx => ?_⟩
    rcases mem_tput hx with rfl | hx
    · assumption
    · exact h.2 x hx

end Sys2Proof.Machine
end

