-- ==== Sys2Proof/Laws/State.lean ====
section
/-! SUPPORT. What each plain update leaves as it was: one lemma for every field of the state. -/
namespace Sys2Proof.Machine
open Sys2Proof

variable (s : State)

/-! ### setF -/

@[simp] theorem setF_pending (f : Fld) (v : Nat) : (setF f v s).pending = s.pending := rfl
@[simp] theorem setF_ticks (f : Fld) (v : Nat) : (setF f v s).ticks = s.ticks := rfl
@[simp] theorem setF_fresh (f : Fld) (v : Nat) : (setF f v s).fresh = s.fresh := rfl
@[simp] theorem setF_parts (f : Fld) (v : Nat) : (setF f v s).parts = s.parts := rfl
@[simp] theorem setF_fields (f : Fld) (v : Nat) : (setF f v s).fields = s.fields := rfl
@[simp] theorem setF_seqs (f : Fld) (v : Nat) : (setF f v s).seqs = s.seqs := rfl
@[simp] theorem setF_cores (f : Fld) (v : Nat) : (setF f v s).cores = s.cores := rfl
@[simp] theorem setF_alm (f : Fld) (v : Nat) : (setF f v s).alm = s.alm := rfl
@[simp] theorem setF_almErr (f : Fld) (v : Nat) : (setF f v s).almErr = s.almErr := rfl
@[simp] theorem setF_edgeIn (f : Fld) (v : Nat) : (setF f v s).edgeIn = s.edgeIn := rfl
@[simp] theorem setF_edgeOut (f : Fld) (v : Nat) : (setF f v s).edgeOut = s.edgeOut := rfl
@[simp] theorem setF_inTake (f : Fld) (v : Nat) : (setF f v s).inTake = s.inTake := rfl
@[simp] theorem setF_mer (f : Fld) (v : Nat) : (setF f v s).mer = s.mer := rfl
@[simp] theorem setF_merInc (f : Fld) (v : Nat) : (setF f v s).merInc = s.merInc := rfl
@[simp] theorem setF_hostTx (f : Fld) (v : Nat) : (setF f v s).hostTx = s.hostTx := rfl
@[simp] theorem setF_holdoff (f : Fld) (v : Nat) : (setF f v s).holdoff = s.holdoff := rfl
@[simp] theorem setF_evtLost (f : Fld) (v : Nat) : (setF f v s).evtLost = s.evtLost := rfl
@[simp] theorem setF_msixTab (f : Fld) (v : Nat) : (setF f v s).msixTab = s.msixTab := rfl
@[simp] theorem setF_msixPba (f : Fld) (v : Nat) : (setF f v s).msixPba = s.msixPba := rfl
@[simp] theorem setF_dlog (f : Fld) (v : Nat) : (setF f v s).dlog = s.dlog := rfl
@[simp] theorem setF_tlogUnread (f : Fld) (v : Nat) : (setF f v s).tlogUnread = s.tlogUnread := rfl
@[simp] theorem setF_jobs (f : Fld) (v : Nat) : (setF f v s).jobs = s.jobs := rfl
@[simp] theorem setF_fetches (f : Fld) (v : Nat) : (setF f v s).fetches = s.fetches := rfl
@[simp] theorem setF_jobNo (f : Fld) (v : Nat) : (setF f v s).jobNo = s.jobNo := rfl
@[simp] theorem setF_heldCqe (f : Fld) (v : Nat) : (setF f v s).heldCqe = s.heldCqe := rfl
@[simp] theorem setF_ringStop (f : Fld) (v : Nat) : (setF f v s).ringStop = s.ringStop := rfl
@[simp] theorem setF_imageOk (f : Fld) (v : Nat) : (setF f v s).imageOk = s.imageOk := rfl
@[simp] theorem setF_doms (f : Fld) (v : Nat) : (setF f v s).doms = s.doms := rfl
@[simp] theorem setF_pwrNote (f : Fld) (v : Nat) : (setF f v s).pwrNote = s.pwrNote := rfl
@[simp] theorem setF_noteMask (f : Fld) (v : Nat) : (setF f v s).noteMask = s.noteMask := rfl
@[simp] theorem setF_pwrRes (f : Fld) (v : Nat) : (setF f v s).pwrRes = s.pwrRes := rfl
@[simp] theorem setF_off (f : Fld) (v : Nat) : (setF f v s).off = s.off := rfl
@[simp] theorem setF_mem (f : Fld) (v : Nat) : (setF f v s).mem = s.mem := rfl
@[simp] theorem setF_memErr (f : Fld) (v : Nat) : (setF f v s).memErr = s.memErr := rfl
@[simp] theorem setF_chart (f : Fld) (v : Nat) : (setF f v s).chart = s.chart := rfl
@[simp] theorem setF_chartErr (f : Fld) (v : Nat) : (setF f v s).chartErr = s.chartErr := rfl
@[simp] theorem setF_chartCache (f : Fld) (v : Nat) : (setF f v s).chartCache = s.chartCache := rfl
@[simp] theorem setF_xlatWait (f : Fld) (v : Nat) : (setF f v s).xlatWait = s.xlatWait := rfl
@[simp] theorem setF_hbmQ (f : Fld) (v : Nat) : (setF f v s).hbmQ = s.hbmQ := rfl
@[simp] theorem setF_hbmHeld (f : Fld) (v : Nat) : (setF f v s).hbmHeld = s.hbmHeld := rfl
@[simp] theorem setF_hotRun (f : Fld) (v : Nat) : (setF f v s).hotRun = s.hotRun := rfl
@[simp] theorem setF_routes (f : Fld) (v : Nat) : (setF f v s).routes = s.routes := rfl
@[simp] theorem setF_pcie (f : Fld) (v : Nat) : (setF f v s).pcie = s.pcie := rfl
@[simp] theorem setF_fetchFn (f : Fld) (v : Nat) : (setF f v s).fetchFn = s.fetchFn := rfl
@[simp] theorem setF_fetchRing (f : Fld) (v : Nat) : (setF f v s).fetchRing = s.fetchRing := rfl
@[simp] theorem setF_hbmTurn (f : Fld) (v : Nat) : (setF f v s).hbmTurn = s.hbmTurn := rfl
@[simp] theorem setF_hbmErr (f : Fld) (v : Nat) : (setF f v s).hbmErr = s.hbmErr := rfl
@[simp] theorem setF_stgTurn (f : Fld) (v : Nat) : (setF f v s).stgTurn = s.stgTurn := rfl
@[simp] theorem setF_dbgShut (f : Fld) (v : Nat) : (setF f v s).dbgShut = s.dbgShut := rfl
@[simp] theorem setF_routeErr (f : Fld) (v : Nat) : (setF f v s).routeErr = s.routeErr := rfl
@[simp] theorem setF_arb (f : Fld) (v : Nat) : (setF f v s).arb = s.arb := rfl
@[simp] theorem setF_niWait (f : Fld) (v : Nat) : (setF f v s).niWait = s.niWait := rfl
@[simp] theorem setF_pwrLow (f : Fld) (v : Nat) : (setF f v s).pwrLow = s.pwrLow := rfl
@[simp] theorem setF_rstDom (f : Fld) (v : Nat) : (setF f v s).rstDom = s.rstDom := rfl
@[simp] theorem setF_net (f : Fld) (v : Nat) : (setF f v s).net = s.net := rfl
@[simp] theorem setF_eject (f : Fld) (v : Nat) : (setF f v s).eject = s.eject := rfl
@[simp] theorem setF_halves (f : Fld) (v : Nat) : (setF f v s).halves = s.halves := rfl
@[simp] theorem setF_outst (f : Fld) (v : Nat) : (setF f v s).outst = s.outst := rfl
@[simp] theorem setF_answers (f : Fld) (v : Nat) : (setF f v s).answers = s.answers := rfl
@[simp] theorem setF_verdict (f : Fld) (v : Nat) : (setF f v s).verdict = s.verdict := rfl
@[simp] theorem setF_invals (f : Fld) (v : Nat) : (setF f v s).invals = s.invals := rfl
@[simp] theorem setF_invWait (f : Fld) (v : Nat) : (setF f v s).invWait = s.invWait := rfl
@[simp] theorem setF_spadQ (f : Fld) (v : Nat) : (setF f v s).spadQ = s.spadQ := rfl
@[simp] theorem setF_hbmFast (f : Fld) (v : Nat) : (setF f v s).hbmFast = s.hbmFast := rfl
@[simp] theorem setF_cqHold (f : Fld) (v : Nat) : (setF f v s).cqHold = s.cqHold := rfl
@[simp] theorem setF_links (f : Fld) (v : Nat) : (setF f v s).links = s.links := rfl
@[simp] theorem setF_cands (f : Fld) (v : Nat) : (setF f v s).cands = s.cands := rfl
@[simp] theorem setF_master (f : Fld) (v : Nat) : (setF f v s).master = s.master := rfl
@[simp] theorem setF_exch (f : Fld) (v : Nat) : (setF f v s).exch = s.exch := rfl
@[simp] theorem setF_locks (f : Fld) (v : Nat) : (setF f v s).locks = s.locks := rfl
@[simp] theorem setF_watches (f : Fld) (v : Nat) : (setF f v s).watches = s.watches := rfl
@[simp] theorem setF_barriers (f : Fld) (v : Nat) : (setF f v s).barriers = s.barriers := rfl
@[simp] theorem setF_offNow (f : Fld) (v : Nat) : (setF f v s).offNow = s.offNow := rfl
@[simp] theorem setF_offWake (f : Fld) (v : Nat) : (setF f v s).offWake = s.offWake := rfl
@[simp] theorem setF_aonBase (f : Fld) (v : Nat) : (setF f v s).aonBase = s.aonBase := rfl
@[simp] theorem setF_aonAt (f : Fld) (v : Nat) : (setF f v s).aonAt = s.aonAt := rfl
@[simp] theorem setF_pins (f : Fld) (v : Nat) : (setF f v s).pins = s.pins := rfl
@[simp] theorem setF_retryQ (f : Fld) (v : Nat) : (setF f v s).retryQ = s.retryQ := rfl
@[simp] theorem setF_borrow (f : Fld) (v : Nat) : (setF f v s).borrow = s.borrow := rfl
@[simp] theorem setF_partCmd (f : Fld) (v : Nat) : (setF f v s).partCmd = s.partCmd := rfl
@[simp] theorem setF_portsOff (f : Fld) (v : Nat) : (setF f v s).portsOff = s.portsOff := rfl
@[simp] theorem setF_flrWait (f : Fld) (v : Nat) : (setF f v s).flrWait = s.flrWait := rfl
@[simp] theorem setF_lineTx (f : Fld) (v : Nat) : (setF f v s).lineTx = s.lineTx := rfl
@[simp] theorem setF_strips (f : Fld) (v : Nat) : (setF f v s).strips = s.strips := rfl
@[simp] theorem setF_pmaTx (f : Fld) (v : Nat) : (setF f v s).pmaTx = s.pmaTx := rfl
@[simp] theorem setF_measures (f : Fld) (v : Nat) : (setF f v s).measures = s.measures := rfl
@[simp] theorem setF_evtHeld (f : Fld) (v : Nat) : (setF f v s).evtHeld = s.evtHeld := rfl
@[simp] theorem setF_aer (f : Fld) (v : Nat) : (setF f v s).aer = s.aer := rfl
@[simp] theorem setF_flash (f : Fld) (v : Nat) : (setF f v s).flash = s.flash := rfl
@[simp] theorem setF_image (f : Fld) (v : Nat) : (setF f v s).image = s.image := rfl
@[simp] theorem setF_warmWait (f : Fld) (v : Nat) : (setF f v s).warmWait = s.warmWait := rfl
@[simp] theorem setF_tap (f : Fld) (v : Nat) : (setF f v s).tap = s.tap := rfl
@[simp] theorem setF_nonce (f : Fld) (v : Nat) : (setF f v s).nonce = s.nonce := rfl
@[simp] theorem setF_dbg (f : Fld) (v : Nat) : (setF f v s).dbg = s.dbg := rfl
@[simp] theorem setF_eids (f : Fld) (v : Nat) : (setF f v s).eids = s.eids := rfl
@[simp] theorem setF_spdm (f : Fld) (v : Nat) : (setF f v s).spdm = s.spdm := rfl
@[simp] theorem setF_spdmTx (f : Fld) (v : Nat) : (setF f v s).spdmTx = s.spdmTx := rfl
@[simp] theorem setF_avs (f : Fld) (v : Nat) : (setF f v s).avs = s.avs := rfl
@[simp] theorem setF_gpioV (f : Fld) (v : Nat) : (setF f v s).gpioV = s.gpioV := rfl

/-! ### satF -/

@[simp] theorem satF_pending (f : Fld) (k : Nat) : (satF f k s).pending = s.pending := rfl
@[simp] theorem satF_ticks (f : Fld) (k : Nat) : (satF f k s).ticks = s.ticks := rfl
@[simp] theorem satF_fresh (f : Fld) (k : Nat) : (satF f k s).fresh = s.fresh := rfl
@[simp] theorem satF_parts (f : Fld) (k : Nat) : (satF f k s).parts = s.parts := rfl
@[simp] theorem satF_fields (f : Fld) (k : Nat) : (satF f k s).fields = s.fields := rfl
@[simp] theorem satF_seqs (f : Fld) (k : Nat) : (satF f k s).seqs = s.seqs := rfl
@[simp] theorem satF_cores (f : Fld) (k : Nat) : (satF f k s).cores = s.cores := rfl
@[simp] theorem satF_alm (f : Fld) (k : Nat) : (satF f k s).alm = s.alm := rfl
@[simp] theorem satF_almErr (f : Fld) (k : Nat) : (satF f k s).almErr = s.almErr := rfl
@[simp] theorem satF_edgeIn (f : Fld) (k : Nat) : (satF f k s).edgeIn = s.edgeIn := rfl
@[simp] theorem satF_edgeOut (f : Fld) (k : Nat) : (satF f k s).edgeOut = s.edgeOut := rfl
@[simp] theorem satF_inTake (f : Fld) (k : Nat) : (satF f k s).inTake = s.inTake := rfl
@[simp] theorem satF_mer (f : Fld) (k : Nat) : (satF f k s).mer = s.mer := rfl
@[simp] theorem satF_merInc (f : Fld) (k : Nat) : (satF f k s).merInc = s.merInc := rfl
@[simp] theorem satF_hostTx (f : Fld) (k : Nat) : (satF f k s).hostTx = s.hostTx := rfl
@[simp] theorem satF_holdoff (f : Fld) (k : Nat) : (satF f k s).holdoff = s.holdoff := rfl
@[simp] theorem satF_evtLost (f : Fld) (k : Nat) : (satF f k s).evtLost = s.evtLost := rfl
@[simp] theorem satF_msixTab (f : Fld) (k : Nat) : (satF f k s).msixTab = s.msixTab := rfl
@[simp] theorem satF_msixPba (f : Fld) (k : Nat) : (satF f k s).msixPba = s.msixPba := rfl
@[simp] theorem satF_dlog (f : Fld) (k : Nat) : (satF f k s).dlog = s.dlog := rfl
@[simp] theorem satF_tlogUnread (f : Fld) (k : Nat) : (satF f k s).tlogUnread = s.tlogUnread := rfl
@[simp] theorem satF_jobs (f : Fld) (k : Nat) : (satF f k s).jobs = s.jobs := rfl
@[simp] theorem satF_fetches (f : Fld) (k : Nat) : (satF f k s).fetches = s.fetches := rfl
@[simp] theorem satF_jobNo (f : Fld) (k : Nat) : (satF f k s).jobNo = s.jobNo := rfl
@[simp] theorem satF_heldCqe (f : Fld) (k : Nat) : (satF f k s).heldCqe = s.heldCqe := rfl
@[simp] theorem satF_ringStop (f : Fld) (k : Nat) : (satF f k s).ringStop = s.ringStop := rfl
@[simp] theorem satF_imageOk (f : Fld) (k : Nat) : (satF f k s).imageOk = s.imageOk := rfl
@[simp] theorem satF_doms (f : Fld) (k : Nat) : (satF f k s).doms = s.doms := rfl
@[simp] theorem satF_pwrNote (f : Fld) (k : Nat) : (satF f k s).pwrNote = s.pwrNote := rfl
@[simp] theorem satF_noteMask (f : Fld) (k : Nat) : (satF f k s).noteMask = s.noteMask := rfl
@[simp] theorem satF_pwrRes (f : Fld) (k : Nat) : (satF f k s).pwrRes = s.pwrRes := rfl
@[simp] theorem satF_off (f : Fld) (k : Nat) : (satF f k s).off = s.off := rfl
@[simp] theorem satF_mem (f : Fld) (k : Nat) : (satF f k s).mem = s.mem := rfl
@[simp] theorem satF_memErr (f : Fld) (k : Nat) : (satF f k s).memErr = s.memErr := rfl
@[simp] theorem satF_chart (f : Fld) (k : Nat) : (satF f k s).chart = s.chart := rfl
@[simp] theorem satF_chartErr (f : Fld) (k : Nat) : (satF f k s).chartErr = s.chartErr := rfl
@[simp] theorem satF_chartCache (f : Fld) (k : Nat) : (satF f k s).chartCache = s.chartCache := rfl
@[simp] theorem satF_xlatWait (f : Fld) (k : Nat) : (satF f k s).xlatWait = s.xlatWait := rfl
@[simp] theorem satF_hbmQ (f : Fld) (k : Nat) : (satF f k s).hbmQ = s.hbmQ := rfl
@[simp] theorem satF_hbmHeld (f : Fld) (k : Nat) : (satF f k s).hbmHeld = s.hbmHeld := rfl
@[simp] theorem satF_hotRun (f : Fld) (k : Nat) : (satF f k s).hotRun = s.hotRun := rfl
@[simp] theorem satF_routes (f : Fld) (k : Nat) : (satF f k s).routes = s.routes := rfl
@[simp] theorem satF_pcie (f : Fld) (k : Nat) : (satF f k s).pcie = s.pcie := rfl
@[simp] theorem satF_fetchFn (f : Fld) (k : Nat) : (satF f k s).fetchFn = s.fetchFn := rfl
@[simp] theorem satF_fetchRing (f : Fld) (k : Nat) : (satF f k s).fetchRing = s.fetchRing := rfl
@[simp] theorem satF_hbmTurn (f : Fld) (k : Nat) : (satF f k s).hbmTurn = s.hbmTurn := rfl
@[simp] theorem satF_hbmErr (f : Fld) (k : Nat) : (satF f k s).hbmErr = s.hbmErr := rfl
@[simp] theorem satF_stgTurn (f : Fld) (k : Nat) : (satF f k s).stgTurn = s.stgTurn := rfl
@[simp] theorem satF_dbgShut (f : Fld) (k : Nat) : (satF f k s).dbgShut = s.dbgShut := rfl
@[simp] theorem satF_routeErr (f : Fld) (k : Nat) : (satF f k s).routeErr = s.routeErr := rfl
@[simp] theorem satF_arb (f : Fld) (k : Nat) : (satF f k s).arb = s.arb := rfl
@[simp] theorem satF_niWait (f : Fld) (k : Nat) : (satF f k s).niWait = s.niWait := rfl
@[simp] theorem satF_pwrLow (f : Fld) (k : Nat) : (satF f k s).pwrLow = s.pwrLow := rfl
@[simp] theorem satF_rstDom (f : Fld) (k : Nat) : (satF f k s).rstDom = s.rstDom := rfl
@[simp] theorem satF_net (f : Fld) (k : Nat) : (satF f k s).net = s.net := rfl
@[simp] theorem satF_eject (f : Fld) (k : Nat) : (satF f k s).eject = s.eject := rfl
@[simp] theorem satF_halves (f : Fld) (k : Nat) : (satF f k s).halves = s.halves := rfl
@[simp] theorem satF_outst (f : Fld) (k : Nat) : (satF f k s).outst = s.outst := rfl
@[simp] theorem satF_answers (f : Fld) (k : Nat) : (satF f k s).answers = s.answers := rfl
@[simp] theorem satF_verdict (f : Fld) (k : Nat) : (satF f k s).verdict = s.verdict := rfl
@[simp] theorem satF_invals (f : Fld) (k : Nat) : (satF f k s).invals = s.invals := rfl
@[simp] theorem satF_invWait (f : Fld) (k : Nat) : (satF f k s).invWait = s.invWait := rfl
@[simp] theorem satF_spadQ (f : Fld) (k : Nat) : (satF f k s).spadQ = s.spadQ := rfl
@[simp] theorem satF_hbmFast (f : Fld) (k : Nat) : (satF f k s).hbmFast = s.hbmFast := rfl
@[simp] theorem satF_cqHold (f : Fld) (k : Nat) : (satF f k s).cqHold = s.cqHold := rfl
@[simp] theorem satF_links (f : Fld) (k : Nat) : (satF f k s).links = s.links := rfl
@[simp] theorem satF_cands (f : Fld) (k : Nat) : (satF f k s).cands = s.cands := rfl
@[simp] theorem satF_master (f : Fld) (k : Nat) : (satF f k s).master = s.master := rfl
@[simp] theorem satF_exch (f : Fld) (k : Nat) : (satF f k s).exch = s.exch := rfl
@[simp] theorem satF_locks (f : Fld) (k : Nat) : (satF f k s).locks = s.locks := rfl
@[simp] theorem satF_watches (f : Fld) (k : Nat) : (satF f k s).watches = s.watches := rfl
@[simp] theorem satF_barriers (f : Fld) (k : Nat) : (satF f k s).barriers = s.barriers := rfl
@[simp] theorem satF_offNow (f : Fld) (k : Nat) : (satF f k s).offNow = s.offNow := rfl
@[simp] theorem satF_offWake (f : Fld) (k : Nat) : (satF f k s).offWake = s.offWake := rfl
@[simp] theorem satF_aonBase (f : Fld) (k : Nat) : (satF f k s).aonBase = s.aonBase := rfl
@[simp] theorem satF_aonAt (f : Fld) (k : Nat) : (satF f k s).aonAt = s.aonAt := rfl
@[simp] theorem satF_pins (f : Fld) (k : Nat) : (satF f k s).pins = s.pins := rfl
@[simp] theorem satF_retryQ (f : Fld) (k : Nat) : (satF f k s).retryQ = s.retryQ := rfl
@[simp] theorem satF_borrow (f : Fld) (k : Nat) : (satF f k s).borrow = s.borrow := rfl
@[simp] theorem satF_partCmd (f : Fld) (k : Nat) : (satF f k s).partCmd = s.partCmd := rfl
@[simp] theorem satF_portsOff (f : Fld) (k : Nat) : (satF f k s).portsOff = s.portsOff := rfl
@[simp] theorem satF_flrWait (f : Fld) (k : Nat) : (satF f k s).flrWait = s.flrWait := rfl
@[simp] theorem satF_lineTx (f : Fld) (k : Nat) : (satF f k s).lineTx = s.lineTx := rfl
@[simp] theorem satF_strips (f : Fld) (k : Nat) : (satF f k s).strips = s.strips := rfl
@[simp] theorem satF_pmaTx (f : Fld) (k : Nat) : (satF f k s).pmaTx = s.pmaTx := rfl
@[simp] theorem satF_measures (f : Fld) (k : Nat) : (satF f k s).measures = s.measures := rfl
@[simp] theorem satF_evtHeld (f : Fld) (k : Nat) : (satF f k s).evtHeld = s.evtHeld := rfl
@[simp] theorem satF_aer (f : Fld) (k : Nat) : (satF f k s).aer = s.aer := rfl
@[simp] theorem satF_flash (f : Fld) (k : Nat) : (satF f k s).flash = s.flash := rfl
@[simp] theorem satF_image (f : Fld) (k : Nat) : (satF f k s).image = s.image := rfl
@[simp] theorem satF_warmWait (f : Fld) (k : Nat) : (satF f k s).warmWait = s.warmWait := rfl
@[simp] theorem satF_tap (f : Fld) (k : Nat) : (satF f k s).tap = s.tap := rfl
@[simp] theorem satF_nonce (f : Fld) (k : Nat) : (satF f k s).nonce = s.nonce := rfl
@[simp] theorem satF_dbg (f : Fld) (k : Nat) : (satF f k s).dbg = s.dbg := rfl
@[simp] theorem satF_eids (f : Fld) (k : Nat) : (satF f k s).eids = s.eids := rfl
@[simp] theorem satF_spdm (f : Fld) (k : Nat) : (satF f k s).spdm = s.spdm := rfl
@[simp] theorem satF_spdmTx (f : Fld) (k : Nat) : (satF f k s).spdmTx = s.spdmTx := rfl
@[simp] theorem satF_avs (f : Fld) (k : Nat) : (satF f k s).avs = s.avs := rfl
@[simp] theorem satF_gpioV (f : Fld) (k : Nat) : (satF f k s).gpioV = s.gpioV := rfl

/-! ### incF -/

@[simp] theorem incF_pending (f : Fld) (k : Nat) : (incF f k s).pending = s.pending := rfl
@[simp] theorem incF_ticks (f : Fld) (k : Nat) : (incF f k s).ticks = s.ticks := rfl
@[simp] theorem incF_fresh (f : Fld) (k : Nat) : (incF f k s).fresh = s.fresh := rfl
@[simp] theorem incF_parts (f : Fld) (k : Nat) : (incF f k s).parts = s.parts := rfl
@[simp] theorem incF_fields (f : Fld) (k : Nat) : (incF f k s).fields = s.fields := rfl
@[simp] theorem incF_seqs (f : Fld) (k : Nat) : (incF f k s).seqs = s.seqs := rfl
@[simp] theorem incF_cores (f : Fld) (k : Nat) : (incF f k s).cores = s.cores := rfl
@[simp] theorem incF_alm (f : Fld) (k : Nat) : (incF f k s).alm = s.alm := rfl
@[simp] theorem incF_almErr (f : Fld) (k : Nat) : (incF f k s).almErr = s.almErr := rfl
@[simp] theorem incF_edgeIn (f : Fld) (k : Nat) : (incF f k s).edgeIn = s.edgeIn := rfl
@[simp] theorem incF_edgeOut (f : Fld) (k : Nat) : (incF f k s).edgeOut = s.edgeOut := rfl
@[simp] theorem incF_inTake (f : Fld) (k : Nat) : (incF f k s).inTake = s.inTake := rfl
@[simp] theorem incF_mer (f : Fld) (k : Nat) : (incF f k s).mer = s.mer := rfl
@[simp] theorem incF_merInc (f : Fld) (k : Nat) : (incF f k s).merInc = s.merInc := rfl
@[simp] theorem incF_hostTx (f : Fld) (k : Nat) : (incF f k s).hostTx = s.hostTx := rfl
@[simp] theorem incF_holdoff (f : Fld) (k : Nat) : (incF f k s).holdoff = s.holdoff := rfl
@[simp] theorem incF_evtLost (f : Fld) (k : Nat) : (incF f k s).evtLost = s.evtLost := rfl
@[simp] theorem incF_msixTab (f : Fld) (k : Nat) : (incF f k s).msixTab = s.msixTab := rfl
@[simp] theorem incF_msixPba (f : Fld) (k : Nat) : (incF f k s).msixPba = s.msixPba := rfl
@[simp] theorem incF_dlog (f : Fld) (k : Nat) : (incF f k s).dlog = s.dlog := rfl
@[simp] theorem incF_tlogUnread (f : Fld) (k : Nat) : (incF f k s).tlogUnread = s.tlogUnread := rfl
@[simp] theorem incF_jobs (f : Fld) (k : Nat) : (incF f k s).jobs = s.jobs := rfl
@[simp] theorem incF_fetches (f : Fld) (k : Nat) : (incF f k s).fetches = s.fetches := rfl
@[simp] theorem incF_jobNo (f : Fld) (k : Nat) : (incF f k s).jobNo = s.jobNo := rfl
@[simp] theorem incF_heldCqe (f : Fld) (k : Nat) : (incF f k s).heldCqe = s.heldCqe := rfl
@[simp] theorem incF_ringStop (f : Fld) (k : Nat) : (incF f k s).ringStop = s.ringStop := rfl
@[simp] theorem incF_imageOk (f : Fld) (k : Nat) : (incF f k s).imageOk = s.imageOk := rfl
@[simp] theorem incF_doms (f : Fld) (k : Nat) : (incF f k s).doms = s.doms := rfl
@[simp] theorem incF_pwrNote (f : Fld) (k : Nat) : (incF f k s).pwrNote = s.pwrNote := rfl
@[simp] theorem incF_noteMask (f : Fld) (k : Nat) : (incF f k s).noteMask = s.noteMask := rfl
@[simp] theorem incF_pwrRes (f : Fld) (k : Nat) : (incF f k s).pwrRes = s.pwrRes := rfl
@[simp] theorem incF_off (f : Fld) (k : Nat) : (incF f k s).off = s.off := rfl
@[simp] theorem incF_mem (f : Fld) (k : Nat) : (incF f k s).mem = s.mem := rfl
@[simp] theorem incF_memErr (f : Fld) (k : Nat) : (incF f k s).memErr = s.memErr := rfl
@[simp] theorem incF_chart (f : Fld) (k : Nat) : (incF f k s).chart = s.chart := rfl
@[simp] theorem incF_chartErr (f : Fld) (k : Nat) : (incF f k s).chartErr = s.chartErr := rfl
@[simp] theorem incF_chartCache (f : Fld) (k : Nat) : (incF f k s).chartCache = s.chartCache := rfl
@[simp] theorem incF_xlatWait (f : Fld) (k : Nat) : (incF f k s).xlatWait = s.xlatWait := rfl
@[simp] theorem incF_hbmQ (f : Fld) (k : Nat) : (incF f k s).hbmQ = s.hbmQ := rfl
@[simp] theorem incF_hbmHeld (f : Fld) (k : Nat) : (incF f k s).hbmHeld = s.hbmHeld := rfl
@[simp] theorem incF_hotRun (f : Fld) (k : Nat) : (incF f k s).hotRun = s.hotRun := rfl
@[simp] theorem incF_routes (f : Fld) (k : Nat) : (incF f k s).routes = s.routes := rfl
@[simp] theorem incF_pcie (f : Fld) (k : Nat) : (incF f k s).pcie = s.pcie := rfl
@[simp] theorem incF_fetchFn (f : Fld) (k : Nat) : (incF f k s).fetchFn = s.fetchFn := rfl
@[simp] theorem incF_fetchRing (f : Fld) (k : Nat) : (incF f k s).fetchRing = s.fetchRing := rfl
@[simp] theorem incF_hbmTurn (f : Fld) (k : Nat) : (incF f k s).hbmTurn = s.hbmTurn := rfl
@[simp] theorem incF_hbmErr (f : Fld) (k : Nat) : (incF f k s).hbmErr = s.hbmErr := rfl
@[simp] theorem incF_stgTurn (f : Fld) (k : Nat) : (incF f k s).stgTurn = s.stgTurn := rfl
@[simp] theorem incF_dbgShut (f : Fld) (k : Nat) : (incF f k s).dbgShut = s.dbgShut := rfl
@[simp] theorem incF_routeErr (f : Fld) (k : Nat) : (incF f k s).routeErr = s.routeErr := rfl
@[simp] theorem incF_arb (f : Fld) (k : Nat) : (incF f k s).arb = s.arb := rfl
@[simp] theorem incF_niWait (f : Fld) (k : Nat) : (incF f k s).niWait = s.niWait := rfl
@[simp] theorem incF_pwrLow (f : Fld) (k : Nat) : (incF f k s).pwrLow = s.pwrLow := rfl
@[simp] theorem incF_rstDom (f : Fld) (k : Nat) : (incF f k s).rstDom = s.rstDom := rfl
@[simp] theorem incF_net (f : Fld) (k : Nat) : (incF f k s).net = s.net := rfl
@[simp] theorem incF_eject (f : Fld) (k : Nat) : (incF f k s).eject = s.eject := rfl
@[simp] theorem incF_halves (f : Fld) (k : Nat) : (incF f k s).halves = s.halves := rfl
@[simp] theorem incF_outst (f : Fld) (k : Nat) : (incF f k s).outst = s.outst := rfl
@[simp] theorem incF_answers (f : Fld) (k : Nat) : (incF f k s).answers = s.answers := rfl
@[simp] theorem incF_verdict (f : Fld) (k : Nat) : (incF f k s).verdict = s.verdict := rfl
@[simp] theorem incF_invals (f : Fld) (k : Nat) : (incF f k s).invals = s.invals := rfl
@[simp] theorem incF_invWait (f : Fld) (k : Nat) : (incF f k s).invWait = s.invWait := rfl
@[simp] theorem incF_spadQ (f : Fld) (k : Nat) : (incF f k s).spadQ = s.spadQ := rfl
@[simp] theorem incF_hbmFast (f : Fld) (k : Nat) : (incF f k s).hbmFast = s.hbmFast := rfl
@[simp] theorem incF_cqHold (f : Fld) (k : Nat) : (incF f k s).cqHold = s.cqHold := rfl
@[simp] theorem incF_links (f : Fld) (k : Nat) : (incF f k s).links = s.links := rfl
@[simp] theorem incF_cands (f : Fld) (k : Nat) : (incF f k s).cands = s.cands := rfl
@[simp] theorem incF_master (f : Fld) (k : Nat) : (incF f k s).master = s.master := rfl
@[simp] theorem incF_exch (f : Fld) (k : Nat) : (incF f k s).exch = s.exch := rfl
@[simp] theorem incF_locks (f : Fld) (k : Nat) : (incF f k s).locks = s.locks := rfl
@[simp] theorem incF_watches (f : Fld) (k : Nat) : (incF f k s).watches = s.watches := rfl
@[simp] theorem incF_barriers (f : Fld) (k : Nat) : (incF f k s).barriers = s.barriers := rfl
@[simp] theorem incF_offNow (f : Fld) (k : Nat) : (incF f k s).offNow = s.offNow := rfl
@[simp] theorem incF_offWake (f : Fld) (k : Nat) : (incF f k s).offWake = s.offWake := rfl
@[simp] theorem incF_aonBase (f : Fld) (k : Nat) : (incF f k s).aonBase = s.aonBase := rfl
@[simp] theorem incF_aonAt (f : Fld) (k : Nat) : (incF f k s).aonAt = s.aonAt := rfl
@[simp] theorem incF_pins (f : Fld) (k : Nat) : (incF f k s).pins = s.pins := rfl
@[simp] theorem incF_retryQ (f : Fld) (k : Nat) : (incF f k s).retryQ = s.retryQ := rfl
@[simp] theorem incF_borrow (f : Fld) (k : Nat) : (incF f k s).borrow = s.borrow := rfl
@[simp] theorem incF_partCmd (f : Fld) (k : Nat) : (incF f k s).partCmd = s.partCmd := rfl
@[simp] theorem incF_portsOff (f : Fld) (k : Nat) : (incF f k s).portsOff = s.portsOff := rfl
@[simp] theorem incF_flrWait (f : Fld) (k : Nat) : (incF f k s).flrWait = s.flrWait := rfl
@[simp] theorem incF_lineTx (f : Fld) (k : Nat) : (incF f k s).lineTx = s.lineTx := rfl
@[simp] theorem incF_strips (f : Fld) (k : Nat) : (incF f k s).strips = s.strips := rfl
@[simp] theorem incF_pmaTx (f : Fld) (k : Nat) : (incF f k s).pmaTx = s.pmaTx := rfl
@[simp] theorem incF_measures (f : Fld) (k : Nat) : (incF f k s).measures = s.measures := rfl
@[simp] theorem incF_evtHeld (f : Fld) (k : Nat) : (incF f k s).evtHeld = s.evtHeld := rfl
@[simp] theorem incF_aer (f : Fld) (k : Nat) : (incF f k s).aer = s.aer := rfl
@[simp] theorem incF_flash (f : Fld) (k : Nat) : (incF f k s).flash = s.flash := rfl
@[simp] theorem incF_image (f : Fld) (k : Nat) : (incF f k s).image = s.image := rfl
@[simp] theorem incF_warmWait (f : Fld) (k : Nat) : (incF f k s).warmWait = s.warmWait := rfl
@[simp] theorem incF_tap (f : Fld) (k : Nat) : (incF f k s).tap = s.tap := rfl
@[simp] theorem incF_nonce (f : Fld) (k : Nat) : (incF f k s).nonce = s.nonce := rfl
@[simp] theorem incF_dbg (f : Fld) (k : Nat) : (incF f k s).dbg = s.dbg := rfl
@[simp] theorem incF_eids (f : Fld) (k : Nat) : (incF f k s).eids = s.eids := rfl
@[simp] theorem incF_spdm (f : Fld) (k : Nat) : (incF f k s).spdm = s.spdm := rfl
@[simp] theorem incF_spdmTx (f : Fld) (k : Nat) : (incF f k s).spdmTx = s.spdmTx := rfl
@[simp] theorem incF_avs (f : Fld) (k : Nat) : (incF f k s).avs = s.avs := rfl
@[simp] theorem incF_gpioV (f : Fld) (k : Nat) : (incF f k s).gpioV = s.gpioV := rfl

/-! ### setByte -/

@[simp] theorem setByte_pending (a : Nat) (b : Byte) : (setByte a b s).pending = s.pending := rfl
@[simp] theorem setByte_ticks (a : Nat) (b : Byte) : (setByte a b s).ticks = s.ticks := rfl
@[simp] theorem setByte_fresh (a : Nat) (b : Byte) : (setByte a b s).fresh = s.fresh := rfl
@[simp] theorem setByte_regs (a : Nat) (b : Byte) : (setByte a b s).regs = s.regs := rfl
@[simp] theorem setByte_parts (a : Nat) (b : Byte) : (setByte a b s).parts = s.parts := rfl
@[simp] theorem setByte_fields (a : Nat) (b : Byte) : (setByte a b s).fields = s.fields := rfl
@[simp] theorem setByte_seqs (a : Nat) (b : Byte) : (setByte a b s).seqs = s.seqs := rfl
@[simp] theorem setByte_cores (a : Nat) (b : Byte) : (setByte a b s).cores = s.cores := rfl
@[simp] theorem setByte_alm (a : Nat) (b : Byte) : (setByte a b s).alm = s.alm := rfl
@[simp] theorem setByte_almErr (a : Nat) (b : Byte) : (setByte a b s).almErr = s.almErr := rfl
@[simp] theorem setByte_edgeIn (a : Nat) (b : Byte) : (setByte a b s).edgeIn = s.edgeIn := rfl
@[simp] theorem setByte_edgeOut (a : Nat) (b : Byte) : (setByte a b s).edgeOut = s.edgeOut := rfl
@[simp] theorem setByte_inTake (a : Nat) (b : Byte) : (setByte a b s).inTake = s.inTake := rfl
@[simp] theorem setByte_mer (a : Nat) (b : Byte) : (setByte a b s).mer = s.mer := rfl
@[simp] theorem setByte_merInc (a : Nat) (b : Byte) : (setByte a b s).merInc = s.merInc := rfl
@[simp] theorem setByte_hostTx (a : Nat) (b : Byte) : (setByte a b s).hostTx = s.hostTx := rfl
@[simp] theorem setByte_holdoff (a : Nat) (b : Byte) : (setByte a b s).holdoff = s.holdoff := rfl
@[simp] theorem setByte_evtLost (a : Nat) (b : Byte) : (setByte a b s).evtLost = s.evtLost := rfl
@[simp] theorem setByte_msixTab (a : Nat) (b : Byte) : (setByte a b s).msixTab = s.msixTab := rfl
@[simp] theorem setByte_msixPba (a : Nat) (b : Byte) : (setByte a b s).msixPba = s.msixPba := rfl
@[simp] theorem setByte_dlog (a : Nat) (b : Byte) : (setByte a b s).dlog = s.dlog := rfl
@[simp] theorem setByte_tlogUnread (a : Nat) (b : Byte) : (setByte a b s).tlogUnread = s.tlogUnread := rfl
@[simp] theorem setByte_jobs (a : Nat) (b : Byte) : (setByte a b s).jobs = s.jobs := rfl
@[simp] theorem setByte_fetches (a : Nat) (b : Byte) : (setByte a b s).fetches = s.fetches := rfl
@[simp] theorem setByte_jobNo (a : Nat) (b : Byte) : (setByte a b s).jobNo = s.jobNo := rfl
@[simp] theorem setByte_heldCqe (a : Nat) (b : Byte) : (setByte a b s).heldCqe = s.heldCqe := rfl
@[simp] theorem setByte_ringStop (a : Nat) (b : Byte) : (setByte a b s).ringStop = s.ringStop := rfl
@[simp] theorem setByte_imageOk (a : Nat) (b : Byte) : (setByte a b s).imageOk = s.imageOk := rfl
@[simp] theorem setByte_doms (a : Nat) (b : Byte) : (setByte a b s).doms = s.doms := rfl
@[simp] theorem setByte_pwrNote (a : Nat) (b : Byte) : (setByte a b s).pwrNote = s.pwrNote := rfl
@[simp] theorem setByte_noteMask (a : Nat) (b : Byte) : (setByte a b s).noteMask = s.noteMask := rfl
@[simp] theorem setByte_pwrRes (a : Nat) (b : Byte) : (setByte a b s).pwrRes = s.pwrRes := rfl
@[simp] theorem setByte_off (a : Nat) (b : Byte) : (setByte a b s).off = s.off := rfl
@[simp] theorem setByte_memErr (a : Nat) (b : Byte) : (setByte a b s).memErr = s.memErr := rfl
@[simp] theorem setByte_chart (a : Nat) (b : Byte) : (setByte a b s).chart = s.chart := rfl
@[simp] theorem setByte_chartErr (a : Nat) (b : Byte) : (setByte a b s).chartErr = s.chartErr := rfl
@[simp] theorem setByte_chartCache (a : Nat) (b : Byte) : (setByte a b s).chartCache = s.chartCache := rfl
@[simp] theorem setByte_xlatWait (a : Nat) (b : Byte) : (setByte a b s).xlatWait = s.xlatWait := rfl
@[simp] theorem setByte_hbmQ (a : Nat) (b : Byte) : (setByte a b s).hbmQ = s.hbmQ := rfl
@[simp] theorem setByte_hbmHeld (a : Nat) (b : Byte) : (setByte a b s).hbmHeld = s.hbmHeld := rfl
@[simp] theorem setByte_hotRun (a : Nat) (b : Byte) : (setByte a b s).hotRun = s.hotRun := rfl
@[simp] theorem setByte_routes (a : Nat) (b : Byte) : (setByte a b s).routes = s.routes := rfl
@[simp] theorem setByte_pcie (a : Nat) (b : Byte) : (setByte a b s).pcie = s.pcie := rfl
@[simp] theorem setByte_fetchFn (a : Nat) (b : Byte) : (setByte a b s).fetchFn = s.fetchFn := rfl
@[simp] theorem setByte_fetchRing (a : Nat) (b : Byte) : (setByte a b s).fetchRing = s.fetchRing := rfl
@[simp] theorem setByte_hbmTurn (a : Nat) (b : Byte) : (setByte a b s).hbmTurn = s.hbmTurn := rfl
@[simp] theorem setByte_hbmErr (a : Nat) (b : Byte) : (setByte a b s).hbmErr = s.hbmErr := rfl
@[simp] theorem setByte_stgTurn (a : Nat) (b : Byte) : (setByte a b s).stgTurn = s.stgTurn := rfl
@[simp] theorem setByte_dbgShut (a : Nat) (b : Byte) : (setByte a b s).dbgShut = s.dbgShut := rfl
@[simp] theorem setByte_routeErr (a : Nat) (b : Byte) : (setByte a b s).routeErr = s.routeErr := rfl
@[simp] theorem setByte_arb (a : Nat) (b : Byte) : (setByte a b s).arb = s.arb := rfl
@[simp] theorem setByte_niWait (a : Nat) (b : Byte) : (setByte a b s).niWait = s.niWait := rfl
@[simp] theorem setByte_pwrLow (a : Nat) (b : Byte) : (setByte a b s).pwrLow = s.pwrLow := rfl
@[simp] theorem setByte_rstDom (a : Nat) (b : Byte) : (setByte a b s).rstDom = s.rstDom := rfl
@[simp] theorem setByte_net (a : Nat) (b : Byte) : (setByte a b s).net = s.net := rfl
@[simp] theorem setByte_eject (a : Nat) (b : Byte) : (setByte a b s).eject = s.eject := rfl
@[simp] theorem setByte_halves (a : Nat) (b : Byte) : (setByte a b s).halves = s.halves := rfl
@[simp] theorem setByte_outst (a : Nat) (b : Byte) : (setByte a b s).outst = s.outst := rfl
@[simp] theorem setByte_answers (a : Nat) (b : Byte) : (setByte a b s).answers = s.answers := rfl
@[simp] theorem setByte_verdict (a : Nat) (b : Byte) : (setByte a b s).verdict = s.verdict := rfl
@[simp] theorem setByte_invals (a : Nat) (b : Byte) : (setByte a b s).invals = s.invals := rfl
@[simp] theorem setByte_invWait (a : Nat) (b : Byte) : (setByte a b s).invWait = s.invWait := rfl
@[simp] theorem setByte_spadQ (a : Nat) (b : Byte) : (setByte a b s).spadQ = s.spadQ := rfl
@[simp] theorem setByte_hbmFast (a : Nat) (b : Byte) : (setByte a b s).hbmFast = s.hbmFast := rfl
@[simp] theorem setByte_cqHold (a : Nat) (b : Byte) : (setByte a b s).cqHold = s.cqHold := rfl
@[simp] theorem setByte_links (a : Nat) (b : Byte) : (setByte a b s).links = s.links := rfl
@[simp] theorem setByte_cands (a : Nat) (b : Byte) : (setByte a b s).cands = s.cands := rfl
@[simp] theorem setByte_master (a : Nat) (b : Byte) : (setByte a b s).master = s.master := rfl
@[simp] theorem setByte_exch (a : Nat) (b : Byte) : (setByte a b s).exch = s.exch := rfl
@[simp] theorem setByte_locks (a : Nat) (b : Byte) : (setByte a b s).locks = s.locks := rfl
@[simp] theorem setByte_watches (a : Nat) (b : Byte) : (setByte a b s).watches = s.watches := rfl
@[simp] theorem setByte_barriers (a : Nat) (b : Byte) : (setByte a b s).barriers = s.barriers := rfl
@[simp] theorem setByte_offNow (a : Nat) (b : Byte) : (setByte a b s).offNow = s.offNow := rfl
@[simp] theorem setByte_offWake (a : Nat) (b : Byte) : (setByte a b s).offWake = s.offWake := rfl
@[simp] theorem setByte_aonBase (a : Nat) (b : Byte) : (setByte a b s).aonBase = s.aonBase := rfl
@[simp] theorem setByte_aonAt (a : Nat) (b : Byte) : (setByte a b s).aonAt = s.aonAt := rfl
@[simp] theorem setByte_pins (a : Nat) (b : Byte) : (setByte a b s).pins = s.pins := rfl
@[simp] theorem setByte_retryQ (a : Nat) (b : Byte) : (setByte a b s).retryQ = s.retryQ := rfl
@[simp] theorem setByte_borrow (a : Nat) (b : Byte) : (setByte a b s).borrow = s.borrow := rfl
@[simp] theorem setByte_partCmd (a : Nat) (b : Byte) : (setByte a b s).partCmd = s.partCmd := rfl
@[simp] theorem setByte_portsOff (a : Nat) (b : Byte) : (setByte a b s).portsOff = s.portsOff := rfl
@[simp] theorem setByte_flrWait (a : Nat) (b : Byte) : (setByte a b s).flrWait = s.flrWait := rfl
@[simp] theorem setByte_lineTx (a : Nat) (b : Byte) : (setByte a b s).lineTx = s.lineTx := rfl
@[simp] theorem setByte_strips (a : Nat) (b : Byte) : (setByte a b s).strips = s.strips := rfl
@[simp] theorem setByte_pmaTx (a : Nat) (b : Byte) : (setByte a b s).pmaTx = s.pmaTx := rfl
@[simp] theorem setByte_measures (a : Nat) (b : Byte) : (setByte a b s).measures = s.measures := rfl
@[simp] theorem setByte_evtHeld (a : Nat) (b : Byte) : (setByte a b s).evtHeld = s.evtHeld := rfl
@[simp] theorem setByte_aer (a : Nat) (b : Byte) : (setByte a b s).aer = s.aer := rfl
@[simp] theorem setByte_flash (a : Nat) (b : Byte) : (setByte a b s).flash = s.flash := rfl
@[simp] theorem setByte_image (a : Nat) (b : Byte) : (setByte a b s).image = s.image := rfl
@[simp] theorem setByte_warmWait (a : Nat) (b : Byte) : (setByte a b s).warmWait = s.warmWait := rfl
@[simp] theorem setByte_tap (a : Nat) (b : Byte) : (setByte a b s).tap = s.tap := rfl
@[simp] theorem setByte_nonce (a : Nat) (b : Byte) : (setByte a b s).nonce = s.nonce := rfl
@[simp] theorem setByte_dbg (a : Nat) (b : Byte) : (setByte a b s).dbg = s.dbg := rfl
@[simp] theorem setByte_eids (a : Nat) (b : Byte) : (setByte a b s).eids = s.eids := rfl
@[simp] theorem setByte_spdm (a : Nat) (b : Byte) : (setByte a b s).spdm = s.spdm := rfl
@[simp] theorem setByte_spdmTx (a : Nat) (b : Byte) : (setByte a b s).spdmTx = s.spdmTx := rfl
@[simp] theorem setByte_avs (a : Nat) (b : Byte) : (setByte a b s).avs = s.avs := rfl
@[simp] theorem setByte_gpioV (a : Nat) (b : Byte) : (setByte a b s).gpioV = s.gpioV := rfl

/-! ### setErr -/

@[simp] theorem setErr_pending (w : Nat) (e : BitVec 72) : (setErr w e s).pending = s.pending := rfl
@[simp] theorem setErr_ticks (w : Nat) (e : BitVec 72) : (setErr w e s).ticks = s.ticks := rfl
@[simp] theorem setErr_fresh (w : Nat) (e : BitVec 72) : (setErr w e s).fresh = s.fresh := rfl
@[simp] theorem setErr_regs (w : Nat) (e : BitVec 72) : (setErr w e s).regs = s.regs := rfl
@[simp] theorem setErr_parts (w : Nat) (e : BitVec 72) : (setErr w e s).parts = s.parts := rfl
@[simp] theorem setErr_fields (w : Nat) (e : BitVec 72) : (setErr w e s).fields = s.fields := rfl
@[simp] theorem setErr_seqs (w : Nat) (e : BitVec 72) : (setErr w e s).seqs = s.seqs := rfl
@[simp] theorem setErr_cores (w : Nat) (e : BitVec 72) : (setErr w e s).cores = s.cores := rfl
@[simp] theorem setErr_alm (w : Nat) (e : BitVec 72) : (setErr w e s).alm = s.alm := rfl
@[simp] theorem setErr_almErr (w : Nat) (e : BitVec 72) : (setErr w e s).almErr = s.almErr := rfl
@[simp] theorem setErr_edgeIn (w : Nat) (e : BitVec 72) : (setErr w e s).edgeIn = s.edgeIn := rfl
@[simp] theorem setErr_edgeOut (w : Nat) (e : BitVec 72) : (setErr w e s).edgeOut = s.edgeOut := rfl
@[simp] theorem setErr_inTake (w : Nat) (e : BitVec 72) : (setErr w e s).inTake = s.inTake := rfl
@[simp] theorem setErr_mer (w : Nat) (e : BitVec 72) : (setErr w e s).mer = s.mer := rfl
@[simp] theorem setErr_merInc (w : Nat) (e : BitVec 72) : (setErr w e s).merInc = s.merInc := rfl
@[simp] theorem setErr_hostTx (w : Nat) (e : BitVec 72) : (setErr w e s).hostTx = s.hostTx := rfl
@[simp] theorem setErr_holdoff (w : Nat) (e : BitVec 72) : (setErr w e s).holdoff = s.holdoff := rfl
@[simp] theorem setErr_evtLost (w : Nat) (e : BitVec 72) : (setErr w e s).evtLost = s.evtLost := rfl
@[simp] theorem setErr_msixTab (w : Nat) (e : BitVec 72) : (setErr w e s).msixTab = s.msixTab := rfl
@[simp] theorem setErr_msixPba (w : Nat) (e : BitVec 72) : (setErr w e s).msixPba = s.msixPba := rfl
@[simp] theorem setErr_dlog (w : Nat) (e : BitVec 72) : (setErr w e s).dlog = s.dlog := rfl
@[simp] theorem setErr_tlogUnread (w : Nat) (e : BitVec 72) : (setErr w e s).tlogUnread = s.tlogUnread := rfl
@[simp] theorem setErr_jobs (w : Nat) (e : BitVec 72) : (setErr w e s).jobs = s.jobs := rfl
@[simp] theorem setErr_fetches (w : Nat) (e : BitVec 72) : (setErr w e s).fetches = s.fetches := rfl
@[simp] theorem setErr_jobNo (w : Nat) (e : BitVec 72) : (setErr w e s).jobNo = s.jobNo := rfl
@[simp] theorem setErr_heldCqe (w : Nat) (e : BitVec 72) : (setErr w e s).heldCqe = s.heldCqe := rfl
@[simp] theorem setErr_ringStop (w : Nat) (e : BitVec 72) : (setErr w e s).ringStop = s.ringStop := rfl
@[simp] theorem setErr_imageOk (w : Nat) (e : BitVec 72) : (setErr w e s).imageOk = s.imageOk := rfl
@[simp] theorem setErr_doms (w : Nat) (e : BitVec 72) : (setErr w e s).doms = s.doms := rfl
@[simp] theorem setErr_pwrNote (w : Nat) (e : BitVec 72) : (setErr w e s).pwrNote = s.pwrNote := rfl
@[simp] theorem setErr_noteMask (w : Nat) (e : BitVec 72) : (setErr w e s).noteMask = s.noteMask := rfl
@[simp] theorem setErr_pwrRes (w : Nat) (e : BitVec 72) : (setErr w e s).pwrRes = s.pwrRes := rfl
@[simp] theorem setErr_off (w : Nat) (e : BitVec 72) : (setErr w e s).off = s.off := rfl
@[simp] theorem setErr_mem (w : Nat) (e : BitVec 72) : (setErr w e s).mem = s.mem := rfl
@[simp] theorem setErr_chart (w : Nat) (e : BitVec 72) : (setErr w e s).chart = s.chart := rfl
@[simp] theorem setErr_chartErr (w : Nat) (e : BitVec 72) : (setErr w e s).chartErr = s.chartErr := rfl
@[simp] theorem setErr_chartCache (w : Nat) (e : BitVec 72) : (setErr w e s).chartCache = s.chartCache := rfl
@[simp] theorem setErr_xlatWait (w : Nat) (e : BitVec 72) : (setErr w e s).xlatWait = s.xlatWait := rfl
@[simp] theorem setErr_hbmQ (w : Nat) (e : BitVec 72) : (setErr w e s).hbmQ = s.hbmQ := rfl
@[simp] theorem setErr_hbmHeld (w : Nat) (e : BitVec 72) : (setErr w e s).hbmHeld = s.hbmHeld := rfl
@[simp] theorem setErr_hotRun (w : Nat) (e : BitVec 72) : (setErr w e s).hotRun = s.hotRun := rfl
@[simp] theorem setErr_routes (w : Nat) (e : BitVec 72) : (setErr w e s).routes = s.routes := rfl
@[simp] theorem setErr_pcie (w : Nat) (e : BitVec 72) : (setErr w e s).pcie = s.pcie := rfl
@[simp] theorem setErr_fetchFn (w : Nat) (e : BitVec 72) : (setErr w e s).fetchFn = s.fetchFn := rfl
@[simp] theorem setErr_fetchRing (w : Nat) (e : BitVec 72) : (setErr w e s).fetchRing = s.fetchRing := rfl
@[simp] theorem setErr_hbmTurn (w : Nat) (e : BitVec 72) : (setErr w e s).hbmTurn = s.hbmTurn := rfl
@[simp] theorem setErr_hbmErr (w : Nat) (e : BitVec 72) : (setErr w e s).hbmErr = s.hbmErr := rfl
@[simp] theorem setErr_stgTurn (w : Nat) (e : BitVec 72) : (setErr w e s).stgTurn = s.stgTurn := rfl
@[simp] theorem setErr_dbgShut (w : Nat) (e : BitVec 72) : (setErr w e s).dbgShut = s.dbgShut := rfl
@[simp] theorem setErr_routeErr (w : Nat) (e : BitVec 72) : (setErr w e s).routeErr = s.routeErr := rfl
@[simp] theorem setErr_arb (w : Nat) (e : BitVec 72) : (setErr w e s).arb = s.arb := rfl
@[simp] theorem setErr_niWait (w : Nat) (e : BitVec 72) : (setErr w e s).niWait = s.niWait := rfl
@[simp] theorem setErr_pwrLow (w : Nat) (e : BitVec 72) : (setErr w e s).pwrLow = s.pwrLow := rfl
@[simp] theorem setErr_rstDom (w : Nat) (e : BitVec 72) : (setErr w e s).rstDom = s.rstDom := rfl
@[simp] theorem setErr_net (w : Nat) (e : BitVec 72) : (setErr w e s).net = s.net := rfl
@[simp] theorem setErr_eject (w : Nat) (e : BitVec 72) : (setErr w e s).eject = s.eject := rfl
@[simp] theorem setErr_halves (w : Nat) (e : BitVec 72) : (setErr w e s).halves = s.halves := rfl
@[simp] theorem setErr_outst (w : Nat) (e : BitVec 72) : (setErr w e s).outst = s.outst := rfl
@[simp] theorem setErr_answers (w : Nat) (e : BitVec 72) : (setErr w e s).answers = s.answers := rfl
@[simp] theorem setErr_verdict (w : Nat) (e : BitVec 72) : (setErr w e s).verdict = s.verdict := rfl
@[simp] theorem setErr_invals (w : Nat) (e : BitVec 72) : (setErr w e s).invals = s.invals := rfl
@[simp] theorem setErr_invWait (w : Nat) (e : BitVec 72) : (setErr w e s).invWait = s.invWait := rfl
@[simp] theorem setErr_spadQ (w : Nat) (e : BitVec 72) : (setErr w e s).spadQ = s.spadQ := rfl
@[simp] theorem setErr_hbmFast (w : Nat) (e : BitVec 72) : (setErr w e s).hbmFast = s.hbmFast := rfl
@[simp] theorem setErr_cqHold (w : Nat) (e : BitVec 72) : (setErr w e s).cqHold = s.cqHold := rfl
@[simp] theorem setErr_links (w : Nat) (e : BitVec 72) : (setErr w e s).links = s.links := rfl
@[simp] theorem setErr_cands (w : Nat) (e : BitVec 72) : (setErr w e s).cands = s.cands := rfl
@[simp] theorem setErr_master (w : Nat) (e : BitVec 72) : (setErr w e s).master = s.master := rfl
@[simp] theorem setErr_exch (w : Nat) (e : BitVec 72) : (setErr w e s).exch = s.exch := rfl
@[simp] theorem setErr_locks (w : Nat) (e : BitVec 72) : (setErr w e s).locks = s.locks := rfl
@[simp] theorem setErr_watches (w : Nat) (e : BitVec 72) : (setErr w e s).watches = s.watches := rfl
@[simp] theorem setErr_barriers (w : Nat) (e : BitVec 72) : (setErr w e s).barriers = s.barriers := rfl
@[simp] theorem setErr_offNow (w : Nat) (e : BitVec 72) : (setErr w e s).offNow = s.offNow := rfl
@[simp] theorem setErr_offWake (w : Nat) (e : BitVec 72) : (setErr w e s).offWake = s.offWake := rfl
@[simp] theorem setErr_aonBase (w : Nat) (e : BitVec 72) : (setErr w e s).aonBase = s.aonBase := rfl
@[simp] theorem setErr_aonAt (w : Nat) (e : BitVec 72) : (setErr w e s).aonAt = s.aonAt := rfl
@[simp] theorem setErr_pins (w : Nat) (e : BitVec 72) : (setErr w e s).pins = s.pins := rfl
@[simp] theorem setErr_retryQ (w : Nat) (e : BitVec 72) : (setErr w e s).retryQ = s.retryQ := rfl
@[simp] theorem setErr_borrow (w : Nat) (e : BitVec 72) : (setErr w e s).borrow = s.borrow := rfl
@[simp] theorem setErr_partCmd (w : Nat) (e : BitVec 72) : (setErr w e s).partCmd = s.partCmd := rfl
@[simp] theorem setErr_portsOff (w : Nat) (e : BitVec 72) : (setErr w e s).portsOff = s.portsOff := rfl
@[simp] theorem setErr_flrWait (w : Nat) (e : BitVec 72) : (setErr w e s).flrWait = s.flrWait := rfl
@[simp] theorem setErr_lineTx (w : Nat) (e : BitVec 72) : (setErr w e s).lineTx = s.lineTx := rfl
@[simp] theorem setErr_strips (w : Nat) (e : BitVec 72) : (setErr w e s).strips = s.strips := rfl
@[simp] theorem setErr_pmaTx (w : Nat) (e : BitVec 72) : (setErr w e s).pmaTx = s.pmaTx := rfl
@[simp] theorem setErr_measures (w : Nat) (e : BitVec 72) : (setErr w e s).measures = s.measures := rfl
@[simp] theorem setErr_evtHeld (w : Nat) (e : BitVec 72) : (setErr w e s).evtHeld = s.evtHeld := rfl
@[simp] theorem setErr_aer (w : Nat) (e : BitVec 72) : (setErr w e s).aer = s.aer := rfl
@[simp] theorem setErr_flash (w : Nat) (e : BitVec 72) : (setErr w e s).flash = s.flash := rfl
@[simp] theorem setErr_image (w : Nat) (e : BitVec 72) : (setErr w e s).image = s.image := rfl
@[simp] theorem setErr_warmWait (w : Nat) (e : BitVec 72) : (setErr w e s).warmWait = s.warmWait := rfl
@[simp] theorem setErr_tap (w : Nat) (e : BitVec 72) : (setErr w e s).tap = s.tap := rfl
@[simp] theorem setErr_nonce (w : Nat) (e : BitVec 72) : (setErr w e s).nonce = s.nonce := rfl
@[simp] theorem setErr_dbg (w : Nat) (e : BitVec 72) : (setErr w e s).dbg = s.dbg := rfl
@[simp] theorem setErr_eids (w : Nat) (e : BitVec 72) : (setErr w e s).eids = s.eids := rfl
@[simp] theorem setErr_spdm (w : Nat) (e : BitVec 72) : (setErr w e s).spdm = s.spdm := rfl
@[simp] theorem setErr_spdmTx (w : Nat) (e : BitVec 72) : (setErr w e s).spdmTx = s.spdmTx := rfl
@[simp] theorem setErr_avs (w : Nat) (e : BitVec 72) : (setErr w e s).avs = s.avs := rfl
@[simp] theorem setErr_gpioV (w : Nat) (e : BitVec 72) : (setErr w e s).gpioV = s.gpioV := rfl

/-! ### updField -/

@[simp] theorem updField_pending (n : Nat) (g : Field → Field) : (updField n g s).pending = s.pending := rfl
@[simp] theorem updField_ticks (n : Nat) (g : Field → Field) : (updField n g s).ticks = s.ticks := rfl
@[simp] theorem updField_fresh (n : Nat) (g : Field → Field) : (updField n g s).fresh = s.fresh := rfl
@[simp] theorem updField_regs (n : Nat) (g : Field → Field) : (updField n g s).regs = s.regs := rfl
@[simp] theorem updField_parts (n : Nat) (g : Field → Field) : (updField n g s).parts = s.parts := rfl
@[simp] theorem updField_seqs (n : Nat) (g : Field → Field) : (updField n g s).seqs = s.seqs := rfl
@[simp] theorem updField_cores (n : Nat) (g : Field → Field) : (updField n g s).cores = s.cores := rfl
@[simp] theorem updField_alm (n : Nat) (g : Field → Field) : (updField n g s).alm = s.alm := rfl
@[simp] theorem updField_almErr (n : Nat) (g : Field → Field) : (updField n g s).almErr = s.almErr := rfl
@[simp] theorem updField_edgeIn (n : Nat) (g : Field → Field) : (updField n g s).edgeIn = s.edgeIn := rfl
@[simp] theorem updField_edgeOut (n : Nat) (g : Field → Field) : (updField n g s).edgeOut = s.edgeOut := rfl
@[simp] theorem updField_inTake (n : Nat) (g : Field → Field) : (updField n g s).inTake = s.inTake := rfl
@[simp] theorem updField_mer (n : Nat) (g : Field → Field) : (updField n g s).mer = s.mer := rfl
@[simp] theorem updField_merInc (n : Nat) (g : Field → Field) : (updField n g s).merInc = s.merInc := rfl
@[simp] theorem updField_hostTx (n : Nat) (g : Field → Field) : (updField n g s).hostTx = s.hostTx := rfl
@[simp] theorem updField_holdoff (n : Nat) (g : Field → Field) : (updField n g s).holdoff = s.holdoff := rfl
@[simp] theorem updField_evtLost (n : Nat) (g : Field → Field) : (updField n g s).evtLost = s.evtLost := rfl
@[simp] theorem updField_msixTab (n : Nat) (g : Field → Field) : (updField n g s).msixTab = s.msixTab := rfl
@[simp] theorem updField_msixPba (n : Nat) (g : Field → Field) : (updField n g s).msixPba = s.msixPba := rfl
@[simp] theorem updField_dlog (n : Nat) (g : Field → Field) : (updField n g s).dlog = s.dlog := rfl
@[simp] theorem updField_tlogUnread (n : Nat) (g : Field → Field) : (updField n g s).tlogUnread = s.tlogUnread := rfl
@[simp] theorem updField_jobs (n : Nat) (g : Field → Field) : (updField n g s).jobs = s.jobs := rfl
@[simp] theorem updField_fetches (n : Nat) (g : Field → Field) : (updField n g s).fetches = s.fetches := rfl
@[simp] theorem updField_jobNo (n : Nat) (g : Field → Field) : (updField n g s).jobNo = s.jobNo := rfl
@[simp] theorem updField_heldCqe (n : Nat) (g : Field → Field) : (updField n g s).heldCqe = s.heldCqe := rfl
@[simp] theorem updField_ringStop (n : Nat) (g : Field → Field) : (updField n g s).ringStop = s.ringStop := rfl
@[simp] theorem updField_imageOk (n : Nat) (g : Field → Field) : (updField n g s).imageOk = s.imageOk := rfl
@[simp] theorem updField_doms (n : Nat) (g : Field → Field) : (updField n g s).doms = s.doms := rfl
@[simp] theorem updField_pwrNote (n : Nat) (g : Field → Field) : (updField n g s).pwrNote = s.pwrNote := rfl
@[simp] theorem updField_noteMask (n : Nat) (g : Field → Field) : (updField n g s).noteMask = s.noteMask := rfl
@[simp] theorem updField_pwrRes (n : Nat) (g : Field → Field) : (updField n g s).pwrRes = s.pwrRes := rfl
@[simp] theorem updField_off (n : Nat) (g : Field → Field) : (updField n g s).off = s.off := rfl
@[simp] theorem updField_mem (n : Nat) (g : Field → Field) : (updField n g s).mem = s.mem := rfl
@[simp] theorem updField_memErr (n : Nat) (g : Field → Field) : (updField n g s).memErr = s.memErr := rfl
@[simp] theorem updField_chart (n : Nat) (g : Field → Field) : (updField n g s).chart = s.chart := rfl
@[simp] theorem updField_chartErr (n : Nat) (g : Field → Field) : (updField n g s).chartErr = s.chartErr := rfl
@[simp] theorem updField_chartCache (n : Nat) (g : Field → Field) : (updField n g s).chartCache = s.chartCache := rfl
@[simp] theorem updField_xlatWait (n : Nat) (g : Field → Field) : (updField n g s).xlatWait = s.xlatWait := rfl
@[simp] theorem updField_hbmQ (n : Nat) (g : Field → Field) : (updField n g s).hbmQ = s.hbmQ := rfl
@[simp] theorem updField_hbmHeld (n : Nat) (g : Field → Field) : (updField n g s).hbmHeld = s.hbmHeld := rfl
@[simp] theorem updField_hotRun (n : Nat) (g : Field → Field) : (updField n g s).hotRun = s.hotRun := rfl
@[simp] theorem updField_routes (n : Nat) (g : Field → Field) : (updField n g s).routes = s.routes := rfl
@[simp] theorem updField_pcie (n : Nat) (g : Field → Field) : (updField n g s).pcie = s.pcie := rfl
@[simp] theorem updField_fetchFn (n : Nat) (g : Field → Field) : (updField n g s).fetchFn = s.fetchFn := rfl
@[simp] theorem updField_fetchRing (n : Nat) (g : Field → Field) : (updField n g s).fetchRing = s.fetchRing := rfl
@[simp] theorem updField_hbmTurn (n : Nat) (g : Field → Field) : (updField n g s).hbmTurn = s.hbmTurn := rfl
@[simp] theorem updField_hbmErr (n : Nat) (g : Field → Field) : (updField n g s).hbmErr = s.hbmErr := rfl
@[simp] theorem updField_stgTurn (n : Nat) (g : Field → Field) : (updField n g s).stgTurn = s.stgTurn := rfl
@[simp] theorem updField_dbgShut (n : Nat) (g : Field → Field) : (updField n g s).dbgShut = s.dbgShut := rfl
@[simp] theorem updField_routeErr (n : Nat) (g : Field → Field) : (updField n g s).routeErr = s.routeErr := rfl
@[simp] theorem updField_arb (n : Nat) (g : Field → Field) : (updField n g s).arb = s.arb := rfl
@[simp] theorem updField_niWait (n : Nat) (g : Field → Field) : (updField n g s).niWait = s.niWait := rfl
@[simp] theorem updField_pwrLow (n : Nat) (g : Field → Field) : (updField n g s).pwrLow = s.pwrLow := rfl
@[simp] theorem updField_rstDom (n : Nat) (g : Field → Field) : (updField n g s).rstDom = s.rstDom := rfl
@[simp] theorem updField_net (n : Nat) (g : Field → Field) : (updField n g s).net = s.net := rfl
@[simp] theorem updField_eject (n : Nat) (g : Field → Field) : (updField n g s).eject = s.eject := rfl
@[simp] theorem updField_halves (n : Nat) (g : Field → Field) : (updField n g s).halves = s.halves := rfl
@[simp] theorem updField_outst (n : Nat) (g : Field → Field) : (updField n g s).outst = s.outst := rfl
@[simp] theorem updField_answers (n : Nat) (g : Field → Field) : (updField n g s).answers = s.answers := rfl
@[simp] theorem updField_verdict (n : Nat) (g : Field → Field) : (updField n g s).verdict = s.verdict := rfl
@[simp] theorem updField_invals (n : Nat) (g : Field → Field) : (updField n g s).invals = s.invals := rfl
@[simp] theorem updField_invWait (n : Nat) (g : Field → Field) : (updField n g s).invWait = s.invWait := rfl
@[simp] theorem updField_spadQ (n : Nat) (g : Field → Field) : (updField n g s).spadQ = s.spadQ := rfl
@[simp] theorem updField_hbmFast (n : Nat) (g : Field → Field) : (updField n g s).hbmFast = s.hbmFast := rfl
@[simp] theorem updField_cqHold (n : Nat) (g : Field → Field) : (updField n g s).cqHold = s.cqHold := rfl
@[simp] theorem updField_links (n : Nat) (g : Field → Field) : (updField n g s).links = s.links := rfl
@[simp] theorem updField_cands (n : Nat) (g : Field → Field) : (updField n g s).cands = s.cands := rfl
@[simp] theorem updField_master (n : Nat) (g : Field → Field) : (updField n g s).master = s.master := rfl
@[simp] theorem updField_exch (n : Nat) (g : Field → Field) : (updField n g s).exch = s.exch := rfl
@[simp] theorem updField_locks (n : Nat) (g : Field → Field) : (updField n g s).locks = s.locks := rfl
@[simp] theorem updField_watches (n : Nat) (g : Field → Field) : (updField n g s).watches = s.watches := rfl
@[simp] theorem updField_barriers (n : Nat) (g : Field → Field) : (updField n g s).barriers = s.barriers := rfl
@[simp] theorem updField_offNow (n : Nat) (g : Field → Field) : (updField n g s).offNow = s.offNow := rfl
@[simp] theorem updField_offWake (n : Nat) (g : Field → Field) : (updField n g s).offWake = s.offWake := rfl
@[simp] theorem updField_aonBase (n : Nat) (g : Field → Field) : (updField n g s).aonBase = s.aonBase := rfl
@[simp] theorem updField_aonAt (n : Nat) (g : Field → Field) : (updField n g s).aonAt = s.aonAt := rfl
@[simp] theorem updField_pins (n : Nat) (g : Field → Field) : (updField n g s).pins = s.pins := rfl
@[simp] theorem updField_retryQ (n : Nat) (g : Field → Field) : (updField n g s).retryQ = s.retryQ := rfl
@[simp] theorem updField_borrow (n : Nat) (g : Field → Field) : (updField n g s).borrow = s.borrow := rfl
@[simp] theorem updField_partCmd (n : Nat) (g : Field → Field) : (updField n g s).partCmd = s.partCmd := rfl
@[simp] theorem updField_portsOff (n : Nat) (g : Field → Field) : (updField n g s).portsOff = s.portsOff := rfl
@[simp] theorem updField_flrWait (n : Nat) (g : Field → Field) : (updField n g s).flrWait = s.flrWait := rfl
@[simp] theorem updField_lineTx (n : Nat) (g : Field → Field) : (updField n g s).lineTx = s.lineTx := rfl
@[simp] theorem updField_strips (n : Nat) (g : Field → Field) : (updField n g s).strips = s.strips := rfl
@[simp] theorem updField_pmaTx (n : Nat) (g : Field → Field) : (updField n g s).pmaTx = s.pmaTx := rfl
@[simp] theorem updField_measures (n : Nat) (g : Field → Field) : (updField n g s).measures = s.measures := rfl
@[simp] theorem updField_evtHeld (n : Nat) (g : Field → Field) : (updField n g s).evtHeld = s.evtHeld := rfl
@[simp] theorem updField_aer (n : Nat) (g : Field → Field) : (updField n g s).aer = s.aer := rfl
@[simp] theorem updField_flash (n : Nat) (g : Field → Field) : (updField n g s).flash = s.flash := rfl
@[simp] theorem updField_image (n : Nat) (g : Field → Field) : (updField n g s).image = s.image := rfl
@[simp] theorem updField_warmWait (n : Nat) (g : Field → Field) : (updField n g s).warmWait = s.warmWait := rfl
@[simp] theorem updField_tap (n : Nat) (g : Field → Field) : (updField n g s).tap = s.tap := rfl
@[simp] theorem updField_nonce (n : Nat) (g : Field → Field) : (updField n g s).nonce = s.nonce := rfl
@[simp] theorem updField_dbg (n : Nat) (g : Field → Field) : (updField n g s).dbg = s.dbg := rfl
@[simp] theorem updField_eids (n : Nat) (g : Field → Field) : (updField n g s).eids = s.eids := rfl
@[simp] theorem updField_spdm (n : Nat) (g : Field → Field) : (updField n g s).spdm = s.spdm := rfl
@[simp] theorem updField_spdmTx (n : Nat) (g : Field → Field) : (updField n g s).spdmTx = s.spdmTx := rfl
@[simp] theorem updField_avs (n : Nat) (g : Field → Field) : (updField n g s).avs = s.avs := rfl
@[simp] theorem updField_gpioV (n : Nat) (g : Field → Field) : (updField n g s).gpioV = s.gpioV := rfl

/-! ### updSeq -/

@[simp] theorem updSeq_pending (n : Nat) (g : MSeq → MSeq) : (updSeq n g s).pending = s.pending := rfl
@[simp] theorem updSeq_ticks (n : Nat) (g : MSeq → MSeq) : (updSeq n g s).ticks = s.ticks := rfl
@[simp] theorem updSeq_fresh (n : Nat) (g : MSeq → MSeq) : (updSeq n g s).fresh = s.fresh := rfl
@[simp] theorem updSeq_regs (n : Nat) (g : MSeq → MSeq) : (updSeq n g s).regs = s.regs := rfl
@[simp] theorem updSeq_parts (n : Nat) (g : MSeq → MSeq) : (updSeq n g s).parts = s.parts := rfl
@[simp] theorem updSeq_fields (n : Nat) (g : MSeq → MSeq) : (updSeq n g s).fields = s.fields := rfl
@[simp] theorem updSeq_cores (n : Nat) (g : MSeq → MSeq) : (updSeq n g s).cores = s.cores := rfl
@[simp] theorem updSeq_alm (n : Nat) (g : MSeq → MSeq) : (updSeq n g s).alm = s.alm := rfl
@[simp] theorem updSeq_almErr (n : Nat) (g : MSeq → MSeq) : (updSeq n g s).almErr = s.almErr := rfl
@[simp] theorem updSeq_edgeIn (n : Nat) (g : MSeq → MSeq) : (updSeq n g s).edgeIn = s.edgeIn := rfl
@[simp] theorem updSeq_edgeOut (n : Nat) (g : MSeq → MSeq) : (updSeq n g s).edgeOut = s.edgeOut := rfl
@[simp] theorem updSeq_inTake (n : Nat) (g : MSeq → MSeq) : (updSeq n g s).inTake = s.inTake := rfl
@[simp] theorem updSeq_mer (n : Nat) (g : MSeq → MSeq) : (updSeq n g s).mer = s.mer := rfl
@[simp] theorem updSeq_merInc (n : Nat) (g : MSeq → MSeq) : (updSeq n g s).merInc = s.merInc := rfl
@[simp] theorem updSeq_hostTx (n : Nat) (g : MSeq → MSeq) : (updSeq n g s).hostTx = s.hostTx := rfl
@[simp] theorem updSeq_holdoff (n : Nat) (g : MSeq → MSeq) : (updSeq n g s).holdoff = s.holdoff := rfl
@[simp] theorem updSeq_evtLost (n : Nat) (g : MSeq → MSeq) : (updSeq n g s).evtLost = s.evtLost := rfl
@[simp] theorem updSeq_msixTab (n : Nat) (g : MSeq → MSeq) : (updSeq n g s).msixTab = s.msixTab := rfl
@[simp] theorem updSeq_msixPba (n : Nat) (g : MSeq → MSeq) : (updSeq n g s).msixPba = s.msixPba := rfl
@[simp] theorem updSeq_dlog (n : Nat) (g : MSeq → MSeq) : (updSeq n g s).dlog = s.dlog := rfl
@[simp] theorem updSeq_tlogUnread (n : Nat) (g : MSeq → MSeq) : (updSeq n g s).tlogUnread = s.tlogUnread := rfl
@[simp] theorem updSeq_jobs (n : Nat) (g : MSeq → MSeq) : (updSeq n g s).jobs = s.jobs := rfl
@[simp] theorem updSeq_fetches (n : Nat) (g : MSeq → MSeq) : (updSeq n g s).fetches = s.fetches := rfl
@[simp] theorem updSeq_jobNo (n : Nat) (g : MSeq → MSeq) : (updSeq n g s).jobNo = s.jobNo := rfl
@[simp] theorem updSeq_heldCqe (n : Nat) (g : MSeq → MSeq) : (updSeq n g s).heldCqe = s.heldCqe := rfl
@[simp] theorem updSeq_ringStop (n : Nat) (g : MSeq → MSeq) : (updSeq n g s).ringStop = s.ringStop := rfl
@[simp] theorem updSeq_imageOk (n : Nat) (g : MSeq → MSeq) : (updSeq n g s).imageOk = s.imageOk := rfl
@[simp] theorem updSeq_doms (n : Nat) (g : MSeq → MSeq) : (updSeq n g s).doms = s.doms := rfl
@[simp] theorem updSeq_pwrNote (n : Nat) (g : MSeq → MSeq) : (updSeq n g s).pwrNote = s.pwrNote := rfl
@[simp] theorem updSeq_noteMask (n : Nat) (g : MSeq → MSeq) : (updSeq n g s).noteMask = s.noteMask := rfl
@[simp] theorem updSeq_pwrRes (n : Nat) (g : MSeq → MSeq) : (updSeq n g s).pwrRes = s.pwrRes := rfl
@[simp] theorem updSeq_off (n : Nat) (g : MSeq → MSeq) : (updSeq n g s).off = s.off := rfl
@[simp] theorem updSeq_mem (n : Nat) (g : MSeq → MSeq) : (updSeq n g s).mem = s.mem := rfl
@[simp] theorem updSeq_memErr (n : Nat) (g : MSeq → MSeq) : (updSeq n g s).memErr = s.memErr := rfl
@[simp] theorem updSeq_chart (n : Nat) (g : MSeq → MSeq) : (updSeq n g s).chart = s.chart := rfl
@[simp] theorem updSeq_chartErr (n : Nat) (g : MSeq → MSeq) : (updSeq n g s).chartErr = s.chartErr := rfl
@[simp] theorem updSeq_chartCache (n : Nat) (g : MSeq → MSeq) : (updSeq n g s).chartCache = s.chartCache := rfl
@[simp] theorem updSeq_xlatWait (n : Nat) (g : MSeq → MSeq) : (updSeq n g s).xlatWait = s.xlatWait := rfl
@[simp] theorem updSeq_hbmQ (n : Nat) (g : MSeq → MSeq) : (updSeq n g s).hbmQ = s.hbmQ := rfl
@[simp] theorem updSeq_hbmHeld (n : Nat) (g : MSeq → MSeq) : (updSeq n g s).hbmHeld = s.hbmHeld := rfl
@[simp] theorem updSeq_hotRun (n : Nat) (g : MSeq → MSeq) : (updSeq n g s).hotRun = s.hotRun := rfl
@[simp] theorem updSeq_routes (n : Nat) (g : MSeq → MSeq) : (updSeq n g s).routes = s.routes := rfl
@[simp] theorem updSeq_pcie (n : Nat) (g : MSeq → MSeq) : (updSeq n g s).pcie = s.pcie := rfl
@[simp] theorem updSeq_fetchFn (n : Nat) (g : MSeq → MSeq) : (updSeq n g s).fetchFn = s.fetchFn := rfl
@[simp] theorem updSeq_fetchRing (n : Nat) (g : MSeq → MSeq) : (updSeq n g s).fetchRing = s.fetchRing := rfl
@[simp] theorem updSeq_hbmTurn (n : Nat) (g : MSeq → MSeq) : (updSeq n g s).hbmTurn = s.hbmTurn := rfl
@[simp] theorem updSeq_hbmErr (n : Nat) (g : MSeq → MSeq) : (updSeq n g s).hbmErr = s.hbmErr := rfl
@[simp] theorem updSeq_stgTurn (n : Nat) (g : MSeq → MSeq) : (updSeq n g s).stgTurn = s.stgTurn := rfl
@[simp] theorem updSeq_dbgShut (n : Nat) (g : MSeq → MSeq) : (updSeq n g s).dbgShut = s.dbgShut := rfl
@[simp] theorem updSeq_routeErr (n : Nat) (g : MSeq → MSeq) : (updSeq n g s).routeErr = s.routeErr := rfl
@[simp] theorem updSeq_arb (n : Nat) (g : MSeq → MSeq) : (updSeq n g s).arb = s.arb := rfl
@[simp] theorem updSeq_niWait (n : Nat) (g : MSeq → MSeq) : (updSeq n g s).niWait = s.niWait := rfl
@[simp] theorem updSeq_pwrLow (n : Nat) (g : MSeq → MSeq) : (updSeq n g s).pwrLow = s.pwrLow := rfl
@[simp] theorem updSeq_rstDom (n : Nat) (g : MSeq → MSeq) : (updSeq n g s).rstDom = s.rstDom := rfl
@[simp] theorem updSeq_net (n : Nat) (g : MSeq → MSeq) : (updSeq n g s).net = s.net := rfl
@[simp] theorem updSeq_eject (n : Nat) (g : MSeq → MSeq) : (updSeq n g s).eject = s.eject := rfl
@[simp] theorem updSeq_halves (n : Nat) (g : MSeq → MSeq) : (updSeq n g s).halves = s.halves := rfl
@[simp] theorem updSeq_outst (n : Nat) (g : MSeq → MSeq) : (updSeq n g s).outst = s.outst := rfl
@[simp] theorem updSeq_answers (n : Nat) (g : MSeq → MSeq) : (updSeq n g s).answers = s.answers := rfl
@[simp] theorem updSeq_verdict (n : Nat) (g : MSeq → MSeq) : (updSeq n g s).verdict = s.verdict := rfl
@[simp] theorem updSeq_invals (n : Nat) (g : MSeq → MSeq) : (updSeq n g s).invals = s.invals := rfl
@[simp] theorem updSeq_invWait (n : Nat) (g : MSeq → MSeq) : (updSeq n g s).invWait = s.invWait := rfl
@[simp] theorem updSeq_spadQ (n : Nat) (g : MSeq → MSeq) : (updSeq n g s).spadQ = s.spadQ := rfl
@[simp] theorem updSeq_hbmFast (n : Nat) (g : MSeq → MSeq) : (updSeq n g s).hbmFast = s.hbmFast := rfl
@[simp] theorem updSeq_cqHold (n : Nat) (g : MSeq → MSeq) : (updSeq n g s).cqHold = s.cqHold := rfl
@[simp] theorem updSeq_links (n : Nat) (g : MSeq → MSeq) : (updSeq n g s).links = s.links := rfl
@[simp] theorem updSeq_cands (n : Nat) (g : MSeq → MSeq) : (updSeq n g s).cands = s.cands := rfl
@[simp] theorem updSeq_master (n : Nat) (g : MSeq → MSeq) : (updSeq n g s).master = s.master := rfl
@[simp] theorem updSeq_exch (n : Nat) (g : MSeq → MSeq) : (updSeq n g s).exch = s.exch := rfl
@[simp] theorem updSeq_locks (n : Nat) (g : MSeq → MSeq) : (updSeq n g s).locks = s.locks := rfl
@[simp] theorem updSeq_watches (n : Nat) (g : MSeq → MSeq) : (updSeq n g s).watches = s.watches := rfl
@[simp] theorem updSeq_barriers (n : Nat) (g : MSeq → MSeq) : (updSeq n g s).barriers = s.barriers := rfl
@[simp] theorem updSeq_offNow (n : Nat) (g : MSeq → MSeq) : (updSeq n g s).offNow = s.offNow := rfl
@[simp] theorem updSeq_offWake (n : Nat) (g : MSeq → MSeq) : (updSeq n g s).offWake = s.offWake := rfl
@[simp] theorem updSeq_aonBase (n : Nat) (g : MSeq → MSeq) : (updSeq n g s).aonBase = s.aonBase := rfl
@[simp] theorem updSeq_aonAt (n : Nat) (g : MSeq → MSeq) : (updSeq n g s).aonAt = s.aonAt := rfl
@[simp] theorem updSeq_pins (n : Nat) (g : MSeq → MSeq) : (updSeq n g s).pins = s.pins := rfl
@[simp] theorem updSeq_retryQ (n : Nat) (g : MSeq → MSeq) : (updSeq n g s).retryQ = s.retryQ := rfl
@[simp] theorem updSeq_borrow (n : Nat) (g : MSeq → MSeq) : (updSeq n g s).borrow = s.borrow := rfl
@[simp] theorem updSeq_partCmd (n : Nat) (g : MSeq → MSeq) : (updSeq n g s).partCmd = s.partCmd := rfl
@[simp] theorem updSeq_portsOff (n : Nat) (g : MSeq → MSeq) : (updSeq n g s).portsOff = s.portsOff := rfl
@[simp] theorem updSeq_flrWait (n : Nat) (g : MSeq → MSeq) : (updSeq n g s).flrWait = s.flrWait := rfl
@[simp] theorem updSeq_lineTx (n : Nat) (g : MSeq → MSeq) : (updSeq n g s).lineTx = s.lineTx := rfl
@[simp] theorem updSeq_strips (n : Nat) (g : MSeq → MSeq) : (updSeq n g s).strips = s.strips := rfl
@[simp] theorem updSeq_pmaTx (n : Nat) (g : MSeq → MSeq) : (updSeq n g s).pmaTx = s.pmaTx := rfl
@[simp] theorem updSeq_measures (n : Nat) (g : MSeq → MSeq) : (updSeq n g s).measures = s.measures := rfl
@[simp] theorem updSeq_evtHeld (n : Nat) (g : MSeq → MSeq) : (updSeq n g s).evtHeld = s.evtHeld := rfl
@[simp] theorem updSeq_aer (n : Nat) (g : MSeq → MSeq) : (updSeq n g s).aer = s.aer := rfl
@[simp] theorem updSeq_flash (n : Nat) (g : MSeq → MSeq) : (updSeq n g s).flash = s.flash := rfl
@[simp] theorem updSeq_image (n : Nat) (g : MSeq → MSeq) : (updSeq n g s).image = s.image := rfl
@[simp] theorem updSeq_warmWait (n : Nat) (g : MSeq → MSeq) : (updSeq n g s).warmWait = s.warmWait := rfl
@[simp] theorem updSeq_tap (n : Nat) (g : MSeq → MSeq) : (updSeq n g s).tap = s.tap := rfl
@[simp] theorem updSeq_nonce (n : Nat) (g : MSeq → MSeq) : (updSeq n g s).nonce = s.nonce := rfl
@[simp] theorem updSeq_dbg (n : Nat) (g : MSeq → MSeq) : (updSeq n g s).dbg = s.dbg := rfl
@[simp] theorem updSeq_eids (n : Nat) (g : MSeq → MSeq) : (updSeq n g s).eids = s.eids := rfl
@[simp] theorem updSeq_spdm (n : Nat) (g : MSeq → MSeq) : (updSeq n g s).spdm = s.spdm := rfl
@[simp] theorem updSeq_spdmTx (n : Nat) (g : MSeq → MSeq) : (updSeq n g s).spdmTx = s.spdmTx := rfl
@[simp] theorem updSeq_avs (n : Nat) (g : MSeq → MSeq) : (updSeq n g s).avs = s.avs := rfl
@[simp] theorem updSeq_gpioV (n : Nat) (g : MSeq → MSeq) : (updSeq n g s).gpioV = s.gpioV := rfl

/-! ### updCore -/

@[simp] theorem updCore_pending (n : Nat) (g : Core → Core) : (updCore n g s).pending = s.pending := rfl
@[simp] theorem updCore_ticks (n : Nat) (g : Core → Core) : (updCore n g s).ticks = s.ticks := rfl
@[simp] theorem updCore_fresh (n : Nat) (g : Core → Core) : (updCore n g s).fresh = s.fresh := rfl
@[simp] theorem updCore_regs (n : Nat) (g : Core → Core) : (updCore n g s).regs = s.regs := rfl
@[simp] theorem updCore_parts (n : Nat) (g : Core → Core) : (updCore n g s).parts = s.parts := rfl
@[simp] theorem updCore_fields (n : Nat) (g : Core → Core) : (updCore n g s).fields = s.fields := rfl
@[simp] theorem updCore_seqs (n : Nat) (g : Core → Core) : (updCore n g s).seqs = s.seqs := rfl
@[simp] theorem updCore_alm (n : Nat) (g : Core → Core) : (updCore n g s).alm = s.alm := rfl
@[simp] theorem updCore_almErr (n : Nat) (g : Core → Core) : (updCore n g s).almErr = s.almErr := rfl
@[simp] theorem updCore_edgeIn (n : Nat) (g : Core → Core) : (updCore n g s).edgeIn = s.edgeIn := rfl
@[simp] theorem updCore_edgeOut (n : Nat) (g : Core → Core) : (updCore n g s).edgeOut = s.edgeOut := rfl
@[simp] theorem updCore_inTake (n : Nat) (g : Core → Core) : (updCore n g s).inTake = s.inTake := rfl
@[simp] theorem updCore_mer (n : Nat) (g : Core → Core) : (updCore n g s).mer = s.mer := rfl
@[simp] theorem updCore_merInc (n : Nat) (g : Core → Core) : (updCore n g s).merInc = s.merInc := rfl
@[simp] theorem updCore_hostTx (n : Nat) (g : Core → Core) : (updCore n g s).hostTx = s.hostTx := rfl
@[simp] theorem updCore_holdoff (n : Nat) (g : Core → Core) : (updCore n g s).holdoff = s.holdoff := rfl
@[simp] theorem updCore_evtLost (n : Nat) (g : Core → Core) : (updCore n g s).evtLost = s.evtLost := rfl
@[simp] theorem updCore_msixTab (n : Nat) (g : Core → Core) : (updCore n g s).msixTab = s.msixTab := rfl
@[simp] theorem updCore_msixPba (n : Nat) (g : Core → Core) : (updCore n g s).msixPba = s.msixPba := rfl
@[simp] theorem updCore_dlog (n : Nat) (g : Core → Core) : (updCore n g s).dlog = s.dlog := rfl
@[simp] theorem updCore_tlogUnread (n : Nat) (g : Core → Core) : (updCore n g s).tlogUnread = s.tlogUnread := rfl
@[simp] theorem updCore_jobs (n : Nat) (g : Core → Core) : (updCore n g s).jobs = s.jobs := rfl
@[simp] theorem updCore_fetches (n : Nat) (g : Core → Core) : (updCore n g s).fetches = s.fetches := rfl
@[simp] theorem updCore_jobNo (n : Nat) (g : Core → Core) : (updCore n g s).jobNo = s.jobNo := rfl
@[simp] theorem updCore_heldCqe (n : Nat) (g : Core → Core) : (updCore n g s).heldCqe = s.heldCqe := rfl
@[simp] theorem updCore_ringStop (n : Nat) (g : Core → Core) : (updCore n g s).ringStop = s.ringStop := rfl
@[simp] theorem updCore_imageOk (n : Nat) (g : Core → Core) : (updCore n g s).imageOk = s.imageOk := rfl
@[simp] theorem updCore_doms (n : Nat) (g : Core → Core) : (updCore n g s).doms = s.doms := rfl
@[simp] theorem updCore_pwrNote (n : Nat) (g : Core → Core) : (updCore n g s).pwrNote = s.pwrNote := rfl
@[simp] theorem updCore_noteMask (n : Nat) (g : Core → Core) : (updCore n g s).noteMask = s.noteMask := rfl
@[simp] theorem updCore_pwrRes (n : Nat) (g : Core → Core) : (updCore n g s).pwrRes = s.pwrRes := rfl
@[simp] theorem updCore_off (n : Nat) (g : Core → Core) : (updCore n g s).off = s.off := rfl
@[simp] theorem updCore_mem (n : Nat) (g : Core → Core) : (updCore n g s).mem = s.mem := rfl
@[simp] theorem updCore_memErr (n : Nat) (g : Core → Core) : (updCore n g s).memErr = s.memErr := rfl
@[simp] theorem updCore_chart (n : Nat) (g : Core → Core) : (updCore n g s).chart = s.chart := rfl
@[simp] theorem updCore_chartErr (n : Nat) (g : Core → Core) : (updCore n g s).chartErr = s.chartErr := rfl
@[simp] theorem updCore_chartCache (n : Nat) (g : Core → Core) : (updCore n g s).chartCache = s.chartCache := rfl
@[simp] theorem updCore_xlatWait (n : Nat) (g : Core → Core) : (updCore n g s).xlatWait = s.xlatWait := rfl
@[simp] theorem updCore_hbmQ (n : Nat) (g : Core → Core) : (updCore n g s).hbmQ = s.hbmQ := rfl
@[simp] theorem updCore_hbmHeld (n : Nat) (g : Core → Core) : (updCore n g s).hbmHeld = s.hbmHeld := rfl
@[simp] theorem updCore_hotRun (n : Nat) (g : Core → Core) : (updCore n g s).hotRun = s.hotRun := rfl
@[simp] theorem updCore_routes (n : Nat) (g : Core → Core) : (updCore n g s).routes = s.routes := rfl
@[simp] theorem updCore_pcie (n : Nat) (g : Core → Core) : (updCore n g s).pcie = s.pcie := rfl
@[simp] theorem updCore_fetchFn (n : Nat) (g : Core → Core) : (updCore n g s).fetchFn = s.fetchFn := rfl
@[simp] theorem updCore_fetchRing (n : Nat) (g : Core → Core) : (updCore n g s).fetchRing = s.fetchRing := rfl
@[simp] theorem updCore_hbmTurn (n : Nat) (g : Core → Core) : (updCore n g s).hbmTurn = s.hbmTurn := rfl
@[simp] theorem updCore_hbmErr (n : Nat) (g : Core → Core) : (updCore n g s).hbmErr = s.hbmErr := rfl
@[simp] theorem updCore_stgTurn (n : Nat) (g : Core → Core) : (updCore n g s).stgTurn = s.stgTurn := rfl
@[simp] theorem updCore_dbgShut (n : Nat) (g : Core → Core) : (updCore n g s).dbgShut = s.dbgShut := rfl
@[simp] theorem updCore_routeErr (n : Nat) (g : Core → Core) : (updCore n g s).routeErr = s.routeErr := rfl
@[simp] theorem updCore_arb (n : Nat) (g : Core → Core) : (updCore n g s).arb = s.arb := rfl
@[simp] theorem updCore_niWait (n : Nat) (g : Core → Core) : (updCore n g s).niWait = s.niWait := rfl
@[simp] theorem updCore_pwrLow (n : Nat) (g : Core → Core) : (updCore n g s).pwrLow = s.pwrLow := rfl
@[simp] theorem updCore_rstDom (n : Nat) (g : Core → Core) : (updCore n g s).rstDom = s.rstDom := rfl
@[simp] theorem updCore_net (n : Nat) (g : Core → Core) : (updCore n g s).net = s.net := rfl
@[simp] theorem updCore_eject (n : Nat) (g : Core → Core) : (updCore n g s).eject = s.eject := rfl
@[simp] theorem updCore_halves (n : Nat) (g : Core → Core) : (updCore n g s).halves = s.halves := rfl
@[simp] theorem updCore_outst (n : Nat) (g : Core → Core) : (updCore n g s).outst = s.outst := rfl
@[simp] theorem updCore_answers (n : Nat) (g : Core → Core) : (updCore n g s).answers = s.answers := rfl
@[simp] theorem updCore_verdict (n : Nat) (g : Core → Core) : (updCore n g s).verdict = s.verdict := rfl
@[simp] theorem updCore_invals (n : Nat) (g : Core → Core) : (updCore n g s).invals = s.invals := rfl
@[simp] theorem updCore_invWait (n : Nat) (g : Core → Core) : (updCore n g s).invWait = s.invWait := rfl
@[simp] theorem updCore_spadQ (n : Nat) (g : Core → Core) : (updCore n g s).spadQ = s.spadQ := rfl
@[simp] theorem updCore_hbmFast (n : Nat) (g : Core → Core) : (updCore n g s).hbmFast = s.hbmFast := rfl
@[simp] theorem updCore_cqHold (n : Nat) (g : Core → Core) : (updCore n g s).cqHold = s.cqHold := rfl
@[simp] theorem updCore_links (n : Nat) (g : Core → Core) : (updCore n g s).links = s.links := rfl
@[simp] theorem updCore_cands (n : Nat) (g : Core → Core) : (updCore n g s).cands = s.cands := rfl
@[simp] theorem updCore_master (n : Nat) (g : Core → Core) : (updCore n g s).master = s.master := rfl
@[simp] theorem updCore_exch (n : Nat) (g : Core → Core) : (updCore n g s).exch = s.exch := rfl
@[simp] theorem updCore_locks (n : Nat) (g : Core → Core) : (updCore n g s).locks = s.locks := rfl
@[simp] theorem updCore_watches (n : Nat) (g : Core → Core) : (updCore n g s).watches = s.watches := rfl
@[simp] theorem updCore_barriers (n : Nat) (g : Core → Core) : (updCore n g s).barriers = s.barriers := rfl
@[simp] theorem updCore_offNow (n : Nat) (g : Core → Core) : (updCore n g s).offNow = s.offNow := rfl
@[simp] theorem updCore_offWake (n : Nat) (g : Core → Core) : (updCore n g s).offWake = s.offWake := rfl
@[simp] theorem updCore_aonBase (n : Nat) (g : Core → Core) : (updCore n g s).aonBase = s.aonBase := rfl
@[simp] theorem updCore_aonAt (n : Nat) (g : Core → Core) : (updCore n g s).aonAt = s.aonAt := rfl
@[simp] theorem updCore_pins (n : Nat) (g : Core → Core) : (updCore n g s).pins = s.pins := rfl
@[simp] theorem updCore_retryQ (n : Nat) (g : Core → Core) : (updCore n g s).retryQ = s.retryQ := rfl
@[simp] theorem updCore_borrow (n : Nat) (g : Core → Core) : (updCore n g s).borrow = s.borrow := rfl
@[simp] theorem updCore_partCmd (n : Nat) (g : Core → Core) : (updCore n g s).partCmd = s.partCmd := rfl
@[simp] theorem updCore_portsOff (n : Nat) (g : Core → Core) : (updCore n g s).portsOff = s.portsOff := rfl
@[simp] theorem updCore_flrWait (n : Nat) (g : Core → Core) : (updCore n g s).flrWait = s.flrWait := rfl
@[simp] theorem updCore_lineTx (n : Nat) (g : Core → Core) : (updCore n g s).lineTx = s.lineTx := rfl
@[simp] theorem updCore_strips (n : Nat) (g : Core → Core) : (updCore n g s).strips = s.strips := rfl
@[simp] theorem updCore_pmaTx (n : Nat) (g : Core → Core) : (updCore n g s).pmaTx = s.pmaTx := rfl
@[simp] theorem updCore_measures (n : Nat) (g : Core → Core) : (updCore n g s).measures = s.measures := rfl
@[simp] theorem updCore_evtHeld (n : Nat) (g : Core → Core) : (updCore n g s).evtHeld = s.evtHeld := rfl
@[simp] theorem updCore_aer (n : Nat) (g : Core → Core) : (updCore n g s).aer = s.aer := rfl
@[simp] theorem updCore_flash (n : Nat) (g : Core → Core) : (updCore n g s).flash = s.flash := rfl
@[simp] theorem updCore_image (n : Nat) (g : Core → Core) : (updCore n g s).image = s.image := rfl
@[simp] theorem updCore_warmWait (n : Nat) (g : Core → Core) : (updCore n g s).warmWait = s.warmWait := rfl
@[simp] theorem updCore_tap (n : Nat) (g : Core → Core) : (updCore n g s).tap = s.tap := rfl
@[simp] theorem updCore_nonce (n : Nat) (g : Core → Core) : (updCore n g s).nonce = s.nonce := rfl
@[simp] theorem updCore_dbg (n : Nat) (g : Core → Core) : (updCore n g s).dbg = s.dbg := rfl
@[simp] theorem updCore_eids (n : Nat) (g : Core → Core) : (updCore n g s).eids = s.eids := rfl
@[simp] theorem updCore_spdm (n : Nat) (g : Core → Core) : (updCore n g s).spdm = s.spdm := rfl
@[simp] theorem updCore_spdmTx (n : Nat) (g : Core → Core) : (updCore n g s).spdmTx = s.spdmTx := rfl
@[simp] theorem updCore_avs (n : Nat) (g : Core → Core) : (updCore n g s).avs = s.avs := rfl
@[simp] theorem updCore_gpioV (n : Nat) (g : Core → Core) : (updCore n g s).gpioV = s.gpioV := rfl

/-! ### updLink -/

@[simp] theorem updLink_pending (j : Nat) (g : Link → Link) : (updLink j g s).pending = s.pending := rfl
@[simp] theorem updLink_ticks (j : Nat) (g : Link → Link) : (updLink j g s).ticks = s.ticks := rfl
@[simp] theorem updLink_fresh (j : Nat) (g : Link → Link) : (updLink j g s).fresh = s.fresh := rfl
@[simp] theorem updLink_regs (j : Nat) (g : Link → Link) : (updLink j g s).regs = s.regs := rfl
@[simp] theorem updLink_parts (j : Nat) (g : Link → Link) : (updLink j g s).parts = s.parts := rfl
@[simp] theorem updLink_fields (j : Nat) (g : Link → Link) : (updLink j g s).fields = s.fields := rfl
@[simp] theorem updLink_seqs (j : Nat) (g : Link → Link) : (updLink j g s).seqs = s.seqs := rfl
@[simp] theorem updLink_cores (j : Nat) (g : Link → Link) : (updLink j g s).cores = s.cores := rfl
@[simp] theorem updLink_alm (j : Nat) (g : Link → Link) : (updLink j g s).alm = s.alm := rfl
@[simp] theorem updLink_almErr (j : Nat) (g : Link → Link) : (updLink j g s).almErr = s.almErr := rfl
@[simp] theorem updLink_edgeIn (j : Nat) (g : Link → Link) : (updLink j g s).edgeIn = s.edgeIn := rfl
@[simp] theorem updLink_edgeOut (j : Nat) (g : Link → Link) : (updLink j g s).edgeOut = s.edgeOut := rfl
@[simp] theorem updLink_inTake (j : Nat) (g : Link → Link) : (updLink j g s).inTake = s.inTake := rfl
@[simp] theorem updLink_mer (j : Nat) (g : Link → Link) : (updLink j g s).mer = s.mer := rfl
@[simp] theorem updLink_merInc (j : Nat) (g : Link → Link) : (updLink j g s).merInc = s.merInc := rfl
@[simp] theorem updLink_hostTx (j : Nat) (g : Link → Link) : (updLink j g s).hostTx = s.hostTx := rfl
@[simp] theorem updLink_holdoff (j : Nat) (g : Link → Link) : (updLink j g s).holdoff = s.holdoff := rfl
@[simp] theorem updLink_evtLost (j : Nat) (g : Link → Link) : (updLink j g s).evtLost = s.evtLost := rfl
@[simp] theorem updLink_msixTab (j : Nat) (g : Link → Link) : (updLink j g s).msixTab = s.msixTab := rfl
@[simp] theorem updLink_msixPba (j : Nat) (g : Link → Link) : (updLink j g s).msixPba = s.msixPba := rfl
@[simp] theorem updLink_dlog (j : Nat) (g : Link → Link) : (updLink j g s).dlog = s.dlog := rfl
@[simp] theorem updLink_tlogUnread (j : Nat) (g : Link → Link) : (updLink j g s).tlogUnread = s.tlogUnread := rfl
@[simp] theorem updLink_jobs (j : Nat) (g : Link → Link) : (updLink j g s).jobs = s.jobs := rfl
@[simp] theorem updLink_fetches (j : Nat) (g : Link → Link) : (updLink j g s).fetches = s.fetches := rfl
@[simp] theorem updLink_jobNo (j : Nat) (g : Link → Link) : (updLink j g s).jobNo = s.jobNo := rfl
@[simp] theorem updLink_heldCqe (j : Nat) (g : Link → Link) : (updLink j g s).heldCqe = s.heldCqe := rfl
@[simp] theorem updLink_ringStop (j : Nat) (g : Link → Link) : (updLink j g s).ringStop = s.ringStop := rfl
@[simp] theorem updLink_imageOk (j : Nat) (g : Link → Link) : (updLink j g s).imageOk = s.imageOk := rfl
@[simp] theorem updLink_doms (j : Nat) (g : Link → Link) : (updLink j g s).doms = s.doms := rfl
@[simp] theorem updLink_pwrNote (j : Nat) (g : Link → Link) : (updLink j g s).pwrNote = s.pwrNote := rfl
@[simp] theorem updLink_noteMask (j : Nat) (g : Link → Link) : (updLink j g s).noteMask = s.noteMask := rfl
@[simp] theorem updLink_pwrRes (j : Nat) (g : Link → Link) : (updLink j g s).pwrRes = s.pwrRes := rfl
@[simp] theorem updLink_off (j : Nat) (g : Link → Link) : (updLink j g s).off = s.off := rfl
@[simp] theorem updLink_mem (j : Nat) (g : Link → Link) : (updLink j g s).mem = s.mem := rfl
@[simp] theorem updLink_memErr (j : Nat) (g : Link → Link) : (updLink j g s).memErr = s.memErr := rfl
@[simp] theorem updLink_chart (j : Nat) (g : Link → Link) : (updLink j g s).chart = s.chart := rfl
@[simp] theorem updLink_chartErr (j : Nat) (g : Link → Link) : (updLink j g s).chartErr = s.chartErr := rfl
@[simp] theorem updLink_chartCache (j : Nat) (g : Link → Link) : (updLink j g s).chartCache = s.chartCache := rfl
@[simp] theorem updLink_xlatWait (j : Nat) (g : Link → Link) : (updLink j g s).xlatWait = s.xlatWait := rfl
@[simp] theorem updLink_hbmQ (j : Nat) (g : Link → Link) : (updLink j g s).hbmQ = s.hbmQ := rfl
@[simp] theorem updLink_hbmHeld (j : Nat) (g : Link → Link) : (updLink j g s).hbmHeld = s.hbmHeld := rfl
@[simp] theorem updLink_hotRun (j : Nat) (g : Link → Link) : (updLink j g s).hotRun = s.hotRun := rfl
@[simp] theorem updLink_routes (j : Nat) (g : Link → Link) : (updLink j g s).routes = s.routes := rfl
@[simp] theorem updLink_pcie (j : Nat) (g : Link → Link) : (updLink j g s).pcie = s.pcie := rfl
@[simp] theorem updLink_fetchFn (j : Nat) (g : Link → Link) : (updLink j g s).fetchFn = s.fetchFn := rfl
@[simp] theorem updLink_fetchRing (j : Nat) (g : Link → Link) : (updLink j g s).fetchRing = s.fetchRing := rfl
@[simp] theorem updLink_hbmTurn (j : Nat) (g : Link → Link) : (updLink j g s).hbmTurn = s.hbmTurn := rfl
@[simp] theorem updLink_hbmErr (j : Nat) (g : Link → Link) : (updLink j g s).hbmErr = s.hbmErr := rfl
@[simp] theorem updLink_stgTurn (j : Nat) (g : Link → Link) : (updLink j g s).stgTurn = s.stgTurn := rfl
@[simp] theorem updLink_dbgShut (j : Nat) (g : Link → Link) : (updLink j g s).dbgShut = s.dbgShut := rfl
@[simp] theorem updLink_routeErr (j : Nat) (g : Link → Link) : (updLink j g s).routeErr = s.routeErr := rfl
@[simp] theorem updLink_arb (j : Nat) (g : Link → Link) : (updLink j g s).arb = s.arb := rfl
@[simp] theorem updLink_niWait (j : Nat) (g : Link → Link) : (updLink j g s).niWait = s.niWait := rfl
@[simp] theorem updLink_pwrLow (j : Nat) (g : Link → Link) : (updLink j g s).pwrLow = s.pwrLow := rfl
@[simp] theorem updLink_rstDom (j : Nat) (g : Link → Link) : (updLink j g s).rstDom = s.rstDom := rfl
@[simp] theorem updLink_net (j : Nat) (g : Link → Link) : (updLink j g s).net = s.net := rfl
@[simp] theorem updLink_eject (j : Nat) (g : Link → Link) : (updLink j g s).eject = s.eject := rfl
@[simp] theorem updLink_halves (j : Nat) (g : Link → Link) : (updLink j g s).halves = s.halves := rfl
@[simp] theorem updLink_outst (j : Nat) (g : Link → Link) : (updLink j g s).outst = s.outst := rfl
@[simp] theorem updLink_answers (j : Nat) (g : Link → Link) : (updLink j g s).answers = s.answers := rfl
@[simp] theorem updLink_verdict (j : Nat) (g : Link → Link) : (updLink j g s).verdict = s.verdict := rfl
@[simp] theorem updLink_invals (j : Nat) (g : Link → Link) : (updLink j g s).invals = s.invals := rfl
@[simp] theorem updLink_invWait (j : Nat) (g : Link → Link) : (updLink j g s).invWait = s.invWait := rfl
@[simp] theorem updLink_spadQ (j : Nat) (g : Link → Link) : (updLink j g s).spadQ = s.spadQ := rfl
@[simp] theorem updLink_hbmFast (j : Nat) (g : Link → Link) : (updLink j g s).hbmFast = s.hbmFast := rfl
@[simp] theorem updLink_cqHold (j : Nat) (g : Link → Link) : (updLink j g s).cqHold = s.cqHold := rfl
@[simp] theorem updLink_cands (j : Nat) (g : Link → Link) : (updLink j g s).cands = s.cands := rfl
@[simp] theorem updLink_master (j : Nat) (g : Link → Link) : (updLink j g s).master = s.master := rfl
@[simp] theorem updLink_exch (j : Nat) (g : Link → Link) : (updLink j g s).exch = s.exch := rfl
@[simp] theorem updLink_locks (j : Nat) (g : Link → Link) : (updLink j g s).locks = s.locks := rfl
@[simp] theorem updLink_watches (j : Nat) (g : Link → Link) : (updLink j g s).watches = s.watches := rfl
@[simp] theorem updLink_barriers (j : Nat) (g : Link → Link) : (updLink j g s).barriers = s.barriers := rfl
@[simp] theorem updLink_offNow (j : Nat) (g : Link → Link) : (updLink j g s).offNow = s.offNow := rfl
@[simp] theorem updLink_offWake (j : Nat) (g : Link → Link) : (updLink j g s).offWake = s.offWake := rfl
@[simp] theorem updLink_aonBase (j : Nat) (g : Link → Link) : (updLink j g s).aonBase = s.aonBase := rfl
@[simp] theorem updLink_aonAt (j : Nat) (g : Link → Link) : (updLink j g s).aonAt = s.aonAt := rfl
@[simp] theorem updLink_pins (j : Nat) (g : Link → Link) : (updLink j g s).pins = s.pins := rfl
@[simp] theorem updLink_retryQ (j : Nat) (g : Link → Link) : (updLink j g s).retryQ = s.retryQ := rfl
@[simp] theorem updLink_borrow (j : Nat) (g : Link → Link) : (updLink j g s).borrow = s.borrow := rfl
@[simp] theorem updLink_partCmd (j : Nat) (g : Link → Link) : (updLink j g s).partCmd = s.partCmd := rfl
@[simp] theorem updLink_portsOff (j : Nat) (g : Link → Link) : (updLink j g s).portsOff = s.portsOff := rfl
@[simp] theorem updLink_flrWait (j : Nat) (g : Link → Link) : (updLink j g s).flrWait = s.flrWait := rfl
@[simp] theorem updLink_lineTx (j : Nat) (g : Link → Link) : (updLink j g s).lineTx = s.lineTx := rfl
@[simp] theorem updLink_strips (j : Nat) (g : Link → Link) : (updLink j g s).strips = s.strips := rfl
@[simp] theorem updLink_pmaTx (j : Nat) (g : Link → Link) : (updLink j g s).pmaTx = s.pmaTx := rfl
@[simp] theorem updLink_measures (j : Nat) (g : Link → Link) : (updLink j g s).measures = s.measures := rfl
@[simp] theorem updLink_evtHeld (j : Nat) (g : Link → Link) : (updLink j g s).evtHeld = s.evtHeld := rfl
@[simp] theorem updLink_aer (j : Nat) (g : Link → Link) : (updLink j g s).aer = s.aer := rfl
@[simp] theorem updLink_flash (j : Nat) (g : Link → Link) : (updLink j g s).flash = s.flash := rfl
@[simp] theorem updLink_image (j : Nat) (g : Link → Link) : (updLink j g s).image = s.image := rfl
@[simp] theorem updLink_warmWait (j : Nat) (g : Link → Link) : (updLink j g s).warmWait = s.warmWait := rfl
@[simp] theorem updLink_tap (j : Nat) (g : Link → Link) : (updLink j g s).tap = s.tap := rfl
@[simp] theorem updLink_nonce (j : Nat) (g : Link → Link) : (updLink j g s).nonce = s.nonce := rfl
@[simp] theorem updLink_dbg (j : Nat) (g : Link → Link) : (updLink j g s).dbg = s.dbg := rfl
@[simp] theorem updLink_eids (j : Nat) (g : Link → Link) : (updLink j g s).eids = s.eids := rfl
@[simp] theorem updLink_spdm (j : Nat) (g : Link → Link) : (updLink j g s).spdm = s.spdm := rfl
@[simp] theorem updLink_spdmTx (j : Nat) (g : Link → Link) : (updLink j g s).spdmTx = s.spdmTx := rfl
@[simp] theorem updLink_avs (j : Nat) (g : Link → Link) : (updLink j g s).avs = s.avs := rfl
@[simp] theorem updLink_gpioV (j : Nat) (g : Link → Link) : (updLink j g s).gpioV = s.gpioV := rfl

/-! ### updStrip -/

@[simp] theorem updStrip_pending (j : Nat) (g : Strip → Strip) : (updStrip j g s).pending = s.pending := rfl
@[simp] theorem updStrip_ticks (j : Nat) (g : Strip → Strip) : (updStrip j g s).ticks = s.ticks := rfl
@[simp] theorem updStrip_fresh (j : Nat) (g : Strip → Strip) : (updStrip j g s).fresh = s.fresh := rfl
@[simp] theorem updStrip_regs (j : Nat) (g : Strip → Strip) : (updStrip j g s).regs = s.regs := rfl
@[simp] theorem updStrip_parts (j : Nat) (g : Strip → Strip) : (updStrip j g s).parts = s.parts := rfl
@[simp] theorem updStrip_fields (j : Nat) (g : Strip → Strip) : (updStrip j g s).fields = s.fields := rfl
@[simp] theorem updStrip_seqs (j : Nat) (g : Strip → Strip) : (updStrip j g s).seqs = s.seqs := rfl
@[simp] theorem updStrip_cores (j : Nat) (g : Strip → Strip) : (updStrip j g s).cores = s.cores := rfl
@[simp] theorem updStrip_alm (j : Nat) (g : Strip → Strip) : (updStrip j g s).alm = s.alm := rfl
@[simp] theorem updStrip_almErr (j : Nat) (g : Strip → Strip) : (updStrip j g s).almErr = s.almErr := rfl
@[simp] theorem updStrip_edgeIn (j : Nat) (g : Strip → Strip) : (updStrip j g s).edgeIn = s.edgeIn := rfl
@[simp] theorem updStrip_edgeOut (j : Nat) (g : Strip → Strip) : (updStrip j g s).edgeOut = s.edgeOut := rfl
@[simp] theorem updStrip_inTake (j : Nat) (g : Strip → Strip) : (updStrip j g s).inTake = s.inTake := rfl
@[simp] theorem updStrip_mer (j : Nat) (g : Strip → Strip) : (updStrip j g s).mer = s.mer := rfl
@[simp] theorem updStrip_merInc (j : Nat) (g : Strip → Strip) : (updStrip j g s).merInc = s.merInc := rfl
@[simp] theorem updStrip_hostTx (j : Nat) (g : Strip → Strip) : (updStrip j g s).hostTx = s.hostTx := rfl
@[simp] theorem updStrip_holdoff (j : Nat) (g : Strip → Strip) : (updStrip j g s).holdoff = s.holdoff := rfl
@[simp] theorem updStrip_evtLost (j : Nat) (g : Strip → Strip) : (updStrip j g s).evtLost = s.evtLost := rfl
@[simp] theorem updStrip_msixTab (j : Nat) (g : Strip → Strip) : (updStrip j g s).msixTab = s.msixTab := rfl
@[simp] theorem updStrip_msixPba (j : Nat) (g : Strip → Strip) : (updStrip j g s).msixPba = s.msixPba := rfl
@[simp] theorem updStrip_dlog (j : Nat) (g : Strip → Strip) : (updStrip j g s).dlog = s.dlog := rfl
@[simp] theorem updStrip_tlogUnread (j : Nat) (g : Strip → Strip) : (updStrip j g s).tlogUnread = s.tlogUnread := rfl
@[simp] theorem updStrip_jobs (j : Nat) (g : Strip → Strip) : (updStrip j g s).jobs = s.jobs := rfl
@[simp] theorem updStrip_fetches (j : Nat) (g : Strip → Strip) : (updStrip j g s).fetches = s.fetches := rfl
@[simp] theorem updStrip_jobNo (j : Nat) (g : Strip → Strip) : (updStrip j g s).jobNo = s.jobNo := rfl
@[simp] theorem updStrip_heldCqe (j : Nat) (g : Strip → Strip) : (updStrip j g s).heldCqe = s.heldCqe := rfl
@[simp] theorem updStrip_ringStop (j : Nat) (g : Strip → Strip) : (updStrip j g s).ringStop = s.ringStop := rfl
@[simp] theorem updStrip_imageOk (j : Nat) (g : Strip → Strip) : (updStrip j g s).imageOk = s.imageOk := rfl
@[simp] theorem updStrip_doms (j : Nat) (g : Strip → Strip) : (updStrip j g s).doms = s.doms := rfl
@[simp] theorem updStrip_pwrNote (j : Nat) (g : Strip → Strip) : (updStrip j g s).pwrNote = s.pwrNote := rfl
@[simp] theorem updStrip_noteMask (j : Nat) (g : Strip → Strip) : (updStrip j g s).noteMask = s.noteMask := rfl
@[simp] theorem updStrip_pwrRes (j : Nat) (g : Strip → Strip) : (updStrip j g s).pwrRes = s.pwrRes := rfl
@[simp] theorem updStrip_off (j : Nat) (g : Strip → Strip) : (updStrip j g s).off = s.off := rfl
@[simp] theorem updStrip_mem (j : Nat) (g : Strip → Strip) : (updStrip j g s).mem = s.mem := rfl
@[simp] theorem updStrip_memErr (j : Nat) (g : Strip → Strip) : (updStrip j g s).memErr = s.memErr := rfl
@[simp] theorem updStrip_chart (j : Nat) (g : Strip → Strip) : (updStrip j g s).chart = s.chart := rfl
@[simp] theorem updStrip_chartErr (j : Nat) (g : Strip → Strip) : (updStrip j g s).chartErr = s.chartErr := rfl
@[simp] theorem updStrip_chartCache (j : Nat) (g : Strip → Strip) : (updStrip j g s).chartCache = s.chartCache := rfl
@[simp] theorem updStrip_xlatWait (j : Nat) (g : Strip → Strip) : (updStrip j g s).xlatWait = s.xlatWait := rfl
@[simp] theorem updStrip_hbmQ (j : Nat) (g : Strip → Strip) : (updStrip j g s).hbmQ = s.hbmQ := rfl
@[simp] theorem updStrip_hbmHeld (j : Nat) (g : Strip → Strip) : (updStrip j g s).hbmHeld = s.hbmHeld := rfl
@[simp] theorem updStrip_hotRun (j : Nat) (g : Strip → Strip) : (updStrip j g s).hotRun = s.hotRun := rfl
@[simp] theorem updStrip_routes (j : Nat) (g : Strip → Strip) : (updStrip j g s).routes = s.routes := rfl
@[simp] theorem updStrip_pcie (j : Nat) (g : Strip → Strip) : (updStrip j g s).pcie = s.pcie := rfl
@[simp] theorem updStrip_fetchFn (j : Nat) (g : Strip → Strip) : (updStrip j g s).fetchFn = s.fetchFn := rfl
@[simp] theorem updStrip_fetchRing (j : Nat) (g : Strip → Strip) : (updStrip j g s).fetchRing = s.fetchRing := rfl
@[simp] theorem updStrip_hbmTurn (j : Nat) (g : Strip → Strip) : (updStrip j g s).hbmTurn = s.hbmTurn := rfl
@[simp] theorem updStrip_hbmErr (j : Nat) (g : Strip → Strip) : (updStrip j g s).hbmErr = s.hbmErr := rfl
@[simp] theorem updStrip_stgTurn (j : Nat) (g : Strip → Strip) : (updStrip j g s).stgTurn = s.stgTurn := rfl
@[simp] theorem updStrip_dbgShut (j : Nat) (g : Strip → Strip) : (updStrip j g s).dbgShut = s.dbgShut := rfl
@[simp] theorem updStrip_routeErr (j : Nat) (g : Strip → Strip) : (updStrip j g s).routeErr = s.routeErr := rfl
@[simp] theorem updStrip_arb (j : Nat) (g : Strip → Strip) : (updStrip j g s).arb = s.arb := rfl
@[simp] theorem updStrip_niWait (j : Nat) (g : Strip → Strip) : (updStrip j g s).niWait = s.niWait := rfl
@[simp] theorem updStrip_pwrLow (j : Nat) (g : Strip → Strip) : (updStrip j g s).pwrLow = s.pwrLow := rfl
@[simp] theorem updStrip_rstDom (j : Nat) (g : Strip → Strip) : (updStrip j g s).rstDom = s.rstDom := rfl
@[simp] theorem updStrip_net (j : Nat) (g : Strip → Strip) : (updStrip j g s).net = s.net := rfl
@[simp] theorem updStrip_eject (j : Nat) (g : Strip → Strip) : (updStrip j g s).eject = s.eject := rfl
@[simp] theorem updStrip_halves (j : Nat) (g : Strip → Strip) : (updStrip j g s).halves = s.halves := rfl
@[simp] theorem updStrip_outst (j : Nat) (g : Strip → Strip) : (updStrip j g s).outst = s.outst := rfl
@[simp] theorem updStrip_answers (j : Nat) (g : Strip → Strip) : (updStrip j g s).answers = s.answers := rfl
@[simp] theorem updStrip_verdict (j : Nat) (g : Strip → Strip) : (updStrip j g s).verdict = s.verdict := rfl
@[simp] theorem updStrip_invals (j : Nat) (g : Strip → Strip) : (updStrip j g s).invals = s.invals := rfl
@[simp] theorem updStrip_invWait (j : Nat) (g : Strip → Strip) : (updStrip j g s).invWait = s.invWait := rfl
@[simp] theorem updStrip_spadQ (j : Nat) (g : Strip → Strip) : (updStrip j g s).spadQ = s.spadQ := rfl
@[simp] theorem updStrip_hbmFast (j : Nat) (g : Strip → Strip) : (updStrip j g s).hbmFast = s.hbmFast := rfl
@[simp] theorem updStrip_cqHold (j : Nat) (g : Strip → Strip) : (updStrip j g s).cqHold = s.cqHold := rfl
@[simp] theorem updStrip_links (j : Nat) (g : Strip → Strip) : (updStrip j g s).links = s.links := rfl
@[simp] theorem updStrip_cands (j : Nat) (g : Strip → Strip) : (updStrip j g s).cands = s.cands := rfl
@[simp] theorem updStrip_master (j : Nat) (g : Strip → Strip) : (updStrip j g s).master = s.master := rfl
@[simp] theorem updStrip_exch (j : Nat) (g : Strip → Strip) : (updStrip j g s).exch = s.exch := rfl
@[simp] theorem updStrip_locks (j : Nat) (g : Strip → Strip) : (updStrip j g s).locks = s.locks := rfl
@[simp] theorem updStrip_watches (j : Nat) (g : Strip → Strip) : (updStrip j g s).watches = s.watches := rfl
@[simp] theorem updStrip_barriers (j : Nat) (g : Strip → Strip) : (updStrip j g s).barriers = s.barriers := rfl
@[simp] theorem updStrip_offNow (j : Nat) (g : Strip → Strip) : (updStrip j g s).offNow = s.offNow := rfl
@[simp] theorem updStrip_offWake (j : Nat) (g : Strip → Strip) : (updStrip j g s).offWake = s.offWake := rfl
@[simp] theorem updStrip_aonBase (j : Nat) (g : Strip → Strip) : (updStrip j g s).aonBase = s.aonBase := rfl
@[simp] theorem updStrip_aonAt (j : Nat) (g : Strip → Strip) : (updStrip j g s).aonAt = s.aonAt := rfl
@[simp] theorem updStrip_pins (j : Nat) (g : Strip → Strip) : (updStrip j g s).pins = s.pins := rfl
@[simp] theorem updStrip_retryQ (j : Nat) (g : Strip → Strip) : (updStrip j g s).retryQ = s.retryQ := rfl
@[simp] theorem updStrip_borrow (j : Nat) (g : Strip → Strip) : (updStrip j g s).borrow = s.borrow := rfl
@[simp] theorem updStrip_partCmd (j : Nat) (g : Strip → Strip) : (updStrip j g s).partCmd = s.partCmd := rfl
@[simp] theorem updStrip_portsOff (j : Nat) (g : Strip → Strip) : (updStrip j g s).portsOff = s.portsOff := rfl
@[simp] theorem updStrip_flrWait (j : Nat) (g : Strip → Strip) : (updStrip j g s).flrWait = s.flrWait := rfl
@[simp] theorem updStrip_lineTx (j : Nat) (g : Strip → Strip) : (updStrip j g s).lineTx = s.lineTx := rfl
@[simp] theorem updStrip_pmaTx (j : Nat) (g : Strip → Strip) : (updStrip j g s).pmaTx = s.pmaTx := rfl
@[simp] theorem updStrip_measures (j : Nat) (g : Strip → Strip) : (updStrip j g s).measures = s.measures := rfl
@[simp] theorem updStrip_evtHeld (j : Nat) (g : Strip → Strip) : (updStrip j g s).evtHeld = s.evtHeld := rfl
@[simp] theorem updStrip_aer (j : Nat) (g : Strip → Strip) : (updStrip j g s).aer = s.aer := rfl
@[simp] theorem updStrip_flash (j : Nat) (g : Strip → Strip) : (updStrip j g s).flash = s.flash := rfl
@[simp] theorem updStrip_image (j : Nat) (g : Strip → Strip) : (updStrip j g s).image = s.image := rfl
@[simp] theorem updStrip_warmWait (j : Nat) (g : Strip → Strip) : (updStrip j g s).warmWait = s.warmWait := rfl
@[simp] theorem updStrip_tap (j : Nat) (g : Strip → Strip) : (updStrip j g s).tap = s.tap := rfl
@[simp] theorem updStrip_nonce (j : Nat) (g : Strip → Strip) : (updStrip j g s).nonce = s.nonce := rfl
@[simp] theorem updStrip_dbg (j : Nat) (g : Strip → Strip) : (updStrip j g s).dbg = s.dbg := rfl
@[simp] theorem updStrip_eids (j : Nat) (g : Strip → Strip) : (updStrip j g s).eids = s.eids := rfl
@[simp] theorem updStrip_spdm (j : Nat) (g : Strip → Strip) : (updStrip j g s).spdm = s.spdm := rfl
@[simp] theorem updStrip_spdmTx (j : Nat) (g : Strip → Strip) : (updStrip j g s).spdmTx = s.spdmTx := rfl
@[simp] theorem updStrip_avs (j : Nat) (g : Strip → Strip) : (updStrip j g s).avs = s.avs := rfl
@[simp] theorem updStrip_gpioV (j : Nat) (g : Strip → Strip) : (updStrip j g s).gpioV = s.gpioV := rfl

/-! ### updBar -/

@[simp] theorem updBar_pending (b : Nat) (g : Barrier → Barrier) : (updBar b g s).pending = s.pending := rfl
@[simp] theorem updBar_ticks (b : Nat) (g : Barrier → Barrier) : (updBar b g s).ticks = s.ticks := rfl
@[simp] theorem updBar_fresh (b : Nat) (g : Barrier → Barrier) : (updBar b g s).fresh = s.fresh := rfl
@[simp] theorem updBar_regs (b : Nat) (g : Barrier → Barrier) : (updBar b g s).regs = s.regs := rfl
@[simp] theorem updBar_parts (b : Nat) (g : Barrier → Barrier) : (updBar b g s).parts = s.parts := rfl
@[simp] theorem updBar_fields (b : Nat) (g : Barrier → Barrier) : (updBar b g s).fields = s.fields := rfl
@[simp] theorem updBar_seqs (b : Nat) (g : Barrier → Barrier) : (updBar b g s).seqs = s.seqs := rfl
@[simp] theorem updBar_cores (b : Nat) (g : Barrier → Barrier) : (updBar b g s).cores = s.cores := rfl
@[simp] theorem updBar_alm (b : Nat) (g : Barrier → Barrier) : (updBar b g s).alm = s.alm := rfl
@[simp] theorem updBar_almErr (b : Nat) (g : Barrier → Barrier) : (updBar b g s).almErr = s.almErr := rfl
@[simp] theorem updBar_edgeIn (b : Nat) (g : Barrier → Barrier) : (updBar b g s).edgeIn = s.edgeIn := rfl
@[simp] theorem updBar_edgeOut (b : Nat) (g : Barrier → Barrier) : (updBar b g s).edgeOut = s.edgeOut := rfl
@[simp] theorem updBar_inTake (b : Nat) (g : Barrier → Barrier) : (updBar b g s).inTake = s.inTake := rfl
@[simp] theorem updBar_mer (b : Nat) (g : Barrier → Barrier) : (updBar b g s).mer = s.mer := rfl
@[simp] theorem updBar_merInc (b : Nat) (g : Barrier → Barrier) : (updBar b g s).merInc = s.merInc := rfl
@[simp] theorem updBar_hostTx (b : Nat) (g : Barrier → Barrier) : (updBar b g s).hostTx = s.hostTx := rfl
@[simp] theorem updBar_holdoff (b : Nat) (g : Barrier → Barrier) : (updBar b g s).holdoff = s.holdoff := rfl
@[simp] theorem updBar_evtLost (b : Nat) (g : Barrier → Barrier) : (updBar b g s).evtLost = s.evtLost := rfl
@[simp] theorem updBar_msixTab (b : Nat) (g : Barrier → Barrier) : (updBar b g s).msixTab = s.msixTab := rfl
@[simp] theorem updBar_msixPba (b : Nat) (g : Barrier → Barrier) : (updBar b g s).msixPba = s.msixPba := rfl
@[simp] theorem updBar_dlog (b : Nat) (g : Barrier → Barrier) : (updBar b g s).dlog = s.dlog := rfl
@[simp] theorem updBar_tlogUnread (b : Nat) (g : Barrier → Barrier) : (updBar b g s).tlogUnread = s.tlogUnread := rfl
@[simp] theorem updBar_jobs (b : Nat) (g : Barrier → Barrier) : (updBar b g s).jobs = s.jobs := rfl
@[simp] theorem updBar_fetches (b : Nat) (g : Barrier → Barrier) : (updBar b g s).fetches = s.fetches := rfl
@[simp] theorem updBar_jobNo (b : Nat) (g : Barrier → Barrier) : (updBar b g s).jobNo = s.jobNo := rfl
@[simp] theorem updBar_heldCqe (b : Nat) (g : Barrier → Barrier) : (updBar b g s).heldCqe = s.heldCqe := rfl
@[simp] theorem updBar_ringStop (b : Nat) (g : Barrier → Barrier) : (updBar b g s).ringStop = s.ringStop := rfl
@[simp] theorem updBar_imageOk (b : Nat) (g : Barrier → Barrier) : (updBar b g s).imageOk = s.imageOk := rfl
@[simp] theorem updBar_doms (b : Nat) (g : Barrier → Barrier) : (updBar b g s).doms = s.doms := rfl
@[simp] theorem updBar_pwrNote (b : Nat) (g : Barrier → Barrier) : (updBar b g s).pwrNote = s.pwrNote := rfl
@[simp] theorem updBar_noteMask (b : Nat) (g : Barrier → Barrier) : (updBar b g s).noteMask = s.noteMask := rfl
@[simp] theorem updBar_pwrRes (b : Nat) (g : Barrier → Barrier) : (updBar b g s).pwrRes = s.pwrRes := rfl
@[simp] theorem updBar_off (b : Nat) (g : Barrier → Barrier) : (updBar b g s).off = s.off := rfl
@[simp] theorem updBar_mem (b : Nat) (g : Barrier → Barrier) : (updBar b g s).mem = s.mem := rfl
@[simp] theorem updBar_memErr (b : Nat) (g : Barrier → Barrier) : (updBar b g s).memErr = s.memErr := rfl
@[simp] theorem updBar_chart (b : Nat) (g : Barrier → Barrier) : (updBar b g s).chart = s.chart := rfl
@[simp] theorem updBar_chartErr (b : Nat) (g : Barrier → Barrier) : (updBar b g s).chartErr = s.chartErr := rfl
@[simp] theorem updBar_chartCache (b : Nat) (g : Barrier → Barrier) : (updBar b g s).chartCache = s.chartCache := rfl
@[simp] theorem updBar_xlatWait (b : Nat) (g : Barrier → Barrier) : (updBar b g s).xlatWait = s.xlatWait := rfl
@[simp] theorem updBar_hbmQ (b : Nat) (g : Barrier → Barrier) : (updBar b g s).hbmQ = s.hbmQ := rfl
@[simp] theorem updBar_hbmHeld (b : Nat) (g : Barrier → Barrier) : (updBar b g s).hbmHeld = s.hbmHeld := rfl
@[simp] theorem updBar_hotRun (b : Nat) (g : Barrier → Barrier) : (updBar b g s).hotRun = s.hotRun := rfl
@[simp] theorem updBar_routes (b : Nat) (g : Barrier → Barrier) : (updBar b g s).routes = s.routes := rfl
@[simp] theorem updBar_pcie (b : Nat) (g : Barrier → Barrier) : (updBar b g s).pcie = s.pcie := rfl
@[simp] theorem updBar_fetchFn (b : Nat) (g : Barrier → Barrier) : (updBar b g s).fetchFn = s.fetchFn := rfl
@[simp] theorem updBar_fetchRing (b : Nat) (g : Barrier → Barrier) : (updBar b g s).fetchRing = s.fetchRing := rfl
@[simp] theorem updBar_hbmTurn (b : Nat) (g : Barrier → Barrier) : (updBar b g s).hbmTurn = s.hbmTurn := rfl
@[simp] theorem updBar_hbmErr (b : Nat) (g : Barrier → Barrier) : (updBar b g s).hbmErr = s.hbmErr := rfl
@[simp] theorem updBar_stgTurn (b : Nat) (g : Barrier → Barrier) : (updBar b g s).stgTurn = s.stgTurn := rfl
@[simp] theorem updBar_dbgShut (b : Nat) (g : Barrier → Barrier) : (updBar b g s).dbgShut = s.dbgShut := rfl
@[simp] theorem updBar_routeErr (b : Nat) (g : Barrier → Barrier) : (updBar b g s).routeErr = s.routeErr := rfl
@[simp] theorem updBar_arb (b : Nat) (g : Barrier → Barrier) : (updBar b g s).arb = s.arb := rfl
@[simp] theorem updBar_niWait (b : Nat) (g : Barrier → Barrier) : (updBar b g s).niWait = s.niWait := rfl
@[simp] theorem updBar_pwrLow (b : Nat) (g : Barrier → Barrier) : (updBar b g s).pwrLow = s.pwrLow := rfl
@[simp] theorem updBar_rstDom (b : Nat) (g : Barrier → Barrier) : (updBar b g s).rstDom = s.rstDom := rfl
@[simp] theorem updBar_net (b : Nat) (g : Barrier → Barrier) : (updBar b g s).net = s.net := rfl
@[simp] theorem updBar_eject (b : Nat) (g : Barrier → Barrier) : (updBar b g s).eject = s.eject := rfl
@[simp] theorem updBar_halves (b : Nat) (g : Barrier → Barrier) : (updBar b g s).halves = s.halves := rfl
@[simp] theorem updBar_outst (b : Nat) (g : Barrier → Barrier) : (updBar b g s).outst = s.outst := rfl
@[simp] theorem updBar_answers (b : Nat) (g : Barrier → Barrier) : (updBar b g s).answers = s.answers := rfl
@[simp] theorem updBar_verdict (b : Nat) (g : Barrier → Barrier) : (updBar b g s).verdict = s.verdict := rfl
@[simp] theorem updBar_invals (b : Nat) (g : Barrier → Barrier) : (updBar b g s).invals = s.invals := rfl
@[simp] theorem updBar_invWait (b : Nat) (g : Barrier → Barrier) : (updBar b g s).invWait = s.invWait := rfl
@[simp] theorem updBar_spadQ (b : Nat) (g : Barrier → Barrier) : (updBar b g s).spadQ = s.spadQ := rfl
@[simp] theorem updBar_hbmFast (b : Nat) (g : Barrier → Barrier) : (updBar b g s).hbmFast = s.hbmFast := rfl
@[simp] theorem updBar_cqHold (b : Nat) (g : Barrier → Barrier) : (updBar b g s).cqHold = s.cqHold := rfl
@[simp] theorem updBar_links (b : Nat) (g : Barrier → Barrier) : (updBar b g s).links = s.links := rfl
@[simp] theorem updBar_cands (b : Nat) (g : Barrier → Barrier) : (updBar b g s).cands = s.cands := rfl
@[simp] theorem updBar_master (b : Nat) (g : Barrier → Barrier) : (updBar b g s).master = s.master := rfl
@[simp] theorem updBar_exch (b : Nat) (g : Barrier → Barrier) : (updBar b g s).exch = s.exch := rfl
@[simp] theorem updBar_locks (b : Nat) (g : Barrier → Barrier) : (updBar b g s).locks = s.locks := rfl
@[simp] theorem updBar_watches (b : Nat) (g : Barrier → Barrier) : (updBar b g s).watches = s.watches := rfl
@[simp] theorem updBar_offNow (b : Nat) (g : Barrier → Barrier) : (updBar b g s).offNow = s.offNow := rfl
@[simp] theorem updBar_offWake (b : Nat) (g : Barrier → Barrier) : (updBar b g s).offWake = s.offWake := rfl
@[simp] theorem updBar_aonBase (b : Nat) (g : Barrier → Barrier) : (updBar b g s).aonBase = s.aonBase := rfl
@[simp] theorem updBar_aonAt (b : Nat) (g : Barrier → Barrier) : (updBar b g s).aonAt = s.aonAt := rfl
@[simp] theorem updBar_pins (b : Nat) (g : Barrier → Barrier) : (updBar b g s).pins = s.pins := rfl
@[simp] theorem updBar_retryQ (b : Nat) (g : Barrier → Barrier) : (updBar b g s).retryQ = s.retryQ := rfl
@[simp] theorem updBar_borrow (b : Nat) (g : Barrier → Barrier) : (updBar b g s).borrow = s.borrow := rfl
@[simp] theorem updBar_partCmd (b : Nat) (g : Barrier → Barrier) : (updBar b g s).partCmd = s.partCmd := rfl
@[simp] theorem updBar_portsOff (b : Nat) (g : Barrier → Barrier) : (updBar b g s).portsOff = s.portsOff := rfl
@[simp] theorem updBar_flrWait (b : Nat) (g : Barrier → Barrier) : (updBar b g s).flrWait = s.flrWait := rfl
@[simp] theorem updBar_lineTx (b : Nat) (g : Barrier → Barrier) : (updBar b g s).lineTx = s.lineTx := rfl
@[simp] theorem updBar_strips (b : Nat) (g : Barrier → Barrier) : (updBar b g s).strips = s.strips := rfl
@[simp] theorem updBar_pmaTx (b : Nat) (g : Barrier → Barrier) : (updBar b g s).pmaTx = s.pmaTx := rfl
@[simp] theorem updBar_measures (b : Nat) (g : Barrier → Barrier) : (updBar b g s).measures = s.measures := rfl
@[simp] theorem updBar_evtHeld (b : Nat) (g : Barrier → Barrier) : (updBar b g s).evtHeld = s.evtHeld := rfl
@[simp] theorem updBar_aer (b : Nat) (g : Barrier → Barrier) : (updBar b g s).aer = s.aer := rfl
@[simp] theorem updBar_flash (b : Nat) (g : Barrier → Barrier) : (updBar b g s).flash = s.flash := rfl
@[simp] theorem updBar_image (b : Nat) (g : Barrier → Barrier) : (updBar b g s).image = s.image := rfl
@[simp] theorem updBar_warmWait (b : Nat) (g : Barrier → Barrier) : (updBar b g s).warmWait = s.warmWait := rfl
@[simp] theorem updBar_tap (b : Nat) (g : Barrier → Barrier) : (updBar b g s).tap = s.tap := rfl
@[simp] theorem updBar_nonce (b : Nat) (g : Barrier → Barrier) : (updBar b g s).nonce = s.nonce := rfl
@[simp] theorem updBar_dbg (b : Nat) (g : Barrier → Barrier) : (updBar b g s).dbg = s.dbg := rfl
@[simp] theorem updBar_eids (b : Nat) (g : Barrier → Barrier) : (updBar b g s).eids = s.eids := rfl
@[simp] theorem updBar_spdm (b : Nat) (g : Barrier → Barrier) : (updBar b g s).spdm = s.spdm := rfl
@[simp] theorem updBar_spdmTx (b : Nat) (g : Barrier → Barrier) : (updBar b g s).spdmTx = s.spdmTx := rfl
@[simp] theorem updBar_avs (b : Nat) (g : Barrier → Barrier) : (updBar b g s).avs = s.avs := rfl
@[simp] theorem updBar_gpioV (b : Nat) (g : Barrier → Barrier) : (updBar b g s).gpioV = s.gpioV := rfl

/-! ### updWatch -/

@[simp] theorem updWatch_pending (w : Nat) (g : Watch → Watch) : (updWatch w g s).pending = s.pending := rfl
@[simp] theorem updWatch_ticks (w : Nat) (g : Watch → Watch) : (updWatch w g s).ticks = s.ticks := rfl
@[simp] theorem updWatch_fresh (w : Nat) (g : Watch → Watch) : (updWatch w g s).fresh = s.fresh := rfl
@[simp] theorem updWatch_regs (w : Nat) (g : Watch → Watch) : (updWatch w g s).regs = s.regs := rfl
@[simp] theorem updWatch_parts (w : Nat) (g : Watch → Watch) : (updWatch w g s).parts = s.parts := rfl
@[simp] theorem updWatch_fields (w : Nat) (g : Watch → Watch) : (updWatch w g s).fields = s.fields := rfl
@[simp] theorem updWatch_seqs (w : Nat) (g : Watch → Watch) : (updWatch w g s).seqs = s.seqs := rfl
@[simp] theorem updWatch_cores (w : Nat) (g : Watch → Watch) : (updWatch w g s).cores = s.cores := rfl
@[simp] theorem updWatch_alm (w : Nat) (g : Watch → Watch) : (updWatch w g s).alm = s.alm := rfl
@[simp] theorem updWatch_almErr (w : Nat) (g : Watch → Watch) : (updWatch w g s).almErr = s.almErr := rfl
@[simp] theorem updWatch_edgeIn (w : Nat) (g : Watch → Watch) : (updWatch w g s).edgeIn = s.edgeIn := rfl
@[simp] theorem updWatch_edgeOut (w : Nat) (g : Watch → Watch) : (updWatch w g s).edgeOut = s.edgeOut := rfl
@[simp] theorem updWatch_inTake (w : Nat) (g : Watch → Watch) : (updWatch w g s).inTake = s.inTake := rfl
@[simp] theorem updWatch_mer (w : Nat) (g : Watch → Watch) : (updWatch w g s).mer = s.mer := rfl
@[simp] theorem updWatch_merInc (w : Nat) (g : Watch → Watch) : (updWatch w g s).merInc = s.merInc := rfl
@[simp] theorem updWatch_hostTx (w : Nat) (g : Watch → Watch) : (updWatch w g s).hostTx = s.hostTx := rfl
@[simp] theorem updWatch_holdoff (w : Nat) (g : Watch → Watch) : (updWatch w g s).holdoff = s.holdoff := rfl
@[simp] theorem updWatch_evtLost (w : Nat) (g : Watch → Watch) : (updWatch w g s).evtLost = s.evtLost := rfl
@[simp] theorem updWatch_msixTab (w : Nat) (g : Watch → Watch) : (updWatch w g s).msixTab = s.msixTab := rfl
@[simp] theorem updWatch_msixPba (w : Nat) (g : Watch → Watch) : (updWatch w g s).msixPba = s.msixPba := rfl
@[simp] theorem updWatch_dlog (w : Nat) (g : Watch → Watch) : (updWatch w g s).dlog = s.dlog := rfl
@[simp] theorem updWatch_tlogUnread (w : Nat) (g : Watch → Watch) : (updWatch w g s).tlogUnread = s.tlogUnread := rfl
@[simp] theorem updWatch_jobs (w : Nat) (g : Watch → Watch) : (updWatch w g s).jobs = s.jobs := rfl
@[simp] theorem updWatch_fetches (w : Nat) (g : Watch → Watch) : (updWatch w g s).fetches = s.fetches := rfl
@[simp] theorem updWatch_jobNo (w : Nat) (g : Watch → Watch) : (updWatch w g s).jobNo = s.jobNo := rfl
@[simp] theorem updWatch_heldCqe (w : Nat) (g : Watch → Watch) : (updWatch w g s).heldCqe = s.heldCqe := rfl
@[simp] theorem updWatch_ringStop (w : Nat) (g : Watch → Watch) : (updWatch w g s).ringStop = s.ringStop := rfl
@[simp] theorem updWatch_imageOk (w : Nat) (g : Watch → Watch) : (updWatch w g s).imageOk = s.imageOk := rfl
@[simp] theorem updWatch_doms (w : Nat) (g : Watch → Watch) : (updWatch w g s).doms = s.doms := rfl
@[simp] theorem updWatch_pwrNote (w : Nat) (g : Watch → Watch) : (updWatch w g s).pwrNote = s.pwrNote := rfl
@[simp] theorem updWatch_noteMask (w : Nat) (g : Watch → Watch) : (updWatch w g s).noteMask = s.noteMask := rfl
@[simp] theorem updWatch_pwrRes (w : Nat) (g : Watch → Watch) : (updWatch w g s).pwrRes = s.pwrRes := rfl
@[simp] theorem updWatch_off (w : Nat) (g : Watch → Watch) : (updWatch w g s).off = s.off := rfl
@[simp] theorem updWatch_mem (w : Nat) (g : Watch → Watch) : (updWatch w g s).mem = s.mem := rfl
@[simp] theorem updWatch_memErr (w : Nat) (g : Watch → Watch) : (updWatch w g s).memErr = s.memErr := rfl
@[simp] theorem updWatch_chart (w : Nat) (g : Watch → Watch) : (updWatch w g s).chart = s.chart := rfl
@[simp] theorem updWatch_chartErr (w : Nat) (g : Watch → Watch) : (updWatch w g s).chartErr = s.chartErr := rfl
@[simp] theorem updWatch_chartCache (w : Nat) (g : Watch → Watch) : (updWatch w g s).chartCache = s.chartCache := rfl
@[simp] theorem updWatch_xlatWait (w : Nat) (g : Watch → Watch) : (updWatch w g s).xlatWait = s.xlatWait := rfl
@[simp] theorem updWatch_hbmQ (w : Nat) (g : Watch → Watch) : (updWatch w g s).hbmQ = s.hbmQ := rfl
@[simp] theorem updWatch_hbmHeld (w : Nat) (g : Watch → Watch) : (updWatch w g s).hbmHeld = s.hbmHeld := rfl
@[simp] theorem updWatch_hotRun (w : Nat) (g : Watch → Watch) : (updWatch w g s).hotRun = s.hotRun := rfl
@[simp] theorem updWatch_routes (w : Nat) (g : Watch → Watch) : (updWatch w g s).routes = s.routes := rfl
@[simp] theorem updWatch_pcie (w : Nat) (g : Watch → Watch) : (updWatch w g s).pcie = s.pcie := rfl
@[simp] theorem updWatch_fetchFn (w : Nat) (g : Watch → Watch) : (updWatch w g s).fetchFn = s.fetchFn := rfl
@[simp] theorem updWatch_fetchRing (w : Nat) (g : Watch → Watch) : (updWatch w g s).fetchRing = s.fetchRing := rfl
@[simp] theorem updWatch_hbmTurn (w : Nat) (g : Watch → Watch) : (updWatch w g s).hbmTurn = s.hbmTurn := rfl
@[simp] theorem updWatch_hbmErr (w : Nat) (g : Watch → Watch) : (updWatch w g s).hbmErr = s.hbmErr := rfl
@[simp] theorem updWatch_stgTurn (w : Nat) (g : Watch → Watch) : (updWatch w g s).stgTurn = s.stgTurn := rfl
@[simp] theorem updWatch_dbgShut (w : Nat) (g : Watch → Watch) : (updWatch w g s).dbgShut = s.dbgShut := rfl
@[simp] theorem updWatch_routeErr (w : Nat) (g : Watch → Watch) : (updWatch w g s).routeErr = s.routeErr := rfl
@[simp] theorem updWatch_arb (w : Nat) (g : Watch → Watch) : (updWatch w g s).arb = s.arb := rfl
@[simp] theorem updWatch_niWait (w : Nat) (g : Watch → Watch) : (updWatch w g s).niWait = s.niWait := rfl
@[simp] theorem updWatch_pwrLow (w : Nat) (g : Watch → Watch) : (updWatch w g s).pwrLow = s.pwrLow := rfl
@[simp] theorem updWatch_rstDom (w : Nat) (g : Watch → Watch) : (updWatch w g s).rstDom = s.rstDom := rfl
@[simp] theorem updWatch_net (w : Nat) (g : Watch → Watch) : (updWatch w g s).net = s.net := rfl
@[simp] theorem updWatch_eject (w : Nat) (g : Watch → Watch) : (updWatch w g s).eject = s.eject := rfl
@[simp] theorem updWatch_halves (w : Nat) (g : Watch → Watch) : (updWatch w g s).halves = s.halves := rfl
@[simp] theorem updWatch_outst (w : Nat) (g : Watch → Watch) : (updWatch w g s).outst = s.outst := rfl
@[simp] theorem updWatch_answers (w : Nat) (g : Watch → Watch) : (updWatch w g s).answers = s.answers := rfl
@[simp] theorem updWatch_verdict (w : Nat) (g : Watch → Watch) : (updWatch w g s).verdict = s.verdict := rfl
@[simp] theorem updWatch_invals (w : Nat) (g : Watch → Watch) : (updWatch w g s).invals = s.invals := rfl
@[simp] theorem updWatch_invWait (w : Nat) (g : Watch → Watch) : (updWatch w g s).invWait = s.invWait := rfl
@[simp] theorem updWatch_spadQ (w : Nat) (g : Watch → Watch) : (updWatch w g s).spadQ = s.spadQ := rfl
@[simp] theorem updWatch_hbmFast (w : Nat) (g : Watch → Watch) : (updWatch w g s).hbmFast = s.hbmFast := rfl
@[simp] theorem updWatch_cqHold (w : Nat) (g : Watch → Watch) : (updWatch w g s).cqHold = s.cqHold := rfl
@[simp] theorem updWatch_links (w : Nat) (g : Watch → Watch) : (updWatch w g s).links = s.links := rfl
@[simp] theorem updWatch_cands (w : Nat) (g : Watch → Watch) : (updWatch w g s).cands = s.cands := rfl
@[simp] theorem updWatch_master (w : Nat) (g : Watch → Watch) : (updWatch w g s).master = s.master := rfl
@[simp] theorem updWatch_exch (w : Nat) (g : Watch → Watch) : (updWatch w g s).exch = s.exch := rfl
@[simp] theorem updWatch_locks (w : Nat) (g : Watch → Watch) : (updWatch w g s).locks = s.locks := rfl
@[simp] theorem updWatch_barriers (w : Nat) (g : Watch → Watch) : (updWatch w g s).barriers = s.barriers := rfl
@[simp] theorem updWatch_offNow (w : Nat) (g : Watch → Watch) : (updWatch w g s).offNow = s.offNow := rfl
@[simp] theorem updWatch_offWake (w : Nat) (g : Watch → Watch) : (updWatch w g s).offWake = s.offWake := rfl
@[simp] theorem updWatch_aonBase (w : Nat) (g : Watch → Watch) : (updWatch w g s).aonBase = s.aonBase := rfl
@[simp] theorem updWatch_aonAt (w : Nat) (g : Watch → Watch) : (updWatch w g s).aonAt = s.aonAt := rfl
@[simp] theorem updWatch_pins (w : Nat) (g : Watch → Watch) : (updWatch w g s).pins = s.pins := rfl
@[simp] theorem updWatch_retryQ (w : Nat) (g : Watch → Watch) : (updWatch w g s).retryQ = s.retryQ := rfl
@[simp] theorem updWatch_borrow (w : Nat) (g : Watch → Watch) : (updWatch w g s).borrow = s.borrow := rfl
@[simp] theorem updWatch_partCmd (w : Nat) (g : Watch → Watch) : (updWatch w g s).partCmd = s.partCmd := rfl
@[simp] theorem updWatch_portsOff (w : Nat) (g : Watch → Watch) : (updWatch w g s).portsOff = s.portsOff := rfl
@[simp] theorem updWatch_flrWait (w : Nat) (g : Watch → Watch) : (updWatch w g s).flrWait = s.flrWait := rfl
@[simp] theorem updWatch_lineTx (w : Nat) (g : Watch → Watch) : (updWatch w g s).lineTx = s.lineTx := rfl
@[simp] theorem updWatch_strips (w : Nat) (g : Watch → Watch) : (updWatch w g s).strips = s.strips := rfl
@[simp] theorem updWatch_pmaTx (w : Nat) (g : Watch → Watch) : (updWatch w g s).pmaTx = s.pmaTx := rfl
@[simp] theorem updWatch_measures (w : Nat) (g : Watch → Watch) : (updWatch w g s).measures = s.measures := rfl
@[simp] theorem updWatch_evtHeld (w : Nat) (g : Watch → Watch) : (updWatch w g s).evtHeld = s.evtHeld := rfl
@[simp] theorem updWatch_aer (w : Nat) (g : Watch → Watch) : (updWatch w g s).aer = s.aer := rfl
@[simp] theorem updWatch_flash (w : Nat) (g : Watch → Watch) : (updWatch w g s).flash = s.flash := rfl
@[simp] theorem updWatch_image (w : Nat) (g : Watch → Watch) : (updWatch w g s).image = s.image := rfl
@[simp] theorem updWatch_warmWait (w : Nat) (g : Watch → Watch) : (updWatch w g s).warmWait = s.warmWait := rfl
@[simp] theorem updWatch_tap (w : Nat) (g : Watch → Watch) : (updWatch w g s).tap = s.tap := rfl
@[simp] theorem updWatch_nonce (w : Nat) (g : Watch → Watch) : (updWatch w g s).nonce = s.nonce := rfl
@[simp] theorem updWatch_dbg (w : Nat) (g : Watch → Watch) : (updWatch w g s).dbg = s.dbg := rfl
@[simp] theorem updWatch_eids (w : Nat) (g : Watch → Watch) : (updWatch w g s).eids = s.eids := rfl
@[simp] theorem updWatch_spdm (w : Nat) (g : Watch → Watch) : (updWatch w g s).spdm = s.spdm := rfl
@[simp] theorem updWatch_spdmTx (w : Nat) (g : Watch → Watch) : (updWatch w g s).spdmTx = s.spdmTx := rfl
@[simp] theorem updWatch_avs (w : Nat) (g : Watch → Watch) : (updWatch w g s).avs = s.avs := rfl
@[simp] theorem updWatch_gpioV (w : Nat) (g : Watch → Watch) : (updWatch w g s).gpioV = s.gpioV := rfl

/-! ### updJob -/

@[simp] theorem updJob_pending (i : Nat) (g : Job → Job) : (updJob i g s).pending = s.pending := rfl
@[simp] theorem updJob_ticks (i : Nat) (g : Job → Job) : (updJob i g s).ticks = s.ticks := rfl
@[simp] theorem updJob_fresh (i : Nat) (g : Job → Job) : (updJob i g s).fresh = s.fresh := rfl
@[simp] theorem updJob_regs (i : Nat) (g : Job → Job) : (updJob i g s).regs = s.regs := rfl
@[simp] theorem updJob_parts (i : Nat) (g : Job → Job) : (updJob i g s).parts = s.parts := rfl
@[simp] theorem updJob_fields (i : Nat) (g : Job → Job) : (updJob i g s).fields = s.fields := rfl
@[simp] theorem updJob_seqs (i : Nat) (g : Job → Job) : (updJob i g s).seqs = s.seqs := rfl
@[simp] theorem updJob_cores (i : Nat) (g : Job → Job) : (updJob i g s).cores = s.cores := rfl
@[simp] theorem updJob_alm (i : Nat) (g : Job → Job) : (updJob i g s).alm = s.alm := rfl
@[simp] theorem updJob_almErr (i : Nat) (g : Job → Job) : (updJob i g s).almErr = s.almErr := rfl
@[simp] theorem updJob_edgeIn (i : Nat) (g : Job → Job) : (updJob i g s).edgeIn = s.edgeIn := rfl
@[simp] theorem updJob_edgeOut (i : Nat) (g : Job → Job) : (updJob i g s).edgeOut = s.edgeOut := rfl
@[simp] theorem updJob_inTake (i : Nat) (g : Job → Job) : (updJob i g s).inTake = s.inTake := rfl
@[simp] theorem updJob_mer (i : Nat) (g : Job → Job) : (updJob i g s).mer = s.mer := rfl
@[simp] theorem updJob_merInc (i : Nat) (g : Job → Job) : (updJob i g s).merInc = s.merInc := rfl
@[simp] theorem updJob_hostTx (i : Nat) (g : Job → Job) : (updJob i g s).hostTx = s.hostTx := rfl
@[simp] theorem updJob_holdoff (i : Nat) (g : Job → Job) : (updJob i g s).holdoff = s.holdoff := rfl
@[simp] theorem updJob_evtLost (i : Nat) (g : Job → Job) : (updJob i g s).evtLost = s.evtLost := rfl
@[simp] theorem updJob_msixTab (i : Nat) (g : Job → Job) : (updJob i g s).msixTab = s.msixTab := rfl
@[simp] theorem updJob_msixPba (i : Nat) (g : Job → Job) : (updJob i g s).msixPba = s.msixPba := rfl
@[simp] theorem updJob_dlog (i : Nat) (g : Job → Job) : (updJob i g s).dlog = s.dlog := rfl
@[simp] theorem updJob_tlogUnread (i : Nat) (g : Job → Job) : (updJob i g s).tlogUnread = s.tlogUnread := rfl
@[simp] theorem updJob_fetches (i : Nat) (g : Job → Job) : (updJob i g s).fetches = s.fetches := rfl
@[simp] theorem updJob_jobNo (i : Nat) (g : Job → Job) : (updJob i g s).jobNo = s.jobNo := rfl
@[simp] theorem updJob_heldCqe (i : Nat) (g : Job → Job) : (updJob i g s).heldCqe = s.heldCqe := rfl
@[simp] theorem updJob_ringStop (i : Nat) (g : Job → Job) : (updJob i g s).ringStop = s.ringStop := rfl
@[simp] theorem updJob_imageOk (i : Nat) (g : Job → Job) : (updJob i g s).imageOk = s.imageOk := rfl
@[simp] theorem updJob_doms (i : Nat) (g : Job → Job) : (updJob i g s).doms = s.doms := rfl
@[simp] theorem updJob_pwrNote (i : Nat) (g : Job → Job) : (updJob i g s).pwrNote = s.pwrNote := rfl
@[simp] theorem updJob_noteMask (i : Nat) (g : Job → Job) : (updJob i g s).noteMask = s.noteMask := rfl
@[simp] theorem updJob_pwrRes (i : Nat) (g : Job → Job) : (updJob i g s).pwrRes = s.pwrRes := rfl
@[simp] theorem updJob_off (i : Nat) (g : Job → Job) : (updJob i g s).off = s.off := rfl
@[simp] theorem updJob_mem (i : Nat) (g : Job → Job) : (updJob i g s).mem = s.mem := rfl
@[simp] theorem updJob_memErr (i : Nat) (g : Job → Job) : (updJob i g s).memErr = s.memErr := rfl
@[simp] theorem updJob_chart (i : Nat) (g : Job → Job) : (updJob i g s).chart = s.chart := rfl
@[simp] theorem updJob_chartErr (i : Nat) (g : Job → Job) : (updJob i g s).chartErr = s.chartErr := rfl
@[simp] theorem updJob_chartCache (i : Nat) (g : Job → Job) : (updJob i g s).chartCache = s.chartCache := rfl
@[simp] theorem updJob_xlatWait (i : Nat) (g : Job → Job) : (updJob i g s).xlatWait = s.xlatWait := rfl
@[simp] theorem updJob_hbmQ (i : Nat) (g : Job → Job) : (updJob i g s).hbmQ = s.hbmQ := rfl
@[simp] theorem updJob_hbmHeld (i : Nat) (g : Job → Job) : (updJob i g s).hbmHeld = s.hbmHeld := rfl
@[simp] theorem updJob_hotRun (i : Nat) (g : Job → Job) : (updJob i g s).hotRun = s.hotRun := rfl
@[simp] theorem updJob_routes (i : Nat) (g : Job → Job) : (updJob i g s).routes = s.routes := rfl
@[simp] theorem updJob_pcie (i : Nat) (g : Job → Job) : (updJob i g s).pcie = s.pcie := rfl
@[simp] theorem updJob_fetchFn (i : Nat) (g : Job → Job) : (updJob i g s).fetchFn = s.fetchFn := rfl
@[simp] theorem updJob_fetchRing (i : Nat) (g : Job → Job) : (updJob i g s).fetchRing = s.fetchRing := rfl
@[simp] theorem updJob_hbmTurn (i : Nat) (g : Job → Job) : (updJob i g s).hbmTurn = s.hbmTurn := rfl
@[simp] theorem updJob_hbmErr (i : Nat) (g : Job → Job) : (updJob i g s).hbmErr = s.hbmErr := rfl
@[simp] theorem updJob_stgTurn (i : Nat) (g : Job → Job) : (updJob i g s).stgTurn = s.stgTurn := rfl
@[simp] theorem updJob_dbgShut (i : Nat) (g : Job → Job) : (updJob i g s).dbgShut = s.dbgShut := rfl
@[simp] theorem updJob_routeErr (i : Nat) (g : Job → Job) : (updJob i g s).routeErr = s.routeErr := rfl
@[simp] theorem updJob_arb (i : Nat) (g : Job → Job) : (updJob i g s).arb = s.arb := rfl
@[simp] theorem updJob_niWait (i : Nat) (g : Job → Job) : (updJob i g s).niWait = s.niWait := rfl
@[simp] theorem updJob_pwrLow (i : Nat) (g : Job → Job) : (updJob i g s).pwrLow = s.pwrLow := rfl
@[simp] theorem updJob_rstDom (i : Nat) (g : Job → Job) : (updJob i g s).rstDom = s.rstDom := rfl
@[simp] theorem updJob_net (i : Nat) (g : Job → Job) : (updJob i g s).net = s.net := rfl
@[simp] theorem updJob_eject (i : Nat) (g : Job → Job) : (updJob i g s).eject = s.eject := rfl
@[simp] theorem updJob_halves (i : Nat) (g : Job → Job) : (updJob i g s).halves = s.halves := rfl
@[simp] theorem updJob_outst (i : Nat) (g : Job → Job) : (updJob i g s).outst = s.outst := rfl
@[simp] theorem updJob_answers (i : Nat) (g : Job → Job) : (updJob i g s).answers = s.answers := rfl
@[simp] theorem updJob_verdict (i : Nat) (g : Job → Job) : (updJob i g s).verdict = s.verdict := rfl
@[simp] theorem updJob_invals (i : Nat) (g : Job → Job) : (updJob i g s).invals = s.invals := rfl
@[simp] theorem updJob_invWait (i : Nat) (g : Job → Job) : (updJob i g s).invWait = s.invWait := rfl
@[simp] theorem updJob_spadQ (i : Nat) (g : Job → Job) : (updJob i g s).spadQ = s.spadQ := rfl
@[simp] theorem updJob_hbmFast (i : Nat) (g : Job → Job) : (updJob i g s).hbmFast = s.hbmFast := rfl
@[simp] theorem updJob_cqHold (i : Nat) (g : Job → Job) : (updJob i g s).cqHold = s.cqHold := rfl
@[simp] theorem updJob_links (i : Nat) (g : Job → Job) : (updJob i g s).links = s.links := rfl
@[simp] theorem updJob_cands (i : Nat) (g : Job → Job) : (updJob i g s).cands = s.cands := rfl
@[simp] theorem updJob_master (i : Nat) (g : Job → Job) : (updJob i g s).master = s.master := rfl
@[simp] theorem updJob_exch (i : Nat) (g : Job → Job) : (updJob i g s).exch = s.exch := rfl
@[simp] theorem updJob_locks (i : Nat) (g : Job → Job) : (updJob i g s).locks = s.locks := rfl
@[simp] theorem updJob_watches (i : Nat) (g : Job → Job) : (updJob i g s).watches = s.watches := rfl
@[simp] theorem updJob_barriers (i : Nat) (g : Job → Job) : (updJob i g s).barriers = s.barriers := rfl
@[simp] theorem updJob_offNow (i : Nat) (g : Job → Job) : (updJob i g s).offNow = s.offNow := rfl
@[simp] theorem updJob_offWake (i : Nat) (g : Job → Job) : (updJob i g s).offWake = s.offWake := rfl
@[simp] theorem updJob_aonBase (i : Nat) (g : Job → Job) : (updJob i g s).aonBase = s.aonBase := rfl
@[simp] theorem updJob_aonAt (i : Nat) (g : Job → Job) : (updJob i g s).aonAt = s.aonAt := rfl
@[simp] theorem updJob_pins (i : Nat) (g : Job → Job) : (updJob i g s).pins = s.pins := rfl
@[simp] theorem updJob_retryQ (i : Nat) (g : Job → Job) : (updJob i g s).retryQ = s.retryQ := rfl
@[simp] theorem updJob_borrow (i : Nat) (g : Job → Job) : (updJob i g s).borrow = s.borrow := rfl
@[simp] theorem updJob_partCmd (i : Nat) (g : Job → Job) : (updJob i g s).partCmd = s.partCmd := rfl
@[simp] theorem updJob_portsOff (i : Nat) (g : Job → Job) : (updJob i g s).portsOff = s.portsOff := rfl
@[simp] theorem updJob_flrWait (i : Nat) (g : Job → Job) : (updJob i g s).flrWait = s.flrWait := rfl
@[simp] theorem updJob_lineTx (i : Nat) (g : Job → Job) : (updJob i g s).lineTx = s.lineTx := rfl
@[simp] theorem updJob_strips (i : Nat) (g : Job → Job) : (updJob i g s).strips = s.strips := rfl
@[simp] theorem updJob_pmaTx (i : Nat) (g : Job → Job) : (updJob i g s).pmaTx = s.pmaTx := rfl
@[simp] theorem updJob_measures (i : Nat) (g : Job → Job) : (updJob i g s).measures = s.measures := rfl
@[simp] theorem updJob_evtHeld (i : Nat) (g : Job → Job) : (updJob i g s).evtHeld = s.evtHeld := rfl
@[simp] theorem updJob_aer (i : Nat) (g : Job → Job) : (updJob i g s).aer = s.aer := rfl
@[simp] theorem updJob_flash (i : Nat) (g : Job → Job) : (updJob i g s).flash = s.flash := rfl
@[simp] theorem updJob_image (i : Nat) (g : Job → Job) : (updJob i g s).image = s.image := rfl
@[simp] theorem updJob_warmWait (i : Nat) (g : Job → Job) : (updJob i g s).warmWait = s.warmWait := rfl
@[simp] theorem updJob_tap (i : Nat) (g : Job → Job) : (updJob i g s).tap = s.tap := rfl
@[simp] theorem updJob_nonce (i : Nat) (g : Job → Job) : (updJob i g s).nonce = s.nonce := rfl
@[simp] theorem updJob_dbg (i : Nat) (g : Job → Job) : (updJob i g s).dbg = s.dbg := rfl
@[simp] theorem updJob_eids (i : Nat) (g : Job → Job) : (updJob i g s).eids = s.eids := rfl
@[simp] theorem updJob_spdm (i : Nat) (g : Job → Job) : (updJob i g s).spdm = s.spdm := rfl
@[simp] theorem updJob_spdmTx (i : Nat) (g : Job → Job) : (updJob i g s).spdmTx = s.spdmTx := rfl
@[simp] theorem updJob_avs (i : Nat) (g : Job → Job) : (updJob i g s).avs = s.avs := rfl
@[simp] theorem updJob_gpioV (i : Nat) (g : Job → Job) : (updJob i g s).gpioV = s.gpioV := rfl

end Sys2Proof.Machine
end

