-- ==== Sys2Proof/Laws/Ops.lean ====
section
/-! SUPPORT. What the named operations on registers, units and memory do, and that they keep the invariants. -/
namespace Sys2Proof.Machine
open Sys2Proof

/-! ### Register fields -/

/-- A field reads within its width. -/
theorem getF_lt (s : State) (f : Fld) : getF s f < 2 ^ f.w := Nat.mod_lt _ (Nat.two_pow_pos _)
@[simp] theorem getF_setF_same (f : Fld) (v : Nat) (s : State) : getF (setF f v s) f = v % 2 ^ f.w := by
  simp [getF, setF]
theorem getF_setF_other {f g : Fld} (v : Nat) (s : State) (h : fldKey g ≠ fldKey f) : getF (setF f v s) g = getF s g := by
  simp only [getF, setF, tget]
  rw [tlook_tset_other _ _ _ h]
/-- A field reads the same in states with the same registers. -/
theorem getF_congr {s t : State} (f : Fld) (h : t.regs = s.regs) : getF t f = getF s f := by
  simp only [getF, h]
@[simp] theorem setFs_nil (s : State) : setFs [] s = s := rfl
@[simp] theorem setFs_cons (e : Fld × Nat) (l : List (Fld × Nat)) (s : State) :
    setFs (e :: l) s = setFs l (setF e.1 e.2 s) := rfl
/-- A list of stores changes the registers alone. -/
theorem setFs_frame (l : List (Fld × Nat)) (s : State) : setFs l s = { s with regs := (setFs l s).regs } := by
  induction l generalizing s with
  | nil => rfl
  | cons e l ih =>
    rw [setFs_cons, ih]
    rfl
/-- A field that no store of a list names keeps its value. -/
theorem getF_setFs_other {l : List (Fld × Nat)} {g : Fld} (s : State) (h : ∀ e ∈ l, fldKey g ≠ fldKey e.1) :
    getF (setFs l s) g = getF s g := by
  induction l generalizing s with
  | nil => rfl
  | cons e l ih =>
    rw [setFs_cons, ih _ fun x hx => h x (List.mem_cons_of_mem _ hx)]
    exact getF_setF_other _ _ (h e List.mem_cons_self)
theorem bitF_eq (s : State) (f : Fld) : bitF s f = true ↔ getF s f = 1 := by simp [bitF]

/-! ### Units -/

@[simp] theorem getField_updField_same (n : Nat) (g : Field → Field) (s : State) :
    getField (updField n g s) n = g (getField s n) := by simp [getField, updField, setField]
theorem getField_updField_other {n k : Nat} (g : Field → Field) (s : State) (h : k ≠ n) :
    getField (updField n g s) k = getField s k := by simp [getField, updField, setField, tget_tset, h]
@[simp] theorem getSeq_updSeq_same (n : Nat) (g : MSeq → MSeq) (s : State) :
    getSeq (updSeq n g s) n = g (getSeq s n) := by simp [getSeq, updSeq, setSeq]
theorem getSeq_updSeq_other {n k : Nat} (g : MSeq → MSeq) (s : State) (h : k ≠ n) :
    getSeq (updSeq n g s) k = getSeq s k := by simp [getSeq, updSeq, setSeq, tget_tset, h]
@[simp] theorem getCore_updCore_same (n : Nat) (g : Core → Core) (s : State) :
    getCore (updCore n g s) n = g (getCore s n) := by simp [getCore, updCore, setCore]
theorem getCore_updCore_other {n k : Nat} (g : Core → Core) (s : State) (h : k ≠ n) :
    getCore (updCore n g s) k = getCore s k := by simp [getCore, updCore, setCore, tget_tset, h]
@[simp] theorem getLink_updLink_same (n : Nat) (g : Link → Link) (s : State) :
    getLink (updLink n g s) n = g (getLink s n) := by simp [getLink, updLink]
theorem getLink_updLink_other {n k : Nat} (g : Link → Link) (s : State) (h : k ≠ n) :
    getLink (updLink n g s) k = getLink s k := by simp [getLink, updLink, tget_tset, h]
@[simp] theorem getStrip_updStrip_same (n : Nat) (g : Strip → Strip) (s : State) :
    getStrip (updStrip n g s) n = g (getStrip s n) := by simp [getStrip, updStrip]
theorem getStrip_updStrip_other {n k : Nat} (g : Strip → Strip) (s : State) (h : k ≠ n) :
    getStrip (updStrip n g s) k = getStrip s k := by simp [getStrip, updStrip, tget_tset, h]
@[simp] theorem getBar_updBar_same (n : Nat) (g : Barrier → Barrier) (s : State) :
    getBar (updBar n g s) n = g (getBar s n) := by simp [getBar, updBar]
@[simp] theorem getWatch_updWatch_same (n : Nat) (g : Watch → Watch) (s : State) :
    getWatch (updWatch n g s) n = g (getWatch s n) := by simp [getWatch, updWatch]
/-- The domain's plain state after an update; its registers show it as well (R537). -/
@[simp] theorem getDom_updDom_same (d : Nat) (g : Dom → Dom) (s : State) : getDom (updDom d g s) d = g (getDom s d) := by
  unfold updDom setDom
  rw [setFs_frame]
  simp [getDom]
theorem getDom_updDom_other {d k : Nat} (g : Dom → Dom) (s : State) (h : k ≠ d) : getDom (updDom d g s) k = getDom s k := by
  unfold updDom setDom
  rw [setFs_frame]
  simp [getDom, tget_tset, h]
/-- Replacing a domain changes the domains and the registers alone. -/
theorem setDom_frame (d : Nat) (x : Dom) (s : State) :
    setDom d x s = { s with doms := (setDom d x s).doms, regs := (setDom d x s).regs } := by
  unfold setDom
  rw [setFs_frame]

/-! ### Memory -/

@[simp] theorem memByte_setByte_same (a : Nat) (b : Byte) (s : State) : memByte (setByte a b s) a = b := by
  simp [memByte, setByte]
theorem memByte_setByte_other {a c : Nat} (b : Byte) (s : State) (h : c ≠ a) : memByte (setByte a b s) c = memByte s c := by
  simp [memByte, setByte, tget_tset, h]
/-- Storing a byte keeps the canonical form. -/
theorem setByte_memOk (a : Nat) (b : Byte) {s : State} (h : s.memOk) : (setByte a b s).memOk := tcanon_tset a b h

/-- A fold of steps that each keep a property keeps it. -/
theorem foldl_keeps {α β : Type} {P : α → Prop} {g : α → β → α} (l : List β) {x : α} (h : P x)
    (hg : ∀ x, P x → ∀ b ∈ l, P (g x b)) : P (l.foldl g x) := by
  induction l generalizing x with
  | nil => exact h
  | cons b l ih =>
    exact ih (hg x h b List.mem_cons_self) fun y hy c hc => hg y hy c (List.mem_cons_of_mem _ hc)

theorem setBytes_memOk (a : Nat) (l : List Byte) {s : State} (h : s.memOk) : (setBytes a l s).memOk :=
  foldl_keeps (P := State.memOk) _ h fun _ hx _ _ => setByte_memOk _ _ hx
theorem setWord_memOk (w : Nat) (v : Word) {s : State} (h : s.memOk) : (setWord w v s).memOk := setBytes_memOk _ _ h
/-- An address outside the bytes stored reads as before. -/
theorem memByte_setBytes_other {a c : Nat} {l : List Byte} (s : State) (h : c < a ∨ a + l.length ≤ c) :
    memByte (setBytes a l s) c = memByte s c := by
  unfold setBytes
  refine foldl_keeps (P := fun t => memByte t c = memByte s c) _ rfl fun t ht i hi => ?_
  rw [memByte_setByte_other]
  · exact ht
  · have := List.mem_range.mp hi
    omega

/-! ### One step -/

/-- The command at the front of the queue runs with the queue's rest. -/
theorem step_cons {s : State} {c : Instr} {rest : List Instr} (h : s.pending = c :: rest) :
    step s = exec c { s with pending := rest } := by simp [step, h]
/-- With nothing waiting, a tick passes. -/
theorem step_nil {s : State} (h : s.pending = []) : step s = .next (tick s) := by simp [step, h]
@[simp] theorem tick_mem (s : State) : (tick s).mem = s.mem := by
  unfold tick
  dsimp only
  split <;> rfl
@[simp] theorem tick_regs (s : State) : (tick s).regs = s.regs := by
  unfold tick
  dsimp only
  split <;> rfl

end Sys2Proof.Machine
end

