-- ==== Sys2Proof/Laws/Commands.lean ====
section
/-! SUPPORT. What the operations that many commands share can do: reports, completions, register writes, and the shapes of
commands by master, ring, link, slice word and SPDM transport. -/
namespace Sys2Proof.Machine
open Sys2Proof

/-! ### Reports: registers, host writes, Logbooks, and nothing else -/

/-- The state s with all that reporting may touch taken from t. -/
def State.withReports (s t : State) : State :=
  { s with regs := t.regs, hostTx := t.hostTx, holdoff := t.holdoff, evtLost := t.evtLost, msixPba := t.msixPba,
           dlog := t.dlog, tlogUnread := t.tlogUnread, evtHeld := t.evtHeld }
/-- t differs from s in what reporting touches alone. -/
def Reports (s t : State) : Prop := t = s.withReports t

theorem Reports.refl (s : State) : Reports s s := rfl
theorem Reports.trans {s t u : State} (h : Reports s t) (k : Reports t u) : Reports s u := by
  unfold Reports at *
  rw [k, h]
  rfl
theorem Reports.mem {s t : State} (h : Reports s t) : t.mem = s.mem := by rw [h]; rfl
theorem Reports.jobs {s t : State} (h : Reports s t) : t.jobs = s.jobs := by rw [h]; rfl
theorem Reports.seqs {s t : State} (h : Reports s t) : t.seqs = s.seqs := by rw [h]; rfl
theorem Reports.cores {s t : State} (h : Reports s t) : t.cores = s.cores := by rw [h]; rfl
theorem Reports.doms {s t : State} (h : Reports s t) : t.doms = s.doms := by rw [h]; rfl
theorem Reports.links {s t : State} (h : Reports s t) : t.links = s.links := by rw [h]; rfl
theorem Reports.strips {s t : State} (h : Reports s t) : t.strips = s.strips := by rw [h]; rfl
theorem Reports.parts {s t : State} (h : Reports s t) : t.parts = s.parts := by rw [h]; rfl
theorem Reports.heldCqe {s t : State} (h : Reports s t) : t.heldCqe = s.heldCqe := by rw [h]; rfl
theorem Reports.partCmd {s t : State} (h : Reports s t) : t.partCmd = s.partCmd := by rw [h]; rfl
theorem Reports.flrWait {s t : State} (h : Reports s t) : t.flrWait = s.flrWait := by rw [h]; rfl

theorem setF_reports (f : Fld) (v : Nat) (s : State) : Reports s (setF f v s) := rfl
theorem setFs_reports (l : List (Fld × Nat)) (s : State) : Reports s (setFs l s) := by
  unfold Reports
  rw [setFs_frame]
  rfl
theorem hostWrite_reports (f a : Nat) (d : List Byte) (s : State) : Reports s (hostWrite f a d s) := rfl
theorem msix_reports (f v : Nat) (s : State) : Reports s (msix f v s) := by
  unfold msix
  dsimp only
  split <;> rfl
theorem announce_reports (r : Nat) (s : State) : Reports s (announce r s) := by
  unfold announce
  dsimp only
  split
  · split
    · exact msix_reports _ _ s
    · split
      · rfl
      · exact (msix_reports _ _ s).trans rfl
  · rfl
theorem ringWrite_reports (r a b : Nat) (s : State) : Reports s (ringWrite r a b s) := by
  unfold ringWrite
  dsimp only
  refine Reports.trans ?_ (announce_reports _ _)
  split <;> rfl
theorem postEntry_reports (f a b : Nat) (s : State) : Reports s (postEntry f a b s) := by
  unfold postEntry
  dsimp only
  split
  · generalize hu : (if tget 0 s.evtLost (getF s (fFUNC_CFG_EVT_RING f)) = 0 then s else _) = u
    have k : Reports s u := by
      rw [← hu]
      split
      · exact .refl s
      · exact (ringWrite_reports _ _ _ s).trans rfl
    split
    · exact k.trans rfl
    · exact k.trans (ringWrite_reports _ _ _ _)
  · split <;> rfl
theorem postEvent_reports (f ty src data : Nat) (s : State) : Reports s (postEvent f ty src data s) := by
  unfold postEvent
  split
  · rfl
  · split
    · rfl
    · exact postEntry_reports _ _ _ _
/-- A device Logbook entry reports (R550). -/
theorem devLogFor_reports (vfs : List Nat) (cls sev status master node field wh cap : Nat) (s : State) :
    Reports s (devLogFor vfs cls sev status master node field wh cap s) := by
  unfold devLogFor
  dsimp only
  refine foldl_keeps (P := Reports s) _ ?_ fun _ h _ _ => h.trans (postEvent_reports ..)
  refine Reports.trans ?_ (postEvent_reports ..)
  rfl
theorem devLogM_reports (a b c d e f g : Nat) (s : State) : Reports s (devLogM a b c d e f g s) := devLogFor_reports ..
theorem devLogF_reports (a b c d e : Nat) (s : State) : Reports s (devLogF a b c d e s) := devLogFor_reports ..
/-- A target Logbook entry reports (R549). -/
theorem tgtLog_reports (d a m ty st : Nat) (s : State) : Reports s (tgtLog d a m ty st s) := by
  unfold tgtLog
  dsimp only
  split
  · exact Reports.trans (t := setFs _ (satF (fTLOG_STAT_LOST d) 1 s)) ((setF_reports _ _ _).trans (setFs_reports _ _)) rfl
  · exact Reports.trans (t := setFs _ s) (setFs_reports _ _) rfl
theorem refusalLog_reports (d a m ty st : Nat) (s : State) : Reports s (refusalLog d a m ty st s) :=
  (tgtLog_reports ..).trans (devLogM_reports ..)

/-! ### Descriptors -/

/-- t differs from s in the descriptors, in completions that wait for their ring, and in what reporting touches. -/
def Completes (s t : State) : Prop := t = { s.withReports t with jobs := t.jobs, heldCqe := t.heldCqe }

theorem Completes.refl (s : State) : Completes s s := rfl
theorem Completes.trans {s t u : State} (h : Completes s t) (k : Completes t u) : Completes s u := by
  unfold Completes at *
  rw [k, h]
  rfl
theorem Reports.completes {s t : State} (h : Reports s t) : Completes s t := by
  unfold Completes
  unfold Reports at h
  rw [h]
  rfl
theorem Completes.mem {s t : State} (h : Completes s t) : t.mem = s.mem := by rw [h]; rfl
theorem Completes.seqs {s t : State} (h : Completes s t) : t.seqs = s.seqs := by rw [h]; rfl
theorem Completes.cores {s t : State} (h : Completes s t) : t.cores = s.cores := by rw [h]; rfl
theorem Completes.doms {s t : State} (h : Completes s t) : t.doms = s.doms := by rw [h]; rfl
theorem Completes.parts {s t : State} (h : Completes s t) : t.parts = s.parts := by rw [h]; rfl
theorem giveEngines_completes (k : Nat) (s : State) : Completes s (giveEngines k s) := by
  induction k generalizing s with
  | zero => rfl
  | succ k ih =>
    unfold giveEngines
    split
    · rename_i j e _ _
      split
      · exact Completes.trans (Completes.trans (t := updJob j.id (fun j => { j with eng := some e }) s) rfl
          (setFs_reports _ _).completes) (ih _)
      · rfl
    · rfl
theorem freeEngine_completes (j : Job) (s : State) : Completes s (freeEngine j s) := by
  unfold freeEngine giveEngine
  split
  · exact (setF_reports _ _ _).completes.trans (giveEngines_completes _ _)
  · exact giveEngines_completes _ _
theorem writeCqe_reports (h : HeldCqe) (s : State) : Reports s (writeCqe h s) :=
  (ringWrite_reports ..).trans (setF_reports ..)
/-- A completion touches the descriptors, what waits for its ring, and reports (R343, R346). -/
theorem completeJob_completes (id st det : Nat) (s : State) : Completes s (completeJob id st det s) := by
  unfold completeJob
  split
  · rfl
  · rename_i j _
    have k : Completes s (freeEngine j { s with jobs := s.jobs.filter fun k => k.id != id }) :=
      Completes.trans (t := { s with jobs := s.jobs.filter fun k => k.id != id }) rfl (freeEngine_completes _ _)
    revert k
    generalize freeEngine j { s with jobs := s.jobs.filter fun k => k.id != id } = u
    intro k
    dsimp only
    split
    · exact k
    · split
      · exact k.trans (setF_reports _ _ _).completes
      · split
        · have w : Completes s { u with heldCqe := u.heldCqe ++ [⟨j, st, det⟩] } := k.trans rfl
          split
          · exact w.trans (setF_reports _ _ _).completes
          · exact w
        · exact k.trans (writeCqe_reports _ _).completes
@[simp] theorem completeJob_mem (id st det : Nat) (s : State) : (completeJob id st det s).mem = s.mem :=
  (completeJob_completes ..).mem
/-- A descriptor of ring r starts only as its head, ready, with the opcode of the command; otherwise nothing happens. -/
theorem startOp_cases (r : Fin 8192) (op : Nat) (act : Job → State → State) (s : State) :
    (∃ j, headJob s r = some j ∧ j.phase = .ready ∧ j.op = op ∧ bitF s fDEV_ERR_FATAL = false ∧
      startOp r op act s = .next (advanceRing r (act j s))) ∨ startOp r op act s = .next s := by
  unfold startOp
  split
  · rename_i j hj
    split
    · rename_i c
      exact .inl ⟨j, hj, c.1, c.2.1, by simpa using c.2.2, rfl⟩
    · exact .inr rfl
  · exact .inr rfl

/-! ### Register accesses -/

/-- A store by field types changes the registers alone (R18). -/
theorem writeFld_reports (f : Fld) (v en : Nat) (s : State) : Reports s (writeFld f v en s) := by
  unfold writeFld
  split <;> first | rfl | (split <;> rfl)
theorem writeRow_reports (r : RegRow) (i j v en : Nat) (s : State) : Reports s (writeRow' r i j v en s) :=
  foldl_keeps (P := Reports s) _ (.refl s) fun _ h _ _ => h.trans (writeFld_reports ..)
theorem writeTy_reports (ty : FTy) (r : RegRow) (i j v en : Nat) (s : State) : Reports s (writeTy ty r i j v en s) :=
  foldl_keeps (P := Reports s) _ (.refl s) fun _ h _ _ => h.trans (writeFld_reports ..)
/-- A command that writes a register: it acts and answers when the access is let through; it leaves its refusal when not;
and does nothing when the part does not answer the master or a window holds it (R320, R395, R417, R570). -/
theorem hostCmd_acts {m : BitVec 8} {o : Nat} {act : State → State} {s : State} (h : hostPasses s m.toNat o = true)
    (k : regGate (homeOf m.toNat) m.toNat m.toNat true o s = (0, s)) :
    hostCmd m o act s = .next (regAnswer (homeOf m.toNat) m.toNat o 0 (act s)).2 := by
  simp [hostCmd, hostWriteReg, h, k, ok]
theorem hostCmd_silent {m : BitVec 8} {o : Nat} {act : State → State} {s : State} (h : hostPasses s m.toNat o = false) :
    hostCmd m o act s = .next s := by
  simp [hostCmd, hostWriteReg, h, ok]
theorem hostCmd_refused {m : BitVec 8} {o : Nat} {act : State → State} {s : State} (h : hostPasses s m.toNat o = true)
    (k : (regGate (homeOf m.toNat) m.toNat m.toNat true o s).1 ≠ 0) :
    hostCmd m o act s = .next (regGate (homeOf m.toNat) m.toNat m.toNat true o s).2 := by
  simp [hostCmd, hostWriteReg, h, k, ok]

/-! ### Links, slices and SPDM -/

/-- A command about the next flit of a class: it takes that flit, or does nothing (R433). -/
theorem takeFlit_takes {j cls : Nat} {p : Flit → Bool} {act : Flit → State → State} {s : State} {f : Flit}
    (h : (getLink s j).rxq.find? (fun f => f.cls.toNat == cls) = some f) (k : p f = true) :
    takeFlit j cls p act s = .next (act f (updLink j (fun l => { l with rxq := l.rxq.erase f }) s)) := by
  simp [takeFlit, h, k, ok]
theorem takeFlit_none {j cls : Nat} {p : Flit → Bool} {act : Flit → State → State} {s : State}
    (h : ∀ f, (getLink s j).rxq.find? (fun f => f.cls.toNat == cls) = some f → p f = false) :
    takeFlit j cls p act s = .next s := by
  unfold takeFlit
  split
  · rename_i f hf
    simp [h f hf, ok]
  · rfl
/-- The XP part of a word: it acts on the word that waits with its code, or nothing happens (R187). -/
theorem xpAct_acts {code : BitVec 4} {n : Nat} {g : XpWord → State → State} {s : State} {x : XpWord}
    (h : (getSeq s n).xp = some x) (k : x.xp = code) :
    xpAct code n g s = .next (g x (updSeq n (fun q => { q with xp := none }) s)) := by
  simp [xpAct, h, k, ok]
theorem xpAct_none {code : BitVec 4} {n : Nat} {g : XpWord → State → State} {s : State}
    (h : ∀ x, (getSeq s n).xp = some x → x.xp ≠ code) : xpAct code n g s = .next s := by
  unfold xpAct
  split
  · rename_i x hx
    simp [h x hx, ok]
  · rfl
/-- An SPDM request before its connection state is unexpected; without a responder nothing happens (R586). -/
theorem spdmReq_cases (t need : Nat) (act : State → State) (s : State) :
    spdmReq t need act s = .next (if spdmUp s t then (if tget 0 s.spdm t < need then reply t (.error 4) s else act s) else s) := by
  unfold spdmReq
  split
  · split <;> rfl
  · rfl

/-! ### Memory -/

theorem setErr_memOk (w : Nat) (e : BitVec 72) {s : State} (h : s.memOk) : (setErr w e s).memOk := h
/-- Reports leave memory in its form. -/
theorem Reports.memOk {s t : State} (h : Reports s t) (k : s.memOk) : t.memOk := by
  unfold State.memOk at *
  rw [h.mem]
  exact k
/-- What a stack reports of its reads is a report (R369). -/
theorem hbmNote_reports (ra m r : Nat) (s : State) : Reports s (hbmNote ra m r s) := by
  unfold hbmNote
  dsimp only
  split
  · rfl
  · split
    · rfl
    · exact Reports.trans (by rfl) (devLogM_reports ..)
/-- A write of a stack stores bytes and clears errors, counts what it reads, and keeps the canonical form (R368, R369). -/
theorem hbmWrite_memOk (ra m : Nat) (en : List Bool) (data : List Byte) {s : State} (h : s.memOk) :
    (hbmWrite ra m en data s).2.memOk := by
  unfold hbmWrite
  dsimp only
  generalize hr : burstErr s _ = r
  have k := (hbmNote_reports ra m r s).memOk h
  split
  · exact k
  · refine foldl_keeps (P := State.memOk) _ ?_ fun _ hx _ _ => ?_
    · exact k
    · split
      · exact setByte_memOk _ _ hx
      · exact hx

/-! ### The numbers the state keeps -/

/-- A decision of `State.Numbered`. -/
def State.numberedB (s : State) : Bool :=
  (s.jobs.all fun j => decide (j.ring < 8192) && j.eng.all fun e => decide (e < 16)) &&
  (s.heldCqe.all fun h => decide (h.job.ring < 8192)) && (s.evtHeld.all fun e => decide (e.1 < 64)) &&
  (s.parts.all fun p => decide (p.1 < 64) && decide (p.2.func < 64)) &&
  (s.partCmd.all fun c => decide (c.master < 64) && decide (c.part.func < 64)) && s.flrWait.all fun e => decide (e.1 < 64)
theorem numbered_of (s : State) (h : s.numberedB = true) : s.Numbered := by
  unfold State.numberedB at h
  simp only [Bool.and_eq_true, List.all_eq_true, Option.all_eq_true, decide_eq_true_eq] at h
  obtain ⟨⟨⟨⟨⟨h1, h2⟩, h3⟩, h4⟩, h5⟩, h6⟩ := h
  exact ⟨h1, h2, h3, h4, h5, h6⟩

end Sys2Proof.Machine
end

