-- ==== Sys2Proof/Tests/Slice0.lean ====
section
/-! SUPPORT. Tests: states that meet each statement's hypotheses, decoding from the spec's tables, well-formedness, and
single steps whose results are worked out from the rules. -/
namespace Sys2Proof.Tests
open Sys2Proof Sys2Proof.Machine Sys2Proof.Claims

/- The kernel evaluates these theorems one after another: side by side they need more threads than the check allows. -/
set_option Elab.async false

/-- The part after boot: every domain in Run, the endpoint ready and function 0 enabled. -/
def up : State := setFs ((fBOOT_STAT_STEP, 9) :: (fFUNC_STAT_ENABLED 0, 1) ::
  (List.range 41).map fun d => (fPWR_DOM_STATE d, 0)) State.reset
/-- The core of sequencer 5 runs the words `ws` from address 0; `g` sets what a test needs beside them. -/
def core (ws : List BWord) (g : Core → Core := id) (s : State := up) : State :=
  updCore 5 (fun c => g { c with
    state := .running, imem := (List.range ws.length).map fun i => (i, BitVec.ofNat 32 (encodeBelsar (ws.getD i (.long ⟨.brk, 0, 0, 0, 0, 0⟩)))) }) s
/-- A core with two registers set, at one long operation. -/
def at1 (o : BOp) (a : Word := 0) (b : Word := 0) : State := core [.long o] fun c => { c with shared := [(2, a), (3, b)] }
/-- A core at one pair. -/
def at2 (a b : BOp) (x : Word := 0) : State := core [.pair a b] fun c => { c with shared := [(2, x)] }
/-- An operation with rd 1, rs 2, rt 3. -/
def opr (o : Op) (imm : Nat := 0) : BOp := ⟨o, 1, 2, 3, imm, 0⟩
/-- One with an immediate and no rt. -/
def opi (o : Op) (imm : Nat := 0) (rd : Nat := 1) (rs : Nat := 2) : BOp := ⟨o, rd, rs, 0, imm, 0⟩
/-- A load and a store of one byte at the last address of the scratchpad. -/
def ldTop : State := setByte (spad 5 0x1FFFF) 0x9A (at1 (opi .ld8 0) 0x1FFFF)
def stTop : State := at1 (opi .st8 0x3FFF) 0x20000
/-- A core at a load of the window of the network, with r2 = a. -/
def far (o : Op) (a : Word) : State := at1 (opi o) a
/-- What a remote access of one byte from sequencer 5 answers. -/
def farAns (wr : Bool) (a : Nat) (d : List Byte) (s : State) : Resp × State := nocAccess 5 5 wr a [true] d s
/-- A cached line, and a load of its last byte. -/
def cached : State := updCore 5 (fun c => { c with cache := [(0, ⟨[(63, 0x5A)]⟩)] }) (far .ld8 0x8000003F)
/-- A pair's short operation with rd 1 and rs 2. -/
def sh (o : Op) (rd : Nat := 1) (rs : Nat := 2) : BOp := ⟨o, rd, rs, 0, 0, 0⟩
/-- A memory operation of a pair, at the last doubleword of the scratchpad. -/
def quad (o : Op) : State := at2 (sh o) (sh .shortNop 0 0) 0x1FFF8
/-- A repeat of `slls`-like work in the second slot, r2 = k times; and one of the next word. -/
def repAt (k : Word) : State := at2 (sh .rep 0 2) (sh .shortAdd 1 2) k
def repNext (k : Word) : State := core [.pair (sh .shortNop 0 0) (sh .rep 0 2), .pair (sh .mov) (sh .mov)] fun c => { c with shared := [(2, k)] }
/-- LOOP of level 2 over 4 words, r2 times. -/
def loopAt (k : Word) : State := at1 ⟨.loop, 2, 2, 0, 4, 0⟩ k
/-- A core at word 9, the last of the loops of levels 3 and 2, with k3 and k2 turns left. -/
def inLoops (k3 k2 : Word) : Core := setSr 11 k3 (setSr 10 k2 (setSr 7 9 (setSr 6 9 (setSr 3 5 (setSr 2 4 { Core.reset with pc := 9, state := .running })))))
/-- CALL and RETURN with a resident count and a depth. -/
def callAt (o : BOp) (res depth : Nat) : State := core [.long o] fun c => { c with res := res, depth := depth, cwp := 24 * depth % 504, window := [(16, 5), (24, 6), (40, 7)], ras := [(0, 33)] }
/-- The core with its micro-sequencer idle, issuing or trapped with a routine. -/
def arr (o : BOp) (st : MState) : State := updSeq 5 (fun q => { q with state := st, cur := some ⟨0, false, 0⟩ }) (at1 o)
/-- A trap kept for its entry. -/
def trapped : State := core [] fun c => setSr 0x13 3 (setSr 0x0C 5 { c with trap := some ⟨9, 0x3FFF, true, 3, 5, some 77, 0, some ⟨7, true⟩⟩ })
/-- An array trap kept for its entry. -/
def aStop : Stop := ⟨4, 10, 4, true, 100, false, 0, 0x123, 0, false, false, false, []⟩
def aTrapped : State := updSeq 5 (fun q => { q with atrap := some aStop }) (core [])
/-- Interrupt 16 pending and enabled. -/
def irq : State := core [] fun c => setSr 0x13 1 (setSr 0x14 (1 <<< 16) (setSr 0x15 (1 <<< 16) { c with slot := true }))
/-- ERET with bit 14 of TPC and PIE set. -/
def eretAt : State := core [.long ⟨.eret, 0, 0, 0, 0, 0⟩] fun c => setSr 0x13 6 (setSr 0x10 0x4123 c)

/-- States that meet the hypotheses of AluResults. -/
theorem meets_AluResults :
  AtLong (at1 (opr .add) 7 8) 5 (opr .add) :=
  ⟨by decide +kernel, by decide +kernel⟩
/-- States that meet the hypotheses of DivisionAndCountResults. -/
theorem meets_DivisionAndCountResults :
  AtLong (at1 (opr .div) (-7) 0) 5 (opr .div) :=
  ⟨by decide +kernel, by decide +kernel⟩
/-- States that meet the hypotheses of ImmediateResults. -/
theorem meets_ImmediateResults :
  AtLong (at1 (opi .addi 0x2000) 7) 5 (opi .addi 0x2000) :=
  ⟨by decide +kernel, by decide +kernel⟩
/-- States that meet the hypotheses of BranchesGoToTheirTargets. -/
theorem meets_BranchesGoToTheirTargets :
  AtLong (at1 ⟨.beq, 0, 2, 3, 0x3FFE, 0⟩ 7 7) 5 ⟨.beq, 0, 2, 3, 0x3FFE, 0⟩ ∧
  AtLong (at1 ⟨.jmp, 0, 0, 0, 0xFFFF, 0⟩) 5 ⟨.jmp, 0, 0, 0, 0xFFFF, 0⟩ ∧
  AtLong (at1 ⟨.jr, 0, 2, 0, 0, 0⟩ 0x3FFF) 5 ⟨.jr, 0, 2, 0, 0, 0⟩ :=
  ⟨⟨by decide +kernel, by decide +kernel⟩,
    ⟨by decide +kernel, by decide +kernel⟩,
    ⟨by decide +kernel, by decide +kernel⟩⟩
/-- States that meet the hypotheses of ScratchpadLoadsAndStores. -/
theorem meets_ScratchpadLoadsAndStores :
  (AtLong ldTop 5 (opi .ld8 0) ∧
    ea ldTop 5 (opi .ld8 0) < 0x20000 ∧
    ea ldTop 5 (opi .ld8 0) % 1 = 0 ∧
    tget 0 ldTop.memErr (spad 5 (ea ldTop 5 (opi .ld8 0)) / 8) = 0) ∧
  (AtLong stTop 5 (opi .st8 0x3FFF) ∧
    ea stTop 5 (opi .st8 0x3FFF) < 0x20000 ∧
    ea stTop 5 (opi .st8 0x3FFF) % 1 = 0 ∧
    tget 0 stTop.memErr (spad 5 (ea stTop 5 (opi .st8 0x3FFF)) / 8) = 0) :=
  ⟨⟨⟨by decide +kernel, by decide +kernel⟩, by decide +kernel, by decide +kernel, by decide +kernel⟩,
    ⟨⟨by decide +kernel, by decide +kernel⟩, by decide +kernel, by decide +kernel, by decide +kernel⟩⟩
/-- States that meet the hypotheses of RemoteLoadsAndStores. -/
theorem meets_RemoteLoadsAndStores :
  (AtLong (far .ld8 0x4000007) 5 (opi .ld8) ∧
    dataRegion (ea (far .ld8 0x4000007) 5 (opi .ld8)) = some 1 ∧
    ea (far .ld8 0x4000007) 5 (opi .ld8) % 1 = 0 ∧
    nocAccess 5 5 false 7 [true] [] (far .ld8 0x4000007) = (.done 0 [0] 0, (farAns false 7 [] (far .ld8 0x4000007)).2)) ∧
  (AtLong (far .st8 0x4000007) 5 (opi .st8) ∧
    dataRegion (ea (far .st8 0x4000007) 5 (opi .st8)) = some 1 ∧
    ea (far .st8 0x4000007) 5 (opi .st8) % 1 = 0 ∧
    nocAccess 5 5 true 7 [true] [0] (far .st8 0x4000007) = (.done 0 [] 0, (farAns true 7 [0] (far .st8 0x4000007)).2)) ∧
  (AtLong cached 5 (opi .ld8) ∧
    dataRegion (ea cached 5 (opi .ld8)) = some (2 + 0) ∧
    ea cached 5 (opi .ld8) % 1 = 0 ∧
    tlook (getCore cached 5).cache ((dataAddr cached 5 (ea cached 5 (opi .ld8)) - hbmVBase) / 64) = some ⟨[(63, 0x5A)]⟩) :=
  ⟨⟨⟨by decide +kernel, by decide +kernel⟩, by decide +kernel, by decide +kernel, by decide +kernel⟩,
    ⟨⟨by decide +kernel, by decide +kernel⟩, by decide +kernel, by decide +kernel, by decide +kernel⟩,
    ⟨⟨by decide +kernel, by decide +kernel⟩, by decide +kernel, by decide +kernel, by decide +kernel⟩⟩
/-- States that meet the hypotheses of DataAccessFaults. -/
theorem meets_DataAccessFaults :
  (AtLong (far .ld8 0x20000) 5 (opi .ld8) ∧
    (dataRegion (ea (far .ld8 0x20000) 5 (opi .ld8)) = none ∨ ea (far .ld8 0x20000) 5 (opi .ld8) % 1 ≠ 0)) ∧
  (AtLong (far .st64 0x1FFFC) 5 (opi .st64) ∧
    (dataRegion (ea (far .st64 0x1FFFC) 5 (opi .st64)) = none ∨ ea (far .st64 0x1FFFC) 5 (opi .st64) % 8 ≠ 0)) ∧
  AtLong (far .ild 16384) 5 (opi .ild) ∧
  AtLong (far .ild 0) 5 (opi .ild) ∧
  (coreReady (core [] fun c => { c with imem := [(0, 0x0000001D)] }) 5 = true ∧
    imemWord (core [] fun c => { c with imem := [(0, 0x0000001D)] }) 5 (getCore (core [] fun c => { c with imem := [(0, 0x0000001D)] }) 5).pc = none) ∧
  coreReady (core []) 5 = true :=
  ⟨⟨⟨by decide +kernel, by decide +kernel⟩, by decide +kernel⟩,
    ⟨⟨by decide +kernel, by decide +kernel⟩, by decide +kernel⟩,
    ⟨by decide +kernel, by decide +kernel⟩,
    ⟨by decide +kernel, by decide +kernel⟩,
    ⟨by decide +kernel, by decide +kernel⟩,
    by decide +kernel⟩
/-- States that meet the hypotheses of PairsRunInOrder. -/
theorem meets_PairsRunInOrder :
  AtPair (at2 (sh .mov) (sh .mov 3 1) 9) 5 (sh .mov) (sh .mov 3 1) ∧
  AtPair (at2 (sh .shortNop 0 0) (sh .shortNop 0 0)) 5 (sh .shortNop 0 0) (sh .shortNop 0 0) ∧
  AtPair (at2 (sh .shortNop 0 0) (sh .mov) 9) 5 (sh .shortNop 0 0) (sh .mov) :=
  ⟨⟨by decide +kernel, by decide +kernel, by decide +kernel⟩,
    ⟨by decide +kernel, by decide +kernel, by decide +kernel⟩,
    ⟨by decide +kernel, by decide +kernel, by decide +kernel⟩⟩
/-- States that meet the hypotheses of QuadAccessesAndPostIncrement. -/
theorem meets_QuadAccessesAndPostIncrement :
  (AtPair (quad .ldqp) 5 (sh .ldqp) (sh .shortNop 0 0) ∧
    (regOf (quad .ldqp) 5 2).toNat < 0x20000 ∧
    (regOf (quad .ldqp) 5 2).toNat % 8 = 0 ∧
    tget 0 (quad .ldqp).memErr (spad 5 (regOf (quad .ldqp) 5 2).toNat / 8) = 0) ∧
  (AtPair (quad .ldq) 5 (sh .ldq) (sh .shortNop 0 0) ∧
    (regOf (quad .ldq) 5 2).toNat < 0x20000 ∧
    (regOf (quad .ldq) 5 2).toNat % 8 = 0 ∧
    tget 0 (quad .ldq).memErr (spad 5 (regOf (quad .ldq) 5 2).toNat / 8) = 0) ∧
  (AtPair (quad .stq) 5 (sh .stq) (sh .shortNop 0 0) ∧
    (regOf (quad .stq) 5 2).toNat < 0x20000 ∧
    (regOf (quad .stq) 5 2).toNat % 8 = 0 ∧
    tget 0 (quad .stq).memErr (spad 5 (regOf (quad .stq) 5 2).toNat / 8) = 0) :=
  ⟨⟨⟨by decide +kernel, by decide +kernel, by decide +kernel⟩, by decide +kernel, by decide +kernel, by decide +kernel⟩,
    ⟨⟨by decide +kernel, by decide +kernel, by decide +kernel⟩, by decide +kernel, by decide +kernel, by decide +kernel⟩,
    ⟨⟨by decide +kernel, by decide +kernel, by decide +kernel⟩, by decide +kernel, by decide +kernel, by decide +kernel⟩⟩
theorem meets_QuadAccessesAndPostIncrement_2 :
  AtPair (quad .stqp) 5 (sh .stqp) (sh .shortNop 0 0) ∧
    (regOf (quad .stqp) 5 2).toNat < 0x20000 ∧
    (regOf (quad .stqp) 5 2).toNat % 8 = 0 ∧
    tget 0 (quad .stqp).memErr (spad 5 (regOf (quad .stqp) 5 2).toNat / 8) = 0 :=
  ⟨⟨by decide +kernel, by decide +kernel, by decide +kernel⟩, by decide +kernel, by decide +kernel, by decide +kernel⟩
/-- States that meet the hypotheses of RepeatsTurnTheirTarget. -/
theorem meets_RepeatsTurnTheirTarget :
  (AtPair (repAt 0x100000000) 5 (sh .rep 0 2) (sh .shortAdd 1 2) ∧
    getF (repAt 0x100000000) (fSEQ_CTL_HALT 5) = 0 ∧
    (getCore (repAt 0x100000000) 5).rep = none ∧
    (regOf (repAt 0x100000000) 5 2).toNat % 2 ^ 32 = 0) ∧
  (AtPair (repAt 2) 5 (sh .rep 0 2) (sh .shortAdd 1 2) ∧
    getF (repAt 2) (fSEQ_CTL_HALT 5) = 0 ∧
    (getCore (repAt 2) 5).rep = none ∧
    1 < (regOf (repAt 2) 5 2).toNat % 2 ^ 32) ∧
  (AtPair (repAt 1) 5 (sh .rep 0 2) (sh .shortAdd 1 2) ∧
    getF (repAt 1) (fSEQ_CTL_HALT 5) = 0 ∧
    (getCore (repAt 1) 5).rep = none ∧
    (regOf (repAt 1) 5 2).toNat % 2 ^ 32 = 1) :=
  ⟨⟨⟨by decide +kernel, by decide +kernel, by decide +kernel⟩, by decide +kernel, by decide +kernel, by decide +kernel⟩,
    ⟨⟨by decide +kernel, by decide +kernel, by decide +kernel⟩, by decide +kernel, by decide +kernel, by decide +kernel⟩,
    ⟨⟨by decide +kernel, by decide +kernel, by decide +kernel⟩, by decide +kernel, by decide +kernel, by decide +kernel⟩⟩
theorem meets_RepeatsTurnTheirTarget_2 :
  AtPair (repNext 1) 5 (sh .shortNop 0 0) (sh .rep 0 2) ∧
    getF (repNext 1) (fSEQ_CTL_HALT 5) = 0 ∧
    (getCore (repNext 1) 5).rep = none ∧
    noRepeatWord (imemWord (repNext 1) 5 (loopEnd (getCore (repNext 1) 5) 0).1) = false ∧
    0 < (regOf (repNext 1) 5 2).toNat % 2 ^ 32 :=
  ⟨⟨by decide +kernel, by decide +kernel, by decide +kernel⟩, by decide +kernel, by decide +kernel, by decide +kernel, by decide +kernel⟩
/-- States that meet the hypotheses of LoopsAndLoopEnds. -/
theorem meets_LoopsAndLoopEnds :
  AtLong (loopAt 0x100000000) 5 ⟨.loop, 2, 2, 0, 4, 0⟩ ∧
  AtLong (loopAt 1) 5 ⟨.loop, 2, 2, 0, 4, 0⟩ ∧
  ((inLoops 0 0).rep = none ∧ ∀ l < 4, ¬(getSr (inLoops 0 0) (8 + l) ≠ 0 ∧ (getSr (inLoops 0 0) (4 + l)).setWidth 14 = (inLoops 0 0).pc)) ∧
  ((inLoops 2 7).rep = none ∧ (∀ m < 4, 3 < m → ¬(getSr (inLoops 2 7) (8 + m) ≠ 0 ∧ (getSr (inLoops 2 7) (4 + m)).setWidth 14 = (inLoops 2 7).pc)) ∧
    (getSr (inLoops 2 7) (8 + 3) ≠ 0 ∧ (getSr (inLoops 2 7) (4 + 3)).setWidth 14 = (inLoops 2 7).pc) ∧
    getSr (inLoops 2 7) (8 + 3) ≠ 1) ∧
  ((inLoops 1 2).rep = none ∧ (getSr (inLoops 1 2) (8 + 3) ≠ 0 ∧ (getSr (inLoops 1 2) (4 + 3)).setWidth 14 = (inLoops 1 2).pc) ∧
    getSr (inLoops 1 2) 11 = 1 ∧
    (getSr (inLoops 1 2) (8 + 2) ≠ 0 ∧ (getSr (inLoops 1 2) (4 + 2)).setWidth 14 = (inLoops 1 2).pc) ∧
    getSr (inLoops 1 2) 10 ≠ 1) :=
  ⟨⟨by decide +kernel, by decide +kernel⟩,
    ⟨by decide +kernel, by decide +kernel⟩,
    ⟨by decide +kernel, by decide +kernel⟩,
    ⟨by decide +kernel, by decide +kernel, by decide +kernel, by decide +kernel⟩,
    ⟨by decide +kernel, by decide +kernel, by decide +kernel, by decide +kernel, by decide +kernel⟩⟩
/-- States that meet the hypotheses of CallsSlideTheWindow. -/
theorem meets_CallsSlideTheWindow :
  (AtLong (callAt ⟨.call, 0, 0, 0, 0xFFFF, 0x0F⟩ 30 7) 5 ⟨.call, 0, 0, 0, 0xFFFF, 0x0F⟩ ∧
    getF (callAt ⟨.call, 0, 0, 0, 0xFFFF, 0x0F⟩ 30 7) (fSEQ_CTL_HALT 5) = 0 ∧
    (getCore (callAt ⟨.call, 0, 0, 0, 0xFFFF, 0x0F⟩ 30 7) 5).depth < 0xFFFFFF ∧
    (getCore (callAt ⟨.call, 0, 0, 0, 0xFFFF, 0x0F⟩ 30 7) 5).res < 31) ∧
  (AtLong (callAt ⟨.call, 0, 0, 0, 0xFFFF, 0x0F⟩ 1 0xFFFFFF) 5 ⟨.call, 0, 0, 0, 0xFFFF, 0x0F⟩ ∧
    getF (callAt ⟨.call, 0, 0, 0, 0xFFFF, 0x0F⟩ 1 0xFFFFFF) (fSEQ_CTL_HALT 5) = 0 ∧
    (getCore (callAt ⟨.call, 0, 0, 0, 0xFFFF, 0x0F⟩ 1 0xFFFFFF) 5).depth = 0xFFFFFF) ∧
  (AtLong (callAt ⟨.returnOp, 0, 0, 0, 0, 0⟩ 2 1) 5 ⟨.returnOp, 0, 0, 0, 0, 0⟩ ∧
    getF (callAt ⟨.returnOp, 0, 0, 0, 0, 0⟩ 2 1) (fSEQ_CTL_HALT 5) = 0 ∧
    0 < (getCore (callAt ⟨.returnOp, 0, 0, 0, 0, 0⟩ 2 1) 5).depth ∧
    2 ≤ (getCore (callAt ⟨.returnOp, 0, 0, 0, 0, 0⟩ 2 1) 5).res ∧
    (getCore (callAt ⟨.returnOp, 0, 0, 0, 0, 0⟩ 2 1) 5).cwp < 504) :=
  ⟨⟨⟨by decide +kernel, by decide +kernel⟩, by decide +kernel, by decide +kernel, by decide +kernel⟩,
    ⟨⟨by decide +kernel, by decide +kernel⟩, by decide +kernel, by decide +kernel⟩,
    ⟨⟨by decide +kernel, by decide +kernel⟩, by decide +kernel, by decide +kernel, by decide +kernel, by decide +kernel⟩⟩
theorem meets_CallsSlideTheWindow_2 :
  AtLong (callAt ⟨.returnOp, 0, 0, 0, 0, 0⟩ 1 0) 5 ⟨.returnOp, 0, 0, 0, 0, 0⟩ ∧
    getF (callAt ⟨.returnOp, 0, 0, 0, 0, 0⟩ 1 0) (fSEQ_CTL_HALT 5) = 0 ∧
    (getCore (callAt ⟨.returnOp, 0, 0, 0, 0, 0⟩ 1 0) 5).depth = 0 :=
  ⟨⟨by decide +kernel, by decide +kernel⟩, by decide +kernel, by decide +kernel⟩
/-- States that meet the hypotheses of ArrayWordsOfTheCore. -/
theorem meets_ArrayWordsOfTheCore :
  (AtLong (at1 ⟨.acall, 0, 2, 0, 0x1001, 0⟩ 0x1234567812345678 0x9ABCDEF09ABCDEF0) 5 ⟨.acall, 0, 2, 0, 0x1001, 0⟩ ∧
    (getSeq (at1 ⟨.acall, 0, 2, 0, 0x1001, 0⟩ 0x1234567812345678 0x9ABCDEF09ABCDEF0) 5).queue.length < 16) ∧
  (AtLong (at1 ⟨.await, 0, 0, 0, 0, 0⟩) 5 ⟨.await, 0, 0, 0, 0, 0⟩ ∧
    outstanding (getSeq (at1 ⟨.await, 0, 0, 0, 0, 0⟩) 5) = false) ∧
  (AtLong (at1 ⟨.asnd, 1, 0, 0, 0, 0⟩) 5 ⟨.asnd, 1, 0, 0, 0, 0⟩ ∧
    outstanding (getSeq (at1 ⟨.asnd, 1, 0, 0, 0, 0⟩) 5) = false) ∧
  (AtLong (at1 ⟨.haltOp, 0, 0, 0, 0, 0⟩) 5 ⟨.haltOp, 0, 0, 0, 0, 0⟩ ∧
    outstanding (getSeq (at1 ⟨.haltOp, 0, 0, 0, 0, 0⟩) 5) = false) ∧
  (AtLong (arr ⟨.await, 0, 0, 0, 0, 0⟩ .issuing) 5 ⟨.await, 0, 0, 0, 0, 0⟩ ∧
    outstanding (getSeq (arr ⟨.await, 0, 0, 0, 0, 0⟩ .issuing) 5) = true ∧
    (getSeq (arr ⟨.await, 0, 0, 0, 0, 0⟩ .issuing) 5).state = .issuing ∧
    getF (arr ⟨.await, 0, 0, 0, 0, 0⟩ .issuing) (fSEQ_CTL_HALT 5) = 0) :=
  ⟨⟨⟨by decide +kernel, by decide +kernel⟩, by decide +kernel⟩,
    ⟨⟨by decide +kernel, by decide +kernel⟩, by decide +kernel⟩,
    ⟨⟨by decide +kernel, by decide +kernel⟩, by decide +kernel⟩,
    ⟨⟨by decide +kernel, by decide +kernel⟩, by decide +kernel⟩,
    ⟨⟨by decide +kernel, by decide +kernel⟩, by decide +kernel, by decide +kernel, by decide +kernel⟩⟩
theorem meets_ArrayWordsOfTheCore_2 :
  (AtLong (arr ⟨.await, 0, 0, 0, 0, 0⟩ .trapped) 5 ⟨.await, 0, 0, 0, 0, 0⟩ ∧
    outstanding (getSeq (arr ⟨.await, 0, 0, 0, 0, 0⟩ .trapped) 5) = true ∧
    (getSeq (arr ⟨.await, 0, 0, 0, 0, 0⟩ .trapped) 5).state = .trapped) ∧
  AtLong (at1 ⟨.brk, 0, 0, 0, 0, 0⟩) 5 ⟨.brk, 0, 0, 0, 0, 0⟩ :=
  ⟨⟨⟨by decide +kernel, by decide +kernel⟩, by decide +kernel, by decide +kernel⟩,
    ⟨by decide +kernel, by decide +kernel⟩⟩
/-- States that meet the hypotheses of SpecialRegistersAndPorts. -/
theorem meets_SpecialRegistersAndPorts :
  (AtLong (at1 ⟨.mtsr, 0, 2, 0, 0x15, 0⟩ 0xFFFFFFFFFFFFFFFF) 5 ⟨.mtsr, 0, 2, 0, 0x15, 0⟩ ∧
    srMask 0x15 = some ((srMask 0x15).getD 0)) ∧
  (AtLong (at1 ⟨.mfsr, 1, 0, 0, 0x10, 0⟩) 5 ⟨.mfsr, 1, 0, 0, 0x10, 0⟩ ∧
    srMask 0x10 ≠ none) ∧
  (AtLong (at1 ⟨.mfsr, 1, 0, 0, 0x18, 0⟩) 5 ⟨.mfsr, 1, 0, 0, 0x18, 0⟩ ∧
    (0x18 : Nat) = 0x18) ∧
  (AtLong (at1 ⟨.mtsr, 0, 2, 0, 0x18, 0⟩) 5 ⟨.mtsr, 0, 2, 0, 0x18, 0⟩ ∧
    srMask 0x18 = none) ∧
  (AtLong (at1 ⟨.mfsr, 1, 0, 0, 0x3F, 0⟩) 5 ⟨.mfsr, 1, 0, 0, 0x3F, 0⟩ ∧
    srMask 0x3F = none ∧
    (0x3F ≠ 0x18 ∧ 0x3F ≠ 0x28)) ∧
  (AtLong (at1 ⟨.inPort, 1, 2, 0, 0, 0⟩ 0x0202) 5 ⟨.inPort, 1, 2, 0, 0, 0⟩ ∧
    ea (at1 ⟨.inPort, 1, 2, 0, 0, 0⟩ 0x0202) 5 ⟨.inPort, 1, 2, 0, 0, 0⟩ = 0x0202) :=
  ⟨⟨⟨by decide +kernel, by decide +kernel⟩, by decide +kernel⟩,
    ⟨⟨by decide +kernel, by decide +kernel⟩, by decide +kernel⟩,
    ⟨⟨by decide +kernel, by decide +kernel⟩, by decide +kernel⟩,
    ⟨⟨by decide +kernel, by decide +kernel⟩, by decide +kernel⟩,
    ⟨⟨by decide +kernel, by decide +kernel⟩, by decide +kernel, by decide +kernel⟩,
    ⟨⟨by decide +kernel, by decide +kernel⟩, by decide +kernel⟩⟩
theorem meets_SpecialRegistersAndPorts_2 :
  (AtLong (at1 ⟨.inPort, 1, 2, 0, 0, 0⟩ 0x0243) 5 ⟨.inPort, 1, 2, 0, 0, 0⟩ ∧
    ea (at1 ⟨.inPort, 1, 2, 0, 0, 0⟩ 0x0243) 5 ⟨.inPort, 1, 2, 0, 0, 0⟩ = 0x0243) ∧
  (AtLong (at1 ⟨.inPort, 1, 2, 0, 0, 0⟩ 0x10000) 5 ⟨.inPort, 1, 2, 0, 0, 0⟩ ∧
    0x10000 ≤ ea (at1 ⟨.inPort, 1, 2, 0, 0, 0⟩ 0x10000) 5 ⟨.inPort, 1, 2, 0, 0, 0⟩) ∧
  (AtLong (at1 ⟨.outPort, 1, 2, 0, 0, 0⟩ 0x0243) 5 ⟨.outPort, 1, 2, 0, 0, 0⟩ ∧
    ea (at1 ⟨.outPort, 1, 2, 0, 0, 0⟩ 0x0243) 5 ⟨.outPort, 1, 2, 0, 0, 0⟩ = 0x0243) ∧
  (AtLong (at1 ⟨.outPort, 1, 2, 0, 0, 0⟩ 0x10000) 5 ⟨.outPort, 1, 2, 0, 0, 0⟩ ∧
    0x10000 ≤ ea (at1 ⟨.outPort, 1, 2, 0, 0, 0⟩ 0x10000) 5 ⟨.outPort, 1, 2, 0, 0, 0⟩) :=
  ⟨⟨⟨by decide +kernel, by decide +kernel⟩, by decide +kernel⟩,
    ⟨⟨by decide +kernel, by decide +kernel⟩, by decide +kernel⟩,
    ⟨⟨by decide +kernel, by decide +kernel⟩, by decide +kernel⟩,
    ⟨⟨by decide +kernel, by decide +kernel⟩, by decide +kernel⟩⟩
/-- States that meet the hypotheses of TrapAndInterruptEntry. -/
theorem meets_TrapAndInterruptEntry :
  ((getCore trapped 5).state ≠ .halted ∧
    (getCore trapped 5).mid = false ∧
    (getCore trapped 5).trap = some ⟨9, 0x3FFF, true, 3, 5, some 77, 0, some ⟨7, true⟩⟩ ∧
    (getSr (getCore trapped 5) 0x13).getLsbD 2 = false) ∧
  ((getCore aTrapped 5).state ≠ .halted ∧
    (getCore aTrapped 5).mid = false ∧
    (getCore aTrapped 5).trap = none ∧
    (getSeq aTrapped 5).atrap = some aStop ∧
    (getSr (getCore aTrapped 5) 0x13).getLsbD 2 = false) :=
  ⟨⟨by decide +kernel, by decide +kernel, by decide +kernel, by decide +kernel⟩,
    ⟨by decide +kernel, by decide +kernel, by decide +kernel, by decide +kernel, by decide +kernel⟩⟩
theorem meets_TrapAndInterruptEntry_2 :
  ((getCore irq 5).state ≠ .halted ∧
    (getCore irq 5).mid = false ∧
    (getCore irq 5).trap = none ∧
    arrayDue irq 5 = false ∧
    coreHeld irq 5 = false ∧
    irqDue (getCore irq 5) = some 16) ∧
  (AtLong eretAt 5 ⟨.eret, 0, 0, 0, 0, 0⟩ ∧
    getF eretAt (fSEQ_CTL_HALT 5) = 0 ∧
    (getSr (getCore eretAt 5) 0x0C).getLsbD 32 = false) :=
  ⟨⟨by decide +kernel, by decide +kernel, by decide +kernel, by decide +kernel, by decide +kernel, by decide +kernel⟩,
    ⟨⟨by decide +kernel, by decide +kernel⟩, by decide +kernel, by decide +kernel⟩⟩

/-- A microword from its SEQ code, target, IMM9 and the rest by bit position. -/
def mw (seq : Nat) (target : Nat := 0) (imm : Nat := 0) (rest : Nat := 0) : MicroWord :=
  BitVec.ofNat 128 (seq * 2 ^ 124 + target * 2 ^ 111 + imm * 2 ^ 13 + rest)
/-- Master 5 holds field 5 alone, and issues the word at address 100; `g` sets what a test needs beside it. -/
def mseq (w : MicroWord) (g : MSeq → MSeq := id) : State :=
  updSeq 5 (fun q => g { q with state := .issuing, upc := 100, cur := some ⟨7, false, 0⟩ })
    { up with parts := [(5, ⟨0, 0, 0⟩)], alm := [(almKey 5 100, w)] }
def p5 : Part := ⟨0, 0, 0⟩
/-- A yield and a trap whose pipeline has drained. -/
def stopped (st : Stop) : State := updSeq 5 (fun q => { q with state := .held, stop := some st, queue := [⟨50, 1, 2, 3, 4, 5, 6, 7, false⟩] }) (core [])
def yStop : Stop := { aStop with kind := 1, cause := 0, mcsrc := 0, sw := true }
/-- A Sounding and a Census of slot 64 in flight, and a report. -/
def tree : State := mseq (mw 0) fun q => { q with slot := 100, snds := [⟨64, 9, 7, some 1, false⟩], cens := [⟨64, 9, 7, some 0x4001, false⟩], reports := [⟨100, 3, 7, 5⟩] }
/-- A word broadcast to field 5: TT_S 0xCA, TT_K 0x96, FIN 2, FOUT 3, WSRC 0, WEN 2, rows 1, 4095 and 2. -/
def peW : PipeWord := ⟨64, 100, mw 0 0 0 (0xCA * 2 ^ 55 + 0x96 * 2 ^ 47 + 2 * 2 ^ 44 + 3 * 2 ^ 41 + 2 * 2 ^ 37), 1, 4095, 2, 0, false, 7⟩
def peS : State := updField 5 (fun x => { x with rows := [(1, 5), (2, 0xFF), (4095, 3)], flags := [(1, 6), (2, 0xF0)] }) (mseq (mw 0) fun q => { q with slot := 65, pipe := [peW] })
def dlv : State := mseq (mw 0) fun q => { q with flight := [⟨64, 66, [(5, 9)]⟩], done := 66 }
/-- Two halo requests outstanding at segment 9, on the north side of field 5. -/
def haloS : State := setF (fFAB_STAT_LOADING 2) 0 <| mseq (mw 0) fun q => { q with halo := [(9, 2)] }
/-- An executed word with XP code x whose row of A in field 5 has lane 3 set; `g` sets the transposer pointers. -/
def xpS (x : BitVec 4) (g : MSeq → MSeq := id) : State :=
  setFs [(fSCMD_OP 5, 1), (fSCMD_FMT 5, 3)] (mseq (mw 0) fun q => g { q with xp := some ⟨x, [(5, 8)], [(5, 4)], false, []⟩, lp := 0 })
def xw (x : BitVec 4) : XpWord := ⟨x, [(5, 8)], [(5, 4)], false, []⟩
/-- Slice 255 of field 5 with a word-time of ADD on its way, one to begin, and lanes 1 and 5 in dividers. -/
def wt1 (op : Nat) : WordTime := ⟨60, 4, op, 3, 0, false, false, false, [], []⟩
def divs : List DivJob := [⟨0, 1, 7, 0, false, 0, true, false, false⟩, ⟨0, 5, 8, 3, true, 0, true, true, false⟩]
def slS (op : Nat) (d : List DivJob) : State :=
  updField 5 (fun x => { x with wq := [wt1 op], slices := [(255, { Slice.reset with pipe := [[⟨0, true, false, some 5, 3⟩]], divq := d })] }) (mseq (mw 0))

/-- States that meet the hypotheses of MicrowordsIssue. -/
theorem meets_MicrowordsIssue :
  (Issues (mseq (mw 0 200 3)) 5 p5 (mw 0 200 3) ∧
    GoesOn (mseq (mw 0 200 3)) 5 (mw 0 200 3) ∧
    mwSeq (mw 0 200 3) = 0) ∧
  (Issues (mseq (mw 1 200 3)) 5 p5 (mw 1 200 3) ∧
    GoesOn (mseq (mw 1 200 3)) 5 (mw 1 200 3) ∧
    mwSeq (mw 1 200 3) = 1) ∧
  (Issues (mseq (mw 2 200 3) fun q => { q with stack := [1, 2, 3, 4] }) 5 p5 (mw 2 200 3) ∧
    GoesOn (mseq (mw 2 200 3) fun q => { q with stack := [1, 2, 3, 4] }) 5 (mw 2 200 3) ∧
    mwSeq (mw 2 200 3) = 2) ∧
  (Issues (mseq (mw 3 200 3) fun q => { q with stack := [9, 17] }) 5 p5 (mw 3 200 3) ∧
    GoesOn (mseq (mw 3 200 3) fun q => { q with stack := [9, 17] }) 5 (mw 3 200 3) ∧
    mwSeq (mw 3 200 3) = 3 ∧
    (getSeq (mseq (mw 3 200 3) fun q => { q with stack := [9, 17] }) 5).stack ≠ []) :=
  ⟨⟨⟨by decide +kernel, by decide +kernel, by decide +kernel, by decide +kernel, by decide +kernel, by decide +kernel⟩, ⟨by decide +kernel, by decide +kernel, by decide +kernel, by decide +kernel⟩, by decide +kernel⟩,
    ⟨⟨by decide +kernel, by decide +kernel, by decide +kernel, by decide +kernel, by decide +kernel, by decide +kernel⟩, ⟨by decide +kernel, by decide +kernel, by decide +kernel, by decide +kernel⟩, by decide +kernel⟩,
    ⟨⟨by decide +kernel, by decide +kernel, by decide +kernel, by decide +kernel, by decide +kernel, by decide +kernel⟩, ⟨by decide +kernel, by decide +kernel, by decide +kernel, by decide +kernel⟩, by decide +kernel⟩,
    ⟨⟨by decide +kernel, by decide +kernel, by decide +kernel, by decide +kernel, by decide +kernel, by decide +kernel⟩, ⟨by decide +kernel, by decide +kernel, by decide +kernel, by decide +kernel⟩, by decide +kernel, by decide +kernel⟩⟩
theorem meets_MicrowordsIssue_2 :
  (Issues (mseq (mw 4 200 3)) 5 p5 (mw 4 200 3) ∧
    GoesOn (mseq (mw 4 200 3)) 5 (mw 4 200 3) ∧
    mwSeq (mw 4 200 3) = 4) ∧
  (Issues (mseq (mw 5 200 3)) 5 p5 (mw 5 200 3) ∧
    GoesOn (mseq (mw 5 200 3)) 5 (mw 5 200 3) ∧
    mwSeq (mw 5 200 3) = 5) ∧
  (Issues (mseq (mw 6 200 3) fun q => { q with ptrs := { q.ptrs with c0 := 1, c1 := 0, c0Init := 6 } }) 5 p5 (mw 6 200 3) ∧
    GoesOn (mseq (mw 6 200 3) fun q => { q with ptrs := { q.ptrs with c0 := 1, c1 := 0, c0Init := 6 } }) 5 (mw 6 200 3) ∧
    mwSeq (mw 6 200 3) = 6) ∧
  (Issues (mseq (mw 7 200 3) fun q => { q with ptrs := { q.ptrs with c0 := 1, c1 := 0, c0Init := 6 } }) 5 p5 (mw 7 200 3) ∧
    GoesOn (mseq (mw 7 200 3) fun q => { q with ptrs := { q.ptrs with c0 := 1, c1 := 0, c0Init := 6 } }) 5 (mw 7 200 3) ∧
    mwSeq (mw 7 200 3) = 7) :=
  ⟨⟨⟨by decide +kernel, by decide +kernel, by decide +kernel, by decide +kernel, by decide +kernel, by decide +kernel⟩, ⟨by decide +kernel, by decide +kernel, by decide +kernel, by decide +kernel⟩, by decide +kernel⟩,
    ⟨⟨by decide +kernel, by decide +kernel, by decide +kernel, by decide +kernel, by decide +kernel, by decide +kernel⟩, ⟨by decide +kernel, by decide +kernel, by decide +kernel, by decide +kernel⟩, by decide +kernel⟩,
    ⟨⟨by decide +kernel, by decide +kernel, by decide +kernel, by decide +kernel, by decide +kernel, by decide +kernel⟩, ⟨by decide +kernel, by decide +kernel, by decide +kernel, by decide +kernel⟩, by decide +kernel⟩,
    ⟨⟨by decide +kernel, by decide +kernel, by decide +kernel, by decide +kernel, by decide +kernel, by decide +kernel⟩, ⟨by decide +kernel, by decide +kernel, by decide +kernel, by decide +kernel⟩, by decide +kernel⟩⟩
theorem meets_MicrowordsIssue_3 :
  (Issues (mseq (mw 8 200 3) fun q => { q with ptrs := { q.ptrs with dparam := 0xFFFF } }) 5 p5 (mw 8 200 3) ∧
    GoesOn (mseq (mw 8 200 3) fun q => { q with ptrs := { q.ptrs with dparam := 0xFFFF } }) 5 (mw 8 200 3) ∧
    mwSeq (mw 8 200 3) = 8) ∧
  (Issues (mseq (mw 10 200 3)) 5 p5 (mw 10 200 3) ∧
    GoesOn (mseq (mw 10 200 3)) 5 (mw 10 200 3) ∧
    mwSeq (mw 10 200 3) = 10) ∧
  (Issues (mseq (mw 11 200 0)) 5 p5 (mw 11 200 0) ∧
    GoesOn (mseq (mw 11 200 0)) 5 (mw 11 200 0) ∧
    mwSeq (mw 11 200 0) = 11) :=
  ⟨⟨⟨by decide +kernel, by decide +kernel, by decide +kernel, by decide +kernel, by decide +kernel, by decide +kernel⟩, ⟨by decide +kernel, by decide +kernel, by decide +kernel, by decide +kernel⟩, by decide +kernel⟩,
    ⟨⟨by decide +kernel, by decide +kernel, by decide +kernel, by decide +kernel, by decide +kernel, by decide +kernel⟩, ⟨by decide +kernel, by decide +kernel, by decide +kernel, by decide +kernel⟩, by decide +kernel⟩,
    ⟨⟨by decide +kernel, by decide +kernel, by decide +kernel, by decide +kernel, by decide +kernel, by decide +kernel⟩, ⟨by decide +kernel, by decide +kernel, by decide +kernel, by decide +kernel⟩, by decide +kernel⟩⟩
/-- States that meet the hypotheses of RoutinesBeginAndEnd. -/
theorem meets_RoutinesBeginAndEnd :
  (Issues (mseq (mw 9) fun q => { q with queue := [⟨50, 1, 2, 3, 4, 5, 6, 7, true⟩] }) 5 p5 (mw 9) ∧
    GoesOn (mseq (mw 9) fun q => { q with queue := [⟨50, 1, 2, 3, 4, 5, 6, 7, true⟩] }) 5 (mw 9) ∧
    mwSeq (mw 9) = 9 ∧
    (getSeq (mseq (mw 9) fun q => { q with queue := [⟨50, 1, 2, 3, 4, 5, 6, 7, true⟩] }) 5).queue = [⟨50, 1, 2, 3, 4, 5, 6, 7, true⟩]) ∧
  (Issues (mseq (mw 3)) 5 p5 (mw 3) ∧
    GoesOn (mseq (mw 3)) 5 (mw 3) ∧
    mwSeq (mw 3) = 3 ∧
    (getSeq (mseq (mw 3)) 5).stack = [] ∧
    (getSeq (mseq (mw 3)) 5).queue = []) ∧
  ((getSeq (updSeq 5 (fun q => { q with state := .idle, cur := none, queue := [⟨50, 1, 2, 3, 4, 5, 6, 7, true⟩] }) (mseq (mw 9))) 5).state = .idle ∧
    (getSeq (updSeq 5 (fun q => { q with state := .idle, cur := none, queue := [⟨50, 1, 2, 3, 4, 5, 6, 7, true⟩] }) (mseq (mw 9))) 5).stop = none ∧
    (getSeq (updSeq 5 (fun q => { q with state := .idle, cur := none, queue := [⟨50, 1, 2, 3, 4, 5, 6, 7, true⟩] }) (mseq (mw 9))) 5).queue = [⟨50, 1, 2, 3, 4, 5, 6, 7, true⟩]) :=
  ⟨⟨⟨by decide +kernel, by decide +kernel, by decide +kernel, by decide +kernel, by decide +kernel, by decide +kernel⟩, ⟨by decide +kernel, by decide +kernel, by decide +kernel, by decide +kernel⟩, by decide +kernel, by decide +kernel⟩,
    ⟨⟨by decide +kernel, by decide +kernel, by decide +kernel, by decide +kernel, by decide +kernel, by decide +kernel⟩, ⟨by decide +kernel, by decide +kernel, by decide +kernel, by decide +kernel⟩, by decide +kernel, by decide +kernel, by decide +kernel⟩,
    ⟨by decide +kernel, by decide +kernel, by decide +kernel⟩⟩
theorem meets_RoutinesBeginAndEnd_2 :
  (getSeq (updSeq 5 (fun q => { q with ended := [⟨7, false, 66⟩], done := 67 }) up) 5).ended = [⟨7, false, 66⟩] ∧
    66 < (getSeq (updSeq 5 (fun q => { q with ended := [⟨7, false, 66⟩], done := 67 }) up) 5).done ∧
    (∀ x ∈ (getSeq (updSeq 5 (fun q => { q with ended := [⟨7, false, 66⟩], done := 67 }) up) 5).snds ++ (getSeq (updSeq 5 (fun q => { q with ended := [⟨7, false, 66⟩], done := 67 }) up) 5).cens, x.arrived = true ∨ 66 < x.slot) :=
  ⟨by decide +kernel, by decide +kernel, by decide +kernel⟩
/-- States that meet the hypotheses of YieldsAndTrapsRecord. -/
theorem meets_YieldsAndTrapsRecord :
  ((getSeq (stopped yStop) 5).stop = some yStop ∧
    drained (getSeq (stopped yStop) 5) = true ∧
    yStop.cause = 0) ∧
  ((getSeq (stopped aStop) 5).stop = some aStop ∧
    drained (getSeq (stopped aStop) 5) = true ∧
    aStop.cause ≠ 0 ∧
    earlierDone (getSeq (stopped aStop) 5) aStop = true ∧
    (getCore (stopped aStop) 5).state ≠ .halted) :=
  ⟨⟨by decide +kernel, by decide +kernel, by decide +kernel⟩,
    ⟨by decide +kernel, by decide +kernel, by decide +kernel, by decide +kernel, by decide +kernel⟩⟩
/-- States that meet the hypotheses of SoundingsAndCensusesArrive. -/
theorem meets_SoundingsAndCensusesArrive :
  inFlight (getSeq tree 5).snds = some ⟨64, 9, 7, some 1, false⟩ ∧
  inFlight (getSeq tree 5).cens = some ⟨64, 9, 7, some 0x4001, false⟩ ∧
  (partAt tree 5 = some p5 ∧
    (getSeq tree 5).state = .issuing ∧
    (getSeq tree 5).stop = none ∧
    inFlight (getSeq tree 5).snds = some ⟨64, 9, 7, some 1, false⟩ ∧
    64 + lSnd p5 ≤ (getSeq tree 5).slot) ∧
  (partAt tree 5 = some p5 ∧
    (getSeq tree 5).state = .issuing ∧
    (getSeq tree 5).stop = none ∧
    inFlight (getSeq tree 5).cens = some ⟨64, 9, 7, some 0x4001, false⟩ ∧
    64 + 24 ≤ (getSeq tree 5).slot) :=
  ⟨by decide +kernel,
    by decide +kernel,
    ⟨by decide +kernel, by decide +kernel, by decide +kernel, by decide +kernel, by decide +kernel⟩,
    ⟨by decide +kernel, by decide +kernel, by decide +kernel, by decide +kernel, by decide +kernel⟩⟩
theorem meets_SoundingsAndCensusesArrive_2 :
  (getSeq tree 5).reports = [⟨100, 3, 7, 5⟩] ∧
    (getSeq tree 5).state = .issuing ∧
    (getSeq tree 5).stop = none ∧
    100 ≤ (getSeq tree 5).slot :=
  ⟨by decide +kernel, by decide +kernel, by decide +kernel, by decide +kernel⟩
/-- States that meet the hypotheses of PesExecuteTheWord. -/
theorem meets_PesExecuteTheWord :
  peReady (applyUpsets [⟨5, 0, 0, 1, 1⟩] peS) 5 = some (p5, peW) ∧
  (peReady peS 5 = some (p5, peW) ∧
    (getField peS 5).rowErr = [] ∧
    getF peS (fPEMEM_INJ_ARM 5) = 0 ∧
    mwNews peW.word = 0 ∧
    mwSnd peW.word = 0 ∧
    mwWsrc peW.word = 0 ∧
    peW.eaA.toNat < 4096 ∧
    peW.eaB.toNat < 4096 ∧
    peW.eaC.toNat < 4096 ∧
    mwWen peW.word ≠ 0) ∧
  nextDelivery (getSeq dlv 5) = some ⟨64, 66, [(5, 9)]⟩ :=
  ⟨by decide +kernel,
    ⟨by decide +kernel, by decide +kernel, by decide +kernel, by decide +kernel, by decide +kernel, by decide +kernel, by decide +kernel, by decide +kernel, by decide +kernel, by decide +kernel⟩,
    by decide +kernel⟩
theorem meets_PesExecuteTheWord_2 :
  haloS.parts.find? (fun e => (List.range 4).any fun d => (sideSegs e.1 e.2 d).contains (4 * (2 : Fin 8).val + (1 : Fin 4).val)) = some (5, p5) ∧
    segUsable haloS (4 * (2 : Fin 8).val + (1 : Fin 4).val) = true ∧
    tget 0 (getSeq haloS 5).halo (4 * (2 : Fin 8).val + (1 : Fin 4).val) ≠ 0 :=
  ⟨by decide +kernel, by decide +kernel, by decide +kernel⟩
/-- States that meet the hypotheses of TransposerWords. -/
theorem meets_TransposerWords :
  (getSeq (xpS 0) 5).xp = some (xw 0) ∧
  (getSeq (xpS 12) 5).xp = some (xw 12) ∧
  (getSeq (xpS 1) 5).xp = some (xw 1) ∧
  (getSeq (xpS 1 fun q => { q with fra := 64 }) 5).xp = some (xw 1) ∧
  (getSeq (xpS 2 fun q => { q with frb := 63 }) 5).xp = some (xw 2) ∧
  ((getSeq (xpS 3 fun q => { q with fra := 63, frb := 63 }) 5).xp = some (xw 3) ∧
    (getSeq (xpS 3 fun q => { q with fra := 63, frb := 63 }) 5).fra < 64 ∧
    (getSeq (xpS 3 fun q => { q with fra := 63, frb := 63 }) 5).frb < 64) ∧
  ((getSeq (xpS 4 fun q => { q with lp := 60 }) 5).xp = some (xw 4) ∧
    (getSeq (xpS 4 fun q => { q with lp := 60 }) 5).lp < 64) ∧
  (getSeq (xpS 5) 5).xp = some (xw 5) ∧
  (getSeq (xpS 6) 5).xp = some (xw 6) ∧
  (getSeq (xpS 7) 5).xp = some (xw 7) ∧
  (getSeq (xpS 8) 5).xp = some (xw 8) :=
  ⟨by decide +kernel,
    by decide +kernel,
    by decide +kernel,
    by decide +kernel,
    by decide +kernel,
    ⟨by decide +kernel, by decide +kernel, by decide +kernel⟩,
    ⟨by decide +kernel, by decide +kernel⟩,
    by decide +kernel,
    by decide +kernel,
    by decide +kernel,
    by decide +kernel⟩
theorem meets_TransposerWords_2 :
  (getSeq (xpS 10) 5).xp = some (xw 10) ∧
  ((getSeq (xpS 11) 5).xp = some (xw 11) ∧
    (∀ p, partAt (xpS 11) 5 = some p → p.wlog ≤ 3)) :=
  ⟨by decide +kernel,
    ⟨by decide +kernel, (by exact fun p h => by rw [← Option.some.inj ((show partAt (xpS 11) 5 = some p5 by decide +kernel).symm.trans h)]; decide)⟩⟩
/-- States that meet the hypotheses of CommitAndCompletion. -/
theorem meets_CommitAndCompletion :
  (getSeq (xpS 9) 5).xp = some (xw 9) ∧
  (getSlice (getField (slS 0 []) 5) 255).pipe = [[⟨0, true, false, some 5, 3⟩]] ∧
  (getSlice (getField (slS 0 divs) 5) 255).divq.find? (fun j => j.lane % 4 == (1 : Fin 4).val) = some ⟨0, 1, 7, 0, false, 0, true, false, false⟩ :=
  ⟨by decide +kernel,
    by decide +kernel,
    by decide +kernel⟩
/-- States that meet the hypotheses of SutorWordTimes. -/
theorem meets_SutorWordTimes :
  (nextWordTime (slS 1 []) 5 255 = some (wt1 1) ∧
    (getSlice (getField (slS 1 []) 5) 255).divq = [] ∧
    (∀ rs ∈ (getSlice (getField (slS 1 []) 5) 255).pipe, ∀ r ∈ rs, r.lane < (wt1 1).lane0 ∨ (wt1 1).lane0 + (wt1 1).k ≤ r.lane)) ∧
  nextWordTime (slS 0x12 divs) 5 255 = some (wt1 0x12) :=
  ⟨⟨by decide +kernel, by decide +kernel, by decide +kernel⟩,
    by decide +kernel⟩
/-- States that meet the hypotheses of FloatSpecialCases. -/
theorem meets_FloatSpecialCases :
  0 < 4 ∧
    0 < 4 ∧
    0 < 5 ∧
    1 ≤ 1 ∧
    (1 ≤ 7 ∨ 1 = 0x0B) ∧
    sutorOp 1 0 0 false 0 0x7FF0000000000001 0 0 = (some 0x7FF8000000000000, (sutorOp 1 0 0 false 0 0x7FF0000000000001 0 0).2) ∧
    (fpOf 0 0x7FF8000000000000).isNan = true :=
  ⟨by decide +kernel, by decide +kernel, by decide +kernel, by decide +kernel, by decide +kernel, by decide +kernel, by decide +kernel⟩
/-- States that meet the hypotheses of IntegerDivision. -/
theorem meets_IntegerDivision :
  (8 ∈ [8, 16, 32, 64] ∧
    intOf 8 true 0 = 0) ∧
  (8 ∈ [8, 16, 32, 64] ∧
    true = true ∧
    intOf 8 true 0x80 = -((2 ^ (8 - 1) : Nat) : Int) ∧
    intOf 8 true 0xFF = -1) ∧
  (64 ∈ [8, 16, 32, 64] ∧
    intOf 64 true 0xFFFFFFFFFFFFFFFF ≠ 0 ∧
    (¬(true = true ∧ intOf 64 true 0x8000000000000001 = -((2 ^ (64 - 1) : Nat) : Int) ∧ intOf 64 true 0xFFFFFFFFFFFFFFFF = -1))) :=
  ⟨⟨by decide +kernel, by decide +kernel⟩,
    ⟨by decide +kernel, by decide +kernel, by decide +kernel, by decide +kernel⟩,
    ⟨by decide +kernel, by decide +kernel, by decide +kernel⟩⟩

/-- The micro-sequencer of 5 in state st with a halted core; `g` sets what a test needs beside it. -/
def pre (st : MState) (g : MSeq → MSeq := id) : State := updSeq 5 (fun q => g { q with state := st }) { up with parts := [(5, p5)] }
/-- A preempted routine with its record. -/
def yielded : State := setFs [(fRESUME0_VALID 5, 1), (fRESUME0_DEPTH 5, 4), (fRESUME0_KIND 5, 1), (fRESUME0_UPC 5, 8191), (fRESUME1_C0 5, 9), (fRESUME2_P1 5, 7)] (pre .yielded)
/-- One entry queued, fifteen parked. -/
def queued : State := pre .trapped fun q => { q with queue := [⟨50, 1, 2, 3, 4, 5, 6, 7, false⟩], park := List.replicate 15 ⟨51, 1, 2, 3, 4, 5, 6, 7, true⟩ }
/-- The core of 5 runs in a partition of function 0. -/
def owned : State := { core [] with parts := [(5, p5)] }
def timed : State := setF (fTIMER_COMPARE 5) 3 { core [] fun c => { c with start := some 52 } with ticks := 4 * 52 }
/-- Survey of tile 1 has borrowed row 9 of field 5; and an Almanac line; and a staging line. -/
def bRow : Borrow := ⟨.peRow 5 9, 0x77, [], []⟩
def lent : State := setFs [(fSURVEY_YIELD_BORROWED 5, 1), (fSURVEY_YIELD_BROW 5, 9)] { mseq (mw 0 0 0 (9 * 2 ^ 95)) with borrow := [(4, bRow)] }
def lentRow : State := updSeq 5 (fun q => { q with state := .held }) lent
/-- Field 5 with one listed row, and a master that may lend it. -/
def up2 : State := updField 5 (fun x => { x with rows := [(9, 3)] }) (setF (fLEASE_MAP_FREE 5) (2 ^ 64 - 1) up)
/-- Survey of tile 3 has borrowed a line of its staging quarter. -/
def stgLent : State := { up with borrow := [(14, ⟨.stagingLine 0, 0, [1, 2, 3, 4, 5, 6, 7, 8], []⟩)] }

/-- States that meet the hypotheses of SequencerAndPreemptionCommands. -/
theorem meets_SequencerAndPreemptionCommands :
  (masterHalted (pre .issuing) 5 = true ∧
    HostPath (pre .issuing) 0x80 (0x1000 * (5 : Fin 64).val + 0x200) ∧
    (getSeq (pre .issuing) 5).state = .issuing) ∧
  (masterHalted (pre .idle) 5 = true ∧
    HostPath (pre .idle) 0x80 (0x1000 * (5 : Fin 64).val + 0x200) ∧
    (getSeq (pre .idle) 5).state = .idle ∧
    (getSeq (pre .idle) 5).stop = none) ∧
  (masterHalted yielded 5 = true ∧
    HostPath yielded 0x80 (0x1000 * (5 : Fin 64).val + 0x200) ∧
    Stopped yielded 5 ∧
    getF yielded (fRESUME0_VALID 5) = 1 ∧
    getF yielded (fRESUME0_DEPTH 5) ≤ 4 ∧
    getF yielded (fRESUME0_KIND 5) = 1 ∧
    getF yielded (fRESUME0_IN_HOLD 5) = 0) :=
  ⟨⟨by decide +kernel, ⟨by decide +kernel, by decide +kernel⟩, by decide +kernel⟩,
    ⟨by decide +kernel, ⟨by decide +kernel, by decide +kernel⟩, by decide +kernel, by decide +kernel⟩,
    ⟨by decide +kernel, ⟨by decide +kernel, by decide +kernel⟩, ⟨by decide +kernel, by decide +kernel⟩, by decide +kernel, by decide +kernel, by decide +kernel, by decide +kernel⟩⟩
theorem meets_SequencerAndPreemptionCommands_2 :
  (masterHalted yielded 5 = true ∧
    HostPath yielded 0x80 (0x1000 * (5 : Fin 64).val + 0x200) ∧
    Stopped yielded 5 ∧
    ((getSeq yielded 5).pendSw = false ∧ (getSeq yielded 5).pendRb = false ∧ (getSeq yielded 5).pendSp = false) ∧
    (getSeq yielded 5).queue = []) ∧
  (masterHalted queued 5 = true ∧
    HostPath queued 0x80 (0x1000 * (5 : Fin 64).val + 0x10) ∧
    Stopped queued 5 ∧
    ((getSeq queued 5).pendSw = false ∧ (getSeq queued 5).pendRb = false ∧ (getSeq queued 5).pendSp = false) ∧
    (getSeq queued 5).pend = false ∧
    (getSeq queued 5).park.length + (getSeq queued 5).queue.length ≤ 16) :=
  ⟨⟨by decide +kernel, ⟨by decide +kernel, by decide +kernel⟩, ⟨by decide +kernel, by decide +kernel⟩, by decide +kernel, by decide +kernel⟩,
    ⟨by decide +kernel, ⟨by decide +kernel, by decide +kernel⟩, ⟨by decide +kernel, by decide +kernel⟩, by decide +kernel, by decide +kernel, by decide +kernel⟩⟩
theorem meets_SequencerAndPreemptionCommands_3 :
  (masterHalted queued 5 = true ∧
    HostPath queued 0x80 (0x1000 * (5 : Fin 64).val + 0x10) ∧
    (getSeq queued 5).state ≠ .follower) ∧
  (HostPath owned 0x80 (0x1000 * (5 : Fin 64).val + 0) ∧
    (getSeq owned 5).state ≠ .follower ∧
    masterFunc (0x80 : BitVec 8).toNat ≠ none ∧
    (getCore owned 5).state ≠ .halted ∧
    (getCore owned 5).mid = false ∧
    coreHeld owned 5 = false) ∧
  (HostPath (core []) 0x80 (0x1000 * (5 : Fin 64).val + 0) ∧
    (getSeq (core []) 5).state ≠ .follower ∧
    (0x80 : BitVec 8) = 0x80) ∧
  (HostPath (pre .follower) 0x80 (0x1000 * (5 : Fin 64).val + 0) ∧
    (¬ (getSeq (pre .follower) 5).state ≠ .follower ∨ masterFunc (0x80 : BitVec 8).toNat = none)) ∧
  (HostPath (pre .follower) 0x80 (0x1000 * (5 : Fin 64).val + 0x28) ∧
    (¬ (getSeq (pre .follower) 5).state ≠ .follower ∨ (0x80 : BitVec 8) ≠ 0x61 ∧ (masterFunc (0x80 : BitVec 8).toNat = none ∨ ownerOf (pre .follower) 5 ≠ masterFunc (0x80 : BitVec 8).toNat))) ∧
  (HostPath queued 0x80 (0x1000 * (5 : Fin 64).val + 0x28) ∧
    (getSeq queued 5).state ≠ .follower ∧
    ((0x80 : BitVec 8) = 0x61 ∨ (masterFunc (0x80 : BitVec 8).toNat ≠ none ∧ ownerOf queued 5 = masterFunc (0x80 : BitVec 8).toNat))) ∧
  ((getCore owned 5).state ≠ .halted ∧
    ownerOf owned 5 = some 0) ∧
  ((getCore timed 5).state ≠ .halted ∧
    getF timed (fTIMER_COMPARE 5) ≠ 0 ∧
    cycleOf timed 5 = getF timed (fTIMER_COMPARE 5)) :=
  ⟨⟨by decide +kernel, ⟨by decide +kernel, by decide +kernel⟩, by decide +kernel⟩,
    ⟨⟨by decide +kernel, by decide +kernel⟩, by decide +kernel, by decide +kernel, by decide +kernel, by decide +kernel, by decide +kernel⟩,
    ⟨⟨by decide +kernel, by decide +kernel⟩, by decide +kernel, by decide +kernel⟩,
    ⟨⟨by decide +kernel, by decide +kernel⟩, by decide +kernel⟩,
    ⟨⟨by decide +kernel, by decide +kernel⟩, by decide +kernel⟩,
    ⟨⟨by decide +kernel, by decide +kernel⟩, by decide +kernel, by decide +kernel⟩,
    ⟨by decide +kernel, by decide +kernel⟩,
    ⟨by decide +kernel, by decide +kernel, by decide +kernel⟩⟩
theorem meets_SequencerAndPreemptionCommands_4 :
  HostPath haloS 0x80 (0x1000 * (5 : Fin 64).val + 0x270) ∧
  (HostPath up 0x80 (0x1000 * (5 : Fin 64).val + 0x300) ∧
    getF up (fSURVEY_YIELD_BORROWED 5) = 0) ∧
  HostPath up 0x80 (0x1000 * (5 : Fin 64).val + 0x338) :=
  ⟨⟨by decide +kernel, by decide +kernel⟩,
    ⟨⟨by decide +kernel, by decide +kernel⟩, by decide +kernel⟩,
    ⟨by decide +kernel, by decide +kernel⟩⟩
/-- States that meet the hypotheses of ArrayConfiguration. -/
theorem meets_ArrayConfiguration :
  (HostPath (pre .idle) 0x80 (0x1000 * (5 : Fin 64).val + 0x508) ∧
    ((getSeq (pre .idle) 5).state = .idle ∨ (getSeq (pre .idle) 5).state = .yielded ∨ (getSeq (pre .idle) 5).state = .trapped) ∧
    partAt (pre .idle) 5 ≠ none ∧
    getF (pre .idle) (fSLICE_SEL_ALL 5) = 1 ∧
    (0xFF04 : Word).toNat % 8 < 5) ∧
  (HostPath (pre .idle) 0x80 (0x1000 * (5 : Fin 64).val + 0x508) ∧
    5 ≤ (5 : Word).toNat % 8) ∧
  HostPath up 0x80 (0x1000 * (5 : Fin 64).val + 0x260) ∧
  HostPath (pre .issuing) 0x80 (0x1000 * (5 : Fin 64).val + 0x260) ∧
  HostPath (pre .idle) 0x80 (0x1000 * (5 : Fin 64).val + 0x260) ∧
  HostPath (pre .idle) 0x80 (0x1000 * (5 : Fin 64).val + 0x260) :=
  ⟨⟨⟨by decide +kernel, by decide +kernel⟩, by decide +kernel, by decide +kernel, by decide +kernel, by decide +kernel⟩,
    ⟨⟨by decide +kernel, by decide +kernel⟩, by decide +kernel⟩,
    ⟨by decide +kernel, by decide +kernel⟩,
    ⟨by decide +kernel, by decide +kernel⟩,
    ⟨by decide +kernel, by decide +kernel⟩,
    ⟨by decide +kernel, by decide +kernel⟩⟩
theorem meets_ArrayConfiguration_2 :
  hostPasses (setFs [(fRB_SEL_KIND 5, 10)] (pre .idle)) 0x80 (0x1000 * (5 : Fin 64).val + 0x20) = true ∧
    regGate 0xA8 0x80 0x80 false (0x1000 * (5 : Fin 64).val + 0x20) (setFs [(fRB_SEL_KIND 5, 10)] (pre .idle)) = (0, (setFs [(fRB_SEL_KIND 5, 10)] (pre .idle))) ∧
    routeFailsAt (setFs [(fRB_SEL_KIND 5, 10)] (pre .idle)) (serveNode (0x1000 * (5 : Fin 64).val + 0x20)) 0xA8 = none ∧
    masterHalted (setFs [(fRB_SEL_KIND 5, 10)] (pre .idle)) 5 = true ∧
    (getSeq (setFs [(fRB_SEL_KIND 5, 10)] (pre .idle)) 5).state ≠ .issuing ∧
    (getSeq (setFs [(fRB_SEL_KIND 5, 10)] (pre .idle)) 5).state ≠ .held ∧
    1 ≤ getF (setFs [(fRB_SEL_KIND 5, 10)] (pre .idle)) (fRB_SEL_KIND 5) ∧
    getF (setFs [(fRB_SEL_KIND 5, 10)] (pre .idle)) (fRB_SEL_KIND 5) ≤ 13 ∧
    8 ≤ getF (setFs [(fRB_SEL_KIND 5, 10)] (pre .idle)) (fRB_SEL_KIND 5) :=
  ⟨by decide +kernel, by decide +kernel, by decide +kernel, by decide +kernel, by decide +kernel, by decide +kernel, by decide +kernel, by decide +kernel, by decide +kernel⟩
/-- States that meet the hypotheses of SurveyBorrowsAndYields. -/
theorem meets_SurveyBorrowsAndYields :
  (regionTile (.peRow 5 9) = (1 : Fin 4).val ∧
    borrowed (mseq (mw 0)) (1 : Fin 4).val (regionKind (.peRow 5 9)) = none ∧
    mayBorrow (mseq (mw 0)) (.peRow 5 9) = false) ∧
  (tileOf (5 : Fin 64) = (1 : Fin 4).val ∧
    borrowed up2 (1 : Fin 4) 0 = none ∧
    mayBorrow up2 (.peRow 5 9) = true ∧
    (getField up2 5).rowErr = []) ∧
  (tileOf (5 : Fin 64) = (1 : Fin 4).val ∧
    borrowed up2 (1 : Fin 4) 1 = none ∧
    mayBorrow up2 (.almLine 5 511) = true) ∧
  (regionTile (.peRow 5 9) = (1 : Fin 4).val ∧
    borrowed lent (1 : Fin 4) (regionKind (.peRow 5 9)) = some bRow) :=
  ⟨⟨by decide +kernel, by decide +kernel, by decide +kernel⟩,
    ⟨by decide +kernel, by decide +kernel, by decide +kernel, by decide +kernel⟩,
    ⟨by decide +kernel, by decide +kernel, by decide +kernel⟩,
    ⟨by decide +kernel, by decide +kernel⟩⟩
theorem meets_SurveyBorrowsAndYields_2 :
  (partOf lentRow 5 = some (5, p5) ∧
    (getSeq lentRow 5).state = .held ∧
    (getSeq lentRow 5).stop = none ∧
    tlook lentRow.alm (almKey 5 (getSeq lentRow 5).upc.toNat) = some (mw 0 0 0 (9 * 2 ^ 95)) ∧
    tget 0 lentRow.almErr (almKey 5 (getSeq lentRow 5).upc.toNat) = 0 ∧
    issuing lentRow 5 = some p5 ∧
    getF lentRow (fSURVEY_YIELD_BORROWED 5) = 1 ∧
    getF lentRow (fSURVEY_YIELD_BROW 5) = (9 : Fin 4096) ∧
    (eaA (mw 0 0 0 (9 * 2 ^ 95)) (getSeq lentRow 5).ptrs).toNat = (9 : Fin 4096) ∧
    borrowed lentRow (tileOf 5) 0 = some bRow) ∧
  borrowed stgLent (3 : Fin 4) 2 = some ⟨.stagingLine 0, 0, [1, 2, 3, 4, 5, 6, 7, 8], []⟩ :=
  ⟨⟨by decide +kernel, by decide +kernel, by decide +kernel, by decide +kernel, by decide +kernel, by decide +kernel, by decide +kernel, by decide +kernel, by decide +kernel, by decide +kernel⟩,
    by decide +kernel⟩

/-- Rings 3 (submission, 16 entries) and 4 (its completion ring) of function 0, enabled. -/
def rings : State := setFs [(fRG_OWNER_ASSIGNED 0, 1), (fRG_OWNER_OWNER 0, 0), (fRING_CFG_LOG2SIZE 3, 4), (fRING_CFG_CQ 3, 4),
  (fRING_CFG_ENABLE 3, 1), (fRING_CFG_LOG2SIZE 4, 4), (fRING_CFG_KIND 4, 1), (fRING_CFG_ENABLE 4, 1), (fRING_PTR_PHASE 4, 1),
  (fRING_PTR_IN_FLIGHT 3, 1), (fRING_PTR_HEAD 3, 3)] up
/-- A descriptor of ring 3 with opcode op and its doublewords; `g` sets what a test needs beside them. -/
def job (op : Nat) (d : List Nat) (g : Job → Job := id) : Job :=
  g { id := 9, ring := 3, index := 2, func := 0, op := op, suppress := false, tag := 77, d := d, phase := .ready, eng := none,
      stage := 0, pos := 0, fail := none, data := [], reads := [], mute := false }
/-- Function 63 owns ring group 2 and rings 128 and 129 in it, its slots 0 and 1. -/
def vfRings : State := setFs [(fFUNC_STAT_ENABLED 63, 1), (fRG_OWNER_ASSIGNED 2, 1), (fRG_OWNER_OWNER 2, 63), (fRING_CFG_LOG2SIZE 128, 4),
  (fRING_CFG_CQ 128, 129), (fRING_CFG_ENABLE 128, 1), (fRING_CFG_LOG2SIZE 129, 4), (fRING_CFG_KIND 129, 1), (fRING_CFG_ENABLE 129, 1)] up
/-- It is the one descriptor in progress. -/
def desc (j : Job) (s : State := rings) : State := { s with jobs := [j] }
/-- A FENCE of ring 3 that runs. -/
def fenceJob : Job := job 8 [8, 0] fun j => { j with phase := .running }
/-- Function 0 owns field 5 and its image is loaded. -/
def ready5 : State := updSeq 5 (fun q => { q with state := .idle }) { rings with parts := [(5, p5)], imageOk := [(5, true)] }
/-- A removal of partition 5 is under way. -/
def removing5 : State := { ready5 with partCmd := some ⟨2, 5, p5, false⟩ }
/-- A fetch of one descriptor of ring 3. -/
def fetching : State := { rings with fetches := [⟨3, 15, 1, 4⟩] }
/-- A new RING_CFG of ring 3: LOG2SIZE w, KIND 0, completion ring 4, ENABLE 1. -/
def cfgNew (w : Nat) : Word := BitVec.ofNat 64 (w * 2 ^ (fRING_CFG_LOG2SIZE 3).lo + 4 * 2 ^ (fRING_CFG_CQ 3).lo + 2 ^ (fRING_CFG_ENABLE 3).lo)
/-- A DMA_IN of 64 bytes by engine 15 that has read 60. -/
def dmaJob (op : Nat) (g : Job → Job := id) : Job :=
  job op [op, 0x1000, 0x2000, 64] fun j => g { j with phase := .running, eng := some 15, pos := 60 }
/-- A word-port transfer whose lines have all moved. -/
def wpDone : State := updField 5 (fun x => { x with wp := some ⟨5, true, false, 8, 0, false, 2 ^ 17, []⟩ }) up
def wpLeft : State := (wpLines 5 2049 wpDone).2

/-- States that meet the hypotheses of MoveDescriptorsStart. -/
theorem meets_MoveDescriptorsStart :
  Ready (desc (job 2 [2, 0, 0, 2 ^ 31]) rings) 3 2 (job 2 [2, 0, 0, 2 ^ 31]) ∧
  Ready (desc (job 2 [2, 0, 0, 2 ^ 31 + 1]) rings) 3 2 (job 2 [2, 0, 0, 2 ^ 31 + 1]) ∧
  Ready (desc (job 3 [3, 0, 0, 64]) rings) 3 3 (job 3 [3, 0, 0, 64]) ∧
  Ready (desc (job 4 [4, 63, 0, 64]) rings) 3 4 (job 4 [4, 63, 0, 64]) ∧
  Ready (desc (job 4 [4, 64, 0, 64]) rings) 3 4 (job 4 [4, 64, 0, 64]) ∧
  Ready (desc (job 5 [5 + 5 * 2 ^ 16, 0, 8191, 1]) rings) 3 5 (job 5 [5 + 5 * 2 ^ 16, 0, 8191, 1]) ∧
  Ready (desc (job 5 [5 + 5 * 2 ^ 16, 0, 8191, 2]) rings) 3 5 (job 5 [5 + 5 * 2 ^ 16, 0, 8191, 2]) ∧
  Ready (desc (job 5 [5 + 5 * 2 ^ 16, 0, 8191, 1]) { queued with parts := [(5, p5)] }) 3 5 (job 5 [5 + 5 * 2 ^ 16, 0, 8191, 1]) ∧
  Ready (desc (job 6 [6 + 5 * 2 ^ 16, 0, 16383, 1]) rings) 3 6 (job 6 [6 + 5 * 2 ^ 16, 0, 16383, 1]) ∧
  Ready (desc (job 6 [6 + 5 * 2 ^ 16, 0, 16383, 1]) (core [])) 3 6 (job 6 [6 + 5 * 2 ^ 16, 0, 16383, 1]) ∧
  Ready (desc (job 0xB [0xB, 0, 2097151, 1]) rings) 3 0xB (job 0xB [0xB, 0, 2097151, 1]) ∧
  Ready (desc (job 0xB [0xB, 0, 2097151, 2]) rings) 3 0xB (job 0xB [0xB, 0, 2097151, 2]) ∧
  Ready (desc (job 7 [7, 0, 3 + 15 * 2 ^ 8 + 2 ^ 16, 16576]) rings) 3 7 (job 7 [7, 0, 3 + 15 * 2 ^ 8 + 2 ^ 16, 16576]) ∧
  Ready (desc (job 7 [7, 0, 3 + 15 * 2 ^ 8 + 2 * 2 ^ 16, 16576]) rings) 3 7 (job 7 [7, 0, 3 + 15 * 2 ^ 8 + 2 * 2 ^ 16, 16576]) :=
  ⟨⟨by decide +kernel, by decide +kernel, by decide +kernel, by decide +kernel⟩,
    ⟨by decide +kernel, by decide +kernel, by decide +kernel, by decide +kernel⟩,
    ⟨by decide +kernel, by decide +kernel, by decide +kernel, by decide +kernel⟩,
    ⟨by decide +kernel, by decide +kernel, by decide +kernel, by decide +kernel⟩,
    ⟨by decide +kernel, by decide +kernel, by decide +kernel, by decide +kernel⟩,
    ⟨by decide +kernel, by decide +kernel, by decide +kernel, by decide +kernel⟩,
    ⟨by decide +kernel, by decide +kernel, by decide +kernel, by decide +kernel⟩,
    ⟨by decide +kernel, by decide +kernel, by decide +kernel, by decide +kernel⟩,
    ⟨by decide +kernel, by decide +kernel, by decide +kernel, by decide +kernel⟩,
    ⟨by decide +kernel, by decide +kernel, by decide +kernel, by decide +kernel⟩,
    ⟨by decide +kernel, by decide +kernel, by decide +kernel, by decide +kernel⟩,
    ⟨by decide +kernel, by decide +kernel, by decide +kernel, by decide +kernel⟩,
    ⟨by decide +kernel, by decide +kernel, by decide +kernel, by decide +kernel⟩,
    ⟨by decide +kernel, by decide +kernel, by decide +kernel, by decide +kernel⟩⟩
theorem meets_MoveDescriptorsStart_2 :
  Ready (desc (job 7 [7, 0, 3 + 15 * 2 ^ 8 + 2 ^ 16, 16576]) (setF (fPWR_DOM_STATE 23) 1 rings)) 3 7 (job 7 [7, 0, 3 + 15 * 2 ^ 8 + 2 ^ 16, 16576]) :=
  ⟨by decide +kernel, by decide +kernel, by decide +kernel, by decide +kernel⟩
/-- States that meet the hypotheses of ControlDescriptors. -/
theorem meets_ControlDescriptors :
  Ready (desc (job 0 [0]) rings) 3 0 (job 0 [0]) ∧
  Ready (desc (job 8 [8, 3]) rings) 3 8 (job 8 [8, 3]) ∧
  Ready (desc (job 8 [8, 2]) rings) 3 8 (job 8 [8, 2]) ∧
  ((desc fenceJob).jobs.find? (fun j => j.ring == (3 : Fin 8192).val && j.op == 8 && j.phase == .running) = some fenceJob ∧
    fenceMet (desc fenceJob) fenceJob = true) ∧
  (Ready (desc (job 1 [1 + 5 * 2 ^ 16]) rings) 3 1 (job 1 [1 + 5 * 2 ^ 16]) ∧
    ¬ (partAt (desc (job 1 [1 + 5 * 2 ^ 16]) rings) (jTarget (job 1 [1 + 5 * 2 ^ 16])) ≠ none ∧ removing (desc (job 1 [1 + 5 * 2 ^ 16]) rings) (jTarget (job 1 [1 + 5 * 2 ^ 16])) = false)) ∧
  (Ready (desc (job 1 [1 + 5 * 2 ^ 16]) removing5) 3 1 (job 1 [1 + 5 * 2 ^ 16]) ∧
    ¬ (partAt (desc (job 1 [1 + 5 * 2 ^ 16]) removing5) (jTarget (job 1 [1 + 5 * 2 ^ 16])) ≠ none ∧ removing (desc (job 1 [1 + 5 * 2 ^ 16]) removing5) (jTarget (job 1 [1 + 5 * 2 ^ 16])) = false)) ∧
  (Ready (desc (job 1 [1 + 5 * 2 ^ 16]) (updCore 5 (fun c => { c with state := .running }) ready5)) 3 1 (job 1 [1 + 5 * 2 ^ 16]) ∧
    (partAt (desc (job 1 [1 + 5 * 2 ^ 16]) (updCore 5 (fun c => { c with state := .running }) ready5)) (jTarget (job 1 [1 + 5 * 2 ^ 16])) ≠ none ∧ removing (desc (job 1 [1 + 5 * 2 ^ 16]) (updCore 5 (fun c => { c with state := .running }) ready5)) (jTarget (job 1 [1 + 5 * 2 ^ 16])) = false) ∧
    (launchable (desc (job 1 [1 + 5 * 2 ^ 16]) (updCore 5 (fun c => { c with state := .running }) ready5)) (jTarget (job 1 [1 + 5 * 2 ^ 16])) = false ∨ launching (desc (job 1 [1 + 5 * 2 ^ 16]) (updCore 5 (fun c => { c with state := .running }) ready5)) (jTarget (job 1 [1 + 5 * 2 ^ 16])) = true)) :=
  ⟨⟨by decide +kernel, by decide +kernel, by decide +kernel, by decide +kernel⟩,
    ⟨by decide +kernel, by decide +kernel, by decide +kernel, by decide +kernel⟩,
    ⟨by decide +kernel, by decide +kernel, by decide +kernel, by decide +kernel⟩,
    ⟨by decide +kernel, by decide +kernel⟩,
    ⟨⟨by decide +kernel, by decide +kernel, by decide +kernel, by decide +kernel⟩, by decide +kernel⟩,
    ⟨⟨by decide +kernel, by decide +kernel, by decide +kernel, by decide +kernel⟩, by decide +kernel⟩,
    ⟨⟨by decide +kernel, by decide +kernel, by decide +kernel, by decide +kernel⟩, by decide +kernel, by decide +kernel⟩⟩
theorem meets_ControlDescriptors_2 :
  (Ready (desc (job 1 [1 + 5 * 2 ^ 16]) { ready5 with imageOk := [] }) 3 1 (job 1 [1 + 5 * 2 ^ 16]) ∧
    (partAt (desc (job 1 [1 + 5 * 2 ^ 16]) { ready5 with imageOk := [] }) (jTarget (job 1 [1 + 5 * 2 ^ 16])) ≠ none ∧ removing (desc (job 1 [1 + 5 * 2 ^ 16]) { ready5 with imageOk := [] }) (jTarget (job 1 [1 + 5 * 2 ^ 16])) = false) ∧
    launchable (desc (job 1 [1 + 5 * 2 ^ 16]) { ready5 with imageOk := [] }) (jTarget (job 1 [1 + 5 * 2 ^ 16])) = true ∧
    launching (desc (job 1 [1 + 5 * 2 ^ 16]) { ready5 with imageOk := [] }) (jTarget (job 1 [1 + 5 * 2 ^ 16])) = false ∧
    tget false (State.imageOk (desc (job 1 [1 + 5 * 2 ^ 16]) { ready5 with imageOk := [] })) (jTarget (job 1 [1 + 5 * 2 ^ 16])) = false) ∧
  (Ready (desc (job 1 [1 + 5 * 2 ^ 16]) ready5) 3 1 (job 1 [1 + 5 * 2 ^ 16]) ∧
    (partAt (desc (job 1 [1 + 5 * 2 ^ 16]) ready5) (jTarget (job 1 [1 + 5 * 2 ^ 16])) ≠ none ∧ removing (desc (job 1 [1 + 5 * 2 ^ 16]) ready5) (jTarget (job 1 [1 + 5 * 2 ^ 16])) = false) ∧
    launchable (desc (job 1 [1 + 5 * 2 ^ 16]) ready5) (jTarget (job 1 [1 + 5 * 2 ^ 16])) = true ∧
    launching (desc (job 1 [1 + 5 * 2 ^ 16]) ready5) (jTarget (job 1 [1 + 5 * 2 ^ 16])) = false ∧
    tget false (State.imageOk (desc (job 1 [1 + 5 * 2 ^ 16]) ready5)) (jTarget (job 1 [1 + 5 * 2 ^ 16])) = true ∧
    (∀ q ∈ partQuads (desc (job 1 [1 + 5 * 2 ^ 16]) ready5) (jTarget (job 1 [1 + 5 * 2 ^ 16])), domOpen (desc (job 1 [1 + 5 * 2 ^ 16]) ready5) q = true) ∧
    tidTaken (desc (job 1 [1 + 5 * 2 ^ 16]) ready5) 0xA8 0 = false ∧
    mayInject (desc (job 1 [1 + 5 * 2 ^ 16]) ready5) ⟨0xA8, jTarget (job 1 [1 + 5 * 2 ^ 16]), 0, .start (Job.id (job 1 [1 + 5 * 2 ^ 16]))⟩ = true ∧
    (activeRoute (desc (job 1 [1 + 5 * 2 ^ 16]) ready5) 0xA8 (jTarget (job 1 [1 + 5 * 2 ^ 16]))).testBit 34 = true) ∧
  (Ready (desc (job 9 [9, 63 + 2 ^ 8, 1000, 32, 1]) rings) 3 9 (job 9 [9, 63 + 2 ^ 8, 1000, 32, 1]) ∧
    watchCheck (desc (job 9 [9, 63 + 2 ^ 8, 1000, 32, 1]) rings) (job 9 [9, 63 + 2 ^ 8, 1000, 32, 1]) = 0) :=
  ⟨⟨⟨by decide +kernel, by decide +kernel, by decide +kernel, by decide +kernel⟩, by decide +kernel, by decide +kernel, by decide +kernel, by decide +kernel⟩,
    ⟨⟨by decide +kernel, by decide +kernel, by decide +kernel, by decide +kernel⟩, by decide +kernel, by decide +kernel, by decide +kernel, by decide +kernel, by decide +kernel, by decide +kernel, by decide +kernel, by decide +kernel⟩,
    ⟨⟨by decide +kernel, by decide +kernel, by decide +kernel, by decide +kernel⟩, by decide +kernel⟩⟩
theorem meets_ControlDescriptors_3 :
  (Ready (desc (job 9 [9, 71, 0, 0, 0]) rings) 3 9 (job 9 [9, 71, 0, 0, 0]) ∧
    watchCheck (desc (job 9 [9, 71, 0, 0, 0]) rings) (job 9 [9, 71, 0, 0, 0]) = 0) ∧
  (Ready (desc (job 9 [9, 72, 0, 0, 0]) rings) 3 9 (job 9 [9, 72, 0, 0, 0]) ∧
    watchCheck (desc (job 9 [9, 72, 0, 0, 0]) rings) (job 9 [9, 72, 0, 0, 0]) ≠ 0) ∧
  (Ready (desc (job 0xA [0xA, 40]) rings) 3 0xA (job 0xA [0xA, 40]) ∧
    dBits (job 0xA [0xA, 40]) 1 0 6 ≤ 40 ∧
    dBits (job 0xA [0xA, 40]) 1 8 3 = 0) ∧
  (Ready (desc (job 0xA [0xA, 40 + 5 * 2 ^ 8]) rings) 3 0xA (job 0xA [0xA, 40 + 5 * 2 ^ 8]) ∧
    5 ≤ dBits (job 0xA [0xA, 40 + 5 * 2 ^ 8]) 1 8 3) ∧
  Ready (desc (job 0xE [0xE, 7, 0]) rings) 3 0xE (job 0xE [0xE, 7, 0]) ∧
  Ready (desc (job 0xE [0xE, 8, 0]) rings) 3 0xE (job 0xE [0xE, 8, 0]) :=
  ⟨⟨⟨by decide +kernel, by decide +kernel, by decide +kernel, by decide +kernel⟩, by decide +kernel⟩,
    ⟨⟨by decide +kernel, by decide +kernel, by decide +kernel, by decide +kernel⟩, by decide +kernel⟩,
    ⟨⟨by decide +kernel, by decide +kernel, by decide +kernel, by decide +kernel⟩, by decide +kernel, by decide +kernel⟩,
    ⟨⟨by decide +kernel, by decide +kernel, by decide +kernel, by decide +kernel⟩, by decide +kernel⟩,
    ⟨by decide +kernel, by decide +kernel, by decide +kernel, by decide +kernel⟩,
    ⟨by decide +kernel, by decide +kernel, by decide +kernel, by decide +kernel⟩⟩
theorem meets_ControlDescriptors_4 :
  (Ready (desc (job 0xC [0xC + 5 * 2 ^ 16, 16]) rings) 3 0xC (job 0xC [0xC + 5 * 2 ^ 16, 16]) ∧
    getF (desc (job 0xC [0xC + 5 * 2 ^ 16, 16]) rings) (fSPARE_MAP_ACTIVE (jTarget (job 0xC [0xC + 5 * 2 ^ 16, 16]))) = 0 ∧
    getF (desc (job 0xC [0xC + 5 * 2 ^ 16, 16]) rings) (fSPARE_MAP_SPARE_BAD (jTarget (job 0xC [0xC + 5 * 2 ^ 16, 16]))) = 0 ∧
    (∀ k ∈ (State.jobs (desc (job 0xC [0xC + 5 * 2 ^ 16, 16]) rings)), ¬(k.op = 0xC ∧ k.phase = .running ∧ jTarget k = jTarget (job 0xC [0xC + 5 * 2 ^ 16, 16])))) ∧
  (Ready (desc (job 0xC [0xC + 5 * 2 ^ 16, 16]) (setF (fPWR_DOM_STATE (quadDom 5)) 1 rings)) 3 0xC (job 0xC [0xC + 5 * 2 ^ 16, 16]) ∧
    getF (desc (job 0xC [0xC + 5 * 2 ^ 16, 16]) (setF (fPWR_DOM_STATE (quadDom 5)) 1 rings)) (fSPARE_MAP_ACTIVE (jTarget (job 0xC [0xC + 5 * 2 ^ 16, 16]))) = 0 ∧
    getF (desc (job 0xC [0xC + 5 * 2 ^ 16, 16]) (setF (fPWR_DOM_STATE (quadDom 5)) 1 rings)) (fSPARE_MAP_SPARE_BAD (jTarget (job 0xC [0xC + 5 * 2 ^ 16, 16]))) = 0 ∧
    (∀ k ∈ (State.jobs (desc (job 0xC [0xC + 5 * 2 ^ 16, 16]) (setF (fPWR_DOM_STATE (quadDom 5)) 1 rings))), ¬(k.op = 0xC ∧ k.phase = .running ∧ jTarget k = jTarget (job 0xC [0xC + 5 * 2 ^ 16, 16])))) ∧
  (Ready (desc (job 0xD [0xD + 5 * 2 ^ 16, 0, 1, 2 ^ 24, 1]) rings) 3 0xD (job 0xD [0xD + 5 * 2 ^ 16, 0, 1, 2 ^ 24, 1]) ∧
    partAt (desc (job 0xD [0xD + 5 * 2 ^ 16, 0, 1, 2 ^ 24, 1]) rings) (jTarget (job 0xD [0xD + 5 * 2 ^ 16, 0, 1, 2 ^ 24, 1])) = none) ∧
  (Ready (desc (job 0xD [0xD + 5 * 2 ^ 16, 0, 1, 8523776, 2 ^ 8]) ready5) 3 0xD (job 0xD [0xD + 5 * 2 ^ 16, 0, 1, 8523776, 2 ^ 8]) ∧
    partAt (desc (job 0xD [0xD + 5 * 2 ^ 16, 0, 1, 8523776, 2 ^ 8]) ready5) (jTarget (job 0xD [0xD + 5 * 2 ^ 16, 0, 1, 8523776, 2 ^ 8])) = some p5 ∧
    rbMask (job 0xD [0xD + 5 * 2 ^ 16, 0, 1, 8523776, 2 ^ 8]) < 2 ^ (2 ^ (p5.wlog + p5.hlog)) ∧
    snapSize (rbMask (job 0xD [0xD + 5 * 2 ^ 16, 0, 1, 8523776, 2 ^ 8])) (rbSel (job 0xD [0xD + 5 * 2 ^ 16, 0, 1, 8523776, 2 ^ 8])) ≤ dBits (job 0xD [0xD + 5 * 2 ^ 16, 0, 1, 8523776, 2 ^ 8]) 3 0 32) :=
  ⟨⟨⟨by decide +kernel, by decide +kernel, by decide +kernel, by decide +kernel⟩, by decide +kernel, by decide +kernel, by decide +kernel⟩,
    ⟨⟨by decide +kernel, by decide +kernel, by decide +kernel, by decide +kernel⟩, by decide +kernel, by decide +kernel, by decide +kernel⟩,
    ⟨⟨by decide +kernel, by decide +kernel, by decide +kernel, by decide +kernel⟩, by decide +kernel⟩,
    ⟨⟨by decide +kernel, by decide +kernel, by decide +kernel, by decide +kernel⟩, by decide +kernel, by decide +kernel, by decide +kernel⟩⟩
/-- States that meet the hypotheses of CompletionEntries. -/
theorem meets_CompletionEntries :
  (findJob (desc (job 0 [0]) (setF (fRING_PTR_TAIL 4) 15 (setF (fRING_PTR_HEAD 4) 3 rings))) 9 = some (job 0 [0]) ∧
    ((job 0 [0]).eng = none ∧ (job 0 [0]).mute = false ∧ (job 0 [0]).suppress = false) ∧
    (∀ k ∈ (State.jobs (desc (job 0 [0]) (setF (fRING_PTR_TAIL 4) 15 (setF (fRING_PTR_HEAD 4) 3 rings)))), k.id ≠ 9 → wantsEngine k = false) ∧
    cqeBlocked (desc (job 0 [0]) (setF (fRING_PTR_TAIL 4) 15 (setF (fRING_PTR_HEAD 4) 3 rings))) (getF (desc (job 0 [0]) (setF (fRING_PTR_TAIL 4) 15 (setF (fRING_PTR_HEAD 4) 3 rings))) (fRING_CFG_CQ 3)) = false ∧
    getF (desc (job 0 [0]) (setF (fRING_PTR_TAIL 4) 15 (setF (fRING_PTR_HEAD 4) 3 rings))) (fRING_CFG_IRQ_EN (getF (desc (job 0 [0]) (setF (fRING_PTR_TAIL 4) 15 (setF (fRING_PTR_HEAD 4) 3 rings))) (fRING_CFG_CQ 3))) = 0 ∧
    getF (desc (job 0 [0]) (setF (fRING_PTR_TAIL 4) 15 (setF (fRING_PTR_HEAD 4) 3 rings))) (fRING_CFG_CQ 3) ≠ 3 ∧
    getF (desc (job 0 [0]) (setF (fRING_PTR_TAIL 4) 15 (setF (fRING_PTR_HEAD 4) 3 rings))) (fRING_PTR_TAIL 4) % 16 + 1 = 2 ^ getF (desc (job 0 [0]) (setF (fRING_PTR_TAIL 4) 15 (setF (fRING_PTR_HEAD 4) 3 rings))) (fRING_CFG_LOG2SIZE 4)) ∧
  (findJob (desc (job 0 [0]) (setF (fRING_PTR_TAIL 4) 15 (setF (fRING_PTR_HEAD 4) 0 rings))) 9 = some (job 0 [0]) ∧
    ((job 0 [0]).eng = none ∧ (job 0 [0]).mute = false ∧ (job 0 [0]).suppress = false) ∧
    (∀ k ∈ (State.jobs (desc (job 0 [0]) (setF (fRING_PTR_TAIL 4) 15 (setF (fRING_PTR_HEAD 4) 0 rings)))), k.id ≠ 9 → wantsEngine k = false) ∧
    ringFull (desc (job 0 [0]) (setF (fRING_PTR_TAIL 4) 15 (setF (fRING_PTR_HEAD 4) 0 rings))) (getF (desc (job 0 [0]) (setF (fRING_PTR_TAIL 4) 15 (setF (fRING_PTR_HEAD 4) 0 rings))) (fRING_CFG_CQ 3)) = true) :=
  ⟨⟨by decide +kernel, by decide +kernel, by decide +kernel, by decide +kernel, by decide +kernel, by decide +kernel, by decide +kernel⟩,
    ⟨by decide +kernel, by decide +kernel, by decide +kernel, by decide +kernel⟩⟩
/-- States that meet the hypotheses of DoorbellsAndFetches. -/
theorem meets_DoorbellsAndFetches :
  (doorbellReaches rings (0 : Fin 64) 3 = true ∧
    (15 : BitVec 32).toNat < 2 ^ 16 ∧
    (if (0 : Fin 64).val = 0 then (3 : Fin 8192).val = 3 else (3 : Fin 8192).val < 1024 ∧ 3 % 64 = (3 : Fin 8192).val % 64 ∧ (groupsOf rings (0 : Fin 64))[(3 : Fin 8192).val / 64]? = some (3 / 64)) ∧
    getF rings (fRING_CFG_ENABLE 3) = 1 ∧
    getF rings (fRING_CFG_KIND 3) = 0 ∧
    (15 : BitVec 32).toNat < ringSize rings 3) ∧
  (doorbellReaches rings (0 : Fin 64) 3 = true ∧
    (0 : BitVec 32).toNat < 2 ^ 16 ∧
    (if (0 : Fin 64).val = 0 then (3 : Fin 8192).val = 3 else (3 : Fin 8192).val < 1024 ∧ 3 % 64 = (3 : Fin 8192).val % 64 ∧ (groupsOf rings (0 : Fin 64))[(3 : Fin 8192).val / 64]? = some (3 / 64)) ∧
    getF rings (fRING_CFG_ENABLE 3) = 1 ∧
    getF rings (fRING_CFG_KIND 3) = 0 ∧
    (0 : BitVec 32).toNat < ringSize rings 3) ∧
  (doorbellReaches vfRings (63 : Fin 64) 128 = true ∧
    (15 : BitVec 32).toNat < 2 ^ 16 ∧
    (if (63 : Fin 64).val = 0 then (0 : Fin 8192).val = 128 else (0 : Fin 8192).val < 1024 ∧ 128 % 64 = (0 : Fin 8192).val % 64 ∧ (groupsOf vfRings (63 : Fin 64))[(0 : Fin 8192).val / 64]? = some (128 / 64)) ∧
    getF vfRings (fRING_CFG_ENABLE 128) = 1 ∧
    getF vfRings (fRING_CFG_KIND 128) = 0 ∧
    (15 : BitVec 32).toNat < ringSize vfRings 128) :=
  ⟨⟨by decide +kernel, by decide +kernel, by decide +kernel, by decide +kernel, by decide +kernel, by decide +kernel⟩,
    ⟨by decide +kernel, by decide +kernel, by decide +kernel, by decide +kernel, by decide +kernel, by decide +kernel⟩,
    ⟨by decide +kernel, by decide +kernel, by decide +kernel, by decide +kernel, by decide +kernel, by decide +kernel⟩⟩
theorem meets_DoorbellsAndFetches_2 :
  (doorbellReaches (setFs [(fRING_CFG_BIND_EN 3, 1), (fRING_CFG_BIND_SEQ 3, 5)] rings) (0 : Fin 64) 3 = true ∧
    (15 : BitVec 32).toNat < 2 ^ 16 ∧
    (if (0 : Fin 64).val = 0 then (3 : Fin 8192).val = 3 else (3 : Fin 8192).val < 1024 ∧ 3 % 64 = (3 : Fin 8192).val % 64 ∧ (groupsOf (setFs [(fRING_CFG_BIND_EN 3, 1), (fRING_CFG_BIND_SEQ 3, 5)] rings) (0 : Fin 64))[(3 : Fin 8192).val / 64]? = some (3 / 64)) ∧
    getF (setFs [(fRING_CFG_BIND_EN 3, 1), (fRING_CFG_BIND_SEQ 3, 5)] rings) (fRING_CFG_ENABLE 3) = 1 ∧
    getF (setFs [(fRING_CFG_BIND_EN 3, 1), (fRING_CFG_BIND_SEQ 3, 5)] rings) (fRING_CFG_KIND 3) = 0 ∧
    (15 : BitVec 32).toNat < ringSize (setFs [(fRING_CFG_BIND_EN 3, 1), (fRING_CFG_BIND_SEQ 3, 5)] rings) 3) ∧
  (doorbellReaches (setFs [(fRING_PTR_TAIL 4, 2), (fRING_PTR_HEAD 4, 15)] rings) (0 : Fin 64) 4 = true ∧
    (2 : BitVec 32).toNat < 2 ^ 16 ∧
    (if (0 : Fin 64).val = 0 then (4 : Fin 8192).val = 4 else (4 : Fin 8192).val < 1024 ∧ 4 % 64 = (4 : Fin 8192).val % 64 ∧ (groupsOf (setFs [(fRING_PTR_TAIL 4, 2), (fRING_PTR_HEAD 4, 15)] rings) (0 : Fin 64))[(4 : Fin 8192).val / 64]? = some (4 / 64)) ∧
    getF (setFs [(fRING_PTR_TAIL 4, 2), (fRING_PTR_HEAD 4, 15)] rings) (fRING_CFG_ENABLE 4) = 1 ∧
    getF (setFs [(fRING_PTR_TAIL 4, 2), (fRING_PTR_HEAD 4, 15)] rings) (fRING_CFG_KIND 4) ≠ 0 ∧
    (2 : BitVec 32).toNat < ringSize (setFs [(fRING_PTR_TAIL 4, 2), (fRING_PTR_HEAD 4, 15)] rings) 4 ∧
    (getF (setFs [(fRING_PTR_TAIL 4, 2), (fRING_PTR_HEAD 4, 15)] rings) (fRING_PTR_TAIL 4) + ringSize (setFs [(fRING_PTR_TAIL 4, 2), (fRING_PTR_HEAD 4, 15)] rings) 4 - (2 : BitVec 32).toNat) % ringSize (setFs [(fRING_PTR_TAIL 4, 2), (fRING_PTR_HEAD 4, 15)] rings) 4 ≤ (getF (setFs [(fRING_PTR_TAIL 4, 2), (fRING_PTR_HEAD 4, 15)] rings) (fRING_PTR_TAIL 4) + ringSize (setFs [(fRING_PTR_TAIL 4, 2), (fRING_PTR_HEAD 4, 15)] rings) 4 - getF (setFs [(fRING_PTR_TAIL 4, 2), (fRING_PTR_HEAD 4, 15)] rings) (fRING_PTR_HEAD 4)) % ringSize (setFs [(fRING_PTR_TAIL 4, 2), (fRING_PTR_HEAD 4, 15)] rings) 4 ∧
    (State.heldCqe (setFs [(fRING_PTR_TAIL 4, 2), (fRING_PTR_HEAD 4, 15)] rings)) = [] ∧
    tget 0 (State.evtLost (setFs [(fRING_PTR_TAIL 4, 2), (fRING_PTR_HEAD 4, 15)] rings)) 4 = 0) :=
  ⟨⟨by decide +kernel, by decide +kernel, by decide +kernel, by decide +kernel, by decide +kernel, by decide +kernel⟩,
    ⟨by decide +kernel, by decide +kernel, by decide +kernel, by decide +kernel, by decide +kernel, by decide +kernel, by decide +kernel, by decide +kernel, by decide +kernel⟩⟩
theorem meets_DoorbellsAndFetches_3 :
  (doorbellReaches rings (0 : Fin 64) 3 = true ∧
    (16 : BitVec 32).toNat < 2 ^ 16 ∧
    (if (0 : Fin 64).val = 0 then (3 : Fin 8192).val = 3 else (3 : Fin 8192).val < 1024 ∧ 3 % 64 = (3 : Fin 8192).val % 64 ∧ (groupsOf rings (0 : Fin 64))[(3 : Fin 8192).val / 64]? = some (3 / 64)) ∧
    getF rings (fRING_CFG_ENABLE 3) = 1 ∧
    getF rings (fRING_CFG_KIND 3) = 0 ∧
    ringSize rings 3 ≤ (16 : BitVec 32).toNat) ∧
  fetchTurn (satF fDEV_ERR_HUB_CE (255 : BitVec 8).toNat (setFs [(fRING_PTR_TAIL 3, 2), (fRING_PTR_HEAD 3, 15)] rings)) (3 : Fin 8192) = true ∧
  (64 ≤ rings.pcie.mrrs ∧
    (⟨3, 15, 1, 9⟩ : Fetch) ∈ fetchReads rings 3 1 15 1 9) ∧
  (fetching.fetches.find? (fun f => f.ring == (3 : Fin 8192).val) = some ⟨3, 15, 1, 4⟩ ∧
    ([0] : List (BitVec 512)).length = (⟨3, 15, 1, 4⟩ : Fetch).count) ∧
  ((State.cqHold { rings with holdoff := [(4, true)] }) = false ∧
    tlook (State.holdoff { rings with holdoff := [(4, true)] }) (4 : Fin 8192) = some true) ∧
  ((State.cqHold { rings with holdoff := [(4, false)] }) = false ∧
    tlook (State.holdoff { rings with holdoff := [(4, false)] }) (4 : Fin 8192) = some false) :=
  ⟨⟨by decide +kernel, by decide +kernel, by decide +kernel, by decide +kernel, by decide +kernel, by decide +kernel⟩,
    by decide +kernel,
    ⟨by decide +kernel, by decide +kernel⟩,
    ⟨by decide +kernel, by decide +kernel⟩,
    ⟨by decide +kernel, by decide +kernel⟩,
    ⟨by decide +kernel, by decide +kernel⟩⟩
theorem meets_DoorbellsAndFetches_5 :
  (HostPath (setF (fRING_CFG_ENABLE 3) 0 (setF (fRING_PTR_IN_FLIGHT 3) 0 rings)) (ringMaster (0 : Fin 64)) (0x80008 + 32 * (3 : Fin 8192).val) ∧
    getF (setF (fRING_CFG_ENABLE 3) 0 (setF (fRING_PTR_IN_FLIGHT 3) 0 rings)) (fRING_CFG_ENABLE 3) = 0 ∧
    ringOwner (setF (fRING_CFG_ENABLE 3) 0 (setF (fRING_PTR_IN_FLIGHT 3) 0 rings)) 3 = some (0 : Fin 64).val ∧
    getF (setF (fRING_CFG_ENABLE 3) 0 (setF (fRING_PTR_IN_FLIGHT 3) 0 rings)) (fRING_PTR_IN_FLIGHT 3) = 0 ∧
    (4 ≤ bits (cfgNew 16).toNat (fRING_CFG_LOG2SIZE 3).lo (fRING_CFG_LOG2SIZE 3).w ∧ bits (cfgNew 16).toNat (fRING_CFG_LOG2SIZE 3).lo (fRING_CFG_LOG2SIZE 3).w ≤ 16 ∧ bits (cfgNew 16).toNat (fRING_CFG_KIND 3).lo (fRING_CFG_KIND 3).w ≠ 3) ∧
    (bits (cfgNew 16).toNat (fRING_CFG_KIND 3).lo (fRING_CFG_KIND 3).w = 0 → isCqOf (setF (fRING_CFG_ENABLE 3) 0 (setF (fRING_PTR_IN_FLIGHT 3) 0 rings)) (bits (cfgNew 16).toNat (fRING_CFG_CQ 3).lo (fRING_CFG_CQ 3).w) (0 : Fin 64) = true ∧ (bits (cfgNew 16).toNat (fRING_CFG_BIND_EN 3).lo (fRING_CFG_BIND_EN 3).w = 1 → ownerOf (setF (fRING_CFG_ENABLE 3) 0 (setF (fRING_PTR_IN_FLIGHT 3) 0 rings)) (bits (cfgNew 16).toNat (fRING_CFG_BIND_SEQ 3).lo (fRING_CFG_BIND_SEQ 3).w) = some (0 : Fin 64).val)) ∧
    tget 0 (State.evtLost (setF (fRING_CFG_ENABLE 3) 0 (setF (fRING_PTR_IN_FLIGHT 3) 0 rings))) 3 = 0) ∧
  (HostPath (setF (fRING_CFG_ENABLE 3) 0 (setF (fRING_PTR_IN_FLIGHT 3) 0 rings)) (ringMaster (0 : Fin 64)) (0x80008 + 32 * (3 : Fin 8192).val) ∧
    getF (setF (fRING_CFG_ENABLE 3) 0 (setF (fRING_PTR_IN_FLIGHT 3) 0 rings)) (fRING_CFG_ENABLE 3) = 0 ∧
    (bits (cfgNew 3).toNat (fRING_CFG_LOG2SIZE 3).lo (fRING_CFG_LOG2SIZE 3).w < 4 ∨ 16 < bits (cfgNew 3).toNat (fRING_CFG_LOG2SIZE 3).lo (fRING_CFG_LOG2SIZE 3).w)) ∧
  (HostPath (setF (fRING_CFG_ENABLE 3) 0 (setF (fRING_PTR_IN_FLIGHT 3) 0 rings)) (ringMaster (0 : Fin 64)) (0x80008 + 32 * (3 : Fin 8192).val) ∧
    getF (setF (fRING_CFG_ENABLE 3) 0 (setF (fRING_PTR_IN_FLIGHT 3) 0 rings)) (fRING_CFG_ENABLE 3) = 0 ∧
    (bits (cfgNew 17).toNat (fRING_CFG_LOG2SIZE 3).lo (fRING_CFG_LOG2SIZE 3).w < 4 ∨ 16 < bits (cfgNew 17).toNat (fRING_CFG_LOG2SIZE 3).lo (fRING_CFG_LOG2SIZE 3).w)) :=
  ⟨⟨⟨by decide +kernel, by decide +kernel⟩, by decide +kernel, by decide +kernel, by decide +kernel, by decide +kernel, by decide +kernel, by decide +kernel⟩,
    ⟨⟨by decide +kernel, by decide +kernel⟩, by decide +kernel, by decide +kernel⟩,
    ⟨⟨by decide +kernel, by decide +kernel⟩, by decide +kernel, by decide +kernel⟩⟩
theorem meets_DoorbellsAndFetches_4 :
  (HostPath rings (ringMaster (0 : Fin 64)) (0x80008 + 32 * (3 : Fin 8192).val) ∧
    getF rings (fRING_CFG_ENABLE 3) = 1 ∧
    disableRefused rings (3 : Fin 8192) = false) ∧
  (HostPath rings 0x80 (0x41400 + 8 * (127 : Fin 128).val) ∧
    (∀ i < 64, getF rings (fRING_CFG_ENABLE (64 * (127 : Fin 128).val + i)) = 0)) :=
  ⟨⟨⟨by decide +kernel, by decide +kernel⟩, by decide +kernel, by decide +kernel⟩,
    ⟨⟨by decide +kernel, by decide +kernel⟩, by decide +kernel⟩⟩
/-- States that meet the hypotheses of TransfersAndLoadsEnd. -/
theorem meets_TransfersAndLoadsEnd :
  hostReading (desc (dmaJob 2)) (15 : Fin 16) (0 : Fin 32) = some (dmaJob 2, ⟨60, 4, []⟩) ∧
  (hostReading (desc (job 5 [5 + 5 * 2 ^ 16, 0, 0, 1, 0] fun j => { j with phase := .running, eng := some 15, data := [1, 2] })) (15 : Fin 16) (0 : Fin 32) = some ((job 5 [5 + 5 * 2 ^ 16, 0, 0, 1, 0] fun j => { j with phase := .running, eng := some 15, data := [1, 2] }), ⟨2, 14, []⟩) ∧
    (⟨2, 14, []⟩ : HostRd).got.length + (List.replicate 14 (0 : Byte)).length ≤ (⟨2, 14, []⟩ : HostRd).len ∧
    (Job.op (job 5 [5 + 5 * 2 ^ 16, 0, 0, 1, 0] fun j => { j with phase := .running, eng := some 15, data := [1, 2] })) ≠ 2) ∧
  (engineJob (desc (dmaJob 2 fun j => { j with pos := 64 }) rings) (15 : Fin 16) = some (dmaJob 2 fun j => { j with pos := 64 }) ∧
    findJob (desc (dmaJob 2 fun j => { j with pos := 64 }) rings) (Job.id (dmaJob 2 fun j => { j with pos := 64 })) = some (dmaJob 2 fun j => { j with pos := 64 }) ∧
    ((Job.fail (dmaJob 2 fun j => { j with pos := 64 })) = none ∧ (Job.data (dmaJob 2 fun j => { j with pos := 64 })) = []) ∧
    (Job.pos (dmaJob 2 fun j => { j with pos := 64 })) = moveLen (dmaJob 2 fun j => { j with pos := 64 })) ∧
  (engineJob (desc (dmaJob 3 fun j => { j with data := [1, 2, 3, 4] }) rings) (15 : Fin 16) = some (dmaJob 3 fun j => { j with data := [1, 2, 3, 4] }) ∧
    findJob (desc (dmaJob 3 fun j => { j with data := [1, 2, 3, 4] }) rings) (Job.id (dmaJob 3 fun j => { j with data := [1, 2, 3, 4] })) = some (dmaJob 3 fun j => { j with data := [1, 2, 3, 4] }) ∧
    (Job.fail (dmaJob 3 fun j => { j with data := [1, 2, 3, 4] })) = none ∧
    (Job.pos (dmaJob 3 fun j => { j with data := [1, 2, 3, 4] })) + (Job.data (dmaJob 3 fun j => { j with data := [1, 2, 3, 4] })).length = moveLen (dmaJob 3 fun j => { j with data := [1, 2, 3, 4] })) :=
  ⟨by decide +kernel,
    ⟨by decide +kernel, by decide +kernel, by decide +kernel⟩,
    ⟨by decide +kernel, by decide +kernel, by decide +kernel, by decide +kernel⟩,
    ⟨by decide +kernel, by decide +kernel, by decide +kernel, by decide +kernel⟩⟩
theorem meets_TransfersAndLoadsEnd_2 :
  (engineJob (desc (dmaJob 4 fun j => { j with fail := some (3, 1, 60) }) rings) (15 : Fin 16) = some (dmaJob 4 fun j => { j with fail := some (3, 1, 60) }) ∧
    findJob (desc (dmaJob 4 fun j => { j with fail := some (3, 1, 60) }) rings) (Job.id (dmaJob 4 fun j => { j with fail := some (3, 1, 60) })) = some (dmaJob 4 fun j => { j with fail := some (3, 1, 60) }) ∧
    60 ≤ (Job.pos (dmaJob 4 fun j => { j with fail := some (3, 1, 60) })) ∧
    (Job.reads (dmaJob 4 fun j => { j with fail := some (3, 1, 60) })) = []) ∧
  (engineJob (desc (job 5 [5 + 5 * 2 ^ 16, 0, 8191, 1, 0] fun j => { j with phase := .running, eng := some 15, data := List.replicate 16 0 }) rings) (15 : Fin 16) = some (job 5 [5 + 5 * 2 ^ 16, 0, 8191, 1, 0] fun j => { j with phase := .running, eng := some 15, data := List.replicate 16 0 }) ∧
    findJob (desc (job 5 [5 + 5 * 2 ^ 16, 0, 8191, 1, 0] fun j => { j with phase := .running, eng := some 15, data := List.replicate 16 0 }) rings) (Job.id (job 5 [5 + 5 * 2 ^ 16, 0, 8191, 1, 0] fun j => { j with phase := .running, eng := some 15, data := List.replicate 16 0 })) = some (job 5 [5 + 5 * 2 ^ 16, 0, 8191, 1, 0] fun j => { j with phase := .running, eng := some 15, data := List.replicate 16 0 }) ∧
    dBits (job 5 [5 + 5 * 2 ^ 16, 0, 8191, 1, 0] fun j => { j with phase := .running, eng := some 15, data := List.replicate 16 0 }) 4 0 1 = 0 ∧
    moveLen (job 5 [5 + 5 * 2 ^ 16, 0, 8191, 1, 0] fun j => { j with phase := .running, eng := some 15, data := List.replicate 16 0 }) ≤ gotBytes (job 5 [5 + 5 * 2 ^ 16, 0, 8191, 1, 0] fun j => { j with phase := .running, eng := some 15, data := List.replicate 16 0 }) ∧
    (∀ i < dBits (job 5 [5 + 5 * 2 ^ 16, 0, 8191, 1, 0] fun j => { j with phase := .running, eng := some 15, data := List.replicate 16 0 }) 3 0 14, mwReserved (srcMicro (job 5 [5 + 5 * 2 ^ 16, 0, 8191, 1, 0] fun j => { j with phase := .running, eng := some 15, data := List.replicate 16 0 }) i) = false)) :=
  ⟨⟨by decide +kernel, by decide +kernel, by decide +kernel, by decide +kernel⟩,
    ⟨by decide +kernel, by decide +kernel, by decide +kernel, by decide +kernel, by decide +kernel⟩⟩
theorem meets_TransfersAndLoadsEnd_3 :
  (engineJob (desc (job 5 [5 + 5 * 2 ^ 16, 0, 8191, 1, 0] fun j => { j with phase := .running, eng := some 15, data := List.replicate 16 0xFF }) rings) (15 : Fin 16) = some (job 5 [5 + 5 * 2 ^ 16, 0, 8191, 1, 0] fun j => { j with phase := .running, eng := some 15, data := List.replicate 16 0xFF }) ∧
    findJob (desc (job 5 [5 + 5 * 2 ^ 16, 0, 8191, 1, 0] fun j => { j with phase := .running, eng := some 15, data := List.replicate 16 0xFF }) rings) (Job.id (job 5 [5 + 5 * 2 ^ 16, 0, 8191, 1, 0] fun j => { j with phase := .running, eng := some 15, data := List.replicate 16 0xFF })) = some (job 5 [5 + 5 * 2 ^ 16, 0, 8191, 1, 0] fun j => { j with phase := .running, eng := some 15, data := List.replicate 16 0xFF }) ∧
    dBits (job 5 [5 + 5 * 2 ^ 16, 0, 8191, 1, 0] fun j => { j with phase := .running, eng := some 15, data := List.replicate 16 0xFF }) 4 0 1 = 0 ∧
    moveLen (job 5 [5 + 5 * 2 ^ 16, 0, 8191, 1, 0] fun j => { j with phase := .running, eng := some 15, data := List.replicate 16 0xFF }) ≤ gotBytes (job 5 [5 + 5 * 2 ^ 16, 0, 8191, 1, 0] fun j => { j with phase := .running, eng := some 15, data := List.replicate 16 0xFF }) ∧
    0 < dBits (job 5 [5 + 5 * 2 ^ 16, 0, 8191, 1, 0] fun j => { j with phase := .running, eng := some 15, data := List.replicate 16 0xFF }) 3 0 14 ∧
    mwReserved (srcMicro (job 5 [5 + 5 * 2 ^ 16, 0, 8191, 1, 0] fun j => { j with phase := .running, eng := some 15, data := List.replicate 16 0xFF }) 0) = true ∧
    (∀ k < 0, mwReserved (srcMicro (job 5 [5 + 5 * 2 ^ 16, 0, 8191, 1, 0] fun j => { j with phase := .running, eng := some 15, data := List.replicate 16 0xFF }) k) = false)) ∧
  runningJob (desc (job 5 [5 + 5 * 2 ^ 16, 0, 8191, 1, 0] fun j => { j with phase := .running, stage := 1, data := List.replicate 16 7 })) (fun j => (j.op == 5 || j.op == 6) && j.stage == 1 && jTarget j == (5 : Fin 64).val) = some (job 5 [5 + 5 * 2 ^ 16, 0, 8191, 1, 0] fun j => { j with phase := .running, stage := 1, data := List.replicate 16 7 }) ∧
  runningJob (desc (job 6 [6 + 5 * 2 ^ 16, 0, 16380, 4, 0] fun j => { j with phase := .running, stage := 1, data := List.replicate 16 7 })) (fun j => (j.op == 5 || j.op == 6) && j.stage == 1 && jTarget j == (5 : Fin 64).val) = some (job 6 [6 + 5 * 2 ^ 16, 0, 16380, 4, 0] fun j => { j with phase := .running, stage := 1, data := List.replicate 16 7 }) ∧
  (runningJob (desc (job 0xD [0xD + 5 * 2 ^ 16, 0x100, 1, 8523776, 2 ^ 8] fun j => { j with phase := .running, stage := 4, data := [1, 2] }) ready5) (fun j => j.op == 0xD && jTarget j == (5 : Fin 64).val && decide (3 ≤ j.stage)) = some (job 0xD [0xD + 5 * 2 ^ 16, 0x100, 1, 8523776, 2 ^ 8] fun j => { j with phase := .running, stage := 4, data := [1, 2] }) ∧
    partAt (desc (job 0xD [0xD + 5 * 2 ^ 16, 0x100, 1, 8523776, 2 ^ 8] fun j => { j with phase := .running, stage := 4, data := [1, 2] }) ready5) (5 : Fin 64) = some p5 ∧
    findJob (desc (job 0xD [0xD + 5 * 2 ^ 16, 0x100, 1, 8523776, 2 ^ 8] fun j => { j with phase := .running, stage := 4, data := [1, 2] }) ready5) (Job.id (job 0xD [0xD + 5 * 2 ^ 16, 0x100, 1, 8523776, 2 ^ 8] fun j => { j with phase := .running, stage := 4, data := [1, 2] })) = some (job 0xD [0xD + 5 * 2 ^ 16, 0x100, 1, 8523776, 2 ^ 8] fun j => { j with phase := .running, stage := 4, data := [1, 2] }) ∧
    dBits (job 0xD [0xD + 5 * 2 ^ 16, 0x100, 1, 8523776, 2 ^ 8] fun j => { j with phase := .running, stage := 4, data := [1, 2] }) 4 0 1 = 0) :=
  ⟨⟨by decide +kernel, by decide +kernel, by decide +kernel, by decide +kernel, by decide +kernel, by decide +kernel, by decide +kernel⟩,
    by decide +kernel,
    by decide +kernel,
    ⟨by decide +kernel, by decide +kernel, by decide +kernel, by decide +kernel⟩⟩
theorem meets_TransfersAndLoadsEnd_4 :
  wpLines (5 : Fin 64) 2049 wpDone = (some 0, wpLeft) ∧
    (getField wpLeft (5 : Fin 64)).wp = some ⟨5, true, false, 8, 0, false, 2 ^ 17, []⟩ :=
  ⟨by decide +kernel, by decide +kernel⟩

/-- A request of node 5 under master 5 for the line at address a. -/
def req (wr : Bool) (a : Nat) (en : BitVec 64 := 0xFF) (node : BitVec 8 := 5) : LineReq :=
  ⟨node, 3, 5, wr, BitVec.ofNat 42 (a / 64), en, BitVec.ofNat 512 0x0807060504030201⟩
/-- The last line of bank 31, and the writes of two masters to it. -/
def top : Nat := 0x3FFFFC0
def rA : LineReq := req true top 0x3
def rB : LineReq := { req true top 0x6 6 with master := 6 }
/-- A second request of the first one's master. -/
def rC : LineReq := req false top 0x6
/-- The table of node d lets master 5 into no region. -/
def shut (d : Nat) : State := setFs ((List.range 16).map fun k => (fACL_PERM d 5 k, 0)) up
/-- A write of the last doubleword of scratchpad 63, and one of its last two. -/
def sp1 : LineReq := req true 0x107FFFC0 0xFF00000000000000
def sp2 : LineReq := req false 0x107FFFC0 0xFFFF000000000000
def spadS : State := setF (fSPAD_WAIT_MAX_WAIT 63) 4 up
def starving : State := { up with spadQ := [⟨63, sp2, [6, 7], [7], 0, [], 0⟩] }
/-- A raw request of the last line of HBM, a translated one of page 2097151, and an entry that function 0 may use. -/
def rawR : LineReq := { req false 0x5FFFFFFFC0 with master := 0x61, node := 0xAA }
def vR : LineReq := req true 0x3FFFFFFFC0 0xFF 5
def okE : BitVec 32 := BitVec.ofNat 32 (2 ^ 29 + 3 * 2 ^ 27 + 5)
def mapped (e : BitVec 32) : State := { up with chartCache := [(2097151, ⟨e, []⟩)] }
/-- Function 0 holds field 5, whose master's requests pass as its own. -/
def mine (s : State) : State := { s with parts := [(5, p5)] }
def waiting : State := { mine up with xlatWait := [memReq vR], chart := [(2097151, okE)] }
def waitingBad : State := { waiting with chartErr := [(2097151, 3)] }
/-- A request at pseudo-channel 127, the last. -/
def hq (r : LineReq) : HbmReq := ⟨2 ^ 37 - 64, false, memReq r⟩
def served (r : LineReq) : State := setByte (hbmRBase + 2 ^ 37 - 64) 0x33 { up with hbmQ := [hq r] }
/-- The same, forwarded by a home controller. -/
def hqF (r : LineReq) : HbmReq := ⟨2 ^ 37 - 64, true, memReq r⟩
def servedF (r : LineReq) : State := { up with hbmQ := [hqF r] }
/-- An acted invalidation of a line at sequencer 5, and a write's answer that waits for it. -/
def acking : State := { up with invals := [⟨0, 5, 77, true⟩], invWait := [(77, ⟨5, 0, [], 0⟩)] }

/-- States that meet the hypotheses of StagingBanksServe. -/
theorem meets_StagingBanksServe :
  (domOpen up (37 + (31 : Fin 32).val / 8) = true ∧
    (bankTakes up (31 : Fin 32) (memReq rA) = true ∧ Passes up (0x60 + (31 : Fin 32).val) rA ∧ Clean up (lineAddr rA))) ∧
  (domOpen up (37 + (31 : Fin 32).val / 8) = true ∧
    (bankTakes up (31 : Fin 32) (memReq rC) = true ∧ Passes up (0x60 + (31 : Fin 32).val) rC ∧ Clean up (lineAddr rC))) ∧
  (domOpen up (37 + (31 : Fin 32).val / 8) = true ∧
    (bankTakes up (31 : Fin 32) (memReq rA) = true ∧ Passes up (0x60 + (31 : Fin 32).val) rA ∧ Clean up (lineAddr rA)) ∧
    (bankTakes up (31 : Fin 32) (memReq rB) = true ∧ Passes up (0x60 + (31 : Fin 32).val) rB ∧ Clean up (lineAddr rB)) ∧
    (LineReq.master rA) ≠ (LineReq.master rB) ∧
    roundAfter 256 (tget 255 up.stgTurn (31 : Fin 32)) (LineReq.master rA).toNat < roundAfter 256 (tget 255 up.stgTurn (31 : Fin 32)) (LineReq.master rB).toNat ∧
    rA.write = true ∧ rB.write = true ∧ rA.line = rB.line) ∧
  (domOpen up (37 + (31 : Fin 32).val / 8) = true ∧
    (bankTakes up (31 : Fin 32) (memReq rA) = true ∧ Passes up (0x60 + (31 : Fin 32).val) rA ∧ Clean up (lineAddr rA)) ∧
    (bankTakes up (31 : Fin 32) (memReq rC) = true ∧ Passes up (0x60 + (31 : Fin 32).val) rC ∧ Clean up (lineAddr rC)) ∧
    rA.master = rC.master) ∧
  (domOpen (shut 0x7F) (37 + (31 : Fin 32).val / 8) = true ∧
    bankTakes (shut 0x7F) (31 : Fin 32) (memReq rA) = true ∧
    (¬Passes (shut 0x7F) (0x60 + (31 : Fin 32).val) rA)) :=
  ⟨⟨by decide +kernel, ⟨by decide +kernel, by unfold Passes; decide +kernel, fun _ _ _ => rfl⟩⟩,
    ⟨by decide +kernel, ⟨by decide +kernel, by unfold Passes; decide +kernel, fun _ _ _ => rfl⟩⟩,
    ⟨by decide +kernel, ⟨by decide +kernel, by unfold Passes; decide +kernel, fun _ _ _ => rfl⟩, ⟨by decide +kernel, by unfold Passes; decide +kernel, fun _ _ _ => rfl⟩, by decide +kernel, by decide +kernel, by decide +kernel⟩,
    ⟨by decide +kernel, ⟨by decide +kernel, by unfold Passes; decide +kernel, fun _ _ _ => rfl⟩, ⟨by decide +kernel, by unfold Passes; decide +kernel, fun _ _ _ => rfl⟩, by decide +kernel⟩,
    ⟨by decide +kernel, by decide +kernel, (by unfold Passes; decide +kernel)⟩⟩
/-- States that meet the hypotheses of ScratchpadPartsProceed. -/
theorem meets_ScratchpadPartsProceed :
  (NewAtSpad spadS (63 : Fin 64) sp1 ∧
    partsOf (memReq sp1) = [(7 : Fin 8).val]) ∧
  (NewAtSpad spadS (63 : Fin 64) sp1 ∧
    partsOf (memReq sp1) = [(7 : Fin 8).val]) ∧
  (NewAtSpad spadS (63 : Fin 64) sp2 ∧
    (7 : Fin 8).val ∈ partsOf (memReq sp2) ∧
    partsOf (memReq sp2) ≠ [(7 : Fin 8).val]) ∧
  (NewAtSpad spadS (63 : Fin 64) sp2 ∧
    (7 : Fin 8).val ∈ partsOf (memReq sp2)) ∧
  (starving.spadQ.find? (fun e => e.n == (63 : Fin 64).val && e.req == sp2) = some ⟨63, sp2, [6, 7], [7], 0, [], 0⟩ ∧
    (7 : Fin 8).val ∈ [7]) :=
  ⟨⟨(by exact ⟨by decide +kernel, by decide +kernel, by decide +kernel, by unfold Passes; decide +kernel, fun _ _ _ => rfl⟩), by decide +kernel⟩,
    ⟨(by exact ⟨by decide +kernel, by decide +kernel, by decide +kernel, by unfold Passes; decide +kernel, fun _ _ _ => rfl⟩), by decide +kernel⟩,
    ⟨(by exact ⟨by decide +kernel, by decide +kernel, by decide +kernel, by unfold Passes; decide +kernel, fun _ _ _ => rfl⟩), by decide +kernel, by decide +kernel⟩,
    ⟨(by exact ⟨by decide +kernel, by decide +kernel, by decide +kernel, by unfold Passes; decide +kernel, fun _ _ _ => rfl⟩), by decide +kernel⟩,
    ⟨by decide +kernel, by decide +kernel⟩⟩
/-- States that meet the hypotheses of HbmRequestsReachTheirStack. -/
theorem meets_HbmRequestsReachTheirStack :
  (locate (lineAddr rawR) = some (.raw, (rawNode (lineAddr rawR - hbmRBase))) ∧
    domOpen up (nodeDom (rawNode (lineAddr rawR - hbmRBase))) = true ∧
    Passes up (rawNode (lineAddr rawR - hbmRBase)) rawR ∧
    StackUp up (lineAddr rawR - hbmRBase)) ∧
  (locate (lineAddr rawR) = some (.raw, (rawNode (lineAddr rawR - hbmRBase))) ∧
    domOpen (setF (fHBM_STAT_FAILED 3) 1 up) (nodeDom (rawNode (lineAddr rawR - hbmRBase))) = true ∧
    Passes (setF (fHBM_STAT_FAILED 3) 1 up) (rawNode (lineAddr rawR - hbmRBase)) rawR ∧
    stackFailed (setF (fHBM_STAT_FAILED 3) 1 up) (lineAddr rawR - hbmRBase) = true) ∧
  (locate (lineAddr vR) = some (.xlat, (homeNode 2097151)) ∧
    domOpen (mapped 0) (nodeDom (homeNode 2097151)) = true ∧
    Passes (mapped 0) (homeNode 2097151) vR ∧
    (∀ w ∈ (State.xlatWait (mapped 0)), (w.addr - hbmVBase) / 65536 ≠ (lineAddr vR - hbmVBase) / 65536) ∧
    tlook (State.chartCache (mapped 0)) ((lineAddr vR - hbmVBase) / 65536) = some ⟨0, []⟩ ∧
    entryStatus (mapped 0) 0 vR.master.toNat vR.write = some 3) :=
  ⟨⟨by decide +kernel, by decide +kernel, (by unfold Passes; decide +kernel), ⟨by decide +kernel, by decide +kernel⟩⟩,
    ⟨by decide +kernel, by decide +kernel, (by unfold Passes; decide +kernel), by decide +kernel⟩,
    ⟨by decide +kernel, by decide +kernel, (by unfold Passes; decide +kernel), by decide +kernel, by decide +kernel, by decide +kernel⟩⟩
theorem meets_HbmRequestsReachTheirStack_2 :
  (locate (lineAddr vR) = some (.xlat, (homeNode 2097151)) ∧
    domOpen (mapped (BitVec.ofNat 32 (2 ^ 29))) (nodeDom (homeNode 2097151)) = true ∧
    Passes (mapped (BitVec.ofNat 32 (2 ^ 29))) (homeNode 2097151) vR ∧
    (∀ w ∈ (State.xlatWait (mapped (BitVec.ofNat 32 (2 ^ 29)))), (w.addr - hbmVBase) / 65536 ≠ (lineAddr vR - hbmVBase) / 65536) ∧
    tlook (State.chartCache (mapped (BitVec.ofNat 32 (2 ^ 29)))) ((lineAddr vR - hbmVBase) / 65536) = some ⟨(BitVec.ofNat 32 (2 ^ 29)), []⟩ ∧
    entryStatus (mapped (BitVec.ofNat 32 (2 ^ 29))) (BitVec.ofNat 32 (2 ^ 29)) vR.master.toNat vR.write = some 1) ∧
  (locate (lineAddr vR) = some (.xlat, (homeNode 2097151)) ∧
    domOpen (mapped (BitVec.ofNat 32 (2 ^ 29 + 2 ^ 27))) (nodeDom (homeNode 2097151)) = true ∧
    Passes (mapped (BitVec.ofNat 32 (2 ^ 29 + 2 ^ 27))) (homeNode 2097151) vR ∧
    (∀ w ∈ (State.xlatWait (mapped (BitVec.ofNat 32 (2 ^ 29 + 2 ^ 27)))), (w.addr - hbmVBase) / 65536 ≠ (lineAddr vR - hbmVBase) / 65536) ∧
    tlook (State.chartCache (mapped (BitVec.ofNat 32 (2 ^ 29 + 2 ^ 27)))) ((lineAddr vR - hbmVBase) / 65536) = some ⟨(BitVec.ofNat 32 (2 ^ 29 + 2 ^ 27)), []⟩ ∧
    entryStatus (mapped (BitVec.ofNat 32 (2 ^ 29 + 2 ^ 27))) (BitVec.ofNat 32 (2 ^ 29 + 2 ^ 27)) vR.master.toNat vR.write = some 1) :=
  ⟨⟨by decide +kernel, by decide +kernel, (by unfold Passes; decide +kernel), by decide +kernel, by decide +kernel, by decide +kernel⟩,
    ⟨by decide +kernel, by decide +kernel, (by unfold Passes; decide +kernel), by decide +kernel, by decide +kernel, by decide +kernel⟩⟩
theorem meets_HbmRequestsReachTheirStack_3 :
  (locate (lineAddr vR) = some (.xlat, (homeNode 2097151)) ∧
    domOpen (mine (mapped okE)) (nodeDom (homeNode 2097151)) = true ∧
    Passes (mine (mapped okE)) (homeNode 2097151) vR ∧
    (∀ w ∈ (State.xlatWait (mine (mapped okE))), (w.addr - hbmVBase) / 65536 ≠ (lineAddr vR - hbmVBase) / 65536) ∧
    tlook (State.chartCache (mine (mapped okE))) ((lineAddr vR - hbmVBase) / 65536) = some ⟨okE, []⟩ ∧
    entryStatus (mine (mapped okE)) okE vR.master.toNat vR.write = none ∧
    Forwards (mine (mapped okE)) (lineAddr vR) (entryRaw (mine (mapped okE)) okE (lineAddr vR))) ∧
  (locate (lineAddr vR) = some (.xlat, (homeNode 2097151)) ∧
    domOpen up (nodeDom (homeNode 2097151)) = true ∧
    Passes up (homeNode 2097151) vR ∧
    (∀ w ∈ (State.xlatWait up), (w.addr - hbmVBase) / 65536 ≠ (lineAddr vR - hbmVBase) / 65536) ∧
    tlook up.chartCache ((lineAddr vR - hbmVBase) / 65536) = none) :=
  ⟨⟨by decide +kernel, by decide +kernel, (by unfold Passes; decide +kernel), by decide +kernel, by decide +kernel, by decide +kernel, ⟨⟨by decide +kernel, by decide +kernel⟩, by decide +kernel⟩⟩,
    ⟨by decide +kernel, by decide +kernel, (by unfold Passes; decide +kernel), by decide +kernel, by decide +kernel⟩⟩
theorem meets_HbmRequestsReachTheirStack_4 :
  (waiting.xlatWait = [memReq vR] ∧
    ((memReq vR).addr - hbmVBase) / 65536 = (2097151 : Fin 2097152).val ∧
    tget 0 waiting.chartErr (2097151 : Fin 2097152) ^^^ (0 : BitVec 39) = 0 ∧
    tlook waiting.chartCache (2097151 : Fin 2097152) = none ∧
    entryStatus waiting (tget 0 waiting.chart (2097151 : Fin 2097152)) (memReq vR).master (memReq vR).write = none ∧
    Forwards waiting (memReq vR).addr (entryRaw waiting (tget 0 waiting.chart (2097151 : Fin 2097152)) (memReq vR).addr)) ∧
  (waitingBad.xlatWait = [memReq vR] ∧
    ((memReq vR).addr - hbmVBase) / 65536 = (2097151 : Fin 2097152).val ∧
    popc 6 (tget 0 waitingBad.chartErr (2097151 : Fin 2097152) ^^^ (0 : BitVec 39)).toNat = 2) ∧
  (waiting.xlatWait = [memReq vR] ∧
    ((memReq vR).addr - hbmVBase) / 65536 = (2097151 : Fin 2097152).val ∧
    popc 6 (tget 0 waiting.chartErr (2097151 : Fin 2097152) ^^^ (2 ^ 38 + 1 : BitVec 39)).toNat = 2) ∧
  (stackNext (served rawR) (127 : Fin 128) = some (hq rawR) ∧
    domOpen (served rawR) (16 + (127 : Fin 128).val / 32) = true ∧
    channelHeld (served rawR) (HbmReq.ra (hq rawR)) = false ∧
    Returns (served rawR) (hq rawR) ∧
    (∀ b ∈ burstsOf (HbmReq.ra (hq rawR)) (MemReq.en (HbmReq.req (hq rawR))), tget 0 (State.hbmErr (served rawR)) b = 0) ∧
    burstsOf (HbmReq.ra (hq rawR)) (MemReq.en (HbmReq.req (hq rawR))) ≠ [] ∧
    (MemReq.write (HbmReq.req (hq rawR))) = false) :=
  ⟨⟨by decide +kernel, by decide +kernel, by decide +kernel, by decide +kernel, by decide +kernel, ⟨⟨by decide +kernel, by decide +kernel⟩, by decide +kernel⟩⟩,
    ⟨by decide +kernel, by decide +kernel, by decide +kernel⟩,
    ⟨by decide +kernel, by decide +kernel, by decide +kernel⟩,
    ⟨by decide +kernel, by decide +kernel, by decide +kernel, (by unfold Returns; decide +kernel), by decide +kernel, by decide +kernel, by decide +kernel⟩⟩
theorem meets_HbmRequestsReachTheirStack_5 :
  (stackNext (served vR) (127 : Fin 128) = some (hq vR) ∧
    domOpen (served vR) (16 + (127 : Fin 128).val / 32) = true ∧
    channelHeld (served vR) (HbmReq.ra (hq vR)) = false ∧
    Returns (served vR) (hq vR) ∧
    (∀ b ∈ burstsOf (HbmReq.ra (hq vR)) (MemReq.en (HbmReq.req (hq vR))), tget 0 (State.hbmErr (served vR)) b = 0) ∧
    burstsOf (HbmReq.ra (hq vR)) (MemReq.en (HbmReq.req (hq vR))) ≠ [] ∧
    (MemReq.write (HbmReq.req (hq vR))) = true ∧
    (HbmReq.fwd (hq vR)) = false ∧
    (.corrected : HbmEcc) ≠ .uncorrectable ∧
    (∃ b ∈ burstsOf (HbmReq.ra (hq vR)) (MemReq.en (HbmReq.req (hq vR))), fillsBurst (HbmReq.ra (hq vR)) (MemReq.en (HbmReq.req (hq vR))) b = false)) ∧
  (stackNext (servedF rawR) (127 : Fin 128) = some (hqF rawR) ∧
    domOpen (servedF rawR) (16 + (127 : Fin 128).val / 32) = true ∧
    channelHeld (servedF rawR) (HbmReq.ra (hqF rawR)) = false ∧
    Returns (servedF rawR) (hqF rawR) ∧
    (∀ b ∈ burstsOf (HbmReq.ra (hqF rawR)) (MemReq.en (HbmReq.req (hqF rawR))), tget 0 (State.hbmErr (servedF rawR)) b = 0) ∧
    burstsOf (HbmReq.ra (hqF rawR)) (MemReq.en (HbmReq.req (hqF rawR))) ≠ [] ∧
    (MemReq.write (HbmReq.req (hqF rawR))) = false) :=
  ⟨⟨by decide +kernel, by decide +kernel, by decide +kernel, (by unfold Returns; decide +kernel), by decide +kernel, by decide +kernel, by decide +kernel, by decide +kernel, by decide +kernel, by decide +kernel⟩,
    ⟨by decide +kernel, by decide +kernel, by decide +kernel, (by unfold Returns; decide +kernel), by decide +kernel, by decide +kernel, by decide +kernel⟩⟩
/-- States that meet the hypotheses of InvalidationsAndWindows. -/
theorem meets_InvalidationsAndWindows :
  acking.invals.find? (fun v => v.node == (5 : BitVec 8).toNat && v.acted && !(v.kind == 1 && entryBusy acking v.what)) = some ⟨0, 5, 77, true⟩ ∧
  (HostPath up 0x80 (0x4A000 + 8 * (63 : Fin 64).val) ∧
    chartCnt up (63 : Fin 64) = 0) ∧
  (HostPath { up with chart := [(0, BitVec.ofNat 32 (2 ^ 29 + 63 * 2 ^ 21))] } 0x80 (0x4A000 + 8 * (63 : Fin 64).val) ∧
    chartCnt { up with chart := [(0, BitVec.ofNat 32 (2 ^ 29 + 63 * 2 ^ 21))] } (63 : Fin 64) ≠ 0 ∧
    (3 : Word).toNat % 4 ≠ getF { up with chart := [(0, BitVec.ofNat 32 (2 ^ 29 + 63 * 2 ^ 21))] } (fHBM_SEED_SEED (63 : Fin 64))) ∧
  getF (setF (fHBM_STAT_READY 3) 1 up) (fHBM_STAT_READY (3 : Fin 4)) = 1 :=
  ⟨by decide +kernel,
    ⟨⟨by decide +kernel, by decide +kernel⟩, by decide +kernel⟩,
    ⟨⟨by decide +kernel, by decide +kernel⟩, by decide +kernel, by decide +kernel⟩,
    by decide +kernel⟩

theorem meets_InvalidationsAndWindows_2 :
  domOpen up (quadDom (63 : Fin 64)) = true ∧
  domOpen (setF (fPWR_DOM_STATE (quadDom 63)) 1 up) (quadDom (63 : Fin 64)) = false ∧
  domOpen up (16 + (2097151 : Fin 2097152).val % 4) = true :=
  ⟨by decide +kernel,
    by decide +kernel,
    by decide +kernel⟩
/-- Counters of the last field and the last lane stand at values. -/
def counted : State := setFs [(fPEMEM_ECC_CE_CNT 63, 0x12345678), (fPEMEM_ECC_UE_CNT 63, 0x9ABC), (fLANE_ERR_LOS 9 31, 1)] up
/-- A line request of doubleword 7 of the last line of the register range, and one outside the range. -/
def regLine (a : Nat) : LineReq := ⟨5, 3, 5, false, BitVec.ofNat 42 (a / 64), 0xFF00000000000000, 0⟩
/-- Function 63 is enabled, owns ring group 127 and the partition of field 5. -/
def vf63 : State := setFs [(fFUNC_STAT_ENABLED 63, 1), (fRG_OWNER_ASSIGNED 127, 1), (fRG_OWNER_OWNER 127, 63), (fRING_CFG_ENABLE 8191, 1)]
  { up with parts := [(5, ⟨0, 0, 63⟩)], msixTab := [(32 * 63, 5)] }
def bar4 : State := (nocAccess 0xA8 0x80 false 0x3FFFFFE [true, true] [] up).2
/-- A packet of node 5 for node d by its route at its NI. -/
def route (src d : Nat) : Nat := activeRoute up src d
def pkt (net src d : Nat) (b : PBody) : Packet := leaves net src d 3 (route src d) b
/-- The route of node 5 to node 0x7F is not VALID. -/
def noRoute : State := { up with routes := [(routeKey 5 0 0x7F, 0)] }

/-- States that meet the hypotheses of RegisterAccesses. -/
theorem meets_RegisterAccesses :
  (RegPath up 0x80 true (0x4A420 : BitVec 26).toNat 8 ((sizeEn 8 0x4A420).getD 0) (.row rowHOT_CFG 0 0) ∧
    (RegRow.name rowHOT_CFG) ∈ plainRegs) ∧
  (RegPath up 0x80 true (0x4A420 : BitVec 26).toNat 4 ((sizeEn 4 0x4A420).getD 0) (.row rowHOT_CFG 0 0) ∧
    (RegRow.name rowHOT_CFG) ∈ plainRegs) ∧
  (RegPath counted 0x80 false (0x3F310 : BitVec 26).toNat 8 ((sizeEn 8 0x3F310).getD 0) (.row rowPEMEM_ECC 63 0) ∧
    (RegRow.name rowPEMEM_ECC) ∈ plainRegs) ∧
  (RegPath counted 0x80 false (0x3F314 : BitVec 26).toNat 4 ((sizeEn 4 0x3F314).getD 0) (.row rowPEMEM_ECC 63 0) ∧
    (RegRow.name rowPEMEM_ECC) ∈ plainRegs) ∧
  (RegPath counted 0x80 false (0x691F8 : BitVec 26).toNat 8 ((sizeEn 8 0x691F8).getD 0) (.row rowLANE_ERR 9 31) ∧
    (RegRow.name rowLANE_ERR) ∈ plainRegs) ∧
  (RegPath counted 0x80 true (0x691F8 : BitVec 26).toNat 8 ((sizeEn 8 0x691F8).getD 0) (.row rowLANE_ERR 9 31) ∧
    (RegRow.name rowLANE_ERR) ∈ plainRegs) ∧
  sizeEn (2 : Fin 65) (3 : BitVec 26).toNat = none ∧
  hostReaches up (0x81 : BitVec 8).toNat = false :=
  ⟨⟨⟨by decide +kernel, by decide +kernel, by decide +kernel, by decide +kernel, by decide +kernel⟩, by decide +kernel⟩,
    ⟨⟨by decide +kernel, by decide +kernel, by decide +kernel, by decide +kernel, by decide +kernel⟩, by decide +kernel⟩,
    ⟨⟨by decide +kernel, by decide +kernel, by decide +kernel, by decide +kernel, by decide +kernel⟩, by decide +kernel⟩,
    ⟨⟨by decide +kernel, by decide +kernel, by decide +kernel, by decide +kernel, by decide +kernel⟩, by decide +kernel⟩,
    ⟨⟨by decide +kernel, by decide +kernel, by decide +kernel, by decide +kernel, by decide +kernel⟩, by decide +kernel⟩,
    ⟨⟨by decide +kernel, by decide +kernel, by decide +kernel, by decide +kernel, by decide +kernel⟩, by decide +kernel⟩,
    by decide +kernel,
    by decide +kernel⟩
theorem meets_RegisterAccesses_2 :
  (hostReaches up (0x80 : BitVec 8).toNat = true ∧
    sizeEn (2 : Fin 65) (3 : BitVec 26).toNat = none) ∧
  (0x20000000 ≤ lineAddr (regLine 0x23FFFFC0) ∧
    lineAddr (regLine 0x23FFFFC0) < 0x24000000 ∧
    (∀ k < 64, (LineReq.en (regLine 0x23FFFFC0)).getLsbD k = decide (k / 8 = (7 : Fin 8).val)) ∧
    lineWaits up (LineReq.node (regLine 0x23FFFFC0)).toNat (LineReq.master (regLine 0x23FFFFC0)).toNat (LineReq.write (regLine 0x23FFFFC0)) (lineAddr (regLine 0x23FFFFC0) - 0x20000000) ((List.range 64).map (LineReq.en (regLine 0x23FFFFC0)).getLsbD) = false) ∧
  (0x20000000 ≤ lineAddr (regLine 0x20000000) ∧
    lineAddr (regLine 0x20000000) < 0x24000000 ∧
    (∀ k < 64, (LineReq.en (regLine 0x20000000)).getLsbD k = decide (k / 8 = (7 : Fin 8).val)) ∧
    lineWaits up (LineReq.node (regLine 0x20000000)).toNat (LineReq.master (regLine 0x20000000)).toNat (LineReq.write (regLine 0x20000000)) (lineAddr (regLine 0x20000000) - 0x20000000) ((List.range 64).map (LineReq.en (regLine 0x20000000)).getLsbD) = false) ∧
  (lineAddr (regLine 0x24000000) < 0x20000000 ∨ 0x24000000 ≤ lineAddr (regLine 0x24000000)) :=
  ⟨⟨by decide +kernel, by decide +kernel⟩,
    ⟨by decide +kernel, by decide +kernel, by decide +kernel, by decide +kernel⟩,
    ⟨by decide +kernel, by decide +kernel, by decide +kernel, by decide +kernel⟩,
    by decide +kernel⟩
/-- States that meet the hypotheses of FunctionsAndBar4. -/
theorem meets_FunctionsAndBar4 :
  endpointReady up = true ∧
  (endpointReady vf63 = true ∧
    (∀ j ∈ vf63.jobs, j.op ≠ 0xC)) ∧
  (hostReaches vf63 (0x80 + (63 : Fin 64).val) = true ∧
    (∀ j ∈ vf63.jobs, j.op ≠ 0xC)) ∧
  (hostReaches up (0x80 + (0 : Fin 64).val) = true ∧
    [true, true] ≠ [] ∧
    [true, true].length + (0x3FFFFFE : BitVec 26).toNat % 64 ≤ 64 ∧
    ([] : List Byte).length ≤ [true, true].length ∧
    nocAccess 0xA8 (0x80 + (0 : Fin 64).val) false (0x3FFFFFE : BitVec 26).toNat [true, true] [] up = (.done 0 [0, 0] 0, bar4)) :=
  ⟨by decide +kernel,
    ⟨by decide +kernel, by decide +kernel⟩,
    ⟨by decide +kernel, by decide +kernel⟩,
    ⟨by decide +kernel, by decide +kernel, by decide +kernel, by decide +kernel, by decide +kernel⟩⟩
/-- States that meet the hypotheses of PacketsEnterAndHop. -/
theorem meets_PacketsEnterAndHop :
  (locate (lineAddr (req true top 0x3)) = some (.staging, 0x7F) ∧
    Region.staging ≠ .regs ∧
    Injects up (LineReq.node (req true top 0x3)).toNat 0x7F (LineReq.tid (req true top 0x3)).toNat (route 5 0x7F) (.req (memReq (req true top 0x3)))) ∧
  (locate (lineAddr (req false top 0x3)) = some (.staging, 0x7F) ∧
    Region.staging ≠ .regs ∧
    Injects up (LineReq.node (req false top 0x3)).toNat 0x7F (LineReq.tid (req false top 0x3)).toNat (route 5 0x7F) (.req (memReq (req false top 0x3)))) ∧
  (locate (lineAddr (req false 0x4000000)) = none ∧
    nodeExists (LineReq.node (req false 0x4000000)).toNat = true) ∧
  (locate (lineAddr (req false top)) = some (.staging, 0x7F) ∧
    Region.staging ≠ .regs ∧
    nodeExists (LineReq.node (req false top)).toNat = true ∧
    tidTaken noRoute (LineReq.node (req false top)).toNat (LineReq.tid (req false top)).toNat = false ∧
    mayInject noRoute ⟨(LineReq.node (req false top)).toNat, 0x7F, (LineReq.tid (req false top)).toNat, .req (memReq (req false top))⟩ = true ∧
    (activeRoute noRoute (LineReq.node (req false top)).toNat 0x7F).testBit 34 = false) :=
  ⟨⟨by decide +kernel, by decide +kernel, ⟨by decide +kernel, by decide +kernel, by decide +kernel, by decide +kernel, by decide +kernel⟩⟩,
    ⟨by decide +kernel, by decide +kernel, ⟨by decide +kernel, by decide +kernel, by decide +kernel, by decide +kernel, by decide +kernel⟩⟩,
    ⟨by decide +kernel, by decide +kernel⟩,
    ⟨by decide +kernel, by decide +kernel, by decide +kernel, by decide +kernel, by decide +kernel, by decide +kernel⟩⟩
theorem meets_PacketsEnterAndHop_2 :
  (0x20000000 ≤ 8 * (0x4009E00 : BitVec 45).toNat ∧
    8 * (0x4009E00 : BitVec 45).toNat < 0x24000000 ∧
    Injects up (0xA8 : BitVec 8).toNat (serveNode (8 * (0x4009E00 : BitVec 45).toNat - 0x20000000)) (5 : BitVec 6).toNat (route 0xA8 (serveNode (8 * (0x4009E00 : BitVec 45).toNat - 0x20000000))) (.mgmt (0x80 : BitVec 8).toNat true (8 * (0x4009E00 : BitVec 45).toNat) 0xFF 7)) ∧
  (nodeExists (0x5F : BitVec 8).toNat = true ∧
    nodeExists (5 : BitVec 8).toNat = true ∧
    activeRoute up (0x5F : BitVec 8).toNat (5 : BitVec 8).toNat = route 0x5F 5 ∧
    (route 0x5F 5).testBit 34 = true) :=
  ⟨⟨by decide +kernel, by decide +kernel, ⟨by decide +kernel, by decide +kernel, by decide +kernel, by decide +kernel, by decide +kernel⟩⟩,
    ⟨by decide +kernel, by decide +kernel, by decide +kernel, by decide +kernel⟩⟩

/-- One packet in flight from node 5, `hops` of its way done, at router r under a heading. -/
def fly (d : Nat) (r heading hop : Nat) (s : State := up) (ent : Bool := true) : State :=
  { s with net := [{ pkt 0 5 d (.req (memReq (req false top 3))) with router := r, heading := heading, hop := hop, entered := ent }] }
/-- The packet in flight. -/
def flyP (s : State) : Packet := s.net.getD 0 (pkt 0 5 5 .ack)
def flying : State := fly 0x7F (nodeRouter 5) (route 5 0x7F / 2 ^ 32 % 4) 0
/-- Where it goes next. -/
def nextHop : Nat × Nat := match hopAct flying (flyP flying).router (flyP flying).heading (flyP flying).turns 0 (flyP flying).dest with | .leave h r => (h, r) | _ => (9, 99)
/-- It has not entered its first router. -/
def entering : State := fly 0x7F (nodeRouter 5) (route 5 0x7F / 2 ^ 32 % 4) 0 up false
/-- Requests of node 5 to node 0x7F hold all its credits. -/
def busyTgt : State := { up with outst := (List.range 32).map fun k => waits up 5 0x7F (4 + k) (route 5 0x7F) (.req (memReq (req false top 3))) }
def badPort : Nat := match hopAct (fly 5 0 0 0) (flyP (fly 5 0 0 0)).router (flyP (fly 5 0 0 0)).heading (flyP (fly 5 0 0 0)).turns 0 (flyP (fly 5 0 0 0)).dest with | .fail k => k | _ => 9
def blocked : State := setF (fROUTER_STAT_BUSY nextHop.2) 1 flying
/-- Packet p has been ejected at its node, and node 5 has request 3 outstanding. -/
def got (p : Packet) (s : State := up) : State := { s with eject := [p] }
def await3 (g : Outst → Outst := id) (s : State := up) : State :=
  { s with outst := [g (waits up 5 0x7F 3 (route 5 0x7F) (.req (memReq (req true top 3))))] }
def rspP (st : Nat) (has : Bool) : Packet := pkt 1 0x7F 5 (.rsp st has 0)
def reqP (wr : Bool) : Packet := pkt 0 5 0x7F (.req { memReq (req wr top 3) with data := [] })
def DE : DatErr := ⟨0, 0⟩
def served0 : Resp × State := serveMem .staging 0x7F 5 false top ((memReq (req false top 3)).en) [] (accepted 5 3 (got (reqP false)))
/-- The staging quarter of node 0x7F is not in Run. -/
def darkQ : State := setF (fPWR_DOM_STATE (nodeDom 0x7F)) 2 up
def mgP : Packet := pkt 3 0xA8 0xAB (.mgmt 0x80 true 0x20044000 0xFF 7)
def mrP : Packet := pkt 3 0x7F 5 (.mrsp 0 0x0123456789ABCDEF)
def ivP : Packet := pkt 3 0x5F 5 (.inv 0 0)
/-- The start message of a LAUNCH at sequencer 5. -/
def startS : State := let j := job 1 [1 + 5 * 2 ^ 16] fun j => { j with phase := .running }; { desc j ready5 with outst := [waits up 0xA8 5 0 (route 0xA8 5) (.start 9)] }
def stP : Packet := pkt 0 0xA8 5 (.start 9)
def akP : Packet := pkt 3 5 0x5F .ack
def halfP : Packet := pkt 2 5 0x7F (.dat [1, 2] 0 true)
def halfS : State := { up with halves := [(0, halfP)] }

theorem meets_PacketsEnterAndHop_3 :
  (Moves (fly 5 (nodeRouter 5) (route 5 5 / 2 ^ 32 % 4) 0) 0 (flyP (fly 5 (nodeRouter 5) (route 5 5 / 2 ^ 32 % 4) 0)) true ∧
    hopAct (fly 5 (nodeRouter 5) (route 5 5 / 2 ^ 32 % 4) 0) (flyP (fly 5 (nodeRouter 5) (route 5 5 / 2 ^ 32 % 4) 0)).router (flyP (fly 5 (nodeRouter 5) (route 5 5 / 2 ^ 32 % 4) 0)).heading (flyP (fly 5 (nodeRouter 5) (route 5 5 / 2 ^ 32 % 4) 0)).turns (flyP (fly 5 (nodeRouter 5) (route 5 5 / 2 ^ 32 % 4) 0)).hop (flyP (fly 5 (nodeRouter 5) (route 5 5 / 2 ^ 32 % 4) 0)).dest = .deliver ∧
    behind (State.net (fly 5 (nodeRouter 5) (route 5 5 / 2 ^ 32 % 4) 0)) (0 : BitVec 16).toNat true (flyP (fly 5 (nodeRouter 5) (route 5 5 / 2 ^ 32 % 4) 0)) = false ∧
    hisTurn (fly 5 (nodeRouter 5) (route 5 5 / 2 ^ 32 % 4) 0) (0 : BitVec 16).toNat (4 + (flyP (fly 5 (nodeRouter 5) (route 5 5 / 2 ^ 32 % 4) 0)).dest) (flyP (fly 5 (nodeRouter 5) (route 5 5 / 2 ^ 32 % 4) 0)) = true) ∧
  (Moves (fly 5 0 0 0) 0 (flyP (fly 5 0 0 0)) true ∧
    hopAct (fly 5 0 0 0) (flyP (fly 5 0 0 0)).router (flyP (fly 5 0 0 0)).heading (flyP (fly 5 0 0 0)).turns (flyP (fly 5 0 0 0)).hop (flyP (fly 5 0 0 0)).dest = .fail badPort) ∧
  (Moves entering 0 (flyP entering) false ∧
    behind (State.net entering) (0 : BitVec 16).toNat false (flyP entering) = false ∧
    getF entering (fROUTER_STAT_BUSY (Packet.router (flyP entering))) = 0 ∧
    hasRoom entering (Packet.router (flyP entering)) 4 (flyP entering) = true ∧
    (3 : Fin 5).val < 4) ∧
  (Moves entering 0 (flyP entering) false ∧
    behind (State.net entering) (0 : BitVec 16).toNat false (flyP entering) = false ∧
    getF entering (fROUTER_STAT_BUSY (Packet.router (flyP entering))) = 0 ∧
    hasRoom entering (Packet.router (flyP entering)) 4 (flyP entering) = true ∧
    (4 : Fin 5).val = 4) :=
  ⟨⟨⟨by decide +kernel, by decide +kernel, by decide +kernel⟩, by decide +kernel, by decide +kernel, by decide +kernel⟩,
    ⟨⟨by decide +kernel, by decide +kernel, by decide +kernel⟩, by decide +kernel⟩,
    ⟨⟨by decide +kernel, by decide +kernel, by decide +kernel⟩, by decide +kernel, by decide +kernel, by decide +kernel, by decide +kernel⟩,
    ⟨⟨by decide +kernel, by decide +kernel, by decide +kernel⟩, by decide +kernel, by decide +kernel, by decide +kernel, by decide +kernel⟩⟩
theorem meets_PacketsEnterAndHop_4 :
  (Moves flying 0 (flyP flying) true ∧
    hopAct flying (flyP flying).router (flyP flying).heading (flyP flying).turns (flyP flying).hop (flyP flying).dest = .leave nextHop.1 nextHop.2 ∧
    getF flying (fROUTER_STAT_BUSY nextHop.2) = 0 ∧
    hasRoom flying nextHop.2 ((nextHop.1 + 2) % 4) (flyP flying) = true ∧
    behind (State.net flying) (0 : BitVec 16).toNat false (flyP flying) = false ∧
    hisTurn flying (0 : BitVec 16).toNat nextHop.1 (flyP flying) = true ∧
    (3 : Fin 5).val < 4) ∧
  (Moves flying 0 (flyP flying) true ∧
    hopAct flying (flyP flying).router (flyP flying).heading (flyP flying).turns (flyP flying).hop (flyP flying).dest = .leave nextHop.1 nextHop.2 ∧
    getF flying (fROUTER_STAT_BUSY nextHop.2) = 0 ∧
    hasRoom flying nextHop.2 ((nextHop.1 + 2) % 4) (flyP flying) = true ∧
    behind (State.net flying) (0 : BitVec 16).toNat false (flyP flying) = false ∧
    hisTurn flying (0 : BitVec 16).toNat nextHop.1 (flyP flying) = true ∧
    (4 : Fin 5).val = 4) ∧
  (Moves blocked 0 (flyP blocked) true ∧
    hopAct blocked (flyP blocked).router (flyP blocked).heading (flyP blocked).turns (flyP blocked).hop (flyP blocked).dest = .leave nextHop.1 nextHop.2 ∧
    (getF blocked (fROUTER_STAT_BUSY nextHop.2) = 1 ∨ hasRoom blocked nextHop.2 ((nextHop.1 + 2) % 4) (flyP blocked) = false)) ∧
  (up.net = [] ∧
    up.niWait = [] ∧
    getF up fNOC_CTL_ACTIVE = (0 : Fin 2).val) :=
  ⟨⟨⟨by decide +kernel, by decide +kernel, by decide +kernel⟩, by decide +kernel, by decide +kernel, by decide +kernel, by decide +kernel, by decide +kernel, by decide +kernel⟩,
    ⟨⟨by decide +kernel, by decide +kernel, by decide +kernel⟩, by decide +kernel, by decide +kernel, by decide +kernel, by decide +kernel, by decide +kernel, by decide +kernel⟩,
    ⟨⟨by decide +kernel, by decide +kernel, by decide +kernel⟩, by decide +kernel, by decide +kernel⟩,
    ⟨by decide +kernel, by decide +kernel, by decide +kernel⟩⟩
theorem meets_PacketsEnterAndHop_5 :
  (locate (lineAddr (req false top)) = some (.staging, 0x7F) ∧
    Region.staging ≠ .regs ∧
    nodeExists (LineReq.node (req false top)).toNat = true ∧
    tidTaken busyTgt (LineReq.node (req false top)).toNat (LineReq.tid (req false top)).toNat = false ∧
    mayInject busyTgt ⟨(LineReq.node (req false top)).toNat, 0x7F, (LineReq.tid (req false top)).toNat, .req (memReq (req false top))⟩ = false) :=
  ⟨by decide +kernel, by decide +kernel, by decide +kernel, by decide +kernel, by decide +kernel⟩
/-- States that meet the hypotheses of PacketsActAtTheirNode. -/
theorem meets_PacketsActAtTheirNode :
  (Ejects (got (reqP false)) 0 (reqP false) ∧
    (reqP false).bad = false ∧
    domOpen (got (reqP false)) (nodeDom 0x7F) = true ∧
    (∃ k, locate top = some (.staging, k)) ∧
    serveMem .staging (reqP false).dest 5 false top (memReq (req false top 3)).en [] (accepted 5 3 (got (reqP false))) = (.done 0 (match served0.1 with | .done _ d _ => d | _ => []) 0, served0.2)) ∧
  (Ejects (got (reqP false) darkQ) 0 (reqP false) ∧
    domOpen (got (reqP false) darkQ) (nodeDom 0x7F) = false ∧
    getF (got (reqP false) darkQ) (fPWR_DOM_FAULT (nodeDom 0x7F)) = 0 ∧
    (getDom (got (reqP false) darkQ) (nodeDom 0x7F)).anch.length < 8 ∧
    (getDom (got (reqP false) darkQ) (nodeDom 0x7F)).trans = none ∧
    (getDom (got (reqP false) darkQ) (nodeDom 0x7F)).slot = none ∧
    (State.niWait (got (reqP false) darkQ)) = []) ∧
  (Ejects (got (reqP true) up) 0 (reqP true) ∧
    halfOf (got (reqP true) up) (reqP true) 2 = none) ∧
  (Ejects (got stP startS) 0 stP ∧
    stP.body = .start 9 ∧
    startDue (got stP startS) 9 = true ∧
    findJob (got stP startS) 9 = some (job 1 [1 + 5 * 2 ^ 16] fun j => { j with phase := .running })) :=
  ⟨⟨⟨by decide +kernel, by decide +kernel⟩, by decide +kernel, by decide +kernel, ⟨0x7F, by decide +kernel⟩, by decide +kernel⟩,
    ⟨⟨by decide +kernel, by decide +kernel⟩, by decide +kernel, by decide +kernel, by decide +kernel, by decide +kernel, by decide +kernel, by decide +kernel⟩,
    ⟨⟨by decide +kernel, by decide +kernel⟩, by decide +kernel⟩,
    ⟨⟨by decide +kernel, by decide +kernel⟩, by decide +kernel, by decide +kernel, by decide +kernel⟩⟩
theorem meets_PacketsActAtTheirNode_2 :
  (Ejects (got (rspP 0 false) await3) 0 (rspP 0 false) ∧
    outOf (got (rspP 0 false) await3) (rspP 0 false).dest (rspP 0 false).tid = some (waits up 5 0x7F 3 (route 5 0x7F) (.req (memReq (req true top 3)))) ∧
    ofBlock (waits up 5 0x7F 3 (route 5 0x7F) (.req (memReq (req true top 3)))) ∧
    (0 : Nat) ≠ 6 ∧ (0 : Nat) ≠ 7 ∧
    (State.niWait (got (rspP 0 false) await3)) = []) ∧
  (Ejects (got (rspP 6 false) await3) 0 (rspP 6 false) ∧
    outOf (got (rspP 6 false) await3) (rspP 6 false).dest (rspP 6 false).tid = some (waits up 5 0x7F 3 (route 5 0x7F) (.req (memReq (req true top 3)))) ∧
    (State.niWait (got (rspP 6 false) await3)) = []) ∧
  (Ejects (got (rspP 0 true) up) 0 (rspP 0 true) ∧
    outOf (got (rspP 0 true) up) (rspP 0 true).dest (rspP 0 true).tid = none) ∧
  Ejects (got mgP up) 0 mgP ∧
  (Ejects (got mrP await3) 0 mrP ∧
    outOf (got mrP await3) mrP.dest mrP.tid = some (waits up 5 0x7F 3 (route 5 0x7F) (.req (memReq (req true top 3)))) ∧
    ofBlock (waits up 5 0x7F 3 (route 5 0x7F) (.req (memReq (req true top 3)))) ∧
    (State.niWait (got mrP await3)) = []) ∧
  Ejects (got ivP cached) 0 ivP ∧
  Ejects (got akP acking) 0 akP :=
  ⟨⟨⟨by decide +kernel, by decide +kernel⟩, by decide +kernel, (by intro id h; cases h), by decide +kernel, by decide +kernel⟩,
    ⟨⟨by decide +kernel, by decide +kernel⟩, by decide +kernel, by decide +kernel⟩,
    ⟨⟨by decide +kernel, by decide +kernel⟩, by decide +kernel⟩,
    ⟨by decide +kernel, by decide +kernel⟩,
    ⟨⟨by decide +kernel, by decide +kernel⟩, by decide +kernel, (by intro id h; cases h), by decide +kernel⟩,
    ⟨by decide +kernel, by decide +kernel⟩,
    ⟨by decide +kernel, by decide +kernel⟩⟩
theorem meets_PacketsActAtTheirNode_3 :
  (outOf await3 (5 : BitVec 8).toNat (3 : BitVec 6).toNat = some (waits up 5 0x7F 3 (route 5 0x7F) (.req (memReq (req true top 3)))) ∧
    ofBlock (waits up 5 0x7F 3 (route 5 0x7F) (.req (memReq (req true top 3)))) ∧
    (State.niWait await3) = [] ∧
    getF await3 fNOC_TMO_TIMEOUT ≠ 0 ∧
    (waits up 5 0x7F 3 (route 5 0x7F) (.req (memReq (req true top 3)))).waiting = false) ∧
  (outOf (await3 fun o => { o with waiting := true, resends := 64 }) (5 : BitVec 8).toNat (3 : BitVec 6).toNat = some ({ waits up 5 0x7F 3 (route 5 0x7F) (.req (memReq (req true top 3))) with waiting := true, resends := 64 }) ∧
    ofBlock ({ waits up 5 0x7F 3 (route 5 0x7F) (.req (memReq (req true top 3))) with waiting := true, resends := 64 }) ∧
    (State.niWait (await3 fun o => { o with waiting := true, resends := 64 })) = [] ∧
    getF (await3 fun o => { o with waiting := true, resends := 64 }) fNOC_TMO_RETRY_LIM ≤ 64) ∧
  (outOf (await3 fun o => { o with waiting := true, resends := 63 }) (5 : BitVec 8).toNat (3 : BitVec 6).toNat = some ({ waits up 5 0x7F 3 (route 5 0x7F) (.req (memReq (req true top 3))) with waiting := true, resends := 63 }) ∧
    ofBlock ({ waits up 5 0x7F 3 (route 5 0x7F) (.req (memReq (req true top 3))) with waiting := true, resends := 63 }) ∧
    (State.niWait (await3 fun o => { o with waiting := true, resends := 63 })) = [] ∧
    63 < getF (await3 fun o => { o with waiting := true, resends := 63 }) fNOC_TMO_RETRY_LIM ∧
    (activeRoute (await3 fun o => { o with waiting := true, resends := 63 }) 5 0x7F).testBit 34 = true ∧
    (∀ y ∈ (State.outst (await3 fun o => { o with waiting := true, resends := 63 })), y.src = 5 → y.dest = 0x7F → y.tid = 3 ∨ y.route = activeRoute (await3 fun o => { o with waiting := true, resends := 63 }) 5 0x7F)) ∧
  (halfS.halves.find? (fun h => h.2.dest == (0x7F : BitVec 8).toNat && h.2.src == (5 : BitVec 8).toNat && h.2.tid == (3 : BitVec 6).toNat) = some (0, halfP) ∧
    getF halfS fNOC_TMO_TIMEOUT ≠ 0) :=
  ⟨⟨by decide +kernel, (by intro id h; cases h), by decide +kernel, by decide +kernel, by decide +kernel⟩,
    ⟨by decide +kernel, (by intro id h; cases h), by decide +kernel, by decide +kernel⟩,
    ⟨by decide +kernel, (by intro id h; cases h), by decide +kernel, by decide +kernel, by decide +kernel, by decide +kernel⟩,
    ⟨by decide +kernel, by decide +kernel⟩⟩
/-- States that meet the hypotheses of RoutesEpochsAndWindows. -/
theorem meets_RoutesEpochsAndWindows :
  (HostPath up 0x80 (0x500000 + 0x1000 * (0x7F : BitVec 8).toNat + 0x800 * (1 : Fin 2).val + 8 * (255 : BitVec 8).toNat) ∧
    nodeExists (0x7F : BitVec 8).toNat = true ∧
    getF up fNOC_CTL_SW_BUSY = 0 ∧
    getF up fNOC_CTL_ACTIVE ≠ (1 : Fin 2).val) ∧
  (HostPath up 0x80 (0x500000 + 0x1000 * (0x7F : BitVec 8).toNat + 0x800 * (0 : Fin 2).val + 8 * (255 : BitVec 8).toNat) ∧
    nodeExists (0x7F : BitVec 8).toNat = true ∧
    (getF up fNOC_CTL_SW_BUSY = 1 ∨ getF up fNOC_CTL_ACTIVE = (0 : Fin 2).val)) ∧
  (HostPath up 0x80 0x400000 ∧
    getF up fNOC_CTL_SW_BUSY = 0) ∧
  (HostPath (setF fNOC_CTL_SW_BUSY 1 up) 0x80 0x400000 ∧
    getF (setF fNOC_CTL_SW_BUSY 1 up) fNOC_CTL_SW_BUSY = 1) ∧
  (getF (setF fNOC_CTL_SW_BUSY 1 up) fNOC_CTL_SW_BUSY = 1 ∧
    State.niWait (setF fNOC_CTL_SW_BUSY 1 up) = []) ∧
  (HostPath up 0x80 (0x401000 + 16 * (39 : Fin 40).val) ∧
    (∀ k ∈ (39 : Fin 40).val :: neighbours (39 : Fin 40), getF up (fROUTER_STAT_BUSY k) = 0)) :=
  ⟨⟨⟨by decide +kernel, by decide +kernel⟩, by decide +kernel, by decide +kernel, by decide +kernel⟩,
    ⟨⟨by decide +kernel, by decide +kernel⟩, by decide +kernel, by decide +kernel⟩,
    ⟨⟨by decide +kernel, by decide +kernel⟩, by decide +kernel⟩,
    ⟨⟨by decide +kernel, by decide +kernel⟩, by decide +kernel⟩,
    by decide +kernel,
    ⟨⟨by decide +kernel, by decide +kernel⟩, by decide +kernel⟩⟩
theorem meets_RoutesEpochsAndWindows_2 :
  getF (setFs [(fROUTER_STAT_BUSY 9, 1), (fROUTER_CTL_PORT_EN 9, 5), (fROUTER_STAT_FAILED 9, 15)] up) (fROUTER_STAT_BUSY (9 : Fin 40)) = 1 :=
  by decide +kernel

/-- Link j in state st with its lanes in use and the flits fs received; `g` sets what a test needs beside them. -/
def lnk (j st : Nat) (fs : List Flit) (g : Link → Link := id) (s : State := up) : State :=
  updLink j (fun l => g { l with rxq := fs }) (setFs [(fLINK_STAT_STATE j, st), (fLINK_CTL_ENABLE j, 1),
    (fLANE_MAP_TX_ACT j, 2 ^ linkLanes j - 1), (fLANE_MAP_RX_ACT j, 2 ^ linkLanes j - 1)] s)
/-- CONTROL flits: IDENT of the expected peer and of another, NONCE, CERT, SIG. -/
def identF (x : Nat) : Flit := control 1 (x * 2 ^ 8 + 8 * 2 ^ 20)
/-- A codeword of 20 HALO flits on lane 23, its 5,440 bits, and those of a message of odd header parity. -/
def cwIn : Codeword := ⟨4095, false, 23, List.replicate 20 (mkFlit 1 7 false 0)⟩
def cwBits : BitVec 5440 := BitVec.ofNat 5440 (laneEncode 0 cwIn).1
def oddBits : BitVec 5440 := BitVec.ofNat 5440 (rsEncode (scramble 0 1))
theorem reads_cw : (laneDecode 0 0 cwBits.toNat).1 = some (cwIn, 0) := by
  rw [cwBits, laneDecode_laneEncode]
  decide +kernel
theorem reads_odd : (laneDecode 0 0 oddBits.toNat).1 = none := by
  rw [oddBits, toNat_rsEncode (scramble_lt 0 1), laneDecode_eq 0 0 (rsDecode_rsEncode (scramble_lt 0 1))]
  decide +kernel
/-- A certificate region, and a link in authentication whose own nonce has gone out. -/
def certs : List Byte := [1, 0, 0, 0, 2, 0, 0, 0, 3, 0, 0, 0, 0, 0, 0, 0] ++ List.replicate 48 7 ++ [1, 2] ++ [3, 4, 5]
def proving : State := { setFs [(fSEC_STAT_ID_OK, 1)] (lnk 9 5 [control 2 0] fun l => { l with own := ⟨0, [1], [], []⟩, far := ⟨0, List.replicate 26 0, [], []⟩ }) with flash := ⟨[], [], some certs, [], []⟩ }
def sigged (n st : Nat) : State := lnk 9 st [control 4 0] fun l => { l with far := ⟨0, [], [], List.replicate n 0⟩ }
/-- LL flits that acknowledge CWSEQ 1 and return a credit of channel 15; one NAKs CWSEQ 2. -/
def llF (nak : Nat) : Flit := mkFlit 6 0 false (1 + nak * (2 ^ 12 + 2 * 2 ^ 13) + 2 ^ (32 + 90) + 5 * 2 ^ 128)
def llS (nak : Nat) : State := lnk 7 6 [llF nak] fun l => { l with unacked := [⟨1, false, 0, []⟩, ⟨2, false, 0, []⟩, ⟨3, false, 0, []⟩] }
/-- The response of TID 3, and a request of TID 9. -/
def rspF : Flit := mkFlit 2 1 true (3 * 2 ^ 4)
def rqF : Flit := mkFlit 2 0 true (1 * 2 ^ 34 + 9 * 2 ^ 36)
/-- A request of TID 9 that reads the doubleword at 64 of the staging SRAM. -/
def rq64 : Flit := mkFlit 2 0 true (1 + 0 * 2 ^ 34 + 9 * 2 ^ 36 + 0xFF * 2 ^ 42)
def tin : State := setF (fLINK_CTL_TUN_IN 9) 1 (lnk 9 6 [rq64])
/-- Block 31 of strip 7, bound to channel 15, in a mode and with entries. -/
def halo7 (mode : Nat) (ages : List Nat) (s : State) : State :=
  updStrip 7 (fun x => { x with frames := [(31, BitVec.ofNat 512 (mode + 4 * 2 ^ 4 + 15 * 2 ^ 8))], rel := ((List.range 16).map fun r => (r, 4)), blocks := [(31, { Blk.reset with ages := ages, vis := ages.length })] })
    (setFs [(fFAB_STAT_LOADED 7, 0xFFFF), (fFAB_STAT_LOADING 7, 0)] s)
def hTx : State := halo7 5 [0] (lnk 7 6 [] fun l => { l with cred := [(15, 1)] })
def hF : Flit := mkFlit 1 15 false 9
def hRx : State := halo7 6 [] (lnk 7 6 [hF])

/-- States that meet the hypotheses of LinksComeUp. -/
theorem meets_LinksComeUp :
  (HostPath up 0x80 (linkReg (9 : Fin 10)) ∧
    getF up (fLINK_CTL_ENABLE (9 : Fin 10)) = 0) ∧
  (HostPath up 0x80 (linkReg (9 : Fin 10)) ∧
    getF up (fLINK_CTL_ENABLE (9 : Fin 10)) = 0) ∧
  (domRun (lnk 9 2 []) (linkDomain (9 : Fin 10)) = true ∧
    getF (lnk 9 2 []) (fLINK_CTL_MIN_LANES (9 : Fin 10)) ≤ popc 5 (flpLanes (lnk 9 2 []) (9 : Fin 10) 0xFFFF) ∧
    getF (lnk 9 2 []) (fLINK_CTL_MIN_LANES (9 : Fin 10)) ≤ popc 5 (flpLanes (lnk 9 2 []) (9 : Fin 10) 0xFFFF0000) ∧
    getF (lnk 9 2 []) (fLINK_STAT_STATE (9 : Fin 10)) = 2) ∧
  (domRun (lnk 9 3 []) (linkDomain (9 : Fin 10)) = true ∧
    getF (lnk 9 3 []) (fLINK_CTL_MIN_LANES (9 : Fin 10)) ≤ popc 5 (flpLanes (lnk 9 3 []) (9 : Fin 10) 0xFFFF) ∧
    getF (lnk 9 3 []) (fLINK_CTL_MIN_LANES (9 : Fin 10)) ≤ popc 5 (flpLanes (lnk 9 3 []) (9 : Fin 10) 0xFFFF0000) ∧
    getF (lnk 9 3 []) (fLINK_STAT_STATE (9 : Fin 10)) = 3) ∧
  (2 ≤ getF (lnk 9 2 []) (fLINK_STAT_STATE (9 : Fin 10)) ∧
    getF (lnk 9 2 []) (fLINK_STAT_STATE (9 : Fin 10)) ≤ 5) :=
  ⟨⟨⟨by decide +kernel, by decide +kernel⟩, by decide +kernel⟩,
    ⟨⟨by decide +kernel, by decide +kernel⟩, by decide +kernel⟩,
    ⟨by decide +kernel, by decide +kernel, by decide +kernel, by decide +kernel⟩,
    ⟨by decide +kernel, by decide +kernel, by decide +kernel, by decide +kernel⟩,
    ⟨by decide +kernel, by decide +kernel⟩⟩
theorem meets_LinksComeUp_2 :
  (2 ≤ getF (lnk 9 5 []) (fLINK_STAT_STATE (9 : Fin 10)) ∧
    getF (lnk 9 5 []) (fLINK_STAT_STATE (9 : Fin 10)) ≤ 5) ∧
  (getF (setF (fLINK_CTL_CHK_PEER 9) 0 (lnk 9 4 [identF 0])) (fLINK_STAT_STATE (9 : Fin 10)) = 4 ∧
    NextFlit (setF (fLINK_CTL_CHK_PEER 9) 0 (lnk 9 4 [identF 0])) (9 : Fin 10) 5 (identF 0) ∧
    pBits (identF 0) 0 8 = 1) ∧
  (getF (setF (fLINK_CTL_CHK_PEER 9) 1 (lnk 9 4 [identF 0])) (fLINK_STAT_STATE (9 : Fin 10)) = 4 ∧
    NextFlit (setF (fLINK_CTL_CHK_PEER 9) 1 (lnk 9 4 [identF 0])) (9 : Fin 10) 5 (identF 0) ∧
    pBits (identF 0) 0 8 = 1) ∧
  (getF (setF (fLINK_CTL_CHK_PEER 9) 0 (lnk 9 4 [identF 1])) (fLINK_STAT_STATE (9 : Fin 10)) = 4 ∧
    NextFlit (setF (fLINK_CTL_CHK_PEER 9) 0 (lnk 9 4 [identF 1])) (9 : Fin 10) 5 (identF 1) ∧
    pBits (identF 1) 0 8 = 1) ∧
  (getF (setF (fLINK_CTL_CHK_PEER 9) 1 (lnk 9 4 [identF 1])) (fLINK_STAT_STATE (9 : Fin 10)) = 4 ∧
    NextFlit (setF (fLINK_CTL_CHK_PEER 9) 1 (lnk 9 4 [identF 1])) (9 : Fin 10) 5 (identF 1) ∧
    pBits (identF 1) 0 8 = 1) :=
  ⟨⟨by decide +kernel, by decide +kernel⟩,
    ⟨by decide +kernel, by unfold NextFlit; decide +kernel, by decide +kernel⟩,
    ⟨by decide +kernel, by unfold NextFlit; decide +kernel, by decide +kernel⟩,
    ⟨by decide +kernel, by unfold NextFlit; decide +kernel, by decide +kernel⟩,
    ⟨by decide +kernel, by unfold NextFlit; decide +kernel, by decide +kernel⟩⟩
theorem meets_LinksComeUp_3 :
  (NextFlit proving (9 : Fin 10) 5 (control 2 0) ∧
    pBits (control 2 0) 0 8 = 2 ∧
    (getLink proving (9 : Fin 10)).far.nonce.length = 26 ∧
    (getF proving (fLINK_STAT_STATE (9 : Fin 10)) = 5 ∨ getF proving (fLINK_STAT_STATE (9 : Fin 10)) = 6) ∧
    (getLink proving (9 : Fin 10)).own.nonce ≠ [] ∧
    regionChain (certRegion proving) = some (List.replicate 48 7, [1, 2], [3, 4, 5]) ∧
    getF proving fSEC_STAT_ID_OK = 1 ∧
    getF proving fSEC_STAT_LODESTAR_OFF = 0) ∧
  (NextFlit (lnk 9 5 [control 2 0]) (9 : Fin 10) 5 (control 2 0) ∧
    pBits (control 2 0) 0 8 = 2 ∧
    (getLink (lnk 9 5 [control 2 0]) (9 : Fin 10)).far.nonce.length ≠ 26) ∧
  (NextFlit (lnk 9 5 [control 3 0]) (9 : Fin 10) 5 (control 3 0) ∧
    pBits (control 3 0) 0 8 = 3) ∧
  (NextFlit (sigged 52 5) (9 : Fin 10) 5 (control 4 0) ∧
    pBits (control 4 0) 0 8 = 4 ∧
    ((getLink (sigged 52 5) (9 : Fin 10)).far.sig.length ≠ 78 ∨ getF (sigged 52 5) (fLINK_STAT_STATE (9 : Fin 10)) ≠ 5)) ∧
  (NextFlit (sigged 78 6) (9 : Fin 10) 5 (control 4 0) ∧
    pBits (control 4 0) 0 8 = 4 ∧
    ((getLink (sigged 78 6) (9 : Fin 10)).far.sig.length ≠ 78 ∨ getF (sigged 78 6) (fLINK_STAT_STATE (9 : Fin 10)) ≠ 5)) ∧
  (NextFlit (sigged 78 5) (9 : Fin 10) 5 (control 4 0) ∧
    pBits (control 4 0) 0 8 = 4 ∧
    (getLink (sigged 78 5) (9 : Fin 10)).far.sig.length = 78 ∧
    getF (sigged 78 5) (fLINK_STAT_STATE (9 : Fin 10)) = 5) :=
  ⟨⟨by unfold NextFlit; decide +kernel, by decide +kernel, by decide +kernel, by decide +kernel, by decide +kernel, by decide +kernel, by decide +kernel, by decide +kernel⟩,
    ⟨by unfold NextFlit; decide +kernel, by decide +kernel, by decide +kernel⟩,
    ⟨by unfold NextFlit; decide +kernel, by decide +kernel⟩,
    ⟨by unfold NextFlit; decide +kernel, by decide +kernel, by decide +kernel⟩,
    ⟨by unfold NextFlit; decide +kernel, by decide +kernel, by decide +kernel⟩,
    ⟨by unfold NextFlit; decide +kernel, by decide +kernel, by decide +kernel, by decide +kernel⟩⟩
theorem meets_LinksComeUp_4 :
  (4 ≤ getF (lnk 9 4 []) (fLINK_STAT_STATE (9 : Fin 10)) ∧
    getF (lnk 9 4 []) (fLINK_STAT_STATE (9 : Fin 10)) ≤ 6) ∧
  (4 ≤ getF (lnk 9 6 []) (fLINK_STAT_STATE (9 : Fin 10)) ∧
    getF (lnk 9 6 []) (fLINK_STAT_STATE (9 : Fin 10)) ≤ 6) :=
  ⟨⟨by decide +kernel, by decide +kernel⟩,
    ⟨by decide +kernel, by decide +kernel⟩⟩
/-- States that meet the hypotheses of CodewordsAndLanes. -/
theorem meets_CodewordsAndLanes :
  (4 ≤ getF (lnk 7 4 [] fun l => { l with resend := [⟨4095, false, 3, []⟩] }) (fLINK_STAT_STATE (7 : Fin 10)) ∧
    getF (lnk 7 4 [] fun l => { l with resend := [⟨4095, false, 3, []⟩] }) (fLINK_STAT_STATE (7 : Fin 10)) ≤ 6 ∧
    getF (lnk 7 4 [] fun l => { l with resend := [⟨4095, false, 3, []⟩] }) (fLANE_MAP_TX_ACT (7 : Fin 10)) ≠ 0 ∧
    domRun (lnk 7 4 [] fun l => { l with resend := [⟨4095, false, 3, []⟩] }) (linkDomain (7 : Fin 10)) = true ∧
    (getDom (lnk 7 4 [] fun l => { l with resend := [⟨4095, false, 3, []⟩] }) (linkDomain (7 : Fin 10))).trans = none ∧
    (getLink (lnk 7 4 [] fun l => { l with resend := [⟨4095, false, 3, []⟩] }) (7 : Fin 10)).resend = [⟨4095, false, 3, []⟩]) ∧
  (4 ≤ getF (lnk 7 6 [] fun l => { l with txNext := 4095, txq := [control 1 0] }) (fLINK_STAT_STATE (7 : Fin 10)) ∧
    getF (lnk 7 6 [] fun l => { l with txNext := 4095, txq := [control 1 0] }) (fLINK_STAT_STATE (7 : Fin 10)) ≤ 6 ∧
    getF (lnk 7 6 [] fun l => { l with txNext := 4095, txq := [control 1 0] }) (fLANE_MAP_TX_ACT (7 : Fin 10)) ≠ 0 ∧
    domRun (lnk 7 6 [] fun l => { l with txNext := 4095, txq := [control 1 0] }) (linkDomain (7 : Fin 10)) = true ∧
    (getDom (lnk 7 6 [] fun l => { l with txNext := 4095, txq := [control 1 0] }) (linkDomain (7 : Fin 10))).trans = none ∧
    (getLink (lnk 7 6 [] fun l => { l with txNext := 4095, txq := [control 1 0] }) (7 : Fin 10)).resend = []) :=
  ⟨⟨by decide +kernel, by decide +kernel, by decide +kernel, by decide +kernel, by decide +kernel, by decide +kernel⟩,
    ⟨by decide +kernel, by decide +kernel, by decide +kernel, by decide +kernel, by decide +kernel, by decide +kernel⟩⟩
theorem meets_CodewordsAndLanes_2 :
  (4 ≤ getF (lnk 7 6 [] fun l => { l with txNext := 4094, txq := [control 1 0] }) (fLINK_STAT_STATE (7 : Fin 10)) ∧
    getF (lnk 7 6 [] fun l => { l with txNext := 4094, txq := [control 1 0] }) (fLINK_STAT_STATE (7 : Fin 10)) ≤ 6 ∧
    getF (lnk 7 6 [] fun l => { l with txNext := 4094, txq := [control 1 0] }) (fLANE_MAP_TX_ACT (7 : Fin 10)) ≠ 0 ∧
    domRun (lnk 7 6 [] fun l => { l with txNext := 4094, txq := [control 1 0] }) (linkDomain (7 : Fin 10)) = true ∧
    (getDom (lnk 7 6 [] fun l => { l with txNext := 4094, txq := [control 1 0] }) (linkDomain (7 : Fin 10))).trans = none ∧
    (getLink (lnk 7 6 [] fun l => { l with txNext := 4094, txq := [control 1 0] }) (7 : Fin 10)).resend = []) ∧
  (4 ≤ getF (lnk 7 6 [] fun l => { l with rxNext := 4095 }) (fLINK_STAT_STATE (7 : Fin 10)) ∧
    getF (lnk 7 6 [] fun l => { l with rxNext := 4095 }) (fLINK_STAT_STATE (7 : Fin 10)) ≤ 6 ∧
    (getF (lnk 7 6 [] fun l => { l with rxNext := 4095 }) (fLANE_MAP_RX_ACT (7 : Fin 10))).testBit (23 : Fin 32).val = true ∧
    (laneDecode (stampNow (lnk 7 6 [] fun l => { l with rxNext := 4095 })) (tget 0 (getLink (lnk 7 6 [] fun l => { l with rxNext := 4095 }) (7 : Fin 10)).dscr (23 : Fin 32)) cwBits.toNat).1 = some (cwIn, 0) ∧
    cwIn.seq = (getLink (lnk 7 6 [] fun l => { l with rxNext := 4095 }) (7 : Fin 10)).rxNext ∧
    (getLink (lnk 7 6 [] fun l => { l with rxNext := 4095 }) (7 : Fin 10)).ahead = []) :=
  ⟨⟨by decide +kernel, by decide +kernel, by decide +kernel, by decide +kernel, by decide +kernel, by decide +kernel⟩,
    ⟨by decide +kernel, by decide +kernel, by decide +kernel, (by rw [show stampNow (lnk 7 6 [] fun l => { l with rxNext := 4095 }) = 0 by decide +kernel, show tget 0 (getLink (lnk 7 6 [] fun l => { l with rxNext := 4095 }) (7 : Fin 10)).dscr (23 : Fin 32) = 0 by decide +kernel]; exact reads_cw), by decide +kernel, by decide +kernel⟩⟩
theorem meets_CodewordsAndLanes_3 :
  (1 : Nat) < 2 ^ 5140 ∧
  (4 ≤ getF (lnk 7 6 [] fun l => { l with rxNext := 4094 }) (fLINK_STAT_STATE (7 : Fin 10)) ∧
    getF (lnk 7 6 [] fun l => { l with rxNext := 4094 }) (fLINK_STAT_STATE (7 : Fin 10)) ≤ 6 ∧
    (getF (lnk 7 6 [] fun l => { l with rxNext := 4094 }) (fLANE_MAP_RX_ACT (7 : Fin 10))).testBit (23 : Fin 32).val = true ∧
    (laneDecode (stampNow (lnk 7 6 [] fun l => { l with rxNext := 4094 })) (tget 0 (getLink (lnk 7 6 [] fun l => { l with rxNext := 4094 }) (7 : Fin 10)).dscr (23 : Fin 32)) cwBits.toNat).1 = some (cwIn, 0) ∧
    1 = (cwIn.seq + 4096 - (getLink (lnk 7 6 [] fun l => { l with rxNext := 4094 }) (7 : Fin 10)).rxNext) % 4096 ∧
    0 < 1 ∧ 1 < 2048 ∧
    (getLink (lnk 7 6 [] fun l => { l with rxNext := 4094 }) (7 : Fin 10)).discard = false ∧
    1 < popc 5 (getF (lnk 7 6 [] fun l => { l with rxNext := 4094 }) (fLANE_MAP_RX_ACT (7 : Fin 10)))) ∧
  (4 ≤ getF (lnk 7 6 [] fun l => { l with rxNext := 2048 }) (fLINK_STAT_STATE (7 : Fin 10)) ∧
    getF (lnk 7 6 [] fun l => { l with rxNext := 2048 }) (fLINK_STAT_STATE (7 : Fin 10)) ≤ 6 ∧
    (getF (lnk 7 6 [] fun l => { l with rxNext := 2048 }) (fLANE_MAP_RX_ACT (7 : Fin 10))).testBit (23 : Fin 32).val = true ∧
    (laneDecode (stampNow (lnk 7 6 [] fun l => { l with rxNext := 2048 })) (tget 0 (getLink (lnk 7 6 [] fun l => { l with rxNext := 2048 }) (7 : Fin 10)).dscr (23 : Fin 32)) cwBits.toNat).1 = some (cwIn, 0) ∧
    2047 = (cwIn.seq + 4096 - (getLink (lnk 7 6 [] fun l => { l with rxNext := 2048 }) (7 : Fin 10)).rxNext) % 4096 ∧
    0 < 2047 ∧ 2047 < 2048 ∧
    (getLink (lnk 7 6 [] fun l => { l with rxNext := 2048 }) (7 : Fin 10)).discard = false ∧
    popc 5 (getF (lnk 7 6 [] fun l => { l with rxNext := 2048 }) (fLANE_MAP_RX_ACT (7 : Fin 10))) ≤ 2047) ∧
  (4 ≤ getF (setFs [(fLINK_CTL_CE_THR 7, 0), (fLINK_CTL_UE_THR 7, 0)] (lnk 7 6 [])) (fLINK_STAT_STATE (7 : Fin 10)) ∧
    getF (setFs [(fLINK_CTL_CE_THR 7, 0), (fLINK_CTL_UE_THR 7, 0)] (lnk 7 6 [])) (fLINK_STAT_STATE (7 : Fin 10)) ≤ 6 ∧
    (getF (setFs [(fLINK_CTL_CE_THR 7, 0), (fLINK_CTL_UE_THR 7, 0)] (lnk 7 6 [])) (fLANE_MAP_RX_ACT (7 : Fin 10))).testBit (23 : Fin 32).val = true ∧
    (laneDecode (stampNow (setFs [(fLINK_CTL_CE_THR 7, 0), (fLINK_CTL_UE_THR 7, 0)] (lnk 7 6 []))) (tget 0 (getLink (setFs [(fLINK_CTL_CE_THR 7, 0), (fLINK_CTL_UE_THR 7, 0)] (lnk 7 6 [])) (7 : Fin 10)).dscr (23 : Fin 32)) oddBits.toNat).1 = none ∧
    getF (setFs [(fLINK_CTL_CE_THR 7, 0), (fLINK_CTL_UE_THR 7, 0)] (lnk 7 6 [])) (fLINK_CTL_CE_THR (7 : Fin 10)) = 0 ∧
    getF (setFs [(fLINK_CTL_CE_THR 7, 0), (fLINK_CTL_UE_THR 7, 0)] (lnk 7 6 [])) (fLINK_CTL_UE_THR (7 : Fin 10)) = 0) ∧
  (NextFlit (llS 0) (7 : Fin 10) 6 (llF 0) ∧
    pBits (llF 0) 144 32 = 0 ∧
    pBits (llF 0) 220 1 = 0 ∧
    pBits (llF 0) 12 1 = 0) :=
  ⟨by decide +kernel,
    ⟨by decide +kernel, by decide +kernel, by decide +kernel, (by rw [show stampNow (lnk 7 6 [] fun l => { l with rxNext := 4094 }) = 0 by decide +kernel, show tget 0 (getLink (lnk 7 6 [] fun l => { l with rxNext := 4094 }) (7 : Fin 10)).dscr (23 : Fin 32) = 0 by decide +kernel]; exact reads_cw), by decide +kernel, by decide +kernel, by decide +kernel, by decide +kernel⟩,
    ⟨by decide +kernel, by decide +kernel, by decide +kernel, (by rw [show stampNow (lnk 7 6 [] fun l => { l with rxNext := 2048 }) = 0 by decide +kernel, show tget 0 (getLink (lnk 7 6 [] fun l => { l with rxNext := 2048 }) (7 : Fin 10)).dscr (23 : Fin 32) = 0 by decide +kernel]; exact reads_cw), by decide +kernel, by decide +kernel, by decide +kernel, by decide +kernel⟩,
    ⟨by decide +kernel, by decide +kernel, by decide +kernel, (by rw [show stampNow (setFs [(fLINK_CTL_CE_THR 7, 0), (fLINK_CTL_UE_THR 7, 0)] (lnk 7 6 [])) = 0 by decide +kernel, show tget 0 (getLink (setFs [(fLINK_CTL_CE_THR 7, 0), (fLINK_CTL_UE_THR 7, 0)] (lnk 7 6 [])) (7 : Fin 10)).dscr (23 : Fin 32) = 0 by decide +kernel]; exact reads_odd), by decide +kernel, by decide +kernel⟩,
    ⟨by unfold NextFlit; decide +kernel, by decide +kernel, by decide +kernel, by decide +kernel⟩⟩
theorem meets_CodewordsAndLanes_4 :
  (NextFlit (llS 1) (7 : Fin 10) 6 (llF 1) ∧
    pBits (llF 1) 144 32 = 0 ∧
    pBits (llF 1) 220 1 = 0 ∧
    pBits (llF 1) 12 1 = 1 ∧
    (getLink (llS 1) (7 : Fin 10)).naks = 0) ∧
  getF (lnk 7 6 []) (fLINK_STAT_STATE (7 : Fin 10)) = 6 ∧
  ((23 : Fin 32).val < linkLanes (7 : Fin 10) ∧
    (getF (setF (fLINK_CTL_AUTO_RT 7) 0 (lnk 7 6 [])) (fLANE_MAP_RX_ACT (7 : Fin 10))).testBit (23 : Fin 32).val = true ∧
    getF (setF (fLINK_CTL_AUTO_RT 7) 0 (lnk 7 6 [])) (fLINK_CTL_AUTO_RT (7 : Fin 10)) = 0 ∧
    getF (setF (fLINK_CTL_AUTO_RT 7) 0 (lnk 7 6 [])) (fLINK_CTL_MIN_LANES (7 : Fin 10)) ≤ popc 5 (getF (setF (fLINK_CTL_AUTO_RT 7) 0 (lnk 7 6 [])) (fLANE_MAP_RX_ACT (7 : Fin 10)) - 2 ^ (23 : Fin 32).val)) :=
  ⟨⟨by unfold NextFlit; decide +kernel, by decide +kernel, by decide +kernel, by decide +kernel, by decide +kernel⟩,
    by decide +kernel,
    ⟨by decide +kernel, by decide +kernel, by decide +kernel, by decide +kernel⟩⟩
theorem meets_CodewordsAndLanes_5 :
  ((23 : Fin 32).val < linkLanes (7 : Fin 10) ∧
    (getF (setF (fLINK_CTL_AUTO_RT 7) 0 (lnk 7 6 [])) (fLANE_MAP_RX_ACT (7 : Fin 10))).testBit (23 : Fin 32).val = true ∧
    getF (setF (fLINK_CTL_AUTO_RT 7) 0 (lnk 7 6 [])) (fLINK_CTL_AUTO_RT (7 : Fin 10)) = 0 ∧
    getF (setF (fLINK_CTL_AUTO_RT 7) 0 (lnk 7 6 [])) (fLINK_CTL_MIN_LANES (7 : Fin 10)) ≤ popc 5 (getF (setF (fLINK_CTL_AUTO_RT 7) 0 (lnk 7 6 [])) (fLANE_MAP_RX_ACT (7 : Fin 10)) - 2 ^ (23 : Fin 32).val) ∧
    HostPath (setF (fLINK_CTL_AUTO_RT 7) 0 (lnk 7 6 [])) 0x80 (linkReg (7 : Fin 10) + 0x20)) ∧
  ((23 : Fin 32).val < linkLanes (7 : Fin 10) ∧
    getF (setFs [(fLANE_MAP_RX_ACT 7, 2 ^ 23 - 1), (fLANE_MAP_TX_ACT 7, 2 ^ 23 - 1)] (lnk 7 6 [control 7 (23 * 2 ^ 8)])) (fLINK_STAT_STATE (7 : Fin 10)) = 6 ∧
    (getLink (setFs [(fLANE_MAP_RX_ACT 7, 2 ^ 23 - 1), (fLANE_MAP_TX_ACT 7, 2 ^ 23 - 1)] (lnk 7 6 [control 7 (23 * 2 ^ 8)])) (7 : Fin 10)).rt.testBit (23 : Fin 32).val = false ∧
    (getF (setFs [(fLANE_MAP_RX_ACT 7, 2 ^ 23 - 1), (fLANE_MAP_TX_ACT 7, 2 ^ 23 - 1)] (lnk 7 6 [control 7 (23 * 2 ^ 8)])) (fLANE_MAP_RX_ACT (7 : Fin 10))).testBit (23 : Fin 32).val = false ∧
    (getF (setFs [(fLANE_MAP_RX_ACT 7, 2 ^ 23 - 1), (fLANE_MAP_TX_ACT 7, 2 ^ 23 - 1)] (lnk 7 6 [control 7 (23 * 2 ^ 8)])) (fLANE_MAP_TX_ACT (7 : Fin 10))).testBit (23 : Fin 32).val = false ∧
    getF (setFs [(fLANE_MAP_RX_ACT 7, 2 ^ 23 - 1), (fLANE_MAP_TX_ACT 7, 2 ^ 23 - 1)] (lnk 7 6 [control 7 (23 * 2 ^ 8)])) (fLINK_CTL_MIN_LANES (7 : Fin 10)) ≤ popc 5 (getF (setFs [(fLANE_MAP_RX_ACT 7, 2 ^ 23 - 1), (fLANE_MAP_TX_ACT 7, 2 ^ 23 - 1)] (lnk 7 6 [control 7 (23 * 2 ^ 8)])) (fLANE_MAP_RX_ACT (7 : Fin 10))) ∧
    getF (setFs [(fLANE_MAP_RX_ACT 7, 2 ^ 23 - 1), (fLANE_MAP_TX_ACT 7, 2 ^ 23 - 1)] (lnk 7 6 [control 7 (23 * 2 ^ 8)])) (fLINK_CTL_MIN_LANES (7 : Fin 10)) ≤ popc 5 (getF (setFs [(fLANE_MAP_RX_ACT 7, 2 ^ 23 - 1), (fLANE_MAP_TX_ACT 7, 2 ^ 23 - 1)] (lnk 7 6 [control 7 (23 * 2 ^ 8)])) (fLANE_MAP_TX_ACT (7 : Fin 10))) ∧
    HostPath (setFs [(fLANE_MAP_RX_ACT 7, 2 ^ 23 - 1), (fLANE_MAP_TX_ACT 7, 2 ^ 23 - 1)] (lnk 7 6 [control 7 (23 * 2 ^ 8)])) 0x80 (linkReg (7 : Fin 10) + 0x20) ∧
    (flpMask (setFs [(fLANE_MAP_RX_ACT 7, 2 ^ 23 - 1), (fLANE_MAP_TX_ACT 7, 2 ^ 23 - 1)] (lnk 7 6 [control 7 (23 * 2 ^ 8)])) (7 : Fin 10)).testBit (23 : Fin 32).val = true) :=
  ⟨⟨by decide +kernel, by decide +kernel, by decide +kernel, by decide +kernel, ⟨by decide +kernel, by decide +kernel⟩⟩,
    ⟨by decide +kernel, by decide +kernel, by decide +kernel, by decide +kernel, by decide +kernel, by decide +kernel, by decide +kernel, ⟨by decide +kernel, by decide +kernel⟩, by decide +kernel⟩⟩
theorem meets_CodewordsAndLanes_6 :
  ((23 : Fin 32).val < linkLanes (7 : Fin 10) ∧
    getF (setFs [(fLANE_MAP_RX_ACT 7, 2 ^ 23 - 1), (fLANE_MAP_TX_ACT 7, 2 ^ 23 - 1)] (lnk 7 6 [control 7 (23 * 2 ^ 8)])) (fLINK_STAT_STATE (7 : Fin 10)) = 6 ∧
    (getLink (setFs [(fLANE_MAP_RX_ACT 7, 2 ^ 23 - 1), (fLANE_MAP_TX_ACT 7, 2 ^ 23 - 1)] (lnk 7 6 [control 7 (23 * 2 ^ 8)])) (7 : Fin 10)).rt.testBit (23 : Fin 32).val = false ∧
    (getF (setFs [(fLANE_MAP_RX_ACT 7, 2 ^ 23 - 1), (fLANE_MAP_TX_ACT 7, 2 ^ 23 - 1)] (lnk 7 6 [control 7 (23 * 2 ^ 8)])) (fLANE_MAP_RX_ACT (7 : Fin 10))).testBit (23 : Fin 32).val = false ∧
    (getF (setFs [(fLANE_MAP_RX_ACT 7, 2 ^ 23 - 1), (fLANE_MAP_TX_ACT 7, 2 ^ 23 - 1)] (lnk 7 6 [control 7 (23 * 2 ^ 8)])) (fLANE_MAP_TX_ACT (7 : Fin 10))).testBit (23 : Fin 32).val = false ∧
    getF (setFs [(fLANE_MAP_RX_ACT 7, 2 ^ 23 - 1), (fLANE_MAP_TX_ACT 7, 2 ^ 23 - 1)] (lnk 7 6 [control 7 (23 * 2 ^ 8)])) (fLINK_CTL_MIN_LANES (7 : Fin 10)) ≤ popc 5 (getF (setFs [(fLANE_MAP_RX_ACT 7, 2 ^ 23 - 1), (fLANE_MAP_TX_ACT 7, 2 ^ 23 - 1)] (lnk 7 6 [control 7 (23 * 2 ^ 8)])) (fLANE_MAP_RX_ACT (7 : Fin 10))) ∧
    getF (setFs [(fLANE_MAP_RX_ACT 7, 2 ^ 23 - 1), (fLANE_MAP_TX_ACT 7, 2 ^ 23 - 1)] (lnk 7 6 [control 7 (23 * 2 ^ 8)])) (fLINK_CTL_MIN_LANES (7 : Fin 10)) ≤ popc 5 (getF (setFs [(fLANE_MAP_RX_ACT 7, 2 ^ 23 - 1), (fLANE_MAP_TX_ACT 7, 2 ^ 23 - 1)] (lnk 7 6 [control 7 (23 * 2 ^ 8)])) (fLANE_MAP_TX_ACT (7 : Fin 10))) ∧
    NextFlit (setFs [(fLANE_MAP_RX_ACT 7, 2 ^ 23 - 1), (fLANE_MAP_TX_ACT 7, 2 ^ 23 - 1)] (lnk 7 6 [control 7 (23 * 2 ^ 8)])) (7 : Fin 10) 5 (control 7 (23 * 2 ^ 8)) ∧
    pBits (control 7 (23 * 2 ^ 8)) 0 8 = 7 ∧
    ownLane (setFs [(fLANE_MAP_RX_ACT 7, 2 ^ 23 - 1), (fLANE_MAP_TX_ACT 7, 2 ^ 23 - 1)] (lnk 7 6 [control 7 (23 * 2 ^ 8)])) (7 : Fin 10) (pBits (control 7 (23 * 2 ^ 8)) 8 5) = (23 : Fin 32).val ∧
    getF (setFs [(fLANE_MAP_RX_ACT 7, 2 ^ 23 - 1), (fLANE_MAP_TX_ACT 7, 2 ^ 23 - 1)] (lnk 7 6 [control 7 (23 * 2 ^ 8)])) (fLANE_ERR_DEAD (7 : Fin 10) (23 : Fin 32)) = 0) ∧
  ((getLink (setF (fLANE_ERR_TRIES 7 23) 0 (lnk 7 6 [control 8 (23 * 2 ^ 8)] fun l => { l with rt := 2 ^ 23 })) (7 : Fin 10)).rt.testBit (23 : Fin 32).val = true ∧
    (getLink (setF (fLANE_ERR_TRIES 7 23) 0 (lnk 7 6 [control 8 (23 * 2 ^ 8)] fun l => { l with rt := 2 ^ 23 })) (7 : Fin 10)).rtSent.testBit (23 : Fin 32).val = false ∧
    (getLink (setF (fLANE_ERR_TRIES 7 23) 0 (lnk 7 6 [control 8 (23 * 2 ^ 8)] fun l => { l with rt := 2 ^ 23 })) (7 : Fin 10)).rtRecv.testBit (23 : Fin 32).val = false) ∧
  ((getLink (setF (fLANE_ERR_TRIES 7 23) 0 (lnk 7 6 [control 8 (23 * 2 ^ 8)] fun l => { l with rt := 2 ^ 23, rtSent := 2 ^ 23 })) (7 : Fin 10)).rt.testBit (23 : Fin 32).val = true ∧
    NextFlit (setF (fLANE_ERR_TRIES 7 23) 0 (lnk 7 6 [control 8 (23 * 2 ^ 8)] fun l => { l with rt := 2 ^ 23, rtSent := 2 ^ 23 })) (7 : Fin 10) 5 (control 8 (23 * 2 ^ 8)) ∧
    pBits (control 8 (23 * 2 ^ 8)) 0 8 = 8 ∧
    ownLane (setF (fLANE_ERR_TRIES 7 23) 0 (lnk 7 6 [control 8 (23 * 2 ^ 8)] fun l => { l with rt := 2 ^ 23, rtSent := 2 ^ 23 })) (7 : Fin 10) (pBits (control 8 (23 * 2 ^ 8)) 8 5) = (23 : Fin 32).val ∧
    (getLink (setF (fLANE_ERR_TRIES 7 23) 0 (lnk 7 6 [control 8 (23 * 2 ^ 8)] fun l => { l with rt := 2 ^ 23, rtSent := 2 ^ 23 })) (7 : Fin 10)).rtSent.testBit (23 : Fin 32).val = true) ∧
  ((getLink (setF (fLANE_ERR_TRIES 7 23) 1 (lnk 7 6 [control 8 (23 * 2 ^ 8)] fun l => { l with rt := 2 ^ 23 })) (7 : Fin 10)).rt.testBit (23 : Fin 32).val = true ∧
    getF (setF (fLANE_ERR_TRIES 7 23) 1 (lnk 7 6 [control 8 (23 * 2 ^ 8)] fun l => { l with rt := 2 ^ 23 })) (fLANE_ERR_TRIES (7 : Fin 10) (23 : Fin 32)) < 2) ∧
  ((getLink (setF (fLANE_ERR_TRIES 7 23) 2 (lnk 7 6 [control 8 (23 * 2 ^ 8)] fun l => { l with rt := 2 ^ 23 })) (7 : Fin 10)).rt.testBit (23 : Fin 32).val = true ∧
    2 ≤ getF (setF (fLANE_ERR_TRIES 7 23) 2 (lnk 7 6 [control 8 (23 * 2 ^ 8)] fun l => { l with rt := 2 ^ 23 })) (fLANE_ERR_TRIES (7 : Fin 10) (23 : Fin 32))) :=
  ⟨⟨by decide +kernel, by decide +kernel, by decide +kernel, by decide +kernel, by decide +kernel, by decide +kernel, by decide +kernel, by unfold NextFlit; decide +kernel, by decide +kernel, by decide +kernel, by decide +kernel⟩,
    ⟨by decide +kernel, by decide +kernel, by decide +kernel⟩,
    ⟨by decide +kernel, by unfold NextFlit; decide +kernel, by decide +kernel, by decide +kernel, by decide +kernel⟩,
    ⟨by decide +kernel, by decide +kernel⟩,
    ⟨by decide +kernel, by decide +kernel⟩⟩
theorem meets_CodewordsAndLanes_7 :
  (HostPath up 0x80 (linkReg (7 : Fin 10) + 0x28) ∧
    (7 : Fin 10).val < 8 ∧
    getF up (fLINK_CTL_ENABLE (7 : Fin 10)) = 0) ∧
  (HostPath (lnk 7 6 []) 0x80 (linkReg (7 : Fin 10) + 0x28) ∧
    (7 : Fin 10).val < 8 ∧
    getF (lnk 7 6 []) (fLINK_CTL_ENABLE (7 : Fin 10)) = 1) ∧
  (HostPath up 0x80 (linkReg (8 : Fin 10) + 0x28) ∧
    8 ≤ (8 : Fin 10).val) :=
  ⟨⟨⟨by decide +kernel, by decide +kernel⟩, by decide +kernel, by decide +kernel⟩,
    ⟨⟨by decide +kernel, by decide +kernel⟩, by decide +kernel, by decide +kernel⟩,
    ⟨⟨by decide +kernel, by decide +kernel⟩, by decide +kernel⟩⟩
/-- States that meet the hypotheses of TunnelsHalosAndParking. -/
theorem meets_TunnelsHalosAndParking :
  (HostPath (lnk 9 6 [] fun l => { l with tunQ := List.replicate 8 ⟨0, 0, 0, false, false⟩ }) 0x80 (linkReg (9 : Fin 10) + 0x210) ∧
    8 ≤ (getLink (lnk 9 6 [] fun l => { l with tunQ := List.replicate 8 ⟨0, 0, 0, false, false⟩ }) (9 : Fin 10)).tunQ.length) ∧
  (HostPath (lnk 9 6 [] fun l => { l with tunQ := List.replicate 7 ⟨0, 0, 0, false, false⟩ }) 0x80 (linkReg (9 : Fin 10) + 0x210) ∧
    (getLink (lnk 9 6 [] fun l => { l with tunQ := List.replicate 7 ⟨0, 0, 0, false, false⟩ }) (9 : Fin 10)).tunQ.length < 8) ∧
  (domRun (lnk 9 6 [] fun l => { l with tunQ := [⟨0, 0, 0, false, false⟩] }) (linkDomain (9 : Fin 10)) = true ∧
    (getLink (lnk 9 6 [] fun l => { l with tunQ := [⟨0, 0, 0, false, false⟩] }) (9 : Fin 10)).tun = none ∧
    (getLink (lnk 9 6 [] fun l => { l with tunQ := [⟨0, 0, 0, false, false⟩] }) (9 : Fin 10)).tunQ = [⟨0, 0, 0, false, false⟩] ∧
    (getDom (lnk 9 6 [] fun l => { l with tunQ := [⟨0, 0, 0, false, false⟩] }) (linkDomain (9 : Fin 10))).trans = none) ∧
  (domRun (lnk 9 6 [] fun l => { l with tunQ := [⟨0, 1, 4, false, false⟩] }) (linkDomain (9 : Fin 10)) = true ∧
    (getLink (lnk 9 6 [] fun l => { l with tunQ := [⟨0, 1, 4, false, false⟩] }) (9 : Fin 10)).tun = none ∧
    (getLink (lnk 9 6 [] fun l => { l with tunQ := [⟨0, 1, 4, false, false⟩] }) (9 : Fin 10)).tunQ = [⟨0, 1, 4, false, false⟩] ∧
    (getDom (lnk 9 6 [] fun l => { l with tunQ := [⟨0, 1, 4, false, false⟩] }) (linkDomain (9 : Fin 10))).trans = none ∧
    (4 : Nat) ≠ 0 ∧
    0 % 64 ≠ 1 % 64) :=
  ⟨⟨⟨by decide +kernel, by decide +kernel⟩, by decide +kernel⟩,
    ⟨⟨by decide +kernel, by decide +kernel⟩, by decide +kernel⟩,
    ⟨by decide +kernel, by decide +kernel, by decide +kernel, by decide +kernel⟩,
    ⟨by decide +kernel, by decide +kernel, by decide +kernel, by decide +kernel, by decide +kernel, by decide +kernel⟩⟩
theorem meets_TunnelsHalosAndParking_2 :
  domRun (lnk 9 1 [] fun l => { l with tunQ := [⟨60, 60, 4, true, false⟩] }) (linkDomain (9 : Fin 10)) = true ∧
    (getLink (lnk 9 1 [] fun l => { l with tunQ := [⟨60, 60, 4, true, false⟩] }) (9 : Fin 10)).tun = none ∧
    (getLink (lnk 9 1 [] fun l => { l with tunQ := [⟨60, 60, 4, true, false⟩] }) (9 : Fin 10)).tunQ = [⟨60, 60, 4, true, false⟩] ∧
    (getDom (lnk 9 1 [] fun l => { l with tunQ := [⟨60, 60, 4, true, false⟩] }) (linkDomain (9 : Fin 10))).trans = none ∧
    (4 : Nat) ≠ 0 ∧
    60 % 64 = 60 % 64 ∧
    60 + 4 ≤ 2 ^ 40 ∧
    linkActive (lnk 9 1 [] fun l => { l with tunQ := [⟨60, 60, 4, true, false⟩] }) (9 : Fin 10) = false :=
  ⟨by decide +kernel, by decide +kernel, by decide +kernel, by decide +kernel, by decide +kernel, by decide +kernel, by decide +kernel, by decide +kernel⟩
theorem meets_TunnelsHalosAndParking_3 :
  (domRun (lnk 9 6 [] fun l => { l with tunQ := [⟨60, 60, 4, true, false⟩] }) (linkDomain (9 : Fin 10)) = true ∧
    (getLink (lnk 9 6 [] fun l => { l with tunQ := [⟨60, 60, 4, true, false⟩] }) (9 : Fin 10)).tun = none ∧
    (getLink (lnk 9 6 [] fun l => { l with tunQ := [⟨60, 60, 4, true, false⟩] }) (9 : Fin 10)).tunQ = [⟨60, 60, 4, true, false⟩] ∧
    (getDom (lnk 9 6 [] fun l => { l with tunQ := [⟨60, 60, 4, true, false⟩] }) (linkDomain (9 : Fin 10))).trans = none ∧
    (4 : Nat) ≠ 0 ∧
    60 % 64 = 60 % 64 ∧
    60 + 4 ≤ 2 ^ 40 ∧
    linkActive (lnk 9 6 [] fun l => { l with tunQ := [⟨60, 60, 4, true, false⟩] }) (9 : Fin 10) = true ∧
    4 ≤ 64 - 60 % 64) ∧
  ((getLink (lnk 9 1 [] fun l => { l with tun := some ⟨⟨0, 0, 4, false, false⟩, false, 0, [], none⟩ }) (9 : Fin 10)).tun = some ⟨⟨0, 0, 4, false, false⟩, false, 0, [], none⟩ ∧
    linkActive (lnk 9 1 [] fun l => { l with tun := some ⟨⟨0, 0, 4, false, false⟩, false, 0, [], none⟩ }) (9 : Fin 10) = false) ∧
  ((getLink (lnk 9 6 [] fun l => { l with tun := some ⟨⟨0, 0, 4, false, false⟩, true, 4, [], none⟩ }) (9 : Fin 10)).tun = some ⟨⟨0, 0, 4, false, false⟩, true, 4, [], none⟩ ∧
    4 ≤ 4) :=
  ⟨⟨by decide +kernel, by decide +kernel, by decide +kernel, by decide +kernel, by decide +kernel, by decide +kernel, by decide +kernel, by decide +kernel, by decide +kernel⟩,
    ⟨by decide +kernel, by decide +kernel⟩,
    ⟨by decide +kernel, by decide +kernel⟩⟩
theorem meets_TunnelsHalosAndParking_4 :
  ((getLink (lnk 9 6 [rspF] fun l => { l with tun := some ⟨⟨0, 0, 4, false, false⟩, true, 4, [(3, 0, 4)], none⟩ }) (9 : Fin 10)).tun = some ⟨⟨0, 0, 4, false, false⟩, true, 4, [(3, 0, 4)], none⟩ ∧
    splitPacket 1 (getLink (lnk 9 6 [rspF] fun l => { l with tun := some ⟨⟨0, 0, 4, false, false⟩, true, 4, [(3, 0, 4)], none⟩ }) (9 : Fin 10)).rxq = some ([rspF], []) ∧
    4 ≤ 4 ∧
    pBits ([rspF].headD (mkFlit 0 0 false 0)) 0 4 = 0 ∧
    (∃ e ∈ [(3, 0, 4)], e.1 = pBits ([rspF].headD (mkFlit 0 0 false 0)) 4 6)) ∧
  (splitPacket 0 (getLink (lnk 9 6 [rqF]) (9 : Fin 10)).rxq = some ([rqF], []) ∧
    getF (lnk 9 6 [rqF]) (fLINK_CTL_TUN_IN (9 : Fin 10)) = 0 ∧
    linkActive (lnk 9 6 [rqF]) (9 : Fin 10) = true) ∧
  (domRun hTx (20 + (7 : Fin 8).val) = true ∧
    boundBlk hTx (7 : Fin 8) 5 (15 : Fin 16) = some 31 ∧
    linkActive hTx (7 : Fin 8) = true ∧
    0 < tget 0 (getLink hTx (7 : Fin 8)).cred (15 : Fin 16) ∧
    0 < (getBlk hTx (7 : Fin 8) 31).vis) :=
  ⟨⟨by decide +kernel, by decide +kernel, by decide +kernel, by decide +kernel, by decide +kernel⟩,
    ⟨by decide +kernel, by decide +kernel, by decide +kernel⟩,
    ⟨by decide +kernel, by decide +kernel, by decide +kernel, by decide +kernel, by decide +kernel⟩⟩
theorem meets_TunnelsHalosAndParking_5 :
  (domRun hRx (20 + (7 : Fin 8).val) = true ∧
    boundBlk hRx (7 : Fin 8) 6 (15 : Fin 16) = some 31 ∧
    3 ≤ blkStage hRx (7 : Fin 8) 31 ∧
    blkFull (linkFreed (7 : Fin 8) 31 hRx) (7 : Fin 8) 31 = false ∧
    (getLink hRx (7 : Fin 8)).rxq.find? (fun f => f.cls == 1 && f.chan == BitVec.ofNat 4 (15 : Fin 16)) = some hF) ∧
  (NextFlit (lnk 9 6 [control 5 0]) (9 : Fin 10) 5 (control 5 0) ∧
    pBits (control 5 0) 0 8 = 5 ∧
    linkActive (lnk 9 6 [control 5 0]) (9 : Fin 10) = true) ∧
  (NextFlit (lnk 9 6 [control 6 0] fun l => { l with parkSent := true }) (9 : Fin 10) 5 (control 6 0) ∧
    pBits (control 6 0) 0 8 = 6 ∧
    (getLink (lnk 9 6 [control 6 0] fun l => { l with parkSent := true }) (9 : Fin 10)).parkSent = true) ∧
  (getLink (lnk 9 6 [] fun l => { l with parkSent := true }) (9 : Fin 10)).parkSent = true :=
  ⟨⟨by decide +kernel, by decide +kernel, by decide +kernel, by decide +kernel, by decide +kernel⟩,
    ⟨by unfold NextFlit; decide +kernel, by decide +kernel, by decide +kernel⟩,
    ⟨by unfold NextFlit; decide +kernel, by decide +kernel, by decide +kernel⟩,
    by decide +kernel⟩
theorem meets_TunnelsHalosAndParking_6 :
  ((State.offNow (setFs [(fPWR_DOM_STATE (linkDomain 9), 2), (fLINK_WAKE_WMODE 9, 1)] up)) = false ∧
    domState (setFs [(fPWR_DOM_STATE (linkDomain 9), 2), (fLINK_WAKE_WMODE 9, 1)] up) (linkDomain (9 : Fin 10)) ≠ 0 ∧
    getF (setFs [(fPWR_DOM_STATE (linkDomain 9), 2), (fLINK_WAKE_WMODE 9, 1)] up) (fPWR_DOM_FAULT (linkDomain (9 : Fin 10))) = 0 ∧
    (getDom (setFs [(fPWR_DOM_STATE (linkDomain 9), 2), (fLINK_WAKE_WMODE 9, 1)] up) (linkDomain (9 : Fin 10))).trans = none ∧
    (getDom (setFs [(fPWR_DOM_STATE (linkDomain 9), 2), (fLINK_WAKE_WMODE 9, 1)] up) (linkDomain (9 : Fin 10))).slot = none ∧
    getF (setFs [(fPWR_DOM_STATE (linkDomain 9), 2), (fLINK_WAKE_WMODE 9, 1)] up) (fLINK_WAKE_WMODE (9 : Fin 10)) = 1) ∧
  ((State.offNow (setFs [(fPWR_DOM_STATE (linkDomain 9), 2), (fLINK_WAKE_WMODE 9, 2)] up)) = false ∧
    domState (setFs [(fPWR_DOM_STATE (linkDomain 9), 2), (fLINK_WAKE_WMODE 9, 2)] up) (linkDomain (9 : Fin 10)) ≠ 0 ∧
    getF (setFs [(fPWR_DOM_STATE (linkDomain 9), 2), (fLINK_WAKE_WMODE 9, 2)] up) (fPWR_DOM_FAULT (linkDomain (9 : Fin 10))) = 0 ∧
    (getDom (setFs [(fPWR_DOM_STATE (linkDomain 9), 2), (fLINK_WAKE_WMODE 9, 2)] up) (linkDomain (9 : Fin 10))).trans = none ∧
    (getDom (setFs [(fPWR_DOM_STATE (linkDomain 9), 2), (fLINK_WAKE_WMODE 9, 2)] up) (linkDomain (9 : Fin 10))).slot = none ∧
    getF (setFs [(fPWR_DOM_STATE (linkDomain 9), 2), (fLINK_WAKE_WMODE 9, 2)] up) (fLINK_WAKE_WMODE (9 : Fin 10)) = 2) :=
  ⟨⟨by decide +kernel, by decide +kernel, by decide +kernel, by decide +kernel, by decide +kernel, by decide +kernel⟩,
    ⟨by decide +kernel, by decide +kernel, by decide +kernel, by decide +kernel, by decide +kernel, by decide +kernel⟩⟩
theorem meets_TunnelsHalosAndParking_7 :
  (HostPath up 0x80 (linkReg (9 : Fin 10)) ∧
    domRun up (linkDomain (9 : Fin 10)) = true ∧
    getF up (fLINK_STAT_STATE (9 : Fin 10)) = 0) ∧
  getF (setFs [(fLINK_STAT_REV_BUSY 9, 1), (fLINK_CTL_REVEILLE 9, 1)] up) (fLINK_STAT_REV_BUSY (9 : Fin 10)) = 1 ∧
  (HostPath up 0x80 0x4F000 ∧
    (∀ j < 10, getF up (fLINK_CTL_ENABLE j) = 0)) ∧
  (HostPath (lnk 9 6 []) 0x80 0x4F000 ∧
    (∃ j < 10, getF (lnk 9 6 []) (fLINK_CTL_ENABLE j) = 1)) :=
  ⟨⟨⟨by decide +kernel, by decide +kernel⟩, by decide +kernel, by decide +kernel⟩,
    by decide +kernel,
    ⟨⟨by decide +kernel, by decide +kernel⟩, by decide +kernel⟩,
    ⟨⟨by decide +kernel, by decide +kernel⟩, by decide +kernel⟩⟩

theorem meets_TunnelsHalosAndParking_8 :
  (splitPacket 0 (getLink tin (9 : Fin 10)).rxq = some ([rq64], []) ∧
    getF tin (fLINK_CTL_TUN_IN (9 : Fin 10)) = 1 ∧
    linkActive tin (9 : Fin 10) = true ∧
    LineOpen tin (linkNode (9 : Fin 10)) (tunMaster (9 : Fin 10)) false (64 * pBits rq64 0 34) ((List.range 64).map fun i => pBits rq64 (42 + i) 1 == 1) (packetData [rq64])) :=
  ⟨by decide +kernel, by decide +kernel, by decide +kernel, ⟨(match locate 64 with | some x => x.2 | none => 0), by decide +kernel, by decide +kernel, by decide +kernel, by decide +kernel, by decide +kernel, by decide +kernel, by decide +kernel, by decide +kernel, by decide +kernel, fun _ _ _ => rfl⟩⟩
/-- A MERIDIAN flit. -/
def merF (t x : Nat) : Flit := mkFlit 3 0 false (t + x * 2 ^ 8)
/-- A flit that offers a candidate of priority 9 with HOPS h, and PARENT. -/
def annF (h p : Nat) : Flit := merF 1 (9 + 5 * 2 ^ 8 + h * 2 ^ 20 + p * 2 ^ 26)
/-- Link 9 offers the best candidate, and link 4 leads to a child. -/
def slave (fs : List Flit) (g : State → State := id) : State :=
  g { lnk 4 6 [] id (lnk 9 6 fs) with cands := [(4, ⟨0, 7, 2, true⟩), (9, ⟨9, 5, 1, false⟩)] }
def exch2 : State := slave [] fun s => { s with mer := 70 * 2 ^ 32 }
/-- Watch w is enabled with period 1000 and SHORTEN 32; the time is `now` ns. -/
def wat (w now : Nat) (g : Watch → Watch) (fs : List (Fld × Nat) := []) : State :=
  setFs fs (setFs [(fWATCH_CFG_ENABLE w, 1), (fWATCH_CFG_PERIOD w, 1000), (fWATCH_CFG_SHORTEN w, 32), (fWATCH_NEXT_END w, 5000)]
    (updWatch w (fun x => g { x with start := 5000 }) { up with mer := now * 2 ^ 32 }))
/-- Barrier b has been released for 500 ns, late; its BARRIER_WAIT is in progress; GEN is 255, and a child is early. -/
def relB (b now : Nat) : State := setFs [(fBAR_STAT_GEN b, 255), (fBAR_STAT_ARRIVED b, 1)]
  (updBar b (fun x => { x with release := some 500, late := true, early := [4] })
    (desc (job 0xE [0xE, b, 8] fun j => { j with phase := .running }) { rings with mer := now * 2 ^ 32 }))

/-- A BARRIER flit of barrier 15 with generation g and time x, received on link 9 in generation 255 at 500 ns. -/
def barF (ty g x : Nat) : Flit := mkFlit 4 0 false (ty + 15 * 2 ^ 8 + g * 2 ^ 12 + x * 2 ^ 20)
def barS (f : Flit) (b : Barrier → Barrier := id) : State :=
  updBar 15 b (setF (fBAR_STAT_GEN 15) 255 (lnk 9 6 [f] id { up with mer := 500 * 2 ^ 32 }))
/-- Two BARRIER_WAITs of ring 3, of which one is due at 9 ns. -/
def toB (now : Nat) : State :=
  { rings with ticks := 78 * now, jobs := [job 0xE [0xE, 7, 8] fun j => { j with phase := .running }, job 0xE [0xE, 7, 800] fun j => { j with id := 10, phase := .running }] }

/-- States that meet the hypotheses of ElectionAndDiscipline. -/
theorem meets_ElectionAndDiscipline :
  (NextFlit (lnk 9 6 [annF 32 1]) (9 : Fin 10) 3 (annF 32 1) ∧
    pBits (annF 32 1) 0 8 = 1) ∧
  (NextFlit (lnk 9 6 [annF 31 0]) (9 : Fin 10) 3 (annF 31 0) ∧
    pBits (annF 31 0) 0 8 = 1) ∧
  (∃ e ∈ (slave []).cands, isCand (9 : Fin 10) (9 : BitVec 8).toNat (5 : BitVec 12).toNat e = true) ∧
  linkActive (slave []) (9 : Fin 10) = true ∧
  (getF (slave []) fMER_STAT_STATE ≠ 4 ∧
    parentLink (slave []) ≠ none) ∧
  getF (slave [] (setF fMER_STAT_STATE 4)) fMER_STAT_STATE = 4 ∧
  (NextFlit (slave [(merF 2 (5 * 2 ^ 64 + 7))] fun s => { s with exch := some ⟨none, 0, 0⟩, mer := 70 * 2 ^ 32 }) (9 : Fin 10) 3 (merF 2 (5 * 2 ^ 64 + 7)) ∧
    pBits (merF 2 (5 * 2 ^ 64 + 7)) 0 8 = 2 ∧
    parentLink (slave [(merF 2 (5 * 2 ^ 64 + 7))] fun s => { s with exch := some ⟨none, 0, 0⟩, mer := 70 * 2 ^ 32 }) = some ((9 : Fin 10)).val ∧
    (State.exch (slave [(merF 2 (5 * 2 ^ 64 + 7))] fun s => { s with exch := some ⟨none, 0, 0⟩, mer := 70 * 2 ^ 32 })) = some ⟨none, 0, 0⟩ ∧
    linkActive (slave [(merF 2 (5 * 2 ^ 64 + 7))] fun s => { s with exch := some ⟨none, 0, 0⟩, mer := 70 * 2 ^ 32 }) (9 : Fin 10) = true) :=
  ⟨⟨by unfold NextFlit; decide +kernel, by decide +kernel⟩,
    ⟨by unfold NextFlit; decide +kernel, by decide +kernel⟩,
    by decide +kernel,
    by decide +kernel,
    ⟨by decide +kernel, by decide +kernel⟩,
    by decide +kernel,
    ⟨by unfold NextFlit; decide +kernel, by decide +kernel, by decide +kernel, by decide +kernel, by decide +kernel⟩⟩
theorem meets_ElectionAndDiscipline_2 :
  (NextFlit (slave [(merF 3 0)]) (9 : Fin 10) 3 (merF 3 0) ∧
    pBits (merF 3 0) 0 8 = 3 ∧
    linkActive (slave [(merF 3 0)]) (9 : Fin 10) = true) ∧
  (NextFlit (slave [(merF 4 3)] fun s => setF fMER_STAT_STATE 1 { s with exch := some ⟨some 4, (5000 * 2 ^ 16), 9⟩, mer := 90000 * 2 ^ 32 }) (9 : Fin 10) 3 (merF 4 3) ∧
    pBits (merF 4 3) 0 8 = 4 ∧
    parentLink (slave [(merF 4 3)] fun s => setF fMER_STAT_STATE 1 { s with exch := some ⟨some 4, (5000 * 2 ^ 16), 9⟩, mer := 90000 * 2 ^ 32 }) = some ((9 : Fin 10)).val ∧
    (State.exch (slave [(merF 4 3)] fun s => setF fMER_STAT_STATE 1 { s with exch := some ⟨some 4, (5000 * 2 ^ 16), 9⟩, mer := 90000 * 2 ^ 32 })) = some ⟨some 4, (5000 * 2 ^ 16), 9⟩) ∧
  (NextFlit (slave [(merF 4 3)] fun s => setF fMER_STAT_STATE 2 { s with exch := some ⟨some 4, (5000 * 2 ^ 16), 9⟩, mer := 90000 * 2 ^ 32 }) (9 : Fin 10) 3 (merF 4 3) ∧
    pBits (merF 4 3) 0 8 = 4 ∧
    parentLink (slave [(merF 4 3)] fun s => setF fMER_STAT_STATE 2 { s with exch := some ⟨some 4, (5000 * 2 ^ 16), 9⟩, mer := 90000 * 2 ^ 32 }) = some ((9 : Fin 10)).val ∧
    (State.exch (slave [(merF 4 3)] fun s => setF fMER_STAT_STATE 2 { s with exch := some ⟨some 4, (5000 * 2 ^ 16), 9⟩, mer := 90000 * 2 ^ 32 })) = some ⟨some 4, (5000 * 2 ^ 16), 9⟩) :=
  ⟨⟨by unfold NextFlit; decide +kernel, by decide +kernel, by decide +kernel⟩,
    ⟨by unfold NextFlit; decide +kernel, by decide +kernel, by decide +kernel, by decide +kernel⟩,
    ⟨by unfold NextFlit; decide +kernel, by decide +kernel, by decide +kernel, by decide +kernel⟩⟩
theorem meets_ElectionAndDiscipline_3 :
  NextFlit (slave [(merF 4 3)] fun s => setF fMER_STAT_STATE 1 { s with exch := some ⟨some 4, 10, 9⟩, mer := 90000 * 2 ^ 32 }) (9 : Fin 10) 3 (merF 4 3) ∧
    pBits (merF 4 3) 0 8 = 4 ∧
    parentLink (slave [(merF 4 3)] fun s => setF fMER_STAT_STATE 1 { s with exch := some ⟨some 4, 10, 9⟩, mer := 90000 * 2 ^ 32 }) = some ((9 : Fin 10)).val ∧
    (State.exch (slave [(merF 4 3)] fun s => setF fMER_STAT_STATE 1 { s with exch := some ⟨some 4, 10, 9⟩, mer := 90000 * 2 ^ 32 })) = some ⟨some 4, 10, 9⟩ :=
  ⟨by unfold NextFlit; decide +kernel, by decide +kernel, by decide +kernel, by decide +kernel⟩
/-- States that meet the hypotheses of WatchesAndBarriers. -/
theorem meets_WatchesAndBarriers :
  (((63 : Fin 72)).val < 64 ∧
    Rings (wat 63 5000 id) (63 : Fin 72) ∧
    getF (wat 63 5000 id) (fWATCH_MODE_FOLLOW_EN (63 : Fin 72)) = 0 ∧
    (((getWatch (wat 63 5000 id) (63 : Fin 72)).begun = false ∧ 5000 = (getWatch (wat 63 5000 id) (63 : Fin 72)).start) ∨ ((getWatch (wat 63 5000 id) (63 : Fin 72)).begun = true ∧ getF (wat 63 5000 id) (fWATCH_MODE_DONE_REQ (63 : Fin 72)) = 0 ∧ 5000 = getF (wat 63 5000 id) (fWATCH_NEXT_END (63 : Fin 72))) ∨ (∃ d, (getWatch (wat 63 5000 id) (63 : Fin 72)).begun = true ∧ getF (wat 63 5000 id) (fWATCH_MODE_DONE_REQ (63 : Fin 72)) = 1 ∧ (getWatch (wat 63 5000 id) (63 : Fin 72)).doneAt = some d ∧ 5000 = max (getF (wat 63 5000 id) (fWATCH_NEXT_END (63 : Fin 72))) d)) ∧
    domRun (wat 63 5000 id) (quadDom (63 : Fin 72)) = true ∧
    (getDom (wat 63 5000 id) (quadDom (63 : Fin 72))).trans = none) ∧
  (((63 : Fin 72)).val < 64 ∧
    Rings (wat 63 25000 (fun x => { x with begun := true, k := 2 }) [(fWATCH_MODE_DONE_REQ 63, 0)]) (63 : Fin 72) ∧
    getF (wat 63 25000 (fun x => { x with begun := true, k := 2 }) [(fWATCH_MODE_DONE_REQ 63, 0)]) (fWATCH_MODE_FOLLOW_EN (63 : Fin 72)) = 0 ∧
    (((getWatch (wat 63 25000 (fun x => { x with begun := true, k := 2 }) [(fWATCH_MODE_DONE_REQ 63, 0)]) (63 : Fin 72)).begun = false ∧ 5000 = (getWatch (wat 63 25000 (fun x => { x with begun := true, k := 2 }) [(fWATCH_MODE_DONE_REQ 63, 0)]) (63 : Fin 72)).start) ∨ ((getWatch (wat 63 25000 (fun x => { x with begun := true, k := 2 }) [(fWATCH_MODE_DONE_REQ 63, 0)]) (63 : Fin 72)).begun = true ∧ getF (wat 63 25000 (fun x => { x with begun := true, k := 2 }) [(fWATCH_MODE_DONE_REQ 63, 0)]) (fWATCH_MODE_DONE_REQ (63 : Fin 72)) = 0 ∧ 5000 = getF (wat 63 25000 (fun x => { x with begun := true, k := 2 }) [(fWATCH_MODE_DONE_REQ 63, 0)]) (fWATCH_NEXT_END (63 : Fin 72))) ∨ (∃ d, (getWatch (wat 63 25000 (fun x => { x with begun := true, k := 2 }) [(fWATCH_MODE_DONE_REQ 63, 0)]) (63 : Fin 72)).begun = true ∧ getF (wat 63 25000 (fun x => { x with begun := true, k := 2 }) [(fWATCH_MODE_DONE_REQ 63, 0)]) (fWATCH_MODE_DONE_REQ (63 : Fin 72)) = 1 ∧ (getWatch (wat 63 25000 (fun x => { x with begun := true, k := 2 }) [(fWATCH_MODE_DONE_REQ 63, 0)]) (63 : Fin 72)).doneAt = some d ∧ 5000 = max (getF (wat 63 25000 (fun x => { x with begun := true, k := 2 }) [(fWATCH_MODE_DONE_REQ 63, 0)]) (fWATCH_NEXT_END (63 : Fin 72))) d)) ∧
    domRun (wat 63 25000 (fun x => { x with begun := true, k := 2 }) [(fWATCH_MODE_DONE_REQ 63, 0)]) (quadDom (63 : Fin 72)) = true ∧
    (getDom (wat 63 25000 (fun x => { x with begun := true, k := 2 }) [(fWATCH_MODE_DONE_REQ 63, 0)]) (quadDom (63 : Fin 72))).trans = none) :=
  ⟨⟨by decide +kernel, ⟨by decide +kernel, by decide +kernel⟩, by decide +kernel, Or.inl ⟨by decide +kernel, by decide +kernel⟩, by decide +kernel, by decide +kernel⟩,
    ⟨by decide +kernel, ⟨by decide +kernel, by decide +kernel⟩, by decide +kernel, Or.inr (Or.inl ⟨by decide +kernel, by decide +kernel, by decide +kernel⟩), by decide +kernel, by decide +kernel⟩⟩
theorem meets_WatchesAndBarriers_2 :
  (((63 : Fin 72)).val < 64 ∧
    Rings (wat 63 30000 (fun x => { x with begun := true, k := 0, doneAt := some 24001 }) [(fWATCH_MODE_DONE_REQ 63, 1)]) (63 : Fin 72) ∧
    getF (wat 63 30000 (fun x => { x with begun := true, k := 0, doneAt := some 24001 }) [(fWATCH_MODE_DONE_REQ 63, 1)]) (fWATCH_MODE_FOLLOW_EN (63 : Fin 72)) = 0 ∧
    (((getWatch (wat 63 30000 (fun x => { x with begun := true, k := 0, doneAt := some 24001 }) [(fWATCH_MODE_DONE_REQ 63, 1)]) (63 : Fin 72)).begun = false ∧ 24001 = (getWatch (wat 63 30000 (fun x => { x with begun := true, k := 0, doneAt := some 24001 }) [(fWATCH_MODE_DONE_REQ 63, 1)]) (63 : Fin 72)).start) ∨ ((getWatch (wat 63 30000 (fun x => { x with begun := true, k := 0, doneAt := some 24001 }) [(fWATCH_MODE_DONE_REQ 63, 1)]) (63 : Fin 72)).begun = true ∧ getF (wat 63 30000 (fun x => { x with begun := true, k := 0, doneAt := some 24001 }) [(fWATCH_MODE_DONE_REQ 63, 1)]) (fWATCH_MODE_DONE_REQ (63 : Fin 72)) = 0 ∧ 24001 = getF (wat 63 30000 (fun x => { x with begun := true, k := 0, doneAt := some 24001 }) [(fWATCH_MODE_DONE_REQ 63, 1)]) (fWATCH_NEXT_END (63 : Fin 72))) ∨ (∃ d, (getWatch (wat 63 30000 (fun x => { x with begun := true, k := 0, doneAt := some 24001 }) [(fWATCH_MODE_DONE_REQ 63, 1)]) (63 : Fin 72)).begun = true ∧ getF (wat 63 30000 (fun x => { x with begun := true, k := 0, doneAt := some 24001 }) [(fWATCH_MODE_DONE_REQ 63, 1)]) (fWATCH_MODE_DONE_REQ (63 : Fin 72)) = 1 ∧ (getWatch (wat 63 30000 (fun x => { x with begun := true, k := 0, doneAt := some 24001 }) [(fWATCH_MODE_DONE_REQ 63, 1)]) (63 : Fin 72)).doneAt = some d ∧ 24001 = max (getF (wat 63 30000 (fun x => { x with begun := true, k := 0, doneAt := some 24001 }) [(fWATCH_MODE_DONE_REQ 63, 1)]) (fWATCH_NEXT_END (63 : Fin 72))) d)) ∧
    domRun (wat 63 30000 (fun x => { x with begun := true, k := 0, doneAt := some 24001 }) [(fWATCH_MODE_DONE_REQ 63, 1)]) (quadDom (63 : Fin 72)) = true ∧
    (getDom (wat 63 30000 (fun x => { x with begun := true, k := 0, doneAt := some 24001 }) [(fWATCH_MODE_DONE_REQ 63, 1)]) (quadDom (63 : Fin 72))).trans = none) ∧
  (getF up (fWATCH_CFG_ENABLE (71 : Fin 72)) = 0 ∨ merNs up < endOf up (71 : Fin 72)) ∧
  (getF (wat 71 4999 id) (fWATCH_CFG_ENABLE (71 : Fin 72)) = 0 ∨ merNs (wat 71 4999 id) < endOf (wat 71 4999 id) (71 : Fin 72)) ∧
  ((getCore (updCore 63 (fun c => { c with state := .running }) (wat 63 5000 (fun x => { x with begun := true }) [(fWATCH_STAT_DONE 63, 1)])) (63 : Fin 64)).state ≠ .halted ∧
    getF (updCore 63 (fun c => { c with state := .running }) (wat 63 5000 (fun x => { x with begun := true }) [(fWATCH_STAT_DONE 63, 1)])) (fWATCH_CFG_ENABLE (63 : Fin 64)) = 1 ∧
    (getF (updCore 63 (fun c => { c with state := .running }) (wat 63 5000 (fun x => { x with begun := true }) [(fWATCH_STAT_DONE 63, 1)])) (fWATCH_STAT_DONE (63 : Fin 64)) = 1 ∨ (getF (updCore 63 (fun c => { c with state := .running }) (wat 63 5000 (fun x => { x with begun := true }) [(fWATCH_STAT_DONE 63, 1)])) (fWATCH_MODE_FOLLOW_EN (63 : Fin 64)) = 0 ∧ (getWatch (updCore 63 (fun c => { c with state := .running }) (wat 63 5000 (fun x => { x with begun := true }) [(fWATCH_STAT_DONE 63, 1)])) (63 : Fin 64)).begun = false))) :=
  ⟨⟨by decide +kernel, ⟨by decide +kernel, by decide +kernel⟩, by decide +kernel, Or.inr (Or.inr ⟨24001, by decide +kernel, by decide +kernel, by decide +kernel, by decide +kernel⟩), by decide +kernel, by decide +kernel⟩,
    by decide +kernel,
    by decide +kernel,
    ⟨by decide +kernel, by decide +kernel, by decide +kernel⟩⟩
theorem meets_WatchesAndBarriers_3 :
  ((getCore (updCore 63 (fun c => { c with state := .running }) (wat 63 5000 fun x => { x with begun := true })) (63 : Fin 64)).state ≠ .halted ∧
    getF (updCore 63 (fun c => { c with state := .running }) (wat 63 5000 fun x => { x with begun := true })) (fWATCH_CFG_ENABLE (63 : Fin 64)) = 1 ∧
    getF (updCore 63 (fun c => { c with state := .running }) (wat 63 5000 fun x => { x with begun := true })) (fWATCH_STAT_DONE (63 : Fin 64)) = 0 ∧
    (getWatch (updCore 63 (fun c => { c with state := .running }) (wat 63 5000 fun x => { x with begun := true })) (63 : Fin 64)).begun = true ∧
    getF (updCore 63 (fun c => { c with state := .running }) (wat 63 5000 fun x => { x with begun := true })) (fWATCH_MODE_FOLLOW_EN (63 : Fin 64)) = 0) ∧
  (HostPath up 0x80 (0x45008 + 32 * (63 : Fin 72).val) ∧
    (63 : Fin 72).val < 64 ∧
    getF up (fWATCH_CFG_ENABLE (63 : Fin 72)) = 0) ∧
  (HostPath up 0x80 (0x45008 + 32 * (64 : Fin 72).val) ∧
    (64 ≤ (64 : Fin 72).val ∨ getF up (fWATCH_CFG_ENABLE (64 : Fin 72)) = 1)) :=
  ⟨⟨by decide +kernel, by decide +kernel, by decide +kernel, by decide +kernel, by decide +kernel⟩,
    ⟨⟨by decide +kernel, by decide +kernel⟩, by decide +kernel, by decide +kernel⟩,
    ⟨⟨by decide +kernel, by decide +kernel⟩, by decide +kernel⟩⟩
theorem meets_WatchesAndBarriers_4 :
  (NextFlit (barS (barF 1 255 0)) (9 : Fin 10) 4 (barF 1 255 0) ∧
    pBits (barF 1 255 0) 0 8 = 1 ∧
    pBits (barF 1 255 0) 12 8 = getF (barS (barF 1 255 0)) (fBAR_STAT_GEN (pBits (barF 1 255 0) 8 4)) ∧
    (getBar (barS (barF 1 255 0)) (pBits (barF 1 255 0) 8 4)).release = none ∧
    getF (barS (barF 1 255 0)) (fBAR_STAT_ARRIVED (pBits (barF 1 255 0) 8 4)) = 0) ∧
  (NextFlit (barS (barF 1 255 0) fun x => { x with release := some 900 }) (9 : Fin 10) 4 (barF 1 255 0) ∧
    pBits (barF 1 255 0) 0 8 = 1 ∧
    pBits (barF 1 255 0) 12 8 = getF (barS (barF 1 255 0) fun x => { x with release := some 900 }) (fBAR_STAT_GEN (pBits (barF 1 255 0) 8 4)) ∧
    (getBar (barS (barF 1 255 0) fun x => { x with release := some 900 }) (pBits (barF 1 255 0) 8 4)).release = some 900) ∧
  (NextFlit (barS (barF 1 254 0) fun x => { x with last := some 400 }) (9 : Fin 10) 4 (barF 1 254 0) ∧
    pBits (barF 1 254 0) 0 8 = 1 ∧
    pBits (barF 1 254 0) 12 8 = (getF (barS (barF 1 254 0) fun x => { x with last := some 400 }) (fBAR_STAT_GEN (pBits (barF 1 254 0) 8 4)) + 255) % 256 ∧
    (getBar (barS (barF 1 254 0) fun x => { x with last := some 400 }) (pBits (barF 1 254 0) 8 4)).last = some 400) ∧
  (NextFlit (barS (barF 1 0 0)) (9 : Fin 10) 4 (barF 1 0 0) ∧
    pBits (barF 1 0 0) 0 8 = 1 ∧
    pBits (barF 1 0 0) 12 8 = (getF (barS (barF 1 0 0)) (fBAR_STAT_GEN (pBits (barF 1 0 0) 8 4)) + 1) % 256) :=
  ⟨⟨by unfold NextFlit; decide +kernel, by decide +kernel, by decide +kernel, by decide +kernel, by decide +kernel⟩,
    ⟨by unfold NextFlit; decide +kernel, by decide +kernel, by decide +kernel, by decide +kernel⟩,
    ⟨by unfold NextFlit; decide +kernel, by decide +kernel, by decide +kernel, by decide +kernel⟩,
    ⟨by unfold NextFlit; decide +kernel, by decide +kernel, by decide +kernel⟩⟩
theorem meets_WatchesAndBarriers_5 :
  (NextFlit (barS (barF 2 254 600)) (9 : Fin 10) 4 (barF 2 254 600) ∧
    pBits (barF 2 254 600) 0 8 = 2 ∧
    pBits (barF 2 254 600) 12 8 ≠ getF (barS (barF 2 254 600)) (fBAR_STAT_GEN (pBits (barF 2 254 600) 8 4))) ∧
  (NextFlit (barS (barF 2 255 600)) (9 : Fin 10) 4 (barF 2 255 600) ∧
    pBits (barF 2 255 600) 0 8 = 2 ∧
    pBits (barF 2 255 600) 12 8 = getF (barS (barF 2 255 600)) (fBAR_STAT_GEN (pBits (barF 2 255 600) 8 4)) ∧
    (getBar (barS (barF 2 255 600)) (pBits (barF 2 255 600) 8 4)).release = none) ∧
  (NextFlit (barS (barF 2 255 400)) (9 : Fin 10) 4 (barF 2 255 400) ∧
    pBits (barF 2 255 400) 0 8 = 2 ∧
    pBits (barF 2 255 400) 12 8 = getF (barS (barF 2 255 400)) (fBAR_STAT_GEN (pBits (barF 2 255 400) 8 4)) ∧
    (getBar (barS (barF 2 255 400)) (pBits (barF 2 255 400) 8 4)).release = none) ∧
  ((getBar (relB 7 499) (7 : Fin 16)).release = some 500 ∧
    merNs (relB 7 499) < 500) ∧
  ((getBar (relB 7 500) (7 : Fin 16)).release = some 500 ∧
    500 ≤ merNs (relB 7 500) ∧
    (7 : Fin 16).val < 8) ∧
  ((job 0xE [0xE, 7, 8] fun j => { j with phase := .running }) ∈ (toB 9).jobs ∧
    (Job.ring (job 0xE [0xE, 7, 8] fun j => { j with phase := .running }) = 3 ∧ Job.op (job 0xE [0xE, 7, 8] fun j => { j with phase := .running }) = 0xE ∧ Job.phase (job 0xE [0xE, 7, 8] fun j => { j with phase := .running }) = .running ∧ dBits (job 0xE [0xE, 7, 8] fun j => { j with phase := .running }) 2 0 64 ≠ 0) ∧
    barrierEnd (job 0xE [0xE, 7, 8] fun j => { j with phase := .running }) ≤ nsNow (toB 9) ∧
    (∀ k ∈ (toB 9).jobs, k.ring = 3 ∧ k.op = 0xE ∧ k.phase = .running ∧ dBits k 2 0 64 ≠ 0 → k = (job 0xE [0xE, 7, 8] fun j => { j with phase := .running }) ∨ barrierEnd (job 0xE [0xE, 7, 8] fun j => { j with phase := .running }) < barrierEnd k)) :=
  ⟨⟨by unfold NextFlit; decide +kernel, by decide +kernel, by decide +kernel⟩,
    ⟨by unfold NextFlit; decide +kernel, by decide +kernel, by decide +kernel, by decide +kernel⟩,
    ⟨by unfold NextFlit; decide +kernel, by decide +kernel, by decide +kernel, by decide +kernel⟩,
    ⟨by decide +kernel, by decide +kernel⟩,
    ⟨by decide +kernel, by decide +kernel, by decide +kernel⟩,
    ⟨by decide +kernel, by decide +kernel, by decide +kernel, by decide +kernel⟩⟩
theorem meets_WatchesAndBarriers_6 :
  (NextFlit (barS (barF 1 7 0)) (9 : Fin 10) 4 (barF 1 7 0) ∧
    pBits (barF 1 7 0) 0 8 = 1 ∧
    pBits (barF 1 7 0) 12 8 ≠ getF (barS (barF 1 7 0)) (fBAR_STAT_GEN (pBits (barF 1 7 0) 8 4)) ∧
    pBits (barF 1 7 0) 12 8 ≠ (getF (barS (barF 1 7 0)) (fBAR_STAT_GEN (pBits (barF 1 7 0) 8 4)) + 1) % 256 ∧
    (pBits (barF 1 7 0) 12 8 ≠ (getF (barS (barF 1 7 0)) (fBAR_STAT_GEN (pBits (barF 1 7 0) 8 4)) + 255) % 256 ∨ (getBar (barS (barF 1 7 0)) (pBits (barF 1 7 0) 8 4)).last = none)) ∧
  (NextFlit (barS (barF 1 254 0)) (9 : Fin 10) 4 (barF 1 254 0) ∧
    pBits (barF 1 254 0) 0 8 = 1 ∧
    pBits (barF 1 254 0) 12 8 ≠ getF (barS (barF 1 254 0)) (fBAR_STAT_GEN (pBits (barF 1 254 0) 8 4)) ∧
    pBits (barF 1 254 0) 12 8 ≠ (getF (barS (barF 1 254 0)) (fBAR_STAT_GEN (pBits (barF 1 254 0) 8 4)) + 1) % 256 ∧
    (pBits (barF 1 254 0) 12 8 ≠ (getF (barS (barF 1 254 0)) (fBAR_STAT_GEN (pBits (barF 1 254 0) 8 4)) + 255) % 256 ∨ (getBar (barS (barF 1 254 0)) (pBits (barF 1 254 0) 8 4)).last = none)) :=
  ⟨⟨by unfold NextFlit; decide +kernel, by decide +kernel, by decide +kernel, by decide +kernel, by decide +kernel⟩,
    ⟨by unfold NextFlit; decide +kernel, by decide +kernel, by decide +kernel, by decide +kernel, by decide +kernel⟩⟩
/-- A cove of tree 3, cell 2 constant 1, cell 1 taking constant 1 past its LUT, with the hard sinks `k` at constant 1. -/
def cove1 (k : List Nat) : BitVec 8192 := BitVec.ofNat 8192 (0xFFFF * 2 ^ 32 + 3 * 2 ^ 1188 + 2 ^ 1089 + 321 * 2 ^ (1280 + 81) + 6 * 2 ^ 1024 +
  ((List.range 64).map fun j => (if k.contains j then 321 else 320) * 2 ^ (1280 + 9 * (448 + j))).sum)
/-- Strip 7 with coves 248, 249, 253 and 255, and block 31 of frame `f`; reach 15 is at stage `st`. -/
def fab (f : Nat) (b : Blk → Blk) (pop : Bool := false) (st : Nat := 4) (s : State := lnk 7 6 []) : State :=
  updStrip 7 (fun x => { x with frames := [(31, BitVec.ofNat 512 f)], rel := [(15, st)], blocks := [(31, b Blk.reset)], capWait := [3], coves := [(248, cove1 [5]), (253, cove1 (if pop then [6] else [])), (255, cove1 [])], ffs := [(248, 9), (255, 6)] })
    (setFs [(fFAB_STAT_LOADED 7, 0xFFFF), (fFAB_STAT_LOADING 7, 0), (fLANE_MODE_FABRIC 7, 2 ^ 24 - 1)] s)
/-- A FIFO of one clock on tree 3, a block for received and one for sent words on lane 23. -/
def fifo3 : Nat := 3 + 3 * 2 ^ 4 + 3 * 2 ^ 13 + 3 * 2 ^ 15
def lane7 (m : Nat) : Nat := m + 4 * 2 ^ 4 + 23 * 2 ^ 8
/-- A load of reach 15 of strip 7 at stage `st`: of one byte, behind which frames of 0 are read. -/
def loadJob (st : Nat) : Job := job 7 [7, 0, 7 + 15 * 2 ^ 8 + 2 ^ 16, 16576] fun j => { j with phase := .running, stage := st, data := [0] }
def loadS (st : Nat) (old : Tbl Nat := []) : State := desc (loadJob st) (setFs [(fFAB_STAT_LOADED 7, 0x7FFF), (fFAB_STAT_LOADING 7, 0x8000)]
  (updStrip 7 (fun x => { x with coves := [(255, cove1 [])], rel := [(15, st - 1)], relTree := old }) rings))
/-- Reaches 0 and 15 of strip 7 are in release after a reset, their outputs not yet enabled. -/
def resetS : State := setFs [(fFAB_STAT_LOADED 7, 0xFFFF), (fFAB_STAT_LOADING 7, 0)] (updStrip 7 (fun x => { x with rel := [(0, 1), (15, 1)] }) up)

/-- States that meet the hypotheses of FabricEdges. -/
theorem meets_FabricEdges :
  domRun (fab fifo3 (fun b => { b with head := 511, ages := [3], vis := 1 }) true) (20 + ((7 : Fin 8)).val) = true ∧
    (getBlk (fab fifo3 (fun b => { b with head := 511, ages := [3], vis := 1 }) true) (7 : Fin 8) 31).vis ≠ 0 ∧
    (portIn (fab fifo3 (fun b => { b with head := 511, ages := [3], vis := 1 }) true) (7 : Fin 8) (coveViews (fab fifo3 (fun b => { b with head := 511, ages := [3], vis := 1 }) true) (7 : Fin 8) (edgeOn (fab fifo3 (fun b => { b with head := 511, ages := [3], vis := 1 }) true) (7 : Fin 8) 8) 0xA5 0) 31 (8 * 31 + 4)).en = true ∧
    (portIn (fab fifo3 (fun b => { b with head := 511, ages := [3], vis := 1 }) true) (7 : Fin 8) (coveViews (fab fifo3 (fun b => { b with head := 511, ages := [3], vis := 1 }) true) (7 : Fin 8) (edgeOn (fab fifo3 (fun b => { b with head := 511, ages := [3], vis := 1 }) true) (7 : Fin 8) 8) 0xA5 0) 31 (8 * 31)).we = true ∧
    2 ≤ blkStage (fab fifo3 (fun b => { b with head := 511, ages := [3], vis := 1 }) true) (7 : Fin 8) 31 ∧
    bfMode (blkFrame (fab fifo3 (fun b => { b with head := 511, ages := [3], vis := 1 }) true) (7 : Fin 8) 31) = 3 ∧
    blkFull (fab fifo3 (fun b => { b with head := 511, ages := [3], vis := 1 }) true) (7 : Fin 8) 31 = false ∧
    bfTreeB (blkFrame (fab fifo3 (fun b => { b with head := 511, ages := [3], vis := 1 }) true) (7 : Fin 8) 31) = bfTreeA (blkFrame (fab fifo3 (fun b => { b with head := 511, ages := [3], vis := 1 }) true) (7 : Fin 8) 31) ∧
    edgeOn (fab fifo3 (fun b => { b with head := 511, ages := [3], vis := 1 }) true) (7 : Fin 8) 8 (bfTreeA (blkFrame (fab fifo3 (fun b => { b with head := 511, ages := [3], vis := 1 }) true) (7 : Fin 8) 31)) = true :=
  ⟨by decide +kernel, by decide +kernel, by decide +kernel, by decide +kernel, by decide +kernel, by decide +kernel, by decide +kernel, by decide +kernel, by decide +kernel⟩
theorem meets_FabricEdges_2 :
  domRun (fab fifo3 fun b => { b with head := 511 }) (20 + ((7 : Fin 8)).val) = true ∧
    bfWidth (blkFrame (fab fifo3 fun b => { b with head := 511 }) (7 : Fin 8) 31) < 4 ∧
    (portIn (fab fifo3 fun b => { b with head := 511 }) (7 : Fin 8) (coveViews (fab fifo3 fun b => { b with head := 511 }) (7 : Fin 8) (edgeOn (fab fifo3 fun b => { b with head := 511 }) (7 : Fin 8) 8) 0xA5 0) 31 (8 * 31 + 4)).en = false ∧
    (portIn (fab fifo3 fun b => { b with head := 511 }) (7 : Fin 8) (coveViews (fab fifo3 fun b => { b with head := 511 }) (7 : Fin 8) (edgeOn (fab fifo3 fun b => { b with head := 511 }) (7 : Fin 8) 8) 0xA5 0) 31 (8 * 31)).we = true ∧
    2 ≤ blkStage (fab fifo3 fun b => { b with head := 511 }) (7 : Fin 8) 31 ∧
    bfMode (blkFrame (fab fifo3 fun b => { b with head := 511 }) (7 : Fin 8) 31) = 3 ∧
    blkFull (fab fifo3 fun b => { b with head := 511 }) (7 : Fin 8) 31 = false ∧
    bfTreeB (blkFrame (fab fifo3 fun b => { b with head := 511 }) (7 : Fin 8) 31) = bfTreeA (blkFrame (fab fifo3 fun b => { b with head := 511 }) (7 : Fin 8) 31) ∧
    edgeOn (fab fifo3 fun b => { b with head := 511 }) (7 : Fin 8) 8 (bfTreeA (blkFrame (fab fifo3 fun b => { b with head := 511 }) (7 : Fin 8) 31)) = true :=
  ⟨by decide +kernel, by decide +kernel, by decide +kernel, by decide +kernel, by decide +kernel, by decide +kernel, by decide +kernel, by decide +kernel, by decide +kernel⟩
theorem meets_FabricEdges_3 :
  (domRun (fab fifo3 fun b => { b with head := 511 }) (20 + ((7 : Fin 8)).val) = true ∧
    cvTree (cove1 []).toNat ∈ (getStrip (fab fifo3 fun b => { b with head := 511 }) (7 : Fin 8)).capWait ∧
    (coveView (fab fifo3 fun b => { b with head := 511 }) (7 : Fin 8) 255 0xA5 0).map (·.1) = some (cove1 []).toNat ∧
    stageOf (fab fifo3 fun b => { b with head := 511 }) (7 : Fin 8) 255 = 4 ∧
    edgeOn (fab fifo3 fun b => { b with head := 511 }) (7 : Fin 8) 8 (cvTree (cove1 []).toNat) = true ∧
    coveFrame (fab fifo3 fun b => { b with head := 511 }) (7 : Fin 8) 255 = some (cove1 []).toNat) ∧
  (domRun (fab fifo3 fun b => { b with head := 511 }) (20 + ((7 : Fin 8)).val) = true ∧
    edgeOn (fab fifo3 fun b => { b with head := 511 }) (7 : Fin 8) 7 (cvTree (cove1 []).toNat) = false ∧
    coveFrame (fab fifo3 fun b => { b with head := 511 }) (7 : Fin 8) 255 = some (cove1 []).toNat) ∧
  domRun (setF (fPWR_DOM_STATE 27) 1 up) (20 + ((7 : Fin 8)).val) = false ∧
  (boundBlk (fab (lane7 7) fun b => { b with ages := List.replicate 128 0 }) (7 : Fin 8) 7 (23 : Fin 24) = some 31 ∧
    laneLive (fab (lane7 7) fun b => { b with ages := List.replicate 128 0 }) (7 : Fin 8) (23 : Fin 24) = true ∧
    blkFull (fab (lane7 7) fun b => { b with ages := List.replicate 128 0 }) (7 : Fin 8) 31 = true) :=
  ⟨⟨by decide +kernel, by decide +kernel, by decide +kernel, by decide +kernel, by decide +kernel, by decide +kernel⟩,
    ⟨by decide +kernel, by decide +kernel, by decide +kernel⟩,
    by decide +kernel,
    ⟨by decide +kernel, by decide +kernel, by decide +kernel⟩⟩
theorem meets_FabricEdges_4 :
  (boundBlk (fab (lane7 7) fun b => { b with ages := List.replicate 127 0 }) (7 : Fin 8) 7 (23 : Fin 24) = some 31 ∧
    laneLive (fab (lane7 7) fun b => { b with ages := List.replicate 127 0 }) (7 : Fin 8) (23 : Fin 24) = true ∧
    blkFull (fab (lane7 7) fun b => { b with ages := List.replicate 127 0 }) (7 : Fin 8) 31 = false) ∧
  (boundBlk (fab (lane7 8) fun b => { b with head := 127, ages := [9, 9], vis := 0, last := 77, mem := [(508, 0x1234)] }) (7 : Fin 8) 8 (23 : Fin 24) = some 31 ∧
    laneLive (fab (lane7 8) fun b => { b with head := 127, ages := [9, 9], vis := 0, last := 77, mem := [(508, 0x1234)] }) (7 : Fin 8) (23 : Fin 24) = true ∧
    (getBlk (fab (lane7 8) fun b => { b with head := 127, ages := [9, 9], vis := 0, last := 77, mem := [(508, 0x1234)] }) (7 : Fin 8) 31).vis = 0) ∧
  (boundBlk (fab (lane7 8) fun b => { b with head := 127, ages := [9, 9], vis := 2, last := 77, mem := [(508, 0x1234)] }) (7 : Fin 8) 8 (23 : Fin 24) = some 31 ∧
    laneLive (fab (lane7 8) fun b => { b with head := 127, ages := [9, 9], vis := 2, last := 77, mem := [(508, 0x1234)] }) (7 : Fin 8) (23 : Fin 24) = true ∧
    (getBlk (fab (lane7 8) fun b => { b with head := 127, ages := [9, 9], vis := 2, last := 77, mem := [(508, 0x1234)] }) (7 : Fin 8) 31).vis ≠ 0) :=
  ⟨⟨by decide +kernel, by decide +kernel, by decide +kernel⟩,
    ⟨by decide +kernel, by decide +kernel, by decide +kernel⟩,
    ⟨by decide +kernel, by decide +kernel, by decide +kernel⟩⟩
/-- States that meet the hypotheses of FabricClocksAndLoads. -/
theorem meets_FabricClocksAndLoads :
  (HostPath up 0x80 (0x58010 + 0x1000 * (7 : Fin 8).val + 8 * (3 : Fin 4).val) ∧
    getF up (fFAB_CLK_SWITCHING (7 : Fin 8) (3 : Fin 4)) = 0 ∧
    (((3 + 23 * 4 + 15 * 2 ^ 8) : Word).toNat / 4 % 32) ≤ 23 ∧
    treeMeets up (7 : Fin 8) (3 : Fin 4) (((3 + 23 * 4 + 15 * 2 ^ 8) : Word).toNat % 4) (((3 + 23 * 4 + 15 * 2 ^ 8) : Word).toNat / 256 % 16)) ∧
  (HostPath up 0x80 (0x58010 + 0x1000 * (7 : Fin 8).val + 8 * (3 : Fin 4).val) ∧
    getF up (fFAB_CLK_SWITCHING (7 : Fin 8) (3 : Fin 4)) = 0 ∧
    ((0 : Word).toNat / 4 % 32) ≤ 23 ∧
    treeMeets up (7 : Fin 8) (3 : Fin 4) ((0 : Word).toNat % 4) ((0 : Word).toNat / 256 % 16)) ∧
  (HostPath (fab fifo3 id) 0x80 (0x58010 + 0x1000 * (7 : Fin 8).val + 8 * (3 : Fin 4).val) ∧
    getF (fab fifo3 id) (fFAB_CLK_SWITCHING (7 : Fin 8) (3 : Fin 4)) = 0 ∧
    (((1 + 15 * 2 ^ 8) : Word).toNat / 4 % 32) ≤ 23 ∧
    treeMeets (fab fifo3 id) (7 : Fin 8) (3 : Fin 4) (((1 + 15 * 2 ^ 8) : Word).toNat % 4) (((1 + 15 * 2 ^ 8) : Word).toNat / 256 % 16)) ∧
  (HostPath (setF (fFAB_CLK_SWITCHING 7 3) 1 up) 0x80 (0x58010 + 0x1000 * (7 : Fin 8).val + 8 * (3 : Fin 4).val) ∧
    (getF (setF (fFAB_CLK_SWITCHING 7 3) 1 up) (fFAB_CLK_SWITCHING (7 : Fin 8) (3 : Fin 4)) = 1 ∨ 23 < ((0 : Word).toNat / 4 % 32) ∨ ¬ treeMeets (setF (fFAB_CLK_SWITCHING 7 3) 1 up) (7 : Fin 8) (3 : Fin 4) ((0 : Word).toNat % 4) ((0 : Word).toNat / 256 % 16))) :=
  ⟨⟨⟨by decide +kernel, by decide +kernel⟩, by decide +kernel, by decide +kernel, (by unfold treeMeets; decide +kernel)⟩,
    ⟨⟨by decide +kernel, by decide +kernel⟩, by decide +kernel, by decide +kernel, (by unfold treeMeets; decide +kernel)⟩,
    ⟨⟨by decide +kernel, by decide +kernel⟩, by decide +kernel, by decide +kernel, (by unfold treeMeets; decide +kernel)⟩,
    ⟨⟨by decide +kernel, by decide +kernel⟩, Or.inl (by decide +kernel)⟩⟩
theorem meets_FabricClocksAndLoads_2 :
  (HostPath up 0x80 (0x58010 + 0x1000 * (7 : Fin 8).val + 8 * (3 : Fin 4).val) ∧
    (getF up (fFAB_CLK_SWITCHING (7 : Fin 8) (3 : Fin 4)) = 1 ∨ 23 < (((24 * 4) : Word).toNat / 4 % 32) ∨ ¬ treeMeets up (7 : Fin 8) (3 : Fin 4) (((24 * 4) : Word).toNat % 4) (((24 * 4) : Word).toNat / 256 % 16))) ∧
  (HostPath (fab fifo3 id) 0x80 (0x58010 + 0x1000 * (7 : Fin 8).val + 8 * (3 : Fin 4).val) ∧
    (getF (fab fifo3 id) (fFAB_CLK_SWITCHING (7 : Fin 8) (3 : Fin 4)) = 1 ∨ 23 < ((0 : Word).toNat / 4 % 32) ∨ ¬ treeMeets (fab fifo3 id) (7 : Fin 8) (3 : Fin 4) ((0 : Word).toNat % 4) ((0 : Word).toNat / 256 % 16))) ∧
  getF (setF (fFAB_CLK_SWITCHING 7 3) 1 up) (fFAB_CLK_SWITCHING (7 : Fin 8) (3 : Fin 4)) = 1 ∧
  getF (setF (fFAB_CLK_SWITCHING 7 3) 1 up) (fFAB_CLK_SWITCHING (7 : Fin 8) (3 : Fin 4)) = 1 ∧
  getF up (fFAB_CLK_SWITCHING (7 : Fin 8) (3 : Fin 4)) = 0 ∧
  (HostPath up 0x80 (0x58040 + 0x1000 * (7 : Fin 8).val) ∧
    getF up (fFAB_CAP_CAPTURE (7 : Fin 8)) = 0) ∧
  (HostPath (setF (fFAB_CAP_CAPTURE 7) 1 up) 0x80 (0x58040 + 0x1000 * (7 : Fin 8).val) ∧
    getF (setF (fFAB_CAP_CAPTURE 7) 1 up) (fFAB_CAP_CAPTURE (7 : Fin 8)) = 1) ∧
  (getF (setF (fFAB_CAP_CAPTURE 7) 1 (fab fifo3 id)) (fFAB_CAP_CAPTURE (7 : Fin 8)) = 1 ∧
    cvTree (cove1 []).toNat ∈ (getStrip (setF (fFAB_CAP_CAPTURE 7) 1 (fab fifo3 id)) (7 : Fin 8)).capWait ∧
    coveFrame (setF (fFAB_CAP_CAPTURE 7) 1 (fab fifo3 id)) (7 : Fin 8) 255 = some (cove1 []).toNat) :=
  ⟨⟨⟨by decide +kernel, by decide +kernel⟩, Or.inr (Or.inl (by decide +kernel))⟩,
    ⟨⟨by decide +kernel, by decide +kernel⟩, (by exact Or.inr (Or.inr (by unfold treeMeets; decide +kernel)))⟩,
    by decide +kernel,
    by decide +kernel,
    by decide +kernel,
    ⟨⟨by decide +kernel, by decide +kernel⟩, by decide +kernel⟩,
    ⟨⟨by decide +kernel, by decide +kernel⟩, by decide +kernel⟩,
    ⟨by decide +kernel, by decide +kernel, by decide +kernel⟩⟩
theorem meets_FabricClocksAndLoads_3 :
  (hostPasses (setFs [(fFAB_RB_SEL_COVE 7, 255)] (updStrip 7 (fun x => { x with cap := [(255, 0xABCD)] }) up)) (0x80 : BitVec 8).toNat (0x58050 + 0x1000 * (7 : Fin 8).val) = true ∧
    regGate (homeOf (0x80 : BitVec 8).toNat) (0x80 : BitVec 8).toNat (0x80 : BitVec 8).toNat false (0x58050 + 0x1000 * (7 : Fin 8).val) (setFs [(fFAB_RB_SEL_COVE 7, 255)] (updStrip 7 (fun x => { x with cap := [(255, 0xABCD)] }) up)) = (0, (setFs [(fFAB_RB_SEL_COVE 7, 255)] (updStrip 7 (fun x => { x with cap := [(255, 0xABCD)] }) up))) ∧
    regAnswer (homeOf (0x80 : BitVec 8).toNat) (0x80 : BitVec 8).toNat (0x58050 + 0x1000 * (7 : Fin 8).val) 0 (setFs [(fFAB_RB_SEL_COVE 7, 255)] (updStrip 7 (fun x => { x with cap := [(255, 0xABCD)] }) up)) = (0, (setFs [(fFAB_RB_SEL_COVE 7, 255)] (updStrip 7 (fun x => { x with cap := [(255, 0xABCD)] }) up))) ∧
    getF (setFs [(fFAB_RB_SEL_COVE 7, 255)] (updStrip 7 (fun x => { x with cap := [(255, 0xABCD)] }) up)) (fFAB_RB_SEL_KIND (7 : Fin 8)) = 0) ∧
  (loadOf (loadS 2) (7 : Fin 8) = some (loadJob 2) ∧
    (loadJob 2).stage = 2 ∧
    (reachImgs (ldCount (loadJob 2)) (loadJob 2).data)[0]? = some (reachImg [0]) ∧
    tsorted (getStrip (loadS 2) (7 : Fin 8)).coves = true ∧
    (0 : Nat) < ldCount (loadJob 2) ∧
    (∀ r ∈ ldReaches (loadJob 2), 239 / 16 ≠ r) ∧
    (reachImgs (ldCount (loadJob 2)) (loadJob 2).data).length ≤ ldCount (loadJob 2)) ∧
  (loadOf (loadS 3) (7 : Fin 8) = some (loadJob 3) ∧
    (loadJob 3).stage = 3 ∧
    ldReaches (loadJob 3) ≠ [] ∧
    (∀ r ∈ ldReaches (loadJob 3), tlook (getStrip (loadS 3) (7 : Fin 8)).rel r = some 2) ∧
    (∃ y ∈ releaseTrees (loadS 3) (7 : Fin 8) (ldReaches (loadJob 3)), (if y = (3 : Fin 4).val then min 4 (tget 2 (getStrip (loadS 3) (7 : Fin 8)).relTree (3 : Fin 4).val + 1) else tget 2 (getStrip (loadS 3) (7 : Fin 8)).relTree y) ≠ 4)) ∧
  (loadOf (loadS 3 [(3, 3)]) (7 : Fin 8) = some (loadJob 3) ∧
    (loadJob 3).stage = 3 ∧
    ldReaches (loadJob 3) ≠ [] ∧
    (∀ r ∈ ldReaches (loadJob 3), tlook (getStrip (loadS 3 [(3, 3)]) (7 : Fin 8)).rel r = some 2) ∧
    (∀ y ∈ releaseTrees (loadS 3 [(3, 3)]) (7 : Fin 8) (ldReaches (loadJob 3)), (if y = (3 : Fin 4).val then min 4 (tget 2 (getStrip (loadS 3 [(3, 3)]) (7 : Fin 8)).relTree (3 : Fin 4).val + 1) else tget 2 (getStrip (loadS 3 [(3, 3)]) (7 : Fin 8)).relTree y) = 4) ∧
    (State.Numbered (loadS 3 [(3, 3)])) ∧
    (getStrip (loadS 3 [(3, 3)]) (7 : Fin 8)).waiting = []) ∧
  (loadOf resetS (7 : Fin 8) = none ∧
    (∃ r ∈ resetReaches resetS (7 : Fin 8), tget 0 (getStrip resetS (7 : Fin 8)).rel r = 1)) :=
  ⟨⟨by decide +kernel, by decide +kernel, by decide +kernel, by decide +kernel⟩,
    ⟨by decide +kernel, by decide +kernel, by decide +kernel, by decide +kernel, by decide +kernel, by decide +kernel, by decide +kernel⟩,
    ⟨by decide +kernel, by decide +kernel, by decide +kernel, by decide +kernel, by decide +kernel⟩,
    ⟨by decide +kernel, by decide +kernel, by decide +kernel, by decide +kernel, by decide +kernel, numbered_of _ (by decide +kernel), by decide +kernel⟩,
    ⟨by decide +kernel, by decide +kernel⟩⟩
theorem meets_FabricClocksAndLoads_4 :
  domRun (setFs [(fFAB_STAT_LOADED 7, 0xFFFF), (fFAB_STAT_LOADING 7, 0)] up) (20 + ((7 : Fin 8)).val) = true ∧
    (getF (setFs [(fFAB_STAT_LOADED 7, 0xFFFF), (fFAB_STAT_LOADING 7, 0)] up) (fFAB_STAT_LOADED (7 : Fin 8))).testBit (15 : Fin 16).val = true ∧
    (getF (setFs [(fFAB_STAT_LOADED 7, 0xFFFF), (fFAB_STAT_LOADING 7, 0)] up) (fFAB_STAT_LOADING (7 : Fin 8))).testBit (15 : Fin 16).val = false :=
  ⟨by decide +kernel, by decide +kernel, by decide +kernel⟩

/-- Domain d is in a transition, with an Anchorage and a slot. -/
def trn (d : Nat) (t : Trans) (anch : List Held := []) (s : State := up) : State := updDom d (fun x => { x with trans := some t, anch := anch }) s
def ph (phase : Nat) (steps : List Nat) (src dst : Nat) : Trans := ⟨src, dst, .none, phase, steps, false, false⟩
/-- Link 9 is active and not parked: the drain of its domain waits for it. -/
def held36 : State := trn (linkDomain 9) (ph 2 [] 0 1) [] (lnk 9 6 [])
def linkD : Fin 41 := ⟨linkDomain 9, by decide⟩

/-- States that meet the hypotheses of PowerTransitions. -/
theorem meets_PowerTransitions :
  ((getDom (trn 36 (ph 2 [] 0 1)) (36 : Fin 41)).trans = some (ph 2 [] 0 1) ∧
    (ph 2 [] 0 1).phase = 2 ∧
    domOutstanding (trn 36 (ph 2 [] 0 1)) (36 : Fin 41) = false ∧
    drainHeld (trn 36 (ph 2 [] 0 1)) (36 : Fin 41) = false ∧
    ((36 : Fin 41).val < 37 ∨ ((trn 36 (ph 2 [] 0 1))).borrow = [])) ∧
  ((getDom (trn 40 (ph 2 [] 0 1)) (40 : Fin 41)).trans = some (ph 2 [] 0 1) ∧
    (ph 2 [] 0 1).phase = 2 ∧
    domOutstanding (trn 40 (ph 2 [] 0 1)) (40 : Fin 41) = false ∧
    drainHeld (trn 40 (ph 2 [] 0 1)) (40 : Fin 41) = false ∧
    ((40 : Fin 41).val < 37 ∨ ((trn 40 (ph 2 [] 0 1))).borrow = [])) ∧
  ((getDom (trn 19 (ph 2 [] 0 2)) (19 : Fin 41)).trans = some (ph 2 [] 0 2) ∧
    (ph 2 [] 0 2).phase = 2 ∧
    domOutstanding (trn 19 (ph 2 [] 0 2)) (19 : Fin 41) = false ∧
    drainHeld (trn 19 (ph 2 [] 0 2)) (19 : Fin 41) = false ∧
    ((19 : Fin 41).val < 37 ∨ ((trn 19 (ph 2 [] 0 2))).borrow = [])) ∧
  ((getDom (trn 0 (ph 2 [] 0 3)) (0 : Fin 41)).trans = some (ph 2 [] 0 3) ∧
    (ph 2 [] 0 3).phase = 2 ∧
    domOutstanding (trn 0 (ph 2 [] 0 3)) (0 : Fin 41) = false ∧
    drainHeld (trn 0 (ph 2 [] 0 3)) (0 : Fin 41) = false ∧
    ((0 : Fin 41).val < 37 ∨ ((trn 0 (ph 2 [] 0 3))).borrow = [])) :=
  ⟨⟨by decide +kernel, by decide +kernel, by decide +kernel, by decide +kernel, by decide +kernel⟩,
    ⟨by decide +kernel, by decide +kernel, by decide +kernel, by decide +kernel, by decide +kernel⟩,
    ⟨by decide +kernel, by decide +kernel, by decide +kernel, by decide +kernel, by decide +kernel⟩,
    ⟨by decide +kernel, by decide +kernel, by decide +kernel, by decide +kernel, by decide +kernel⟩⟩
theorem meets_PowerTransitions_2 :
  ((getDom (trn 15 (ph 2 [] 0 3)) (15 : Fin 41)).trans = some (ph 2 [] 0 3) ∧
    domOutstanding (trn 15 (ph 2 [] 0 3)) (15 : Fin 41) = false ∧
    drainHeld (trn 15 (ph 2 [] 0 3)) (15 : Fin 41) = false) ∧
  ((getDom (trn 15 (ph 2 [] 0 3)) (15 : Fin 41)).trans = some (ph 2 [] 0 3) ∧
    domOutstanding (trn 15 (ph 2 [] 0 3)) (15 : Fin 41) = false ∧
    drainHeld (trn 15 (ph 2 [] 0 3)) (15 : Fin 41) = false) ∧
  ((getDom held36 linkD).trans = some (ph 2 [] 0 1) ∧
    (domOutstanding held36 linkD = true ∨ drainHeld held36 linkD = true)) ∧
  ((getDom (trn 19 (ph 3 [2, 1, 5] 0 2)) (19 : Fin 41)).trans = some (ph 3 [2, 1, 5] 0 2) ∧
    (State.Numbered (trn 19 (ph 3 [2, 1, 5] 0 2)))) ∧
  ((getDom (trn 15 (ph 4 [4, 3] 3 0) [] (updCore 60 (fun c => { c with cache := [(0, ⟨[(63, 0x5A)]⟩)] }) up)) (15 : Fin 41)).trans = some (ph 4 [4, 3] 3 0) ∧
    (State.Numbered (trn 15 (ph 4 [4, 3] 3 0) [] (updCore 60 (fun c => { c with cache := [(0, ⟨[(63, 0x5A)]⟩)] }) up))) ∧
    4 ≤ 4) :=
  ⟨⟨by decide +kernel, by decide +kernel, by decide +kernel⟩,
    ⟨by decide +kernel, by decide +kernel, by decide +kernel⟩,
    ⟨by decide +kernel, by decide +kernel⟩,
    ⟨by decide +kernel, numbered_of _ (by decide +kernel)⟩,
    ⟨by decide +kernel, numbered_of _ (by decide +kernel), by decide +kernel⟩⟩
theorem meets_PowerTransitions_3 :
  ((getDom (trn 19 (ph 4 [4, 2] 2 0) [] (updCore 60 (fun c => { c with cache := [(0, ⟨[(63, 0x5A)]⟩)] }) up)) (19 : Fin 41)).trans = some (ph 4 [4, 2] 2 0) ∧
    (State.Numbered (trn 19 (ph 4 [4, 2] 2 0) [] (updCore 60 (fun c => { c with cache := [(0, ⟨[(63, 0x5A)]⟩)] }) up))) ∧
    4 ≤ 4) ∧
  ((getDom (trn 36 (ph 3 [5] 0 1) [] up) (36 : Fin 41)).trans = some (ph 3 [5] 0 1) ∧
    (State.Numbered (trn 36 (ph 3 [5] 0 1) [] up)) ∧
    1 ≤ 3 ∧
    (getDom (trn 36 (ph 3 [5] 0 1) [] up) (36 : Fin 41)).slot = none ∧
    (getDom (trn 36 (ph 3 [5] 0 1) [] up) (36 : Fin 41)).anch = []) ∧
  ((getDom (trn 40 (ph 3 [5] 0 3) [] up) (40 : Fin 41)).trans = some (ph 3 [5] 0 3) ∧
    (State.Numbered (trn 40 (ph 3 [5] 0 3) [] up)) ∧
    3 ≤ 3 ∧
    (getDom (trn 40 (ph 3 [5] 0 3) [] up) (40 : Fin 41)).slot = none ∧
    (getDom (trn 40 (ph 3 [5] 0 3) [] up) (40 : Fin 41)).anch = []) :=
  ⟨⟨by decide +kernel, numbered_of _ (by decide +kernel), by decide +kernel⟩,
    ⟨by decide +kernel, numbered_of _ (by decide +kernel), by decide +kernel, by decide +kernel, by decide +kernel⟩,
    ⟨by decide +kernel, numbered_of _ (by decide +kernel), by decide +kernel, by decide +kernel, by decide +kernel⟩⟩
theorem meets_PowerTransitions_4 :
  ((getDom (trn 36 (ph 3 [5] 0 2) [.access 9] up) (36 : Fin 41)).trans = some (ph 3 [5] 0 2) ∧
    (State.Numbered (trn 36 (ph 3 [5] 0 2) [.access 9] up)) ∧
    2 ≤ 3 ∧
    (getDom (trn 36 (ph 3 [5] 0 2) [.access 9] up) (36 : Fin 41)).slot = none ∧
    (getDom (trn 36 (ph 3 [5] 0 2) [.access 9] up) (36 : Fin 41)).anch ≠ [] ∧
    2 ≠ 0 ∧
    getF (trn 36 (ph 3 [5] 0 2) [.access 9] up) (fPWR_DOM_FAULT (36 : Fin 41)) = 0) ∧
  ((getDom (trn 40 (ph 7 [5] 3 0) [] up) (40 : Fin 41)).trans = some (ph 7 [5] 3 0) ∧
    (State.Numbered (trn 40 (ph 7 [5] 3 0) [] up)) ∧
    0 ≤ 3 ∧
    (getDom (trn 40 (ph 7 [5] 3 0) [] up) (40 : Fin 41)).slot = none ∧
    4 ≤ 7) :=
  ⟨⟨by decide +kernel, numbered_of _ (by decide +kernel), by decide +kernel, by decide +kernel, by decide +kernel, by decide +kernel, by decide +kernel⟩,
    ⟨by decide +kernel, numbered_of _ (by decide +kernel), by decide +kernel, by decide +kernel, by decide +kernel⟩⟩
theorem meets_PowerTransitions_5 :
  ((getDom (trn 0 (ph 7 [5] 3 0) [.packet (reqP false), .access 9] up) (0 : Fin 41)).trans = some (ph 7 [5] 3 0) ∧
    State.Numbered (trn 0 (ph 7 [5] 3 0) [.packet (reqP false), .access 9] up) ∧
    (ph 7 [5] 3 0).steps = [5] ∧
    (ph 7 [5] 3 0).dst ≤ 3 ∧
    (getDom (trn 0 (ph 7 [5] 3 0) [.packet (reqP false), .access 9] up) (0 : Fin 41)).slot = none ∧
    4 ≤ (ph 7 [5] 3 0).phase ∧
    (ph 7 [5] 3 0).dst = 0 ∧
    .packet (reqP false) ∈ (getDom (trn 0 (ph 7 [5] 3 0) [.packet (reqP false), .access 9] up) (0 : Fin 41)).anch ∧
    ∀ id, (reqP false).body ≠ .start id) ∧
  ((getDom (trn 36 (ph 4 [9] 3 0) [.packet (reqP false), .access 9] up) (36 : Fin 41)).trans = some (ph 4 [9] 3 0) ∧
    State.Numbered (trn 36 (ph 4 [9] 3 0) [.packet (reqP false), .access 9] up) ∧
    4 ≤ (ph 4 [9] 3 0).phase ∧
    .access 9 ∈ (getDom (trn 36 (ph 4 [9] 3 0) [.packet (reqP false), .access 9] up) (36 : Fin 41)).anch) ∧
  ((getDom (trn 36 (ph 5 [9] 3 0) [.packet (reqP false), .access 9] up) (36 : Fin 41)).trans = some (ph 5 [9] 3 0) ∧
    State.Numbered (trn 36 (ph 5 [9] 3 0) [.packet (reqP false), .access 9] up) ∧
    4 ≤ (ph 5 [9] 3 0).phase ∧
    .access 9 ∈ (getDom (trn 36 (ph 5 [9] 3 0) [.packet (reqP false), .access 9] up) (36 : Fin 41)).anch) :=
  ⟨⟨by decide +kernel, numbered_of _ (by decide +kernel), by decide +kernel, by decide +kernel, by decide +kernel, by decide +kernel, by decide +kernel, by decide +kernel, (by intro id h; cases h)⟩,
    ⟨by decide +kernel, numbered_of _ (by decide +kernel), by decide +kernel, by decide +kernel⟩,
    ⟨by decide +kernel, numbered_of _ (by decide +kernel), by decide +kernel, by decide +kernel⟩⟩
theorem meets_PowerTransitions_6 :
  ((getDom (trn 36 (ph 6 [9] 3 0) [.packet (reqP false), .access 9] up) (36 : Fin 41)).trans = some (ph 6 [9] 3 0) ∧
    State.Numbered (trn 36 (ph 6 [9] 3 0) [.packet (reqP false), .access 9] up) ∧
    4 ≤ (ph 6 [9] 3 0).phase ∧
    .access 9 ∈ (getDom (trn 36 (ph 6 [9] 3 0) [.packet (reqP false), .access 9] up) (36 : Fin 41)).anch) ∧
  ((getDom (trn 36 (ph 7 [9] 3 0) [.packet (reqP false), .access 9] up) (36 : Fin 41)).trans = some (ph 7 [9] 3 0) ∧
    State.Numbered (trn 36 (ph 7 [9] 3 0) [.packet (reqP false), .access 9] up) ∧
    4 ≤ (ph 7 [9] 3 0).phase ∧
    .access 9 ∈ (getDom (trn 36 (ph 7 [9] 3 0) [.packet (reqP false), .access 9] up) (36 : Fin 41)).anch) ∧
  (getDom (setF (fPWR_DOM_FAULT 40) 1 up) (40 : Fin 41)).anch = [] ∧
  ((getDom (updDom 40 (fun x => { x with anch := [.access 9] }) (setFs [(fPWR_DOM_FAULT 40, 1), (fPWR_DOM_STATE 40, 2)] up)) (40 : Fin 41)).anch ≠ [] ∧
    domState (updDom 40 (fun x => { x with anch := [.access 9] }) (setFs [(fPWR_DOM_FAULT 40, 1), (fPWR_DOM_STATE 40, 2)] up)) (40 : Fin 41) ≠ 0 ∧
    (getDom (updDom 40 (fun x => { x with anch := [.access 9] }) (setFs [(fPWR_DOM_FAULT 40, 1), (fPWR_DOM_STATE 40, 2)] up)) (40 : Fin 41)).trans = none ∧
    (getDom (updDom 40 (fun x => { x with anch := [.access 9] }) (setFs [(fPWR_DOM_FAULT 40, 1), (fPWR_DOM_STATE 40, 2)] up)) (40 : Fin 41)).slot = none) ∧
  getF (setFs [(fWAKE_EN_PCIE, 0), (fAON_TIMER_COMPARE, 70)] { up with aonBase := 70 }) fWAKE_EN_PCIE = 0 :=
  ⟨⟨by decide +kernel, numbered_of _ (by decide +kernel), by decide +kernel, by decide +kernel⟩,
    ⟨by decide +kernel, numbered_of _ (by decide +kernel), by decide +kernel, by decide +kernel⟩,
    by decide +kernel,
    ⟨by decide +kernel, by decide +kernel, by decide +kernel, by decide +kernel⟩,
    by decide +kernel⟩
theorem meets_PowerTransitions_7 :
  (getF (setFs [(fWAKE_EN_PCIE, 1), (fAON_TIMER_COMPARE, 70)] { up with aonBase := 70, offNow := true }) fWAKE_EN_PCIE = 1 ∧
    State.offNow (setFs [(fWAKE_EN_PCIE, 1), (fAON_TIMER_COMPARE, 70)] { up with aonBase := 70, offNow := true }) = true) ∧
  (getF (setFs [(fWAKE_EN_PCIE, 1), (fAON_TIMER_COMPARE, 70), (fPWR_DOM_STATE 40, 2), (fPWR_WAKEMAP_DOMS 0, 2 ^ 40)] { up with aonBase := 70 }) fWAKE_EN_PCIE = 1 ∧
    State.offNow (setFs [(fWAKE_EN_PCIE, 1), (fAON_TIMER_COMPARE, 70), (fPWR_DOM_STATE 40, 2), (fPWR_WAKEMAP_DOMS 0, 2 ^ 40)] { up with aonBase := 70 }) = false ∧
    Dark (setFs [(fWAKE_EN_PCIE, 1), (fAON_TIMER_COMPARE, 70), (fPWR_DOM_STATE 40, 2), (fPWR_WAKEMAP_DOMS 0, 2 ^ 40)] { up with aonBase := 70 }) (40 : Fin 41) ∧
    getF (setFs [(fWAKE_EN_PCIE, 1), (fAON_TIMER_COMPARE, 70), (fPWR_DOM_STATE 40, 2), (fPWR_WAKEMAP_DOMS 0, 2 ^ 40)] { up with aonBase := 70 }) (fPWR_WAKEMAP_DOMS 0) = 2 ^ ((40 : Fin 41)).val) ∧
  getF (setFs [(fWAKE_EN_WAKEN, 0), (fAON_TIMER_COMPARE, 70)] { up with aonBase := 70 }) fWAKE_EN_WAKEN = 0 ∧
  (getF (setFs [(fWAKE_EN_WAKEN, 1), (fAON_TIMER_COMPARE, 70)] { up with aonBase := 70, offNow := true }) fWAKE_EN_WAKEN = 1 ∧
    State.offNow (setFs [(fWAKE_EN_WAKEN, 1), (fAON_TIMER_COMPARE, 70)] { up with aonBase := 70, offNow := true }) = true) ∧
  (getF (setFs [(fWAKE_EN_WAKEN, 1), (fAON_TIMER_COMPARE, 70), (fPWR_DOM_STATE 40, 2), (fPWR_WAKEMAP_DOMS 1, 2 ^ 40)] { up with aonBase := 70 }) fWAKE_EN_WAKEN = 1 ∧
    State.offNow (setFs [(fWAKE_EN_WAKEN, 1), (fAON_TIMER_COMPARE, 70), (fPWR_DOM_STATE 40, 2), (fPWR_WAKEMAP_DOMS 1, 2 ^ 40)] { up with aonBase := 70 }) = false ∧
    Dark (setFs [(fWAKE_EN_WAKEN, 1), (fAON_TIMER_COMPARE, 70), (fPWR_DOM_STATE 40, 2), (fPWR_WAKEMAP_DOMS 1, 2 ^ 40)] { up with aonBase := 70 }) (40 : Fin 41) ∧
    getF (setFs [(fWAKE_EN_WAKEN, 1), (fAON_TIMER_COMPARE, 70), (fPWR_DOM_STATE 40, 2), (fPWR_WAKEMAP_DOMS 1, 2 ^ 40)] { up with aonBase := 70 }) (fPWR_WAKEMAP_DOMS 1) = 2 ^ ((40 : Fin 41)).val) :=
  ⟨⟨by decide +kernel, by decide +kernel⟩,
    ⟨by decide +kernel, by decide +kernel, ⟨by decide +kernel, by decide +kernel, by decide +kernel, by decide +kernel⟩, by decide +kernel⟩,
    by decide +kernel,
    ⟨by decide +kernel, by decide +kernel⟩,
    ⟨by decide +kernel, by decide +kernel, ⟨by decide +kernel, by decide +kernel, by decide +kernel, by decide +kernel⟩, by decide +kernel⟩⟩
theorem meets_PowerTransitions_8 :
  ((getF (setFs [(fWAKE_EN_TIMER, 0), (fAON_TIMER_COMPARE, 70)] { up with aonBase := 70 }) fAON_TIMER_COMPARE ≠ 0 ∧ getF (setFs [(fWAKE_EN_TIMER, 0), (fAON_TIMER_COMPARE, 70)] { up with aonBase := 70 }) fAON_TIMER_COMPARE ≤ aonNow (setFs [(fWAKE_EN_TIMER, 0), (fAON_TIMER_COMPARE, 70)] { up with aonBase := 70 })) ∧
    getF (setFs [(fWAKE_EN_TIMER, 0), (fAON_TIMER_COMPARE, 70)] { up with aonBase := 70 }) fWAKE_EN_TIMER = 0) ∧
  ((getF (setFs [(fWAKE_EN_TIMER, 1), (fAON_TIMER_COMPARE, 70)] { up with aonBase := 70, offNow := true }) fAON_TIMER_COMPARE ≠ 0 ∧ getF (setFs [(fWAKE_EN_TIMER, 1), (fAON_TIMER_COMPARE, 70)] { up with aonBase := 70, offNow := true }) fAON_TIMER_COMPARE ≤ aonNow (setFs [(fWAKE_EN_TIMER, 1), (fAON_TIMER_COMPARE, 70)] { up with aonBase := 70, offNow := true })) ∧
    getF (setFs [(fWAKE_EN_TIMER, 1), (fAON_TIMER_COMPARE, 70)] { up with aonBase := 70, offNow := true }) fWAKE_EN_TIMER = 1 ∧
    State.offNow (setFs [(fWAKE_EN_TIMER, 1), (fAON_TIMER_COMPARE, 70)] { up with aonBase := 70, offNow := true }) = true) ∧
  ((getF (setFs [(fWAKE_EN_TIMER, 1), (fAON_TIMER_COMPARE, 70), (fPWR_DOM_STATE 40, 2), (fPWR_WAKEMAP_DOMS 2, 2 ^ 40)] { up with aonBase := 70 }) fAON_TIMER_COMPARE ≠ 0 ∧ getF (setFs [(fWAKE_EN_TIMER, 1), (fAON_TIMER_COMPARE, 70), (fPWR_DOM_STATE 40, 2), (fPWR_WAKEMAP_DOMS 2, 2 ^ 40)] { up with aonBase := 70 }) fAON_TIMER_COMPARE ≤ aonNow (setFs [(fWAKE_EN_TIMER, 1), (fAON_TIMER_COMPARE, 70), (fPWR_DOM_STATE 40, 2), (fPWR_WAKEMAP_DOMS 2, 2 ^ 40)] { up with aonBase := 70 })) ∧
    getF (setFs [(fWAKE_EN_TIMER, 1), (fAON_TIMER_COMPARE, 70), (fPWR_DOM_STATE 40, 2), (fPWR_WAKEMAP_DOMS 2, 2 ^ 40)] { up with aonBase := 70 }) fWAKE_EN_TIMER = 1 ∧
    State.offNow (setFs [(fWAKE_EN_TIMER, 1), (fAON_TIMER_COMPARE, 70), (fPWR_DOM_STATE 40, 2), (fPWR_WAKEMAP_DOMS 2, 2 ^ 40)] { up with aonBase := 70 }) = false ∧
    Dark (setFs [(fWAKE_EN_TIMER, 1), (fAON_TIMER_COMPARE, 70), (fPWR_DOM_STATE 40, 2), (fPWR_WAKEMAP_DOMS 2, 2 ^ 40)] { up with aonBase := 70 }) (40 : Fin 41) ∧
    getF (setFs [(fWAKE_EN_TIMER, 1), (fAON_TIMER_COMPARE, 70), (fPWR_DOM_STATE 40, 2), (fPWR_WAKEMAP_DOMS 2, 2 ^ 40)] { up with aonBase := 70 }) (fPWR_WAKEMAP_DOMS 2) = 2 ^ ((40 : Fin 41)).val) ∧
  getF (setFs [(fGOV_CTL_GOV_EN, 1), (fGOV_CTL_PLIM, 900), (fGOV_CTL_TLIM, 100), (fGOV_STAT_K, 56)] up) fGOV_CTL_GOV_EN = 1 ∧
  getF (setFs [(fGOV_CTL_GOV_EN, 1), (fGOV_CTL_PLIM, 900), (fGOV_CTL_TLIM, 100), (fGOV_STAT_K, 0)] up) fGOV_CTL_GOV_EN = 1 ∧
  getF (setFs [(fGOV_CTL_GOV_EN, 1), (fGOV_CTL_PLIM, 900), (fGOV_CTL_TLIM, 100), (fGOV_STAT_K, 1)] up) fGOV_CTL_GOV_EN = 1 ∧
  getF (setFs [(fGOV_CTL_GOV_EN, 1), (fGOV_CTL_PLIM, 900), (fGOV_CTL_TLIM, 100), (fGOV_STAT_K, 0)] up) fGOV_CTL_GOV_EN = 1 :=
  ⟨⟨by decide +kernel, by decide +kernel⟩,
    ⟨by decide +kernel, by decide +kernel, by decide +kernel⟩,
    ⟨by decide +kernel, by decide +kernel, by decide +kernel, ⟨by decide +kernel, by decide +kernel, by decide +kernel, by decide +kernel⟩, by decide +kernel⟩,
    by decide +kernel,
    by decide +kernel,
    by decide +kernel,
    by decide +kernel⟩
theorem meets_PowerTransitions_9 :
  getF (setF fGOV_CTL_GOV_EN 0 up) fGOV_CTL_GOV_EN = 0 ∧
  (State.off (desc (job 0xF [0xF]) { rings with off := some 9 }) = some 9 ∧
    State.fetches (desc (job 0xF [0xF]) { rings with off := some 9 }) = [] ∧
    (∀ j ∈ (State.jobs (desc (job 0xF [0xF]) { rings with off := some 9 })), j.id = 9)) ∧
  ((getCore (setFs [(fPWR_GRANT_DOMS 63, 2 ^ 41 - 1)] (updCore 63 (fun c => { c with state := .running }) up)) (63 : Fin 64)).state ≠ .halted ∧
    ((if 3 < ((4 * 256 + 36) : Word).toNat / 256 % 8 then 8 else if 40 < ((4 * 256 + 36) : Word).toNat % 64 ∨ (getF (setFs [(fPWR_GRANT_DOMS 63, 2 ^ 41 - 1)] (updCore 63 (fun c => { c with state := .running }) up)) (fPWR_GRANT_DOMS (63 : Fin 64))).testBit (((4 * 256 + 36) : Word).toNat % 64) = false then 1 else if ((4 * 256 + 36) : Word).toNat % 64 = quadDom (63 : Fin 64) then 1 else if ((4 * 256 + 36) : Word).toNat % 64 < 16 ∧ ((4 * 256 + 36) : Word).toNat / 256 % 8 ≠ 0 ∧ quadBusy (setFs [(fPWR_GRANT_DOMS 63, 2 ^ 41 - 1)] (updCore 63 (fun c => { c with state := .running }) up)) (((4 * 256 + 36) : Word).toNat % 64) = true then 8 else 0) ≠ 0)) ∧
  ((getCore (setFs [(fPWR_GRANT_DOMS 63, 2 ^ 41 - 1)] (updCore 63 (fun c => { c with state := .running }) up)) (63 : Fin 64)).state ≠ .halted ∧
    ((if 3 < (41 : Word).toNat / 256 % 8 then 8 else if 40 < (41 : Word).toNat % 64 ∨ (getF (setFs [(fPWR_GRANT_DOMS 63, 2 ^ 41 - 1)] (updCore 63 (fun c => { c with state := .running }) up)) (fPWR_GRANT_DOMS (63 : Fin 64))).testBit ((41 : Word).toNat % 64) = false then 1 else if (41 : Word).toNat % 64 = quadDom (63 : Fin 64) then 1 else if (41 : Word).toNat % 64 < 16 ∧ (41 : Word).toNat / 256 % 8 ≠ 0 ∧ quadBusy (setFs [(fPWR_GRANT_DOMS 63, 2 ^ 41 - 1)] (updCore 63 (fun c => { c with state := .running }) up)) ((41 : Word).toNat % 64) = true then 8 else 0) ≠ 0)) ∧
  ((getCore (updCore 63 (fun c => { c with state := .running }) up) (63 : Fin 64)).state ≠ .halted ∧
    ((if 3 < (36 : Word).toNat / 256 % 8 then 8 else if 40 < (36 : Word).toNat % 64 ∨ (getF (updCore 63 (fun c => { c with state := .running }) up) (fPWR_GRANT_DOMS (63 : Fin 64))).testBit ((36 : Word).toNat % 64) = false then 1 else if (36 : Word).toNat % 64 = quadDom (63 : Fin 64) then 1 else if (36 : Word).toNat % 64 < 16 ∧ (36 : Word).toNat / 256 % 8 ≠ 0 ∧ quadBusy (updCore 63 (fun c => { c with state := .running }) up) ((36 : Word).toNat % 64) = true then 8 else 0) ≠ 0)) ∧
  ((getCore (setFs [(fPWR_GRANT_DOMS 63, 2 ^ 41 - 1)] (updCore 63 (fun c => { c with state := .running }) up)) (63 : Fin 64)).state ≠ .halted ∧
    ((if 3 < (15 : Word).toNat / 256 % 8 then 8 else if 40 < (15 : Word).toNat % 64 ∨ (getF (setFs [(fPWR_GRANT_DOMS 63, 2 ^ 41 - 1)] (updCore 63 (fun c => { c with state := .running }) up)) (fPWR_GRANT_DOMS (63 : Fin 64))).testBit ((15 : Word).toNat % 64) = false then 1 else if (15 : Word).toNat % 64 = quadDom (63 : Fin 64) then 1 else if (15 : Word).toNat % 64 < 16 ∧ (15 : Word).toNat / 256 % 8 ≠ 0 ∧ quadBusy (setFs [(fPWR_GRANT_DOMS 63, 2 ^ 41 - 1)] (updCore 63 (fun c => { c with state := .running }) up)) ((15 : Word).toNat % 64) = true then 8 else 0) ≠ 0)) ∧
  ((getCore (setFs [(fPWR_GRANT_DOMS 63, 2 ^ 41 - 1)] (updCore 0 (fun c => { c with state := .running }) (updCore 63 (fun c => { c with state := .running }) { up with parts := [(0, ⟨0, 0, 0⟩)] }))) (63 : Fin 64)).state ≠ .halted ∧
    ((if 3 < (256 : Word).toNat / 256 % 8 then 8 else if 40 < (256 : Word).toNat % 64 ∨ (getF (setFs [(fPWR_GRANT_DOMS 63, 2 ^ 41 - 1)] (updCore 0 (fun c => { c with state := .running }) (updCore 63 (fun c => { c with state := .running }) { up with parts := [(0, ⟨0, 0, 0⟩)] }))) (fPWR_GRANT_DOMS (63 : Fin 64))).testBit ((256 : Word).toNat % 64) = false then 1 else if (256 : Word).toNat % 64 = quadDom (63 : Fin 64) then 1 else if (256 : Word).toNat % 64 < 16 ∧ (256 : Word).toNat / 256 % 8 ≠ 0 ∧ quadBusy (setFs [(fPWR_GRANT_DOMS 63, 2 ^ 41 - 1)] (updCore 0 (fun c => { c with state := .running }) (updCore 63 (fun c => { c with state := .running }) { up with parts := [(0, ⟨0, 0, 0⟩)] }))) ((256 : Word).toNat % 64) = true then 8 else 0) ≠ 0)) :=
  ⟨by decide +kernel,
    ⟨by decide +kernel, by decide +kernel, by decide +kernel⟩,
    ⟨by decide +kernel, by decide +kernel⟩,
    ⟨by decide +kernel, by decide +kernel⟩,
    ⟨by decide +kernel, by decide +kernel⟩,
    ⟨by decide +kernel, by decide +kernel⟩,
    ⟨by decide +kernel, by decide +kernel⟩⟩
theorem meets_PowerTransitions_10 :
  ((getCore (setFs [(fPWR_GRANT_DOMS 63, 2 ^ 41 - 1)] (updCore 63 (fun c => { c with state := .running }) up)) (63 : Fin 64)).state ≠ .halted ∧
    ((if 3 < (36 : Word).toNat / 256 % 8 then 8 else if 40 < (36 : Word).toNat % 64 ∨ (getF (setFs [(fPWR_GRANT_DOMS 63, 2 ^ 41 - 1)] (updCore 63 (fun c => { c with state := .running }) up)) (fPWR_GRANT_DOMS (63 : Fin 64))).testBit ((36 : Word).toNat % 64) = false then 1 else if (36 : Word).toNat % 64 = quadDom (63 : Fin 64) then 1 else if (36 : Word).toNat % 64 < 16 ∧ (36 : Word).toNat / 256 % 8 ≠ 0 ∧ quadBusy (setFs [(fPWR_GRANT_DOMS 63, 2 ^ 41 - 1)] (updCore 63 (fun c => { c with state := .running }) up)) ((36 : Word).toNat % 64) = true then 8 else 0) = 0) ∧
    (getDom (setFs [(fPWR_GRANT_DOMS 63, 2 ^ 41 - 1)] (updCore 63 (fun c => { c with state := .running }) up)) ((36 : Word).toNat % 64)).trans = none ∧
    (getDom (setFs [(fPWR_GRANT_DOMS 63, 2 ^ 41 - 1)] (updCore 63 (fun c => { c with state := .running }) up)) ((36 : Word).toNat % 64)).slot = none ∧
    getF (setFs [(fPWR_GRANT_DOMS 63, 2 ^ 41 - 1)] (updCore 63 (fun c => { c with state := .running }) up)) (fPWR_DOM_FAULT ((36 : Word).toNat % 64)) = 0 ∧
    (36 : Word).toNat / 256 % 8 = domState (setFs [(fPWR_GRANT_DOMS 63, 2 ^ 41 - 1)] (updCore 63 (fun c => { c with state := .running }) up)) ((36 : Word).toNat % 64)) ∧
  ((getCore (setFs [(fPWR_GRANT_DOMS 63, 2 ^ 41 - 1)] (updCore 63 (fun c => { c with state := .running }) up)) (63 : Fin 64)).state ≠ .halted ∧
    ((if 3 < ((256 + 36) : Word).toNat / 256 % 8 then 8 else if 40 < ((256 + 36) : Word).toNat % 64 ∨ (getF (setFs [(fPWR_GRANT_DOMS 63, 2 ^ 41 - 1)] (updCore 63 (fun c => { c with state := .running }) up)) (fPWR_GRANT_DOMS (63 : Fin 64))).testBit (((256 + 36) : Word).toNat % 64) = false then 1 else if ((256 + 36) : Word).toNat % 64 = quadDom (63 : Fin 64) then 1 else if ((256 + 36) : Word).toNat % 64 < 16 ∧ ((256 + 36) : Word).toNat / 256 % 8 ≠ 0 ∧ quadBusy (setFs [(fPWR_GRANT_DOMS 63, 2 ^ 41 - 1)] (updCore 63 (fun c => { c with state := .running }) up)) (((256 + 36) : Word).toNat % 64) = true then 8 else 0) = 0) ∧
    (getDom (setFs [(fPWR_GRANT_DOMS 63, 2 ^ 41 - 1)] (updCore 63 (fun c => { c with state := .running }) up)) (((256 + 36) : Word).toNat % 64)).trans = none ∧
    (getDom (setFs [(fPWR_GRANT_DOMS 63, 2 ^ 41 - 1)] (updCore 63 (fun c => { c with state := .running }) up)) (((256 + 36) : Word).toNat % 64)).slot = none ∧
    getF (setFs [(fPWR_GRANT_DOMS 63, 2 ^ 41 - 1)] (updCore 63 (fun c => { c with state := .running }) up)) (fPWR_DOM_FAULT (((256 + 36) : Word).toNat % 64)) = 0 ∧
    ((256 + 36) : Word).toNat / 256 % 8 ≠ domState (setFs [(fPWR_GRANT_DOMS 63, 2 ^ 41 - 1)] (updCore 63 (fun c => { c with state := .running }) up)) (((256 + 36) : Word).toNat % 64)) :=
  ⟨⟨by decide +kernel, by decide +kernel, by decide +kernel, by decide +kernel, by decide +kernel, by decide +kernel⟩,
    ⟨by decide +kernel, by decide +kernel, by decide +kernel, by decide +kernel, by decide +kernel, by decide +kernel⟩⟩
theorem meets_PowerTransitions_11 :
  (getCore (setFs [(fPWR_GRANT_DOMS 63, 2 ^ 41 - 1)] (updCore 63 (fun c => { c with state := .running }) up)) (63 : Fin 64)).state ≠ .halted ∧
    ((if 3 < ((3 * 256) : Word).toNat / 256 % 8 then 8 else if 40 < ((3 * 256) : Word).toNat % 64 ∨ (getF (setFs [(fPWR_GRANT_DOMS 63, 2 ^ 41 - 1)] (updCore 63 (fun c => { c with state := .running }) up)) (fPWR_GRANT_DOMS (63 : Fin 64))).testBit (((3 * 256) : Word).toNat % 64) = false then 1 else if ((3 * 256) : Word).toNat % 64 = quadDom (63 : Fin 64) then 1 else if ((3 * 256) : Word).toNat % 64 < 16 ∧ ((3 * 256) : Word).toNat / 256 % 8 ≠ 0 ∧ quadBusy (setFs [(fPWR_GRANT_DOMS 63, 2 ^ 41 - 1)] (updCore 63 (fun c => { c with state := .running }) up)) (((3 * 256) : Word).toNat % 64) = true then 8 else 0) = 0) ∧
    (getDom (setFs [(fPWR_GRANT_DOMS 63, 2 ^ 41 - 1)] (updCore 63 (fun c => { c with state := .running }) up)) (((3 * 256) : Word).toNat % 64)).trans = none ∧
    (getDom (setFs [(fPWR_GRANT_DOMS 63, 2 ^ 41 - 1)] (updCore 63 (fun c => { c with state := .running }) up)) (((3 * 256) : Word).toNat % 64)).slot = none ∧
    getF (setFs [(fPWR_GRANT_DOMS 63, 2 ^ 41 - 1)] (updCore 63 (fun c => { c with state := .running }) up)) (fPWR_DOM_FAULT (((3 * 256) : Word).toNat % 64)) = 0 ∧
    ((3 * 256) : Word).toNat / 256 % 8 ≠ domState (setFs [(fPWR_GRANT_DOMS 63, 2 ^ 41 - 1)] (updCore 63 (fun c => { c with state := .running }) up)) (((3 * 256) : Word).toNat % 64) :=
  ⟨by decide +kernel, by decide +kernel, by decide +kernel, by decide +kernel, by decide +kernel, by decide +kernel⟩

/-- A SPARE of column 127 of field 63 at a stage. -/
def spJob (st : Nat) : Job := job 0xC [0xC + 63 * 2 ^ 16, 15] fun j => { j with phase := .running, stage := st }
def spS (st : Nat) (s : State := rings) : State := desc (spJob st) s
/-- Field 63 is a partition of its own, in a sequencer state. -/
def own63 (m : MState) (s : State := rings) : State := updSeq 63 (fun q => { q with state := m }) { s with parts := [(63, p5)] }
def rbJob : Job := job 0xD [0xD + 63 * 2 ^ 16] fun j => { j with phase := .running, id := 2 }

/-- States that meet the hypotheses of ServiceOperations. -/
theorem meets_ServiceOperations :
  ((State.Numbered (spS 0)) ∧
    spareOf (spS 0) (63 : Fin 64) 0 = some (spJob 0)) ∧
  ((State.Numbered (spS 0)) ∧
    spareOf (spS 0) (63 : Fin 64) 0 = some (spJob 0) ∧
    partOf (spS 0) (63 : Fin 64) = none) ∧
  ((State.Numbered (spS 0 (own63 .issuing))) ∧
    spareOf (spS 0 (own63 .issuing)) (63 : Fin 64) 0 = some (spJob 0) ∧
    partOf (spS 0 (own63 .issuing)) (63 : Fin 64) = some (63, p5)) ∧
  (spareOf (spS 1) (63 : Fin 64) 1 = some (spJob 1) ∧
    partOf (spS 1) (63 : Fin 64) = none) ∧
  (spareOf (spS 1 (own63 .yielded)) (63 : Fin 64) 1 = some (spJob 1) ∧
    partOf (spS 1 (own63 .yielded)) (63 : Fin 64) = some (63, p5) ∧
    hubReady (spS 1 (own63 .yielded)) 63 = true ∧
    readbackFirst (spS 1 (own63 .yielded)) 63 (spJob 1).id = false) :=
  ⟨⟨numbered_of _ (by decide +kernel), by decide +kernel⟩,
    ⟨numbered_of _ (by decide +kernel), by decide +kernel, by decide +kernel⟩,
    ⟨numbered_of _ (by decide +kernel), by decide +kernel, by decide +kernel⟩,
    ⟨by decide +kernel, by decide +kernel⟩,
    ⟨by decide +kernel, by decide +kernel, by decide +kernel, by decide +kernel⟩⟩
theorem meets_ServiceOperations_2 :
  (spareOf (spS 1 (own63 .issuing)) (63 : Fin 64) 1 = some (spJob 1) ∧
    partOf (spS 1 (own63 .issuing)) (63 : Fin 64) = some (63, p5) ∧
    (hubReady (spS 1 (own63 .issuing)) 63 = false ∨ readbackFirst (spS 1 (own63 .issuing)) 63 (spJob 1).id = true)) ∧
  (spareOf ({ (own63 .yielded) with jobs := [spJob 1, rbJob] }) (63 : Fin 64) 1 = some (spJob 1) ∧
    partOf ({ (own63 .yielded) with jobs := [spJob 1, rbJob] }) (63 : Fin 64) = some (63, p5) ∧
    (hubReady ({ (own63 .yielded) with jobs := [spJob 1, rbJob] }) 63 = false ∨ readbackFirst ({ (own63 .yielded) with jobs := [spJob 1, rbJob] }) 63 (spJob 1).id = true)) ∧
  ((State.Numbered (spS 2)) ∧
    spareOf (spS 2) (63 : Fin 64) 2 = some (spJob 2)) ∧
  ((State.Numbered (spS 2 (updSeq 63 (fun q => { q with hubSvc := true }) (own63 .yielded)))) ∧
    spareOf (spS 2 (updSeq 63 (fun q => { q with hubSvc := true }) (own63 .yielded))) (63 : Fin 64) 2 = some (spJob 2)) ∧
  (HostPath up 0x61 (0x50018 + 0x1000 * (3 : Fin 4).val) ∧
    (domRun up (16 + ((3 : Fin 4)).val) = true ∧ getF up (fHBM_STAT_FAILED (3 : Fin 4)) = 0 ∧ getF up (fHBM_RECAL_BUSY (3 : Fin 4)) = 0)) ∧
  (HostPath (setF (fPWR_DOM_STATE 19) 1 up) 0x61 (0x50018 + 0x1000 * (3 : Fin 4).val) ∧
    (domRun (setF (fPWR_DOM_STATE 19) 1 up) (16 + ((3 : Fin 4)).val) = false ∨ getF (setF (fPWR_DOM_STATE 19) 1 up) (fHBM_STAT_FAILED (3 : Fin 4)) = 1 ∨ getF (setF (fPWR_DOM_STATE 19) 1 up) (fHBM_RECAL_BUSY (3 : Fin 4)) = 1)) :=
  ⟨⟨by decide +kernel, by decide +kernel, by decide +kernel⟩,
    ⟨by decide +kernel, by decide +kernel, by decide +kernel⟩,
    ⟨numbered_of _ (by decide +kernel), by decide +kernel⟩,
    ⟨numbered_of _ (by decide +kernel), by decide +kernel⟩,
    ⟨⟨by decide +kernel, by decide +kernel⟩, by decide +kernel⟩,
    ⟨⟨by decide +kernel, by decide +kernel⟩, by decide +kernel⟩⟩
theorem meets_ServiceOperations_3 :
  (HostPath (setF (fHBM_STAT_FAILED 3) 1 up) 0x61 (0x50018 + 0x1000 * (3 : Fin 4).val) ∧
    (domRun (setF (fHBM_STAT_FAILED 3) 1 up) (16 + ((3 : Fin 4)).val) = false ∨ getF (setF (fHBM_STAT_FAILED 3) 1 up) (fHBM_STAT_FAILED (3 : Fin 4)) = 1 ∨ getF (setF (fHBM_STAT_FAILED 3) 1 up) (fHBM_RECAL_BUSY (3 : Fin 4)) = 1)) ∧
  (HostPath (setF (fHBM_RECAL_BUSY 3) 1 up) 0x61 (0x50018 + 0x1000 * (3 : Fin 4).val) ∧
    (domRun (setF (fHBM_RECAL_BUSY 3) 1 up) (16 + ((3 : Fin 4)).val) = false ∨ getF (setF (fHBM_RECAL_BUSY 3) 1 up) (fHBM_STAT_FAILED (3 : Fin 4)) = 1 ∨ getF (setF (fHBM_RECAL_BUSY 3) 1 up) (fHBM_RECAL_BUSY (3 : Fin 4)) = 1)) ∧
  getF (setF (fHBM_RECAL_BUSY 3) 1 { up with hbmHeld := [63, 5] }) (fHBM_RECAL_BUSY (3 : Fin 4)) = 1 ∧
  (HostPath (setF fFW_CTL_BUSY 1 up) 0x80 0x4D000 ∧
    getF (setF fFW_CTL_BUSY 1 up) fFW_CTL_BUSY = 1) ∧
  (HostPath (setF fFW_CTL_BUSY 1 up) 0x80 0x4D000 ∧
    getF (setF fFW_CTL_BUSY 1 up) fFW_CTL_BUSY = 1) ∧
  (HostPath up 0x80 0x4D000 ∧
    getF up fFW_CTL_BUSY = 0) ∧
  (HostPath up 0x80 0x4D000 ∧
    getF up fFW_CTL_BUSY = 0 ∧
    getF up fFW_CTL_READY = 0) :=
  ⟨⟨⟨by decide +kernel, by decide +kernel⟩, by decide +kernel⟩,
    ⟨⟨by decide +kernel, by decide +kernel⟩, by decide +kernel⟩,
    by decide +kernel,
    ⟨⟨by decide +kernel, by decide +kernel⟩, by decide +kernel⟩,
    ⟨⟨by decide +kernel, by decide +kernel⟩, by decide +kernel⟩,
    ⟨⟨by decide +kernel, by decide +kernel⟩, by decide +kernel⟩,
    ⟨⟨by decide +kernel, by decide +kernel⟩, by decide +kernel, by decide +kernel⟩⟩
theorem meets_ServiceOperations_4 :
  (HostPath (setF fFW_CTL_READY 1 up) 0x80 0x4D000 ∧
    getF (setF fFW_CTL_READY 1 up) fFW_CTL_BUSY = 0 ∧
    getF (setF fFW_CTL_READY 1 up) fFW_CTL_READY = 1) ∧
  getF (setFs [(fFW_CTL_STAGE, 1), (fFW_CTL_BUSY, 1), (fFW_SRC_OFFSET, (2 ^ 26 - 64)), (fFW_SRC_LEN, 128)] up) fFW_CTL_STAGE = 1 ∧
  getF (setFs [(fFW_CTL_STAGE, 1), (fFW_CTL_BUSY, 1), (fFW_SRC_OFFSET, 0), (fFW_SRC_LEN, 300)] up) fFW_CTL_STAGE = 1 ∧
  ((State.Numbered (setFs [(fFW_CTL_SWITCH, 1), (fFW_CTL_BUSY, 1), (fFW_CTL_READY, 1), (fFW_CTL_ACTIVE, 0)] { up with cqHold := true, ringStop := true })) ∧
    getF (setFs [(fFW_CTL_SWITCH, 1), (fFW_CTL_BUSY, 1), (fFW_CTL_READY, 1), (fFW_CTL_ACTIVE, 0)] { up with cqHold := true, ringStop := true }) fFW_CTL_SWITCH = 1) ∧
  ((State.Numbered (setFs [(fFW_CTL_SWITCH, 1), (fFW_CTL_BUSY, 1), (fFW_CTL_READY, 1), (fFW_CTL_ACTIVE, 1)] { up with cqHold := true, ringStop := true })) ∧
    getF (setFs [(fFW_CTL_SWITCH, 1), (fFW_CTL_BUSY, 1), (fFW_CTL_READY, 1), (fFW_CTL_ACTIVE, 1)] { up with cqHold := true, ringStop := true }) fFW_CTL_SWITCH = 1) ∧
  HostPath up 0x80 0x4E008 ∧
  HostPath (setFs [(fSEC_STAT_SVN_IMG, 9), (fSEC_STAT_SVN_FUSE, 8), (fSEC_STAT_KEY_SEL, 1)] up) 0x80 0x4E008 ∧
  HostPath (setFs [(fSEC_STAT_SVN_IMG, 9), (fSEC_STAT_SVN_FUSE, 9)] up) 0x80 0x4E008 ∧
  getF up fSEC_CTL_BUSY = 0 ∧
  getF (setFs [(fSEC_CTL_BUSY, 1), (fSEC_CTL_SVN_COMMIT, 1), (fSEC_CTL_REVOKE0, 0), (fSEC_STAT_SVN_IMG, 9)] up) fSEC_CTL_BUSY = 1 :=
  ⟨⟨⟨by decide +kernel, by decide +kernel⟩, by decide +kernel, by decide +kernel⟩,
    by decide +kernel,
    by decide +kernel,
    ⟨numbered_of _ (by decide +kernel), by decide +kernel⟩,
    ⟨numbered_of _ (by decide +kernel), by decide +kernel⟩,
    ⟨by decide +kernel, by decide +kernel⟩,
    ⟨by decide +kernel, by decide +kernel⟩,
    ⟨by decide +kernel, by decide +kernel⟩,
    by decide +kernel,
    by decide +kernel⟩
theorem meets_ServiceOperations_5 :
  getF (setFs [(fSEC_CTL_BUSY, 1), (fSEC_CTL_SVN_COMMIT, 0), (fSEC_CTL_REVOKE0, 1), (fSEC_STAT_SVN_IMG, 9)] up) fSEC_CTL_BUSY = 1 ∧
  (HostPath up 0x80 (0x890000 + 8 * (0xFF : BitVec 8).toNat) ∧
    nodeExists (0xFF : BitVec 8).toNat = false) ∧
  (HostPath (setF (fACL_CTL_LOCK 5) 1 up) 0x80 (0x890000 + 8 * (5 : BitVec 8).toNat) ∧
    nodeExists (5 : BitVec 8).toNat = true ∧
    getF (setF (fACL_CTL_LOCK 5) 1 up) (fACL_CTL_LOCK (5 : BitVec 8).toNat) = 1) ∧
  (HostPath up 0x80 (0x890000 + 8 * (0xAA : BitVec 8).toNat) ∧
    nodeExists (0xAA : BitVec 8).toNat = true ∧
    getF up (fACL_CTL_LOCK (0xAA : BitVec 8).toNat) = 0) :=
  ⟨by decide +kernel,
    ⟨⟨by decide +kernel, by decide +kernel⟩, by decide +kernel⟩,
    ⟨⟨by decide +kernel, by decide +kernel⟩, by decide +kernel, by decide +kernel⟩,
    ⟨⟨by decide +kernel, by decide +kernel⟩, by decide +kernel, by decide +kernel⟩⟩

/-- WHY of a definition, of a removal and of a domain reset, as the statement has them. -/
def whyDef (f : Fin 64) (w h : Fin 4) (fn : Fin 64) (s : State) : Nat :=
  if getF s fPART_STAT_BUSY = 1 then 7 else if getF s (fFUNC_STAT_ENABLED fn) = 0 then 6
      else if fcol f % 2 ^ w.val ≠ 0 ∨ frow f % 2 ^ h.val ≠ 0 then 1
      else if ∃ g ∈ partFields (f.val, ⟨w, h, fn⟩), (partOf s g).isSome then 2
      else if ∃ g ∈ partFields (f.val, ⟨w, h, fn⟩), (getCore s g).state ≠ .halted then 3
      else if rectInvolved s (partFields (f.val, ⟨w, h, fn⟩)) = true ∨ wpInvolves s (partFields (f.val, ⟨w, h, fn⟩)) = true then 5 else 0
def whyRem (f : Fin 64) (p : Part) (s : State) : Nat :=
  if (getCore s f).state ≠ .halted then 3
        else if rectInvolved s (partFields (f.val, p)) = true ∨ wpInvolves s (partFields (f.val, p)) = true ∨ launchPending s f = true then 5 else 0
def whyDom (d : Fin 64) (s : State) : Nat :=
  if 40 < d.val then 1
      else if getF s (fPWR_DOM_STATE d) ≠ 0 ∨ (getDom s d).trans.isSome ∨ (getDom s d).slot.isSome then 2
      else if d.val < 16 ∧ ∃ f ∈ quadFields d, (partOf s f).isSome then 3
      else if ∃ j ∈ domLinks d, getF s (fLINK_CTL_ENABLE j) = 1 then 4
      else if 20 ≤ d.val ∧ d.val < 28 ∧ ∃ j ∈ s.jobs, j.op = 7 ∧ j.phase = .running ∧ ldStrip j = d.val - 20 then 5
      else if getF s fDOM_RST_BUSY = 1 then 6 else 0
def own5 (s : State := up) : State := { s with parts := [(5, p5)] }
/-- A part that has run: memory, a partition, a fuse write under way, and the always-on registers changed. -/
def used : State := setByte 3 7 (setFs [(fSEC_CTL_SVN_COMMIT, 1), (fSEC_STAT_SVN_IMG, 9), (fWAKE_CAUSE_SRC, 3), (fAON_TIMER_COMPARE, 70)] (own5 { up with hostTx := [] }))

/-- States that meet the hypotheses of PartitionCommands. -/
theorem meets_PartitionCommands :
  (HostPath up 0x80 0x40000 ∧
    whyDef 0 3 3 0 up = 0) ∧
  (HostPath up 0x80 0x40000 ∧
    whyDef 63 0 0 0 up = 0) ∧
  (HostPath (setF fPART_STAT_BUSY 1 up) 0x80 0x40000 ∧
    whyDef 5 0 0 0 (setF fPART_STAT_BUSY 1 up) ≠ 0) ∧
  (HostPath up 0x80 0x40000 ∧
    whyDef 5 0 0 63 up ≠ 0) ∧
  (HostPath up 0x80 0x40000 ∧
    whyDef 5 1 0 0 up ≠ 0) ∧
  (HostPath (own5) 0x80 0x40000 ∧
    whyDef 4 1 0 0 (own5) ≠ 0) ∧
  (HostPath (core []) 0x80 0x40000 ∧
    whyDef 5 0 0 0 (core []) ≠ 0) :=
  ⟨⟨⟨by decide +kernel, by decide +kernel⟩, by decide +kernel⟩,
    ⟨⟨by decide +kernel, by decide +kernel⟩, by decide +kernel⟩,
    ⟨⟨by decide +kernel, by decide +kernel⟩, by decide +kernel⟩,
    ⟨⟨by decide +kernel, by decide +kernel⟩, by decide +kernel⟩,
    ⟨⟨by decide +kernel, by decide +kernel⟩, by decide +kernel⟩,
    ⟨⟨by decide +kernel, by decide +kernel⟩, by decide +kernel⟩,
    ⟨⟨by decide +kernel, by decide +kernel⟩, by decide +kernel⟩⟩
theorem meets_PartitionCommands_2 :
  (HostPath (spS 1) 0x80 0x40000 ∧
    whyDef 63 0 0 0 (spS 1) ≠ 0) ∧
  (HostPath (setF fPART_STAT_BUSY 1 up) 0x80 0x40000 ∧
    getF (setF fPART_STAT_BUSY 1 up) fPART_STAT_BUSY = 1) ∧
  (HostPath up 0x80 0x40000 ∧
    getF up fPART_STAT_BUSY = 0 ∧
    partAt up (5 : Fin 64) = none) ∧
  (HostPath (setF fPART_STAT_BUSY 1 up) 0x80 0x40000 ∧
    getF (setF fPART_STAT_BUSY 1 up) fPART_STAT_BUSY = 1) ∧
  (HostPath up 0x80 0x40000 ∧
    getF up fPART_STAT_BUSY = 0 ∧
    partAt up (5 : Fin 64) = none) :=
  ⟨⟨⟨by decide +kernel, by decide +kernel⟩, by decide +kernel⟩,
    ⟨⟨by decide +kernel, by decide +kernel⟩, by decide +kernel⟩,
    ⟨⟨by decide +kernel, by decide +kernel⟩, by decide +kernel, by decide +kernel⟩,
    ⟨⟨by decide +kernel, by decide +kernel⟩, by decide +kernel⟩,
    ⟨⟨by decide +kernel, by decide +kernel⟩, by decide +kernel, by decide +kernel⟩⟩
theorem meets_PartitionCommands_3 :
  (HostPath (own5 (core [])) 0x80 0x40000 ∧
    getF (own5 (core [])) fPART_STAT_BUSY = 0 ∧
    partAt (own5 (core [])) (5 : Fin 64) = some p5 ∧
    whyRem 5 p5 (own5 (core [])) ≠ 0) ∧
  (HostPath (desc (job 1 [1 + 5 * 2 ^ 16] fun j => { j with phase := .running }) (own5 rings)) 0x80 0x40000 ∧
    getF (desc (job 1 [1 + 5 * 2 ^ 16] fun j => { j with phase := .running }) (own5 rings)) fPART_STAT_BUSY = 0 ∧
    partAt (desc (job 1 [1 + 5 * 2 ^ 16] fun j => { j with phase := .running }) (own5 rings)) (5 : Fin 64) = some p5 ∧
    whyRem 5 p5 (desc (job 1 [1 + 5 * 2 ^ 16] fun j => { j with phase := .running }) (own5 rings)) ≠ 0) ∧
  (HostPath (desc (job 1 [1 + 5 * 2 ^ 16]) (own5 rings)) 0x80 0x40000 ∧
    getF (desc (job 1 [1 + 5 * 2 ^ 16]) (own5 rings)) fPART_STAT_BUSY = 0 ∧
    partAt (desc (job 1 [1 + 5 * 2 ^ 16]) (own5 rings)) (5 : Fin 64) = some p5 ∧
    whyRem 5 p5 (desc (job 1 [1 + 5 * 2 ^ 16]) (own5 rings)) = 0) ∧
  (HostPath (own5 (updField 5 (fun x => { x with rows := [(3, 9)] }) (updSeq 5 (fun q => { q with state := .yielded }) rings))) 0x80 0x40000 ∧
    getF (own5 (updField 5 (fun x => { x with rows := [(3, 9)] }) (updSeq 5 (fun q => { q with state := .yielded }) rings))) fPART_STAT_BUSY = 0 ∧
    partAt (own5 (updField 5 (fun x => { x with rows := [(3, 9)] }) (updSeq 5 (fun q => { q with state := .yielded }) rings))) (5 : Fin 64) = some p5 ∧
    whyRem 5 p5 (own5 (updField 5 (fun x => { x with rows := [(3, 9)] }) (updSeq 5 (fun q => { q with state := .yielded }) rings))) = 0) :=
  ⟨⟨⟨by decide +kernel, by decide +kernel⟩, by decide +kernel, by decide +kernel, by decide +kernel⟩,
    ⟨⟨by decide +kernel, by decide +kernel⟩, by decide +kernel, by decide +kernel, by decide +kernel⟩,
    ⟨⟨by decide +kernel, by decide +kernel⟩, by decide +kernel, by decide +kernel, by decide +kernel⟩,
    ⟨⟨by decide +kernel, by decide +kernel⟩, by decide +kernel, by decide +kernel, by decide +kernel⟩⟩
theorem meets_PartitionCommands_4 :
  (HostPath (own5 (updField 5 (fun x => { x with rows := [(3, 9)] }) (updSeq 5 (fun q => { q with state := .yielded }) rings))) 0x80 0x40000 ∧
    getF (own5 (updField 5 (fun x => { x with rows := [(3, 9)] }) (updSeq 5 (fun q => { q with state := .yielded }) rings))) fPART_STAT_BUSY = 0 ∧
    partAt (own5 (updField 5 (fun x => { x with rows := [(3, 9)] }) (updSeq 5 (fun q => { q with state := .yielded }) rings))) (5 : Fin 64) = some p5 ∧
    involved (own5 (updField 5 (fun x => { x with rows := [(3, 9)] }) (updSeq 5 (fun q => { q with state := .yielded }) rings))) (5 : Fin 64) = false ∧
    (State.Numbered (own5 (updField 5 (fun x => { x with rows := [(3, 9)] }) (updSeq 5 (fun q => { q with state := .yielded }) rings))))) ∧
  (HostPath (desc (job 0xD [0xD + 5 * 2 ^ 16] fun j => { j with phase := .running }) (own5 rings)) 0x80 0x40000 ∧
    getF (desc (job 0xD [0xD + 5 * 2 ^ 16] fun j => { j with phase := .running }) (own5 rings)) fPART_STAT_BUSY = 0 ∧
    partAt (desc (job 0xD [0xD + 5 * 2 ^ 16] fun j => { j with phase := .running }) (own5 rings)) (5 : Fin 64) = some p5 ∧
    involved (desc (job 0xD [0xD + 5 * 2 ^ 16] fun j => { j with phase := .running }) (own5 rings)) (5 : Fin 64) = true) ∧
  (State.partCmd ({ (setF fPART_STAT_BUSY 1 up) with partCmd := some ⟨1, 5, p5, false⟩ }) = some ⟨1, 5, p5, false⟩ ∧
    (State.Numbered ({ (setF fPART_STAT_BUSY 1 up) with partCmd := some ⟨1, 5, p5, false⟩ }))) ∧
  (State.partCmd ({ own5 (setF fPART_STAT_BUSY 1 up) with partCmd := some ⟨2, 5, p5, true⟩ }) = some ⟨2, 5, p5, true⟩ ∧
    (State.Numbered ({ own5 (setF fPART_STAT_BUSY 1 up) with partCmd := some ⟨2, 5, p5, true⟩ }))) :=
  ⟨⟨⟨by decide +kernel, by decide +kernel⟩, by decide +kernel, by decide +kernel, by decide +kernel, numbered_of _ (by decide +kernel)⟩,
    ⟨⟨by decide +kernel, by decide +kernel⟩, by decide +kernel, by decide +kernel, by decide +kernel⟩,
    ⟨by decide +kernel, numbered_of _ (by decide +kernel)⟩,
    ⟨by decide +kernel, numbered_of _ (by decide +kernel)⟩⟩
theorem meets_PartitionCommands_5 :
  (State.partCmd ({ own5 (setF fPART_STAT_BUSY 1 up) with partCmd := some ⟨3, 5, p5, true⟩ }) = some ⟨3, 5, p5, true⟩ ∧
    (State.Numbered ({ own5 (setF fPART_STAT_BUSY 1 up) with partCmd := some ⟨3, 5, p5, true⟩ }))) ∧
  (State.partCmd ({ own5 (setF fPART_STAT_BUSY 1 up) with partCmd := some ⟨3, 5, p5, false⟩ }) = some ⟨3, 5, p5, false⟩ ∧
    (State.Numbered ({ own5 (setF fPART_STAT_BUSY 1 up) with partCmd := some ⟨3, 5, p5, false⟩ }))) ∧
  (HostPath up 0x80 0x42018 ∧
    whyDom 15 up = 0) ∧
  (HostPath up 0x80 0x42018 ∧
    whyDom 19 up = 0) ∧
  (HostPath up 0x80 0x42018 ∧
    whyDom 27 up = 0) ∧
  (HostPath up 0x80 0x42018 ∧
    whyDom 36 up = 0) ∧
  (HostPath up 0x80 0x42018 ∧
    whyDom 40 up = 0) :=
  ⟨⟨by decide +kernel, numbered_of _ (by decide +kernel)⟩,
    ⟨by decide +kernel, numbered_of _ (by decide +kernel)⟩,
    ⟨⟨by decide +kernel, by decide +kernel⟩, by decide +kernel⟩,
    ⟨⟨by decide +kernel, by decide +kernel⟩, by decide +kernel⟩,
    ⟨⟨by decide +kernel, by decide +kernel⟩, by decide +kernel⟩,
    ⟨⟨by decide +kernel, by decide +kernel⟩, by decide +kernel⟩,
    ⟨⟨by decide +kernel, by decide +kernel⟩, by decide +kernel⟩⟩
theorem meets_PartitionCommands_6 :
  (HostPath up 0x80 0x42018 ∧
    whyDom 41 up ≠ 0) ∧
  (HostPath (setF (fPWR_DOM_STATE 40) 1 up) 0x80 0x42018 ∧
    whyDom 40 (setF (fPWR_DOM_STATE 40) 1 up) ≠ 0) ∧
  (HostPath (own5) 0x80 0x42018 ∧
    whyDom 4 (own5) ≠ 0) ∧
  (HostPath (setF (fLINK_CTL_ENABLE 9) 1 up) 0x80 0x42018 ∧
    whyDom 36 (setF (fLINK_CTL_ENABLE 9) 1 up) ≠ 0) ∧
  (HostPath (loadS 3) 0x80 0x42018 ∧
    whyDom 27 (loadS 3) ≠ 0) ∧
  (HostPath (setF fDOM_RST_BUSY 1 up) 0x80 0x42018 ∧
    whyDom 0 (setF fDOM_RST_BUSY 1 up) ≠ 0) :=
  ⟨⟨⟨by decide +kernel, by decide +kernel⟩, by decide +kernel⟩,
    ⟨⟨by decide +kernel, by decide +kernel⟩, by decide +kernel⟩,
    ⟨⟨by decide +kernel, by decide +kernel⟩, by decide +kernel⟩,
    ⟨⟨by decide +kernel, by decide +kernel⟩, by decide +kernel⟩,
    ⟨⟨by decide +kernel, by decide +kernel⟩, by decide +kernel⟩,
    ⟨⟨by decide +kernel, by decide +kernel⟩, by decide +kernel⟩⟩
theorem meets_PartitionCommands_7 :
  (getF (setFs [(fDOM_RST_BUSY, 1), (fDOM_RST_DOMAIN, 27)] (updStrip 7 (fun x => { x with rel := [(15, 2)] }) (setF (fFAB_STAT_LOADING 7) 0 { up with rstDom := 27 }))) fDOM_RST_BUSY = 1 ∧
    (20 ≤ State.rstDom (setFs [(fDOM_RST_BUSY, 1), (fDOM_RST_DOMAIN, 27)] (updStrip 7 (fun x => { x with rel := [(15, 2)] }) (setF (fFAB_STAT_LOADING 7) 0 { up with rstDom := 27 }))) ∧ State.rstDom (setFs [(fDOM_RST_BUSY, 1), (fDOM_RST_DOMAIN, 27)] (updStrip 7 (fun x => { x with rel := [(15, 2)] }) (setF (fFAB_STAT_LOADING 7) 0 { up with rstDom := 27 }))) < 28) ∧
    resetReaches (setFs [(fDOM_RST_BUSY, 1), (fDOM_RST_DOMAIN, 27)] (updStrip 7 (fun x => { x with rel := [(15, 2)] }) (setF (fFAB_STAT_LOADING 7) 0 { up with rstDom := 27 }))) (State.rstDom (setFs [(fDOM_RST_BUSY, 1), (fDOM_RST_DOMAIN, 27)] (updStrip 7 (fun x => { x with rel := [(15, 2)] }) (setF (fFAB_STAT_LOADING 7) 0 { up with rstDom := 27 }))) - 20) ≠ []) ∧
  (getF (trn 27 ⟨0, 0, .none, 0, [], true, true⟩ [] (setFs [(fDOM_RST_BUSY, 1), (fDOM_RST_GO, 1), (fDOM_RST_DOMAIN, 5)] { up with rstDom := 27 })) fDOM_RST_BUSY = 1 ∧
    (20 ≤ State.rstDom (trn 27 ⟨0, 0, .none, 0, [], true, true⟩ [] (setFs [(fDOM_RST_BUSY, 1), (fDOM_RST_GO, 1), (fDOM_RST_DOMAIN, 5)] { up with rstDom := 27 })) → State.rstDom (trn 27 ⟨0, 0, .none, 0, [], true, true⟩ [] (setFs [(fDOM_RST_BUSY, 1), (fDOM_RST_GO, 1), (fDOM_RST_DOMAIN, 5)] { up with rstDom := 27 })) < 28 → resetReaches (trn 27 ⟨0, 0, .none, 0, [], true, true⟩ [] (setFs [(fDOM_RST_BUSY, 1), (fDOM_RST_GO, 1), (fDOM_RST_DOMAIN, 5)] { up with rstDom := 27 })) (State.rstDom (trn 27 ⟨0, 0, .none, 0, [], true, true⟩ [] (setFs [(fDOM_RST_BUSY, 1), (fDOM_RST_GO, 1), (fDOM_RST_DOMAIN, 5)] { up with rstDom := 27 })) - 20) = []) ∧
    (getDom (trn 27 ⟨0, 0, .none, 0, [], true, true⟩ [] (setFs [(fDOM_RST_BUSY, 1), (fDOM_RST_GO, 1), (fDOM_RST_DOMAIN, 5)] { up with rstDom := 27 })) (State.rstDom (trn 27 ⟨0, 0, .none, 0, [], true, true⟩ [] (setFs [(fDOM_RST_BUSY, 1), (fDOM_RST_GO, 1), (fDOM_RST_DOMAIN, 5)] { up with rstDom := 27 })))).slot = none) ∧
  (getF (trn 40 ⟨0, 0, .none, 0, [], true, true⟩ [] (setFs [(fDOM_RST_BUSY, 1), (fDOM_RST_GO, 1), (fDOM_RST_DOMAIN, 5)] { up with rstDom := 40 })) fDOM_RST_BUSY = 1 ∧
    (20 ≤ State.rstDom (trn 40 ⟨0, 0, .none, 0, [], true, true⟩ [] (setFs [(fDOM_RST_BUSY, 1), (fDOM_RST_GO, 1), (fDOM_RST_DOMAIN, 5)] { up with rstDom := 40 })) → State.rstDom (trn 40 ⟨0, 0, .none, 0, [], true, true⟩ [] (setFs [(fDOM_RST_BUSY, 1), (fDOM_RST_GO, 1), (fDOM_RST_DOMAIN, 5)] { up with rstDom := 40 })) < 28 → resetReaches (trn 40 ⟨0, 0, .none, 0, [], true, true⟩ [] (setFs [(fDOM_RST_BUSY, 1), (fDOM_RST_GO, 1), (fDOM_RST_DOMAIN, 5)] { up with rstDom := 40 })) (State.rstDom (trn 40 ⟨0, 0, .none, 0, [], true, true⟩ [] (setFs [(fDOM_RST_BUSY, 1), (fDOM_RST_GO, 1), (fDOM_RST_DOMAIN, 5)] { up with rstDom := 40 })) - 20) = []) ∧
    (getDom (trn 40 ⟨0, 0, .none, 0, [], true, true⟩ [] (setFs [(fDOM_RST_BUSY, 1), (fDOM_RST_GO, 1), (fDOM_RST_DOMAIN, 5)] { up with rstDom := 40 })) (State.rstDom (trn 40 ⟨0, 0, .none, 0, [], true, true⟩ [] (setFs [(fDOM_RST_BUSY, 1), (fDOM_RST_GO, 1), (fDOM_RST_DOMAIN, 5)] { up with rstDom := 40 })))).slot = none) ∧
  (getF (trn 0 ⟨0, 0, .none, 0, [], true, true⟩ [] (setFs [(fDOM_RST_BUSY, 1), (fDOM_RST_GO, 1), (fDOM_RST_DOMAIN, 5)] { up with rstDom := 0 })) fDOM_RST_BUSY = 1 ∧
    (20 ≤ State.rstDom (trn 0 ⟨0, 0, .none, 0, [], true, true⟩ [] (setFs [(fDOM_RST_BUSY, 1), (fDOM_RST_GO, 1), (fDOM_RST_DOMAIN, 5)] { up with rstDom := 0 })) → State.rstDom (trn 0 ⟨0, 0, .none, 0, [], true, true⟩ [] (setFs [(fDOM_RST_BUSY, 1), (fDOM_RST_GO, 1), (fDOM_RST_DOMAIN, 5)] { up with rstDom := 0 })) < 28 → resetReaches (trn 0 ⟨0, 0, .none, 0, [], true, true⟩ [] (setFs [(fDOM_RST_BUSY, 1), (fDOM_RST_GO, 1), (fDOM_RST_DOMAIN, 5)] { up with rstDom := 0 })) (State.rstDom (trn 0 ⟨0, 0, .none, 0, [], true, true⟩ [] (setFs [(fDOM_RST_BUSY, 1), (fDOM_RST_GO, 1), (fDOM_RST_DOMAIN, 5)] { up with rstDom := 0 })) - 20) = []) ∧
    (getDom (trn 0 ⟨0, 0, .none, 0, [], true, true⟩ [] (setFs [(fDOM_RST_BUSY, 1), (fDOM_RST_GO, 1), (fDOM_RST_DOMAIN, 5)] { up with rstDom := 0 })) (State.rstDom (trn 0 ⟨0, 0, .none, 0, [], true, true⟩ [] (setFs [(fDOM_RST_BUSY, 1), (fDOM_RST_GO, 1), (fDOM_RST_DOMAIN, 5)] { up with rstDom := 0 })))).slot = none) :=
  ⟨⟨by decide +kernel, by decide +kernel, by decide +kernel⟩,
    ⟨by decide +kernel, by decide +kernel, by decide +kernel⟩,
    ⟨by decide +kernel, by decide +kernel, by decide +kernel⟩,
    ⟨by decide +kernel, by decide +kernel, by decide +kernel⟩⟩
/-- States that meet the hypotheses of ResetsBootAndSupplies. -/
theorem meets_ResetsBootAndSupplies :
  (State.offNow (setF fBOOT_STAT_STEP 0 up) = true ∨ State.warmWait (setF fBOOT_STAT_STEP 0 up) = true ∨ getF (setF fBOOT_STAT_STEP 0 up) fBOOT_STAT_STEP = 0) ∧
  (State.offNow ({ up with offNow := true }) = true ∨ State.warmWait ({ up with offNow := true }) = true ∨ getF ({ up with offNow := true }) fBOOT_STAT_STEP = 0) ∧
  (State.offNow ({ up with warmWait := true }) = true ∨ State.warmWait ({ up with warmWait := true }) = true ∨ getF ({ up with warmWait := true }) fBOOT_STAT_STEP = 0) ∧
  (State.offNow used = false ∧
    State.warmWait used = false ∧
    getF used fBOOT_STAT_STEP ≠ 0 ∧
    (State.avs used).vt = 800 ∧
    (State.avs used).pend = none ∧
    State.borrow used = []) ∧
  (State.offNow ({ used with avs := ⟨750, none, []⟩ }) = false ∧
    State.warmWait ({ used with avs := ⟨750, none, []⟩ }) = false ∧
    getF ({ used with avs := ⟨750, none, []⟩ }) fBOOT_STAT_STEP ≠ 0 ∧
    ((State.avs ({ used with avs := ⟨750, none, []⟩ })).vt ≠ 800 ∨ (State.avs ({ used with avs := ⟨750, none, []⟩ })).pend ≠ none) ∧
    State.borrow ({ used with avs := ⟨750, none, []⟩ }) = []) ∧
  (State.offNow ({ used with avs := ⟨800, some 790, [790]⟩ }) = false ∧
    State.warmWait ({ used with avs := ⟨800, some 790, [790]⟩ }) = false ∧
    getF ({ used with avs := ⟨800, some 790, [790]⟩ }) fBOOT_STAT_STEP ≠ 0 ∧
    ((State.avs ({ used with avs := ⟨800, some 790, [790]⟩ })).vt ≠ 800 ∨ (State.avs ({ used with avs := ⟨800, some 790, [790]⟩ })).pend ≠ none)) ∧
  (State.tap ({ State.reset with tap := ⟨0, [], [], 2⟩ })).balls ≠ 0 :=
  ⟨by decide +kernel,
    by decide +kernel,
    by decide +kernel,
    ⟨by decide +kernel, by decide +kernel, by decide +kernel, by decide +kernel, by decide +kernel, by decide +kernel⟩,
    ⟨by decide +kernel, by decide +kernel, by decide +kernel, by decide +kernel, by decide +kernel⟩,
    ⟨by decide +kernel, by decide +kernel, by decide +kernel, by decide +kernel⟩,
    by decide +kernel⟩
theorem meets_ResetsBootAndSupplies_2 :
  ((State.tap State.reset).balls = 0 ∧
    State.offNow State.reset = false ∧
    State.warmWait State.reset = false ∧
    getF State.reset fBOOT_STAT_STEP = 0) ∧
  ((State.tap (setF fRST_CAUSE_CAUSE 2 State.reset)).balls = 0 ∧
    State.offNow (setF fRST_CAUSE_CAUSE 2 State.reset) = false ∧
    State.warmWait (setF fRST_CAUSE_CAUSE 2 State.reset) = false ∧
    getF (setF fRST_CAUSE_CAUSE 2 State.reset) fBOOT_STAT_STEP = 0) ∧
  ((State.tap up).balls = 0 ∧
    State.offNow up = false ∧
    (State.warmWait up = true ∨ getF up fBOOT_STAT_STEP ≠ 0)) ∧
  ((State.tap ({ State.reset with warmWait := true })).balls = 0 ∧
    State.offNow ({ State.reset with warmWait := true }) = false ∧
    (State.warmWait ({ State.reset with warmWait := true }) = true ∨ getF ({ State.reset with warmWait := true }) fBOOT_STAT_STEP ≠ 0)) :=
  ⟨⟨by decide +kernel, by decide +kernel, by decide +kernel, by decide +kernel⟩,
    ⟨by decide +kernel, by decide +kernel, by decide +kernel, by decide +kernel⟩,
    ⟨by decide +kernel, by decide +kernel, by decide +kernel⟩,
    ⟨by decide +kernel, by decide +kernel, by decide +kernel⟩⟩
theorem meets_ResetsBootAndSupplies_3 :
  ((State.tap ({ used with offNow := true, offWake := false, pwrLow := false })).balls = 0 ∧
    State.offNow ({ used with offNow := true, offWake := false, pwrLow := false }) = true ∧
    State.offWake ({ used with offNow := true, offWake := false, pwrLow := false }) = false ∧
    State.pwrLow ({ used with offNow := true, offWake := false, pwrLow := false }) = false) ∧
  ((State.tap ({ used with offNow := true, offWake := true, pwrLow := false })).balls = 0 ∧
    State.offNow ({ used with offNow := true, offWake := true, pwrLow := false }) = true ∧
    (State.offWake ({ used with offNow := true, offWake := true, pwrLow := false }) = true ∨ State.pwrLow ({ used with offNow := true, offWake := true, pwrLow := false }) = true)) ∧
  ((State.tap ({ used with offNow := true, offWake := false, pwrLow := true })).balls = 0 ∧
    State.offNow ({ used with offNow := true, offWake := false, pwrLow := true }) = true ∧
    (State.offWake ({ used with offNow := true, offWake := false, pwrLow := true }) = true ∨ State.pwrLow ({ used with offNow := true, offWake := false, pwrLow := true }) = true)) ∧
  (getF (setF fBOOT_STAT_STEP 1 State.reset) fBOOT_STAT_FAILED = 0 ∧
    getF (setF fBOOT_STAT_STEP 1 State.reset) fBOOT_STAT_STEP = 1) ∧
  (getF (setF fBOOT_STAT_STEP 2 State.reset) fBOOT_STAT_FAILED = 0 ∧
    getF (setF fBOOT_STAT_STEP 2 State.reset) fBOOT_STAT_STEP = 2) ∧
  (getF (setF fBOOT_STAT_STEP 3 State.reset) fBOOT_STAT_FAILED = 0 ∧
    getF (setF fBOOT_STAT_STEP 3 State.reset) fBOOT_STAT_STEP = 3) ∧
  (getF (setF fBOOT_STAT_STEP 4 State.reset) fBOOT_STAT_FAILED = 0 ∧
    getF (setF fBOOT_STAT_STEP 4 State.reset) fBOOT_STAT_STEP = 4) :=
  ⟨⟨by decide +kernel, by decide +kernel, by decide +kernel, by decide +kernel⟩,
    ⟨by decide +kernel, by decide +kernel, by decide +kernel⟩,
    ⟨by decide +kernel, by decide +kernel, by decide +kernel⟩,
    ⟨by decide +kernel, by decide +kernel⟩,
    ⟨by decide +kernel, by decide +kernel⟩,
    ⟨by decide +kernel, by decide +kernel⟩,
    ⟨by decide +kernel, by decide +kernel⟩⟩
theorem meets_ResetsBootAndSupplies_4 :
  (getF (setF fBOOT_STAT_STEP 5 State.reset) fBOOT_STAT_FAILED = 0 ∧
    getF (setF fBOOT_STAT_STEP 5 State.reset) fBOOT_STAT_STEP = 5) ∧
  (getF (setF fBOOT_STAT_STEP 6 State.reset) fBOOT_STAT_FAILED = 0 ∧
    getF (setF fBOOT_STAT_STEP 6 State.reset) fBOOT_STAT_STEP = 6) ∧
  (getF (setF fBOOT_STAT_STEP 7 State.reset) fBOOT_STAT_FAILED = 0 ∧
    getF (setF fBOOT_STAT_STEP 7 State.reset) fBOOT_STAT_STEP = 7) ∧
  (getF (setF fBOOT_STAT_STEP 8 State.reset) fBOOT_STAT_FAILED = 0 ∧
    getF (setF fBOOT_STAT_STEP 8 State.reset) fBOOT_STAT_STEP = 8) ∧
  (2 ≤ getF (setF fBOOT_STAT_STEP 2 State.reset) fBOOT_STAT_STEP ∨ State.warmWait (setF fBOOT_STAT_STEP 2 State.reset) = true) ∧
  (2 ≤ getF ({ State.reset with warmWait := true }) fBOOT_STAT_STEP ∨ State.warmWait ({ State.reset with warmWait := true }) = true) ∧
  ((State.avs ({ up with avs := ⟨800, some 810, [810]⟩ })).pend = some 810 ∧
    (State.warmWait ({ up with avs := ⟨800, some 810, [810]⟩ }) = false ∨ 810 ≠ 800)) ∧
  ((State.avs ({ used with avs := ⟨780, some 790, [790]⟩, warmWait := true })).pend = some 790 ∧
    (State.warmWait ({ used with avs := ⟨780, some 790, [790]⟩, warmWait := true }) = false ∨ 790 ≠ 800)) ∧
  ((State.avs ({ used with avs := ⟨790, some 800, [800]⟩, warmWait := true })).pend = some 800 ∧
    State.warmWait ({ used with avs := ⟨790, some 800, [800]⟩, warmWait := true }) = true) :=
  ⟨⟨by decide +kernel, by decide +kernel⟩,
    ⟨by decide +kernel, by decide +kernel⟩,
    ⟨by decide +kernel, by decide +kernel⟩,
    ⟨by decide +kernel, by decide +kernel⟩,
    by decide +kernel,
    by decide +kernel,
    ⟨by decide +kernel, by decide +kernel⟩,
    ⟨by decide +kernel, by decide +kernel⟩,
    ⟨by decide +kernel, by decide +kernel⟩⟩
/-- States that meet the hypotheses of TestAccessAndIdentity. -/
theorem meets_TestAccessAndIdentity :
  mcRuns State.reset = false ∧
  mcRuns up = true ∧
  (mcRuns State.reset = false ∨ State.dbgShut State.reset = true) ∧
  (mcRuns ({ up with dbgShut := true }) = false ∨ State.dbgShut ({ up with dbgShut := true }) = true) ∧
  (mcRuns up = true ∧
    State.dbgShut up = false) ∧
  (mcRuns (setF fSEC_STAT_DBG_FAIL 2 { up with nonce := some 7 }) = true ∧
    State.dbgShut (setF fSEC_STAT_DBG_FAIL 2 { up with nonce := some 7 }) = false) ∧
  ((State.dbg State.reset).busy ≠ none ∨ mcRuns State.reset = false) ∧
  ((State.dbg ({ up with dbg := ⟨some (0, false, 0, 0), 0, 0⟩ })).busy ≠ none ∨ mcRuns ({ up with dbg := ⟨some (0, false, 0, 0), 0, 0⟩ }) = false) ∧
  ((State.dbg (setF fSEC_STAT_DBG_LEVEL 0 up)).busy = none ∧
    mcRuns (setF fSEC_STAT_DBG_LEVEL 0 up) = true) ∧
  ((State.dbg (setF fSEC_STAT_DBG_LEVEL 1 up)).busy = none ∧
    mcRuns (setF fSEC_STAT_DBG_LEVEL 1 up) = true) :=
  ⟨by decide +kernel,
    by decide +kernel,
    by decide +kernel,
    by decide +kernel,
    ⟨by decide +kernel, by decide +kernel⟩,
    ⟨by decide +kernel, by decide +kernel⟩,
    by decide +kernel,
    by decide +kernel,
    ⟨by decide +kernel, by decide +kernel⟩,
    ⟨by decide +kernel, by decide +kernel⟩⟩
theorem meets_TestAccessAndIdentity_2 :
  ((State.dbg (setF fSEC_STAT_DBG_LEVEL 2 up)).busy = none ∧
    mcRuns (setF fSEC_STAT_DBG_LEVEL 2 up) = true) ∧
  ((State.dbg ({ up with dbg := ⟨some (0x24000000, true, 0xFF, 7), 0, 0⟩ })).busy = some (0x24000000, true, 0xFF, 7) ∧
    locate 0x24000000 = none) ∧
  ((State.dbg ({ up with dbg := ⟨some (0x10, true, 0xFF, 7), 0, 0⟩ })).busy = some (0x10, true, 0xFF, 7) ∧
    (dbgAccess 0x10 true 0xFF 7 ({ up with dbg := ⟨some (0x10, true, 0xFF, 7), 0, 0⟩ })) = (.done 0 (match (dbgAccess 0x10 true 0xFF 7 ({ up with dbg := ⟨some (0x10, true, 0xFF, 7), 0, 0⟩ })).1 with | .done _ d _ => d | _ => []) 0, (dbgAccess 0x10 true 0xFF 7 ({ up with dbg := ⟨some (0x10, true, 0xFF, 7), 0, 0⟩ })).2)) ∧
  ((State.dbg ({ up with hbmHeld := List.range 64, dbg := ⟨some (0x4000000000, false, 0xFF, 7), 0, 0⟩ })).busy = some (0x4000000000, false, 0xFF, 7) ∧
    (dbgAccess 0x4000000000 false 0xFF 7 ({ up with hbmHeld := List.range 64, dbg := ⟨some (0x4000000000, false, 0xFF, 7), 0, 0⟩ })) = (.wait, (dbgAccess 0x4000000000 false 0xFF 7 ({ up with hbmHeld := List.range 64, dbg := ⟨some (0x4000000000, false, 0xFF, 7), 0, 0⟩ })).2)) ∧
  mctpUp State.reset (0 : Fin 2) = false ∧
  mctpUp up (1 : Fin 2) = true ∧
  mctpUp up (1 : Fin 2) = true ∧
  mctpUp up (1 : Fin 2) = true ∧
  spdmUp State.reset (1 : Fin 2) = false ∧
  spdmUp State.reset (1 : Fin 2) = false :=
  ⟨⟨by decide +kernel, by decide +kernel⟩,
    ⟨by decide +kernel, by decide +kernel⟩,
    ⟨by decide +kernel, Prod.ext (by decide +kernel) rfl⟩,
    ⟨by decide +kernel, Prod.ext (by decide +kernel) rfl⟩,
    by decide +kernel,
    by decide +kernel,
    by decide +kernel,
    by decide +kernel,
    by decide +kernel,
    by decide +kernel⟩
theorem meets_TestAccessAndIdentity_3 :
  spdmUp State.reset (1 : Fin 2) = false ∧
  spdmUp State.reset (1 : Fin 2) = false ∧
  spdmUp State.reset (1 : Fin 2) = false ∧
  spdmUp State.reset (1 : Fin 2) = false ∧
  spdmUp State.reset (1 : Fin 2) = false ∧
  spdmUp State.reset (1 : Fin 2) = false ∧
  spdmUp State.reset (1 : Fin 2) = false ∧
  spdmUp (setFs [] up) (1 : Fin 2) = true ∧
  spdmUp (setFs [] up) (1 : Fin 2) = true ∧
  spdmUp (setFs [] up) (1 : Fin 2) = true ∧
  spdmUp (setFs [] up) (1 : Fin 2) = true ∧
  spdmUp (setFs [] up) (1 : Fin 2) = true ∧
  spdmUp (setFs [] { up with spdm := [(1, 1)] }) (1 : Fin 2) = true ∧
  spdmUp (setFs [] { up with spdm := [(1, 1)] }) (1 : Fin 2) = true :=
  ⟨by decide +kernel,
    by decide +kernel,
    by decide +kernel,
    by decide +kernel,
    by decide +kernel,
    by decide +kernel,
    by decide +kernel,
    by decide +kernel,
    by decide +kernel,
    by decide +kernel,
    by decide +kernel,
    by decide +kernel,
    by decide +kernel,
    by decide +kernel⟩
theorem meets_TestAccessAndIdentity_4 :
  spdmUp (setFs [] { up with spdm := [(1, 1)] }) (1 : Fin 2) = true ∧
  spdmUp (setFs [] { up with spdm := [(1, 1)] }) (1 : Fin 2) = true ∧
  spdmUp (setFs [] { up with spdm := [(1, 1)] }) (1 : Fin 2) = true ∧
  spdmUp (setFs [] { up with spdm := [(1, 2)] }) (1 : Fin 2) = true ∧
  spdmUp (setFs [] { up with spdm := [(1, 2)] }) (1 : Fin 2) = true ∧
  spdmUp (setFs [] { up with spdm := [(1, 2)] }) (1 : Fin 2) = true ∧
  spdmUp (setFs [] { up with spdm := [(1, 2)] }) (1 : Fin 2) = true ∧
  spdmUp (setFs [] { up with spdm := [(1, 2)] }) (1 : Fin 2) = true ∧
  spdmUp (setFs [] { up with spdm := [(1, 3)] }) (1 : Fin 2) = true ∧
  spdmUp (setFs [] { up with spdm := [(1, 3)] }) (1 : Fin 2) = true ∧
  spdmUp (setFs [] { up with spdm := [(1, 3)] }) (1 : Fin 2) = true ∧
  spdmUp (setFs [] { up with spdm := [(1, 3)] }) (1 : Fin 2) = true ∧
  spdmUp (setFs [] { up with spdm := [(1, 3)] }) (1 : Fin 2) = true :=
  ⟨by decide +kernel,
    by decide +kernel,
    by decide +kernel,
    by decide +kernel,
    by decide +kernel,
    by decide +kernel,
    by decide +kernel,
    by decide +kernel,
    by decide +kernel,
    by decide +kernel,
    by decide +kernel,
    by decide +kernel,
    by decide +kernel⟩
theorem meets_TestAccessAndIdentity_5 :
  (spdmUp (setFs [] { up with spdm := [(1, 2)] }) (1 : Fin 2) = true ∧
    (tget 0 (State.spdm (setFs [] { up with spdm := [(1, 2)] })) (1 : Fin 2).val) < 3 ∧
    digestWaits (setFs [] { up with spdm := [(1, 2)] }) = false) ∧
  (spdmUp (setFs [] { up with spdm := [(1, 2)] }) (1 : Fin 2) = true ∧
    (tget 0 (State.spdm (setFs [] { up with spdm := [(1, 2)] })) (1 : Fin 2).val) < 3 ∧
    digestWaits (setFs [] { up with spdm := [(1, 2)] }) = false) ∧
  (spdmUp (setFs [] { up with spdm := [(1, 2)] }) (1 : Fin 2) = true ∧
    (tget 0 (State.spdm (setFs [] { up with spdm := [(1, 2)] })) (1 : Fin 2).val) < 3 ∧
    digestWaits (setFs [] { up with spdm := [(1, 2)] }) = false) ∧
  (spdmUp (setFs [] { up with spdm := [(1, 2)] }) (1 : Fin 2) = true ∧
    (tget 0 (State.spdm (setFs [] { up with spdm := [(1, 2)] })) (1 : Fin 2).val) < 3 ∧
    digestWaits (setFs [] { up with spdm := [(1, 2)] }) = false) :=
  ⟨⟨by decide +kernel, by decide +kernel, by decide +kernel⟩,
    ⟨by decide +kernel, by decide +kernel, by decide +kernel⟩,
    ⟨by decide +kernel, by decide +kernel, by decide +kernel⟩,
    ⟨by decide +kernel, by decide +kernel, by decide +kernel⟩⟩
theorem meets_TestAccessAndIdentity_6 :
  (spdmUp (setFs [] { up with spdm := [(1, 3)] }) (1 : Fin 2) = true ∧
    3 ≤ (tget 0 (State.spdm (setFs [] { up with spdm := [(1, 3)] })) (1 : Fin 2).val) ∧
    getF (setFs [] { up with spdm := [(1, 3)] }) fSEC_STAT_ID_OK = 0 ∧
    digestWaits (setFs [] { up with spdm := [(1, 3)] }) = false) ∧
  (spdmUp (setFs [] { up with spdm := [(1, 3)] }) (1 : Fin 2) = true ∧
    3 ≤ (tget 0 (State.spdm (setFs [] { up with spdm := [(1, 3)] })) (1 : Fin 2).val) ∧
    getF (setFs [] { up with spdm := [(1, 3)] }) fSEC_STAT_ID_OK = 0 ∧
    digestWaits (setFs [] { up with spdm := [(1, 3)] }) = false) ∧
  (spdmUp (setFs [] { up with spdm := [(1, 3)] }) (1 : Fin 2) = true ∧
    3 ≤ (tget 0 (State.spdm (setFs [] { up with spdm := [(1, 3)] })) (1 : Fin 2).val) ∧
    getF (setFs [] { up with spdm := [(1, 3)] }) fSEC_STAT_ID_OK = 0 ∧
    digestWaits (setFs [] { up with spdm := [(1, 3)] }) = false) :=
  ⟨⟨by decide +kernel, by decide +kernel, by decide +kernel, by decide +kernel⟩,
    ⟨by decide +kernel, by decide +kernel, by decide +kernel, by decide +kernel⟩,
    ⟨by decide +kernel, by decide +kernel, by decide +kernel, by decide +kernel⟩⟩
theorem meets_TestAccessAndIdentity_7 :
  (spdmUp (setFs [] { up with spdm := [(1, 3)] }) (1 : Fin 2) = true ∧
    3 ≤ (tget 0 (State.spdm (setFs [] { up with spdm := [(1, 3)] })) (1 : Fin 2).val) ∧
    getF (setFs [] { up with spdm := [(1, 3)] }) fSEC_STAT_ID_OK = 0 ∧
    digestWaits (setFs [] { up with spdm := [(1, 3)] }) = false) ∧
  (spdmUp (setFs [(fSEC_STAT_ID_OK, 1)] { up with spdm := [(1, 3)] }) (1 : Fin 2) = true ∧
    3 ≤ (tget 0 (State.spdm (setFs [(fSEC_STAT_ID_OK, 1)] { up with spdm := [(1, 3)] })) (1 : Fin 2).val) ∧
    getF (setFs [(fSEC_STAT_ID_OK, 1)] { up with spdm := [(1, 3)] }) fSEC_STAT_ID_OK = 1) ∧
  (spdmUp (setFs [(fSEC_STAT_ID_OK, 1)] { up with spdm := [(1, 3)] }) (1 : Fin 2) = true ∧
    3 ≤ (tget 0 (State.spdm (setFs [(fSEC_STAT_ID_OK, 1)] { up with spdm := [(1, 3)] })) (1 : Fin 2).val) ∧
    getF (setFs [(fSEC_STAT_ID_OK, 1)] { up with spdm := [(1, 3)] }) fSEC_STAT_ID_OK = 1) ∧
  (spdmUp (setFs [(fSEC_STAT_ID_OK, 1)] { up with spdm := [(1, 3)] }) (1 : Fin 2) = true ∧
    3 ≤ (tget 0 (State.spdm (setFs [(fSEC_STAT_ID_OK, 1)] { up with spdm := [(1, 3)] })) (1 : Fin 2).val) ∧
    getF (setFs [(fSEC_STAT_ID_OK, 1)] { up with spdm := [(1, 3)] }) fSEC_STAT_ID_OK = 1 ∧
    getF (setFs [(fSEC_STAT_ID_OK, 1)] { up with spdm := [(1, 3)] }) fSEC_STAT_LODESTAR_OFF = 0) :=
  ⟨⟨by decide +kernel, by decide +kernel, by decide +kernel, by decide +kernel⟩,
    ⟨by decide +kernel, by decide +kernel, by decide +kernel⟩,
    ⟨by decide +kernel, by decide +kernel, by decide +kernel⟩,
    ⟨by decide +kernel, by decide +kernel, by decide +kernel, by decide +kernel⟩⟩
theorem meets_TestAccessAndIdentity_8 :
  (spdmUp (setFs [] { up with spdm := [(1, 3)] }) (1 : Fin 2) = true ∧
    3 ≤ (tget 0 (State.spdm (setFs [] { up with spdm := [(1, 3)] })) (1 : Fin 2).val)) ∧
  (spdmUp (setFs [] { up with spdm := [(1, 3)] }) (1 : Fin 2) = true ∧
    3 ≤ (tget 0 (State.spdm (setFs [] { up with spdm := [(1, 3)] })) (1 : Fin 2).val) ∧
    (7 : BitVec 8) ≠ 0 ∧
    (7 : BitVec 8) ≠ 0xFF ∧
    digestWaits (setFs [] { up with spdm := [(1, 3)] }) = false ∧
    (7 : BitVec 8).toNat ∉ measureIndices) ∧
  (spdmUp (setFs [] { up with spdm := [(1, 3)] }) (1 : Fin 2) = true ∧
    3 ≤ (tget 0 (State.spdm (setFs [] { up with spdm := [(1, 3)] })) (1 : Fin 2).val) ∧
    (0x97 : BitVec 8) ≠ 0 ∧
    (0x97 : BitVec 8) ≠ 0xFF ∧
    digestWaits (setFs [] { up with spdm := [(1, 3)] }) = false ∧
    (0x97 : BitVec 8).toNat ∈ measureIndices) :=
  ⟨⟨by decide +kernel, by decide +kernel⟩,
    ⟨by decide +kernel, by decide +kernel, by decide +kernel, by decide +kernel, by decide +kernel, by decide +kernel⟩,
    ⟨by decide +kernel, by decide +kernel, by decide +kernel, by decide +kernel, by decide +kernel, by decide +kernel⟩⟩

/-- Two commands wait; the first is a thermal trip. -/
def twoWait : State := { up with pending := [.thermalTrip, .tapReset] }

/-- States that meet the hypotheses of BelsarDecodeInvertsEncode. -/
theorem meets_BelsarDecodeInvertsEncode :
  BWord.wf (.long ⟨.bfx, 31, 31, 0, 63 + 64 * 63 + 4096, 0⟩) = true ∧
  BWord.wf (.pair ⟨.repi, 0, 31, 0, 0, 0⟩ ⟨.shortAdd, 31, 31, 0, 0, 0⟩) = true :=
  ⟨by decide +kernel,
    by decide +kernel⟩
/-- States that meet the hypotheses of BelsarWordsAreUnambiguous. -/
theorem meets_BelsarWordsAreUnambiguous :
  0b0_100101_00001111_0_1111111111111111 < 2 ^ 32 ∧
    decodeBelsar 0b0_100101_00001111_0_1111111111111111 = some (.long ⟨.call, 0, 0, 0, 0xFFFF, 0x0F⟩) :=
  ⟨by decide +kernel, by decide +kernel⟩
/-- States that meet the hypotheses of QueueOrder. -/
theorem meets_QueueOrder :
  twoWait.pending = [.thermalTrip, .tapReset] ∧
  (State.pending { up with ticks := 38 }) = [] :=
  ⟨by decide +kernel,
    by decide +kernel⟩
/-- States that meet the hypotheses of StepKeepsTheState. -/
theorem meets_StepKeepsTheState :
  ((State.memOk (setByte 3 7 (setByte 9 1 twoWait))) ∧
    (State.Numbered (setByte 3 7 (setByte 9 1 twoWait)))) ∧
  ((State.memOk (setByte 3 7 (setByte 9 1 twoWait))) ∧
    (State.Numbered (setByte 3 7 (setByte 9 1 twoWait)))) :=
  ⟨⟨by decide +kernel, numbered_of _ (by decide +kernel)⟩,
    ⟨by decide +kernel, numbered_of _ (by decide +kernel)⟩⟩

/-! ### Well-formedness: an ill-formed command for each check -/

theorem test_wf_master : (Instr.partitionDefine 0xC0 5 0 0 0).wf = false ∧ (Instr.partitionDefine 0x60 5 0 0 0).wf = false ∧
    (Instr.partitionDefine 0x80 5 0 0 0).wf = true ∧ (Instr.partitionDefine 0x61 5 0 0 0).wf = true := by decide
theorem test_wf_line : (Instr.rawRequest { rawR with node := 0xFF }).wf = false ∧
    (Instr.rawRequest { rawR with master := 0xFF }).wf = false ∧ (Instr.rawRequest rawR).wf = true := by decide
theorem test_wf_staging : (Instr.stagingAccess 0 [{ rawR with node := 0xFF }] []).wf = false ∧
    (Instr.stagingAccess 0 [rawR, { rawR with master := 0xFF }] []).wf = false ∧
    (Instr.stagingAccess 0 [rawR, rawR] []).wf = true := by decide
theorem test_wf_hop : (Instr.nocHop (.invalidate 0xFF 5 0 0 0) 0 none).wf = false ∧
    (Instr.nocHop (.invalidate 5 0xFF 0 0 0) 0 none).wf = false ∧ (Instr.nocHop (.register 0xFF 0 0x80 false 0 0 0) 0 none).wf = false ∧
    (Instr.nocHop (.register 5 0 0x7F false 0 0 0) 0 none).wf = false ∧
    (Instr.nocHop (.invalidate 5 6 0 0 0) 0 none).wf = true := by decide
theorem test_wf_bar4 : (Instr.bar4Access 0 false 0 [true] [0]).wf = false ∧ (Instr.bar4Access 0 true 0 [true] []).wf = false ∧
    (Instr.bar4Access 0 true 0 (List.replicate 513 true) (List.replicate 513 0)).wf = false ∧
    (Instr.bar4Access 0 true 0 [true] [0]).wf = true := by decide +kernel
theorem test_wf_register : (Instr.registerRead 0x80 4 8).wf = false ∧ (Instr.registerRead 0x80 2 4).wf = false ∧
    (Instr.registerRead 0x80 8 16).wf = false ∧ (Instr.registerWrite 0x80 4 8 0).wf = false ∧
    (Instr.registerWrite 0x70 8 8 0).wf = false ∧ (Instr.registerRead 0x80 4 4).wf = true ∧
    (Instr.registerWrite 0x80 8 8 0).wf = true := by decide
theorem test_wf_scan : (Instr.extest [true] []).wf = false ∧ (Instr.samplePreload [] [true]).wf = false ∧
    (Instr.extestPulse [true] []).wf = false ∧ (Instr.extestTrain [true] []).wf = false ∧ (Instr.extest [true] [false]).wf = true := by
  decide

/-! ### Words of R253 to R268, written out bit by bit -/

theorem test_belsar_mul : decodeBelsar 0b0_000000_11111_00000_10101_0_000001010 = some (.long ⟨.mul, 31, 0, 21, 0, 0⟩) := by
  decide +kernel
theorem test_belsar_sys : decodeBelsar 0b0_101010_00111_00000_00000_0_000000101 = some (.long ⟨.asnd, 7, 0, 0, 0, 0⟩) := by
  decide +kernel
theorem test_belsar_sys_zero : decodeBelsar 0b0_101010_00111_00000_00000_0_000000000 = none := by decide +kernel

/-! ### The worked examples of chapters 00, 07, 08 and 09 -/

/-- R268. -/
theorem test_bfx : bfxW 0xABCDEF 8 12 false = 0xBCD ∧ bfxW 0xABCDEF 8 12 true = 0xFFFFFFFFFFFFFBCD ∧
    bfxW 0xABCDEF 60 8 false = 0 := by decide +kernel
theorem test_bfi : bfiW 0xABC 0x1111111111111111 4 12 = 0x111111111111ABC1 := by decide +kernel
/-- R270. -/
theorem test_perm : permW 0x0807060504030201 0x100F0E0D0C0B0A09 0x01234567 = 0x0102030405060708 ∧
    permW 0x0807060504030201 0x100F0E0D0C0B0A09 0xFEDC3210 = 0x100F0E0D04030201 := by decide +kernel
/-- The example after R236: FMA in FP16 under RM 0 and RM 2. -/
theorem test_fma : fpFma 2 0 (fpOf 2 0x7BFF) (fpOf 2 1) (fpOf 2 1) = (0x1BFF, flNX) ∧
    fpFma 2 2 (fpOf 2 0x7BFF) (fpOf 2 1) (fpOf 2 1) = (0x1C00, flNX) := by decide +kernel
/-- The example of chapter 07: the largest FP64 twice overflows. -/
theorem test_fadd : fpAdd 0 0 (fpOf 0 0x7FEFFFFFFFFFFFFF) (fpOf 0 0x7FEFFFFFFFFFFFFF) = (0x7FF0000000000000, flOF ||| flNX) := by
  decide +kernel
/-- The example of R240: −D to unsigned INT32 under RM 3 and RM 0. -/
theorem test_cvt : cvt 5 1 3 false 0x80000001 = (0, flNV) ∧ cvt 5 1 0 false 0x80000001 = (0, flNX) := by decide +kernel

/-! ### Registers and single steps -/

/-- Every field's reset value fits its width, and no field reaches past bit 63 (R17). -/
theorem test_reset_fits : regRows.all (fun r => r.flds.all fun (lo, w, _, v) => decide (lo + w ≤ 64) && decide (v < 2 ^ w)) = true := by
  decide +kernel
/-- The state after one step. -/
def after (s : State) : State :=
  match step s with
  | .next t => t
  | _ => s
/-- The front of the queue runs first, and the rest stays. -/
theorem test_queue : (after twoWait).pending = [.tapReset] ∧ (after twoWait).pins.thermTrip = true := by decide +kernel
/-- Every 39th tick advances the Meridian (R5, R462). -/
theorem test_tick : (after { up with ticks := 38 }).mer = up.mer + up.merInc ∧ (after { up with ticks := 39 }).mer = up.mer := by
  decide +kernel
/-- No row of the table gives bits, so no word spells a command. -/
theorem test_no_words : decodeTableWord 32 0 = none ∧ State.withFetchWord State.reset 32 0 = State.reset := by decide

end Sys2Proof.Tests
end

section
/-! SUPPORT. Register accesses: what a write or a read makes of each field of a register, and that an access to a plain
register acts and is answered (R18, R324, R395, R570). -/
namespace Sys2Proof.Machine
open Sys2Proof Sys2Proof.Claims

/-! ### The commands -/

theorem exec_registerWrite (m : BitVec 8) (o : BitVec 26) (n : Fin 65) (v : Word) (s : State) :
    exec (.registerWrite m o n v) s = execRegisterWrite m o n v s := rfl
theorem exec_registerRead (m : BitVec 8) (o : BitVec 26) (n : Fin 65) (s : State) :
    exec (.registerRead m o n) s = execRegisterRead m o n s := rfl
theorem exec_registerLineRequest (r : LineReq) (s : State) :
    exec (.registerLineRequest r) s = execRegisterLineRequest r s := rfl

/-! ### Fields of one register -/

/-- The fields of a register lie at different bits of its 64 (R17). -/
theorem regRows_fields_apart : ∀ r ∈ regRows, (r.flds.map (·.1)).Nodup ∧ ∀ f ∈ r.flds, f.1 < 64 := by decide +kernel

theorem fldKey_rowFld (r : RegRow) (i j : Nat) (f : Nat × Nat × FTy × Nat) :
    fldKey (rowFld r i j f) = 64 * (r.base + r.s1 * i + r.s2 * j) + f.1 := rfl

theorem rowFlds_keys_nodup {r : RegRow} (h : r ∈ regRows) (i j : Nat) : ((rowFlds r i j).map fldKey).Nodup := by
  have hkeys : (rowFlds r i j).map fldKey =
      (r.flds.map (·.1)).map (64 * (r.base + r.s1 * i + r.s2 * j) + ·) := by
    simp [rowFlds, fldKey_rowFld, Function.comp_def]
  rw [hkeys]
  exact List.Pairwise.map _ (fun a b hne => by omega) (regRows_fields_apart r h).1

/-- An action on fields that changes the value of none but the field it is given. -/
def ActsAlone (act : Fld → State → State) : Prop :=
  ∀ f g s, fldKey g ≠ fldKey f → getF (act f s) g = getF s g

theorem ActsAlone.getF_foldl_other {act : Fld → State → State} (alone : ActsAlone act) {l : List Fld} {g : Fld}
    (s : State) (h : ∀ f ∈ l, fldKey g ≠ fldKey f) : getF (l.foldl (fun s f => act f s) s) g = getF s g :=
  foldl_keeps (P := fun t => getF t g = getF s g) l rfl fun t ht f hf => (alone f g t (h f hf)).trans ht

/-- Field by field, each field of a list without repeats is acted on once. -/
theorem ActsAlone.getF_foldl_own {act : Fld → State → State} (alone : ActsAlone act) {val : Fld → Nat → Nat}
    (own : ∀ f s, getF (act f s) f = val f (getF s f)) {l : List Fld} (apart : (l.map fldKey).Nodup) {f : Fld}
    (hf : f ∈ l) (s : State) : getF (l.foldl (fun s f => act f s) s) f = val f (getF s f) := by
  induction l generalizing s with
  | nil => cases hf
  | cons g l ih =>
    obtain ⟨hg, apart⟩ := List.nodup_cons.mp apart
    have hne : ∀ x ∈ l, fldKey g ≠ fldKey x := fun x hx e => hg (e ▸ List.mem_map_of_mem hx)
    rw [List.foldl_cons]
    rcases List.mem_cons.mp hf with rfl | hf
    · rw [alone.getF_foldl_other _ hne, own]
    · rw [ih apart hf, alone g f s (hne f hf).symm]

/-! ### A write, field by field -/

/-- Replacing the bits e of a number by those of another keeps it within its width. -/
theorem replace_bits_lt {w x a e : Nat} (hx : x < 2 ^ w) (ha : a < 2 ^ w) (he : e < 2 ^ w) :
    x - (x &&& e) + (a &&& e) < 2 ^ w := by
  obtain ⟨X, rfl⟩ : ∃ X : BitVec w, X.toNat = x := ⟨.ofNat w x, by simp [Nat.mod_eq_of_lt hx]⟩
  obtain ⟨A, rfl⟩ : ∃ A : BitVec w, A.toNat = a := ⟨.ofNat w a, by simp [Nat.mod_eq_of_lt ha]⟩
  obtain ⟨E, rfl⟩ : ∃ E : BitVec w, E.toNat = e := ⟨.ofNat w e, by simp [Nat.mod_eq_of_lt he]⟩
  have apart (Y : BitVec w) : X &&& ~~~E &&& (Y &&& E) = 0 := by
    ext i hi
    simp only [BitVec.getElem_and, BitVec.getElem_not]
    cases E[i] <;> simp
  have whole : (X &&& ~~~E) + (X &&& E) = X := by
    rw [BitVec.add_eq_or_of_and_eq_zero _ _ (apart X)]
    ext i hi
    simp only [BitVec.getElem_and, BitVec.getElem_or, BitVec.getElem_not]
    cases E[i] <;> simp
  have hX := BitVec.toNat_add_of_and_eq_zero (apart X)
  have hA := BitVec.toNat_add_of_and_eq_zero (apart A)
  have hlt := ((X &&& ~~~E) + (A &&& E)).isLt
  rw [whole] at hX
  simp only [BitVec.toNat_and (x := X) (y := E), BitVec.toNat_and (x := A) (y := E)] at hX hA
  omega

theorem bits_lt (v lo w : Nat) : bits v lo w < 2 ^ w := Nat.mod_lt _ (Nat.two_pow_pos w)

/-- What a write of the bits `en` of v makes of a field that holds x (R18). -/
def writtenFld (f : Fld) (v en x : Nat) : Nat :=
  match f.ty with
  | .rw => x - (x &&& fldEn f en) + (fldIn f v &&& fldEn f en)
  | .w1c => x - (x &&& onesIn f v en)
  | .w1s => x ||| onesIn f v en
  | .ro | .rc | .wo => x

theorem writtenFld_lt {f : Fld} {x : Nat} (v en : Nat) (hx : x < 2 ^ f.w) : writtenFld f v en x < 2 ^ f.w := by
  unfold writtenFld
  cases f.ty with
  | rw => exact replace_bits_lt hx (bits_lt ..) (bits_lt ..)
  | w1c => exact Nat.lt_of_le_of_lt (Nat.sub_le ..) hx
  | w1s => exact Nat.or_lt_two_pow hx (Nat.and_lt_two_pow _ (bits_lt ..))
  | ro | rc | wo => exact hx

/-- A write of a field either leaves the state, and then it leaves the field's value, or stores the field. -/
theorem writeFld_cases (f : Fld) (v en : Nat) (s : State) :
    (writeFld f v en s = s ∧ writtenFld f v en (getF s f) = getF s f) ∨
      writeFld f v en s = setF f (writtenFld f v en (getF s f)) s := by
  unfold writeFld writtenFld
  cases f.ty with
  | rw => by_cases h : fldEn f en = 0 <;> simp [h, storeF]
  | w1c => by_cases h : onesIn f v en = 0 <;> simp [h]
  | w1s => by_cases h : onesIn f v en = 0 <;> simp [h]
  | ro | rc | wo => exact .inl ⟨rfl, rfl⟩

theorem getF_writeFld_same (f : Fld) (v en : Nat) (s : State) :
    getF (writeFld f v en s) f = writtenFld f v en (getF s f) := by
  obtain ⟨hs, hv⟩ | hs := writeFld_cases f v en s
  · rw [hs, hv]
  · rw [hs, getF_setF_same, Nat.mod_eq_of_lt (writtenFld_lt v en (getF_lt s f))]

theorem writeFld_actsAlone (v en : Nat) : ActsAlone fun f s => writeFld f v en s := by
  intro f g s h
  obtain ⟨hs, -⟩ | hs := writeFld_cases f v en s
  · exact congrArg (getF · g) hs
  · exact (congrArg (getF · g) hs).trans (getF_setF_other _ s h)

/-- A write of a register writes each of its fields by its type. -/
theorem getF_writeRow' {r : RegRow} (hr : r ∈ regRows) {i j : Nat} {f : Fld} (hf : f ∈ rowFlds r i j) (v en : Nat)
    (s : State) : getF (writeRow' r i j v en s) f = writtenFld f v en (getF s f) :=
  (writeFld_actsAlone v en).getF_foldl_own (getF_writeFld_same · v en) (rowFlds_keys_nodup hr i j) hf s

/-! ### The clearing of what is read -/

/-- What a read of the bits `en` makes of one field: an RC field loses the bits read. -/
def clearFld (en : Nat) (f : Fld) (s : State) : State :=
  if (f.ty == .rc && fldEn f en != 0) = true then setF f (getF s f - (getF s f &&& fldEn f en)) s else s

theorem clearRc_eq_foldl (r : RegRow) (i j en : Nat) (s : State) :
    clearRc r i j en s = (rowFlds r i j).foldl (fun s f => clearFld en f s) s := List.foldl_filter

theorem getF_clearFld_same (en : Nat) (f : Fld) (s : State) : getF (clearFld en f s) f =
    if f.ty = .rc then getF s f - (getF s f &&& fldEn f en) else getF s f := by
  unfold clearFld
  by_cases hrc : f.ty = .rc
  · by_cases he : fldEn f en = 0
    · simp [hrc, he]
    · simp [hrc, he, Nat.mod_eq_of_lt (Nat.lt_of_le_of_lt (Nat.sub_le ..) (getF_lt s f))]
  · simp [hrc]

theorem clearFld_actsAlone (en : Nat) : ActsAlone (clearFld en) := by
  intro f g s h
  unfold clearFld
  split
  · exact getF_setF_other _ s h
  · rfl

theorem getF_clearRc {r : RegRow} (hr : r ∈ regRows) {i j : Nat} {f : Fld} (hf : f ∈ rowFlds r i j) (en : Nat)
    (s : State) : getF (clearRc r i j en s) f =
      if f.ty = .rc then getF s f - (getF s f &&& fldEn f en) else getF s f := by
  rw [clearRc_eq_foldl]
  exact (clearFld_actsAlone en).getF_foldl_own
    (val := fun f x => if f.ty = .rc then x - (x &&& fldEn f en) else x) (getF_clearFld_same en)
    (rowFlds_keys_nodup hr i j) hf s

theorem clearRc_reports (r : RegRow) (i j en : Nat) (s : State) : Reports s (clearRc r i j en s) :=
  foldl_keeps (P := Reports s) _ (.refl s) fun _ h _ _ => h.trans (setF_reports ..)

theorem Reports.answers {s t : State} (h : Reports s t) : t.answers = s.answers := by rw [h]; rfl

/-! ### Where the fields lie -/

/-- The offset of a register is that of its row at (i, j). -/
theorem rowAt_offset {r : RegRow} {o i j : Nat} (h : rowAt r o = some (i, j)) :
    r.base + r.s1 * i + r.s2 * j = o := by
  have split_at (c d : Nat) : c * (if c = 0 then (0, d) else (d / c, d % c)).1 +
      (if c = 0 then (0, d) else (d / c, d % c)).2 = d := by
    split
    · simp
    · exact Nat.div_add_mod d c
  unfold rowAt at h
  split at h
  · cases h
  · rename_i hbase
    dsimp only at h
    have h1 := split_at r.s1 (o - r.base)
    revert h h1
    generalize (if r.s1 = 0 then (0, o - r.base) else _) = p
    intro h h1
    have h2 := split_at r.s2 p.2
    revert h h2
    generalize (if r.s2 = 0 then (0, p.2) else _) = q
    intro h h2
    split at h
    · rename_i c
      cases h
      omega
    · cases h

theorem msixAt_ne_row (bar : Bool) (who x : Nat) (r : RegRow) (i j : Nat) : msixAt bar who x ≠ some (.row r i j) := by
  have hplace (f x : Nat) : (if x < 0x200 ∨ x = 0x800 then some (Reg.msix f x) else none) ≠ some (.row r i j) := by
    split <;> simp
  unfold msixAt
  dsimp only
  split
  · split
    · cases funcOf who with
      | none => simp
      | some f => exact hplace f x
    · simp
  · split
    · exact hplace _ _
    · simp

/-- A row that lies at an offset is one of the map, at that offset. -/
theorem regAt_row {bar : Bool} {who o i j : Nat} {r : RegRow} (h : regAt bar who o = some (.row r i j)) :
    r ∈ regRows ∧ rowAt r o = some (i, j) := by
  unfold regAt at h
  split at h
  · cases h
  split at h
  · cases h
  split at h
  · exact absurd h (msixAt_ne_row _ _ _ _ _ _)
  obtain ⟨r', hr', hrow⟩ := List.exists_of_findSome?_eq_some h
  obtain ⟨p, hp, hrow⟩ := Option.map_eq_some_iff.mp hrow
  cases hrow
  exact ⟨hr', hp⟩

/-- At the offset of NOC_CTL lies NOC_CTL (R419). -/
theorem regAt_nocCtl (bar : Bool) (who : Nat) : regAt bar who fNOC_CTL_ACTIVE.addr = some (.row rowNOC_CTL 0 0) := rfl

/-- The active bank of the routes is no field of a plain register. -/
theorem plain_fields_ne_active {bar : Bool} {who o i j : Nat} {r : RegRow}
    (h : regAt bar who o = some (.row r i j)) (p : r.name ∈ plainRegs) :
    ∀ f ∈ rowFlds r i j, fldKey fNOC_CTL_ACTIVE ≠ fldKey f := by
  intro f hf e
  obtain ⟨hr, hat⟩ := regAt_row h
  obtain ⟨g, hg, rfl⟩ := List.mem_map.mp hf
  have hlt := (regRows_fields_apart r hr).2 g hg
  rw [fldKey_rowFld, rowAt_offset hat] at e
  have ho : o = fNOC_CTL_ACTIVE.addr := by
    simp only [fldKey, fNOC_CTL_ACTIVE] at e ⊢
    omega
  rw [ho, regAt_nocCtl] at h
  cases h
  exact absurd p (by decide)

/-! ### Routes stay as they are -/

/-- The way of a packet depends on the ports alone. -/
theorem walk_congr {s t : State} (h : t.portsOff = s.portsOff) (dest turns fuel r heading hop : Nat) (came : List Nat) :
    walk t dest turns fuel r heading hop came = walk s dest turns fuel r heading hop came := by
  have hport : portOpen t = portOpen s := by
    unfold portOpen
    rw [h]
  have hact : hopAct t = hopAct s := by
    unfold hopAct
    rw [hport]
  induction fuel generalizing r heading hop came with
  | zero => rfl
  | succ fuel ih => simp only [walk, hact, ih]

/-- What changes neither ports nor routes nor their active bank leaves the routes that fail. -/
theorem Reports.routeFailsAt_eq {s t : State} (h : Reports s t) (k : getF t fNOC_CTL_ACTIVE = getF s fNOC_CTL_ACTIVE)
    (src dst : Nat) : routeFailsAt t src dst = routeFailsAt s src dst := by
  have hports : t.portsOff = s.portsOff := by rw [h]; rfl
  have hroutes : t.routes = s.routes := by rw [h]; rfl
  have hbad : t.routeErr = s.routeErr := by rw [h]; rfl
  have hactive : activeRoute t src dst = activeRoute s src dst := by
    unfold activeRoute routeEntry routeBad
    rw [k, hroutes, hbad]
  simp only [routeFailsAt, hactive, walk_congr hports]

/-! ### One access -/

theorem regAnswer_returns {src o : Nat} {s : State} (h : routeFailsAt s (serveNode o) src = none) (m st : Nat) :
    regAnswer src m o st s = (st, s) := by
  simp [regAnswer, h]

/-- A route that does not fail leaves the state; one that does ends with a status. -/
theorem regRoute_cases (src m o : Nat) (s : State) : regRoute src m o s = (0, s) ∨ (regRoute src m o s).1 ≠ 0 := by
  unfold regRoute
  dsimp only
  split
  · exact .inl rfl
  · split <;> exact .inr (by simp)

/-- What the gate lets through, the fixed rule of its block allows (R570). -/
theorem fixedRule_of_regGate {src m who o : Nat} {wr : Bool} {s : State} (h : (regGate src m who wr o s).1 = 0) :
    fixedRule s who wr o = true := by
  unfold regGate at h
  obtain hroute | hroute := regRoute_cases src m o s
  · refine Decidable.byContradiction fun hrule => ?_
    simp only [hroute, regJudge] at h
    split at h
    · cases h
    · rw [if_pos (.inl hrule)] at h
      cases h
  · split at h
    · rename_i heq
      exact absurd (congrArg Prod.fst heq) hroute
    · exact absurd h hroute

/-- An entry of FUNC that the fixed rule lets a function read is not hidden from it (R359). -/
theorem hiddenEntry_of_fixedRule {who o : Nat} {wr : Bool} {s : State} (h : fixedRule s who wr o = true) :
    hiddenEntry s who wr o = false := by
  by_cases hread : wr = false ∧ 0x41000 ≤ o ∧ o < 0x42000
  · obtain ⟨rfl, hlo, hhi⟩ := hread
    rw [fixedRule, if_neg (by omega), if_neg (by omega), if_pos hhi] at h
    unfold hiddenEntry
    cases hf : funcOf who with
    | none => simp
    | some f => simp_all
  · have hout : (!wr && decide (0x41000 ≤ o ∧ o < 0x42000)) = false := by simpa using hread
    rw [hiddenEntry, hout, Bool.false_and]

/-- A write that is let through and whose answer returns acts on the register. -/
theorem regAccess_write {src m who o en v : Nat} {bar : Bool} {s : State} {r : Reg} (hat : regAt bar who o = some r)
    (gate : regGate src m who true o s = (0, s))
    (back : routeFailsAt (regWrite who r v en s) (serveNode o) src = none) :
    regAccess src m who bar true o en v s = (0, 0, regWrite who r v en s) := by
  have shown := hiddenEntry_of_fixedRule (fixedRule_of_regGate (congrArg Prod.fst gate))
  simp [regAccess, shown, hat, gate, regAnswer_returns back]

/-- A read that is let through and whose answer returns gives what the register reads as. -/
theorem regAccess_read {src m who o en v : Nat} {bar : Bool} {s : State} {r : Reg} (hat : regAt bar who o = some r)
    (gate : regGate src m who false o s = (0, s))
    (back : routeFailsAt (regRead who r en s).2 (serveNode o) src = none) :
    regAccess src m who bar false o en v s = (0, regRead who r en s) := by
  have shown := hiddenEntry_of_fixedRule (fixedRule_of_regGate (congrArg Prod.fst gate))
  simp [regAccess, shown, hat, gate, regAnswer_returns back]

/-! ### Plain registers -/

theorem rowWrite_plain {r : RegRow} (p : r.name ∈ plainRegs) (port : Bool) (who i j v en : Nat) (s : State) :
    rowWrite port who r i j v en s = writeRow' r i j v en s := by
  unfold rowWrite
  generalize r.name = name at p
  repeat
    obtain rfl | p := List.mem_cons.mp p
    · rfl
  cases p

theorem rowRead_plain {r : RegRow} (p : r.name ∈ plainRegs) (who i j : Nat) (s : State) :
    rowRead who r i j s = (storedVal s r i j, s) := by
  unfold rowRead
  generalize r.name = name at p
  repeat
    obtain rfl | p := List.mem_cons.mp p
    · rfl
  cases p

theorem regRead_plain {r : RegRow} (p : r.name ∈ plainRegs) (who i j en : Nat) (s : State) :
    regRead who (.row r i j) en s = (storedVal s r i j &&& en, clearRc r i j en s) := by
  have h0 : r.name ≠ .tlog_t0 := fun h => absurd (h ▸ p) (by decide)
  have h1 : r.name ≠ .tlog_t1 := fun h => absurd (h ▸ p) (by decide)
  simp [regRead, rowRead_plain p, markRead, h0, h1]

theorem regWaits_plain {r : RegRow} (p : r.name ∈ plainRegs) (s : State) (who i j : Nat) :
    regWaits s who (.row r i j) = false := by
  have h0 : r.name ≠ .rb_data := fun h => absurd (h ▸ p) (by decide)
  have h1 : r.name ≠ .resume5 := fun h => absurd (h ▸ p) (by decide)
  simp [regWaits, h0, h1]

theorem reaches_of_hostPasses {s : State} {m o : Nat} (h : hostPasses s m o = true) :
    hostReaches s m = true ∧ regHeld s (homeOf m) o = false := by
  simpa [hostPasses] using h

theorem regPath_row_mem {s : State} {m : BitVec 8} {wr : Bool} {o n en i j : Nat} {r : RegRow}
    (h : RegPath s m wr o n en (.row r i j)) : r ∈ regRows := by
  obtain ⟨-, -, hat, -⟩ := h
  exact (regAt_row hat).1

theorem bne_mc_toNat (m : BitVec 8) : (m.toNat != 0x61) = (m != 0x61) := by
  simp [bne, BEq.beq, BitVec.toNat_eq]

/-- A write that reaches a plain register writes its fields and changes nothing else. -/
theorem registerWrite_plain {m : BitVec 8} {o : BitVec 26} {n : Fin 65} {s : State} {r : RegRow} {i j en : Nat}
    (h : RegPath s m true o.toNat n en (.row r i j)) (p : r.name ∈ plainRegs) (v : Word) :
    exec (.registerWrite m o n v) s = .next (writeRow' r i j (v.toNat * 2 ^ (8 * (o.toNat % 8))) en s) := by
  obtain ⟨hpass, hsize, hat, gate, back⟩ := h
  rw [← bne_mc_toNat] at hat
  obtain ⟨hreach, hfree⟩ := reaches_of_hostPasses hpass
  have hactive := (writeFld_actsAlone (v.toNat * 2 ^ (8 * (o.toNat % 8))) en).getF_foldl_other s
    (plain_fields_ne_active hat p)
  have back' := ((writeRow_reports r i j _ en s).routeFailsAt_eq hactive _ _).trans back
  have hacts := regAccess_write (en := en) (v := v.toNat * 2 ^ (8 * (o.toNat % 8))) hat gate
    (by simpa only [regWrite, rowWrite_plain p] using back')
  rw [exec_registerWrite]
  simp [execRegisterWrite, hreach, hsize, hfree, hacts, regWrite, rowWrite_plain p, ok]

/-- A read that reaches a plain register answers its stored fields, clears RC fields and changes nothing else. -/
theorem registerRead_plain {m : BitVec 8} {o : BitVec 26} {n : Fin 65} {s : State} {r : RegRow} {i j en : Nat}
    (h : RegPath s m false o.toNat n en (.row r i j)) (p : r.name ∈ plainRegs) :
    exec (.registerRead m o n) s = .next (answer (homeOf m.toNat) 0
      (leBytes n ((storedVal s r i j &&& en) / 2 ^ (8 * (o.toNat % 8)))) 0 (clearRc r i j en s)) := by
  obtain ⟨hpass, hsize, hat, gate, back⟩ := h
  rw [← bne_mc_toNat] at hat
  obtain ⟨hreach, hfree⟩ := reaches_of_hostPasses hpass
  have hnow : accessWaits s (m.toNat != 0x61) m.toNat o.toNat = false := by
    simp [accessWaits, hat, regWaits_plain p]
  have hactive : getF (clearRc r i j en s) fNOC_CTL_ACTIVE = getF s fNOC_CTL_ACTIVE := by
    rw [clearRc_eq_foldl]
    exact (clearFld_actsAlone en).getF_foldl_other s (plain_fields_ne_active hat p)
  have back' := ((clearRc_reports r i j en s).routeFailsAt_eq hactive _ _).trans back
  have hacts := regAccess_read (en := en) (v := 0) hat gate (by simpa only [regRead_plain p] using back')
  rw [exec_registerRead]
  simp [execRegisterRead, hreach, hsize, hfree, hnow, hacts, regRead_plain p, ok]

/-- A write of a wrong size or alignment, or by a function that does not reach the part, does nothing (R324). -/
theorem registerWrite_idle {m : BitVec 8} {o : BitVec 26} {n : Fin 65} {s : State}
    (h : hostReaches s m.toNat = false ∨ sizeEn n o.toNat = none) (v : Word) :
    exec (.registerWrite m o n v) s = .next s := by
  rw [exec_registerWrite]
  obtain h | h := h <;> simp [execRegisterWrite, h, ok]

theorem registerRead_unreached {m : BitVec 8} {s : State} (h : hostReaches s m.toNat = false) (o : BitVec 26)
    (n : Fin 65) : exec (.registerRead m o n) s = .next s := by
  rw [exec_registerRead]
  simp [execRegisterRead, h, ok]

/-- A read of a wrong size or alignment answers zeros (R324). -/
theorem registerRead_wrong_size {m : BitVec 8} {o : BitVec 26} {n : Fin 65} {s : State}
    (hreach : hostReaches s m.toNat = true) (hsize : sizeEn n o.toNat = none) :
    exec (.registerRead m o n) s = .next (answer (homeOf m.toNat) 0 (List.replicate n 0) 0 s) := by
  rw [exec_registerRead]
  simp [execRegisterRead, hreach, hsize, ok]

end Sys2Proof.Machine
end

section
/-! SUPPORT. A line request that reaches one word of the register range (R623). -/
namespace Sys2Proof.Machine
open Sys2Proof Sys2Proof.Claims

/-- The eight byte enables of word i of a line, as the number that `beEn` judges. -/
def wordBe (en : List Bool) (i : Nat) : Nat := ((List.range 8).map fun k => b2n (en.getD (8 * i + k) false) * 2 ^ k).sum

theorem lineWords_nil (src m : Nat) (wr : Bool) (o : Nat) (en : List Bool) (data : List Byte)
    (x : Nat × List Byte × State) : lineWords src m wr o en data [] x = x := rfl

/-- A word that no byte enable reaches is not accessed and gives zeros. -/
theorem lineWords_idle {en : List Bool} {i : Nat} (h : beEn (wordBe en i) = 0) (src m : Nat) (wr : Bool) (o : Nat)
    (data : List Byte) (t : List Nat) (st : Nat) (d : List Byte) (s : State) :
    lineWords src m wr o en data (i :: t) (st, d, s) =
      lineWords src m wr o en data t (st, d ++ List.replicate 8 0, s) := by
  have hst : (if st = 0 then 0 else st) = st := by
    split
    · rename_i h0; exact h0.symm
    · rfl
  unfold wordBe at h
  simp only [lineWords, h, if_true, hst]
  rfl

/-- Words that no byte enable reaches, one after another. -/
theorem lineWords_all_idle {en : List Bool} {l : List Nat} (h : ∀ i ∈ l, beEn (wordBe en i) = 0) (src m : Nat) (wr : Bool)
    (o : Nat) (data : List Byte) (t : List Nat) (st : Nat) (d : List Byte) (s : State) :
    lineWords src m wr o en data (l ++ t) (st, d, s) =
      lineWords src m wr o en data t (st, d ++ List.replicate (8 * l.length) 0, s) := by
  induction l generalizing d with
  | nil => simp
  | cons i l ih =>
    rw [List.cons_append, lineWords_idle (h i List.mem_cons_self), ih fun j hj => h j (List.mem_cons_of_mem _ hj),
      List.append_assoc, List.replicate_append_replicate, List.length_cons, Nat.mul_succ, Nat.add_comm]

/-- A word that every byte enable reaches is accessed whole. -/
theorem lineWords_whole {en : List Bool} {i : Nat} (h : beEn (wordBe en i) = allBits) (src m : Nat) (wr : Bool) (o : Nat)
    (data : List Byte) (t : List Nat) (d : List Byte) (s : State) :
    lineWords src m wr o en data (i :: t) (0, d, s) =
      let x := regAccess src m m false wr (o + 8 * i) allBits (leNum ((data.drop (8 * i)).take 8)) s
      lineWords src m wr o en data t (x.1, d ++ leBytes 8 x.2.1, x.2.2) := by
  have hall : allBits ≠ 0 := by decide
  unfold wordBe at h
  simp only [lineWords, h, if_neg hall, if_true]

/-- The words of a line before a word, the word, and those after it. -/
theorem range_split_at {i n : Nat} (h : i < n) : List.range n = List.range i ++ i :: List.range' (i + 1) (n - 1 - i) := by
  rw [List.range_eq_range', List.range_eq_range', ← List.range'_succ, show n = i + (n - 1 - i + 1) by omega,
    ← List.range'_append_1]
  simp

/-- The word enables of a line of which word i alone is enabled. -/
theorem wordBe_of_one {en : BitVec 64} {i j : Nat} (h : ∀ k < 64, en.getLsbD k = decide (k / 8 = i)) (hj : j < 8) :
    wordBe ((List.range 64).map en.getLsbD) j = if j = i then 0xFF else 0 := by
  have hbit : ∀ k ∈ List.range 8, b2n (((List.range 64).map en.getLsbD).getD (8 * j + k) false) * 2 ^ k =
      b2n (decide (j = i)) * 2 ^ k := by
    intro k hk
    have hk8 := List.mem_range.mp hk
    have hget : ((List.range 64).map en.getLsbD).getD (8 * j + k) false = en.getLsbD (8 * j + k) := by
      simp [List.getD, show 8 * j + k < 64 by omega]
    rw [hget, h _ (by omega), show (8 * j + k) / 8 = j by omega]
  rw [wordBe, List.map_congr_left hbit]
  by_cases hji : j = i <;> simp [hji, b2n, List.range_succ]

/-- Word i of a line's data. -/
theorem line_word_data (r : LineReq) {i : Nat} (hi : i < 8) :
    ((((List.range 64).map fun k => (r.data >>> (8 * k)).setWidth 8 : List Byte).drop (8 * i)).take 8) =
      (List.range 8).map fun k => reqByte r (8 * i + k) := by
  refine List.ext_getElem (by simp; omega) fun k h1 h2 => ?_
  simp [reqByte]

/-- A line of which word i alone is enabled acts as one access of that word. -/
theorem regLine_one_word {r : LineReq} {i : Nat} (hi : i < 8) (h : ∀ k < 64, r.en.getLsbD k = decide (k / 8 = i))
    (src m : Nat) (wr : Bool) (o : Nat) (s : State) :
    regLine src m wr o ((List.range 64).map r.en.getLsbD)
        ((List.range 64).map fun i => (r.data >>> (8 * i)).setWidth 8) s =
      let x := regAccess src m m false wr (o + 8 * i) allBits
        (leNum ((List.range 8).map fun k => reqByte r (8 * i + k))) s
      (x.1, List.replicate (8 * i) 0 ++ leBytes 8 x.2.1 ++ List.replicate (56 - 8 * i) 0, x.2.2) := by
  have idle {j : Nat} (hj : j < 8) (hne : j ≠ i) : beEn (wordBe ((List.range 64).map r.en.getLsbD) j) = 0 := by
    rw [wordBe_of_one h hj, if_neg hne]
    rfl
  have whole : beEn (wordBe ((List.range 64).map r.en.getLsbD) i) = allBits := by
    rw [wordBe_of_one h hi, if_pos rfl]
    rfl
  have before : ∀ j ∈ List.range i, beEn (wordBe ((List.range 64).map r.en.getLsbD) j) = 0 := fun j hj =>
    have := List.mem_range.mp hj
    idle (by omega) (by omega)
  have after : ∀ j ∈ List.range' (i + 1) (8 - 1 - i), beEn (wordBe ((List.range 64).map r.en.getLsbD) j) = 0 :=
    fun j hj =>
    have := List.mem_range'_1.mp hj
    idle (by omega) (by omega)
  unfold regLine
  conv =>
    lhs
    rw [range_split_at hi, lineWords_all_idle before, lineWords_whole whole, line_word_data r hi]
  dsimp only
  rw [← List.append_nil (List.range' (i + 1) (8 - 1 - i)), lineWords_all_idle after, lineWords_nil]
  simp [show 8 * (7 - i) = 56 - 8 * i by omega]

/-- A line request outside the register range does nothing. -/
theorem registerLineRequest_outside {r : LineReq} (h : lineAddr r < 0x20000000 ∨ 0x24000000 ≤ lineAddr r) (s : State) :
    exec (.registerLineRequest r) s = .next s := by
  rw [exec_registerLineRequest]
  unfold lineAddr at h
  unfold execRegisterLineRequest
  rw [if_neg (by omega)]
  rfl

/-- A line request of one word that is not held acts as an access of that word and is answered with its status and
data. -/
theorem registerLineRequest_one_word {r : LineReq} {i : Nat} (hi : i < 8) {s : State} (hlo : 0x20000000 ≤ lineAddr r)
    (hhi : lineAddr r < 0x24000000) (h : ∀ k < 64, r.en.getLsbD k = decide (k / 8 = i))
    (free : lineWaits s r.node.toNat r.master.toNat r.write (lineAddr r - 0x20000000)
      ((List.range 64).map r.en.getLsbD) = false) :
    let x := regAccess r.node.toNat r.master.toNat r.master.toNat false r.write (lineAddr r - 0x20000000 + 8 * i)
      allBits (leNum ((List.range 8).map fun k => reqByte r (8 * i + k))) s
    exec (.registerLineRequest r) s = .next (answer r.node.toNat x.1
      (if r.write then [] else List.replicate (8 * i) 0 ++ leBytes 8 x.2.1 ++ List.replicate (56 - 8 * i) 0) 0 x.2.2) := by
  rw [exec_registerLineRequest]
  unfold lineAddr at hlo hhi free ⊢
  unfold execRegisterLineRequest
  simp only [hlo, hhi, and_self, if_true, free, Bool.false_eq_true, if_false, regLine_one_word hi h]
  rfl

end Sys2Proof.Machine
end

section
/-! The statements of chapter 00 about register accesses and the queue of commands. -/
namespace Sys2Proof.Proofs
open Sys2Proof Sys2Proof.Machine Sys2Proof.Claims

/-- Settles O41: each access is let through to one pass over the fields of its register, or is one word of a line. -/
theorem registerAccesses : Obligations.RegisterAccesses := by
  unfold Obligations.RegisterAccesses
  refine ⟨fun m o n v s r i j en h p => ?write, fun m o n s r i j en h p => ?read,
    fun m o n v s => ⟨fun h => registerWrite_idle h v, fun h => registerRead_unreached h o n,
      fun hreach hsize => registerRead_wrong_size hreach hsize⟩,
    fun r i s hlo hhi h free => registerLineRequest_one_word i.isLt hlo hhi h free,
    fun r s h => registerLineRequest_outside h s⟩
  case write =>
    refine ⟨_, registerWrite_plain h p v, (writeRow_reports ..).mem, fun f hf => ?_⟩
    rw [getF_writeRow' (regPath_row_mem h) hf, writtenFld]
    cases f.ty <;> rfl
  case read =>
    exact ⟨_, registerRead_plain h p, (clearRc_reports ..).mem,
      congrArg (· ++ [_]) (clearRc_reports r i j en s).answers, fun f hf => getF_clearRc (regPath_row_mem h) hf en s⟩

/-- Settles O58, by the two cases of the queue. -/
theorem queueOrder : Obligations.QueueOrder := by
  unfold Obligations.QueueOrder
  refine ⟨fun c rest s h => step_cons h, fun s h => ?_⟩
  rw [step_nil h]
  have held : powerHeld { s with ticks := s.ticks + 1 } = true ↔
      getF s fBOOT_STAT_STEP = 0 ∧ getF s fRST_CAUSE_CAUSE ≠ 2 ∧ s.warmWait = false := by
    simp [powerHeld, getF, and_assoc]
  simp only [tick, held, Bool.not_eq_true]
  split <;> rfl

end Sys2Proof.Proofs
end

section
/-! SUPPORT. The issue of a microword: an intact word that nothing holds issues, and one that goes on advances the
micro-sequencer alone (R95–R102). -/
namespace Sys2Proof.Machine
open Sys2Proof Sys2Proof.Claims

/-! ### From the command to the issue of the word -/

theorem almUpset_zero (n a : Nat) (s : State) : almUpset n a 0 s = s := if_pos rfl

/-- A stored word without error is fetched as it is (R124). -/
theorem fetchMicro_intact {s : State} {n a : Nat} {w : MicroWord} (h : tlook s.alm (almKey n a) = some w)
    (he : tget 0 s.almErr (almKey n a) = 0) : fetchMicro s n a = (.word w none, s) := by
  have hp : popc 8 (0 : BitVec 137).toNat = 0 := by decide
  simp only [fetchMicro, h, he, hp]

/-- The command of the word's SEQ code issues it (R95, R97). -/
theorem microIssue_of_issues {s : State} {n : Fin 64} {p : Part} {w : MicroWord} (h : Issues s n p w) :
    microIssue (mwSeq w) n 0 s = issue n p w s := by
  obtain ⟨hp, hw, he, hres, hslot, hheld, hcommit⟩ := h
  simp only [microIssue, hp, almUpset_zero, fetchMicro_intact hw he, hres, hslot, hheld, hcommit, ne_eq,
    not_true_eq_false, Bool.false_eq_true, or_self, if_false]

theorem issues_not_stopped {s : State} {n : Fin 64} {p : Part} {w : MicroWord} (h : Issues s n p w) :
    (getSeq s n).stop = none := by
  have hp := h.1
  simp only [issuing] at hp
  split at hp
  · rename_i c
    exact c.2.1
  · cases hp

/-! ### Halo requests -/

/-- t differs from s in registers and in the outstanding halo requests of master n alone. -/
def HalosOnly (n : Nat) (s t : State) : Prop :=
  t = { s with regs := t.regs, seqs := t.seqs } ∧
    ∃ h a, getSeq t n = { getSeq s n with halo := h, haloAge := a }

theorem HalosOnly.refl (n : Nat) (s : State) : HalosOnly n s s := ⟨rfl, _, _, rfl⟩
theorem HalosOnly.trans {n : Nat} {s t u : State} (h : HalosOnly n s t) (k : HalosOnly n t u) : HalosOnly n s u := by
  obtain ⟨h, _, _, hq⟩ := h
  obtain ⟨k, _, _, kq⟩ := k
  exact ⟨by rw [k, h], _, _, by rw [kq, hq]⟩
theorem setF_halosOnly (n : Nat) (f : Fld) (v : Nat) (s : State) : HalosOnly n s (setF f v s) := ⟨rfl, _, _, rfl⟩

theorem haloRequest_halosOnly (n : Nat) (p : Part) (w : MicroWord) (s : State) :
    HalosOnly n s (haloRequest n p w s) := by
  unfold haloRequest
  dsimp only
  split
  · refine foldl_keeps (P := HalosOnly n s) _ (.refl n s) fun t ht g _ => ht.trans ?_
    split
    · exact setF_halosOnly ..
    · exact ⟨rfl, _, _, getSeq_updSeq_same ..⟩
  · exact .refl n s

/-! ### A word that goes on -/

/-- t is s once master n has issued w, with u as the next micro-PC. -/
structure Advanced (n : Nat) (w : MicroWord) (u : BitVec 13) (s t : State) : Prop where
  upc : (getSeq t n).upc = u
  slot : (getSeq t n).slot = (getSeq s n).slot + 1
  state : (getSeq t n).state = .issuing
  stop : (getSeq t n).stop = (getSeq s n).stop
  cur : (getSeq t n).cur = (getSeq s n).cur
  ptrs : (getSeq t n).ptrs = ptrUpdate (mwPtr w) (mwImm w) (ctrUpdate w (getSeq s n).ptrs)
  stack : (getSeq t n).stack = nextStack (getSeq s n) w
  pipe : ∃ x : PipeWord, (getSeq t n).pipe = (getSeq s n).pipe ++ [x] ∧
    (x.slot, x.upc, x.word, x.eaA, x.eaB, x.eaC) = ((getSeq s n).slot, (getSeq s n).upc, w,
      eaA w (getSeq s n).ptrs, eaB w (getSeq s n).ptrs, eaC w (getSeq s n).ptrs)
  frame : t = { s with regs := t.regs, seqs := t.seqs }

/-- With a next micro-PC, no faulting port and no pending request, issue advances the micro-sequencer and does no more. -/
theorem issue_advances {n : Fin 64} {p : Part} {w : MicroWord} {u : BitVec 13} {s : State} (hgo : GoesOn s n w)
    (hu : nextUpc s n (lSnd p) (getSeq s n) w = some u) : Advanced n w u s (issue n p w s) := by
  obtain ⟨hsw, hrb, hsp, hports⟩ := hgo
  unfold issue
  simp only [hu, hports, recordFault, Option.isNone_some, Bool.false_eq_true, and_false, if_false]
  generalize hv : haloRequest n p w _ = v
  have hHalo : HalosOnly n s v := by
    rw [← hv]
    refine HalosOnly.trans ?_ (haloRequest_halosOnly ..)
    split
    · exact setF_halosOnly ..
    · exact .refl n s
  obtain ⟨hframe, _, _, hseq⟩ := hHalo
  have hpend : ((getSeq v n).pendSw || (getSeq v n).pendRb || (getSeq v n).pendSp) = false := by
    rw [hseq]
    simp [hsw, hrb, hsp]
  simp only [pruneTrees, getSeq_updSeq_same, ne_eq, not_true_eq_false, false_and, if_false, hpend, Bool.false_and,
    Bool.false_eq_true]
  constructor
  case pipe => exact ⟨_, by rw [getSeq_updSeq_same, hseq], rfl⟩
  case frame => rw [hframe]; rfl
  case stack => simp [hseq, nextStack]
  all_goals simp [hseq]

/-! ### The SEQ codes that go on -/

/-- Each command of the table is the issue of its own SEQ code. -/
theorem exec_seqTable : ∀ e ∈ seqTable, ∀ (n : Fin 64) (s : State),
    exec (e.1 n 0) s = .next (microIssue e.2.1 n 0 s) := by
  simp only [seqTable, List.forall_mem_cons, List.not_mem_nil, false_implies, implies_true, and_true]
  exact ⟨fun _ _ => rfl, fun _ _ => rfl, fun _ _ => rfl, fun _ _ => rfl, fun _ _ => rfl, fun _ _ => rfl, fun _ _ => rfl,
    fun _ _ => rfl, fun _ _ => rfl, fun _ _ => rfl, fun _ _ => rfl⟩

/-- A loop counter reaches 0 with the pass that finds it at 1 (R100). -/
theorem counter_sub_one_eq_zero (c : BitVec 16) : c - 1 = 0 ↔ c = 1 := by
  constructor
  · intro h
    bv_omega
  · rintro rfl
    rfl

/-- The next micro-PC of each command of the table is that of R97. -/
theorem nextUpc_seqTable : ∀ e ∈ seqTable, ∀ (n : Fin 64) (s : State) (p : Part) (w : MicroWord), mwSeq w = e.2.1 →
    (e.2.1 = 3 → (getSeq s n).stack ≠ []) →
    nextUpc s n (lSnd p) (getSeq s n) w = some (e.2.2 s n p (getSeq s n) w) := by
  simp only [seqTable, List.forall_mem_cons, List.not_mem_nil, false_implies, implies_true, and_true]
  refine ⟨?next, ?jump, ?call, ?ret, ?branchAny, ?branchNone, ?loopC0, ?loopC1, ?dispatch, ?hold, ?mflag⟩ <;>
    intro n s p w hw hstack <;> simp only [nextUpc, hw]
  case ret =>
    rw [List.getLast?_eq_some_getLast (hstack trivial)]
    rfl
  case branchAny => simp only [decide_eq_true_eq]
  case branchNone => simp only [decide_eq_true_eq, ne_eq, ite_not]
  case loopC0 => simp only [decide_eq_true_eq, ne_eq, counter_sub_one_eq_zero, ite_not]
  case loopC1 => simp only [decide_eq_true_eq, ne_eq, counter_sub_one_eq_zero, ite_not]
  case hold => exact (apply_ite some _ _ _).symm
  case mflag =>
    have h0 : mwImm w = 0 ↔ (mwImm w).toNat = 0 := BitVec.toNat_inj.symm
    have h1 : mwImm w = 1 ↔ (mwImm w).toNat = 1 := BitVec.toNat_inj.symm
    refine congrArg some (ite_congr (propext ?_) (fun _ => rfl) fun _ => rfl)
    simp only [h0, h1]
    split
    case h_1 h => simp [h, bitF]
    case h_2 h => simp [h, censusDone]
    case h_3 hne0 hne1 =>
      rw [if_neg hne0, if_neg hne1]
      simp [haloDone]

theorem nextStack_of_seq (q : MSeq) {w : MicroWord} {k : Nat} (h : mwSeq w = k) : nextStack q w =
    if k = 2 then (if q.stack.length = 4 then q.stack.tail else q.stack) ++ [q.upc + 1]
    else if k = 3 then q.stack.dropLast else q.stack := by
  unfold nextStack
  rw [h]
  split
  · simp
  · simp
  · rw [if_neg ‹_›, if_neg ‹_›]

end Sys2Proof.Machine
end

section
namespace Sys2Proof.Proofs
open Sys2Proof Sys2Proof.Machine Sys2Proof.Claims

/-- Settles O19: the word's own command issues it, its issue advances the micro-sequencer, and the next micro-PC is that
of its SEQ code. -/
theorem microwordsIssue : Obligations.MicrowordsIssue := by
  unfold Obligations.MicrowordsIssue
  intro e he n s p w hissues hgo hseq hstack q
  have adv := issue_advances hgo (nextUpc_seqTable e he n s p w hseq hstack)
  obtain ⟨x, hpipe, hx⟩ := adv.pipe
  have hframe := adv.frame
  refine ⟨issue n p w s, ?_, adv.upc, adv.slot, adv.state, adv.stop.trans (issues_not_stopped hissues), adv.cur, adv.ptrs,
    adv.stack.trans (nextStack_of_seq _ hseq), ?_, ?_⟩
  · rw [exec_seqTable e he, ← hseq, microIssue_of_issues hissues]
  · rw [hpipe, List.map_append, List.map_singleton, hx]
  · rw [hframe]
    exact ⟨rfl, rfl, rfl, rfl⟩

end Sys2Proof.Proofs
end

section
/-! SUPPORT. One field's work for a microword where no row is in error (R37–R65), and what a word does in a partition of one
field. -/
namespace Sys2Proof.Machine
open Sys2Proof

/-! ### The commands -/

theorem exec_peExecute (n : Fin 64) (ups : List RowUpset) (bc : List BcErr) (s : State) :
    exec (.peExecute n ups bc) s = execPeExecute n ups bc s := rfl
theorem exec_nlatchDelivery (n : Fin 64) (s : State) : exec (.nlatchDelivery n) s = execNlatchDelivery n s := rfl
theorem exec_haloAck (g : Fin 8) (m : Fin 4) (s : State) :
    exec (.haloAck g m) s = .next (haloAck (4 * g.val + m.val) s) := rfl

/-- PE_EXECUTE of the word the PEs execute next carries it out (R37). -/
theorem peExecute_ready {n : Fin 64} {ups : List RowUpset} {s : State} {p : Part} {w : PipeWord}
    (h : peReady (applyUpsets ups s) n = some (p, w)) (bc : List BcErr) :
    exec (.peExecute n ups bc) s = .next (peWord n p w bc (applyUpsets ups s)) := by
  simp only [exec_peExecute, execPeExecute, h, ok]

theorem nlatchDelivery_next {n : Fin 64} {s : State} {d : Delivery} (h : nextDelivery (getSeq s n) = some d) :
    exec (.nlatchDelivery n) s =
      .next (updSeq n (fun q => { q with flight := q.flight.filter (fun e => decide (e.slot ≠ d.slot)) })
        (d.planes.foldl (fun s e => updField e.1 (fun x => { x with nlatch := e.2 }) s) s)) := by
  simp only [exec_nlatchDelivery, execNlatchDelivery, h, ok]

/-- An acknowledged request leaves the count of its segment (R160). -/
theorem haloAck_takes_one {seg n : Nat} {p : Part} {s : State}
    (h : s.parts.find? (fun e => (List.range 4).any fun d => (sideSegs e.1 e.2 d).contains seg) = some (n, p))
    (usable : segUsable s seg = true) (pending : tget 0 (getSeq s n).halo seg ≠ 0) :
    (getSeq (haloAck seg s) n).halo = tset 0 (getSeq s n).halo seg (tget 0 (getSeq s n).halo seg - 1) ∧
      haloAck seg s = { s with seqs := (haloAck seg s).seqs } := by
  simp only [haloAck, h, usable, if_true, if_neg pending, getSeq_updSeq_same, true_and]
  rfl

/-! ### Flags and planes -/

theorem getFlag_setFlag (k : Nat) (v : Plane) (x : Field) (j : Nat) :
    getFlag (setFlag k v x) j = if j = k then v else getFlag x j := by
  unfold getFlag setFlag
  split
  · rename_i h
    rw [h, tget_tset_same]
  · rename_i h
    simp only [tget, tlook_tset_other _ _ _ h]

/-! ### Rows without errors -/

section NoErrors
variable {s : State} {f : Nat} (clean : (getField s f).rowErr = [])
include clean

theorem badRows_clean (row : Nat) : badRows s f row = [] := by
  simp [badRows, clean]

/-- A read port delivers a user row without errors as it is stored (R53). -/
theorem readPort_clean {ea : Nat} (h : ea < 4096) : readPort s f ea = (tget 0 (getField s f).rows ea, [], s) := by
  simp [readPort, h, readRow, readRowAs, badRows_clean clean]

/-- A write stores the enabled PEs of a row without errors, and nothing else (R65). -/
theorem writeRow_clean (unarmed : getF s (fPEMEM_INJ_ARM f) = 0) (row : Nat) (en val : Plane) :
    writeRow s f row en val = ([], updField f (fun x => { x with
      rows := tset 0 x.rows row ((tget 0 (getField s f).rows row &&& ~~~en) ||| (val &&& en)) }) s) := by
  have harm (g : Field → Field) : bitF (updField f g s) (fPEMEM_INJ_ARM f) = false := by
    rw [bitF, getF_congr _ (updField_regs ..), unarmed]
    rfl
  simp [writeRow, badRows_clean clean, inject, harm]

end NoErrors

/-! ### One field -/

theorem peErrors_nil (f src row upc : Nat) (s : State) : peErrors f src row upc [] s = s := rfl
theorem reportUe_nil (n : Nat) (p : Part) (w : PipeWord) (f : Nat) (s : State) : reportUe n p w f [] s = s := rfl

/-- The field after a word that writes S: flag FOUT takes K, and row C takes S in the enabled PEs (R37, R39, R41, R45). -/
def wroteS (w : PipeWord) (x : Field) : Field :=
  let a := tget 0 x.rows w.eaA.toNat
  let b := tget 0 x.rows w.eaB.toNat
  let fin := getFlag x (mwFin w.word)
  let en := wenPlane (mwWen w.word) (getFlag x 1)
  { setFlag (mwFout w.word) (ttPlane (mwTtK w.word) a b fin) x with
    rows := tset 0 x.rows w.eaC.toNat
      ((tget 0 x.rows w.eaC.toNat &&& ~~~en) ||| (ttPlane (mwTtS w.word) a b fin &&& en)),
    fwd := some w.eaC.toNat }

/-- Without stored errors a word that writes S to user row C and contributes nothing changes its field alone. -/
theorem peField_clean {s : State} {f : Nat} {w : PipeWord} (opt : Nat) (clean : (getField s f).rowErr = [])
    (unarmed : getF s (fPEMEM_INJ_ARM f) = 0) (hsnd : mwSnd w.word = 0) (hsrc : mwWsrc w.word = 0)
    (ha : w.eaA.toNat < 4096) (hb : w.eaB.toNat < 4096) (hc : w.eaC.toNat < 4096) (hwen : mwWen w.word ≠ 0) :
    ∃ t, peField w opt f s =
        ((tget 0 (getField s f).rows w.eaA.toNat, tget 0 (getField s f).rows w.eaB.toNat), 0, [], t) ∧
      getField t f = wroteS w (getField s f) ∧ t = { s with fields := t.fields } := by
  have hportB : (if w.eaB = w.eaA then (tget 0 (getField s f).rows w.eaA.toNat, [], s)
      else readPort s f w.eaB.toNat) = (tget 0 (getField s f).rows w.eaB.toNat, [], s) := by
    split
    · rename_i h
      rw [h]
    · exact readPort_clean clean hb
  have hwrite (k : Nat) (v en val : Plane) := writeRow_clean (s := updField f (setFlag k v) s) (f := f)
    (by rw [getField_updField_same]; exact clean) ((getF_congr _ (updField_regs ..)).trans unarmed) w.eaC.toNat en val
  simp only [peField, readPort_clean clean ha, hportB, peErrors_nil, hsnd, hsrc, hwen, hc, hwrite, ne_eq,
    not_false_eq_true, and_self, if_true, ite_self, List.append_nil]
  refine ⟨_, rfl, ?_, rfl⟩
  simp only [getField_updField_same, wroteS]
  rfl

theorem rows_wroteS (w : PipeWord) (x : Field) (r : Nat) : tget 0 (wroteS w x).rows r =
    if r = w.eaC.toNat then
      (tget 0 x.rows r &&& ~~~wenPlane (mwWen w.word) (getFlag x 1)) |||
        (ttPlane (mwTtS w.word) (tget 0 x.rows w.eaA.toNat) (tget 0 x.rows w.eaB.toNat) (getFlag x (mwFin w.word)) &&&
          wenPlane (mwWen w.word) (getFlag x 1))
    else tget 0 x.rows r := by
  simp only [wroteS, tget_tset]
  split
  · rename_i h
    rw [h]
  · rfl
theorem getFlag_wroteS (w : PipeWord) (x : Field) (k : Nat) : getFlag (wroteS w x) k =
    if k = mwFout w.word then
      ttPlane (mwTtK w.word) (tget 0 x.rows w.eaA.toNat) (tget 0 x.rows w.eaB.toNat) (getFlag x (mwFin w.word))
    else getFlag x k := getFlag_setFlag ..
theorem nlatch_wroteS (w : PipeWord) (x : Field) : (wroteS w x).nlatch = x.nlatch := rfl

/-! ### The word in a partition of one field -/

theorem partFields_single {n : Nat} {p : Part} (hn : n < 64) (hw : p.wlog = 0) (hh : p.hlog = 0) :
    partFields (n, p) = [n] := by
  simp [partFields, rectFields, hw, hh, hn]

/-- Without a send the edge ports fall silent and nothing else changes (R158). -/
theorem edgePorts_silent {w : PipeWord} (h : mwNews w.word = 0) (m : Nat) (p : Part) (live : List Nat) (sent : Nat → Plane)
    (s : State) : edgePorts m p w live sent s = { s with
      edgeOut := (edgePorts m p w live sent s).edgeOut, inTake := (edgePorts m p w live sent s).inTake } := by
  simp only [edgePorts, h, if_true]

/-- A word that sends and contributes nothing, in a partition of the one field n: the field does its work, and the
word leaves the pipe. -/
theorem peWord_single {n : Fin 64} {p : Part} {w : PipeWord} {s t : State} {a b c : Plane}
    (hw : p.wlog = 0) (hh : p.hlog = 0) (hnews : mwNews w.word = 0) (hsnd : mwSnd w.word = 0) (hsrc : mwWsrc w.word ≠ 3)
    (hpe : peField w (getSeq s n).opt n s = ((a, b), c, [], t)) :
    ∃ u xp, peWord n p w [] s = updSeq n (fun q => { q with pipe := q.pipe.tail, done := w.slot + 1, xp := xp }) u ∧
      u = { t with fresh := u.fresh, edgeOut := u.edgeOut, inTake := u.inTake } := by
  have hfields := partFields_single (p := p) n.isLt hw hh
  unfold peWord
  simp only [hfields, bcastErrors, hpe, reportUe_nil, draw, hnews, mwSounding, mwCensus, hsnd, stepOpt, hsrc,
    List.flatMap_nil, List.foldl_nil, List.contains_nil, Bool.not_false, List.filter_cons, if_true, List.filter_nil,
    Bool.false_eq_true, if_false, List.foldl_cons, ne_eq, not_true_eq_false, decide_false, Bool.false_and]
  exact ⟨_, _, rfl, by rw [edgePorts_silent hnews]⟩

end Sys2Proof.Machine
end

section
namespace Sys2Proof.Proofs
open Sys2Proof Sys2Proof.Machine Sys2Proof.Claims

/-- Settles O23: the word does its one field's work, and the deliveries and acknowledgements act as they are defined. -/
theorem pesExecuteTheWord : Obligations.PesExecuteTheWord := by
  unfold Obligations.PesExecuteTheWord
  refine ⟨fun n ups bc s p w h => peExecute_ready h bc, ?field, fun n s d h => nlatchDelivery_next h, ?ack⟩
  case field =>
    intro n s p w ready hw hh clean unarmed hnews hsnd hsrc ha hb hc hwen
    obtain ⟨t, hpe, hfield, ht⟩ := peField_clean (getSeq s n).opt clean unarmed hsnd hsrc ha hb hc hwen
    obtain ⟨u, xp, hword, hu⟩ := peWord_single hw hh hnews hsnd (by omega) hpe
    have hfld (g : MSeq → MSeq) : getField (updSeq n g u) n = wroteS w (getField s n) := by rw [← hfield, hu]; rfl
    have hseq : getSeq u n = getSeq s n := by rw [hu, ht]; rfl
    refine ⟨_, (peExecute_ready (ups := []) ready []).trans (congrArg _ hword), fun r => ?_, fun k => ?_, ?_, ?_, ?_, ?_⟩
    · rw [hfld, rows_wroteS]
    · rw [hfld, getFlag_wroteS]
    · rw [hfld, nlatch_wroteS]
    · rw [getSeq_updSeq_same]
    · rw [getSeq_updSeq_same, hseq]
    · rw [hu, ht]
      exact ⟨rfl, rfl, rfl⟩
  case ack =>
    intro g m n p s h usable pending
    obtain ⟨hhalo, hframe⟩ := haloAck_takes_one h usable pending
    refine ⟨_, exec_haloAck g m s, ?_, ?_, hhalo⟩ <;> rw [hframe]

end Sys2Proof.Proofs
end

section
/-! SUPPORT. What reaches the master from the trees and as error reports: the interrupt of a Census, and the machine
check that stops an issuing master (R70, R165–R170, R300). -/
namespace Sys2Proof.Machine
open Sys2Proof

/-! ### The commands -/

theorem exec_soundingResult (n : Fin 64) (s : State) : exec (.soundingResult n) s = execSoundingResult n s := rfl
theorem exec_censusResult (n : Fin 64) (s : State) : exec (.censusResult n) s = execCensusResult n s := rfl
theorem exec_treeMismatch (n : Fin 64) (level : Fin 4) (f : Fin 64) (sl : Fin 256) (s : State) :
    exec (.treeMismatch n level f sl) s = execTreeMismatch n level f sl s := rfl
theorem exec_censusMismatch (n : Fin 64) (level : Fin 4) (f : Fin 64) (sl : Fin 256) (s : State) :
    exec (.censusMismatch n level f sl) s = execCensusMismatch n level f sl s := rfl
theorem exec_ueReport (n : Fin 64) (s : State) : exec (.ueReport n) s = execUeReport n s := rfl

/-! ### Reports and interrupts -/

theorem Reports.fields {s t : State} (h : Reports s t) : t.fields = s.fields := by rw [h]; rfl
theorem Reports.getSeq_eq {s t : State} (h : Reports s t) (n : Nat) : getSeq t n = getSeq s n := by
  unfold getSeq
  rw [h.seqs]

theorem getSr_setSr_same (k : Nat) (v : Word) (c : Core) : getSr (setSr k v c) k = v := tget_tset_same ..

/-- An interrupt event sets its bit of IPEND (R300). -/
theorem getSr_raiseIrq (n cause : Nat) (s : State) :
    getSr (getCore (raiseIrq n cause s) n) 0x15 = getSr (getCore s n) 0x15 ||| (1#64 <<< cause) := by
  rw [raiseIrq, getCore_updCore_same, getSr_setSr_same]

theorem getSeq_raiseIrq (n cause k : Nat) (s : State) : getSeq (raiseIrq n cause s) k = getSeq s k := rfl

/-! ### Results -/

/-- The registers once a Census of value v has arrived: MSEQ_SND, and the record of a yield that it outlives (R114). -/
def censusShown (n v : Nat) (s : State) : State :=
  let u := setFs [(fMSEQ_SND_CEN_VALID n, 1), (fMSEQ_SND_LAST_CENSUS n, v)] s
  if (getSeq s n).state = .yielded ∨ (getSeq s n).state = .trapped then
    setFs [(fRESUME5_CEN_VALID n, 1), (fRESUME5_LAST_CENSUS n, v)] u else u

theorem execCensusResult_arrives {n : Fin 64} {s : State} {r : TreeRec} {v : Nat}
    (h : inFlight (getSeq s n).cens = some r) (hv : r.value = some v) :
    execCensusResult n s = .next (raiseIrq n 18
      (updSeq n (fun q => { q with cens := arrive r.slot q.cens }) (censusShown n v s))) := by
  simp only [execCensusResult, h, hv, Option.getD_some]
  rfl

theorem censusShown_reports (n v : Nat) (s : State) : Reports s (censusShown n v s) := by
  unfold censusShown
  dsimp only
  split
  · exact (setFs_reports ..).trans (setFs_reports ..)
  · exact setFs_reports ..

/-- MSEQ_SND is none of the fields of the record. -/
theorem getF_censusShown {f : Fld} {n : Nat} (v : Nat) (s : State) (hvalid : fldKey f ≠ fldKey (fRESUME5_CEN_VALID n))
    (hlast : fldKey f ≠ fldKey (fRESUME5_LAST_CENSUS n)) : getF (censusShown n v s) f =
      getF (setFs [(fMSEQ_SND_CEN_VALID n, 1), (fMSEQ_SND_LAST_CENSUS n, v)] s) f := by
  unfold censusShown
  dsimp only
  split
  · exact getF_setFs_other _ (by simp [hvalid, hlast])
  · rfl

theorem getF_censusShown_valid (n v : Nat) (s : State) : getF (censusShown n v s) (fMSEQ_SND_CEN_VALID n) = 1 := by
  rw [getF_censusShown]
  · exact (getF_setF_other _ _ (by simp only [fldKey, fMSEQ_SND_CEN_VALID, fMSEQ_SND_LAST_CENSUS]; omega)).trans
      (getF_setF_same ..)
  all_goals
    simp only [fldKey, fMSEQ_SND_CEN_VALID, fRESUME5_CEN_VALID, fRESUME5_LAST_CENSUS]
    omega

theorem getF_censusShown_last (n v : Nat) (s : State) :
    getF (censusShown n v s) (fMSEQ_SND_LAST_CENSUS n) = v % 2 ^ (fMSEQ_SND_LAST_CENSUS n).w := by
  rw [getF_censusShown]
  · exact getF_setF_same ..
  all_goals
    simp only [fldKey, fMSEQ_SND_LAST_CENSUS, fRESUME5_CEN_VALID, fRESUME5_LAST_CENSUS]
    omega

/-! ### The machine check of an issuing master -/

theorem treeCapture_reports (n : Nat) (cen : Bool) (level f sl upc : Nat) (s : State) :
    Reports s (treeCapture n cen level f sl upc s) := by
  unfold treeCapture
  dsimp only
  split
  · exact (setF_reports ..).trans (setF_reports ..)
  · exact (setF_reports ..).trans (setFs_reports ..)

theorem reportNow_of_due {q : MSeq} {due : Nat} (h : due ≤ q.slot) : reportNow q due = true := by simp [reportNow, h]

/-- The micro-sequencer held by a machine check at its micro-PC. -/
def heldAtCheck (mcsrc : Nat) (q : MSeq) : MSeq :=
  { q with state := .held, stop := some (mkStop q 4 10 mcsrc q.upc), pendSw := false }

/-- A machine check stops an issuing master, and a pending software request goes (R118). -/
theorem machineCheck_issuing {n : Nat} {s : State} (hissuing : (getSeq s n).state = .issuing)
    (hstop : (getSeq s n).stop = none) (mcsrc : Nat) (apc : BitVec 14) :
    machineCheck n mcsrc apc s = updSeq n (heldAtCheck mcsrc) (setF (fMSEQ_CTL_YIELD_REQ n) 0 s) := by
  simp only [machineCheck, hstop, hissuing]
  rfl

/-- t holds master n, which was issuing in s, stopped with cause 10 at its micro-PC; memory and fields are those of s. -/
def CheckStopped (t s : State) (n : Fin 64) (mcsrc : Nat) : Prop :=
  ∃ st, (getSeq t n).stop = some st ∧ st.kind = 4 ∧ st.cause = 10 ∧ st.mcsrc = mcsrc ∧ st.upc = (getSeq s n).upc ∧
    (getSeq t n).state = .held ∧ t.mem = s.mem ∧ t.fields = s.fields

/-- The machine check of an issuing master once `g` has taken away what the check is about, between reports before and
after it. -/
theorem machineCheck_stops {n : Fin 64} {s v t : State} {g : MSeq → MSeq} {mcsrc : Nat} {apc : BitVec 14}
    (hissuing : (getSeq s n).state = .issuing) (hstop : (getSeq s n).stop = none)
    (keeps : ∀ q, (g q).state = q.state ∧ (g q).stop = q.stop ∧ (g q).upc = q.upc) (before : Reports s v)
    (after : Reports (machineCheck n mcsrc apc (updSeq n g v)) t) :
    CheckStopped t s n mcsrc ∧ getSeq t n = heldAtCheck mcsrc (g (getSeq s n)) := by
  obtain ⟨kstate, kstop, kupc⟩ := keeps (getSeq s n)
  have hseq : getSeq (updSeq n g v) n = g (getSeq s n) := by rw [getSeq_updSeq_same, before.getSeq_eq]
  rw [machineCheck_issuing (by rw [hseq, kstate, hissuing]) (by rw [hseq, kstop, hstop])] at after
  have hheld : getSeq t n = heldAtCheck mcsrc (g (getSeq s n)) := by
    rw [after.getSeq_eq, getSeq_updSeq_same]
    exact congrArg _ hseq
  refine ⟨⟨mkStop (g (getSeq s n)) 4 10 mcsrc (g (getSeq s n)).upc, ?_, rfl, rfl, rfl, kupc, ?_,
    after.mem.trans before.mem, after.fields.trans before.fields⟩, hheld⟩
  all_goals rw [hheld]; rfl

/-- The Sounding that slot k started leaves the records of the master. -/
def dropSnd (k : Nat) (q : MSeq) : MSeq := { q with snds := q.snds.filter fun x => decide (x.slot ≠ k) }
/-- The Census that slot k started leaves the records of the master. -/
def dropCen (k : Nat) (q : MSeq) : MSeq := { q with cens := q.cens.filter fun x => decide (x.slot ≠ k) }

theorem execTreeMismatch_stops {n f : Fin 64} {s : State} {p : Part} {r : TreeRec} (hp : partAt s n = some p)
    (hissuing : (getSeq s n).state = .issuing) (hstop : (getSeq s n).stop = none)
    (h : inFlight (getSeq s n).snds = some r) (hdue : r.slot + lSnd p ≤ (getSeq s n).slot) (level : Fin 4)
    (sl : Fin 256) :
    ∃ t, execTreeMismatch n level f sl s = .next t ∧ CheckStopped t s n 4 ∧
      getSeq t n = heldAtCheck 4 (dropSnd r.slot (getSeq s n)) := by
  simp only [execTreeMismatch, h, hp, Option.map_some, Option.getD_some, reportNow_of_due hdue, if_true]
  exact ⟨_, rfl, machineCheck_stops (g := dropSnd r.slot) hissuing hstop (fun _ => ⟨rfl, rfl, rfl⟩)
    (treeCapture_reports ..) (devLogF_reports ..)⟩

theorem execCensusMismatch_stops {n f : Fin 64} {s : State} {r : TreeRec} (hissuing : (getSeq s n).state = .issuing)
    (hstop : (getSeq s n).stop = none) (h : inFlight (getSeq s n).cens = some r)
    (hdue : r.slot + 24 ≤ (getSeq s n).slot) (level : Fin 4) (sl : Fin 256) :
    ∃ t, execCensusMismatch n level f sl s = .next t ∧ CheckStopped t s n 4 ∧
      getSeq t n = heldAtCheck 4 (dropCen r.slot (getSeq s n)) := by
  simp only [execCensusMismatch, h, reportNow_of_due hdue, if_true]
  exact ⟨_, rfl, machineCheck_stops (g := dropCen r.slot) hissuing hstop (fun _ => ⟨rfl, rfl, rfl⟩)
    (treeCapture_reports ..) (devLogF_reports ..)⟩

theorem execUeReport_stops {n : Fin 64} {s : State} {r : Report} {l : List Report} (h : (getSeq s n).reports = r :: l)
    (hissuing : (getSeq s n).state = .issuing) (hstop : (getSeq s n).stop = none) (hdue : r.due ≤ (getSeq s n).slot) :
    ∃ t, execUeReport n s = .next t ∧ CheckStopped t s n r.mcsrc ∧
      getSeq t n = heldAtCheck r.mcsrc { getSeq s n with reports := l } := by
  simp only [execUeReport, h, reportNow_of_due hdue, if_true]
  refine ⟨_, rfl, machineCheck_stops (g := fun q => { q with reports := l }) (apc := r.apc) hissuing hstop
    (fun _ => ⟨rfl, rfl, rfl⟩) (.refl s) ?_⟩
  split <;> exact devLogF_reports ..

end Sys2Proof.Machine
end

section
namespace Sys2Proof.Proofs
open Sys2Proof Sys2Proof.Machine Sys2Proof.Claims

/-- Settles O22: each result is marked arrived beside what the registers show of it, and a mismatch or report is taken
away and makes a machine check of the issuing master. -/
theorem soundingsAndCensusesArrive : Obligations.SoundingsAndCensusesArrive := by
  unfold Obligations.SoundingsAndCensusesArrive
  refine ⟨fun n s r v h hv => ?sounding, fun n s r v h hv => ?census,
    fun n f lv sl s p r hp hissuing hstop => ⟨fun h hdue => ?treeMismatch, fun h hdue => ?censusMismatch⟩,
    fun n s r l h hissuing hstop hdue => ?report⟩
  case sounding =>
    simp only [exec_soundingResult, execSoundingResult, h, hv, Option.getD_some]
    rfl
  case census =>
    have shown := censusShown_reports n v s
    refine ⟨_, (exec_censusResult n s).trans (execCensusResult_arrives h hv), getF_censusShown_valid n v s,
      getF_censusShown_last n v s, ?_, shown.mem, ?_⟩
    · rw [getSr_raiseIrq]
      simp
    · rw [getSeq_raiseIrq, getSeq_updSeq_same, shown.getSeq_eq]
      rfl
  case treeMismatch =>
    obtain ⟨t, hexec, hstopped, hseq⟩ := execTreeMismatch_stops (f := f) hp hissuing hstop h hdue lv sl
    exact ⟨t, (exec_treeMismatch ..).trans hexec, hstopped, congrArg MSeq.snds hseq⟩
  case censusMismatch =>
    obtain ⟨t, hexec, hstopped, hseq⟩ := execCensusMismatch_stops (f := f) hissuing hstop h hdue lv sl
    exact ⟨t, (exec_censusMismatch ..).trans hexec, hstopped, congrArg MSeq.cens hseq⟩
  case report =>
    obtain ⟨t, hexec, hstopped, hseq⟩ := execUeReport_stops h hissuing hstop hdue
    exact ⟨t, (exec_ueReport ..).trans hexec, hstopped, congrArg MSeq.reports hseq⟩

end Sys2Proof.Proofs
end

section
/-! SUPPORT. Survey: what a borrow records, what a restore leaves and changes, and that no Logbook entry touches the
registers of a unit (R77–R80, R123, R552, R553). -/
namespace Sys2Proof.Machine
open Sys2Proof

/-! ### The commands -/

theorem exec_surveyBorrow (t : Fin 4) (r : SurveyRegion) (fail : List MarchFail) (sweep : Bool) (s : State) :
    exec (.surveyBorrow t r fail sweep) s = execSurveyBorrow t r fail sweep s := rfl
theorem exec_rowYield (f : Fin 64) (stall : Fin 49) (s : State) :
    exec (.rowYield f stall) s = execRowYield f stall s := rfl
theorem exec_stagingYield (q : Fin 4) (stall : Fin 65) (s : State) :
    exec (.stagingYield q stall) s = execStagingYield q stall s := rfl

/-! ### Reports store above the registers of the units -/

theorem msix_regs (f v : Nat) (s : State) : (msix f v s).regs = s.regs := by
  unfold msix
  dsimp only
  split <;> rfl
theorem announce_regs (r : Nat) (s : State) : (announce r s).regs = s.regs := by
  unfold announce
  dsimp only
  split
  · split
    · exact msix_regs ..
    · split
      · rfl
      · exact msix_regs ..
  · rfl

theorem getF_with_evtLost (g : Fld) (m : Tbl Nat) (s : State) : getF { s with evtLost := m } g = getF s g := rfl

/-- The first offset of the registers of functions and rings, which lie above those of the units (R627). -/
def funcBase : Nat := 0x41000

section BelowFunctions
variable {g : Fld} (low : fldKey g < 64 * funcBase)
include low

theorem getF_setF_above {f : Fld} (h : funcBase ≤ f.addr) (v : Nat) (s : State) : getF (setF f v s) g = getF s g := by
  refine getF_setF_other v s ?_
  unfold fldKey at low ⊢
  omega

/-- An entry in a ring stores the ring's own registers alone (R344). -/
theorem getF_ringWrite_low (r a b : Nat) (s : State) : getF (ringWrite r a b s) g = getF s g := by
  have tail (v : Nat) (u : State) : getF (setF (fRING_PTR_TAIL r) v u) g = getF u g :=
    getF_setF_above low (by simp only [funcBase, fRING_PTR_TAIL]; omega) v u
  have phase (v : Nat) (u : State) : getF (setF (fRING_PTR_PHASE r) v u) g = getF u g :=
    getF_setF_above low (by simp only [funcBase, fRING_PTR_PHASE]; omega) v u
  unfold ringWrite
  dsimp only
  rw [getF_congr g (announce_regs ..)]
  split
  · rw [phase, tail]
    rfl
  · rw [tail]
    rfl

theorem getF_ringLost_low (r k : Nat) (m : Tbl Nat) (s : State) :
    getF (satF (fRING_STAT_EVT_LOST r) k { s with evtLost := m }) g = getF s g :=
  getF_setF_above low (by simp only [funcBase, fRING_STAT_EVT_LOST]; omega) _ _

theorem getF_postEntry_low (f a b : Nat) (s : State) : getF (postEntry f a b s) g = getF s g := by
  unfold postEntry
  dsimp only
  split
  · generalize hu : (if tget 0 s.evtLost (getF s (fFUNC_CFG_EVT_RING f)) = 0 then s else _) = u
    have announced : getF u g = getF s g := by
      rw [← hu]
      split
      · rfl
      · exact (getF_with_evtLost ..).trans (getF_ringWrite_low low ..)
    split
    · exact (getF_ringLost_low low ..).trans announced
    · exact (getF_ringWrite_low low ..).trans announced
  · split
    · exact getF_ringLost_low low ..
    · exact getF_setF_above low (by simp only [funcBase, fFUNC_STAT_EVT_LOST]; omega) _ _

theorem getF_postEvent_low (f ty src data : Nat) (s : State) : getF (postEvent f ty src data s) g = getF s g := by
  unfold postEvent
  split
  · rfl
  · split
    · rfl
    · exact getF_postEntry_low low ..

/-- A device Logbook entry leaves every register below those of functions and rings (R550). -/
theorem getF_devLogFor_low (vfs : List Nat) (cls sev status master node field wh cap : Nat) (s : State) :
    getF (devLogFor vfs cls sev status master node field wh cap s) g = getF s g := by
  unfold devLogFor incF
  dsimp only
  refine foldl_keeps (P := fun t => getF t g = getF s g) _ ?_ fun _ h _ _ => (getF_postEvent_low low ..).trans h
  rw [getF_postEvent_low low, getF_setF_above low (by decide), getF_setF_above low (by decide)]
  rfl

theorem getF_surveyLog_low (r : SurveyRegion) (sev cap : Nat) (s : State) :
    getF (surveyLog r sev cap s) g = getF s g := by
  cases r <;> exact getF_devLogFor_low low ..

end BelowFunctions

theorem surveyLog_reports (r : SurveyRegion) (sev cap : Nat) (s : State) : Reports s (surveyLog r sev cap s) := by
  cases r <;> exact devLogFor_reports ..

/-! ### The restore of a PE row -/

/-- The row's words in error take fresh check bits, or poison where the save was uncorrectable (R71, R79). -/
def freshChecks (f row : Nat) (b : Borrow) (s : State) : State :=
  (badRows s f row).foldl (fun s (k, _, _) =>
    setRowErr f k (if b.bad.contains k then ⟨poisonMask, true⟩ else ⟨0, false⟩) s) s
/-- The saved row written back, the field's mark taken away. -/
def rowWrittenBack (f row : Nat) (b : Borrow) (s : State) : State :=
  setF (fSURVEY_YIELD_BORROWED f) 0
    (dropFwd f row (updField f (fun x => { x with rows := tset 0 x.rows row b.plane }) (freshChecks f row b s)))

theorem freshChecks_frame (f row : Nat) (b : Borrow) (s : State) :
    freshChecks f row b s = { s with fields := (freshChecks f row b s).fields } :=
  foldl_keeps (P := fun t : State => t = { s with fields := t.fields }) _ rfl fun t ht _ _ => by
    rw [ht]
    rfl

theorem rowWrittenBack_frame (f row : Nat) (b : Borrow) (s : State) : rowWrittenBack f row b s =
    { s with fields := (rowWrittenBack f row b s).fields, regs := (rowWrittenBack f row b s).regs } := by
  unfold rowWrittenBack
  rw [freshChecks_frame]
  rfl

theorem rows_rowWrittenBack (f row : Nat) (b : Borrow) (s : State) :
    tget 0 (getField (rowWrittenBack f row b s) f).rows row = b.plane := by
  have hfield : getField (rowWrittenBack f row b s) f =
      getField (dropFwd f row
        (updField f (fun x => { x with rows := tset 0 x.rows row b.plane }) (freshChecks f row b s))) f := rfl
  rw [hfield, dropFwd, getField_updField_same, getField_updField_same]
  exact tget_tset_same ..

theorem getF_rowWrittenBack_borrowed (f row : Nat) (b : Borrow) (s : State) :
    getF (rowWrittenBack f row b s) (fSURVEY_YIELD_BORROWED f) = 0 := getF_setF_same ..

theorem getF_rowWrittenBack_other {g : Fld} {f : Nat} (h : fldKey g ≠ fldKey (fSURVEY_YIELD_BORROWED f)) (row : Nat)
    (b : Borrow) (s : State) : getF (rowWrittenBack f row b s) g = getF s g := by
  rw [rowWrittenBack, getF_setF_other 0 _ h, freshChecks_frame]
  rfl

theorem flipRow_frame (f srow pcol row : Nat) (mask : BitVec 72) (s : State) :
    flipRow f srow pcol row mask s = { s with fields := (flipRow f srow pcol row mask s).fields } := by
  unfold flipRow
  dsimp only
  split <;> rfl

/-- An injection inverts bits of its field's row and disarms, or does nothing (R90). -/
theorem inject_cases (f row : Nat) (s : State) : inject f row s = s ∨
    inject f row s = setF (fPEMEM_INJ_ARM f) 0 (flipRow f (getF s (fPEMEM_INJ_SROW f)) (getF s (fPEMEM_INJ_PCOL f)) row
      (injMask s f) s) := by
  unfold inject
  dsimp only
  split
  · exact .inr rfl
  · exact .inl rfl

theorem inject_unarmed {f : Nat} {s : State} (h : getF s (fPEMEM_INJ_ARM f) = 0) (row : Nat) : inject f row s = s := by
  simp [inject, bitF, h]

theorem inject_frame (f row : Nat) (s : State) :
    inject f row s = { s with fields := (inject f row s).fields, regs := (inject f row s).regs } := by
  obtain h | h := inject_cases f row s
  · rw [h]
  · rw [h, flipRow_frame]
    rfl

theorem getF_inject_other {g : Fld} {f : Nat} (h : fldKey g ≠ fldKey (fPEMEM_INJ_ARM f)) (row : Nat) (s : State) :
    getF (inject f row s) g = getF s g := by
  obtain hi | hi := inject_cases f row s
  · rw [hi]
  · rw [hi, getF_setF_other _ _ h, flipRow_frame]
    rfl

/-- The row of a loan given back, before anything is reported: written back, with an armed injection acting on it. -/
def rowReturned (f row : Nat) (b : Borrow) (s : State) : State := inject f row (rowWrittenBack f row b s)

theorem rowReturned_frame (f row : Nat) (b : Borrow) (s : State) : rowReturned f row b s =
    { s with fields := (rowReturned f row b s).fields, regs := (rowReturned f row b s).regs } := by
  unfold rowReturned
  rw [inject_frame, rowWrittenBack_frame]

/-- The restore of a row reports a poisoned one and ends the loan. -/
theorem surveyRestore_peRow {b : Borrow} {f : Fin 64} {row : Fin 4096} (h : b.region = .peRow f row) (s : State) :
    surveyRestore b s =
      let u := if !b.bad.isEmpty then surveyLog (.peRow f row) 2 0 (rowReturned f row b s) else rowReturned f row b s
      { u with borrow := terase u.borrow (4 * tileOf f) } := by
  obtain ⟨region, plane, words, bad⟩ := b
  cases h
  rfl

/-- t is s with the row of loan b given back: the loan and the field's mark are gone, the memory is the same, and the row
is the saved one unless an injection is armed. -/
structure RowGivenBack (f row : Nat) (b : Borrow) (s t : State) : Prop where
  noLoan : borrowed t (tileOf f) 0 = none
  unmarked : getF t (fSURVEY_YIELD_BORROWED f) = 0
  mem : t.mem = s.mem
  rows : getF s (fPEMEM_INJ_ARM f) = 0 → tget 0 (getField t f).rows row = b.plane

theorem injArm_ne_borrowed (f : Nat) : fldKey (fPEMEM_INJ_ARM f) ≠ fldKey (fSURVEY_YIELD_BORROWED f) := by
  simp only [fldKey, fPEMEM_INJ_ARM, fSURVEY_YIELD_BORROWED]
  omega

theorem rowReturned_unmarked (f row : Nat) (b : Borrow) (s : State) :
    getF (rowReturned f row b s) (fSURVEY_YIELD_BORROWED f) = 0 :=
  (getF_inject_other (injArm_ne_borrowed f).symm ..).trans (getF_rowWrittenBack_borrowed ..)

theorem rows_rowReturned {f : Nat} {s : State} (unarmed : getF s (fPEMEM_INJ_ARM f) = 0) (row : Nat) (b : Borrow) :
    tget 0 (getField (rowReturned f row b s) f).rows row = b.plane := by
  rw [rowReturned, inject_unarmed ((getF_rowWrittenBack_other (injArm_ne_borrowed f) row b s).trans unarmed)]
  exact rows_rowWrittenBack f row b s

theorem surveyRestore_givesBack {b : Borrow} {f : Fin 64} {row : Fin 4096} (h : b.region = .peRow f row) (s : State) :
    RowGivenBack f row b s (surveyRestore b s) := by
  have low : fldKey (fSURVEY_YIELD_BORROWED f) < 64 * funcBase := by
    have := f.isLt
    simp only [fldKey, fSURVEY_YIELD_BORROWED, funcBase]
    omega
  have hmem : (rowReturned f row b s).mem = s.mem := by rw [rowReturned_frame]
  obtain ⟨u, hu, hlog, hmark⟩ : ∃ u, surveyRestore b s = { u with borrow := terase u.borrow (4 * tileOf f) } ∧
      Reports (rowReturned f row b s) u ∧ getF u (fSURVEY_YIELD_BORROWED f) = 0 := by
    refine ⟨_, surveyRestore_peRow h s, ?_⟩
    split
    · exact ⟨surveyLog_reports .., (getF_surveyLog_low low ..).trans (rowReturned_unmarked ..)⟩
    · exact ⟨.refl _, rowReturned_unmarked ..⟩
  rw [hu]
  refine ⟨tlook_terase_same .., hmark, hlog.mem.trans hmem, fun unarmed => ?_⟩
  have hfield : getField u f = getField (rowReturned f row b s) f := by
    unfold getField
    rw [hlog.fields]
  exact (congrArg (fun x : Field => tget 0 x.rows row) hfield).trans (rows_rowReturned unarmed row b)

/-- Stores of fields other than the mark leave a row given back. -/
theorem RowGivenBack.setF {f row : Nat} {b : Borrow} {s t : State} (h : RowGivenBack f row b s t) {g : Fld}
    (hg : fldKey (fSURVEY_YIELD_BORROWED f) ≠ fldKey g) (v : Nat) : RowGivenBack f row b s (setF g v t) :=
  ⟨h.noLoan, (getF_setF_other v t hg).trans h.unmarked, h.mem, h.rows⟩

/-! ### Yields of a row -/

/-- A yield of the borrowed row of a field restores it, counts the yield and keeps the longest stall (R79, R84). -/
theorem rowYield_lent {f : Fin 64} {row : Fin 4096} {b : Borrow} {s : State} (hb : borrowed s (tileOf f) 0 = some b)
    (hr : b.region = .peRow f row) (stall : Nat) : rowYield f stall s =
      maxF (fSURVEY_YIELD_MAX_STALL f) stall (satF (fSURVEY_YIELD_YIELDS f) 1 (surveyRestore b s)) := by
  simp only [rowYield, hb, hr, if_true]

theorem rowYield_givesBack {f : Fin 64} {row : Fin 4096} {b : Borrow} {s : State} (hb : borrowed s (tileOf f) 0 = some b)
    (hr : b.region = .peRow f row) (stall : Nat) : RowGivenBack f row b s (rowYield f stall s) := by
  rw [rowYield_lent hb hr]
  refine RowGivenBack.setF (RowGivenBack.setF (surveyRestore_givesBack hr s) ?_ _) ?_ _ <;>
    simp only [fldKey, fSURVEY_YIELD_BORROWED, fSURVEY_YIELD_MAX_STALL, fSURVEY_YIELD_YIELDS] <;> omega

theorem le_getF_maxF {f : Fld} {v : Nat} (h : v < 2 ^ f.w) (s : State) : v ≤ getF (maxF f v s) f := by
  have := getF_lt s f
  rw [maxF, getF_setF_same, Nat.mod_eq_of_lt] <;> omega

/-- A held word whose port A touches the borrowed row of the field makes Survey yield it (R79). -/
theorem execRowYield_touched {f : Fin 64} {n : Nat} {p : Part} {w : MicroWord} {row : Nat} {s : State}
    (hpart : partOf s f = some (n, p)) (hheld : (getSeq s n).state = .held) (hstop : (getSeq s n).stop = none)
    (hw : tlook s.alm (almKey n (getSeq s n).upc.toNat) = some w)
    (he : tget 0 s.almErr (almKey n (getSeq s n).upc.toNat) = 0) (hissuing : issuing s n = some p)
    (hmark : getF s (fSURVEY_YIELD_BORROWED f) = 1) (hrow : getF s (fSURVEY_YIELD_BROW f) = row)
    (hea : (eaA w (getSeq s n).ptrs).toNat = row) (stall : Fin 49) :
    execRowYield f stall s = .next (rowYield f stall s) := by
  simp only [execRowYield, hpart, hheld, hstop, fetchMicro_intact hw he, bitF, hmark, hrow, hissuing, hea, and_self,
    true_or, if_true]
  rfl

/-! ### The loan of a region -/

/-- The field's mark names the borrowed row (R79, R84). -/
def rowMarked (f row : Nat) (s : State) : State :=
  setFs [(fSURVEY_YIELD_BORROWED f, 1), (fSURVEY_YIELD_BROW f, row)] s

theorem getF_rowMarked_borrowed (f row : Nat) (s : State) : getF (rowMarked f row s) (fSURVEY_YIELD_BORROWED f) = 1 :=
  (getF_setF_other _ _ (by simp only [fldKey, fSURVEY_YIELD_BORROWED, fSURVEY_YIELD_BROW]; omega)).trans
    (getF_setF_same ..)
theorem getF_rowMarked_brow (f : Nat) (row : Fin 4096) (s : State) :
    getF (rowMarked f row s) (fSURVEY_YIELD_BROW f) = row :=
  (getF_setF_same ..).trans (Nat.mod_eq_of_lt row.isLt)

/-- The save of a row without errors (R79). -/
theorem surveySave_clean {s : State} {f : Fin 64} (clean : (getField s f).rowErr = []) (row : Fin 4096) :
    surveySave (.peRow f row) s = (⟨.peRow f row, tget 0 (getField s f).rows row, [], []⟩,
      rowMarked f row s) := by
  simp [rowMarked, surveySave, readRowAs, badRows_clean clean, peErrors_nil]

section Borrow
variable {t : Fin 4} {r : SurveyRegion} {s : State} (own : regionTile r = t.val)
include own

theorem execSurveyBorrow_barred (free : borrowed s t (regionKind r) = none) (barred : mayBorrow s r = false)
    (fail : List MarchFail) (sweep : Bool) : execSurveyBorrow t r fail sweep s = .next s := by
  simp [execSurveyBorrow, own, free, barred, ok]

theorem execSurveyBorrow_lends (free : borrowed s t (regionKind r) = none) (may : mayBorrow s r = true)
    (fail : List MarchFail) (sweep : Bool) : execSurveyBorrow t r fail sweep s =
      let x := surveySave r s
      .next { x.2 with borrow := tput x.2.borrow (4 * t.val + regionKind r) x.1 } := by
  simp [execSurveyBorrow, own, free, may, ok]

/-- The march test ends without a failing column: the region is restored, and the sweep counted when it is complete. -/
theorem execSurveyBorrow_returns {b : Borrow} (lent : borrowed s t (regionKind r) = some b) (hb : b.region = r)
    (sweep : Bool) : execSurveyBorrow t r [] sweep s = .next (let u := surveyRestore b s
      if sweep then incF (fSURVEY_STAT_SWEEPS t) 1 u else u) := by
  simp [execSurveyBorrow, own, lent, hb, ok]

end Borrow

end Sys2Proof.Machine
end

section
namespace Sys2Proof.Proofs
open Sys2Proof Sys2Proof.Machine Sys2Proof.Claims

/-- Settles O31: the loan, its return and the yields each as one case of their command, a row by what its restore leaves. -/
theorem surveyBorrowsAndYields : Obligations.SurveyBorrowsAndYields := by
  unfold Obligations.SurveyBorrowsAndYields
  refine ⟨fun t r mf sw s own free barred =>
      (exec_surveyBorrow ..).trans (execSurveyBorrow_barred own free barred mf sw), ?row, ?line,
    fun t r b sw s own lent hb => (exec_surveyBorrow ..).trans (execSurveyBorrow_returns own lent hb sw), ?rowYield,
    ?stagingYield⟩
  case row =>
    intro t f row mf sw s own free may clean
    have hexec := execSurveyBorrow_lends (r := .peRow f row) own free may mf sw
    rw [surveySave_clean clean] at hexec
    exact ⟨_, (exec_surveyBorrow ..).trans hexec, tlook_tput_same .., getF_rowMarked_borrowed f row s,
      getF_rowMarked_brow f row s, rfl, rfl⟩
  case line =>
    intro t n l mf sw s own free may
    exact (exec_surveyBorrow ..).trans (execSurveyBorrow_lends (r := .almLine n l) own free may mf sw)
  case rowYield =>
    intro f st n p w b row s hpart hheld hstop hw he hissuing hmark hrow hea lent hb
    obtain ⟨noLoan, unmarked, hmem, hplane⟩ := rowYield_givesBack lent hb st
    have hexec := execRowYield_touched hpart hheld hstop hw he hissuing hmark hrow hea st
    refine ⟨rowYield f st s, (exec_rowYield ..).trans hexec, noLoan, unmarked, ?_, hmem, hplane⟩
    rw [rowYield_lent lent hb]
    exact le_getF_maxF (Nat.lt_trans st.isLt (show 49 < 2 ^ 8 by decide)) _
  case stagingYield =>
    intro q st b s lent
    simp only [exec_stagingYield, execStagingYield, lent, ok]

end Sys2Proof.Proofs
end

section
/-! SUPPORT. How a routine ends and the next begins: the last word of a routine leaves the micro-sequencer with the head of
its queue, or IDLE (R97, R98, R109, R110). -/
namespace Sys2Proof.Machine
open Sys2Proof Sys2Proof.Claims

/-! ### The commands -/

theorem exec_endWord (n : Fin 64) (s : State) : exec (.endWord n 0) s = .next (microIssue 9 n 0 s) := rfl
theorem exec_microReturn (n : Fin 64) (s : State) : exec (.microReturn n 0) s = .next (microIssue 3 n 0 s) := rfl
theorem exec_routineStart (n : Fin 64) (s : State) : exec (.routineStart n) s = execRoutineStart n s := rfl
theorem exec_routineComplete (n : Fin 64) (s : State) : exec (.routineComplete n) s = execRoutineComplete n s := rfl

/-! ### The next routine -/

/-- The next routine is the head of the queue (R109). -/
theorem updSeq_nextRoutine_cons {n : Nat} {s : State} {e : QEntry} {l : List QEntry} (h : (getSeq s n).queue = e :: l) :
    updSeq n nextRoutine s = updSeq n (fun q => startEntry e { q with queue := l }) s := by
  simp only [updSeq, nextRoutine, h]
/-- With nothing queued the micro-sequencer becomes IDLE (R109). -/
theorem updSeq_nextRoutine_nil {n : Nat} {s : State} (h : (getSeq s n).queue = []) :
    updSeq n nextRoutine s = updSeq n (fun q => { q with state := .idle, cur := none, hold := none, stack := [] }) s := by
  simp only [updSeq, nextRoutine, h]

/-- ROUTINE_START: the head of the queue of an IDLE micro-sequencer starts (R109). -/
theorem execRoutineStart_takes {n : Fin 64} {s : State} {e : QEntry} {l : List QEntry} (hidle : (getSeq s n).state = .idle)
    (hstop : (getSeq s n).stop = none) (hqueue : (getSeq s n).queue = e :: l) :
    execRoutineStart n s = .next (updSeq n (fun q => startEntry e { q with queue := l }) s) := by
  simp only [execRoutineStart, hidle, hstop, hqueue, ne_eq, reduceCtorEq, not_false_eq_true, and_self, if_true, ok]
  rw [updSeq_nextRoutine_cons hqueue]

/-- ROUTINE_COMPLETE: the oldest ended routine leaves once nothing of it is outstanding (R110). -/
theorem execRoutineComplete_retires {n : Fin 64} {s : State} {r : Routine} {l : List Routine}
    (hended : (getSeq s n).ended = r :: l) (hdone : r.endSlot < (getSeq s n).done)
    (harrived : ∀ x ∈ (getSeq s n).snds ++ (getSeq s n).cens, x.arrived = true ∨ r.endSlot < x.slot) :
    execRoutineComplete n s = .next (updSeq n (fun q => { q with ended := l }) s) := by
  have hall : ((getSeq s n).snds ++ (getSeq s n).cens).all (fun e => e.arrived || decide (r.endSlot < e.slot)) = true := by
    simpa only [List.all_eq_true, Bool.or_eq_true, decide_eq_true_eq] using harrived
  simp only [execRoutineComplete, hended, hdone, hall, and_self, if_true, ok]

/-! ### The word that ends its routine -/

/-- A halo request stores no field but HALO_OVF. -/
theorem getF_haloRequest_other {g : Fld} {n : Nat} (h : fldKey g ≠ fldKey (fEDGE_STATUS_HALO_OVF n)) (p : Part)
    (w : MicroWord) (s : State) : getF (haloRequest n p w s) g = getF s g := by
  unfold haloRequest
  dsimp only
  split
  · refine foldl_keeps (P := fun t => getF t g = getF s g) _ rfl fun t ht _ _ => ?_
    split
    · exact (getF_setF_other _ _ h).trans ht
    · exact ht
  · rfl

/-- END, and RETURN on an empty stack, have no next micro-PC (R97, R98). -/
theorem nextUpc_of_end {s : State} {n l : Nat} {q : MSeq} {w : MicroWord} (h : mwSeq w = 9) :
    nextUpc s n l q w = none := by
  simp only [nextUpc, h]
theorem nextUpc_of_return_empty {s : State} {n l : Nat} {q : MSeq} {w : MicroWord} (h : mwSeq w = 3) (hstack : q.stack = []) :
    nextUpc s n l q w = none := by
  simp only [nextUpc, h, hstack, List.getLast?_nil]

/-- Without a next micro-PC, a faulting port or a pending request, issue ends with the next routine of the same queue. A
RETURN has set STK_UNF. -/
theorem issue_ends {n : Fin 64} {p : Part} {w : MicroWord} {s : State} (hgo : GoesOn s n w)
    (hu : nextUpc s n (lSnd p) (getSeq s n) w = none) : ∃ v, issue n p w s = updSeq n nextRoutine v ∧
      (getSeq v n).queue = (getSeq s n).queue ∧ (mwSeq w = 3 → getF v (fMSEQ_STATUS_STK_UNF n) = 1) ∧
      v = { s with regs := v.regs, seqs := v.seqs } := by
  obtain ⟨hsw, hrb, hsp, hports⟩ := hgo
  unfold issue
  simp only [hu, hports, recordFault, Option.isNone_none, and_true, if_true]
  generalize hv : haloRequest n p w _ = v
  have hHalo : HalosOnly n s v := by
    rw [← hv]
    refine HalosOnly.trans ?_ (haloRequest_halosOnly ..)
    split <;> split
    · exact (setF_halosOnly ..).trans (setF_halosOnly ..)
    · exact setF_halosOnly ..
    · exact setF_halosOnly ..
    · exact .refl n s
  have hunf : mwSeq w = 3 → getF v (fMSEQ_STATUS_STK_UNF n) = 1 := by
    intro hret
    rw [← hv, getF_haloRequest_other (by simp only [fldKey, fMSEQ_STATUS_STK_UNF, fEDGE_STATUS_HALO_OVF]; omega)]
    simp only [hret, Nat.reduceEqDiff, false_and, if_false, if_true, getF_setF_same]
    rfl
  obtain ⟨hframe, _, _, hseq⟩ := hHalo
  simp only [pruneTrees, getSeq_updSeq_same, hseq, hsw, hrb, hsp, ne_eq, not_true_eq_false, false_and, if_false,
    Bool.or_false, Bool.false_and, Bool.false_eq_true]
  exact ⟨_, rfl, by simp [hseq], hunf, by rw [hframe]; rfl⟩

end Sys2Proof.Machine
end

section
namespace Sys2Proof.Proofs
open Sys2Proof Sys2Proof.Machine Sys2Proof.Claims

/-- Settles O20: a word without a next micro-PC issues and leaves the next routine of the queue, and the other two commands
act as they are defined. -/
theorem routinesBeginAndEnd : Obligations.RoutinesBeginAndEnd := by
  unfold Obligations.RoutinesBeginAndEnd
  refine ⟨fun e he n s p w hissues hgo hseq hstack => ?ends, fun n s h l hidle hstop hqueue => ?start,
    fun n s r l hended hdone harrived => (exec_routineComplete n s).trans (execRoutineComplete_retires hended hdone harrived)⟩
  case start => exact (exec_routineStart n s).trans (execRoutineStart_takes hidle hstop hqueue)
  case ends =>
    have hexec : exec (e.1 n 0) s = .next (issue n p w s) := by
      rw [← microIssue_of_issues hissues, hseq]
      simp only [List.mem_cons, List.not_mem_nil, or_false] at he
      obtain rfl | rfl := he
      · rfl
      · rfl
    have hnone : nextUpc s n (lSnd p) (getSeq s n) w = none := by
      simp only [List.mem_cons, List.not_mem_nil, or_false] at he
      obtain rfl | rfl := he
      · exact nextUpc_of_end hseq
      · exact nextUpc_of_return_empty hseq (hstack rfl)
    obtain ⟨v, hissue, hqueue, hunf, hframe⟩ := issue_ends hgo hnone
    refine ⟨fun h l hq => ⟨_, hexec, ?_⟩, fun hq => ⟨_, hexec, ?_⟩⟩
    · rw [hissue, updSeq_nextRoutine_cons (hqueue.trans hq), getSeq_updSeq_same, hframe]
      exact ⟨rfl, rfl, rfl, rfl, rfl, rfl, rfl, rfl, rfl⟩
    · rw [hissue, updSeq_nextRoutine_nil (hqueue.trans hq), getSeq_updSeq_same]
      exact ⟨rfl, rfl, fun h3 => hunf (hseq.trans h3), by rw [hframe]; rfl, by rw [hframe]; rfl⟩

end Sys2Proof.Proofs
end

section
/-! SUPPORT. The resume record: what it shows of the stop, and what a yield and an array trap leave once it is written (R113,
R132, R651). -/
namespace Sys2Proof.Machine
open Sys2Proof Sys2Proof.Claims

/-! ### The commands -/

theorem exec_yieldComplete (n : Fin 64) (s : State) : exec (.yieldComplete n) s = execYieldComplete n s := rfl
theorem exec_arrayTrapRecord (n : Fin 64) (s : State) : exec (.arrayTrapRecord n) s = execArrayTrapRecord n s := rfl

/-! ### Lists of stores -/

theorem setFs_append (l k : List (Fld × Nat)) (s : State) : setFs (l ++ k) s = setFs k (setFs l s) := List.foldl_append

/-- Of stores of different fields each is read back. -/
theorem getF_setFs_of_mem {l : List (Fld × Nat)} (apart : (l.map fun e => fldKey e.1).Nodup) {f : Fld} {v : Nat}
    (h : (f, v) ∈ l) (s : State) : getF (setFs l s) f = v % 2 ^ f.w := by
  induction l generalizing s with
  | nil => cases h
  | cons e l ih =>
    obtain ⟨he, apart⟩ := List.nodup_cons.mp apart
    rw [setFs_cons]
    rcases List.mem_cons.mp h with rfl | h
    · rw [getF_setFs_other _ fun x hx hk => he (List.mem_map.mpr ⟨x, hx, hk.symm⟩), getF_setF_same]
    · exact ih apart h _

/-! ### The record -/

/-- What RESUME0 takes of a stop (R132). -/
def recordHead (n : Nat) (st : Stop) (q : MSeq) : List (Fld × Nat) :=
  [(fRESUME0_VALID n, b2n st.valid), (fRESUME0_KIND n, st.kind), (fRESUME0_IN_HOLD n, b2n st.inHold),
   (fRESUME0_HOLD_REM n, st.holdRem), (fRESUME0_UPC n, st.upc.toNat), (fRESUME0_DEPTH n, q.stack.length)]

theorem recordHead_apart (n : Nat) (st : Stop) (q : MSeq) : ((recordHead n st q).map fun e => fldKey e.1).Nodup := by
  simp only [recordHead, List.map_cons, List.map_nil, List.nodup_cons, List.mem_cons, List.not_mem_nil, fldKey,
    fRESUME0_VALID, fRESUME0_KIND, fRESUME0_IN_HOLD, fRESUME0_HOLD_REM, fRESUME0_UPC, fRESUME0_DEPTH, List.nodup_nil,
    or_false, not_false_eq_true, and_true]
  omega

/-- The record is registers of the sequencer and the ACALL of the stopped routine. -/
theorem writeRecord_eq (n : Nat) (st : Stop) (s : State) : ∃ u, Reports s u ∧
    writeRecord n st s = updSeq n (fun q => { q with recApc := st.apc }) u :=
  ⟨_, ((setFs_reports ..).trans (setFs_reports ..)).trans ((setFs_reports ..).trans (setFs_reports ..)), rfl⟩

theorem getSeq_writeRecord (n : Nat) (st : Stop) (s : State) :
    getSeq (writeRecord n st s) n = { getSeq s n with recApc := st.apc } := by
  obtain ⟨u, hu, heq⟩ := writeRecord_eq n st s
  rw [heq, getSeq_updSeq_same, hu.getSeq_eq]

/-- t differs from s in registers and micro-sequencers alone. -/
def SeqsOnly (s t : State) : Prop := t = { s with regs := t.regs, seqs := t.seqs }

theorem SeqsOnly.refl (s : State) : SeqsOnly s s := rfl
theorem SeqsOnly.trans {s t u : State} (h : SeqsOnly s t) (k : SeqsOnly t u) : SeqsOnly s u := by
  unfold SeqsOnly at *
  rw [k, h]
theorem setF_seqsOnly (f : Fld) (v : Nat) (s : State) : SeqsOnly s (setF f v s) := rfl
theorem setFs_seqsOnly (l : List (Fld × Nat)) (s : State) : SeqsOnly s (setFs l s) := by
  unfold SeqsOnly
  rw [setFs_frame]
theorem updSeq_seqsOnly (n : Nat) (g : MSeq → MSeq) (s : State) : SeqsOnly s (updSeq n g s) := rfl
theorem SeqsOnly.mem {s t : State} (h : SeqsOnly s t) : t.mem = s.mem := by rw [h]
theorem SeqsOnly.cores {s t : State} (h : SeqsOnly s t) : t.cores = s.cores := by rw [h]
theorem SeqsOnly.fields {s t : State} (h : SeqsOnly s t) : t.fields = s.fields := by rw [h]

theorem writeRecord_seqsOnly (n : Nat) (st : Stop) (s : State) : SeqsOnly s (writeRecord n st s) := by
  unfold writeRecord
  exact ((setFs_seqsOnly ..).trans (setFs_seqsOnly ..)).trans
    (((setFs_seqsOnly ..).trans (setFs_seqsOnly ..)).trans (updSeq_seqsOnly ..))

/-- RESUME0 of the record shows the stop. -/
theorem getF_writeRecord {n : Nat} {st : Stop} {s : State} {f : Fld} {v : Nat} (h : (f, v) ∈ recordHead n st (getSeq s n)) :
    getF (writeRecord n st s) f = v % 2 ^ f.w := by
  have low : ∀ e ∈ recordHead n st (getSeq s n), fldKey e.1 < 64 * (0x408 + 0x1000 * n) := by
    simp only [recordHead, List.forall_mem_cons, List.not_mem_nil, false_implies, implies_true, and_true, fldKey,
      fRESUME0_VALID, fRESUME0_KIND, fRESUME0_IN_HOLD, fRESUME0_HOLD_REM, fRESUME0_UPC, fRESUME0_DEPTH]
    omega
  have later {l : List (Fld × Nat)} (t : State) (hl : ∀ e ∈ l, 64 * (0x408 + 0x1000 * n) ≤ fldKey e.1) :
      getF (setFs l t) f = getF t f :=
    getF_setFs_other t fun e he => Nat.ne_of_lt (Nat.lt_of_lt_of_le (low _ h) (hl e he))
  unfold writeRecord
  dsimp only
  rw [getF_congr f (updSeq_regs ..), later, later, later]
  case hl | hl | hl =>
    simp only [cstate, xstate, List.forall_mem_cons, List.not_mem_nil, false_implies, implies_true, and_true, fldKey,
      fRESUME4_STK0, fRESUME4_STK1, fRESUME4_STK2, fRESUME4_STK3, fRESUME5_LAST_SND, fRESUME5_PVLD, fRESUME5_PVAL,
      fRESUME5_CEN_VALID, fRESUME5_LAST_CENSUS, fRESUME6_FRA, fRESUME6_FRB, fRESUME6_BANK, fRESUME6_LP, fRESUME6_OPT,
      fRESUME7_PEND, fRESUME7_EXC, fRESUME7_ACTION, fRESUME7_CAUSE, fRESUME7_GFLAGS, fRESUME7_EFLAGS]
    omega
  refine (congrArg (getF · f) (setFs_append (recordHead n st (getSeq s n)) _ s)).trans
    ((later _ ?_).trans (getF_setFs_of_mem (recordHead_apart n st _) h s))
  simp only [List.forall_mem_cons, List.not_mem_nil, false_implies, implies_true, and_true, fldKey, fRESUME1_C0,
    fRESUME1_C1, fRESUME1_C0_INIT, fRESUME1_C1_INIT, fRESUME2_P1, fRESUME2_P2, fRESUME2_P3, fRESUME2_DPARAM,
    fRESUME3_P1_INIT, fRESUME3_P2_INIT, fRESUME3_P3_INIT]
  omega

/-- RESUME0 of t shows the stop. -/
structure Recorded (n : Nat) (st : Stop) (t : State) : Prop where
  valid : getF t (fRESUME0_VALID n) = if st.valid then 1 else 0
  kind : getF t (fRESUME0_KIND n) = st.kind % 8
  upc : getF t (fRESUME0_UPC n) = st.upc.toNat
  inHold : getF t (fRESUME0_IN_HOLD n) = if st.inHold then 1 else 0

theorem b2n_mod_two (b : Bool) : b2n b % 2 ^ 1 = if b then 1 else 0 := by cases b <;> rfl

theorem writeRecord_recorded (n : Nat) (st : Stop) (s : State) : Recorded n st (writeRecord n st s) where
  valid := (getF_writeRecord (by simp [recordHead])).trans (b2n_mod_two _)
  kind := getF_writeRecord (by simp [recordHead])
  upc := (getF_writeRecord (by simp [recordHead])).trans (Nat.mod_eq_of_lt st.upc.isLt)
  inHold := (getF_writeRecord (by simp [recordHead])).trans (b2n_mod_two _)

/-- The record stays as written while no register changes. -/
theorem Recorded.of_regs {n : Nat} {st : Stop} {s t : State} (h : Recorded n st s) (k : t.regs = s.regs) :
    Recorded n st t where
  valid := (getF_congr _ k).trans h.valid
  kind := (getF_congr _ k).trans h.kind
  upc := (getF_congr _ k).trans h.upc
  inHold := (getF_congr _ k).trans h.inHold

/-! ### Yields and array traps -/

/-- A micro-sequencer once the yield of stop st is complete (R113, R115). -/
def yieldedBy (st : Stop) (q : MSeq) : MSeq :=
  { q with recApc := st.apc, state := .yielded, stop := none, swYield := st.sw, hubSvc := st.hub,
           cur := q.cur.map (fun r => { r with released := r.released || st.sw }),
           queue := q.queue.map (fun e => { e with released := e.released || st.sw }) }

theorem getSeq_completeYield (n : Nat) (st : Stop) (s : State) :
    getSeq (completeYield n st s) n = yieldedBy st (getSeq s n) := by
  rw [completeYield, getSeq_updSeq_same, getSeq_writeRecord]
  rfl
theorem completeYield_recorded (n : Nat) (st : Stop) (s : State) : Recorded n st (completeYield n st s) :=
  (writeRecord_recorded n st s).of_regs rfl
theorem completeYield_seqsOnly (n : Nat) (st : Stop) (s : State) : SeqsOnly s (completeYield n st s) := by
  unfold completeYield
  exact (writeRecord_seqsOnly n st s).trans (updSeq_seqsOnly ..)

theorem execYieldComplete_drained {n : Fin 64} {s : State} {st : Stop} (hstop : (getSeq s n).stop = some st)
    (hdrained : drained (getSeq s n) = true) (hcause : st.cause = 0) :
    execYieldComplete n s = .next (completeYield n st s) := by
  simp only [execYieldComplete, hstop, hcause, hdrained, and_self, if_true, ok]

/-- A micro-sequencer once the array trap of stop st is pending (R651). -/
def trappedBy (st : Stop) (q : MSeq) : MSeq :=
  { q with recApc := st.apc, stop := none, state := .trapped, atrap := some { st with discarded := q.queue }, queue := [],
           swYield := false, hubSvc := q.hubSvc || st.hub }

/-- While the core is not HALTED, the trap of a drained stop becomes pending and is not yet entered (R651). -/
theorem execArrayTrapRecord_drained {n : Fin 64} {s : State} {st : Stop} (hstop : (getSeq s n).stop = some st)
    (hdrained : drained (getSeq s n) = true) (hcause : st.cause ≠ 0) (hearlier : earlierDone (getSeq s n) st = true)
    (hcore : (getCore s n).state ≠ .halted) : ∃ t, execArrayTrapRecord n s = .next t ∧ Recorded n st t ∧ SeqsOnly s t ∧
      getSeq t n = trappedBy st (getSeq s n) := by
  simp only [execArrayTrapRecord, hstop, hdrained, hcause, hearlier, ne_eq, not_false_eq_true, and_self, if_true, ok]
  generalize ht : updSeq n _ (writeRecord n st s) = t
  have hseq : getSeq t n = trappedBy st (getSeq s n) := by
    rw [← ht, getSeq_updSeq_same, getSeq_writeRecord]
    rfl
  have honly : SeqsOnly s t := by
    rw [← ht]
    exact (writeRecord_seqsOnly ..).trans (updSeq_seqsOnly ..)
  have hrec : Recorded n st t := by
    rw [← ht]
    exact (writeRecord_recorded n st s).of_regs rfl
  have hpending : settleTrap n t = t := by
    have hcore' : (getCore t n).state ≠ .halted := by
      unfold getCore
      rw [honly.cores]
      exact hcore
    simp only [settleTrap, hseq, trappedBy, hcore', if_false]
  rw [hpending]
  exact ⟨t, rfl, hrec, honly, hseq⟩

end Sys2Proof.Machine
end

section
namespace Sys2Proof.Proofs
open Sys2Proof Sys2Proof.Machine Sys2Proof.Claims

/-- Settles O21: both commands write the record, and each then sets the micro-sequencer alone. -/
theorem yieldsAndTrapsRecord : Obligations.YieldsAndTrapsRecord := by
  unfold Obligations.YieldsAndTrapsRecord
  refine ⟨fun n s st hstop hdrained hcause => ?yield, fun n s st hstop hdrained hcause hearlier hcore => ?trap⟩
  case yield =>
    have hseq := getSeq_completeYield n st s
    have honly := completeYield_seqsOnly n st s
    obtain ⟨hvalid, hkind, hupc, hhold⟩ := completeYield_recorded n st s
    refine ⟨_, (exec_yieldComplete n s).trans (execYieldComplete_drained hstop hdrained hcause), ?_, ?_, ?_, ?_,
      ⟨hvalid, hkind, hupc, hhold⟩, honly.mem, honly.cores, honly.fields⟩
    all_goals rw [hseq]; rfl
  case trap =>
    obtain ⟨t, hexec, ⟨hvalid, hkind, hupc, hhold⟩, honly, hseq⟩ :=
      execArrayTrapRecord_drained hstop hdrained hcause hearlier hcore
    refine ⟨t, (exec_arrayTrapRecord n s).trans hexec, ?_, ?_, ?_, ?_, ⟨hvalid, hkind, hupc, hhold⟩, honly.mem, honly.cores,
      honly.fields⟩
    all_goals rw [hseq]; rfl

end Sys2Proof.Proofs
end

section
/-! SUPPORT. Registers of a sequencer written from outside: MSEQ_CTL and PARK_CTL with the core of the master HALTED, SEQ_CTL,
the messages, and the registers of PE memory (R79, R89, R112–R118, R289, R290, R300, R302, R314). -/
namespace Sys2Proof.Machine
open Sys2Proof Sys2Proof.Claims

/-! ### The commands -/

theorem exec_yieldReq (m : BitVec 8) (n : Fin 64) (s : State) : exec (.yieldReq m n) s = execYieldReq m n s := rfl
theorem exec_resume (m : BitVec 8) (n : Fin 64) (s : State) : exec (.resume m n) s = execResume m n s := rfl
theorem exec_abort (m : BitVec 8) (n : Fin 64) (s : State) : exec (.abort m n) s = execAbort m n s := rfl
theorem exec_parkQueue (m : BitVec 8) (n : Fin 64) (s : State) : exec (.parkQueue m n) s = execParkQueue m n s := rfl
theorem exec_unpark (m : BitVec 8) (n : Fin 64) (s : State) : exec (.unpark m n) s = execUnpark m n s := rfl
theorem exec_dropPark (m : BitVec 8) (n : Fin 64) (s : State) : exec (.dropPark m n) s = execDropPark m n s := rfl
theorem exec_seqHalt (m : BitVec 8) (n : Fin 64) (s : State) : exec (.seqHalt m n) s = execSeqHalt m n s := rfl
theorem exec_preq (m : BitVec 8) (n : Fin 64) (s : State) : exec (.preq m n) s = execPreq m n s := rfl
theorem exec_hmsgInWrite (m : BitVec 8) (n : Fin 64) (v : Word) (s : State) :
    exec (.hmsgInWrite m n v) s = execHmsgInWrite m n v s := rfl
theorem exec_hmsgOutWrite (n : Fin 64) (v : Word) (s : State) :
    exec (.hmsgOutWrite n v) s = execHmsgOutWrite n v s := rfl
theorem exec_timerMatch (n : Fin 64) (s : State) : exec (.timerMatch n) s = execTimerMatch n s := rfl
theorem exec_haloClr (m : BitVec 8) (n : Fin 64) (s : State) : exec (.haloClr m n) s = execHaloClr m n s := rfl
theorem exec_leaseMapWrite (m : BitVec 8) (n : Fin 64) (v : Word) (s : State) :
    exec (.leaseMapWrite m n v) s = execLeaseMapWrite m n v s := rfl
theorem exec_injectArm (m : BitVec 8) (n : Fin 64) (v : Word) (s : State) :
    exec (.injectArm m n v) s = execInjectArm m n v s := rfl

/-- A command that writes a register on a free path acts, and its response goes back (R290, R320). -/
theorem hostCmd_path {m : BitVec 8} {o : Nat} {s : State} (h : HostPath s m o) (act : State → State) :
    hostCmd m o act s = .next (hostBack m o (act s)) := by
  obtain ⟨hpass, hgate⟩ := h
  exact hostCmd_acts hpass hgate

/-! ### Requests that meet an idle or a busy micro-sequencer -/

theorem takeIfIdle_busy {n : Nat} {s : State} (h : (getSeq s n).state ≠ .idle) : takeIfIdle n s = s := by
  simp only [takeIfIdle, h, false_and, if_false]

/-- No preemption request is pending. -/
def Unasked (q : MSeq) : Prop := q.pendSw = false ∧ q.pendRb = false ∧ q.pendSp = false

theorem takeIfIdle_unasked {n : Nat} {s : State} (h : Unasked (getSeq s n)) : takeIfIdle n s = s := by
  obtain ⟨hsw, hrb, hsp⟩ := h
  simp only [takeIfIdle, hsw, hrb, hsp, Bool.or_self, Bool.false_eq_true, and_false, if_false]

/-- A software request of an IDLE micro-sequencer is taken at once as a yield with KIND 5 and UPC 0 (R118). -/
theorem yieldRequest_idle {n : Nat} {s : State} (hidle : (getSeq s n).state = .idle) (hstop : (getSeq s n).stop = none) :
    ∃ st u, yieldRequest n s = completeYield n st u ∧ st.kind = 5 ∧ st.upc = 0 ∧ SeqsOnly s u := by
  have hidle' : (getSeq (setF (fMSEQ_CTL_YIELD_REQ n) 1 s) n).state = .idle := hidle
  have hstop' : (getSeq (setF (fMSEQ_CTL_YIELD_REQ n) 1 s) n).stop = none := hstop
  simp only [yieldRequest, takeIfIdle, takeRequests, getSeq_updSeq_same, hidle', hstop', Bool.true_or, and_self, if_true]
  exact ⟨_, _, rfl, rfl, rfl, ((setF_seqsOnly ..).trans (updSeq_seqsOnly ..)).trans
    ((setF_seqsOnly ..).trans (updSeq_seqsOnly ..))⟩

/-- A software request of an issuing micro-sequencer waits for a safe word (R112). -/
theorem yieldRequest_issuing {n : Nat} {s : State} (h : (getSeq s n).state = .issuing) : yieldRequest n s =
    updSeq n (fun q => { q with pendSw := true }) (setF (fMSEQ_CTL_YIELD_REQ n) 1 s) := by
  refine takeIfIdle_busy ?_
  rw [getSeq_updSeq_same]
  exact fun hidle => MState.noConfusion (h.symm.trans hidle)

/-! ### Whole writes -/

/-- An access of 8 bytes reaches every bit of a field. -/
theorem fldEn_allBits {f : Fld} (h : f.lo + f.w ≤ 64) : fldEn f allBits = 2 ^ f.w - 1 := by
  refine Nat.eq_of_testBit_eq fun i => ?_
  have hbit : i < f.w → f.lo + i < 64 := by omega
  simp only [fldEn, bits, allBits, Nat.testBit_mod_two_pow, Nat.testBit_div_two_pow, Nat.testBit_two_pow_sub_one]
  by_cases hi : i < f.w
  · simp [hi, Nat.add_comm i, hbit hi]
  · simp [hi]

theorem onesIn_allBits {f : Fld} (h : f.lo + f.w ≤ 64) (v : Nat) : onesIn f v allBits = bits v f.lo f.w := by
  rw [onesIn, fldEn_allBits h, Nat.and_two_pow_sub_one_eq_mod]
  exact Nat.mod_eq_of_lt (bits_lt ..)

/-! ### MSEQ_CTL and PARK_CTL -/

/-- A write without ones for REJ and PLOST clears neither (R312). -/
theorem writeTy_parkCtl {v : Nat} (hrej : bits v 3 1 = 0) (hplost : bits v 4 1 = 0) (n : Nat) (s : State) :
    writeTy .w1c rowPARK_CTL n 0 v allBits s = s := by
  simp [writeTy, rowFlds, rowFld, rowPARK_CTL, writeFld, onesIn_allBits, hrej, hplost]

section MasterHalted
variable {n : Nat} {s : State} (halted : masterHalted s n = true)
include halted

theorem writeMseqCtl_yieldReq : writeMseqCtl false n 1 allBits s = softYield n s := by
  simp [writeMseqCtl, haltedOnly, halted, onesIn_allBits, fMSEQ_CTL_YIELD_REQ,
    fMSEQ_CTL_RESUME, fMSEQ_CTL_ABORT, bits]
theorem writeMseqCtl_resume : writeMseqCtl false n 2 allBits s = softResume n s := by
  simp [writeMseqCtl, haltedOnly, halted, onesIn_allBits, fMSEQ_CTL_YIELD_REQ,
    fMSEQ_CTL_RESUME, fMSEQ_CTL_ABORT, bits]
theorem writeMseqCtl_abort : writeMseqCtl false n 4 allBits s = abortRoutine n s := by
  simp [writeMseqCtl, haltedOnly, halted, onesIn_allBits, fMSEQ_CTL_YIELD_REQ,
    fMSEQ_CTL_RESUME, fMSEQ_CTL_ABORT, bits]

variable (lead : (getSeq s n).state ≠ .follower)
include lead

theorem writeParkCtl_park : writeParkCtl false n 1 allBits s = parkEntries n s := by
  simp [writeParkCtl, haltedOnly, halted, isFollower, lead, writeTy_parkCtl, onesIn_allBits,
    fPARK_CTL_PARK, fPARK_CTL_UNPARK, fPARK_CTL_DROP, bits]
theorem writeParkCtl_unpark : writeParkCtl false n 2 allBits s = unparkEntries n s := by
  simp [writeParkCtl, haltedOnly, halted, isFollower, lead, writeTy_parkCtl, onesIn_allBits,
    fPARK_CTL_PARK, fPARK_CTL_UNPARK, fPARK_CTL_DROP, bits]
theorem writeParkCtl_drop : writeParkCtl false n 4 allBits s = dropEntries n s := by
  simp [writeParkCtl, haltedOnly, halted, isFollower, lead, writeTy_parkCtl, onesIn_allBits,
    fPARK_CTL_PARK, fPARK_CTL_UNPARK, fPARK_CTL_DROP, bits]

end MasterHalted

theorem softYield_idle {n : Nat} {s : State} (h : (getSeq s n).state = .idle) : softYield n s = yieldRequest n s := by
  simp only [softYield, h]
theorem softYield_issuing {n : Nat} {s : State} (h : (getSeq s n).state = .issuing) :
    softYield n s = yieldRequest n s := by
  simp only [softYield, h]
theorem softResume_free {n : Nat} {s : State} (h : (getSeq s n).hubSvc = false) : softResume n s = resumeIssue n s := by
  simp only [softResume, h, Bool.false_eq_true, if_false]

/-! ### RESUME -/

/-- RESUME of a VALID record of KIND 1 outside a HOLD: VALID goes, and the micro-sequencer issues at UPC with the counters
of the record (R116). -/
theorem resumeIssue_outside_hold {n : Nat} {s : State}
    (hstate : (getSeq s n).state = .yielded ∨ (getSeq s n).state = .trapped) (hvalid : getF s (fRESUME0_VALID n) = 1)
    (hdepth : getF s (fRESUME0_DEPTH n) ≤ 4) (hkind : getF s (fRESUME0_KIND n) = 1)
    (hhold : getF s (fRESUME0_IN_HOLD n) = 0) : ∃ q : MSeq,
      resumeIssue n s = updSeq n (fun _ => q) (setFs [(fRESUME0_VALID n, 0), (fMSEQ_CTL_RESUME n, 0)] s) ∧
      q.state = .issuing ∧ q.upc = BitVec.ofNat 13 (getF s (fRESUME0_UPC n)) ∧
      q.ptrs.c0 = BitVec.ofNat 16 (getF s (fRESUME1_C0 n)) ∧ q.ptrs.p1 = BitVec.ofNat 13 (getF s (fRESUME2_P1 n)) := by
  have hhold' : getF (setFs [(fRESUME0_VALID n, 0), (fMSEQ_CTL_RESUME n, 0)] s) (fRESUME0_IN_HOLD n) = 0 := by
    rw [getF_setFs_other, hhold]
    simp only [List.forall_mem_cons, List.not_mem_nil, false_implies, implies_true, and_true, fldKey, fRESUME0_VALID,
      fRESUME0_IN_HOLD, fMSEQ_CTL_RESUME]
    omega
  simp only [resumeIssue, hstate, bitF, hvalid, hdepth, hkind, hhold', decide_true, and_self, if_true, Nat.reduceEqDiff,
    or_self, if_false, decide_false, Bool.false_and, Bool.false_eq_true, Nat.zero_ne_one]
  rw [takeIfIdle_busy]
  · exact ⟨_, rfl, rfl, rfl, rfl, rfl⟩
  · rw [getSeq_updSeq_same]
    exact MState.noConfusion

theorem getF_resumed_valid (n : Nat) (s : State) :
    getF (setFs [(fRESUME0_VALID n, 0), (fMSEQ_CTL_RESUME n, 0)] s) (fRESUME0_VALID n) = 0 := by
  refine getF_setFs_of_mem (v := 0) ?_ List.mem_cons_self s
  simp only [List.map_cons, List.map_nil, List.nodup_cons, List.mem_cons, List.not_mem_nil, List.nodup_nil, or_false,
    not_false_eq_true, and_true, fldKey, fRESUME0_VALID, fMSEQ_CTL_RESUME]
  omega

/-! ### ABORT and PARK -/

/-- The group that goes is fields and flags of the micro-sequencer (R197). -/
theorem discardGroup_eq (n : Nat) (s : State) : ∃ u, u = { s with fields := u.fields } ∧
    discardGroup n s = updSeq n (fun q => { q with pend := false, excMark := false }) u := by
  refine ⟨_, ?_, rfl⟩
  have part (g : Field → Field) (t : State) (ht : t = { s with fields := t.fields }) :
      updPart n g t = { s with fields := (updPart n g t).fields } :=
    foldl_keeps (P := fun u : State => u = { s with fields := u.fields }) _ ht fun u hu f _ => by
      rw [hu]
      rfl
  exact foldl_keeps (P := fun u : State => u = { s with fields := u.fields }) _ (part _ s rfl) fun u hu f _ => by
    rw [hu]
    rfl

/-- ACTION no longer waits for a COMMIT, and no software yield stands. -/
def actionGone (q : MSeq) : MSeq := { q with swYield := false, mask := false, skip := false }

theorem nextRoutine_empty {q : MSeq} (h : q.queue = []) : (nextRoutine q).state = .idle ∧ (nextRoutine q).cur = none := by
  simp only [nextRoutine, h, and_self]
theorem unasked_nextRoutine {q : MSeq} (h : Unasked q) : Unasked (nextRoutine q) := by
  unfold nextRoutine
  split
  · exact h
  · exact h

/-- The state of ABORT and PARK before their queue: the record and the group are gone. -/
def recordGone (n : Nat) (s : State) : State :=
  setFs [(fRESUME0_VALID n, 0), (fMSEQ_CTL_RESUME n, 0)] (discardGroup n s)

theorem getSeq_recordGone (n : Nat) (s : State) :
    getSeq (recordGone n s) n = { getSeq s n with pend := false, excMark := false } := by
  obtain ⟨u, hu, heq⟩ := discardGroup_eq n s
  rw [recordGone, (setFs_reports ..).getSeq_eq, heq, getSeq_updSeq_same, hu]
  rfl
theorem recordGone_mem (n : Nat) (s : State) : (recordGone n s).mem = s.mem := by
  obtain ⟨u, hu, heq⟩ := discardGroup_eq n s
  rw [recordGone, (setFs_reports ..).mem, heq, updSeq_mem, hu]

theorem lead_of_stopped {n : Fin 64} {s : State} (h : Stopped s n) : (getSeq s n).state ≠ .follower := by
  obtain ⟨hstate | hstate, -⟩ := h
  · exact fun hf => MState.noConfusion (hstate.symm.trans hf)
  · exact fun hf => MState.noConfusion (hstate.symm.trans hf)

section Stopped
variable {n : Fin 64} {s : State} (stopped : Stopped s n) (unasked : Unasked (getSeq s n))
include stopped unasked

/-- ABORT with nothing queued leaves the micro-sequencer IDLE without a record (R117). -/
theorem abortRoutine_empty (hqueue : (getSeq s n).queue = []) : ∃ q : MSeq,
    abortRoutine n s = updSeq n (fun _ => q) (recordGone n s) ∧ q.state = .idle ∧ q.cur = none := by
  obtain ⟨hstate, hhub⟩ := stopped
  have hseq := getSeq_recordGone n s
  have habort : abortRoutine n s = takeIfIdle n (updSeq n (fun q => nextRoutine (actionGone q)) (recordGone n s)) := by
    simp only [abortRoutine, hstate, hhub, Bool.false_eq_true, if_true, if_false]
    rfl
  obtain ⟨hidle, hcur⟩ := nextRoutine_empty (q := actionGone (getSeq (recordGone n s) n)) (by rw [hseq]; exact hqueue)
  rw [habort, takeIfIdle_unasked]
  · exact ⟨_, rfl, hidle, hcur⟩
  · rw [getSeq_updSeq_same]
    exact unasked_nextRoutine (by rw [hseq]; exact unasked)

/-- PARK moves the queue, released, behind the park list and leaves the micro-sequencer IDLE (R302). -/
theorem parkEntries_fit (hpend : (getSeq s n).pend = false)
    (hfit : (getSeq s n).park.length + (getSeq s n).queue.length ≤ 16) : ∃ q : MSeq,
      parkEntries n s = updSeq n (fun _ => q) (recordGone n s) ∧ q.queue = [] ∧ q.state = .idle ∧
      q.park = (getSeq s n).park ++ (getSeq s n).queue.map (fun e => { e with released := true }) := by
  obtain ⟨hstate, hhub⟩ := stopped
  have hseq := getSeq_recordGone n s
  simp only [parkEntries, hstate, hpend, hfit, Bool.false_eq_true, not_false_eq_true, and_self, if_true]
  rw [takeIfIdle_unasked]
  · refine ⟨_, rfl, rfl, ?_, ?_⟩
    · rw [← recordGone, hseq]
      simp only [hhub, Bool.false_eq_true, if_false]
    · rw [← recordGone, hseq]
  · rw [getSeq_updSeq_same, ← recordGone, hseq]
    exact unasked

end Stopped

/-- UNPARK puts the park list, unreleased, before the queue (R302). -/
theorem unparkEntries_fit {n : Nat} {s : State}
    (hstate : (getSeq s n).state = .yielded ∨ (getSeq s n).state = .trapped)
    (hfit : (getSeq s n).park.length + (getSeq s n).queue.length ≤ 16) : unparkEntries n s =
      updSeq n (fun q => { q with
        queue := q.park.map (fun e => { e with released := false }) ++ q.queue, park := [] }) s := by
  simp only [unparkEntries, hstate, hfit, and_self, if_true]

/-! ### SEQ_CTL (R289, R300, R310) -/

theorem writeSeqCtl_discards {who n : Nat} {s : State} (h : (getSeq s n).state = .follower ∨ masterFunc who = none)
    (v en : Nat) : writeSeqCtl false who n v en s = s := by
  unfold writeSeqCtl
  rw [if_pos]
  obtain h | h := h
  · simp [isFollower, h]
  · simp [funcOf, h]

section Lead
variable {who n : Nat} {s : State} (lead : (getSeq s n).state ≠ .follower) (func : masterFunc who ≠ none)
include lead func

theorem writeSeqCtl_halt : writeSeqCtl false who n 1 allBits s = forceHalt n s := by
  simp [writeSeqCtl, isFollower, lead, funcOf, func, onesIn_allBits, fSEQ_CTL_PREQ, fSEQ_CTL_HALT, bits]
theorem writeSeqCtl_preq : writeSeqCtl false who n 2 allBits s = if who = 0x80 then raiseIrq n 20 s else s := by
  simp [writeSeqCtl, isFollower, lead, funcOf, func, onesIn_allBits, fSEQ_CTL_PREQ, fSEQ_CTL_HALT, bits]

end Lead

/-- A running core at a word boundary, held by no READBACK, halts at once (R289, R613). -/
theorem forceHalt_boundary {n : Nat} {s : State} (hcore : (getCore s n).state ≠ .halted)
    (hmid : (getCore s n).mid = false) (hheld : coreHeld s n = false) : forceHalt n s = haltCore n 4 s := by
  simp [forceHalt, hcore, hmid, hheld]

/-! ### Messages and the timer (R300, R314) -/

theorem writeHmsgIn_discards {who n : Nat} {s : State} (h : (getSeq s n).state = .follower ∨
    who ≠ 0x61 ∧ (masterFunc who = none ∨ ownerOf s n ≠ masterFunc who)) (v en : Nat) :
    writeHmsgIn false who n v en s = s := by
  unfold writeHmsgIn
  rw [if_neg]
  rintro ⟨-, hlead, hwho⟩
  obtain hfollower | ⟨hmc, hfunc⟩ := h
  · simp [isFollower, hfollower] at hlead
  · obtain rfl | ⟨hsome, howner⟩ := hwho
    · exact hmc rfl
    · obtain hnone | hother := hfunc
      · simp [funcOf, hnone] at hsome
      · exact hother howner

theorem writeHmsgIn_stores {who n : Nat} {s : State} (lead : (getSeq s n).state ≠ .follower)
    (h : who = 0x61 ∨ (masterFunc who ≠ none ∧ ownerOf s n = masterFunc who)) (v en : Nat) :
    writeHmsgIn false who n v en s = irqSet n 19 (setF (fSEQ_STATUS_MSG_FULL n) 1 (storeF (fHMSG_IN_DATA n) v en
      (if getF s (fSEQ_STATUS_MSG_FULL n) = 1 then setF (fSEQ_STATUS_MSG_OVF n) 1 s else s))) := by
  have hwho : who = 0x61 ∨ (funcOf who).isSome ∧ ownerOf s n = funcOf who := by
    obtain h | ⟨hfunc, howner⟩ := h
    · exact .inl h
    · exact .inr ⟨Option.isSome_iff_ne_none.mpr hfunc, howner⟩
  simp only [writeHmsgIn, isFollower, beq_iff_eq, lead, hwho, Bool.false_eq_true, not_false_eq_true, and_self, if_true,
    bitF_eq]
  rfl

theorem execHmsgOutWrite_posts {n : Fin 64} {s : State} {f : Nat} (hcore : (getCore s n).state ≠ .halted)
    (howner : ownerOf s n = some f) (v : Word) : execHmsgOutWrite n v s =
      .next (postEvent f 1 n (getF (storeF (fHMSG_OUT_DATA n) v.toNat allBits s) (fHMSG_OUT_DATA n))
        (storeF (fHMSG_OUT_DATA n) v.toNat allBits s)) := by
  have howner' : ownerOf (storeF (fHMSG_OUT_DATA n) v.toNat allBits s) n = some f := howner
  simp only [execHmsgOutWrite, coreHalted, beq_iff_eq, hcore, if_false, writeHmsgOut, howner', if_true, ok]

theorem execTimerMatch_matches {n : Fin 64} {s : State} (hcore : (getCore s n).state ≠ .halted)
    (hcompare : getF s (fTIMER_COMPARE n) ≠ 0) (hcycle : cycleOf s n = getF s (fTIMER_COMPARE n)) :
    execTimerMatch n s = .next (irqSet n 23 s) := by
  simp only [execTimerMatch, coreHalted, beq_iff_eq, hcore, hcycle, ne_eq, hcompare, not_false_eq_true, and_self, if_true, ok]
  rfl

/-! ### Halos and PE memory (R79, R89, R162) -/

theorem writeHaloStat_clear (n : Nat) (s : State) : writeHaloStat n (2 ^ 16) allBits s = haloClear n s := by
  simp [writeHaloStat, onesIn_allBits, fHALO_STAT_CLR, bits]

/-- With no row of the field borrowed a write of LEASE_MAP only stores FREE. -/
theorem writeLeaseMap_unlent {n : Nat} {s : State} (h : getF s (fSURVEY_YIELD_BORROWED n) = 0) (v en : Nat) :
    writeLeaseMap n v en s = storeF (fLEASE_MAP_FREE n) v en s := by
  have hunlent : getF (storeF (fLEASE_MAP_FREE n) v en s) (fSURVEY_YIELD_BORROWED n) = 0 := by
    refine (getF_setF_other _ s ?_).trans h
    simp only [fldKey, fSURVEY_YIELD_BORROWED, fLEASE_MAP_FREE]
    omega
  simp [writeLeaseMap, bitF, hunlent]

theorem rowPEMEM_INJ_mem : rowPEMEM_INJ ∈ regRows := by decide +kernel

/-- A whole write of an RW field stores its bits. -/
theorem writtenFld_rw {f : Fld} (hty : f.ty = .rw) (hw : f.lo + f.w ≤ 64) {x : Nat} (hx : x < 2 ^ f.w) (v : Nat) :
    writtenFld f v allBits x = bits v f.lo f.w := by
  simp only [writtenFld, hty, fldEn_allBits hw, Nat.and_two_pow_sub_one_eq_mod, Nat.mod_eq_of_lt hx, Nat.sub_self,
    Nat.zero_add]
  exact Nat.mod_eq_of_lt (bits_lt ..)

/-- The lowest bit does not reach the fields above it. -/
theorem bits_or_one {v lo w : Nat} (h : 0 < lo) : bits (v ||| 1) lo w = bits v lo w := by
  have hone : 1 / 2 ^ lo = 0 := Nat.div_eq_of_lt (Nat.one_lt_two_pow (Nat.ne_of_gt h))
  rw [bits, bits, Nat.or_div_two_pow, hone, Nat.or_zero]

/-- A write of PEMEM_INJ with its ARM bit arms the injection and stores ROW (R89). -/
theorem writePememInj_arms (n v : Nat) (s : State) :
    let u := writeRow' rowPEMEM_INJ n 0 (v ||| 1) allBits s
    getF u (fPEMEM_INJ_ARM n) = 1 ∧ getF u (fPEMEM_INJ_ROW n) = bits v (fPEMEM_INJ_ROW n).lo (fPEMEM_INJ_ROW n).w := by
  have harm : fPEMEM_INJ_ARM n ∈ rowFlds rowPEMEM_INJ n 0 := .head _
  have hrow : fPEMEM_INJ_ROW n ∈ rowFlds rowPEMEM_INJ n 0 := by
    simp [rowFlds, rowFld, rowPEMEM_INJ, fPEMEM_INJ_ROW, rowRst]
  refine ⟨?arm, ?row⟩
  case arm =>
    have hone : onesIn (fPEMEM_INJ_ARM n) (v ||| 1) allBits = 1 := by
      simp [onesIn_allBits, fPEMEM_INJ_ARM, bits, Nat.or_mod_two_eq_one]
    have hset : ∀ x < 2, x ||| 1 = 1 := by decide
    rw [getF_writeRow' rowPEMEM_INJ_mem harm]
    exact (congrArg (getF s (fPEMEM_INJ_ARM n) ||| ·) hone).trans (hset _ (getF_lt ..))
  case row =>
    rw [getF_writeRow' rowPEMEM_INJ_mem hrow, writtenFld_rw rfl (by simp [fPEMEM_INJ_ROW]) (getF_lt ..)]
    exact bits_or_one (show 0 < 36 by decide)

end Sys2Proof.Machine
end

section
namespace Sys2Proof.Proofs
open Sys2Proof Sys2Proof.Machine Sys2Proof.Claims

/-- Settles O29: each command is the write of its register over a free path, and each write acts as its lemma says. -/
theorem sequencerAndPreemptionCommands : Obligations.SequencerAndPreemptionCommands := by
  unfold Obligations.SequencerAndPreemptionCommands
  refine ⟨fun m n s halted => ⟨fun path hissuing => ?yieldReq, fun path hidle hstop => ?yieldIdle,
    fun path stopped hvalid hdepth hkind hhold => ?resume, fun path stopped unasked hqueue => ?abort,
    fun path stopped unasked hpend hfit => ?park, fun path stopped hfit => ?unpark, fun path lead => ?drop⟩,
    fun m n v s => ⟨fun path lead func hcore hmid hheld => ?halt, fun path lead hpf => ?preq,
    fun path discard => ?haltDiscarded, fun path discard => ?preqDiscarded, fun path discard => ?messageDiscarded,
    fun path lead hwho => ?message, fun f hcore howner => ?messageOut, fun hcore hcompare hcycle => ?timer,
    fun path => ?halo, fun path hunlent => ?lease, fun path => ?inject⟩⟩
  case yieldReq =>
    rw [exec_yieldReq, execYieldReq, hostCmd_path path, writeMseqCtl_yieldReq halted, softYield_issuing hissuing,
      yieldRequest_issuing hissuing]
  case yieldIdle =>
    obtain ⟨st, u, hyield, hkind, hupc, honly⟩ := yieldRequest_idle hidle hstop
    have hall := honly.trans (completeYield_seqsOnly n st u)
    have hrec := completeYield_recorded n st u
    refine ⟨completeYield n st u, ?_, ?_, ?_, ?_, hall.mem, hall.fields, hall.cores⟩
    · rw [exec_yieldReq, execYieldReq, hostCmd_path path, writeMseqCtl_yieldReq halted, softYield_idle hidle, hyield]
    · rw [getSeq_completeYield]
      rfl
    · rw [hrec.kind, hkind]
    · rw [hrec.upc, hupc]
      rfl
  case resume =>
    obtain ⟨hstate, hhub⟩ := stopped
    obtain ⟨q, hresume, hissuing, hupc, hc0, hp1⟩ := resumeIssue_outside_hold hstate hvalid hdepth hkind hhold
    refine ⟨resumeIssue n s, ?_, ?_⟩
    · rw [exec_resume, execResume, hostCmd_path path, writeMseqCtl_resume halted, softResume_free hhub]
    · rw [hresume, getSeq_updSeq_same]
      exact ⟨hissuing, hupc, hc0, hp1, getF_resumed_valid n s, rfl, rfl, rfl⟩
  case abort =>
    obtain ⟨q, habort, hidle, hcur⟩ := abortRoutine_empty stopped unasked hqueue
    refine ⟨abortRoutine n s, ?_, ?_⟩
    · rw [exec_abort, execAbort, hostCmd_path path, writeMseqCtl_abort halted]
    · rw [habort, getSeq_updSeq_same]
      exact ⟨hidle, hcur, getF_resumed_valid n _, recordGone_mem n s⟩
  case park =>
    obtain ⟨q, hpark, hqueue, hidle, hlist⟩ := parkEntries_fit stopped unasked hpend hfit
    refine ⟨parkEntries n s, ?_, ?_⟩
    · rw [exec_parkQueue, execParkQueue, hostCmd_path path, writeParkCtl_park halted (lead_of_stopped stopped)]
    · rw [hpark, getSeq_updSeq_same]
      exact ⟨hqueue, hidle, hlist, recordGone_mem n s⟩
  case unpark =>
    have ⟨hstate, _⟩ := stopped
    rw [exec_unpark, execUnpark, hostCmd_path path, writeParkCtl_unpark halted (lead_of_stopped stopped),
      unparkEntries_fit hstate hfit]
  case drop => rw [exec_dropPark, execDropPark, hostCmd_path path, writeParkCtl_drop halted lead, dropEntries]
  case halt =>
    rw [exec_seqHalt, execSeqHalt]
    exact (hostCmd_path path _).trans (by rw [writeSeqCtl_halt lead func, forceHalt_boundary hcore hmid hheld])
  case preq =>
    subst hpf
    exact (hostCmd_path path _).trans (by rw [writeSeqCtl_preq lead (by decide)]; rfl)
  case haltDiscarded =>
    exact (hostCmd_path path _).trans (by rw [writeSeqCtl_discards (discard.imp_left Decidable.not_not.mp)])
  case preqDiscarded =>
    have hsame : writeSeqCtl false m.toNat n 2 allBits s = s := by
      by_cases hgone : (getSeq s n).state = .follower ∨ masterFunc m.toNat = none
      · exact writeSeqCtl_discards hgone ..
      · obtain ⟨lead, func⟩ := not_or.mp hgone
        have hpf : m.toNat ≠ 0x80 := fun h => discard.elim (· lead) (· (BitVec.eq_of_toNat_eq h))
        rw [writeSeqCtl_preq lead func, if_neg hpf]
    exact (hostCmd_path path _).trans (by rw [hsame])
  case messageDiscarded =>
    have hmc (h : m ≠ 0x61) : m.toNat ≠ 0x61 := fun hnat => h (BitVec.eq_of_toNat_eq hnat)
    exact (hostCmd_path path _).trans
      (by rw [writeHmsgIn_discards (discard.imp Decidable.not_not.mp (And.imp_left hmc))])
  case message =>
    exact (hostCmd_path path _).trans (by rw [writeHmsgIn_stores lead (hwho.imp_left (congrArg BitVec.toNat))])
  case messageOut => exact (exec_hmsgOutWrite n v s).trans (execHmsgOutWrite_posts hcore howner v)
  case timer => exact (exec_timerMatch n s).trans (execTimerMatch_matches hcore hcompare hcycle)
  case halo =>
    rw [exec_haloClr, execHaloClr, hostCmd_path path, writeHaloStat_clear, haloClear]
  case lease =>
    rw [exec_leaseMapWrite, execLeaseMapWrite, hostCmd_path path, writeLeaseMap_unlent hunlent]
  case inject =>
    obtain ⟨harm, hrow⟩ := writePememInj_arms n v.toNat s
    have hrep := writeRow_reports rowPEMEM_INJ n 0 (v.toNat ||| 1) allBits s
    exact ⟨_, hostCmd_path path _, harm, hrow, hrep.mem, hrep.fields, hrep.seqs⟩

end Sys2Proof.Proofs
end

section
/-! SUPPORT. How descriptors that move data start (R338, R340–R342, R378, R502). -/
namespace Sys2Proof.Machine
open Sys2Proof Sys2Proof.Claims

/-! ### The commands -/

theorem exec_dmaIn (r : Fin 8192) (s : State) : exec (.dmaIn r) s = startMove r 2 s := rfl
theorem exec_dmaOut (r : Fin 8192) (s : State) : exec (.dmaOut r) s = startMove r 3 s := rfl
theorem exec_copy (r : Fin 8192) (s : State) : exec (.copy r) s = execCopy r s := rfl
theorem exec_almanacLoad (r : Fin 8192) (s : State) : exec (.almanacLoad r) s = execAlmanacLoad r s := rfl
theorem exec_imageLoad (r : Fin 8192) (s : State) : exec (.imageLoad r) s = execImageLoad r s := rfl
theorem exec_chartUpdate (r : Fin 8192) (s : State) : exec (.chartUpdate r) s = execChartUpdate r s := rfl
theorem exec_fabricLoad (r : Fin 8192) (s : State) : exec (.fabricLoad r) s = execFabricLoad r s := rfl

/-! ### Starts -/

/-- A descriptor whose checks end in t: it runs where none fails, and otherwise completes with BAD_PARAM and the DETAIL d
of the first that does, 0 for none. -/
def Checked (j : Job) (s t : State) (d : Nat) : Prop := t = if d = 0 then runJob j 0 s else badParam d j s

theorem checked_runs (j : Job) (s : State) : Checked j s (runJob j 0 s) 0 := rfl
/-- A check with DETAIL d before others. -/
theorem Checked.fails_if {j : Job} {s t : State} {e : Nat} (h : Checked j s t e) {d : Nat} (hd : d ≠ 0) {p q : Prop}
    [Decidable p] [Decidable q] (hpq : p ↔ q) : Checked j s (if p then badParam d j s else t) (if q then d else e) := by
  unfold Checked at *
  by_cases hq : q
  · rw [if_pos (hpq.mpr hq), if_pos hq, if_neg hd]
  · rw [if_neg (mt hpq.mp hq), if_neg hq, h]

/-- The ready descriptor with the opcode of the command starts as its checks say. -/
theorem startOp_checked {r : Fin 8192} {op : Nat} {s : State} {j : Job} (h : Ready s r op j) {act : Job → State → State}
    {d : Nat} (hact : Checked j s (act j s) d) :
    startOp r op act s = .next (if d = 0 then runs r j 0 s else ends r j 8 d s) := by
  obtain ⟨hhead, hphase, hop, hfatal⟩ := h
  unfold Checked at hact
  simp only [startOp, hhead, hphase, hop, hfatal, hact, Bool.false_eq_true, not_false_eq_true, and_self, if_true, ok]
  split
  · rfl
  · rfl

/-- A transfer moves LEN bytes (R340). -/
theorem moveLen_of_transfer {j : Job} (h : j.op = 2 ∨ j.op = 3 ∨ j.op = 4) : moveLen j = dBits j 3 0 32 := by
  obtain h | h | h := h <;> simp only [moveLen, h]

/-- A transfer between host and part checks LEN alone (R340). -/
theorem startMove_checked {r : Fin 8192} {op : Nat} {s : State} {j : Job} (hop : op = 2 ∨ op = 3 ∨ op = 4)
    (h : Ready s r op j) : startMove r op s =
      .next (let d := if 2 ^ 31 < dBits j 3 0 32 then 1 else 0; if d = 0 then runs r j 0 s else ends r j 8 d s) := by
  have ⟨_, _, hj, _⟩ := h
  exact startOp_checked h ((checked_runs j s).fails_if Nat.one_ne_zero (by rw [moveLen_of_transfer (hj ▸ hop)]))

end Sys2Proof.Machine
end

section
namespace Sys2Proof.Proofs
open Sys2Proof Sys2Proof.Machine Sys2Proof.Claims

/-- Settles O32: the checks of each opcode, in order, are those of its command. -/
theorem moveDescriptorsStart : Obligations.MoveDescriptorsStart := by
  unfold Obligations.MoveDescriptorsStart
  refine ⟨?move, fun r s j h => (exec_fabricLoad r s).trans (startOp_checked h ?fabric)⟩
  case fabric =>
    exact (((checked_runs j s).fails_if (by decide) .rfl).fails_if (by decide) (Bool.not_eq_true _).to_iff).fails_if
      (by decide) .rfl
  case move =>
    simp only [moveTable, List.forall_mem_cons, List.not_mem_nil, false_implies, implies_true, and_true]
    refine ⟨fun r s j h => (exec_dmaIn r s).trans (startMove_checked (.inl rfl) h),
      fun r s j h => (exec_dmaOut r s).trans (startMove_checked (.inr (.inl rfl)) h),
      fun r s j h => (exec_copy r s).trans (startOp_checked h ?copy),
      fun r s j h => (exec_almanacLoad r s).trans (startOp_checked h ?almanac),
      fun r s j h => (exec_imageLoad r s).trans (startOp_checked h ?image),
      fun r s j h => (exec_chartUpdate r s).trans (startOp_checked h ?chart)⟩
    case copy =>
      obtain ⟨-, -, hop, -⟩ := h
      rw [moveLen_of_transfer (.inr (.inr hop))]
      exact ((checked_runs j s).fails_if (by decide) .rfl).fails_if (by decide) (by simp)
    case almanac =>
      exact ((checked_runs j s).fails_if (by decide) .rfl).fails_if (by decide) (Bool.not_eq_true _).to_iff
    case image =>
      exact ((checked_runs j s).fails_if (by decide) .rfl).fails_if (by decide) (by simp [coreHalted])
    case chart => exact (checked_runs j s).fails_if (by decide) .rfl

end Sys2Proof.Proofs
end

section
/-! SUPPORT. How the words of the core about the array end: ACALL, the words that wait for outstanding ACALLs, and BRK (R108,
R111, R291, R292). -/
namespace Sys2Proof.Machine
open Sys2Proof Sys2Proof.Claims

/-! ### The commands -/

theorem exec_acall (n : Fin 64) (s : State) : exec (.acall n .none) s = execAcall n .none s := rfl
theorem exec_await (n : Fin 64) (s : State) : exec (.await n .none) s = execAwait n .none s := rfl
theorem exec_asnd (n : Fin 64) (s : State) : exec (.asnd n .none) s = execAsnd n .none s := rfl
theorem exec_haltOp (n : Fin 64) (s : State) : exec (.haltOp n .none) s = execHaltOp n .none s := rfl
theorem exec_brk (n : Fin 64) (s : State) : exec (.brk n .none) s = execBrk n .none s := rfl

/-! ### Ends of words -/

/-- A long operation at the program counter runs and settles (R253, R272). -/
theorem runWord_atLong {n : Fin 64} {s : State} {o : BOp} {mn : Op} (h : AtLong s n o) (hop : o.op = mn)
    (sem : BOp → CoreErr → State → OpRes) : runWord n mn sem .none s = settle n false (sem o .none s) := by
  obtain ⟨hready, hword⟩ := h
  simp only [runWord, hready, hword, hop, if_true, reduceCtorEq, if_false]

/-- ACALL with room in the queue appends its entry (R108). -/
theorem acallOp_fits {n : Nat} {o : BOp} {s : State} (h : (getSeq s n).queue.length < 16) : acallOp n o s =
    .done (updSeq n (fun q => { q with queue := q.queue ++
      [⟨BitVec.ofNat 13 o.imm, BitVec.ofNat 13 (bits (regOf s n o.rs).toNat 0 13),
        BitVec.ofNat 13 (bits (regOf s n o.rs).toNat 16 13), BitVec.ofNat 13 (bits (regOf s n o.rs).toNat 32 13),
        BitVec.ofNat 16 (bits (regOf s n (o.rs + 1)).toNat 0 16), BitVec.ofNat 16 (bits (regOf s n (o.rs + 1)).toNat 16 16),
        BitVec.ofNat 16 (bits (regOf s n (o.rs + 1)).toNat 32 16), (getCore s n).pc, false⟩] }) s) none := by
  simp only [acallOp, Nat.not_le.mpr h, if_false]

theorem afterAcalls_none {n : Nat} {s : State} (h : outstanding (getSeq s n) = false) (g : State → OpRes) :
    afterAcalls n g s = g s := by
  simp only [afterAcalls, h, Bool.false_eq_true, if_false]

/-- With an ACALL outstanding an issuing micro-sequencer makes the word wait (R291). -/
theorem afterAcalls_waits {n : Nat} {s : State} (h : outstanding (getSeq s n) = true)
    (hissuing : (getSeq s n).state = .issuing) (g : State → OpRes) : afterAcalls n g s = .wait s := by
  simp [afterAcalls, h, beginWait, deadlock, hissuing]
/-- With an ACALL outstanding a TRAPPED micro-sequencer halts the core (R292). -/
theorem afterAcalls_deadlocks {n : Nat} {s : State} (h : outstanding (getSeq s n) = true)
    (htrapped : (getSeq s n).state = .trapped) (g : State → OpRes) : afterAcalls n g s = .halt s 3 := by
  simp [afterAcalls, h, beginWait, deadlock, htrapped]

/-- A core that begins to wait, with no halt pending, changes nothing else (R289, R291). -/
theorem settle_wait {n : Nat} {s : State} (h : getF s (fSEQ_CTL_HALT n) = 0) (slot : Bool) :
    settle n slot (.wait s) = updCore n (fun c => { c with state := .waiting }) s := by
  have hnone : getF (updCore n (fun c => { c with state := .waiting }) s) (fSEQ_CTL_HALT n) = 0 := h
  simp [settle, finishWord, bitF, hnone]

/-- The words that wait for outstanding ACALLs, each with what it does without one (R111, R267). -/
def awaiting : List ((Fin 64 → CoreErr → Instr) × Op × (Fin 64 → BOp → State → OpRes)) :=
  [(.await, .await, fun _ _ s => .done s none),
   (.asnd, .asnd, fun n o s => wrote n o.rd (BitVec.ofNat 64 (rawReg s rowMSEQ_SND n 0)) s),
   (.haltOp, .haltOp, fun _ _ s => .halt s 1)]

theorem exec_awaiting : ∀ e ∈ awaiting, ∀ (n : Fin 64) (s : State) (o : BOp), AtLong s n o → o.op = e.2.1 →
    exec (e.1 n .none) s = .next (settle n false (afterAcalls n (e.2.2 n o) s)) := by
  simp only [awaiting, List.forall_mem_cons, List.not_mem_nil, false_implies, implies_true, and_true]
  exact ⟨fun n s o h hop => (exec_await n s).trans (congrArg _ (runWord_atLong h hop _)),
    fun n s o h hop => (exec_asnd n s).trans (congrArg _ (runWord_atLong h hop _)),
    fun n s o h hop => (exec_haltOp n s).trans (congrArg _ (runWord_atLong h hop _))⟩

end Sys2Proof.Machine
end

section
namespace Sys2Proof.Proofs
open Sys2Proof Sys2Proof.Machine Sys2Proof.Claims

/-- Settles O13: each word settles as its operation ends, and the three that wait share how they do. -/
theorem arrayWordsOfTheCore : Obligations.ArrayWordsOfTheCore := by
  unfold Obligations.ArrayWordsOfTheCore
  refine ⟨fun n s o h hop hroom => ?acall, fun n s o h hnone => ?free, fun e he n s o h hop hout => ?waits,
    fun n s o h hop => (exec_brk n s).trans (congrArg _ (runWord_atLong h hop _))⟩
  case acall =>
    rw [exec_acall, execAcall, runWord_atLong h hop, acallOp_fits hroom]
    rfl
  case free =>
    have settled : ∀ e ∈ awaiting, o.op = e.2.1 → exec (e.1 n .none) s = .next (settle n false (e.2.2 n o s)) :=
      fun e he hop => by rw [exec_awaiting e he n s o h hop, afterAcalls_none hnone]
    exact ⟨settled _ (.head _), settled _ (.tail _ (.head _)), settled _ (.tail _ (.tail _ (.head _)))⟩
  case waits =>
    have hexec : ∃ g, exec (e.1 n .none) s = .next (settle n false (afterAcalls n g s)) := by
      simp only [List.mem_cons, List.not_mem_nil, or_false] at he
      obtain rfl | rfl | rfl := he
      · exact ⟨_, exec_awaiting _ (.head _) n s o h hop⟩
      · exact ⟨_, exec_awaiting _ (.tail _ (.head _)) n s o h hop⟩
      · exact ⟨_, exec_awaiting _ (.tail _ (.tail _ (.head _))) n s o h hop⟩
    obtain ⟨g, hexec⟩ := hexec
    refine ⟨fun hissuing hhalt => ?_, fun htrapped => ?_⟩
    · rw [hexec, afterAcalls_waits hout hissuing, settle_wait hhalt]
    · rw [hexec, afterAcalls_deadlocks hout htrapped]
      rfl

end Sys2Proof.Proofs
end

section
/-! SUPPORT. Descriptors that move data and how they end: host reads, transfers, the source of a load and its writes, a
READBACK with its snapshot in hand, and a word-port transfer (R121, R199, R340, R341, R607). -/
namespace Sys2Proof.Machine
open Sys2Proof Sys2Proof.Claims

/-! ### The commands -/

theorem exec_hostReadCompletion (e : Fin 16) (i : Fin 32) (x : HostRead) (s : State) :
    exec (.hostReadCompletion e i x) s = execHostReadCompletion e i x s := rfl
theorem exec_hostReadTimeout (e : Fin 16) (i : Fin 32) (s : State) :
    exec (.hostReadTimeout e i) s = execHostReadTimeout e i s := rfl
theorem exec_dmaTransferEnd (e : Fin 16) (late : BitVec 64) (s : State) :
    exec (.dmaTransferEnd e late) s = execDmaTransferEnd e late s := rfl
theorem exec_sourceReadDone (e : Fin 16) (s : State) : exec (.sourceReadDone e) s = execSourceReadDone e s := rfl
theorem exec_loadWriteDone (n : Fin 64) (s : State) : exec (.loadWriteDone n) s = execLoadWriteDone n s := rfl
theorem exec_readbackCopyDone (n : Fin 64) (isr : List (Fin 64 × Fin 16384 × Bool)) (late : BitVec 64) (s : State) :
    exec (.readbackCopyDone n isr late) s = execReadbackCopyDone n isr late s := rfl
theorem exec_wpTransferEnd (f : Fin 64) (late : BitVec 64) (s : State) :
    exec (.wpTransferEnd f late) s = execWpTransferEnd f late s := rfl

/-! ### Descriptors by number -/

theorem findJob_congr {s t : State} (h : t.jobs = s.jobs) (id : Nat) : findJob t id = findJob s id := by
  unfold findJob
  rw [h]

/-- An update that keeps the numbers is seen in the descriptor it is of. -/
theorem findJob_updJob_same {g : Job → Job} (keeps : ∀ k, (g k).id = k.id) (id : Nat) (s : State) :
    findJob (updJob id g s) id = (findJob s id).map g := by
  have hid : ((fun k : Job => k.id == id) ∘ fun k => if k.id = id then g k else k) = fun k => k.id == id := by
    funext k
    simp only [Function.comp_apply]
    split
    · rw [keeps]
    · rfl
  rw [findJob, updJob, List.find?_map, hid, findJob]
  refine Option.map_congr fun j hj => ?_
  have hmatch := List.find?_some hj
  rw [if_pos (beq_iff_eq.mp hmatch)]

/-- No update that keeps the numbers makes a descriptor. -/
theorem findJob_updJob_none {g : Job → Job} (keeps : ∀ k, (g k).id = k.id) {id : Nat} {s : State}
    (h : findJob s id = none) (k : Nat) : findJob (updJob k g s) id = none := by
  unfold findJob at h ⊢
  rw [List.find?_eq_none] at h ⊢
  intro j hj
  obtain ⟨i, hi, rfl⟩ := List.mem_map.mp hj
  split
  · rw [keeps]
    exact h i hi
  · exact h i hi

theorem findJob_giveEngines_none {id : Nat} (k : Nat) {s : State} (h : findJob s id = none) :
    findJob (giveEngines k s) id = none := by
  induction k generalizing s with
  | zero => exact h
  | succ k ih =>
    unfold giveEngines
    split
    · split
      · refine ih ((findJob_congr (setFs_reports ..).jobs id).trans (findJob_updJob_none ?_ h _))
        exact fun _ => rfl
      · exact h
    · exact h

/-- A descriptor that has completed is one no more. -/
theorem findJob_completeJob (id st det : Nat) (s : State) : findJob (completeJob id st det s) id = none := by
  unfold completeJob
  split
  · assumption
  · rename_i j _
    have gone : findJob (freeEngine j { s with jobs := s.jobs.filter fun k => k.id != id }) id = none := by
      have hfilter : findJob { s with jobs := s.jobs.filter fun k => k.id != id } id = none := by
        simp [findJob]
      unfold freeEngine giveEngine
      split
      · exact findJob_giveEngines_none _ hfilter
      · exact findJob_giveEngines_none _ hfilter
    revert gone
    generalize freeEngine j { s with jobs := s.jobs.filter fun k => k.id != id } = u
    intro gone
    dsimp only
    split
    · exact gone
    · split
      · exact gone
      · split
        · split
          · exact gone
          · exact gone
        · exact (findJob_congr (writeCqe_reports ..).jobs id).trans gone

/-! ### Transfers (R340) -/

theorem hostPieces_reports (func n a : Nat) (d : List Byte) (s : State) : Reports s (hostPieces func n a d s) := by
  induction n generalizing a d s with
  | zero => exact .refl s
  | succ n ih =>
    unfold hostPieces
    split
    · exact .refl s
    · exact Reports.trans (by rfl) (ih ..)
theorem hostStore_reports (func a : Nat) (d : List Byte) (s : State) : Reports s (hostStore func a d s) :=
  hostPieces_reports ..

/-- Of a descriptor whose bytes are in, or whose transfer has failed, no more is read. -/
theorem gather_ended {s : State} {id : Nat} {j : Job} (h : findJob s id = some j)
    (hend : j.fail.isSome = true ∨ moveLen j ≤ gotBytes j) (src fuel : Nat) : gather id src (fuel + 1) s = (true, s) := by
  simp only [gather, h, hend, if_true]

/-- With nothing on hand, or behind a failure, nothing is written. -/
theorem flush_ended {s : State} {id : Nat} {j : Job} (h : findJob s id = some j)
    (hend : j.data = [] ∨ ∃ st sd off, j.fail = some (st, sd, off) ∧ off ≤ j.pos) (all : Bool) (dst fuel : Nat) :
    flush all id dst (fuel + 1) s = (true, s) := by
  obtain hdata | ⟨st, sd, off, hfail, hoff⟩ := hend
  · simp [flush, h, hdata]
  · simp [flush, h, hfail, hoff]

/-- Bytes sent leave the bytes in hand. -/
theorem findJob_sentData {s : State} {id : Nat} {j : Job} (h : findJob s id = some j) (k : Nat) :
    findJob (sentData id k s) id = some { j with pos := j.pos + k, data := j.data.drop k } := by
  have hsent := (findJob_updJob_same (g := fun j => { j with pos := j.pos + k, data := j.data.drop k }) (fun _ => rfl) id
    s).trans (congrArg _ h)
  simp only [Option.map_some] at hsent
  simp only [sentData, hsent]
  split
  · exact hsent
  · exact hsent

theorem endMove_moved {s : State} {id : Nat} {j : Job} (h : findJob s id = some j) (hfail : j.fail = none)
    (hpos : j.pos = moveLen j) (hdata : j.data = []) (late : BitVec 64) : endMove id late s = completeJob id 0 0 s := by
  simp only [endMove, h, hfail, hpos, hdata, and_self, if_true]

/-- No line returned late. -/
theorem lateNoc_none (j : Job) (dst len off : Nat) (s : State) : lateNoc j dst len off 0 s = s :=
  foldl_keeps (P := (· = s)) _ rfl fun t ht i _ => by simp [ht]

theorem endMove_failed {s : State} {id : Nat} {j : Job} (h : findJob s id = some j) {st sd off : Nat}
    (hfail : j.fail = some (st, sd, off)) (hop : j.op ≠ 3) (hreads : j.reads = []) :
    endMove id 0 s = completeJob id st (failDetail sd off) s := by
  simp only [endMove, h, hfail, hop, hreads, lateNoc_none, ne_eq, not_true_eq_false, if_false]

/-! ### The source of a load (R120, R125, R341) -/

theorem sourceIn_read {s : State} {j : Job} (h : findJob s j.id = some j) (hop : j.op = 5) (hfail : j.fail = none)
    (hgot : moveLen j ≤ gotBytes j) : sourceIn j.id s = almRead j s := by
  simp only [sourceIn, h, hfail, Nat.not_lt.mpr hgot, hop, if_false]

theorem almRead_valid {j : Job} (h : ∀ i < dBits j 3 0 14, mwReserved (srcMicro j i) = false) (s : State) :
    almRead j s = leaveEngine j.id 1 s := by
  have hnone : (List.range (dBits j 3 0 14)).find? (fun i => mwReserved (srcMicro j i)) = none := by
    simpa [List.find?_eq_none] using h
  simp only [almRead, hnone]

theorem almRead_reserved {j : Job} {i : Nat} (hi : i < dBits j 3 0 14) (hres : mwReserved (srcMicro j i) = true)
    (hfirst : ∀ k < i, mwReserved (srcMicro j k) = false) (s : State) :
    almRead j s = completeJob j.id 8 (dBits j 2 0 13 + i) s := by
  have hsome : (List.range (dBits j 3 0 14)).find? (fun i => mwReserved (srcMicro j i)) = some i := by
    simpa [List.find?_range_eq_some, hres, hi] using hfirst
  simp only [almRead, hsome]

theorem execSourceReadDone_host {e : Fin 16} {s : State} {j : Job} (h : engineJob s e = some j) (hop : j.op = 5)
    (hstage : j.stage = 0) (hhost : dBits j 4 0 1 = 0) : execSourceReadDone e s = .next (sourceIn j.id s) := by
  simp [execSourceReadDone, h, hop, hstage, hhost, ok]

/-! ### The writes of a load (R121, R341, R584) -/

theorem surveyRestore_almLine_mem {b : Borrow} {n : Fin 64} {l : Fin 512} (h : b.region = .almLine n l) (s : State) :
    (surveyRestore b s).mem = s.mem := by
  obtain ⟨region, plane, words, bad⟩ := b
  cases h
  have restored (l : List Nat) (g : Nat → Nat) : (l.foldl (fun s i =>
      if popc 8 (tget 0 s.almErr (g i)).toNat = 1 then { s with almErr := tset 0 s.almErr (g i) 0 } else s) s).mem = s.mem :=
    foldl_keeps (P := fun t : State => t.mem = s.mem) _ rfl fun t ht i _ => by
      split
      · exact ht
      · exact ht
  unfold surveyRestore
  dsimp only
  split
  · exact (surveyLog_reports ..).mem.trans (restored _ _)
  · exact restored _ _

theorem almYield_mem (n : Nat) (s : State) : (almYield n s).mem = s.mem := by
  unfold almYield
  split
  · split
    · split
      · exact surveyRestore_almLine_mem ‹_› s
      · rfl
    · rfl
  · rfl

theorem almWrite_mem (n : Nat) (j : Job) (s : State) : (almWrite n j s).mem = s.mem :=
  foldl_keeps (P := fun t : State => t.mem = s.mem) _ rfl fun _ ht _ _ => ht

theorem almKey_ne {n a i k : Nat} (h : i < k) : almKey n (a + i) ≠ almKey n (a + k) := by
  unfold almKey
  omega

/-- Every word of an ALMANAC_LOAD is in the Almanac, without an error (R121). -/
theorem almWrite_words (n : Nat) (j : Job) (s : State) {i : Nat} (h : i < dBits j 3 0 14) :
    tlook (almWrite n j s).alm (almKey n (dBits j 2 0 13 + i)) = some (srcMicro j i) ∧
      tget 0 (almWrite n j s).almErr (almKey n (dBits j 2 0 13 + i)) = 0 := by
  unfold almWrite
  dsimp only
  generalize dBits j 3 0 14 = count at h
  induction count with
  | zero => exact absurd h (Nat.not_lt_zero i)
  | succ k ih =>
    rw [List.range_succ, List.foldl_append, List.foldl_cons, List.foldl_nil]
    obtain hlt | rfl := Nat.lt_succ_iff_lt_or_eq.mp h
    · obtain ⟨hword, herr⟩ := ih hlt
      refine ⟨(tlook_tput_other _ _ (almKey_ne hlt)).trans hword, ?_⟩
      rw [tget, tlook_terase_other _ (almKey_ne hlt)]
      exact herr
    · exact ⟨tlook_tput_same .., by simp [tget]⟩

/-- Every word of an IMAGE_LOAD is in instruction space (R341). -/
theorem imageWrite_words (n : Nat) (j : Job) (s : State) {i : Nat} (h : i < dBits j 3 0 15) :
    tget 0 (getCore (imageWrite n j s) n).imem (dBits j 2 0 14 + i) = BitVec.ofNat 32 (srcWord j 4 i) := by
  rw [imageWrite, getCore_updCore_same]
  dsimp only
  generalize dBits j 3 0 15 = count at h
  induction count with
  | zero => exact absurd h (Nat.not_lt_zero i)
  | succ k ih =>
    rw [List.range_succ, List.foldl_append, List.foldl_cons, List.foldl_nil]
    obtain hlt | rfl := Nat.lt_succ_iff_lt_or_eq.mp h
    · rw [tget_tset_other _ _ _ (by omega)]
      exact ih hlt
    · exact tget_tset_same ..

/-- The load of a sequencer that has read its source. -/
def writing (n : Nat) (j : Job) : Bool := (j.op == 5 || j.op == 6) && j.stage == 1 && jTarget j == n

/-- The state in which the words of a load are written and measured, before it completes. -/
def loadWritten (n : Nat) (j : Job) (s : State) : State :=
  if j.op = 5 then extendWith (0x10 + n) 1 (dBits j 2 0 13) (dBits j 3 0 14) j.data (almWrite n j (almYield n s))
  else
    extendWith (0x50 + n) 2 (dBits j 2 0 14) (dBits j 3 0 15) j.data
      { imageWrite n j s with imageOk := tput (imageWrite n j s).imageOk n true }

theorem execLoadWriteDone_writes {n : Fin 64} {s : State} {j : Job} (h : runningJob s (writing n) = some j) :
    execLoadWriteDone n s = .next (completeJob j.id 0 0 (loadWritten n j s)) := by
  unfold writing at h
  simp only [execLoadWriteDone, h, loadWritten, ok]
  split
  · rfl
  · rfl

theorem loadWritten_mem (n : Nat) (j : Job) (s : State) : (loadWritten n j s).mem = s.mem := by
  unfold loadWritten
  split
  · exact (almWrite_mem n j _).trans (almYield_mem n s)
  · rfl

theorem Completes.alm {s t : State} (h : Completes s t) : t.alm = s.alm := by rw [h]; rfl
theorem Completes.almErr {s t : State} (h : Completes s t) : t.almErr = s.almErr := by rw [h]; rfl
theorem Completes.imageOk {s t : State} (h : Completes s t) : t.imageOk = s.imageOk := by rw [h]; rfl
theorem Completes.getCore_eq {s t : State} (h : Completes s t) (n : Nat) : getCore t n = getCore s n := by
  unfold getCore
  rw [h.cores]

/-! ### READBACK and the word ports (R199, R607) -/

theorem execReadbackCopyDone_host {n : Fin 64} {s : State} {j : Job} {p : Part}
    (h : runningJob s (fun j => j.op == 0xD && jTarget j == n.val && decide (3 ≤ j.stage)) = some j)
    (hp : partAt s n = some p) (hj : findJob s j.id = some j) (hstage : j.stage = 4) (heng : j.eng = none)
    (hhost : dBits j 4 0 1 = 0) (isr : List (Fin 64 × Fin 16384 × Bool)) (late : BitVec 64) :
    execReadbackCopyDone n isr late s =
      .next (endReadback j 0 (snapBad j.data) (hostStore j.func (dBits j 1 0 64) j.data s)) := by
  simp [execReadbackCopyDone, h, hp, hj, hstage, heng, hhost, ok]

theorem execWpTransferEnd_ends {f : Fin 64} {s u : State} {t : WpRun} (h : wpLines f 2049 s = (some 0, u))
    (hwp : (getField u f).wp = some t) (late : BitVec 64) : execWpTransferEnd f late s =
      .next (updField f (fun x => { x with wp := none }) (if t.inward then wpFill f t u else u)) := by
  simp only [execWpTransferEnd, h, hwp, if_true, ok]

end Sys2Proof.Machine
end

section
namespace Sys2Proof.Proofs
open Sys2Proof Sys2Proof.Machine Sys2Proof.Claims

/-- Settles O36: each command by the case of its descriptor, whose bytes are all where the case asks for them. -/
theorem transfersAndLoadsEnd : Obligations.TransfersAndLoadsEnd := by
  unfold Obligations.TransfersAndLoadsEnd
  refine ⟨fun e i s j r h => ?hostRead, fun e late s j he hj => ⟨fun hop hfail hdata hpos => ?dmaIn,
      fun hop hfail hpos => ?dmaOut, fun st sd off hop hfail hoff hreads hlate => ?copy,
      fun hop hstage hfail hhost hgot => ?source⟩,
    fun n s j h => ?loadWrite,
    fun n isr late s j p h hp hj hstage heng hhost => (exec_readbackCopyDone n isr late s).trans
      (execReadbackCopyDone_host h hp hj hstage heng hhost isr late),
    fun f late s u t h hwp => (exec_wpTransferEnd f late s).trans (execWpTransferEnd_ends h hwp late)⟩
  case hostRead =>
    refine ⟨?timeout, ?unsupported, ?abort, ?poisoned, fun d hlen hop => ?data⟩
    case timeout =>
      simp only [exec_hostReadTimeout, execHostReadTimeout, h, ok]
      split
      · rfl
      · rfl
    case unsupported | abort | poisoned => simp only [exec_hostReadCompletion, execHostReadCompletion, h, ok]
    case data =>
      simp only [exec_hostReadCompletion, execHostReadCompletion, h, ok, hlen, hop, if_true, if_false]
      rfl
  case dmaIn =>
    simp only [exec_dmaTransferEnd, execDmaTransferEnd, he, hop, hfail, flush_ended hj (.inl hdata), if_true, ok,
      endMove_moved hj hfail hpos hdata]
  case dmaOut =>
    have hsent := findJob_sentData (k := j.data.length) ((findJob_congr (hostStore_reports j.func (dBits j 1 0 64 + j.pos)
      j.data s).jobs j.id).trans hj)
    simp only [exec_dmaTransferEnd, execDmaTransferEnd, he, hop, gather_ended hj (.inr (Nat.le_of_eq hpos.symm)),
      if_true, ok, sendOut, hj]
    rw [endMove_moved hsent hfail hpos (List.drop_length ..)]
  case copy =>
    subst hlate
    have hfailed : j.fail.isSome = true := by rw [hfail]; rfl
    simp only [exec_dmaTransferEnd, execDmaTransferEnd, he, hop, gather_ended hj (.inl hfailed),
      flush_ended hj (.inr ⟨st, sd, off, hfail, hoff⟩), if_true, ok,
      endMove_failed hj hfail (hop ▸ by decide) hreads, failDetail]
  case source =>
    have hexec := (exec_sourceReadDone e s).trans (execSourceReadDone_host he hop hstage hhost)
    rw [sourceIn_read hj hop hfail hgot] at hexec
    exact ⟨fun hvalid => hexec.trans (congrArg _ (almRead_valid hvalid s)),
      fun i hi hres hfirst => hexec.trans (congrArg _ (almRead_reserved hi hres hfirst s))⟩
  case loadWrite =>
    have hdone := completeJob_completes j.id 0 0 (loadWritten n j s)
    refine ⟨_, (exec_loadWriteDone n s).trans (execLoadWriteDone_writes h), (completeJob_mem ..).trans (loadWritten_mem ..),
      fun _ => findJob_completeJob .., fun hop i hi => ?_, fun hop => ?_⟩
    · rw [hdone.alm, hdone.almErr, loadWritten, if_pos hop]
      exact almWrite_words n j _ hi
    · have himage : loadWritten n j s = extendWith (0x50 + n) 2 (dBits j 2 0 14) (dBits j 3 0 15) j.data
          { imageWrite n j s with imageOk := tput (imageWrite n j s).imageOk n true } := by
        rw [loadWritten, if_neg (hop ▸ by decide)]
      refine ⟨?_, fun i hi => ?_⟩
      · rw [hdone.imageOk, himage]
        simp [extendWith, tget]
      · rw [hdone.getCore_eq, himage]
        exact imageWrite_words n j s hi

end Sys2Proof.Proofs
end

section
/-! SUPPORT. The configuration of an array from outside: SMODE of the slices, EDGE_CFG of the package edges, and the items
that RB_DATA returns (R154, R155, R184, R208, R308, R309). -/
namespace Sys2Proof.Machine
open Sys2Proof Sys2Proof.Claims

/-! ### The commands -/

theorem exec_smodeWrite (m : BitVec 8) (n : Fin 64) (v : Word) (s : State) :
    exec (.smodeWrite m n v) s = execSmodeWrite m n v s := rfl
theorem exec_edgeCfgWrite (m : BitVec 8) (n : Fin 64) (v : Word) (s : State) :
    exec (.edgeCfgWrite m n v) s = execEdgeCfgWrite m n v s := rfl
theorem exec_rbDataRead (m : BitVec 8) (n : Fin 64) (s : State) :
    exec (.rbDataRead m n) s = execRbDataRead m n s := rfl

/-- The states in which a write of the configuration acts (R155, R184). -/
theorem quiet_iff (s : State) (n : Nat) : quiet s n = true ↔
    (getSeq s n).state = .idle ∨ (getSeq s n).state = .yielded ∨ (getSeq s n).state = .trapped := by
  simp [quiet, or_assoc]

/-! ### The value a whole write leaves -/

theorem and_allBits {x : Nat} (h : x < 2 ^ 64) : x &&& allBits = x := by
  rw [allBits, Nat.and_two_pow_sub_one_eq_mod, Nat.mod_eq_of_lt h]

/-- A write of every bit replaces the value. -/
theorem replace_allBits {x v : Nat} (hx : x < 2 ^ 64) (hv : v < 2 ^ 64) : x - (x &&& allBits) + (v &&& allBits) = v := by
  rw [and_allBits hx, and_allBits hv, Nat.sub_self, Nat.zero_add]

/-- A stored register is at most the sum of its fields with every bit set. -/
theorem rawReg_le (s : State) (r : RegRow) (i j : Nat) :
    rawReg s r i j ≤ (r.flds.map fun f => (2 ^ f.2.1 - 1) * 2 ^ f.1).sum := by
  unfold rawReg
  induction r.flds with
  | nil => exact Nat.le_refl _
  | cons f l ih =>
    rw [List.map_cons, List.sum_cons, List.map_cons, List.sum_cons]
    exact Nat.add_le_add (Nat.mul_le_mul_right _ (Nat.le_sub_one_of_lt (getF_lt s (rowFld r i j f)))) ih

theorem newVal_edgeCfg (s : State) (n : Nat) {v : Nat} (hv : v < 2 ^ 64) : newVal s rowEDGE_CFG n v allBits = v :=
  replace_allBits (Nat.lt_of_le_of_lt (rawReg_le ..) (by decide)) hv

theorem modeOf_lt (y : Slice) : modeOf y < 2 ^ 64 := by
  have hrm := y.rm.isLt
  have hten := y.ten.isLt
  unfold modeOf
  omega

/-! ### SMODE (R184, R208) -/

/-- The mode a register value gives a slice (R208). -/
def withMode (v : Nat) (y : Slice) : Slice := { y with rm := BitVec.ofNat 3 v, ten := BitVec.ofNat 8 (v / 2 ^ 8) }

/-- A field of a slice keeps as many bits of a value as the register field holds. -/
theorem ofNat_bits (v lo w : Nat) : BitVec.ofNat w (bits v lo w) = BitVec.ofNat w (v / 2 ^ lo) :=
  BitVec.eq_of_toNat_eq (by simp [bits])

/-- The rounding mode of a value is above 4 in its RM field. -/
theorem rounding_bad (v n : Nat) : (decide (5 ≤ bits v 0 3) && decide (fldEn (fSMODE_RM n) allBits ≠ 0)) = true ↔
    5 ≤ v % 8 := by
  simp [fldEn_allBits, fSMODE_RM, bits]

/-- With ALL set a write of SMODE gives each slice of the partition the mode (R209). -/
theorem writeSmode_all {n v : Nat} {s : State} (hv : v < 2 ^ 64) (hquiet : quiet s n = true) (hpart : partAt s n ≠ none)
    (hall : getF s (fSLICE_SEL_ALL n) = 1) (hrm : v % 8 < 5) :
    writeSmode false n v allBits s = updPartSlices n (withMode v) s := by
  have sel : bitF s (fSLICE_SEL_ALL n) = true := (bitF_eq ..).mpr hall
  unfold writeSmode
  rw [if_neg, if_pos sel]
  · refine congrArg (updPartSlices n · s) (funext fun y => ?_)
    dsimp only
    rw [replace_allBits (modeOf_lt y) hv, ofNat_bits, ofNat_bits, Nat.pow_zero, Nat.div_one]
    rfl
  · rintro (hbusy | hbad | hnone | ⟨hone, -⟩)
    · exact hbusy hquiet
    · exact Nat.not_le.mpr hrm ((rounding_bad v n).mp hbad)
    · exact hpart (Option.isNone_iff_eq_none.mp hnone)
    · exact hone sel

/-- In another state, or with a rounding mode above 4, a write of SMODE sets MODE_REJ alone (R184, R208). -/
theorem writeSmode_rejected {n v : Nat} {s : State} (h : quiet s n ≠ true ∨ 5 ≤ v % 8) :
    writeSmode false n v allBits s = setF (fSUTOR_STAT_MODE_REJ n) 1 s := by
  unfold writeSmode
  refine if_pos ?_
  obtain hbusy | hrm := h
  · exact .inl hbusy
  · exact .inr (.inl ((rounding_bad v n).mpr hrm))

/-! ### EDGE_CFG (R154, R155) -/

/-- FABRIC is asked of a side that is not on the package edge (R154). -/
def fabricInside (s : State) (n v : Nat) : Bool :=
  (List.range 4).any fun d => bits v (2 * d) 2 == 3 && !(pkgEdges s n).testBit d

theorem edgeWhy_unassigned {s : State} {n : Nat} (h : partAt s n = none) (v : Nat) : edgeWhy s n v = 3 := by
  simp [edgeWhy, h]
theorem edgeWhy_busy {s : State} {n : Nat} (hpart : partAt s n ≠ none) (h : quiet s n ≠ true) (v : Nat) :
    edgeWhy s n v = 1 := by
  simp [edgeWhy, hpart, h]
theorem edgeWhy_quiet {s : State} {n : Nat} (hpart : partAt s n ≠ none) (h : quiet s n = true) (v : Nat) :
    edgeWhy s n v = if fabricInside s n v then 2 else 0 := by
  simp only [edgeWhy, Option.isNone_iff_eq_none, hpart, h, if_false, not_true]
  rfl

theorem writeEdgeCfg_reports (n v en : Nat) (s : State) : Reports s (writeEdgeCfg n v en s) := by
  unfold writeEdgeCfg
  dsimp only
  split
  · exact writeRow_reports ..
  · exact setFs_reports ..

/-- A refused write shows its reason. -/
theorem writeEdgeCfg_refused {n v why : Nat} {s : State} (hv : v < 2 ^ 64) (h : edgeWhy s n v = why) (hwhy : why ≠ 0)
    (hlt : why < 4) : getF (writeEdgeCfg n v allBits s) (fEDGE_STATUS_CFG_REJ n) = 1 ∧
      getF (writeEdgeCfg n v allBits s) (fEDGE_STATUS_REJ_WHY n) = why := by
  have hset : writeEdgeCfg n v allBits s = setFs [(fEDGE_STATUS_CFG_REJ n, 1), (fEDGE_STATUS_REJ_WHY n, why)] s := by
    simp only [writeEdgeCfg, newVal_edgeCfg s n hv, h, hwhy, if_false]
  have apart : ([(fEDGE_STATUS_CFG_REJ n, 1), (fEDGE_STATUS_REJ_WHY n, why)].map fun e => fldKey e.1).Nodup := by
    simp [fldKey, fEDGE_STATUS_CFG_REJ, fEDGE_STATUS_REJ_WHY]
  rw [hset]
  exact ⟨getF_setFs_of_mem apart (.head _) s,
    (getF_setFs_of_mem apart (.tail _ (.head _)) s).trans (Nat.mod_eq_of_lt hlt)⟩

theorem rowEDGE_CFG_mem : rowEDGE_CFG ∈ regRows := by decide +kernel

theorem rowFlds_edgeCfg (n : Nat) : rowFlds rowEDGE_CFG n 0 =
    [fEDGE_CFG_MODE_N n, fEDGE_CFG_MODE_E n, fEDGE_CFG_MODE_S n, fEDGE_CFG_MODE_W n, fEDGE_CFG_HALO_N n,
     fEDGE_CFG_HALO_E n, fEDGE_CFG_HALO_S n, fEDGE_CFG_HALO_W n] := rfl

/-- Each field of EDGE_CFG is RW, within the 64 bits. -/
theorem edgeCfg_fields : ∀ g ∈ rowEDGE_CFG.flds, g.2.2.1 = .rw ∧ g.1 + g.2.1 ≤ 64 := by decide

/-- A write that is not refused stores each field of EDGE_CFG. -/
theorem writeEdgeCfg_stores {n v : Nat} {s : State} (hv : v < 2 ^ 64) (h : edgeWhy s n v = 0) {f : Fld}
    (hf : f ∈ rowFlds rowEDGE_CFG n 0) : getF (writeEdgeCfg n v allBits s) f = bits v f.lo f.w := by
  obtain ⟨g, hg, rfl⟩ := List.mem_map.mp hf
  obtain ⟨hrw, hlen⟩ := edgeCfg_fields g hg
  simp only [writeEdgeCfg, newVal_edgeCfg s n hv, h, if_true]
  rw [getF_writeRow' rowEDGE_CFG_mem hf, writtenFld_rw hrw hlen (getF_lt ..)]

/-! ### RB_DATA (R308, R309) -/

/-- A read by the physical function with the core HALTED and the array stopped returns the selected item. -/
theorem rbHostRead_item {n : Nat} {s : State} (halted : masterHalted s n = true) (hkind : getF s (fRB_SEL_KIND n) ≠ 0)
    (sound : rbFault s n = false) (stopped : (getSeq s n).state ≠ .issuing ∧ (getSeq s n).state ≠ .held) :
    rbHostRead 0x80 n s = (rbItem s n (getF s (fRB_SEL_KIND n)) (getF s (fRB_SEL_FIELD n)) (getF s (fRB_SEL_SLICE n))
      (getF s (fRB_SEL_INDEX n)), s) := by
  simp [rbHostRead, halted, sound, stopped, rbWaits, hkind, rbRead]

/-- Kinds 1 to 7 select a field of the master, kinds 8 to 13 none. -/
theorem rbFault_selected {s : State} {n : Nat} (hle : getF s (fRB_SEL_KIND n) ≤ 13)
    (h : 8 ≤ getF s (fRB_SEL_KIND n) ∨ (fieldsOf s n).contains (getF s (fRB_SEL_FIELD n)) = true) :
    rbFault s n = false := by
  have hknown : ¬ 14 ≤ getF s (fRB_SEL_KIND n) := by omega
  obtain hcore | hfield := h
  · have hlater : ¬ getF s (fRB_SEL_KIND n) ≤ 7 := by omega
    simp [rbFault, hknown, hlater]
  · rw [rbFault, hfield]
    simp [hknown]

/-- A read of RB_DATA that passes, waits for no copy and returns is answered with what it read. -/
theorem execRbDataRead_answers {n : Fin 64} {s : State} {v : Nat} (pass : hostPasses s 0x80 (0x1000 * n + 0x20) = true)
    (gate : regGate 0xA8 0x80 0x80 false (0x1000 * n + 0x20) s = (0, s))
    (back : routeFailsAt s (serveNode (0x1000 * n + 0x20)) 0xA8 = none) (free : rbWaits s n = false)
    (hread : rbHostRead 0x80 n s = (v, s)) :
    execRbDataRead 0x80 n s = .next { s with answers := s.answers ++ [⟨0xA8, 0, leBytes 8 v, 0⟩] } := by
  have home : homeOf 0x80 = 0xA8 := rfl
  simp [execRbDataRead, home, pass, free, gate, hread, regAnswer_returns back, answerRead, ok]

end Sys2Proof.Machine
end

section
namespace Sys2Proof.Proofs
open Sys2Proof Sys2Proof.Machine Sys2Proof.Claims

/-- Settles O30: a write reaches its register over a free path and is decided by STATE, the partition and the value; a read
of RB_DATA changes nothing but the answers. -/
theorem arrayConfiguration : Obligations.ArrayConfiguration := by
  unfold Obligations.ArrayConfiguration
  intro m n v s
  have hv := v.isLt
  refine ⟨fun path calm hpart hall hrm => ?mode, fun path bad => ?modeRejected, fun path => ?edge,
    fun pass gate back halted hissuing hheld hlo hhi hsel => ?readback⟩
  case mode =>
    rw [exec_smodeWrite, execSmodeWrite, hostCmd_path path,
      writeSmode_all hv ((quiet_iff s n).mpr calm) hpart hall hrm]
    rfl
  case modeRejected =>
    rw [exec_smodeWrite, execSmodeWrite, hostCmd_path path, writeSmode_rejected (bad.imp_left (mt (quiet_iff s n).mp))]
  case edge =>
    have hrep := writeEdgeCfg_reports n v.toNat allBits s
    refine ⟨_, hostCmd_path path _, hrep.mem, hrep.seqs, hrep.fields, fun hnone => ?unassigned,
      fun hpart busy => ?busy, fun hpart calm hbad => ?inside, fun hpart calm hgood => ?stored⟩
    case unassigned => exact writeEdgeCfg_refused hv (edgeWhy_unassigned hnone _) (by decide) (by decide)
    case busy =>
      exact writeEdgeCfg_refused hv (edgeWhy_busy hpart (mt (quiet_iff s n).mp busy) _) (by decide) (by decide)
    case inside =>
      exact writeEdgeCfg_refused hv ((edgeWhy_quiet hpart ((quiet_iff s n).mpr calm) _).trans (if_pos hbad)) (by decide)
        (by decide)
    case stored =>
      have hfree : edgeWhy s n v.toNat = 0 := (edgeWhy_quiet hpart ((quiet_iff s n).mpr calm) _).trans
        (if_neg (Bool.not_eq_true _ ▸ hgood))
      have hstored {f : Fld} := writeEdgeCfg_stores hv hfree (f := f)
      exact ⟨hstored (by simp [rowFlds_edgeCfg]), hstored (by simp [rowFlds_edgeCfg]), hstored (by simp [rowFlds_edgeCfg]),
        hstored (by simp [rowFlds_edgeCfg]), hstored (by simp [rowFlds_edgeCfg])⟩
  case readback =>
    have hkind : getF s (fRB_SEL_KIND n) ≠ 0 := Nat.ne_of_gt hlo
    have hfree : rbWaits s n = false := by simp [rbWaits, hkind]
    exact (exec_rbDataRead 0x80 n s).trans (execRbDataRead_answers pass gate back hfree
      (rbHostRead_item halted hkind (rbFault_selected hhi hsel) ⟨hissuing, hheld⟩))

end Sys2Proof.Proofs
end

section
/-! SUPPORT. The transposers: what an update of several fields of a partition does, and what the XP codes load, queue,
exchange, reset and start (R105, R178–R181, R199). -/
namespace Sys2Proof.Machine
open Sys2Proof Sys2Proof.Claims

/-! ### The commands -/

theorem exec_xpIdle (n : Fin 64) (s : State) : exec (.xpIdle n) s = execXpIdle n s := rfl
theorem exec_wpwait (n : Fin 64) (s : State) : exec (.wpwait n) s = execWpwait n s := rfl
theorem exec_lda (n : Fin 64) (s : State) : exec (.lda n) s = execLda n s := rfl
theorem exec_ldb (n : Fin 64) (s : State) : exec (.ldb n) s = execLdb n s := rfl
theorem exec_ldab (n : Fin 64) (s : State) : exec (.ldab n) s = execLdab n s := rfl
theorem exec_step (n : Fin 64) (s : State) : exec (.step n) s = execStep n s := rfl
theorem exec_stepLda (n : Fin 64) (s : State) : exec (.stepLda n) s = execStepLda n s := rfl
theorem exec_stepLdb (n : Fin 64) (s : State) : exec (.stepLdb n) s = execStepLdb n s := rfl
theorem exec_stepLdab (n : Fin 64) (s : State) : exec (.stepLdab n) s = execStepLdab n s := rfl
theorem exec_swap (n : Fin 64) (s : State) : exec (.swap n) s = execSwap n s := rfl
theorem exec_treset (n : Fin 64) (s : State) : exec (.treset n) s = execTreset n s := rfl

/-! ### Several fields -/

@[simp] theorem getField_updSeq (n : Nat) (g : MSeq → MSeq) (s : State) (f : Nat) :
    getField (updSeq n g s) f = getField s f := rfl
@[simp] theorem getF_updSeq (n : Nat) (g : MSeq → MSeq) (s : State) (f : Fld) : getF (updSeq n g s) f = getF s f := rfl

/-- What each step of a fold keeps and one of them brings about holds at the end. -/
theorem foldl_establishes {α β : Type} {P : α → Prop} {g : α → β → α} {l : List β} {b : β} (hb : b ∈ l)
    (est : ∀ x, P (g x b)) (keeps : ∀ x, P x → ∀ c ∈ l, P (g x c)) (x : α) : P (l.foldl g x) := by
  obtain ⟨before, after, rfl⟩ := List.append_of_mem hb
  rw [List.foldl_append, List.foldl_cons]
  exact foldl_keeps _ (est _) fun y hy c hc => keeps y hy c (by simp [hc])

/-- Updates of fields change the fields alone. -/
theorem foldl_updField_frame {β : Type} (k : β → Nat) (g : β → Field → Field) (l : List β) (s : State) :
    l.foldl (fun s b => updField (k b) (g b) s) s =
      { s with fields := (l.foldl (fun s b => updField (k b) (g b) s) s).fields } :=
  foldl_keeps (P := fun t : State => t = { s with fields := t.fields }) l rfl fun t ht _ _ => by
    rw [ht]
    rfl

@[simp] theorem getSeq_foldl_updField {β : Type} (k : β → Nat) (g : β → Field → Field) (l : List β) (s : State) (n : Nat) :
    getSeq (l.foldl (fun s b => updField (k b) (g b) s) s) n = getSeq s n := by
  rw [foldl_updField_frame]
  rfl
@[simp] theorem foldl_updField_mem {β : Type} (k : β → Nat) (g : β → Field → Field) (l : List β) (s : State) :
    (l.foldl (fun s b => updField (k b) (g b) s) s).mem = s.mem := by rw [foldl_updField_frame]
@[simp] theorem foldl_updField_regs {β : Type} (k : β → Nat) (g : β → Field → Field) (l : List β) (s : State) :
    (l.foldl (fun s b => updField (k b) (g b) s) s).regs = s.regs := by rw [foldl_updField_frame]

/-- A property of field f that an update keeps where it is the update of f. -/
theorem getField_updField_keeps {Q : Field → Prop} {k f : Nat} {g : Field → Field} {s : State}
    (h : Q (getField s f)) (hg : Q (getField s f) → Q (g (getField s f))) : Q (getField (updField k g s) f) := by
  by_cases hf : f = k
  · rw [← hf, getField_updField_same]
    exact hg h
  · rw [getField_updField_other g s hf]
    exact h

/-- Among updates of different fields, each acts on its own field. -/
theorem getField_foldl_updField_own {β : Type} {k : β → Nat} (g : β → Field → Field) {l : List β}
    (apart : (l.map k).Nodup) {b : β} (hb : b ∈ l) (s : State) :
    getField (l.foldl (fun s b => updField (k b) (g b) s) s) (k b) = g b (getField s (k b)) := by
  induction l generalizing s with
  | nil => cases hb
  | cons c l ih =>
    obtain ⟨hc, apart⟩ := List.nodup_cons.mp apart
    rw [List.foldl_cons]
    rcases List.mem_cons.mp hb with rfl | hb
    · refine foldl_keeps (P := fun t => getField t (k b) = g b (getField s (k b))) l (getField_updField_same ..)
        fun t ht d hd => ?_
      rw [getField_updField_other _ _ fun e : k b = k d => hc (e ▸ List.mem_map_of_mem hd), ht]
    · rw [ih apart hb, getField_updField_other _ _ fun e : k b = k c => hc (e ▸ List.mem_map_of_mem hb)]

/-! ### The fields of a partition that have not executed a null word (R105) -/

theorem updLive_frame (n : Nat) (idle : List Nat) (g : Field → Field) (s : State) :
    updLive n idle g s = { s with fields := (updLive n idle g s).fields } :=
  foldl_updField_frame (fun f => f) (fun _ => g) _ s

@[simp] theorem getSeq_updLive (n : Nat) (idle : List Nat) (g : Field → Field) (s : State) (k : Nat) :
    getSeq (updLive n idle g s) k = getSeq s k := by
  rw [updLive_frame]
  rfl
@[simp] theorem updLive_mem (n : Nat) (idle : List Nat) (g : Field → Field) (s : State) :
    (updLive n idle g s).mem = s.mem := by rw [updLive_frame]
@[simp] theorem updLive_regs (n : Nat) (idle : List Nat) (g : Field → Field) (s : State) :
    (updLive n idle g s).regs = s.regs := by rw [updLive_frame]
@[simp] theorem updLive_cores (n : Nat) (idle : List Nat) (g : Field → Field) (s : State) :
    (updLive n idle g s).cores = s.cores := by rw [updLive_frame]

theorem updLive_keeps {Q : Field → Prop} {g : Field → Field} (hg : ∀ x, Q x → Q (g x)) (n : Nat) (idle : List Nat)
    {s : State} {f : Nat} (h : Q (getField s f)) : Q (getField (updLive n idle g s) f) :=
  foldl_keeps (P := fun t => Q (getField t f)) _ h fun _ ht _ _ => getField_updField_keeps ht (hg _)

theorem updLive_establishes {Q : Field → Prop} {g : Field → Field} (hg : ∀ x, Q (g x)) {n : Nat} {idle : List Nat}
    {s : State} {f : Nat} (hf : f ∈ fieldsOf s n) (hidle : f ∉ idle) : Q (getField (updLive n idle g s) f) :=
  foldl_establishes (P := fun t => Q (getField t f)) (b := f) (by simp [hf, hidle])
    (fun x => by rw [getField_updField_same]; exact hg _)
    (fun _ ht _ _ => getField_updField_keeps ht fun _ => hg _) s

/-- An update of every slice of a field. -/
def eachSlice (g : Slice → Slice) (x : Field) : Field :=
  (List.range 256).foldl (fun x sl => setSlice sl (g (getSlice x sl)) x) x

theorem eachSlice_frame (g : Slice → Slice) (x : Field) : eachSlice g x = { x with slices := (eachSlice g x).slices } :=
  foldl_keeps (P := fun y : Field => y = { x with slices := y.slices }) _ rfl fun y hy _ _ => by
    rw [hy]
    rfl

theorem updLiveSlices_eq (n : Nat) (idle : List Nat) (g : Slice → Slice) (s : State) :
    updLiveSlices n idle g s = updLive n idle (eachSlice g) s := rfl

/-- What does not depend on the slices of a field is as it was after an update of slices. -/
theorem updLiveSlices_keeps {Q : Field → Prop} (hQ : ∀ x l, Q x → Q { x with slices := l }) (n : Nat) (idle : List Nat)
    (g : Slice → Slice) {s : State} {f : Nat} (h : Q (getField s f)) :
    Q (getField (updLiveSlices n idle g s) f) := by
  rw [updLiveSlices_eq]
  refine updLive_keeps (fun x hx => ?_) n idle h
  rw [eachSlice_frame]
  exact hQ x _ hx

/-! ### Loads (R178) -/

/-- LDA loads the row read as A, or overflows. -/
theorem xpLoad_lda {x : XpWord} (h : x.xp = 1) (n : Nat) (s : State) : xpLoad n x s =
    if (getSeq s n).fra < 64 then updSeq n (fun q => { q with fra := q.fra + 1, loaded := true })
      (x.rowA.foldl (fun t e => updField e.1 (loadA (getSeq s n).bank (getSeq s n).fra e.2) t) s)
    else setF (fSUTOR_STAT_LD_OVF n) 1 s := by
  simp [xpLoad, xpLoadsA, xpLoadsB, h]

/-- LDB loads the row read as B, or overflows. -/
theorem xpLoad_ldb {x : XpWord} (h : x.xp = 2) (n : Nat) (s : State) : xpLoad n x s =
    if (getSeq s n).frb < 64 then updSeq n (fun q => { q with frb := q.frb + 1, loaded := true })
      (x.rowB.foldl (fun t e => updField e.1 (loadB (getSeq s n).bank (getSeq s n).frb e.2) t) s)
    else setF (fSUTOR_STAT_LD_OVF n) 1 s := by
  simp [xpLoad, xpLoadsA, xpLoadsB, h]

/-- LDAB below both ends loads both rows. -/
theorem xpLoad_ldab {x : XpWord} (h : x.xp = 3) {n : Nat} {s : State} (ha : (getSeq s n).fra < 64)
    (hb : (getSeq s n).frb < 64) : xpLoad n x s = updSeq n (fun q => { q with frb := q.frb + 1, loaded := true })
      (x.rowB.foldl (fun t e => updField e.1 (loadB (getSeq s n).bank (getSeq s n).frb e.2) t)
        (updSeq n (fun q => { q with fra := q.fra + 1, loaded := true })
          (x.rowA.foldl (fun t e => updField e.1 (loadA (getSeq s n).bank (getSeq s n).fra e.2) t) s))) := by
  simp [xpLoad, xpLoadsA, xpLoadsB, h, ha, hb]

theorem getSeq_xpLoad_ldab {x : XpWord} (h : x.xp = 3) {n : Nat} {s : State} (ha : (getSeq s n).fra < 64)
    (hb : (getSeq s n).frb < 64) : getSeq (xpLoad n x s) n =
      { getSeq s n with fra := (getSeq s n).fra + 1, frb := (getSeq s n).frb + 1, loaded := true } := by
  simp [xpLoad_ldab h ha hb]
theorem xpLoad_ldab_frame {x : XpWord} (h : x.xp = 3) {n : Nat} {s : State} (ha : (getSeq s n).fra < 64)
    (hb : (getSeq s n).frb < 64) : (xpLoad n x s).mem = s.mem ∧ (xpLoad n x s).regs = s.regs := by
  simp [xpLoad_ldab h ha hb]

/-! ### STEP (R179) -/

/-- The word-time that STEP captures of a field. -/
def captured (n : Nat) (s : State) (f : Field) : WordTime :=
  let q := getSeq s n
  ⟨q.lp, packOf (getF s (fSCMD_OP n)) (getF s (fSCMD_FMT n)) (getF s (fSCMD_SFMT n)), getF s (fSCMD_OP n),
    getF s (fSCMD_FMT n), getF s (fSCMD_SFMT n), bitF s (fSCMD_SGN n), bitF s (fSCMD_ASEL n), bitF s (fSCMD_DST n),
    compA f q.bank, compB f q.bank⟩

/-- Below lane 64 STEP queues the word-time and advances LP; nothing is exchanged. -/
theorem xpStepWord_below {n : Nat} {s : State} (h : (getSeq s n).lp < 64) (x : XpWord) : xpStepWord n x s =
    updSeq n (fun q => { q with
        lp := q.lp + packOf (getF s (fSCMD_OP n)) (getF s (fSCMD_FMT n)) (getF s (fSCMD_SFMT n)), pend := true })
      (x.rowA.foldl (fun t e => updField e.1 (fun f => { f with wq := f.wq ++ [captured n s f] }) t) s) := by
  have hnone : ¬ ((getSeq s n).lp = 64 ∧ (getSeq s n).loaded = true) := fun c => absurd c.1 (Nat.ne_of_lt h)
  simp only [xpStepWord, hnone, h, if_true, if_false]
  rfl

theorem getSeq_xpStepWord_below {n : Nat} {s : State} (h : (getSeq s n).lp < 64) (x : XpWord) :
    getSeq (xpStepWord n x s) n = { getSeq s n with
      lp := (getSeq s n).lp + packOf (getF s (fSCMD_OP n)) (getF s (fSCMD_FMT n)) (getF s (fSCMD_SFMT n)),
      pend := true } := by
  simp [xpStepWord_below h]
theorem xpStepWord_below_frame {n : Nat} {s : State} (h : (getSeq s n).lp < 64) (x : XpWord) :
    (xpStepWord n x s).mem = s.mem ∧ (xpStepWord n x s).regs = s.regs := by
  simp [xpStepWord_below h]

/-- Where the word reads A in field f alone, f's queue takes the word-time. -/
theorem wq_xpStepWord_below {n : Nat} {s : State} (h : (getSeq s n).lp < 64) {x : XpWord} {f : Nat} {v : Plane}
    (hrow : x.rowA = [(f, v)]) :
    (getField (xpStepWord n x s) f).wq = (getField s f).wq ++ [captured n s (getField s f)] := by
  simp [xpStepWord_below h, hrow]

/-! ### The exchange and TRESET (R180, R181) -/

theorem fillA_clearBank (bank : Bool) (x : Field) : fillA (clearBank bank x) bank = [] := by
  cases bank <;> rfl

/-- The exchange clears the bank it makes the fill bank, in every field that is not idle. -/
theorem fillA_exchange {n : Nat} {idle : List Nat} {s : State} {f : Nat} (hf : f ∈ fieldsOf s n) (hidle : f ∉ idle) :
    fillA (getField (exchange n idle s) f) (!(getSeq s n).bank) = [] :=
  updLive_establishes (Q := fun x => fillA x (!(getSeq s n).bank) = []) (fillA_clearBank _) hf hidle

theorem getSeq_exchange (n : Nat) (idle : List Nat) (s : State) : getSeq (exchange n idle s) n =
    { getSeq s n with bank := !(getSeq s n).bank, fra := 0, frb := 0, lp := 0, loaded := false } := by
  simp [exchange]
theorem exchange_frame (n : Nat) (idle : List Nat) (s : State) :
    (exchange n idle s).mem = s.mem ∧ (exchange n idle s).regs = s.regs := by
  simp [exchange]

/-- TRESET clears both banks of a field. -/
def clearBanks (x : Field) : Field := { x with ta0 := [], ta1 := [], tb0 := [], tb1 := [] }

/-- A field without transposer rows whose work queue is wq. -/
def Cleared (wq : List WordTime) (x : Field) : Prop :=
  x.ta0 = [] ∧ x.ta1 = [] ∧ x.tb0 = [] ∧ x.tb1 = [] ∧ x.wq = wq

theorem transposerReset_cleared {n : Nat} {idle : List Nat} {s : State} {f : Nat} (hf : f ∈ fieldsOf s n)
    (hidle : f ∉ idle) (drains : Bool) :
    Cleared (getField s f).wq (getField (transposerReset n idle drains s) f) := by
  have hbanks : Cleared (getField s f).wq (getField (updLive n idle clearBanks s) f) := by
    obtain ⟨ha0, ha1, hb0, hb1⟩ := updLive_establishes (g := clearBanks)
      (Q := fun x => x.ta0 = [] ∧ x.ta1 = [] ∧ x.tb0 = [] ∧ x.tb1 = []) (fun _ => ⟨rfl, rfl, rfl, rfl⟩) hf hidle
    have hwq := updLive_keeps (g := clearBanks) (Q := fun x => x.wq = (getField s f).wq) (fun _ h => h) n idle rfl
    exact ⟨ha0, ha1, hb0, hb1, hwq⟩
  exact updLiveSlices_keeps (Q := Cleared (getField s f).wq) (fun _ _ h => h) n idle _ hbanks

theorem getSeq_transposerReset (n : Nat) (idle : List Nat) (drains : Bool) (s : State) :
    getSeq (transposerReset n idle drains s) n = { getSeq s n with
      fra := 0, frb := 0, lp := 64, opt := b2n drains, loaded := false, undrained := none } := by
  simp [transposerReset, updLiveSlices_eq]
theorem transposerReset_frame (n : Nat) (idle : List Nat) (drains : Bool) (s : State) :
    (transposerReset n idle drains s).mem = s.mem ∧ (transposerReset n idle drains s).regs = s.regs := by
  simp [transposerReset, updLiveSlices_eq]

/-! ### WPGO (R199) -/

/-- A partition of at most eight columns lists no field twice (R33, R36). -/
theorem fieldsOf_nodup {n : Nat} {s : State} (h : ∀ p, partAt s n = some p → p.wlog ≤ 3) : (fieldsOf s n).Nodup := by
  unfold fieldsOf
  cases hp : partAt s n with
  | none => exact List.nodup_nil
  | some p =>
    have hcols : 2 ^ p.wlog ≤ 8 := Nat.pow_le_pow_right (n := 2) (by decide) (h p hp)
    refine List.Pairwise.filter _ (List.pairwise_flatMap.mpr ⟨fun r _ => ?row, ?rows⟩)
    case row => exact List.Pairwise.map _ (fun a b hne => by omega) List.nodup_range
    case rows =>
      refine List.nodup_range.imp fun {a b} hne f hf g hg => ?_
      obtain ⟨i, hi, rfl⟩ := List.mem_map.mp hf
      obtain ⟨j, hj, rfl⟩ := List.mem_map.mp hg
      have hi : i < 2 ^ p.wlog := List.mem_range.mp hi
      have hj : j < 2 ^ p.wlog := List.mem_range.mp hj
      omega

/-- The transfer that WPGO starts in the field of rank r. -/
def wpStarted (n : Nat) (s : State) (r : Nat) : WpRun :=
  ⟨n, bitF s (fWP_CMD_DIR n), bitF s (fWP_CMD_SRC n), 2 ^ getF s (fWP_CMD_ESIZE n),
    64 * (getF s (fWP_ADDR_ADDR n) + r * getF s (fWP_CMD_FSTRIDE n)), (getSeq s n).bank, 0, []⟩

/-- The transfers of WPGO, in the fields that are not idle. -/
def wpStart (n : Nat) (idle : List Nat) (s : State) : State :=
  ((List.range (fieldsOf s n).length).filter fun r => !idle.contains ((fieldsOf s n).getD r 0)).foldl (fun t r =>
      updField ((fieldsOf s n).getD r 0) (fun f => { f with wp := some (wpStarted n s r) }) t) s

theorem exec_wpgo (n : Fin 64) (s : State) : exec (.wpgo n) s = xpAct 11 n (fun x s => wpStart n x.idle s) s := rfl

theorem ranks_nodup {l : List Nat} (h : l.Nodup) (p : Nat → Bool) :
    (((List.range l.length).filter p).map (l.getD · 0)).Nodup := by
  have hall : (List.range l.length).map (l.getD · 0) = l :=
    List.ext_getElem (by simp) fun i h1 h2 => by simp [List.getD, h2]
  exact (hall ▸ h).sublist (List.filter_sublist.map _)

theorem wp_wpStart {n : Nat} {idle : List Nat} {s : State} (apart : (fieldsOf s n).Nodup) {r : Nat}
    (hr : r < (fieldsOf s n).length) (hidle : (fieldsOf s n).getD r 0 ∉ idle) :
    (getField (wpStart n idle s) ((fieldsOf s n).getD r 0)).wp = some (wpStarted n s r) := by
  have own := getField_foldl_updField_own (fun r f => { f with wp := some (wpStarted n s r) })
    (ranks_nodup apart fun r => !idle.contains ((fieldsOf s n).getD r 0)) (b := r)
      (List.mem_filter.mpr ⟨List.mem_range.mpr hr, by simpa using hidle⟩) s
  exact congrArg Field.wp own

theorem wpStart_frame (n : Nat) (idle : List Nat) (s : State) :
    (wpStart n idle s).mem = s.mem ∧ (wpStart n idle s).regs = s.regs := by
  simp [wpStart]

end Sys2Proof.Machine
end

section
namespace Sys2Proof.Proofs
open Sys2Proof Sys2Proof.Machine Sys2Proof.Claims

/-- Settles O24: the word's own command takes it, and each transposer operation is an update of fields beside one of the
pointers. -/
theorem transposerWords : Obligations.TransposerWords := by
  unfold Obligations.TransposerWords
  intro n s x hxp q u
  have hq : getSeq u n = { q with xp := none } := getSeq_updSeq_same ..
  refine ⟨fun h => (exec_xpIdle n s).trans (xpAct_acts hxp h), fun h => (exec_wpwait n s).trans (xpAct_acts hxp h),
    fun h => ?lda, fun h => ?ldb,
    fun h ha hb => ⟨xpLoad n x u, (exec_ldab n s).trans (xpAct_acts hxp h), ?ldab⟩,
    fun h hlp => ⟨xpStepWord n x u, (exec_step n s).trans (xpAct_acts hxp h), ?step⟩,
    fun h => (exec_stepLda n s).trans (xpAct_acts hxp h), fun h => (exec_stepLdb n s).trans (xpAct_acts hxp h),
    fun h => (exec_stepLdab n s).trans (xpAct_acts hxp h),
    fun h => ⟨exchange n x.idle u, (exec_swap n s).trans (xpAct_acts hxp h), ?swap⟩,
    fun h => ⟨transposerReset n x.idle x.drains u, (exec_treset n s).trans (xpAct_acts hxp h), ?treset⟩,
    fun h hcols => ⟨wpStart n x.idle u, (exec_wpgo n s).trans (xpAct_acts hxp h), ?wpgo⟩⟩
  case lda =>
    refine (exec_lda n s).trans ((xpAct_acts hxp h).trans (congrArg _ ?_))
    rw [xpLoad_lda h, ← xpTaken, hq]
  case ldb =>
    refine (exec_ldb n s).trans ((xpAct_acts hxp h).trans (congrArg _ ?_))
    rw [xpLoad_ldb h, ← xpTaken, hq]
  case ldab =>
    have ha' : (getSeq u n).fra < 64 := hq ▸ ha
    have hb' : (getSeq u n).frb < 64 := hq ▸ hb
    rw [getSeq_xpLoad_ldab h ha' hb', hq]
    exact ⟨rfl, rfl, rfl, xpLoad_ldab_frame h ha' hb'⟩
  case step =>
    have hlp' : (getSeq u n).lp < 64 := hq ▸ hlp
    obtain ⟨hmem, hregs⟩ := xpStepWord_below_frame hlp' x
    rw [getSeq_xpStepWord_below hlp', hq]
    exact ⟨rfl, rfl, rfl, hmem, hregs, fun f v hrow =>
      (congrArg List.length (wq_xpStepWord_below hlp' hrow)).trans List.length_append⟩
  case swap =>
    have hbank : (getSeq u n).bank = q.bank := by rw [hq]
    rw [getSeq_exchange, hbank]
    exact ⟨rfl, rfl, rfl, rfl, fun f hf hidle => hbank ▸ fillA_exchange hf hidle, exchange_frame ..⟩
  case treset =>
    rw [getSeq_transposerReset]
    exact ⟨rfl, rfl, rfl, rfl, fun f hf hidle => transposerReset_cleared (s := u) hf hidle x.drains,
      transposerReset_frame ..⟩
  case wpgo =>
    have hrun (r : Nat) : wpStarted n u r = wpStarted n s r := by rw [wpStarted, hq]; rfl
    exact ⟨fun r hr hidle => (wp_wpStart (s := u) (fieldsOf_nodup hcols) hr hidle).trans (congrArg some (hrun r)),
      wpStart_frame ..⟩

end Sys2Proof.Proofs
end

section
/-! SUPPORT. The commit and the completions: what COMMIT leaves, and what a word-time with or without a failed check does
to its slice (R189, R194, R210, R544). -/
namespace Sys2Proof.Machine
open Sys2Proof Sys2Proof.Claims

/-! ### The commands -/

theorem exec_commit (n : Fin 64) (s : State) : exec (.commit n) s = execCommit n s := rfl
theorem exec_wordTimeComplete (f : Fin 64) (sl : Fin 256) (fail : Option SliceFail) (s : State) :
    exec (.wordTimeComplete f sl fail) s = execWordTimeComplete f sl fail s := rfl
theorem exec_divideComplete (f : Fin 64) (sl : Fin 256) (d : Fin 4) (s : State) :
    exec (.divideComplete f sl d) s = execDivideComplete f sl d s := rfl

/-! ### COMMIT (R194) -/

/-- The OR of the lane flags that the group holds in the fields that are not idle (R210). -/
def liveFlags (n : Nat) (idle : List Nat) (s : State) : Flags :=
  ((fieldsOf s n).filter fun f => !idle.contains f).foldl (fun acc f =>
    (getField s f).slices.foldl (fun acc e => acc ||| orFlags e.2) acc) 0

/-- What COMMIT leaves of the group that was pending in s. -/
structure Commits (n : Nat) (idle : List Nat) (s t : State) : Prop where
  pend : (getSeq t n).pend = false
  wq : ∀ f ∈ fieldsOf s n, f ∉ idle → (getField t f).wq = []
  sticky : getF t (fSFLAGS_STICKY n) =
    (getF s (fSFLAGS_STICKY n) ||| (liveFlags n idle s).toNat) % 2 ^ (fSFLAGS_STICKY n).w
  mem : t.mem = s.mem
  cores : t.cores = s.cores

/-- A store to another field of the registers keeps what COMMIT leaves. -/
theorem Commits.setF_other {n : Nat} {idle : List Nat} {s t : State} (h : Commits n idle s t) {f : Fld}
    (hf : fldKey (fSFLAGS_STICKY n) ≠ fldKey f) (v : Nat) : Commits n idle s (setF f v t) where
  pend := h.pend
  wq := h.wq
  sticky := (getF_setF_other v t hf).trans h.sticky
  mem := h.mem
  cores := h.cores

/-- The updates of a commit, whatever else they do to slices and to the micro-sequencer. -/
theorem commits_of_updates {n : Nat} {a : MSeq → MSeq} (hpend : ∀ q, (a q).pend = false) (g : Slice → Slice)
    (idle : List Nat) (s : State) : Commits n idle s
      (setF (fSFLAGS_STICKY n) (getF s (fSFLAGS_STICKY n) ||| (liveFlags n idle s).toNat)
        (updSeq n a (updLiveSlices n idle g (updLive n idle (fun x => { x with wq := [] }) s)))) where
  pend := (congrArg MSeq.pend (getSeq_updSeq_same ..)).trans (hpend _)
  wq f hf hidle := updLiveSlices_keeps (Q := fun x => x.wq = []) (fun _ _ h => h) n idle g
    (updLive_establishes (Q := fun x => x.wq = []) (g := fun x => { x with wq := [] }) (fun _ => rfl) hf hidle)
  sticky := getF_setF_same ..
  mem := by simp [updLiveSlices_eq]
  cores := by simp [updLiveSlices_eq]

theorem commitGroup_commits (n : Nat) (idle : List Nat) (drains : Bool) (s : State) :
    Commits n idle s (commitGroup n idle drains s) := by
  unfold commitGroup
  dsimp only
  rw [getF_updSeq, getF_congr (s := s) _ (by simp [updLiveSlices_eq])]
  split
  case isTrue =>
    exact (commits_of_updates (fun _ => rfl) ..).setF_other
      (by simp only [fldKey, fSFLAGS_STICKY, fSUTOR_STAT_TO_LOST]; omega) 1
  case isFalse => exact commits_of_updates (fun _ => rfl) ..

/-! ### Completions (R189, R544) -/

@[simp] theorem getSlice_updSlice_same (f sl : Nat) (g : Slice → Slice) (s : State) :
    getSlice (getField (updSlice f sl g s) f) sl = g (getSlice (getField s f) sl) := by
  simp [updSlice, getSlice, setSlice]

@[simp] theorem updSlice_mem (f sl : Nat) (g : Slice → Slice) (s : State) : (updSlice f sl g s).mem = s.mem := rfl

/-- Lane results leave the word-times in the pipe. -/
theorem pipe_putResults (rs : List LaneResult) (y : Slice) : (putResults rs y).1.pipe = y.pipe := by
  unfold putResults
  refine foldl_keeps (P := fun p : Slice × List Nat => p.1.pipe = y.pipe) rs ?_ fun p hp r _ => ?_
  · dsimp only
    split <;> rfl
  · obtain ⟨z, marks⟩ := p
    rw [← hp]
    dsimp only
    cases r.value with
    | none => rfl
    | some v => cases r.toShadow <;> cases r.asel <;> rfl

/-- Results that mark no PE are those of the slice. -/
theorem deliver_unmarked (f sl : Nat) (rs : List LaneResult) (s : State) : deliver f sl rs false s =
    updSlice f sl (fun _ => (putResults rs (getSlice (getField s f) sl)).1) s := rfl

/-- A failed check marks its slice beside what SUTOR_RES reports. -/
theorem sliceFail_marks (n f sl : Nat) (e : SliceFail) (s : State) : ∃ u, Reports s u ∧
    sliceFail n f sl e s = updSlice f sl (fun y => { y with mark := true }) u := by
  refine ⟨_, Reports.trans (t := satF (fSUTOR_RES_CNT n) 1 s) (setF_reports ..) ?_, rfl⟩
  split
  · exact setF_reports ..
  · exact setFs_reports ..

theorem getSlice_sliceFail (n f sl : Nat) (e : SliceFail) (s : State) :
    getSlice (getField (sliceFail n f sl e s) f) sl = { getSlice (getField s f) sl with mark := true } := by
  obtain ⟨u, hreports, hmark⟩ := sliceFail_marks n f sl e s
  rw [hmark, getSlice_updSlice_same, getField, hreports.fields]
  rfl

theorem sliceFail_mem (n f sl : Nat) (e : SliceFail) (s : State) : (sliceFail n f sl e s).mem = s.mem := by
  obtain ⟨u, hreports, hmark⟩ := sliceFail_marks n f sl e s
  rw [hmark, updSlice_mem, hreports.mem]

/-- The oldest word-time of a slice, taken from the pipe and written without a mark of f7. -/
def takenUnmarked (f sl : Nat) (rs : List LaneResult) (l : List (List LaneResult)) (s : State) : State :=
  deliver f sl rs false (updSlice f sl (fun y => { y with pipe := l }) s)

theorem pipe_takenUnmarked (f sl : Nat) (rs : List LaneResult) (l : List (List LaneResult)) (s : State) :
    (getSlice (getField (takenUnmarked f sl rs l s) f) sl).pipe = l := by
  rw [takenUnmarked, deliver_unmarked, getSlice_updSlice_same, pipe_putResults, getSlice_updSlice_same]

/-- A word-time that failed its check is taken and its slice marked. -/
theorem execWordTimeComplete_failed {f : Fin 64} {sl : Fin 256} {s : State} {rs : List LaneResult}
    {l : List (List LaneResult)} (h : (getSlice (getField s f) sl).pipe = rs :: l) (e : SliceFail) :
    execWordTimeComplete f sl (some e) s =
      .next (sliceFail (((partOf (takenUnmarked f sl rs l s) f).map (·.1)).getD f) f sl e
        (takenUnmarked f sl rs l s)) := by
  rw [execWordTimeComplete, h]
  rfl

end Sys2Proof.Machine
end

section
namespace Sys2Proof.Proofs
open Sys2Proof Sys2Proof.Machine Sys2Proof.Claims

/-- Settles O25: COMMIT leaves its group concluded, and each completion delivers what its slice has begun. -/
theorem commitAndCompletion : Obligations.CommitAndCompletion := by
  unfold Obligations.CommitAndCompletion
  refine ⟨fun n s x hxp h => ?commit, fun f sl s rs l hpipe => ⟨?complete, fun e => ?failed⟩,
    fun f sl d s j hj => ?divide⟩
  case commit =>
    obtain ⟨hpend, hwq, hsticky, hmem, hcores⟩ := commitGroup_commits n x.idle x.drains (xpTaken n s)
    exact ⟨commitGroup n x.idle x.drains (xpTaken n s), (exec_commit n s).trans (xpAct_acts hxp h), hpend, hwq, hsticky,
      hmem, hcores⟩
  case complete =>
    rw [exec_wordTimeComplete, execWordTimeComplete, hpipe]
    rfl
  case failed =>
    refine ⟨_, (exec_wordTimeComplete ..).trans (execWordTimeComplete_failed hpipe e), ?_, ?_, sliceFail_mem ..⟩
    · rw [getSlice_sliceFail]
    · rw [getSlice_sliceFail, pipe_takenUnmarked]
  case divide =>
    rw [exec_divideComplete, execDivideComplete, hj]
    rfl

end Sys2Proof.Proofs
end

section
/-! SUPPORT. The Sutor unit: each one-pass operation begins its word-time with its own results, and a divide queues its
lanes (R187–R190). -/
namespace Sys2Proof.Machine
open Sys2Proof Sys2Proof.Claims

/-- What an update makes of its slice alone counts. -/
theorem updSlice_congr {f sl : Nat} {g h : Slice → Slice} {s : State}
    (e : g (getSlice (getField s f) sl) = h (getSlice (getField s f) sl)) : updSlice f sl g s = updSlice f sl h s := by
  simp only [updSlice, updField, e]

/-- The results of the lanes of a word-time of operation `op` in a slice. -/
def laneResults (op : Nat) (wt : WordTime) (sl : Nat) (y : Slice) : List LaneResult :=
  (wtLanes wt).map fun l =>
    let r := sutorOp op wt.fmt wt.sfmt wt.sgn y.rm.toNat (laneWord wt.ta sl l) (laneWord wt.tb sl l)
      (accOperand y wt.asel l)
    ⟨l, wt.dst, wt.asel, r.1, r.2⟩

/-- No lane of a word-time is in the pipe where each lane there lies outside it (R189). -/
theorem wtLanes_free {wt : WordTime} {pipe : List (List LaneResult)}
    (h : ∀ rs ∈ pipe, ∀ r ∈ rs, r.lane < wt.lane0 ∨ wt.lane0 + wt.k ≤ r.lane) :
    ((wtLanes wt).any fun l => pipe.any fun rs => rs.any fun r => r.lane == l) = false := by
  simp only [wtLanes, List.any_eq_false, List.any_eq_true, beq_iff_eq, List.mem_map, List.mem_range, not_exists, not_and]
  rintro _ ⟨i, hi, rfl⟩ rs hrs r hr hlane
  have := h rs hrs r hr
  omega

/-- The next word-time begins where it is of the operation, no divide waits and its lanes are free (R189). -/
theorem beginWordTime_begins {op f sl : Nat} {s : State} {wt : WordTime} (h : nextWordTime s f sl = some wt)
    (hop : wt.op = op) (hdiv : (getSlice (getField s f) sl).divq = [])
    (hfree : ∀ rs ∈ (getSlice (getField s f) sl).pipe, ∀ r ∈ rs, r.lane < wt.lane0 ∨ wt.lane0 + wt.k ≤ r.lane) :
    beginWordTime op f sl s = updSlice f sl (fun y => { y with
      head := y.head + 1, pipe := y.pipe ++ [laneResults op wt sl y] }) s := by
  simp only [beginWordTime, h, hop, hdiv, wtLanes_free hfree, ne_eq, not_true_eq_false, List.isEmpty_nil, Bool.not_true,
    Bool.false_eq_true, or_self, if_false]
  exact updSlice_congr rfl

/-- A word-time of a divide queues its lanes (R190). -/
theorem beginDivide_begins {op f sl : Nat} {s : State} {wt : WordTime} (h : nextWordTime s f sl = some wt)
    (hop : wt.op = op) : beginDivide op f sl s = updSlice f sl (fun y => { y with
      head := y.head + 1
      divq := y.divq ++ (wtLanes wt).map fun l => ⟨(getSlice (getField s f) sl).head, l, laneWord wt.ta sl l,
        laneWord wt.tb sl l, op == 0x13, wt.fmt, wt.sgn, wt.asel, wt.dst⟩ }) s := by
  simp only [beginDivide, h, hop, ne_eq, not_true_eq_false, if_false]

/-- Each command of the table begins a word-time of its own operation. -/
theorem exec_sutorTable : ∀ e ∈ sutorTable, (fun (f : Fin 64) (sl : Fin 256) (s : State) => exec (e.1 f sl) s) =
    fun f sl s => .next (beginWordTime e.2.1 f sl s) :=
  List.map_inj_left.mp rfl

/-- The value and flags of each operation of the table are those of its code. -/
theorem sutorOp_sutorTable : ∀ e ∈ sutorTable, ∀ (f sf : Nat) (sg : Bool) (rm : Nat) (a b c : Word),
    e.2.2 f sf sg rm a b c = sutorOp e.2.1 f sf sg rm a b c := by
  simp only [sutorTable, List.forall_mem_cons, List.not_mem_nil, false_implies, implies_true, and_true]
  simp only [sutorOp, Int.min_def, Int.max_def, implies_true, and_self]

end Sys2Proof.Machine
end

section
namespace Sys2Proof.Proofs
open Sys2Proof Sys2Proof.Machine Sys2Proof.Claims

/-- Settles O26: each command begins a word-time of its own operation, whose results are those of the table. -/
theorem sutorWordTimes : Obligations.SutorWordTimes := by
  unfold Obligations.SutorWordTimes
  refine ⟨fun e he f sl s wt hwt hop hdiv hfree => ?onePass, fun e he f sl s wt hwt hop => ?divide⟩
  case onePass =>
    have hexec : exec (e.1 f sl) s = .next (beginWordTime e.2.1 f sl s) :=
      congrFun (congrFun (congrFun (exec_sutorTable e he) f) sl) s
    rw [hexec, beginWordTime_begins hwt hop hdiv hfree]
    simp only [sutorOp_sutorTable e he, laneResults]
  case divide =>
    have hexec : exec (e.1 f sl) s = .next (beginDivide e.2 f sl s) := by
      simp only [List.mem_cons, List.not_mem_nil, or_false] at he
      obtain rfl | rfl := he
      · rfl
      · rfl
    rw [hexec, beginDivide_begins hwt hop]

end Sys2Proof.Proofs
end

section
/-! SUPPORT. The reset state: what each table reads as (R17, R106, R289). -/
namespace Sys2Proof.Machine
open Sys2Proof Sys2Proof.Claims

/-- After power-on every field reads its reset value (R17). -/
theorem getF_reset (f : Fld) : getF State.reset f = f.rst % 2 ^ f.w := rfl

/-- The table lists the reset values of the register map. -/
theorem resetTable_rst (i k : Nat) : ∀ e ∈ resetTable i k, e.1.rst % 2 ^ e.1.w = e.2 :=
  List.map_inj_left.mp rfl

end Sys2Proof.Machine
end

section
namespace Sys2Proof.Proofs
open Sys2Proof Sys2Proof.Machine Sys2Proof.Claims

/-- Settles O59: every table of the reset state is empty, and a field that nothing has stored reads its reset value. -/
theorem resetState : Obligations.ResetState := by
  unfold Obligations.ResetState
  exact ⟨rfl, numbered_of _ rfl, rfl, rfl, rfl, rfl, fun n _ => ⟨rfl, rfl, rfl⟩, fun d _ => rfl, fun a => rfl,
    fun i _ k _ e he => (getF_reset e.1).trans (resetTable_rst i k e he)⟩

end Sys2Proof.Proofs
end

section
/-! SUPPORT. NaN results (R225): an encoding is a NaN exactly when its magnitude lies above that of infinity, so no
rounded, exact or copied value is one. -/
namespace Sys2Proof.Machine
open Sys2Proof Sys2Proof.Claims

/-- A floating-point format is its fraction, its exponent and the sign (R216). -/
theorem fmtWidth_eq_fields : ∀ f < 4, fmtWidth f = fracW f + expW f + 1 := by decide

/-- A floating-point format fits a lane word. -/
theorem fmtWidth_le_word : ∀ f < 4, fmtWidth f ≤ 64 := by decide

/-- The bits of an encoding below its sign. -/
def magBits (f : Nat) (w : Word) : Nat := w.toNat % 2 ^ (fracW f + expW f)

/-- The magnitude of the encoding of infinity. -/
def infBits (f : Nat) : Nat := expMax f * 2 ^ fracW f

theorem infBits_lt (f : Nat) : infBits f < 2 ^ (fracW f + expW f) := by
  rw [infBits, expMax, Nat.pow_add, Nat.mul_comm]
  exact Nat.mul_lt_mul_of_pos_left (Nat.sub_one_lt (Nat.ne_of_gt (Nat.two_pow_pos _))) (Nat.two_pow_pos _)

/-- The exponent of an encoding is all ones and its fraction is not 0 exactly when its magnitude is above infinity's. -/
theorem infBits_lt_iff {f m : Nat} (h : m < 2 ^ (fracW f + expW f)) :
    infBits f < m ↔ m / 2 ^ fracW f = expMax f ∧ m % 2 ^ fracW f ≠ 0 := by
  have hexp : m / 2 ^ fracW f ≤ expMax f :=
    Nat.le_sub_one_of_lt (Nat.div_lt_of_lt_mul (Nat.pow_add 2 (fracW f) (expW f) ▸ h))
  have hsplit : m / 2 ^ fracW f * 2 ^ fracW f + m % 2 ^ fracW f = m := Nat.div_add_mod' m _
  have hfrac : m % 2 ^ fracW f < 2 ^ fracW f := Nat.mod_lt _ (Nat.two_pow_pos _)
  rw [infBits]
  constructor
  · intro hlt
    have heq : m / 2 ^ fracW f = expMax f :=
      Nat.le_antisymm hexp ((Nat.le_div_iff_mul_le (Nat.two_pow_pos _)).mpr (Nat.le_of_lt hlt))
    rw [heq] at hsplit
    exact ⟨heq, by omega⟩
  · rintro ⟨heq, hne⟩
    rw [heq] at hsplit
    omega

/-- A word reads as a NaN exactly when its magnitude is above infinity's (R217). -/
theorem isNan_fpOf_iff {f : Nat} (hf : f < 4) (w : Word) : (fpOf f w).isNan = true ↔ infBits f < magBits f w := by
  have hdvd : 2 ^ (fracW f + expW f) ∣ 2 ^ fmtWidth f := Nat.pow_dvd_pow 2 (by rw [fmtWidth_eq_fields f hf]; omega)
  have hfracDvd : 2 ^ fracW f ∣ 2 ^ (fracW f + expW f) := Nat.pow_dvd_pow 2 (Nat.le_add_right ..)
  have hexp : w.toNat % 2 ^ fmtWidth f / 2 ^ fracW f % 2 ^ expW f = magBits f w / 2 ^ fracW f := by
    rw [← Nat.mod_mul_right_div_self, ← Nat.pow_add, Nat.mod_mod_of_dvd _ hdvd, magBits]
  have hfrac : w.toNat % 2 ^ fmtWidth f % 2 ^ fracW f = magBits f w % 2 ^ fracW f := by
    rw [magBits, Nat.mod_mod_of_dvd _ hfracDvd, Nat.mod_mod_of_dvd _ (Nat.dvd_trans hfracDvd hdvd)]
  rw [infBits_lt_iff (m := magBits f w) (Nat.mod_lt _ (Nat.two_pow_pos _)), fpOf, hexp, hfrac]
  by_cases hmax : magBits f w / 2 ^ fracW f = expMax f
  · by_cases hfrac0 : magBits f w % 2 ^ fracW f = 0
    · simp only [hmax, hfrac0, if_true, Fp.isNan, ne_eq, not_true_eq_false, and_false, Bool.false_eq_true]
    · simp only [hmax, hfrac0, if_true, if_false, Fp.isNan, ne_eq, not_false_eq_true, and_true]
  · simp only [hmax, if_false, false_and, iff_false, Bool.not_eq_true]
    split
    · rfl
    · rfl

/-- The magnitude of an encoding, whatever its sign. -/
theorem magBits_fpEnc {f : Nat} (hf : f < 4) (s : Bool) {e t : Nat} (h : t + e * 2 ^ fracW f ≤ infBits f) :
    magBits f (fpEnc f s e t) = t + e * 2 ^ fracW f := by
  have hlt := Nat.lt_of_le_of_lt h (infBits_lt f)
  have hword : fracW f + expW f ≤ 64 := by
    have := fmtWidth_le_word f hf
    have := fmtWidth_eq_fields f hf
    omega
  rw [magBits, fpEnc, BitVec.toNat_ofNat, Nat.mod_mod_of_dvd _ (Nat.pow_dvd_pow 2 hword)]
  cases s
  · exact Nat.mod_eq_of_lt hlt
  · rw [if_pos rfl, Nat.add_mod_right, Nat.mod_eq_of_lt hlt]

/-- A word of format f that is no NaN but the canonical one (R225). -/
def CanonNan (f : Nat) (w : Word) : Prop := (fpOf f w).isNan = true → w = fpQnan f

theorem canonNan_fpQnan {f : Nat} : CanonNan f (fpQnan f) := fun _ => rfl

theorem canonNan_fpNan {f : Nat} {l : List Fp} : CanonNan f (fpNan f l).1 := canonNan_fpQnan

theorem canonNan_ite {f : Nat} {p : Prop} [Decidable p] {a b : Word} (ha : CanonNan f a) (hb : CanonNan f b) :
    CanonNan f (if p then a else b) := by
  split
  · exact ha
  · exact hb

theorem canonNan_of_magBits_le {f : Nat} (hf : f < 4) {w : Word} (h : magBits f w ≤ infBits f) : CanonNan f w :=
  fun hnan => absurd ((isNan_fpOf_iff hf w).mp hnan) (Nat.not_lt.mpr h)

/-- A finite encoding or infinity is no NaN. -/
theorem canonNan_fpEnc {f : Nat} (hf : f < 4) (s : Bool) {e t : Nat} (h : t + e * 2 ^ fracW f ≤ infBits f) :
    CanonNan f (fpEnc f s e t) :=
  canonNan_of_magBits_le hf (magBits_fpEnc hf s h ▸ h)

theorem canonNan_fpInf {f : Nat} (hf : f < 4) {s : Bool} : CanonNan f (fpInf f s) :=
  canonNan_fpEnc hf s (Nat.le_of_eq (Nat.zero_add _))

theorem canonNan_fpZero {f : Nat} (hf : f < 4) {s : Bool} : CanonNan f (fpEnc f s 0 0) :=
  canonNan_fpEnc hf s (by rw [Nat.zero_mul]; exact Nat.zero_le _)

/-- An encoding with an exponent below the largest is finite. -/
theorem canonNan_fpEnc_finite {f : Nat} (hf : f < 4) (s : Bool) {e t : Nat} (he : e < expMax f) (ht : t < 2 ^ fracW f) :
    CanonNan f (fpEnc f s e t) :=
  canonNan_fpEnc hf s <| calc
    t + e * 2 ^ fracW f ≤ (e + 1) * 2 ^ fracW f := by rw [Nat.succ_mul]; omega
    _ ≤ infBits f := Nat.mul_le_mul_right _ he

theorem canonNan_fpMax {f : Nat} (hf : f < 4) {s : Bool} : CanonNan f (fpMax f s) :=
  have hpos : ∀ f < 4, 0 < expMax f := by decide
  canonNan_fpEnc_finite hf s (Nat.sub_one_lt (Nat.ne_of_gt (hpos f hf))) (Nat.sub_one_lt (Nat.ne_of_gt (Nat.two_pow_pos _)))

/-- Rounding gives infinity, the largest number or a finite encoding (R220 to R223). -/
theorem canonNan_fpRound {f : Nat} (hf : f < 4) {rm : Nat} {s : Bool} {m : Nat} {e : Int} :
    CanonNan f (fpRound f rm s m e).1 := by
  unfold fpRound
  extract_lets p q qb toInf
  split
  split
  extract_lets tiny
  split
  extract_lets ebias
  split
  case isTrue =>
    cases toInf
    · exact canonNan_fpMax hf
    · exact canonNan_fpInf hf
  case isFalse h => exact canonNan_fpEnc_finite hf s (Nat.not_le.mp h) (Nat.mod_lt _ (Nat.two_pow_pos _))

theorem canonNan_fpSum {f : Nat} (hf : f < 4) {rm : Nat} {s1 : Bool} {m1 : Nat} {e1 : Int} {s2 : Bool} {m2 : Nat}
    {e2 : Int} : CanonNan f (fpSum f rm s1 m1 e1 s2 m2 e2).1 := by
  unfold fpSum
  extract_lets e a b t s
  split
  · exact canonNan_fpZero hf
  · exact canonNan_fpRound hf

theorem canonNan_fpAdd {f : Nat} (hf : f < 4) {rm : Nat} {x y : Fp} : CanonNan f (fpAdd f rm x y).1 := by
  unfold fpAdd
  split
  · exact canonNan_fpNan
  · exact canonNan_fpNan
  · split
    · exact canonNan_fpInf hf
    · exact canonNan_fpQnan
  · exact canonNan_fpInf hf
  · exact canonNan_fpInf hf
  · exact canonNan_fpSum hf

theorem canonNan_fpMul {f : Nat} (hf : f < 4) {rm : Nat} {x y : Fp} : CanonNan f (fpMul f rm x y).1 := by
  unfold fpMul
  split
  · exact canonNan_fpNan
  · exact canonNan_fpNan
  · exact canonNan_fpInf hf
  · split
    · exact canonNan_fpQnan
    · exact canonNan_fpInf hf
  · split
    · exact canonNan_fpQnan
    · exact canonNan_fpInf hf
  · split
    · exact canonNan_fpZero hf
    · exact canonNan_fpRound hf

theorem canonNan_fpFma {f : Nat} (hf : f < 4) {rm : Nat} {x y c : Fp} : CanonNan f (fpFma f rm x y c).1 := by
  unfold fpFma
  extract_lets invalid
  split
  · exact canonNan_fpQnan
  split
  · exact canonNan_fpNan
  · exact canonNan_fpNan
  · split
    · exact canonNan_fpNan
    · exact canonNan_fpInf hf
    · exact canonNan_fpSum hf
  · extract_lets sg
    split
    · exact canonNan_fpNan
    · split
      · exact canonNan_fpInf hf
      · exact canonNan_fpQnan
    · exact canonNan_fpInf hf

/-- The low bits of a number, from its magnitude up, are no NaN: FMIN, FMAX and FABS copy their operand so (R227, R228). -/
theorem canonNan_lowBits {f : Nat} (hf : f < 4) {k : Nat} (hk : fracW f + expW f ≤ k) {w : Word}
    (h : ¬ (fpOf f w).isNan = true) : CanonNan f (BitVec.ofNat 64 (w.toNat % 2 ^ k)) := by
  have hmag : magBits f (BitVec.ofNat 64 (w.toNat % 2 ^ k)) = magBits f w := by
    rw [magBits, BitVec.toNat_ofNat, Nat.mod_eq_of_lt (Nat.lt_of_le_of_lt (Nat.mod_le ..) w.isLt),
      Nat.mod_mod_of_dvd _ (Nat.pow_dvd_pow 2 hk), magBits]
  rw [isNan_fpOf_iff hf, Nat.not_lt] at h
  exact canonNan_of_magBits_le hf (hmag ▸ h)

theorem canonNan_fpMinMax {f : Nat} (hf : f < 4) {isMax : Bool} {a b : Word} :
    CanonNan f (fpMinMax f isMax a b).1 := by
  have hw : fracW f + expW f ≤ fmtWidth f := by rw [fmtWidth_eq_fields f hf]; omega
  unfold fpMinMax
  extract_lets x y fl msk neg c aLess
  by_cases hx : x.isNan = true
  · by_cases hy : y.isNan = true
    · rw [if_pos (by rw [hx, hy]; rfl)]
      exact canonNan_fpQnan
    · rw [if_neg fun h => hy (Bool.and_eq_true_iff.mp h).2, if_pos hx]
      exact canonNan_lowBits hf hw hy
  · rw [if_neg fun h => hx (Bool.and_eq_true_iff.mp h).1, if_neg hx]
    by_cases hy : y.isNan = true
    · rw [if_pos hy]
      exact canonNan_lowBits hf hw hx
    · rw [if_neg hy]
      exact canonNan_ite (canonNan_lowBits hf hw hx) (canonNan_lowBits hf hw hy)

theorem canonNan_fpAbs {f : Nat} (hf : f < 4) {a : Word} : CanonNan f (fpAbs f a).1 := by
  unfold fpAbs
  split
  case h_1 => exact canonNan_fpQnan
  case h_2 hnum =>
    refine canonNan_lowBits hf (by rw [fmtWidth_eq_fields f hf]; omega) fun hnan => ?_
    cases hx : fpOf f a with
    | nan s => exact hnum s hx
    | inf | fin =>
      rw [hx] at hnan
      exact Bool.false_ne_true hnan

/-- A conversion between floating-point formats (R237). -/
theorem canonNan_cvt {f sf : Nat} (hf : f < 4) (hsf : sf < 4) {rm : Nat} {sg : Bool} {a : Word} :
    CanonNan f (cvt f sf rm sg a).1 := by
  have hfp : isFp f = true := decide_eq_true (by omega)
  have hsfp : isFp sf = true := decide_eq_true (by omega)
  rw [cvt, if_neg (by omega), if_neg (by omega), if_pos hsfp, if_pos hfp]
  split
  · exact canonNan_fpQnan
  · exact canonNan_fpInf hf
  · split
    · exact canonNan_fpZero hf
    · exact canonNan_fpRound hf

/-- The operations with a floating-point result, by their codes (R187). -/
theorem canonNan_sutorOp {f sf op : Nat} (hf : f < 4) (hsf : sf < 4) (hlo : 1 ≤ op) (hop : op ≤ 7 ∨ op = 0x0B)
    (sg : Bool) (rm : Nat) (a b c : Word) : ∀ v ∈ (sutorOp op f sf sg rm a b c).1, CanonNan f v := by
  suffices h : ∃ p : Word × Flags, sutorOp op f sf sg rm a b c = (some p.1, p.2) ∧ CanonNan f p.1 by
    obtain ⟨p, hp, hcanon⟩ := h
    rw [hp]
    rintro v ⟨⟩
    exact hcanon
  obtain rfl | rfl | rfl | rfl | rfl | rfl | rfl | rfl :
      op = 1 ∨ op = 2 ∨ op = 3 ∨ op = 4 ∨ op = 5 ∨ op = 6 ∨ op = 7 ∨ op = 0x0B := by omega
  · exact ⟨_, rfl, canonNan_fpAdd hf⟩
  · exact ⟨_, rfl, canonNan_fpAdd hf⟩
  · exact ⟨_, rfl, canonNan_fpMul hf⟩
  · exact ⟨_, rfl, canonNan_fpFma hf⟩
  · exact ⟨_, rfl, canonNan_fpMinMax hf⟩
  · exact ⟨_, rfl, canonNan_fpMinMax hf⟩
  · exact ⟨_, rfl, canonNan_fpAbs hf⟩
  · exact ⟨_, rfl, canonNan_cvt hf hsf⟩

/-- The canonical NaNs of the four formats (R225). -/
theorem fpQnan_eq : ∀ f < 4, fpQnan f = if f = 0 then 0x7FF8000000000000 else if f = 1 then 0x7FC00000
    else if f = 2 then 0x7E00 else 0x7FC0 := by decide

end Sys2Proof.Machine
end

section
namespace Sys2Proof.Proofs
open Sys2Proof Sys2Proof.Machine Sys2Proof.Claims

/-- Settles O27: no rounded, exact or copied value is a NaN, so a NaN result is the one each operation names. -/
theorem floatSpecialCases : Obligations.FloatSpecialCases := by
  unfold Obligations.FloatSpecialCases
  intro canon f sf rm sg a b c v fl op hf hsf hrm hlo hop hres hnan
  exact (canonNan_sutorOp hf hsf hlo hop sg rm a b c v (by rw [hres]; rfl) hnan).trans (fpQnan_eq f hf)

end Sys2Proof.Proofs
end

section
/-! SUPPORT. Integers of a lane (R243, R244): an integer in range is read back from its low w bits, and the results of a
division are in range but for the overflow of the most negative value by −1. -/
namespace Sys2Proof.Machine
open Sys2Proof Sys2Proof.Claims

/-- The widths of an integer lane (R186). -/
theorem width_bounds : ∀ w ∈ [8, 16, 32, 64], 0 < w ∧ w ≤ 64 := by decide

/-- The integers that w bits hold under SGN (R243). -/
def InRange (w : Nat) (sgn : Bool) (z : Int) : Prop :=
  if sgn then -((2 ^ (w - 1) : Nat) : Int) ≤ z ∧ z < (2 ^ (w - 1) : Nat) else 0 ≤ z ∧ z < (2 ^ w : Nat)

theorem inRange_intOf {w : Nat} (hw : 0 < w) (sgn : Bool) (a : Word) : InRange w sgn (intOf w sgn a) := by
  have hlt : a.toNat % 2 ^ w < 2 ^ w := Nat.mod_lt _ (Nat.two_pow_pos _)
  cases sgn with
  | false => simp only [InRange, intOf, Bool.false_and, Bool.false_eq_true, if_false]; omega
  | true =>
    have := Nat.two_pow_pred_mul_two hw
    simp only [InRange, intOf, Bool.true_and, decide_eq_true_eq, if_true]
    split <;> omega

theorem toNat_intEnc {w : Nat} (hw : w ≤ 64) (z : Int) : (intEnc w z).toNat = (z % (2 ^ w : Nat)).toNat := by
  have hpos : (0 : Int) < (2 ^ w : Nat) := Int.natCast_pos.mpr (Nat.two_pow_pos w)
  have hlt := Int.emod_lt_of_pos z hpos
  have hle : 2 ^ w ≤ 2 ^ 64 := Nat.pow_le_pow_right (by omega) hw
  rw [intEnc, BitVec.toNat_ofNat, Nat.mod_eq_of_lt (by omega)]

/-- An encoded integer occupies the low w bits. -/
theorem toNat_intEnc_lt {w : Nat} (hw : w ≤ 64) (z : Int) : (intEnc w z).toNat < 2 ^ w := by
  have hpos : (0 : Int) < (2 ^ w : Nat) := Int.natCast_pos.mpr (Nat.two_pow_pos w)
  have hlt := Int.emod_lt_of_pos z hpos
  rw [toNat_intEnc hw]
  omega

theorem toNat_intEnc_of_nonneg {w : Nat} (hw : w ≤ 64) {z : Int} (h0 : 0 ≤ z) (h : z < (2 ^ w : Nat)) :
    (intEnc w z).toNat = z.toNat := by
  rw [toNat_intEnc hw, Int.emod_eq_of_lt h0 h]

/-- A negative integer is encoded modulo 2^w. -/
theorem toNat_intEnc_of_neg {w : Nat} (hw : w ≤ 64) {z : Int} (h0 : z < 0) (h : -((2 ^ w : Nat) : Int) ≤ z) :
    (intEnc w z).toNat = (z + (2 ^ w : Nat)).toNat := by
  rw [toNat_intEnc hw, ← Int.add_emod_right, Int.emod_eq_of_lt (by omega) (by omega)]

/-- An integer in range is read back from its encoding. -/
theorem intOf_intEnc {w : Nat} (hw : 0 < w) (hw' : w ≤ 64) {sgn : Bool} {z : Int} (h : InRange w sgn z) :
    intOf w sgn (intEnc w z) = z := by
  have htwo := Nat.two_pow_pred_mul_two hw
  have hmod : (intEnc w z).toNat % 2 ^ w = (intEnc w z).toNat := Nat.mod_eq_of_lt (toNat_intEnc_lt hw' z)
  cases sgn with
  | false =>
    obtain ⟨hlo, hhi⟩ := h
    rw [intOf, hmod, toNat_intEnc_of_nonneg hw' hlo hhi]
    exact Int.toNat_of_nonneg hlo
  | true =>
    obtain ⟨hlo, hhi⟩ := h
    obtain hz | hz : z < 0 ∨ 0 ≤ z := by omega
    · rw [intOf, hmod, toNat_intEnc_of_neg hw' hz (by omega), Bool.true_and, if_pos (decide_eq_true (by omega))]
      omega
    · rw [intOf, hmod, toNat_intEnc_of_nonneg hw' hz (by omega), Bool.true_and, if_neg (by rw [decide_eq_true_eq]; omega)]
      omega

/-- A quotient in absolute value is at most the dividend, and at most half of it by a divisor other than 1 and −1. -/
theorem natAbs_tdiv_le_half {x y : Int} (h : 2 ≤ y.natAbs) : 2 * (x.tdiv y).natAbs ≤ x.natAbs := by
  have heq : (x.tdiv y).natAbs = x.natAbs / y.natAbs := Int.natAbs_tdiv x y
  have hle : x.natAbs / y.natAbs ≤ x.natAbs / 2 := Nat.div_le_div_left h (by omega)
  omega

/-- The most negative value by −1, whose quotient no w bits hold (R244). -/
def DivOverflows (w : Nat) (sgn : Bool) (x y : Int) : Prop :=
  sgn = true ∧ x = -((2 ^ (w - 1) : Nat) : Int) ∧ y = -1

/-- The truncated quotient is in range but for the most negative value by −1 (R244). -/
theorem inRange_tdiv {w : Nat} {sgn : Bool} {x y : Int} (hx : InRange w sgn x) (hy : InRange w sgn y)
    (hov : ¬ DivOverflows w sgn x y) : InRange w sgn (x.tdiv y) := by
  cases sgn with
  | false =>
    obtain ⟨hx0, hxw⟩ := hx
    exact ⟨Int.tdiv_nonneg hx0 hy.1, Int.lt_of_le_of_lt (Int.tdiv_le_self y hx0) hxw⟩
  | true =>
    obtain ⟨hlo, hhi⟩ := hx
    simp only [DivOverflows, true_and] at hov
    have hy : y = 0 ∨ y = 1 ∨ y = -1 ∨ 2 ≤ y.natAbs := by omega
    simp only [InRange, if_true]
    obtain rfl | rfl | rfl | hy := hy
    · rw [Int.tdiv_zero]; omega
    · rw [Int.tdiv_one]; omega
    · rw [Int.tdiv_neg, Int.tdiv_one]; omega
    · have := natAbs_tdiv_le_half (x := x) hy
      omega

theorem tmod_nonpos {x : Int} (y : Int) (h : x ≤ 0) : x.tmod y ≤ 0 := by
  have := Int.tmod_nonneg y (Int.neg_nonneg_of_nonpos h)
  rw [Int.neg_tmod] at this
  omega

/-- The remainder is 0 or has the sign of the dividend (R244). -/
theorem tmod_sign (x y : Int) : x.tmod y = 0 ∨ (0 < x.tmod y ↔ 0 < x) := by
  have hpos : 0 ≤ x → 0 ≤ x.tmod y := Int.tmod_nonneg y
  have hneg : x ≤ 0 → x.tmod y ≤ 0 := tmod_nonpos y
  omega

/-- The remainder is no larger than the dividend and has its sign, so it is in range. -/
theorem inRange_tmod {w : Nat} {sgn : Bool} {x : Int} (y : Int) (hx : InRange w sgn x) : InRange w sgn (x.tmod y) := by
  have habs : (x.tmod y).natAbs ≤ x.natAbs := Int.natAbs_tmod x y ▸ Nat.mod_le ..
  have hpos : 0 ≤ x → 0 ≤ x.tmod y := Int.tmod_nonneg y
  have hneg : x ≤ 0 → x.tmod y ≤ 0 := tmod_nonpos y
  cases sgn with
  | false =>
    obtain ⟨hlo, hhi⟩ := hx
    exact ⟨hpos hlo, by omega⟩
  | true =>
    obtain ⟨hlo, hhi⟩ := hx
    simp only [InRange, if_true]
    omega

/-! The three cases of a division (R244). -/

section
variable {w : Nat} {sgn : Bool} {a b : Word}

theorem intDiv_by_zero (rem : Bool) (hb : intOf w sgn b = 0) :
    intDiv w sgn rem a b = (if rem then intEnc w (intOf w sgn a) else intEnc w (-1), flDZ) := by
  simp only [intDiv, hb, if_true]

theorem intDiv_overflow (rem : Bool) (hov : DivOverflows w sgn (intOf w sgn a) (intOf w sgn b)) :
    intDiv w sgn rem a b = (if rem then 0 else intEnc w (intOf w sgn a), flIO) := by
  obtain ⟨hsgn, ha, hb⟩ := hov
  rw [intDiv, if_neg (by omega), if_pos (by simp only [hsgn, ← ha, ← hb, decide_true, Bool.and_self])]

theorem intDiv_exact (rem : Bool) (hb : intOf w sgn b ≠ 0)
    (hov : ¬ DivOverflows w sgn (intOf w sgn a) (intOf w sgn b)) :
    intDiv w sgn rem a b = (if rem then intEnc w ((intOf w sgn a).tmod (intOf w sgn b))
      else intEnc w ((intOf w sgn a).tdiv (intOf w sgn b)), 0) := by
  rw [intDiv, if_neg hb, if_neg (by simpa only [DivOverflows, Bool.and_eq_true, decide_eq_true_eq, and_assoc] using hov)]

theorem intDiv_cases (w : Nat) (sgn : Bool) (a b : Word) :
    intOf w sgn b = 0 ∨ DivOverflows w sgn (intOf w sgn a) (intOf w sgn b) ∨
      (intOf w sgn b ≠ 0 ∧ ¬ DivOverflows w sgn (intOf w sgn a) (intOf w sgn b)) := by
  by_cases hb : intOf w sgn b = 0
  · exact .inl hb
  · by_cases hov : DivOverflows w sgn (intOf w sgn a) (intOf w sgn b)
    · exact .inr (.inl hov)
    · exact .inr (.inr ⟨hb, hov⟩)

/-- IDIV and IREM raise the same flags. -/
theorem intDiv_flags (w : Nat) (sgn : Bool) (a b : Word) :
    (intDiv w sgn false a b).2 = (intDiv w sgn true a b).2 := by
  obtain hb | hov | ⟨hb, hov⟩ := intDiv_cases w sgn a b
  · rw [intDiv_by_zero _ hb, intDiv_by_zero _ hb]
  · rw [intDiv_overflow _ hov, intDiv_overflow _ hov]
  · rw [intDiv_exact _ hb hov, intDiv_exact _ hb hov]

/-- A result of a division occupies the low w bits. -/
theorem toNat_intDiv_lt (hw : w ≤ 64) (rem : Bool) : (intDiv w sgn rem a b).1.toNat < 2 ^ w := by
  obtain hb | hov | ⟨hb, hov⟩ := intDiv_cases w sgn a b
  · rw [intDiv_by_zero _ hb]
    cases rem
    · exact toNat_intEnc_lt hw _
    · exact toNat_intEnc_lt hw _
  · rw [intDiv_overflow _ hov]
    cases rem
    · exact toNat_intEnc_lt hw _
    · exact Nat.two_pow_pos w
  · rw [intDiv_exact _ hb hov]
    cases rem
    · exact toNat_intEnc_lt hw _
    · exact toNat_intEnc_lt hw _

end

end Sys2Proof.Machine
end

section
namespace Sys2Proof.Proofs
open Sys2Proof Sys2Proof.Machine Sys2Proof.Claims

/-- Settles O28, by the three cases of a division: each result is an encoded integer in range, which reads back. -/
theorem integerDivision : Obligations.IntegerDivision := by
  unfold Obligations.IntegerDivision
  intro w sg a b hw x y q r
  obtain ⟨hpos, hle⟩ := width_bounds w hw
  have hx : InRange w sg x := inRange_intOf hpos sg a
  have hy : InRange w sg y := inRange_intOf hpos sg b
  refine ⟨intDiv_flags .., toNat_intDiv_lt hle _, toNat_intDiv_lt hle _, fun h0 => ?byZero,
    fun hsg hmin hneg => ?overflow, fun h0 hov => ?exact⟩
  case byZero =>
    simp only [q, r, intDiv_by_zero _ h0]
    refine ⟨?_, intOf_intEnc hpos hle hx, trivial⟩
    have := Nat.two_pow_pos w
    rw [if_neg Bool.false_ne_true, toNat_intEnc_of_neg hle (by decide) (by omega)]
    omega
  case overflow =>
    simp only [q, r, intDiv_overflow _ ⟨hsg, hmin, hneg⟩]
    exact ⟨intOf_intEnc hpos hle hx, rfl, trivial⟩
  case exact =>
    have hq : intOf w sg q = x.tdiv y := by
      simp only [q, intDiv_exact _ h0 hov]
      exact intOf_intEnc hpos hle (inRange_tdiv hx hy hov)
    have hr : intOf w sg r = x.tmod y := by
      simp only [r, intDiv_exact _ h0 hov]
      exact intOf_intEnc hpos hle (inRange_tmod y hx)
    rw [hq, hr]
    refine ⟨(Int.tdiv_mul_add_tmod x y).symm, ?_, tmod_sign x y, congrArg Prod.snd (intDiv_exact _ h0 hov)⟩
    rw [Int.natAbs_tmod]
    exact Nat.mod_lt _ (Int.natAbs_pos.mpr h0)

end Sys2Proof.Proofs
end

section
/-! SUPPORT. The Belsar instruction word (R253, R254, R264–R267): which operation a major opcode, func or code names, and
which words the operand fields of an operation come from. -/
namespace Sys2Proof.Machine
open Sys2Proof

/-! ### Codes of operations -/

/-- An operation that the func of its word tells apart (R266, R267). -/
def Op.hasFunc (op : Op) : Bool := op.code.1 == 0 || op.code.1 == 0x2A

theorem aluOps_code {i : Nat} {op : Op} (h : aluOps[i]? = some op) : op.code = (0, i) := by
  obtain ⟨hi, rfl⟩ := List.getElem?_eq_some_iff.mp h
  exact (by decide : ∀ i : Fin 29, aluOps[i].code = (0, i.val)) ⟨i, hi⟩
theorem sysOps_code {i : Nat} {op : Op} (h : sysOps[i]? = some op) : op.code = (0x2A, i) := by
  obtain ⟨hi, rfl⟩ := List.getElem?_eq_some_iff.mp h
  exact (by decide : ∀ i : Fin 7, sysOps[i].code = (0x2A, i.val)) ⟨i, hi⟩
theorem shortOps_code {i : Nat} {op : Op} (h : shortOps[i]? = some op) : op.code = (64, i) := by
  obtain ⟨hi, rfl⟩ := List.getElem?_eq_some_iff.mp h
  exact (by decide : ∀ i : Fin 26, shortOps[i].code = (64, i.val)) ⟨i, hi⟩
theorem majorOp_code {m : Nat} {op : Op} (hm : m < 64) (h : majorOp m = some op) : op.code = (m, 0) := by
  have hall := (by decide : ∀ m : Fin 64, (majorOp m).all fun op => op.code == (m.val, 0)) ⟨m, hm⟩
  simpa [h] using hall

theorem longOp_code {op : Op} (h : op.short = false) : longOp op.code.1 op.code.2 = some op := by
  revert h
  cases op <;> decide
theorem shortOps_at_code {op : Op} (h : op.short = true) : shortOps[op.code.2]? = some op := by
  revert h
  cases op <;> decide

/-- A major opcode and func name the one operation with that code (R265–R267). -/
theorem longOp_eq_some_iff {major func : Nat} {op : Op} (hm : major < 64) :
    longOp major func = some op ↔
      op.short = false ∧ op.code.1 = major ∧ (op.hasFunc = true → op.code.2 = func) := by
  constructor
  · intro h
    unfold longOp at h
    split at h
    · simp [aluOps_code h, Op.short, *]
    · split at h
      · simp [sysOps_code h, Op.short, *]
      · simp [majorOp_code hm h, Op.short, Op.hasFunc, *]
        omega
  · rintro ⟨hshort, rfl, hfunc⟩
    cases hop : op.hasFunc with
    | true => rw [← hfunc hop, longOp_code hshort]
    | false =>
      obtain ⟨h0, h2A⟩ : op.code.1 ≠ 0 ∧ op.code.1 ≠ 0x2A := by simpa [Op.hasFunc] using hop
      rw [← longOp_code hshort]
      simp only [longOp, h0, h2A, if_false]

/-- A code names the one short operation that has it (R264). -/
theorem shortOps_eq_some_iff {i : Nat} {op : Op} : shortOps[i]? = some op ↔ op.short = true ∧ op.code.2 = i := by
  constructor
  · intro h
    simp [shortOps_code h, Op.short]
  · rintro ⟨hshort, rfl⟩
    exact shortOps_at_code hshort

theorem code_fst_lt {op : Op} (h : op.short = false) : op.code.1 < 48 := by
  revert h
  cases op <;> decide

theorem code_snd_lt (op : Op) : op.code.2 < 32 := by
  cases op <;> decide

/-! ### Operand fields -/

/-- The forms of long operations. -/
def Form.long : Form → Bool
  | .s | .s0 | .sRep | .sNe => false
  | _ => true
/-- The forms whose words have a func (R254). -/
def Form.hasFunc : Form → Bool
  | .r | .ru | .sys0 | .sysS | .sysD => true
  | _ => false

theorem form_long (op : Op) : op.form.long = !op.short := by
  cases op <;> decide
theorem form_hasFunc (op : Op) : op.form.hasFunc = op.hasFunc := by
  cases op <;> decide

theorem bits_eq (w lo n : Nat) : bits w lo n = w / 2 ^ lo % 2 ^ n := rfl

/-- The immediate of a BFX is made of pos, len6 and S, that of a BFI of pos and len6 (R254). -/
theorem bfxImm_eq_iff {pos len sgn imm : Nat} (hpos : pos < 64) (hlen : len < 64) (hsgn : sgn < 2) :
    pos + 64 * len + 4096 * sgn = imm ↔
      imm < 2 ^ 13 ∧ bits imm 0 6 = pos ∧ bits imm 6 6 = len ∧ bits imm 12 1 = sgn := by
  simp only [bits_eq]
  omega
theorem bfiImm_eq_iff {pos len imm : Nat} (hpos : pos < 64) (hlen : len < 64) :
    pos + 64 * len = imm ↔ imm < 2 ^ 12 ∧ bits imm 0 6 = pos ∧ bits imm 6 6 = len := by
  simp only [bits_eq]
  omega

theorem longFields_op {op : Op} {w : Nat} {o : BOp} (h : longFields op w = some o) : o.op = op := by
  unfold longFields at h
  cases hform : op.form <;>
    simp only [hform, Option.ite_none_right_eq_some, Option.some.injEq, reduceCtorEq] at h
  all_goals
    obtain ⟨-, rfl⟩ := h
    rfl

section LongFields
variable {w : Nat} {o : BOp} (hw : w < 2 ^ 31) (hmajor : bits w 25 6 = o.op.code.1)
include hw hmajor

/-- The forms with a func. -/
theorem longFields_iff_of_func (hform : o.op.form.hasFunc = true) (hfunc : o.op.code.2 = bits w 0 9) :
    longFields o.op w = some o ↔ o.wf = true ∧ o.op.code.1 * 2 ^ 25 + longBits o = w := by
  obtain ⟨op, rd, rs, rt, imm, m8⟩ := o
  simp only [bits_eq] at hmajor hfunc
  cases h : op.form <;> simp only [Form.hasFunc, h, reduceCtorEq] at hform
  all_goals
    simp only [longFields, BOp.wf, longBits, h, bits_eq, Option.ite_none_right_eq_some, Option.some.injEq, BOp.mk.injEq,
      Bool.and_eq_true, beq_iff_eq, decide_eq_true_eq, true_and]
    omega

/-- The bit-field forms. -/
theorem longFields_iff_of_bitField (hform : o.op.form = .bfx ∨ o.op.form = .bfi) :
    longFields o.op w = some o ↔ o.wf = true ∧ o.op.code.1 * 2 ^ 25 + longBits o = w := by
  obtain ⟨op, rd, rs, rt, imm, m8⟩ := o
  have hpos := bits_lt imm 0 6
  have hlen := bits_lt imm 6 6
  have hsgn := bits_lt imm 12 1
  simp only [bits_eq] at hmajor
  obtain h | h := hform
  all_goals
    simp only [longFields, BOp.wf, longBits, h, Option.ite_none_right_eq_some, Option.some.injEq, BOp.mk.injEq,
      Bool.and_eq_true, beq_iff_eq, decide_eq_true_eq, true_and]
  · rw [bfxImm_eq_iff (bits_lt w 9 6) (bits_lt w 3 6) (bits_lt w 2 1)]
    simp only [bits_eq w]
    omega
  · rw [bfiImm_eq_iff (bits_lt w 9 6) (bits_lt w 3 6)]
    have hhigh : imm < 2 ^ 12 → bits imm 12 1 = 0 := by rw [bits_eq]; omega
    simp only [bits_eq w]
    omega

/-- The remaining forms: those whose words hold an immediate or a mask, and no func. -/
theorem longFields_iff_of_imm (hlong : o.op.form.long = true) (hfunc : o.op.form.hasFunc = false)
    (hbfx : o.op.form ≠ .bfx) (hbfi : o.op.form ≠ .bfi) :
    longFields o.op w = some o ↔ o.wf = true ∧ o.op.code.1 * 2 ^ 25 + longBits o = w := by
  obtain ⟨op, rd, rs, rt, imm, m8⟩ := o
  simp only [bits_eq] at hmajor
  cases h : op.form <;>
    simp only [Form.long, Form.hasFunc, h, reduceCtorEq, ne_eq, not_true_eq_false] at hlong hfunc hbfx hbfi
  all_goals
    simp only [longFields, BOp.wf, longBits, h, bits_eq, Option.ite_none_right_eq_some, Option.some.injEq, BOp.mk.injEq,
      Bool.and_eq_true, Bool.not_eq_true', bne_iff_ne, ne_eq, beq_eq_false_iff_ne, beq_iff_eq, decide_eq_true_eq,
      true_and]
    omega

/-- The operand fields of a word with the code of a long operation are those of the one well-formed instruction whose
encoding is that word. -/
theorem longFields_eq_some_iff (hlong : o.op.short = false) (hfunc : o.op.hasFunc = true → o.op.code.2 = bits w 0 9) :
    longFields o.op w = some o ↔ o.wf = true ∧ o.op.code.1 * 2 ^ 25 + longBits o = w := by
  rw [← form_hasFunc] at hfunc
  cases hf : o.op.form.hasFunc with
  | true => exact longFields_iff_of_func hw hmajor hf (hfunc hf)
  | false =>
    by_cases hb : o.op.form = .bfx ∨ o.op.form = .bfi
    · exact longFields_iff_of_bitField hw hmajor hb
    · obtain ⟨hbfx, hbfi⟩ := not_or.mp hb
      exact longFields_iff_of_imm hw hmajor (by rw [form_long, hlong]; rfl) hf hbfx hbfi

end LongFields

/-- The operand bits of a well-formed long operation lie below its major opcode. -/
theorem longBits_lt {o : BOp} (hwf : o.wf = true) : longBits o < 2 ^ 25 := by
  have hcode := code_snd_lt o.op
  have hpos := bits_lt o.imm 0 6
  have hlen := bits_lt o.imm 6 6
  have hsgn := bits_lt o.imm 12 1
  unfold BOp.wf at hwf
  unfold longBits
  cases h : o.op.form <;>
    simp only [h, Bool.and_eq_true, bne_iff_ne, ne_eq, beq_iff_eq, decide_eq_true_eq] at hwf ⊢
  all_goals omega

/-- A word's func, where its form has one, is that of its operation. -/
theorem bits_longBits_func {o : BOp} (hfunc : o.op.form.hasFunc = true) : longBits o % 2 ^ 9 = o.op.code.2 := by
  have hcode := code_snd_lt o.op
  unfold longBits
  cases h : o.op.form <;> simp only [Form.hasFunc, h, reduceCtorEq] at hfunc ⊢
  all_goals omega

/-! ### Short operations -/

theorem shortFields_op {h : Nat} {o : BOp} (hsome : shortFields h = some o) :
    o.op.short = true ∧ o.op.code.2 = bits h 10 5 := by
  unfold shortFields at hsome
  split at hsome
  · cases hsome
  · next op hop =>
    simp only [Option.ite_none_right_eq_some, Option.some.injEq] at hsome
    rw [← hsome.2]
    exact shortOps_eq_some_iff.mp hop

/-- 15 bits with the code of a short operation name the one well-formed operation that they encode (R264). -/
theorem shortFields_eq_some_iff {h : Nat} {o : BOp} (hh : h < 2 ^ 15) (hshort : o.op.short = true)
    (hcode : o.op.code.2 = bits h 10 5) : shortFields h = some o ↔ o.wf = true ∧ shortBits o = h := by
  have hform := form_long o.op
  obtain ⟨op, rd, rs, rt, imm, m8⟩ := o
  rw [shortFields, shortOps_eq_some_iff.mpr ⟨hshort, hcode⟩]
  simp only [bits_eq] at hcode
  cases h : op.form <;> simp only [Form.long, hshort, h, Bool.not_true, reduceCtorEq] at hform
  all_goals
    simp only [BOp.wf, shortBits, h, bits_eq, Option.ite_none_right_eq_some, Option.some.injEq, BOp.mk.injEq,
      Bool.and_eq_true, bne_iff_ne, ne_eq, beq_iff_eq, decide_eq_true_eq, true_and]
  case sNe =>
    constructor
    · rintro ⟨hne, rfl, rfl, rfl, rfl, rfl⟩
      simp only [hne, not_false_eq_true, and_true]
      omega
    · rintro ⟨⟨⟨⟨⟨⟨hrd, hrs⟩, hne⟩, rfl⟩, rfl⟩, rfl⟩, rfl⟩
      have hrd : (op.code.2 * 2 ^ 10 + rd * 2 ^ 5 + rs) / 2 ^ 5 % 2 ^ 5 = rd := by omega
      have hrs : (op.code.2 * 2 ^ 10 + rd * 2 ^ 5 + rs) / 2 ^ 0 % 2 ^ 5 = rs := by omega
      simp only [hrd, hrs, hne, not_false_eq_true, and_self]
  all_goals omega

/-- The bits of a well-formed short operation, and the code among them. -/
theorem shortBits_lt {o : BOp} (hshort : o.op.short = true) (hwf : o.wf = true) :
    shortBits o < 2 ^ 15 ∧ bits (shortBits o) 10 5 = o.op.code.2 := by
  have hcode := code_snd_lt o.op
  have hform := form_long o.op
  unfold BOp.wf at hwf
  unfold shortBits bits
  cases h : o.op.form <;>
    simp only [Form.long, hshort, h, Bool.not_true, reduceCtorEq, Bool.and_eq_true, bne_iff_ne, ne_eq, beq_iff_eq,
      decide_eq_true_eq] at hform hwf
  all_goals omega

/-! ### Words -/

theorem encodeBelsar_lt {w : BWord} (hwf : w.wf = true) : encodeBelsar w < 2 ^ 32 := by
  cases w with
  | long o =>
    simp only [BWord.wf, Bool.and_eq_true, Bool.not_eq_true'] at hwf
    have := code_fst_lt hwf.1
    have := longBits_lt hwf.2
    simp only [encodeBelsar]
    omega
  | pair a b =>
    simp only [BWord.wf, Bool.and_eq_true] at hwf
    obtain ⟨⟨⟨hsa, hsb⟩, hwa⟩, hwb⟩ := hwf
    have := (shortBits_lt hsa hwa).1
    have := (shortBits_lt hsb hwb).1
    simp only [encodeBelsar]
    omega

theorem decodeBelsar_long {v : Nat} (h : bits v 31 1 = 0) :
    decodeBelsar v = (longOp (bits v 25 6) (bits v 0 9)).bind fun op => (longFields op v).map .long := by
  rw [decodeBelsar, if_pos h]
  cases longOp (bits v 25 6) (bits v 0 9) <;> rfl

theorem decodeBelsar_pair {v : Nat} (h : bits v 31 1 ≠ 0) (h0 : bits v 0 1 = 0) :
    decodeBelsar v = (shortFields (bits v 16 15)).bind fun a => (shortFields (bits v 1 15)).map (.pair a) := by
  rw [decodeBelsar, if_neg h, if_pos h0]
  cases shortFields (bits v 16 15) <;> cases shortFields (bits v 1 15) <;> rfl

/-- Decoding the encoding of a well-formed instruction gives it back. -/
theorem decodeBelsar_encodeBelsar {w : BWord} (hwf : w.wf = true) : decodeBelsar (encodeBelsar w) = some w := by
  cases w with
  | long o =>
    simp only [BWord.wf, Bool.and_eq_true, Bool.not_eq_true'] at hwf
    obtain ⟨hshort, hwf⟩ := hwf
    have hlt := code_fst_lt hshort
    have hbits := longBits_lt hwf
    have hmajor : bits (encodeBelsar (.long o)) 25 6 = o.op.code.1 := by simp only [encodeBelsar, bits_eq]; omega
    have hfunc : o.op.hasFunc = true → o.op.code.2 = bits (encodeBelsar (.long o)) 0 9 := by
      intro hf
      rw [← bits_longBits_func (o := o) (by rw [form_hasFunc, hf])]
      simp only [encodeBelsar, bits_eq]
      omega
    have hw : encodeBelsar (.long o) < 2 ^ 31 := by simp only [encodeBelsar]; omega
    rw [decodeBelsar_long (by rw [bits_eq]; omega), (longOp_eq_some_iff (bits_lt _ _ _)).mpr ⟨hshort, hmajor.symm, hfunc⟩,
      Option.bind_some, (longFields_eq_some_iff hw hmajor hshort hfunc).mpr ⟨hwf, rfl⟩, Option.map_some]
  | pair a b =>
    simp only [BWord.wf, Bool.and_eq_true] at hwf
    obtain ⟨⟨⟨hsa, hsb⟩, hwa⟩, hwb⟩ := hwf
    obtain ⟨hlta, hcodea⟩ := shortBits_lt hsa hwa
    obtain ⟨hltb, hcodeb⟩ := shortBits_lt hsb hwb
    have ha : bits (encodeBelsar (.pair a b)) 16 15 = shortBits a := by simp only [encodeBelsar, bits_eq]; omega
    have hb : bits (encodeBelsar (.pair a b)) 1 15 = shortBits b := by simp only [encodeBelsar, bits_eq]; omega
    rw [decodeBelsar_pair (by simp only [encodeBelsar, bits_eq]; omega) (by simp only [encodeBelsar, bits_eq]; omega),
      ha, hb, (shortFields_eq_some_iff hlta hsa hcodea.symm).mpr ⟨hwa, rfl⟩, Option.bind_some,
      (shortFields_eq_some_iff hltb hsb hcodeb.symm).mpr ⟨hwb, rfl⟩, Option.map_some]

/-- A word that decodes is the encoding of the well-formed instruction it decodes to. -/
theorem encodeBelsar_of_decodeBelsar {v : Nat} {w : BWord} (hv : v < 2 ^ 32) (h : decodeBelsar v = some w) :
    w.wf = true ∧ encodeBelsar w = v := by
  by_cases h31 : bits v 31 1 = 0
  · rw [decodeBelsar_long h31] at h
    obtain ⟨op, hop, h⟩ := Option.bind_eq_some_iff.mp h
    obtain ⟨o, ho, rfl⟩ := Option.map_eq_some_iff.mp h
    obtain rfl := longFields_op ho
    obtain ⟨hshort, hmajor, hfunc⟩ := (longOp_eq_some_iff (bits_lt _ _ _)).mp hop
    have hw : v < 2 ^ 31 := by rw [bits_eq] at h31; omega
    obtain ⟨hwf, henc⟩ := (longFields_eq_some_iff hw hmajor.symm hshort hfunc).mp ho
    exact ⟨by rw [BWord.wf, hshort, hwf]; rfl, henc⟩
  · by_cases h0 : bits v 0 1 = 0
    · rw [decodeBelsar_pair h31 h0] at h
      obtain ⟨a, ha, h⟩ := Option.bind_eq_some_iff.mp h
      obtain ⟨b, hb, rfl⟩ := Option.map_eq_some_iff.mp h
      obtain ⟨hsa, hcodea⟩ := shortFields_op ha
      obtain ⟨hsb, hcodeb⟩ := shortFields_op hb
      obtain ⟨hwa, henca⟩ := (shortFields_eq_some_iff (bits_lt _ _ _) hsa hcodea).mp ha
      obtain ⟨hwb, hencb⟩ := (shortFields_eq_some_iff (bits_lt _ _ _) hsb hcodeb).mp hb
      refine ⟨by rw [BWord.wf, hsa, hsb, hwa, hwb]; rfl, ?_⟩
      simp only [encodeBelsar, henca, hencb, bits_eq] at h31 h0 ⊢
      omega
    · rw [decodeBelsar, if_neg h31, if_neg h0] at h
      cases h

end Sys2Proof.Machine
end

section
namespace Sys2Proof.Proofs
open Sys2Proof Sys2Proof.Machine Sys2Proof.Claims

/-- Settles O16: the fields of a word with an operation's code are those of the one instruction whose encoding it is. -/
theorem belsarDecodeInvertsEncode : Obligations.BelsarDecodeInvertsEncode :=
  fun _ hwf => ⟨encodeBelsar_lt hwf, decodeBelsar_encodeBelsar hwf⟩

/-- Settles O17, by the same fact read from the word to the instruction. -/
theorem belsarWordsAreUnambiguous : Obligations.BelsarWordsAreUnambiguous :=
  fun _ _ hv h => encodeBelsar_of_decodeBelsar hv h

/-- Settles O18, by evaluation of each word. -/
theorem belsarWordsOfTheSpec : Obligations.BelsarWordsOfTheSpec := by
  unfold Obligations.BelsarWordsOfTheSpec
  decide

end Sys2Proof.Proofs
end

section
/-! SUPPORT. The operations on words (R264–R271): the model's functions as the tables of the statements give them. -/
namespace Sys2Proof.Machine
open Sys2Proof Sys2Proof.Claims

/-! ### Comparisons -/

theorem boolW_beq (a b : Word) : boolW (a == b) = if a = b then 1 else 0 := by simp [boolW]
theorem boolW_bne (a b : Word) : boolW (a != b) = if a = b then 0 else 1 := by simp [boolW]
theorem boolW_decide (p : Prop) [Decidable p] : boolW (decide p) = if p then 1 else 0 := by simp [boolW]
theorem ite_slt {α : Type} (a b : Word) (x y : α) : (if a.slt b then x else y) = if a.toInt < b.toInt then x else y := by
  simp [BitVec.slt]
theorem ite_ult {α : Type} (a b : Word) (x y : α) : (if a.ult b then x else y) = if a.toNat < b.toNat then x else y := by
  simp [BitVec.ult]
theorem toInt_eq_zero_iff (a : Word) : a.toInt = 0 ↔ a = 0 := by
  simpa using BitVec.toInt_inj (x := a) (y := 0)

/-! ### Conditions of branches (R272) -/

theorem not_slt (a b : Word) : (!a.slt b) = decide (b.toInt ≤ a.toInt) := by simp [BitVec.slt, ← decide_not]
theorem not_ult (a b : Word) : (!a.ult b) = decide (b.toNat ≤ a.toNat) := by simp [BitVec.ult, ← decide_not]
theorem beq_decide (a b : Word) : (a == b) = decide (a = b) := rfl
theorem beq_zero (a : Word) : (a == 0) = decide (a.toInt = 0) := by
  rw [beq_decide, decide_eq_decide, toInt_eq_zero_iff]
theorem bne_zero (a : Word) : (a != 0) = decide (a.toInt ≠ 0) := by rw [bne, beq_zero, decide_not]
theorem not_msb (a : Word) : (!a.msb) = decide (0 ≤ a.toInt) := by
  rw [BitVec.msb_eq_toInt, ← decide_not, decide_eq_decide, Int.not_lt]
theorem not_msb_and_bne_zero (a : Word) : (!a.msb && a != 0) = decide (0 < a.toInt) := by
  rw [not_msb, bne_zero, ← Bool.decide_and, decide_eq_decide]
  omega
theorem msb_or_beq_zero (a : Word) : (a.msb || a == 0) = decide (a.toInt ≤ 0) := by
  rw [BitVec.msb_eq_toInt, beq_zero, ← Bool.decide_or, decide_eq_decide]
  omega

/-! ### Divisions (R269) -/

theorem divW_eq (a b : Word) : divW a b =
    if b = 0 then BitVec.allOnes 64 else BitVec.ofInt 64 (a.toInt.tdiv b.toInt) := by
  have hdiv : a.sdiv b = BitVec.ofInt 64 (a.toInt.tdiv b.toInt) :=
    BitVec.eq_of_toInt_eq (by rw [BitVec.toInt_sdiv, BitVec.toInt_ofInt])
  rw [divW, hdiv]
theorem divuW_eq (a b : Word) : divuW a b = if b = 0 then BitVec.allOnes 64 else BitVec.ofNat 64 (a.toNat / b.toNat) := by
  rw [divuW, BitVec.udiv_def]
theorem remW_eq (a b : Word) : remW a b = if b = 0 then a else BitVec.ofInt 64 (a.toInt.tmod b.toInt) := by
  rw [remW, ← BitVec.toInt_srem, BitVec.ofInt_toInt]
theorem remuW_eq (a b : Word) : remuW a b = if b = 0 then a else BitVec.ofNat 64 (a.toNat % b.toNat) := by
  rw [remuW, BitVec.umod_def]

/-! ### Counts (R271) -/

/-- The search for the lowest set bit finds the first of the bits it looks at. -/
theorem ctzFrom_eq_find? (v fuel k : Nat) :
    ctzFrom v fuel k = ((List.range' k fuel).find? fun i => v.testBit i).getD (k + fuel) := by
  induction fuel generalizing k with
  | zero => rfl
  | succ fuel ih =>
    rw [ctzFrom, List.range'_succ, List.find?_cons]
    cases v.testBit k with
    | true => rfl
    | false => simp only [Bool.false_eq_true, if_false, ih, Nat.add_right_comm k 1, Nat.add_assoc]
theorem ctzW_eq (a : Word) : ctzW a = BitVec.ofNat 64 (((List.range 64).find? fun i => a.getLsbD i).getD 64) := by
  rw [ctzW, ctzFrom_eq_find?, ← List.range_eq_range']
  rfl

theorem trues_append (l m : List Bool) : trues (l ++ m) = trues l + trues m := by
  simp only [trues, List.filter_append, List.length_append]
/-- A count of bits by halves counts the bits that are set. -/
theorem popc_eq_trues (k v : Nat) : popc k v = trues ((List.range (2 ^ k)).map fun i => v.testBit i) := by
  induction k generalizing v with
  | zero => obtain h | h := Nat.mod_two_eq_zero_or_one v <;> simp [popc, trues, h]
  | succ k ih =>
    rw [popc, ih, ih, Nat.pow_succ, Nat.mul_two, List.range_add, List.map_append, trues_append, List.map_map]
    congr 2
    · refine List.map_congr_left fun i hi => ?_
      simp [Nat.testBit_mod_two_pow, List.mem_range.mp hi]
    · refine List.map_congr_left fun i _ => ?_
      simp [Nat.testBit_div_two_pow, Nat.add_comm]
theorem popW_eq (a : Word) : popW a = BitVec.ofNat 64 (trues ((List.range 64).map fun i => a.getLsbD i)) :=
  congrArg _ (popc_eq_trues 6 a.toNat)

/-! ### PERM (R270) -/

theorem wordByte_eq (v : Word) (i : Nat) : wordByte v i = BitVec.ofNat 8 (v.toNat / 2 ^ (8 * i)) := by
  apply BitVec.eq_of_toNat_eq
  simp [wordByte, Nat.shiftRight_eq_div_pow]
theorem permW_eq (a b d : Word) : permW a d b = BitVec.ofNat 64 (leNum ((List.range 8).map fun i =>
    let k := b.toNat / 2 ^ (4 * i) % 16
    if k < 8 then BitVec.ofNat 8 (a.toNat / 2 ^ (8 * k)) else BitVec.ofNat 8 (d.toNat / 2 ^ (8 * (k - 8))))) := by
  simp only [permW, wordByte_eq]
  rfl

/-! ### Immediates (R265, R268) -/

theorem boolW_slt_imm (a : Word) (i : Nat) :
    boolW (a.slt ((BitVec.ofNat 14 i).signExtend 64)) = if a.toInt < (BitVec.ofNat 14 i).toInt then 1 else 0 := by
  rw [BitVec.slt, boolW_decide, BitVec.toInt_signExtend_of_le (by decide)]
theorem bfPos_eq (o : BOp) : bfPos o = o.imm % 64 := by simp [bfPos, bits_eq]
theorem bfLen_eq (o : BOp) : bfLen o = if o.imm / 64 % 64 = 0 then 64 else o.imm / 64 % 64 := rfl
theorem bfxW_eq (a : Word) (o : BOp) : bfxW a (bfPos o) (bfLen o) (o.imm.testBit 12) =
    let len := if o.imm / 64 % 64 = 0 then 64 else o.imm / 64 % 64
    let v := a.toNat / 2 ^ (o.imm % 64) % 2 ^ len
    if o.imm.testBit 12 then (BitVec.ofNat len v).signExtend 64 else BitVec.ofNat 64 v := by
  rw [bfPos_eq, bfLen_eq, bfxW]
theorem ofNat_mul_two_pow (a : Word) (k : Nat) : BitVec.ofNat 64 (a.toNat * 2 ^ k) = a <<< k := by
  apply BitVec.eq_of_toNat_eq
  simp [Nat.shiftLeft_eq]
theorem bfiW_eq (a d : Word) (o : BOp) : bfiW a d (bfPos o) (bfLen o) =
    let len := if o.imm / 64 % 64 = 0 then 64 else o.imm / 64 % 64
    let m := BitVec.ofNat 64 ((2 ^ len - 1) * 2 ^ (o.imm % 64))
    (d &&& ~~~m) ||| ((a <<< (o.imm % 64)) &&& m) := by
  rw [bfPos_eq, bfLen_eq, bfiW, ofNat_mul_two_pow]

end Sys2Proof.Machine
end

section
/-! SUPPORT. The commands of the core's long operations (R265–R268, R272): each runs the word at the program counter with
the effect that the tables of the statements give. -/
namespace Sys2Proof.Machine
open Sys2Proof Sys2Proof.Claims

/-- The command c runs the word that is the operation mn, whose effect is sem where it is a long one. -/
def Means (c : Fin 64 → CoreErr → Instr) (mn : Op) (sem : Fin 64 → BOp → CoreErr → State → OpRes) : Prop :=
  ∀ n e s, exec (c n e) s = .next (runWord n mn (sem n) e s)

/-- Where the word at the program counter is the operation, it runs and settles. -/
theorem Means.atLong {c : Fin 64 → CoreErr → Instr} {mn : Op} {sem : Fin 64 → BOp → CoreErr → State → OpRes}
    (h : Means c mn sem) {n : Fin 64} {s : State} {o : BOp} (hat : AtLong s n o) (hop : o.op = mn) :
    exec (c n .none) s = .next (settle n false (sem n o .none s)) :=
  (h n .none s).trans (congrArg _ (runWord_atLong hat hop _))

theorem Means.congr {c : Fin 64 → CoreErr → Instr} {mn : Op} {sem sem' : Fin 64 → BOp → CoreErr → State → OpRes}
    (h : Means c mn sem) (hsem : ∀ n o e s, sem n o e s = sem' n o e s) : Means c mn sem' := by
  rwa [← funext fun n => funext fun o => funext fun e => funext (hsem n o e)]

/-! ### Operations that write a register -/

/-- rd gets a function of rs, rt and the old rd. -/
def aluSem (g : Word → Word → Word → Word) (n : Fin 64) (o : BOp) (_ : CoreErr) (s : State) : OpRes := aluOp n g o s
theorem Means.alu_eq {c : Fin 64 → CoreErr → Instr} {mn : Op} {g g' : Word → Word → Word → Word}
    (h : Means c mn (aluSem g)) (hg : ∀ a b d, g a b d = g' a b d) : Means c mn (aluSem g') := by
  rwa [← funext fun a => funext fun b => funext (hg a b)]

theorem aluTable_means : ∀ e ∈ aluTable, Means e.1 e.2.1 (aluSem e.2.2) := by
  simp only [aluTable, List.forall_mem_cons, List.not_mem_nil, false_implies, implies_true, and_true]
  exact ⟨fun _ _ _ => rfl, fun _ _ _ => rfl, fun _ _ _ => rfl, fun _ _ _ => rfl, fun _ _ _ => rfl, fun _ _ _ => rfl,
    fun _ _ _ => rfl, fun _ _ _ => rfl, fun _ _ _ => rfl, fun _ _ _ => rfl, fun _ _ _ => rfl, fun _ _ _ => rfl,
    fun _ _ _ => rfl,
    .alu_eq (fun _ _ _ => rfl) fun a b _ => boolW_beq a b, .alu_eq (fun _ _ _ => rfl) fun a b _ => boolW_bne a b,
    .alu_eq (fun _ _ _ => rfl) fun a b _ => boolW_decide (a.toInt < b.toInt),
    .alu_eq (fun _ _ _ => rfl) fun a b _ => boolW_decide (a.toNat < b.toNat),
    .alu_eq (fun _ _ _ => rfl) fun a b _ => ite_slt a b a b, .alu_eq (fun _ _ _ => rfl) fun a b _ => ite_slt a b b a,
    .alu_eq (fun _ _ _ => rfl) fun a b _ => ite_ult a b a b, .alu_eq (fun _ _ _ => rfl) fun a b _ => ite_ult a b b a⟩


theorem divTable_means : ∀ e ∈ divTable, Means e.1 e.2.1 (aluSem e.2.2) := by
  simp only [divTable, List.forall_mem_cons, List.not_mem_nil, false_implies, implies_true, and_true]
  exact ⟨.alu_eq (fun _ _ _ => rfl) fun a b _ => divW_eq a b, .alu_eq (fun _ _ _ => rfl) fun a b _ => divuW_eq a b,
    .alu_eq (fun _ _ _ => rfl) fun a b _ => remW_eq a b, .alu_eq (fun _ _ _ => rfl) fun a b _ => remuW_eq a b,
    .alu_eq (fun _ _ _ => rfl) permW_eq, fun _ _ _ => rfl, .alu_eq (fun _ _ _ => rfl) fun a _ _ => ctzW_eq a,
    .alu_eq (fun _ _ _ => rfl) fun a _ _ => popW_eq a⟩

/-- rd gets a function of rs, the old rd and the immediate. -/
def immSem (g : Word → Word → Nat → Word) (n : Fin 64) (o : BOp) (_ : CoreErr) (s : State) : OpRes :=
  wrote n o.rd (g (regOf s n o.rs) (regOf s n o.rd) o.imm) s

theorem immTable_means : ∀ e ∈ immTable, Means e.1 e.2.1 (immSem e.2.2) := by
  simp only [immTable, List.forall_mem_cons, List.not_mem_nil, false_implies, implies_true, and_true]
  exact ⟨fun _ _ _ => rfl, fun _ _ _ => rfl, fun _ _ _ => rfl, fun _ _ _ => rfl,
    .congr (fun _ _ _ => rfl) fun n o _ s => congrArg (wrote n o.rd · s) (boolW_slt_imm _ _),
    .congr (fun _ _ _ => rfl) fun n o _ s => congrArg (wrote n o.rd · s) (boolW_decide _),
    fun _ _ _ => rfl, fun _ _ _ => rfl, fun _ _ _ => rfl, fun _ _ _ => rfl,
    .congr (fun _ _ _ => rfl) fun n o _ s => congrArg (wrote n o.rd · s) (bfxW_eq _ o),
    .congr (fun _ _ _ => rfl) fun n o _ s => congrArg (wrote n o.rd · s) (bfiW_eq _ _ o)⟩

/-! ### Branches -/

/-- Control goes to the target of a branch when a condition on rs and rt holds. -/
def branchSem (p : Word → Word → Bool) (n : Fin 64) (o : BOp) (_ : CoreErr) (s : State) : OpRes := branchOp n p o s
theorem Means.branch_eq {c : Fin 64 → CoreErr → Instr} {mn : Op} {p p' : Word → Word → Bool}
    (h : Means c mn (branchSem p)) (hp : ∀ a b, p a b = p' a b) : Means c mn (branchSem p') := by
  rwa [← funext fun a => funext (hp a)]

theorem branchTable_means : ∀ e ∈ branchTable, Means e.1 e.2.1 (branchSem e.2.2) := by
  simp only [branchTable, List.forall_mem_cons, List.not_mem_nil, false_implies, implies_true, and_true]
  exact ⟨.branch_eq (fun _ _ _ => rfl) fun a b => beq_decide a b,
    .branch_eq (fun _ _ _ => rfl) fun a b => by rw [bne, beq_decide, decide_not],
    fun _ _ _ => rfl, .branch_eq (fun _ _ _ => rfl) fun a b => not_slt a b,
    fun _ _ _ => rfl, .branch_eq (fun _ _ _ => rfl) fun a b => not_ult a b,
    .branch_eq (fun _ _ _ => rfl) fun a _ => beq_zero a, .branch_eq (fun _ _ _ => rfl) fun a _ => bne_zero a,
    .branch_eq (fun _ _ _ => rfl) fun a _ => BitVec.msb_eq_toInt, .branch_eq (fun _ _ _ => rfl) fun a _ => not_msb a,
    .branch_eq (fun _ _ _ => rfl) fun a _ => not_msb_and_bne_zero a,
    .branch_eq (fun _ _ _ => rfl) fun a _ => msb_or_beq_zero a⟩

theorem pcOff_14 (c : Core) (off : Nat) : pcOff c 14 off = c.pc + BitVec.ofNat 14 off := by
  rw [pcOff, BitVec.signExtend_eq]
theorem settle_branch (n : Fin 64) (b : Bool) (t : BitVec 14) (s : State) :
    settle n false (if b then goTo s t else .done s none) = if b then wordGoes n t s else wordDone n s := by
  cases b <;> rfl

/-! ### Loads and stores -/

theorem loadTable_means : ∀ e ∈ loadTable,
    Means e.1 e.2.1 (fun n o err s => loadOp n o.rd (effA s n o) e.2.2.1 e.2.2.2 err s) := by
  simp only [loadTable, List.forall_mem_cons, List.not_mem_nil, false_implies, implies_true, and_true]
  exact ⟨fun _ _ _ => rfl, fun _ _ _ => rfl, fun _ _ _ => rfl, fun _ _ _ => rfl, fun _ _ _ => rfl, fun _ _ _ => rfl,
    fun _ _ _ => rfl⟩
theorem storeTable_means : ∀ e ∈ storeTable,
    Means e.1 e.2.1 (fun n o _ s => storeOp n (effA s n o) (regOf s n o.rd) e.2.2 s) := by
  simp only [storeTable, List.forall_mem_cons, List.not_mem_nil, false_implies, implies_true, and_true]
  exact ⟨fun _ _ _ => rfl, fun _ _ _ => rfl, fun _ _ _ => rfl, fun _ _ _ => rfl⟩
theorem ild_means : Means .ild .ild (fun n o _ s => ildOp n o s) := fun _ _ _ => rfl

/-! ### Control flow, special registers and ports -/

theorem jmp_means : Means .jmp .jmp (fun n o _ s => goTo s (pcOff (getCore s n) 16 o.imm)) := fun _ _ _ => rfl
theorem jr_means : Means .jr .jr (fun n o _ s => goTo s ((regOf s n o.rs).setWidth 14)) := fun _ _ _ => rfl
theorem call_means : Means .call .call (fun n o _ s => callOp n (pcOff (getCore s n) 16 o.imm) o s) := fun _ _ _ => rfl
theorem callr_means : Means .callr .callr (fun n o _ s => callOp n ((regOf s n o.rs).setWidth 14) o s) := fun _ _ _ => rfl
theorem returnOp_means : Means .returnOp .returnOp (fun n _ e s => returnW n e s) := fun _ _ _ => rfl
theorem mfsr_means : Means .mfsr .mfsr (fun n o _ s => mfsrOp n o s) := fun _ _ _ => rfl
theorem mtsr_means : Means .mtsr .mtsr (fun n o _ s => mtsrOp n o s) := fun _ _ _ => rfl
theorem inPort_means : Means .inPort .inPort (fun n o _ s => inOp n o s) := fun _ _ _ => rfl
theorem outPort_means : Means .outPort .outPort (fun n o _ s => outOp n o s) := fun _ _ _ => rfl

end Sys2Proof.Machine
end

section
namespace Sys2Proof.Proofs
open Sys2Proof Sys2Proof.Machine Sys2Proof.Claims

/-- Settles O1: each command of the table runs its word, whose effect writes the result and completes. -/
theorem aluResults : Obligations.AluResults :=
  fun e he _ _ _ hat hop => (aluTable_means e he).atLong hat hop

/-- Settles O2, as O1. -/
theorem divisionAndCountResults : Obligations.DivisionAndCountResults :=
  fun e he _ _ _ hat hop => (divTable_means e he).atLong hat hop

/-- Settles O3, as O1. -/
theorem immediateResults : Obligations.ImmediateResults :=
  fun e he _ _ _ hat hop => (immTable_means e he).atLong hat hop

/-- Settles O4: a branch goes to its target or completes in order by its condition. -/
theorem branchesGoToTheirTargets : Obligations.BranchesGoToTheirTargets := by
  unfold Obligations.BranchesGoToTheirTargets
  refine ⟨fun e he n s o hat hop => ?branch, fun n s o hat hop => jmp_means.atLong hat hop,
    fun n s o hat hop => jr_means.atLong hat hop⟩
  rw [(branchTable_means e he).atLong hat hop, branchSem, branchOp, settle_branch, pcOff_14]

end Sys2Proof.Proofs
end

section
/-! SUPPORT. Data accesses of the core: the scratchpad byte by byte, and the accesses that the network, the cache or a
trap answers (R273, R361, R366, R379). -/
namespace Sys2Proof.Machine
open Sys2Proof Sys2Proof.Claims

/-! ### Bytes of numbers -/

@[simp] theorem length_leBytes (k v : Nat) : (leBytes k v).length = k := by
  induction k generalizing v with
  | zero => rfl
  | succ k ih => rw [leBytes, List.length_cons, ih]

theorem getD_leBytes (k v i : Nat) (h : i < k) : (leBytes k v).getD i 0 = BitVec.ofNat 8 (v / 2 ^ (8 * i)) := by
  induction k generalizing v i with
  | zero => omega
  | succ k ih =>
    cases i with
    | zero => simp [leBytes]
    | succ i =>
      rw [leBytes, List.getD_cons_succ, ih _ _ (by omega), Nat.div_div_eq_div_mul, Nat.mul_succ, Nat.pow_add,
        Nat.mul_comm]

theorem leNum_cons (b : Byte) (t : List Byte) : leNum (b :: t) = b.toNat + 256 * leNum t := rfl

theorem leNum_lt (l : List Byte) : leNum l < 2 ^ (8 * l.length) := by
  induction l with
  | nil => decide
  | cons b t ih =>
    rw [leNum_cons, List.length_cons, Nat.mul_succ, Nat.pow_add]
    have := b.isLt
    omega

/-- A byte of a little-endian number. -/
theorem ofNat_leNum_div (l : List Byte) (i : Nat) : BitVec.ofNat 8 (leNum l / 2 ^ (8 * i)) = l.getD i 0 := by
  induction l generalizing i with
  | nil => simp [leNum]
  | cons b t ih =>
    cases i with
    | zero =>
      apply BitVec.eq_of_toNat_eq
      simp [leNum_cons, Nat.mod_eq_of_lt b.isLt]
    | succ i =>
      have hdiv : (b.toNat + 256 * leNum t) / 256 = leNum t := by
        have := b.isLt
        omega
      rw [leNum_cons, Nat.mul_succ, Nat.add_comm (8 * i), Nat.pow_add, ← Nat.div_div_eq_div_mul, hdiv, ih,
        List.getD_cons_succ]

/-- A byte of the word that eight bytes make. -/
theorem wordByte_leNum {l : List Byte} (h : l.length = 8) (i : Nat) :
    wordByte (BitVec.ofNat 64 (leNum l)) i = l.getD i 0 := by
  have hlt := leNum_lt l
  rw [h] at hlt
  rw [wordByte_eq, BitVec.toNat_ofNat, Nat.mod_eq_of_lt hlt, ofNat_leNum_div]

theorem wordByte_leNum_map (f : Nat → Byte) {i : Nat} (h : i < 8) :
    wordByte (BitVec.ofNat 64 (leNum ((List.range 8).map f))) i = f i := by
  rw [wordByte_leNum (by simp)]
  simp [List.getD_eq_getElem?_getD, h]

/-- A byte of a stored word is a byte of memory. -/
theorem wordByte_memWord (s : State) (w : Nat) {i : Nat} (h : i < 8) : wordByte (memWord s w) i = memByte s (8 * w + i) :=
  wordByte_leNum_map _ h

/-- A byte of memory after a list of bytes is stored. -/
theorem memByte_setBytes (a : Nat) (l : List Byte) (s : State) (c : Nat) :
    memByte (setBytes a l s) c = if a ≤ c ∧ c < a + l.length then l.getD (c - a) 0 else memByte s c := by
  unfold setBytes
  generalize l.length = k
  induction k with
  | zero => rw [if_neg (by omega)]; rfl
  | succ k ih =>
    rw [List.range_succ, List.foldl_append, List.foldl_cons, List.foldl_nil]
    by_cases hc : c = a + k
    · rw [hc, memByte_setByte_same, if_pos (by omega), Nat.add_sub_cancel_left]
    · rw [memByte_setByte_other _ _ hc, ih]
      exact ite_congr (propext (by omega)) (fun _ => rfl) fun _ => rfl

/-- Storing bytes changes the memory alone. -/
theorem setBytes_frame (a : Nat) (l : List Byte) (s : State) :
    setBytes a l s = { s with mem := (setBytes a l s).mem } := by
  unfold setBytes
  refine foldl_keeps (P := fun t : State => t = { s with mem := t.mem }) _ rfl fun t ht _ _ => ?_
  rw [ht]
  rfl

/-! ### Words of a SECDED memory (R366) -/

theorem secWord_intact {s : State} {w : Nat} (h : tget 0 s.memErr w = 0) : secWord s w = (memWord s w, 0, s) := by
  rw [secWord, if_pos h]

theorem getD_replicate_true (k i : Nat) : (List.replicate k true).getD i false = decide (i < k) := by
  rw [List.getD_eq_getElem?_getD, List.getElem?_replicate]
  by_cases h : i < k <;> simp [h]
/-- The bytes of word w that an access of k bytes at p reaches. -/
theorem wordEn_replicate (p k w i : Nat) :
    wordEn p (List.replicate k true) w i = decide (p ≤ 8 * w + i ∧ 8 * w + i < p + k) := by
  rw [wordEn, getD_replicate_true, ← Bool.decide_and, decide_eq_decide]
  omega

section Aligned
variable {p k : Nat} (hk : 0 < k) (hfit : p % 8 + k ≤ 8)
include hk hfit

/-- An access within one word touches that word alone. -/
theorem wordsOf_aligned : wordsOf p (List.replicate k true) = [p / 8] := by
  have hone : (p + k + 7) / 8 - p / 8 = 1 := by omega
  have hany : (List.range 8).any (wordEn p (List.replicate k true) (p / 8)) = true := by
    refine List.any_eq_true.mpr ⟨p % 8, List.mem_range.mpr (by omega), ?_⟩
    rw [wordEn_replicate, decide_eq_true_eq]
    omega
  unfold wordEn at hany
  rw [wordsOf, List.length_replicate, hone, List.range_one, List.map_singleton, Nat.zero_add]
  exact List.filter_cons_of_pos hany

/-- A write within one intact word stores it afresh, with the bytes that the write reaches replaced. -/
theorem secWrite_aligned (note : Bool → Nat → State → State) (data : List Byte) {s : State}
    (herr : tget 0 s.memErr (p / 8) = 0) :
    ∃ v, (secWrite note p (List.replicate k true) data s).2 = setErr (p / 8) 0 (setWord (p / 8) v s) ∧
      ∀ i < 8, wordByte v i = if p ≤ 8 * (p / 8) + i ∧ 8 * (p / 8) + i < p + k then data.getD (8 * (p / 8) + i - p) 0
        else memByte s (8 * (p / 8) + i) := by
  rw [secWrite, wordsOf_aligned hk hfit, List.foldl_cons, List.foldl_nil]
  dsimp only
  rw [secWord_intact herr]
  by_cases hfull : (List.range 8).all (wordEn p (List.replicate k true) (p / 8)) = true
  · rw [if_pos hfull]
    refine ⟨_, rfl, fun i hi => ?_⟩
    have hall := List.all_eq_true.mp hfull i (List.mem_range.mpr hi)
    rw [wordByte_leNum_map _ hi, hall]
    rw [wordEn_replicate, decide_eq_true_eq] at hall
    rw [if_pos rfl, if_pos hall]
  · rw [if_neg hfull]
    refine ⟨_, rfl, fun i hi => ?_⟩
    rw [wordByte_leNum_map _ hi, wordEn_replicate, wordByte_memWord _ _ hi]
    simp only [decide_eq_true_eq]

end Aligned

theorem memByte_setWord (w : Nat) (v : Word) (s : State) (c : Nat) :
    memByte (setWord w v s) c = if 8 * w ≤ c ∧ c < 8 * w + 8 then wordByte v (c - 8 * w) else memByte s c := by
  rw [setWord, memByte_setBytes, length_leBytes]
  refine ite_congr rfl (fun h => ?_) fun _ => rfl
  rw [getD_leBytes _ _ _ (by omega), wordByte_eq]

/-- u is s with the bytes `data` stored at p: nothing but memory and its recorded errors has changed. -/
structure Stored (p : Nat) (data : List Byte) (s u : State) : Prop where
  bytes : ∀ c, memByte u c = if p ≤ c ∧ c < p + data.length then data.getD (c - p) 0 else memByte s c
  frame : u = { s with mem := u.mem, memErr := u.memErr }

/-- The bytes of a number stored. -/
theorem Stored.memByte_leBytes {p k x : Nat} {s u : State} (h : Stored p (leBytes k x) s u) (c : Nat) :
    memByte u c = if p ≤ c ∧ c < p + k then BitVec.ofNat 8 (x / 2 ^ (8 * (c - p))) else memByte s c := by
  rw [h.bytes, length_leBytes]
  exact ite_congr rfl (fun h => getD_leBytes _ _ _ (by omega)) fun _ => rfl

theorem secWrite_stored (note : Bool → Nat → State → State) {p : Nat} {data : List Byte} {s : State}
    (hdata : 0 < data.length) (hfit : p % 8 + data.length ≤ 8) (herr : tget 0 s.memErr (p / 8) = 0) :
    Stored p data s (secWrite note p (List.replicate data.length true) data s).2 := by
  obtain ⟨v, hwrite, hbytes⟩ := secWrite_aligned hdata hfit note data herr
  rw [hwrite]
  constructor
  case bytes =>
    intro c
    show memByte (setWord (p / 8) v s) c = _
    rw [memByte_setWord]
    split
    · next hc =>
      have hsub : 8 * (p / 8) + (c - 8 * (p / 8)) = c := by omega
      rw [hbytes _ (by omega), hsub]
    · exact (if_neg (by omega)).symm
  case frame =>
    rw [setErr, setWord, setBytes_frame]

/-! ### Loads and stores as their access ends -/

theorem toNat_effA (s : State) (n : Fin 64) (o : BOp) : (effA s n o).toNat = ea s n o := rfl

theorem loadOp_ok {n rd k a : Nat} {v : Word} {sgn : Bool} {e : CoreErr} {s u : State} {d : List Byte}
    (hv : v.toNat = a) (h : coreLoad n a k e s = .ok d u) : loadOp n rd v k sgn e s = wrote n rd (loadVal k sgn d) u := by
  rw [loadOp, hv, h]
  rfl
theorem loadOp_no {n rd k a : Nat} {v : Word} {sgn : Bool} {e : CoreErr} {s : State} {r : OpRes}
    (hv : v.toNat = a) (h : coreLoad n a k e s = .no r) : loadOp n rd v k sgn e s = r := by
  rw [loadOp, hv, h]
theorem storeOp_ok {n k a : Nat} {v x : Word} {s u : State} {d : List Byte}
    (hv : v.toNat = a) (h : coreStore n a (leBytes k x.toNat) s = .ok d u) : storeOp n v x k s = .done u none := by
  rw [storeOp, hv, h]
theorem storeOp_no {n k a : Nat} {v x : Word} {s : State} {r : OpRes}
    (hv : v.toNat = a) (h : coreStore n a (leBytes k x.toNat) s = .no r) : storeOp n v x k s = r := by
  rw [storeOp, hv, h]

/-! ### The scratchpad (R273, R361) -/

theorem loadTable_width : ∀ e ∈ loadTable, e.2.2.1 ∈ [1, 2, 4, 8] := by decide
theorem storeTable_width : ∀ e ∈ storeTable, e.2.2 ∈ [1, 2, 4, 8] := by decide

theorem dataRegion_spad {a : Nat} (h : a < 0x20000) : dataRegion a = some 0 := if_pos h
theorem dataAddr_spad (s : State) (n : Fin 64) {a : Nat} (h : a < 0x20000) : dataAddr s n a = spad n a := by
  simp only [dataAddr, dataRegion_spad h, spad]

/-- An access is at fault exactly when it lies outside the regions or off a multiple of its width (R273). -/
theorem badData_iff (a w : Nat) : badData a w = true ↔ dataRegion a = none ∨ a % w ≠ 0 := by
  simp [badData]
theorem badData_region {a w r : Nat} (hr : dataRegion a = some r) (hw : a % w = 0) : badData a w = false := by
  simp [badData, hr, hw]

section Scratchpad
variable {n : Fin 64} {s : State} {a k : Nat} (ha : a < 0x20000) (hk : k ∈ [1, 2, 4, 8]) (halign : a % k = 0)
  (herr : tget 0 s.memErr (spad n a / 8) = 0)
include ha hk halign herr

omit ha herr in
/-- An aligned access lies within one word. -/
theorem spad_within_word : 0 < k ∧ a % 8 + k ≤ 8 := by
  simp only [List.mem_cons, List.not_mem_nil, or_false] at hk
  obtain rfl | rfl | rfl | rfl := hk <;> omega

theorem coreLoad_spad : coreLoad n a k .none s = .ok (memBytes s (spad n a) k) s := by
  obtain ⟨hpos, hfit⟩ := spad_within_word hk halign
  have hmod : spad n a = 8 * (spad n a / 8) + a % 8 := by
    unfold spad
    omega
  rw [coreLoad, badData_region (dataRegion_spad ha) halign, dataRegion_spad ha]
  dsimp only
  rw [dataAddr_spad s n ha, secWord_intact herr, if_neg Bool.false_ne_true]
  have hbytes : (List.range k).map (fun i => wordByte (memWord s (spad n a / 8)) (a % 8 + i)) =
      memBytes s (spad n a) k := by
    refine List.map_congr_left fun i hi => ?_
    have := List.mem_range.mp hi
    rw [wordByte_memWord _ _ (by omega), ← Nat.add_assoc, ← hmod]
  simp [hbytes]

theorem coreStore_spad {data : List Byte} (hdata : data.length = k) :
    ∃ u, coreStore n a data s = .ok [] u ∧ Stored (spad n a) data s u := by
  obtain ⟨hpos, hfit⟩ := spad_within_word hk halign
  have hmod : spad n a % 8 = a % 8 := by
    unfold spad
    omega
  refine ⟨_, ?_, secWrite_stored (spadNote n n 0) (hdata ▸ hpos) (by rw [hmod, hdata]; exact hfit) herr⟩
  rw [coreStore, hdata, badData_region (dataRegion_spad ha) halign, dataRegion_spad ha, dataAddr_spad s n ha]
  rfl

end Scratchpad

/-! ### Accesses at fault (R273, R274) -/

section
variable {n a k : Nat} (hbad : dataRegion a = none ∨ a % k ≠ 0) (s : State)
include hbad

theorem coreLoad_bad (e : CoreErr) : coreLoad n a k e s = .no (.trap s 2 0 0 (some (BitVec.ofNat 32 a)) 0) := by
  rw [coreLoad, (badData_iff a k).mpr hbad]
  rfl
theorem coreStore_bad {data : List Byte} (hdata : data.length = k) :
    coreStore n a data s = .no (.trap s 2 0 0 (some (BitVec.ofNat 32 a)) 0) := by
  rw [coreStore, hdata, (badData_iff a k).mpr hbad]
  rfl

end

/-- ILD reads the instruction space and faults outside it (R274). -/
theorem settle_ildOp (n : Fin 64) (o : BOp) (s : State) : settle n false (ildOp n o s) = if ea s n o < 16384 then
      wordDone n (setReg n o.rd ((tget 0 (getCore s n).imem (ea s n o)).setWidth 64) s)
    else wordTraps n 2 0 0 (some (BitVec.ofNat 32 (ea s n o))) 0 false s := by
  by_cases h : 16384 ≤ ea s n o
  · rw [ildOp, if_neg (Nat.not_lt.mpr h)]
    exact congrArg (settle n false) (if_pos h)
  · rw [ildOp, if_pos (Nat.lt_of_not_le h)]
    exact congrArg (settle n false) (if_neg h)

/-! ### Staging and the cache (R273, R379) -/

section
variable {n a k : Nat} (halign : a % k = 0) (s : State)
include halign

/-- An access of the staging region ends as the network answers its request. -/
theorem coreLoad_staging (hregion : dataRegion a = some 1) : coreLoad n a k .none s =
    coreResp a (nocAccess n n false (a - 0x4000000) (List.replicate k true) [] s) := by
  simp only [coreLoad, badData_region hregion halign, hregion, dataAddr, Bool.false_eq_true, if_false]
theorem coreStore_staging {data : List Byte} (hdata : data.length = k) (hregion : dataRegion a = some 1) :
    coreStore n a data s = coreResp a (nocAccess n n true (a - 0x4000000) (List.replicate k true) data s) := by
  simp only [coreStore, hdata, badData_region hregion halign, hregion, dataAddr, Bool.false_eq_true, if_false]

/-- A load of an HBM window whose line is in the cache takes its bytes from there. -/
theorem coreLoad_cached {w : Nat} {l : CacheLine} (hregion : dataRegion a = some (2 + w))
    (hline : tlook (getCore s n).cache ((dataAddr s n a - hbmVBase) / 64) = some l) :
    coreLoad n a k .none s = .ok ((List.range k).map fun i => tget 0 l.bytes (dataAddr s n a % 64 + i)) s := by
  rw [coreLoad, badData_region hregion halign, if_neg Bool.false_ne_true, hregion]
  dsimp only
  split
  · next h => exact absurd (Option.some.inj h) (by omega)
  · next h => exact absurd (Option.some.inj h) (by omega)
  · rw [if_neg nofun, hline]

end

theorem coreResp_ok (a po : Nat) (d : List Byte) (u : State) : coreResp a (.done 0 d po, u) = .ok d u := rfl
theorem coreResp_wait (a : Nat) (u : State) : coreResp a (.wait, u) = .no (.stall u) := rfl
theorem coreResp_status {st : Nat} (h : st ≠ 0) (a po : Nat) (d : List Byte) (u : State) :
    coreResp a (.done st d po, u) = .no (.trap u 3 st 0 (some (BitVec.ofNat 32 a)) 0) := by
  cases st with
  | zero => exact absurd rfl h
  | succ st => rfl

/-! ### Fetch (R253, R546) -/

theorem runWord_illegal {n : Nat} {s : State} (hready : coreReady s n = true)
    (hword : imemWord s n (getCore s n).pc = none) (mn : Op) (sem : BOp → CoreErr → State → OpRes) :
    runWord n mn sem .none s = raiseTrap n 1 false 0 0 none 0 s := by
  simp only [runWord, hready, hword, if_true, reduceCtorEq, if_false]

/-- An uncorrectable fetch error is reported and traps. -/
theorem runWord_fetchUe {n : Nat} {s : State} (hready : coreReady s n = true) (mn : Op)
    (sem : BOp → CoreErr → State → OpRes) :
    ∃ u, runWord n mn sem .fetchUe s = raiseTrap n 10 (getCore s n).slot 0 0 none 5 u ∧ Reports s u := by
  refine ⟨devLogM 6 3 0 n n (getCore s n).pc.toNat (seqEccValue (satF (fSEQ_ECC_ISR_UE n) 1 s) n)
    (satF (fSEQ_ECC_ISR_UE n) 1 s), ?_, (setF_reports _ _ s).trans (devLogM_reports ..)⟩
  simp only [runWord, hready, if_true]

end Sys2Proof.Machine
end

section
namespace Sys2Proof.Proofs
open Sys2Proof Sys2Proof.Machine Sys2Proof.Claims

/-- Settles O5: an aligned access lies within one intact word, whose bytes are those of memory. -/
theorem scratchpadLoadsAndStores : Obligations.ScratchpadLoadsAndStores := by
  unfold Obligations.ScratchpadLoadsAndStores
  refine ⟨fun e he n s o hat hop ha halign herr => ?load, fun e he n s o hat hop ha halign herr => ?store⟩
  case load =>
    rw [(loadTable_means e he).atLong hat hop,
      loadOp_ok (toNat_effA s n o) (coreLoad_spad ha (loadTable_width e he) halign herr)]
    rfl
  case store =>
    obtain ⟨u, hu, hstored⟩ :=
      coreStore_spad ha (storeTable_width e he) halign herr (length_leBytes e.2.2 (regOf s n o.rd).toNat)
    refine ⟨u, ?_, hstored.memByte_leBytes, ?_⟩
    · rw [(storeTable_means e he).atLong hat hop, storeOp_ok (toNat_effA s n o) hu]
      rfl
    · rw [hstored.frame]
      exact ⟨rfl, rfl, rfl, rfl, rfl⟩

/-- Settles O6: the access ends as the answer of the network says, or with the bytes of the cached line. -/
theorem remoteLoadsAndStores : Obligations.RemoteLoadsAndStores := by
  unfold Obligations.RemoteLoadsAndStores
  refine ⟨fun e he n s u o d po st hat hop hregion halign => ?load,
    fun e he n s u o d po hat hop hregion halign hreq => ?store,
    fun e he n s o w l hat hop hregion halign hline => ?cached⟩
  case load =>
    rw [(loadTable_means e he).atLong hat hop]
    have hload := coreLoad_staging (n := n) halign s hregion
    refine ⟨fun hreq => ?_, fun hst hreq => ?_, fun hreq => ?_⟩
    · rw [loadOp_ok (toNat_effA s n o) (hload.trans (by rw [hreq, coreResp_ok]))]
      rfl
    · rw [loadOp_no (toNat_effA s n o) (hload.trans (by rw [hreq, coreResp_status hst]))]
      rfl
    · rw [loadOp_no (toNat_effA s n o) (hload.trans (by rw [hreq, coreResp_wait]))]
      rfl
  case store =>
    have hstore := coreStore_staging (n := n) halign s (length_leBytes e.2.2 (regOf s n o.rd).toNat) hregion
    rw [(storeTable_means e he).atLong hat hop, storeOp_ok (toNat_effA s n o) (hstore.trans (by rw [hreq, coreResp_ok]))]
    rfl
  case cached =>
    rw [(loadTable_means e he).atLong hat hop, loadOp_ok (toNat_effA s n o) (coreLoad_cached halign s hregion hline)]
    rfl

/-- Settles O7: each fault is raised before anything else happens, and a fetch error only reports. -/
theorem dataAccessFaults : Obligations.DataAccessFaults := by
  unfold Obligations.DataAccessFaults
  have hadd := aluTable_means _ (.head _)
  refine ⟨fun e he n s o hat hop hbad => ?load, fun e he n s o hat hop hbad => ?store, fun n s o hat hop => ?ild,
    fun n s hready hword => (hadd n .none s).trans (congrArg _ (runWord_illegal hready hword _ _)),
    fun n s hready => ?fetch⟩
  case load =>
    rw [(loadTable_means e he).atLong hat hop, loadOp_no (toNat_effA s n o) (coreLoad_bad hbad s _)]
    rfl
  case store =>
    rw [(storeTable_means e he).atLong hat hop, storeOp_no (toNat_effA s n o) (coreStore_bad hbad s (length_leBytes ..))]
    rfl
  case ild => rw [ild_means.atLong hat hop, settle_ildOp]
  case fetch =>
    obtain ⟨u, hrun, hreports⟩ := runWord_fetchUe hready .add (aluSem (fun a b _ => a + b) n)
    exact ⟨u, (hadd n .fetchUe s).trans (congrArg _ hrun), hreports.mem, hreports.cores⟩

end Sys2Proof.Proofs
end

section
/-! SUPPORT. Pairs and repeats (R262, R264, R278): what a short operation does, how a pair runs its two, and what the
completion of a word makes of a repeat. -/
namespace Sys2Proof.Machine
open Sys2Proof Sys2Proof.Claims

/-! ### The commands -/

/-- Where the word at the program counter is a pair, its first operation's command runs it. -/
theorem Means.atPair {c : Fin 64 → CoreErr → Instr} {mn : Op} {sem : Fin 64 → BOp → CoreErr → State → OpRes}
    (h : Means c mn sem) {n : Fin 64} {s : State} {a b : BOp} (hat : AtPair s n a b) (hop : a.op = mn) :
    exec (c n .none) s = .next (runPair n a b .none s) := by
  obtain ⟨hready, hslot, hword⟩ := hat
  rw [h n .none s]
  simp only [runWord, hready, hword, pairOp, hslot, hop, if_true, reduceCtorEq, if_false, Bool.false_eq_true]

theorem slot_of_atPair {n : Fin 64} {s : State} {a b : BOp} (h : AtPair s n a b) : (getCore s n).slot = false := h.2.1

/-- What a short command does where it names a long operation: nothing but completing, since no long operation is
short. -/
def shortSem (_ : Fin 64) (_ : BOp) (_ : CoreErr) (s : State) : OpRes := .done s none

theorem shortTable_means : ∀ e ∈ shortTable, Means e.1 e.2.1 shortSem := by
  simp only [shortTable, List.forall_mem_cons, List.not_mem_nil, false_implies, implies_true, and_true]
  exact ⟨fun _ _ _ => rfl, fun _ _ _ => rfl, fun _ _ _ => rfl, fun _ _ _ => rfl, fun _ _ _ => rfl, fun _ _ _ => rfl,
    fun _ _ _ => rfl, fun _ _ _ => rfl, fun _ _ _ => rfl, fun _ _ _ => rfl, fun _ _ _ => rfl, fun _ _ _ => rfl,
    fun _ _ _ => rfl, fun _ _ _ => rfl, fun _ _ _ => rfl, fun _ _ _ => rfl, fun _ _ _ => rfl, fun _ _ _ => rfl,
    fun _ _ _ => rfl⟩
theorem shortNop_means : Means .shortNop .shortNop shortSem := fun _ _ _ => rfl
theorem ldq_means : Means .ldq .ldq shortSem := fun _ _ _ => rfl
theorem ldqp_means : Means .ldqp .ldqp shortSem := fun _ _ _ => rfl
theorem stq_means : Means .stq .stq shortSem := fun _ _ _ => rfl
theorem stqp_means : Means .stqp .stqp shortSem := fun _ _ _ => rfl
theorem prefix_means : ∀ e ∈ [((.rep : Fin 64 → CoreErr → Instr), Op.rep), (.repi, .repi)], Means e.1 e.2 shortSem := by
  simp only [List.forall_mem_cons, List.not_mem_nil, false_implies, implies_true, and_true]
  exact ⟨fun _ _ _ => rfl, fun _ _ _ => rfl⟩

/-! ### Short operations (R264) -/

theorem zxw_eq (b : Word) : (b.setWidth 32).setWidth 64 = BitVec.ofNat 64 (b.toNat % 2 ^ 32) :=
  BitVec.eq_of_toNat_eq (by simp)

/-- A short register operation writes the result of the table to rd. -/
theorem shortOp_of_table : ∀ e ∈ shortTable, ∀ o : BOp, o.op = e.2.1 → ∀ n err s,
    shortOp n o err s = wrote n o.rd (e.2.2 (regOf s n o.rd) (regOf s n o.rs) o.rs) s := by
  simp only [shortTable, ← ctzW_eq, ← popW_eq, ← zxw_eq, List.forall_mem_cons, List.not_mem_nil, false_implies,
    implies_true, and_true]
  and_intros
  all_goals
    intro o hop n err s
    simp only [shortOp, shortVal, hop]
  all_goals rfl

theorem isPrefix_of_table : ∀ e ∈ shortTable, ∀ o : BOp, o.op = e.2.1 → isPrefix o = false := by
  have hall : ∀ e ∈ shortTable, (e.2.1 == Op.rep || e.2.1 == Op.repi) = false := by decide
  intro e he o hop
  rw [isPrefix, hop, hall e he]

theorem shortOp_nop {o : BOp} (h : o.op = .shortNop) (n : Nat) (e : CoreErr) (s : State) :
    shortOp n o e s = .done s none := by
  simp only [shortOp, h]
theorem shortOp_ldq {o : BOp} (h : o.op = .ldq) (n : Nat) (e : CoreErr) (s : State) :
    shortOp n o e s = loadOp n o.rd (regOf s n o.rs) 8 false e s := by
  simp only [shortOp, h]
theorem shortOp_stq {o : BOp} (h : o.op = .stq) (n : Nat) (e : CoreErr) (s : State) :
    shortOp n o e s = storeOp n (regOf s n o.rs) (regOf s n o.rd) 8 s := by
  simp only [shortOp, h]
/-- LDQP and STQP add 8 to rs once their access has succeeded. -/
theorem shortOp_ldqp {o : BOp} (h : o.op = .ldqp) {n : Nat} {e : CoreErr} {s u : State}
    (hload : loadOp n o.rd (regOf s n o.rs) 8 false e s = .done u none) :
    shortOp n o e s = .done (setReg n o.rs (regOf s n o.rs + 8) u) none := by
  simp only [shortOp, h, hload]
theorem shortOp_stqp {o : BOp} (h : o.op = .stqp) {n : Nat} {e : CoreErr} {s u : State}
    (hstore : storeOp n (regOf s n o.rs) (regOf s n o.rd) 8 s = .done u none) :
    shortOp n o e s = .done (setReg n o.rs (regOf s n o.rs + 8) u) none := by
  simp only [shortOp, h, hstore]

theorem isPrefix_eq_true {o : BOp} {op : Op} (h : o.op = op) (hop : op ∈ [Op.rep, .repi]) : isPrefix o = true := by
  have hall : ∀ op ∈ [Op.rep, .repi], (op == Op.rep || op == Op.repi) = true := by decide
  rw [isPrefix, h, hall op hop]
theorem isPrefix_eq_false {o : BOp} {op : Op} (h : o.op = op) (hop : (op == Op.rep || op == Op.repi) = false) :
    isPrefix o = false := by
  rw [isPrefix, h, hop]

/-! ### Pairs (R262, R278) -/

/-- A core that begins a repeat of the second operation, of k turns. -/
def repeating (k : Nat) (c : Core) : Core := { c with rep := some ⟨k, false⟩, slot := true }

section Pair
variable {n : Nat} {s : State} {a b : BOp} (hslot : (getCore s n).slot = false)
include hslot

/-- The second operation runs in the state that the first leaves. -/
theorem runPair_done {u : State} {g : Option (BitVec 14 × Bool × Option Rep)} (ha : isPrefix a = false)
    (hb : isPrefix b = false) (hfirst : shortOp n a .none s = .done u g) :
    runPair n a b .none s = settle n true (shortOp n b .none u) := by
  simp only [runPair, ha, hb, hslot, hfirst, Bool.false_eq_true, false_and, if_false, reduceCtorEq, or_self]

theorem runPair_then_nop {u : State} (ha : isPrefix a = false) (hb : b.op = .shortNop)
    (hfirst : shortOp n a .none s = .done u none) : runPair n a b .none s = wordDone n u := by
  rw [runPair_done hslot ha (isPrefix_eq_false hb rfl) hfirst, shortOp_nop hb]
  rfl

/-- REP or REPI in the first slot: its target runs in a repeat of its count, or is skipped. -/
theorem runPair_prefix_first (ha : isPrefix a = true) (hb : isPrefix b = false) : runPair n a b .none s =
    if repCount s n a = 0 then skipTo n ((getCore s n).pc + 1) s
    else settle n true (shortOp n b .none (updCore n (repeating (repCount s n a)) s)) := by
  simp only [runPair, ha, hb, hslot, Bool.false_eq_true, false_and, if_false, if_true]
  rfl

/-- REP or REPI in the second slot, whose target may be repeated, is reached after the first operation. -/
theorem runPair_prefix_second {u : State} {g : Option (BitVec 14 × Bool × Option Rep)} (ha : isPrefix a = false)
    (hb : isPrefix b = true) (htarget : noRepeatWord (imemWord s n (loopEnd (getCore s n) (getCore s n).pc).1) = false)
    (hfirst : shortOp n a .none s = .done u g) : runPair n a b .none s = prefixSecond n b u := by
  simp only [runPair, ha, hb, hslot, htarget, hfirst, Bool.false_eq_true, and_false, if_false, if_true]

end Pair

/-! ### Registers of the core -/

@[simp] theorem writeReg_pc (r : Nat) (v : Word) (c : Core) : (writeReg r v c).pc = c.pc := by
  unfold writeReg
  split <;> rfl
@[simp] theorem writeReg_rep (r : Nat) (v : Word) (c : Core) : (writeReg r v c).rep = c.rep := by
  unfold writeReg
  split <;> rfl
@[simp] theorem writeReg_sr (r : Nat) (v : Word) (c : Core) : (writeReg r v c).sr = c.sr := by
  unfold writeReg
  split <;> rfl
/-- A register reads the same in cores with the same registers and the same window. -/
theorem readReg_congr {c d : Core} (hs : c.shared = d.shared) (hw : c.window = d.window) (hp : c.cwp = d.cwp) (r : Nat) :
    readReg c r = readReg d r := by
  simp only [readReg, winIdx, hs, hw, hp]
@[simp] theorem readReg_writeReg_same (r : Nat) (v : Word) (c : Core) : readReg (writeReg r v c) r = v := by
  unfold readReg writeReg
  by_cases h : r < 8 <;> simp [h, winIdx]

theorem regOf_updCore (n r : Nat) (g : Core → Core) (s : State) :
    regOf (updCore n g s) n r = readReg (g (getCore s n)) r := by
  rw [regOf, getCore_updCore_same]

/-! ### Loop ends (R277) -/

/-- The core c with the special registers m. -/
def withSr (m : Tbl Word) (c : Core) : Core := { c with sr := m }
theorem getSr_withSr (c d : Core) (k : Nat) : getSr (withSr d.sr c) k = getSr d k := rfl
theorem setSr_withSr (c d : Core) (k : Nat) (v : Word) : setSr k v (withSr d.sr c) = withSr (setSr k v d).sr c := rfl

/-- x is y but for the core, which is c with the special registers of y's. -/
def SrFrom (c : Core) (x y : BitVec 14 × Core × Bool) : Prop := x = (y.1, withSr y.2.1.sr c, y.2.2)

/-- The examination of the loop ends reads and changes the special registers alone. -/
theorem loopEnd_withSr (c d : Core) (e : BitVec 14) :
    loopEnd (withSr d.sr c) e = ((loopEnd d e).1, withSr (loopEnd d e).2.sr c) := by
  unfold loopEnd
  generalize hx : List.foldl _ (e + 1, withSr d.sr c, false) _ = x
  generalize hy : List.foldl _ (e + 1, d, false) _ = y
  have hrel : SrFrom c x y := by
    rw [← hx, ← hy]
    refine List.foldl_rel rfl ?_
    rintro l - x ⟨t, d, stop⟩ rfl
    simp only [getSr_withSr, setSr_withSr]
    by_cases hend : (!stop && getSr d (8 + l) != 0 && BitVec.setWidth 14 (getSr d (4 + l)) == e) = true
    · by_cases hlast : getSr d (8 + l) - 1 = 0
      · simp only [hend, hlast, if_true, ne_eq, not_true_eq_false, if_false]
        rfl
      · simp only [hend, hlast, if_true, ne_eq, not_false_eq_true]
        rfl
    · simp only [hend]
      rfl
  rw [hrel]

/-- Cores with the same special registers go on at the same address with the same special registers. -/
theorem loopEnd_of_sr {c d : Core} (h : c.sr = d.sr) (e : BitVec 14) :
    loopEnd c e = ((loopEnd d e).1, { c with sr := (loopEnd d e).2.sr }) := by
  have hc : withSr d.sr c = c := by rw [← h]; rfl
  have hloop := loopEnd_withSr c d e
  rwa [hc] at hloop

/-! ### The completion of a word (R278) -/

/-- A turn of a repeat that is not the last. -/
theorem completeWord_turn {c : Core} {r : Rep} (hrep : c.rep = some r) (hrem : 1 < r.rem) : completeWord none c =
    { c with state := .running, mid := false, rep := some { r with rem := r.rem - 1 }, slot := !r.whole } := by
  simp only [completeWord, hrep, hrem, if_true]
/-- The last turn of a repeat, or a word without one, ends with the examination of the loop ends. -/
theorem completeWord_last {c : Core} (hrep : ∀ r, c.rep = some r → r.rem ≤ 1) : completeWord none c =
    { c with state := .running, mid := false, pc := (loopEnd c c.pc).1, slot := false, rep := none,
             sr := (loopEnd c c.pc).2.sr } := by
  have hloop (rep : Option Rep) :=
    loopEnd_of_sr (c := { c with state := .running, mid := false, rep := rep }) (d := c) rfl c.pc
  cases h : c.rep with
  | none => simp only [completeWord, h, hloop]
  | some r => simp only [completeWord, h, if_neg (Nat.not_lt.mpr (hrep r h)), hloop]

/-- With no halt requested the end of a word changes nothing more (R289). -/
theorem finishWord_running {n : Nat} {s : State} (h : getF s (fSEQ_CTL_HALT n) = 0) : finishWord n s = s := by
  simp [finishWord, bitF, h]

/-! ### Turns of a repeat (R278) -/

theorem repCount_eq {o : BOp} {op : Op} (h : o.op = op) (s : State) (n : Nat) :
    repCount s n o = if op = .rep then (regOf s n o.rs).toNat % 2 ^ 32 else o.rd * 32 + o.rs := by
  rw [repCount, h]

/-- A turn before the last leaves the pair at its second operation, with one turn less. -/
theorem turn_of_one_lt (c : Core) (rd : Nat) (v : Word) {k : Nat} (hk : 1 < k) :
    let d := completeWord none (writeReg rd v (repeating k c))
    d.pc = c.pc ∧ d.slot = true ∧ d.rep = some ⟨k - 1, false⟩ ∧ readReg d rd = v := by
  intro d
  have hd : d = _ := completeWord_turn (r := ⟨k, false⟩) (writeReg_rep ..) hk
  rw [hd]
  exact ⟨writeReg_pc .., rfl, rfl, (readReg_congr rfl rfl rfl rd).trans (readReg_writeReg_same ..)⟩

/-- The last turn completes the word. -/
theorem turn_last (c : Core) (rd : Nat) (v : Word) :
    let d := completeWord none (writeReg rd v (repeating 1 c))
    d.pc = (loopEnd c c.pc).1 ∧ d.slot = false ∧ d.rep = none ∧ readReg d rd = v := by
  intro d
  have hlast : ∀ r, (writeReg rd v (repeating 1 c)).rep = some r → r.rem ≤ 1 := by
    rw [writeReg_rep]
    rintro _ ⟨⟩
    exact Nat.le_refl 1
  have hd : d = _ := completeWord_last hlast
  have hsr : (writeReg rd v (repeating 1 c)).sr = c.sr := writeReg_sr ..
  rw [hd]
  refine ⟨?_, rfl, rfl, (readReg_congr rfl rfl rfl rd).trans (readReg_writeReg_same ..)⟩
  rw [writeReg_pc, loopEnd_of_sr hsr]
  rfl

theorem regOf_repeating (n k r : Nat) (s : State) : regOf (updCore n (repeating k) s) n r = regOf s n r :=
  regOf_updCore ..

/-- The target of a repeat of k turns runs its first turn. -/
theorem settle_turn {n : Nat} {s : State} (hhalt : getF s (fSEQ_CTL_HALT n) = 0) (rd : Nat) (v : Word) (k : Nat) :
    ∃ t, settle n true (wrote n rd v (updCore n (repeating k) s)) = t ∧ t.mem = s.mem ∧
      getCore t n = completeWord none (writeReg rd v (repeating k (getCore s n))) := by
  refine ⟨_, finishWord_running hhalt, rfl, ?_⟩
  rw [getCore_updCore_same, setReg, getCore_updCore_same, getCore_updCore_same]

/-- REP or REPI in the second slot, with a count, completes its word, and the next word is to be repeated. -/
theorem prefixSecond_runs {n : Nat} {s : State} {b : BOp} (hhalt : getF s (fSEQ_CTL_HALT n) = 0)
    (hrep : (getCore s n).rep = none) (hcount : 0 < repCount s n b) : ∃ u, prefixSecond n b s = u ∧ u.mem = s.mem ∧
      (getCore u n).pc = (loopEnd (getCore s n) (getCore s n).pc).1 ∧ (getCore u n).slot = false ∧
      (getCore u n).rep = some ⟨repCount s n b, true⟩ ∧ ∀ r, regOf u n r = regOf s n r := by
  refine ⟨_, (if_neg (Nat.ne_of_gt hcount)).trans (finishWord_running hhalt), rfl, ?_⟩
  simp only [regOf, getCore_updCore_same, completeWord_last (c := getCore s n) (by rw [hrep]; exact nofun)]
  exact ⟨trivial, trivial, trivial, fun r => readReg_congr rfl rfl rfl r⟩

end Sys2Proof.Machine
end

section
namespace Sys2Proof.Proofs
open Sys2Proof Sys2Proof.Machine Sys2Proof.Claims

/-- Settles O8: the first operation writes its register, and the second runs in the state that leaves. -/
theorem pairsRunInOrder : Obligations.PairsRunInOrder := by
  unfold Obligations.PairsRunInOrder
  refine ⟨fun e he f hf n s a b hat ha hb => ?both, fun n s a b hat ha hb => ?nops, fun f hf n s a b hat ha hb => ?second⟩
  case both =>
    rw [(shortTable_means e he).atPair hat ha,
      runPair_done (slot_of_atPair hat) (isPrefix_of_table e he a ha) (isPrefix_of_table f hf b hb)
        (shortOp_of_table e he a ha n _ s), shortOp_of_table f hf b hb]
    rfl
  case nops =>
    rw [shortNop_means.atPair hat ha,
      runPair_done (slot_of_atPair hat) (isPrefix_eq_false ha rfl) (isPrefix_eq_false hb rfl)
      (shortOp_nop ha n _ s), shortOp_nop hb]
    rfl
  case second =>
    rw [shortNop_means.atPair hat ha,
      runPair_done (slot_of_atPair hat) (isPrefix_eq_false ha rfl) (isPrefix_of_table f hf b hb)
      (shortOp_nop ha n _ s), shortOp_of_table f hf b hb]
    rfl

/-- Settles O9: the access of a doubleword of the scratchpad, and after it the addition to rs. -/
theorem quadAccessesAndPostIncrement : Obligations.QuadAccessesAndPostIncrement := by
  unfold Obligations.QuadAccessesAndPostIncrement
  intro n s a b hat hb p v stored ha halign herr
  have hslot := slot_of_atPair hat
  have hload := loadOp_ok (rd := a.rd) (sgn := false) rfl (coreLoad_spad ha (by decide) halign herr)
  obtain ⟨u, hu, h⟩ := coreStore_spad ha (by decide) halign herr (length_leBytes 8 (regOf s n a.rd).toNat)
  have hstore := storeOp_ok rfl hu
  have hstored : stored u := ⟨by rw [h.frame], by rw [h.frame], by rw [h.frame], h.memByte_leBytes⟩
  refine ⟨fun hop => ?ldq, fun hop => ?ldqp, fun hop => ⟨u, ?stq, hstored⟩, fun hop => ⟨u, ?stqp, hstored⟩⟩
  case ldq =>
    rw [ldq_means.atPair hat hop,
      runPair_then_nop hslot (isPrefix_eq_false hop rfl) hb ((shortOp_ldq hop n _ s).trans hload)]
    rfl
  case ldqp =>
    rw [ldqp_means.atPair hat hop, runPair_then_nop hslot (isPrefix_eq_false hop rfl) hb (shortOp_ldqp hop hload)]
    rfl
  case stq =>
    rw [stq_means.atPair hat hop,
      runPair_then_nop hslot (isPrefix_eq_false hop rfl) hb ((shortOp_stq hop n _ s).trans hstore)]
  case stqp =>
    rw [stqp_means.atPair hat hop, runPair_then_nop hslot (isPrefix_eq_false hop rfl) hb (shortOp_stqp hop hstore)]

/-- Settles O10: REP and REPI begin a repeat, of which the first turn runs at once; in the second slot they leave the
repeat of the next word. -/
theorem repeatsTurnTheirTarget : Obligations.RepeatsTurnTheirTarget := by
  unfold Obligations.RepeatsTurnTheirTarget
  refine ⟨?first, ?second⟩
  case first =>
    intro e he f hf n s a b hat ha hb hhalt hrep k v
    have hexec : exec (e.1 n .none) s = .next (if k = 0 then skipTo n ((getCore s n).pc + 1) s
        else settle n true (wrote n b.rd v (updCore n (repeating k) s))) := by
      rw [(prefix_means e he).atPair hat ha, runPair_prefix_first (slot_of_atPair hat)
        (isPrefix_eq_true ha (List.mem_map_of_mem (f := Prod.snd) he)) (isPrefix_of_table f hf b hb),
        repCount_eq ha, shortOp_of_table f hf b hb, regOf_repeating, regOf_repeating]
    obtain ⟨t, hturn, hmem, hcore⟩ := settle_turn hhalt b.rd v k
    refine ⟨fun hk => ?skip, fun hk => ⟨t, ?_, ?turn⟩, fun hk => ⟨t, ?_, ?last⟩⟩
    case skip =>
      rw [hexec, if_pos hk]
      exact congrArg _ (finishWord_running hhalt)
    case turn =>
      obtain ⟨hpc, hslot, hrep, hreg⟩ := turn_of_one_lt (getCore s n) b.rd v hk
      rw [regOf, hcore]
      exact ⟨hpc, hslot, hrep, hreg, hmem⟩
    case last =>
      obtain ⟨hpc, hslot, hrep, hreg⟩ := turn_last (getCore s n) b.rd v
      rw [regOf, hcore, hk]
      exact ⟨hpc, hslot, hrep, hreg, hmem⟩
    all_goals rw [hexec, if_neg (by omega), hturn]
  case second =>
    intro op hop n s a b hat ha hb hhalt hrep t k htarget hk
    have hpre := isPrefix_eq_true hb hop
    obtain ⟨u, hu, hmem, hpc, hslot, hrep, hregs⟩ :=
      prefixSecond_runs (b := b) hhalt hrep (by rw [repCount_eq hb]; exact hk)
    rw [repCount_eq hb] at hrep
    refine ⟨u, ?_, hpc, hslot, hrep, hmem, fun r _ => hregs r⟩
    rw [shortNop_means.atPair hat ha, runPair_prefix_second (slot_of_atPair hat) (isPrefix_eq_false ha rfl) hpre htarget
      (shortOp_nop ha n _ s), hu]

end Sys2Proof.Proofs
end

section
/-! SUPPORT. Calls and returns within the resident windows, and their faults (R256, R257, R259, R260). -/
namespace Sys2Proof.Machine
open Sys2Proof Sys2Proof.Claims

/-! ### A fault without effect -/

/-- A second entry at a key replaces the first. -/
theorem tput_tput {α : Type} (m : Tbl α) (k : Nat) (u v : α) : tput (tput m k u) k v = tput m k v := by
  induction m with
  | nil => simp [tput]
  | cons e t ih =>
    obtain ⟨j, w⟩ := e
    by_cases hlt : k < j
    · simp only [tput, hlt, if_true, Nat.lt_irrefl, if_false]
    · by_cases heq : k = j
      · subst heq
        simp only [tput, Nat.lt_irrefl, if_true, if_false]
      · simp only [tput, hlt, heq, if_false, ih]
theorem tset_tset_of_ne {α : Type} [DecidableEq α] {d u v : α} (m : Tbl α) (k : Nat) (hu : u ≠ d) (hv : v ≠ d) :
    tset d (tset d m k u) k v = tset d m k v := by
  rw [tset, tset, tset, if_neg hu, if_neg hv, if_neg hv, tput_tput]

/-- A core that is not halted is not the core after reset, so that the later of two updates is the one that counts. -/
theorem setCore_setCore {n : Nat} {c d : Core} (s : State) (hc : c.state ≠ .halted) (hd : d.state ≠ .halted) :
    setCore n d (setCore n c s) = setCore n d s := by
  have hreset {c : Core} (h : c.state ≠ .halted) : c ≠ Core.reset := fun heq => h (by rw [heq]; rfl)
  simp only [setCore, tset_tset_of_ne s.cores n (hreset hc) (hreset hd)]

theorem undoCore_self (n : Nat) (s : State) : undoCore n s s = setCore n (getCore s n) s := rfl

/-- A spill fault at the start of a CALL or RETURN has no effect but the trap (R260). -/
theorem raiseTrap_undoCore {n : Nat} {s : State} (hrun : (getCore s n).state ≠ .halted) (cause status why : Nat)
    (bad : Option (BitVec 32)) (mcsrc : Nat) (slot : Bool) :
    raiseTrap n cause slot status why bad mcsrc (undoCore n s s) = raiseTrap n cause slot status why bad mcsrc s := by
  have hsame : getCore (undoCore n s s) n = getCore s n := getCore_updCore_same ..
  rw [raiseTrap, updCore, hsame, undoCore_self]
  exact setCore_setCore s hrun nofun

theorem not_halted_of_ready {s : State} {n : Nat} (h : coreReady s n = true) : (getCore s n).state ≠ .halted := by
  simp only [coreReady, Bool.and_eq_true, bne_iff_ne] at h
  obtain ⟨⟨⟨⟨hstate, -⟩, -⟩, -⟩, -⟩ := h
  exact hstate

/-! ### Windows (R256, R257, R259) -/

/-- The core once a CALL with mask m has slid its window to a free one. -/
def called (m : Nat) (c : Core) : Core :=
  { c with masks := tset 0 c.masks c.cwp (BitVec.ofNat 8 m), ras := tset 0 c.ras c.cwp (c.pc + 1),
           cwp := (c.cwp + 16) % 504, res := c.res + 1, depth := c.depth + 1 }
/-- The core once a RETURN has slid its window back to a resident one. -/
def returned (c : Core) : Core :=
  { c with cwp := (c.cwp + 488) % 504, depth := c.depth - 1, res := c.res - 1 }

/-- The caller's w24 to w31 are the callee's w8 to w15, and w0 to w7 stay. -/
theorem readReg_called (m : Nat) (c : Core) {r : Nat} (hr : r < 8) :
    readReg (called m c) r = readReg c r ∧ readReg (called m c) (8 + r) = readReg c (24 + r) := by
  have hidx : winIdx (called m c) (8 + r) = winIdx c (24 + r) := by
    simp only [winIdx, called]
    omega
  simp only [readReg, hr, if_true, if_neg (show ¬ 8 + r < 8 by omega), if_neg (show ¬ 24 + r < 8 by omega), hidx]
  simp only [called, and_self]
theorem readReg_returned (c : Core) {r : Nat} (hr : r < 8) :
    readReg (returned c) r = readReg c r ∧ readReg (returned c) (24 + r) = readReg c (8 + r) := by
  have hidx : winIdx (returned c) (24 + r) = winIdx c (8 + r) := by
    simp only [winIdx, returned]
    omega
  simp only [readReg, hr, if_true, if_neg (show ¬ 8 + r < 8 by omega), if_neg (show ¬ 24 + r < 8 by omega), hidx]
  simp only [returned, and_self]

theorem callTable_means : ∀ e ∈ [((.call : Fin 64 → CoreErr → Instr), Op.call), (.callr, .callr)],
    Means e.1 e.2 (fun n o _ s => callOp n
      (if e.2 = .call then (getCore s n).pc + (BitVec.ofNat 16 o.imm).signExtend 14
        else (regOf s n o.rs).setWidth 14) o s) := by
  simp only [List.forall_mem_cons, List.not_mem_nil, false_implies, implies_true, and_true]
  exact ⟨fun _ _ _ => rfl, fun _ _ _ => rfl⟩

section Windows
variable {n : Nat} {s : State}

theorem callOp_resident (target : BitVec 14) (o : BOp) (hdepth : (getCore s n).depth < 0xFFFFFF)
    (hres : (getCore s n).res < 31) : callOp n target o s = goTo (updCore n (called o.m8) s) target := by
  simp only [callOp, Nat.ne_of_lt hdepth, Nat.ne_of_lt hres, if_false, updCore]
  rfl
theorem callOp_deepest (target : BitVec 14) (o : BOp) (hdepth : (getCore s n).depth = 0xFFFFFF) :
    callOp n target o s = .trap (undoCore n s s) 7 0 5 (some 0) 0 := by
  rw [callOp, if_pos hdepth]
  rfl
theorem returnW_resident (e : CoreErr) (hdepth : 0 < (getCore s n).depth) (hres : 2 ≤ (getCore s n).res) :
    returnW n e s = goTo (updCore n returned s) (tget 0 (getCore s n).ras (((getCore s n).cwp + 488) % 504)) := by
  have hmax : max 1 ((getCore s n).res - 1) = (getCore s n).res - 1 := by omega
  have hslide :
      updCore n (fun c => { c with cwp := (c.cwp + 488) % 504, depth := c.depth - 1, res := max 1 (c.res - 1) }) s =
        updCore n returned s := by
    simp only [updCore, returned, hmax]
  simp only [returnW, Nat.ne_of_gt hdepth, hres, if_false, if_true, hslide, getCore_updCore_same]
  simp only [returned]
theorem returnW_outermost (e : CoreErr) (hdepth : (getCore s n).depth = 0) :
    returnW n e s = .trap (undoCore n s s) 7 0 4 (some 0) 0 := by
  rw [returnW, if_pos hdepth]
  rfl

theorem readReg_completeWord_goTo (g : BitVec 14 × Bool × Option Rep) (c : Core) (r : Nat) :
    readReg (completeWord (some g) c) r = readReg c r :=
  readReg_congr rfl rfl rfl r

/-- A word that goes to t after an update of the core, with no halt requested. -/
theorem settle_goTo (hhalt : getF s (fSEQ_CTL_HALT n) = 0) (g : Core → Core) (t : BitVec 14) :
    ∃ u, settle n false (goTo (updCore n g s) t) = u ∧ u.mem = s.mem ∧
      getCore u n = completeWord (some (t, false, none)) (g (getCore s n)) := by
  refine ⟨_, finishWord_running hhalt, rfl, ?_⟩
  rw [getCore_updCore_same, getCore_updCore_same]

end Windows

end Sys2Proof.Machine
end

section
namespace Sys2Proof.Proofs
open Sys2Proof Sys2Proof.Machine Sys2Proof.Claims

/-- Settles O12: a call to a free window and a return to a resident one slide the window, and the two faults leave the
core as it was. -/
theorem callsSlideTheWindow : Obligations.CallsSlideTheWindow := by
  unfold Obligations.CallsSlideTheWindow
  refine ⟨?calls, ?returns⟩
  case calls =>
    intro e he n s o hat hop hhalt c target
    have hexec := (callTable_means e he).atLong hat hop
    refine ⟨fun hdepth hres => ?_, fun hdepth => ?_⟩
    · obtain ⟨t, ht, hmem, hcore⟩ := settle_goTo hhalt (called o.m8) target
      refine ⟨t, ?_, ?_⟩
      · rw [hexec, callOp_resident _ _ hdepth hres, ht]
      · simp only [regOf, hcore]
        simp only [readReg_completeWord_goTo]
        exact ⟨rfl, rfl, rfl, tget_tset_same .., tget_tset_same .., fun r hr => readReg_called o.m8 c hr, hmem⟩
    · rw [hexec, callOp_deepest _ _ hdepth, settle, raiseTrap_undoCore (not_halted_of_ready hat.1)]
      rfl
  case returns =>
    intro n s o hat hop hhalt c
    have hexec := returnOp_means.atLong hat hop
    refine ⟨fun hdepth hres _ => ?_, fun hdepth => ?_⟩
    · obtain ⟨t, ht, hmem, hcore⟩ := settle_goTo hhalt returned (tget 0 c.ras ((c.cwp + 488) % 504))
      refine ⟨t, ?_, ?_⟩
      · rw [hexec, returnW_resident _ hdepth hres, ht]
      · simp only [regOf, hcore]
        simp only [readReg_completeWord_goTo]
        refine ⟨?_, ?_, ?_, ?_, fun r hr => readReg_returned c hr, hmem⟩
        all_goals simp only [completeWord, returned, c]
    · rw [hexec, returnW_outermost _ hdepth, settle, raiseTrap_undoCore (not_halted_of_ready hat.1)]
      rfl

end Sys2Proof.Proofs
end

section
/-! SUPPORT. Special registers (R280, R281, R316) and the ports of a sequencer (R275, R306). -/
namespace Sys2Proof.Machine
open Sys2Proof Sys2Proof.Claims

/-! ### Special registers -/

theorem mtsrOp_defined {n : Nat} {o : BOp} {m : Word} (h : srMask o.imm = some m) (s : State) :
    mtsrOp n o s = .done (updCore n (fun c => if o.imm = 0x15 then
      setSr 0x15 (getSr c 0x15 &&& ~~~(regOf s n o.rs &&& m)) c else setSr o.imm (regOf s n o.rs &&& m) c) s) none := by
  simp only [mtsrOp, h, updCore, srWrite]
  split
  · next hk => rw [hk]
  · rfl
theorem mtsrOp_undefined {n : Nat} {o : BOp} (h : srMask o.imm = none) (s : State) :
    mtsrOp n o s = .trap s 1 0 0 none 0 := by
  simp only [mtsrOp, h]

theorem mfsrOp_wstat {n : Nat} {o : BOp} (h : o.imm = 0x18) (s : State) : mfsrOp n o s =
    wrote n o.rd (BitVec.ofNat 64 ((getCore s n).res + (getCore s n).depth * 2 ^ 8)) s := by
  simp only [mfsrOp, srValue, h, if_true]
/-- WSTAT and CYCLE, which are no stored registers, have no mask (R281). -/
theorem not_wstat_or_cycle {k : Nat} (h : srMask k ≠ none) : k ≠ 0x18 ∧ k ≠ 0x28 := by
  constructor <;> rintro rfl <;> exact h rfl
theorem mfsrOp_defined {n : Nat} {o : BOp} (h : srMask o.imm ≠ none) (s : State) :
    mfsrOp n o s = wrote n o.rd (getSr (getCore s n) o.imm) s := by
  obtain ⟨hw, hc⟩ := not_wstat_or_cycle h
  obtain ⟨m, hm⟩ := Option.ne_none_iff_exists'.mp h
  simp only [mfsrOp, srValue, hw, hc, hm, if_false, Option.map_some]
theorem mfsrOp_undefined {n : Nat} {o : BOp} (h : srMask o.imm = none) (hw : o.imm ≠ 0x18) (hc : o.imm ≠ 0x28)
    (s : State) : mfsrOp n o s = .trap s 1 0 0 none 0 := by
  simp only [mfsrOp, srValue, h, hw, hc, if_false, Option.map_none]

/-! ### Ports -/

section Ports
variable {n : Fin 64} {s : State} {o : BOp} {p : Nat} (hp : ea s n o = p)
include hp

theorem inOp_beyond (h : 0x10000 ≤ p) : inOp n o s = .trap s 2 0 0 (some (BitVec.ofNat 32 p)) 0 := by
  have hport : portOf s n o = p := hp
  rw [inOp, hport]
  exact if_pos (.inl h)
theorem outOp_beyond (h : 0x10000 ≤ p) : outOp n o s = .trap s 2 0 0 (some (BitVec.ofNat 32 p)) 0 := by
  have hport : portOf s n o = p := hp
  rw [outOp, hport]
  exact if_pos (.inl h)

/-- IN of a port that is read at once, without effect. -/
theorem inOp_reads {v : Nat} (hin : p ≤ 0xFFFF) (hread : portRead n p s = some (v, s)) (hwaits : portWaits s n p = false)
    (hdata : p ≠ 4) (hresume : p ≠ 0x85) : inOp n o s = wrote n o.rd (BitVec.ofNat 64 v) s := by
  have hport : portOf s n o = p := hp
  simp [inOp, hport, hread, hwaits, hdata, hresume, Nat.not_lt.mpr hin]
/-- OUT to a port that is written at once. -/
theorem outOp_writes {u : State} (hin : p ≤ 0xFFFF) (hany : (portWrite n p 0 s).isNone = false)
    (hwrite : portWrite n p (regOf s n o.rd) s = some u) (hwaits : portWaits s n p = false) :
    outOp n o s = .done u none := by
  have hport : portOf s n o = p := hp
  simp only [outOp, hport, hany, hwrite, hwaits, Nat.not_lt.mpr hin, Bool.false_eq_true, or_self, false_and, if_false]

end Ports

theorem ofNat_mod_two_pow_64 (v : Nat) : BitVec.ofNat 64 (v % 2 ^ 64) = BitVec.ofNat 64 v :=
  BitVec.eq_of_toNat_eq (by simp)

end Sys2Proof.Machine
end

section
namespace Sys2Proof.Proofs
open Sys2Proof Sys2Proof.Machine Sys2Proof.Claims

/-- Settles O14: each access is decided by the mask of its special register, or by its port. -/
theorem specialRegistersAndPorts : Obligations.SpecialRegistersAndPorts := by
  unfold Obligations.SpecialRegistersAndPorts
  refine ⟨fun n s o m hat hop hmask => ?mtsr, fun n s o hat hop => ⟨fun hmask => ?mfsr, fun hwstat => ?wstat⟩,
    fun e he n s o hat hop hmask hother => ?undefined, fun n s o hat => ⟨fun hop hport => ?merNs,
      fun hop hport => ?noteMaskIn, fun hop hport => ?inBeyond, fun hop hport => ?noteMaskOut,
      fun hop hport => ?outBeyond⟩⟩
  case mtsr =>
    rw [mtsr_means.atLong hat hop, mtsrOp_defined hmask]
    rfl
  case mfsr =>
    rw [mfsr_means.atLong hat hop, mfsrOp_defined hmask]
    rfl
  case wstat =>
    rw [mfsr_means.atLong hat hop, mfsrOp_wstat hwstat]
    rfl
  case undefined =>
    simp only [List.mem_cons, List.not_mem_nil, or_false] at he
    obtain rfl | rfl := he
    · rw [mtsr_means.atLong hat hop, mtsrOp_undefined hmask]
      rfl
    · obtain ⟨hwstat, hcycle⟩ := hother.resolve_left nofun
      rw [mfsr_means.atLong hat hop, mfsrOp_undefined hmask hwstat hcycle]
      rfl
  case merNs =>
    rw [inPort_means.atLong hat hop, inOp_reads hport (by decide) rfl rfl (by decide) (by decide), ofNat_mod_two_pow_64]
    rfl
  case noteMaskIn =>
    rw [inPort_means.atLong hat hop, inOp_reads hport (by decide) rfl rfl (by decide) (by decide)]
    rfl
  case inBeyond =>
    rw [inPort_means.atLong hat hop, inOp_beyond rfl hport]
    rfl
  case noteMaskOut =>
    rw [outPort_means.atLong hat hop, outOp_writes hport (by decide) rfl rfl rfl]
    rfl
  case outBeyond =>
    rw [outPort_means.atLong hat hop, outOp_beyond rfl hport]
    rfl

end Sys2Proof.Proofs
end

section
/-! SUPPORT. The completion of a descriptor that gives no engine back: its entry, and what its ring then shows (R330, R343,
R344, R346). -/
namespace Sys2Proof.Machine
open Sys2Proof

/-! ### Engines -/

/-- With nobody waiting for an engine none is given (R381). -/
theorem giveEngine_unwanted {s : State} (h : ∀ k ∈ s.jobs, wantsEngine k = false) : giveEngine s = s := by
  have hnone : engineNext s = none := by
    have hnobody : s.jobs.filter wantsEngine = [] := by simpa using h
    rw [engineNext, hnobody]
    rfl
  simp only [giveEngine, giveEngines, hnone]

theorem freeEngine_unwanted {s : State} {j : Job} (hj : j.eng = none) (h : ∀ k ∈ s.jobs, wantsEngine k = false) :
    freeEngine j s = s := by
  simp only [freeEngine, hj, giveEngine_unwanted h]

/-! ### The end of a descriptor -/

/-- The state without descriptor id. -/
def withoutJob (id : Nat) (s : State) : State := { s with jobs := s.jobs.filter fun k => k.id != id }

/-- Descriptor j is in progress and shall have a completion entry; it holds no engine, and no other waits for one. -/
structure EndsAlone (s : State) (j : Job) : Prop where
  found : findJob s j.id = some j
  noEngine : j.eng = none
  heard : j.mute = false
  shown : j.suppress = false
  unwanted : ∀ k ∈ s.jobs, k.id ≠ j.id → wantsEngine k = false

/-- A descriptor that ends alone leaves, and its completion is written or waits for space (R346). -/
theorem EndsAlone.completeJob_eq {s : State} {j : Job} (h : EndsAlone s j) (st det : Nat) :
    completeJob j.id st det s =
      let cq := getF s (fRING_CFG_CQ j.ring)
      let u := withoutJob j.id s
      let waiting := { u with heldCqe := u.heldCqe ++ [⟨j, st, det⟩] }
      if cqeBlocked s cq then (if ringFull s cq then setF (fRING_STAT_FULL_HELD cq) 1 waiting else waiting)
      else writeCqe ⟨j, st, det⟩ u := by
  have hfree : freeEngine j (withoutJob j.id s) = withoutJob j.id s := by
    refine freeEngine_unwanted h.noEngine fun k hk => ?_
    obtain ⟨hk, hne⟩ := List.mem_filter.mp hk
    exact h.unwanted k hk (by simpa using hne)
  unfold withoutJob at hfree
  simp only [completeJob, h.found, hfree, h.heard, h.shown, Bool.false_eq_true, false_and, if_false]
  rfl

theorem EndsAlone.completeJob_written {s : State} {j : Job} (h : EndsAlone s j) {st det : Nat}
    (hspace : cqeBlocked s (getF s (fRING_CFG_CQ j.ring)) = false) :
    completeJob j.id st det s = writeCqe ⟨j, st, det⟩ (withoutJob j.id s) := by
  simp only [h.completeJob_eq, hspace, Bool.false_eq_true, if_false]

theorem EndsAlone.completeJob_held {s : State} {j : Job} (h : EndsAlone s j) {st det : Nat}
    (hfull : ringFull s (getF s (fRING_CFG_CQ j.ring)) = true) : completeJob j.id st det s =
      setF (fRING_STAT_FULL_HELD (getF s (fRING_CFG_CQ j.ring))) 1
        { withoutJob j.id s with heldCqe := s.heldCqe ++ [⟨j, st, det⟩] } := by
  have hblocked : cqeBlocked s (getF s (fRING_CFG_CQ j.ring)) = true := by simp [cqeBlocked, hfull]
  simp only [h.completeJob_eq, hblocked, hfull, if_true]
  rfl

/-- Whether it is written or waits, of the descriptors just this one leaves. -/
theorem EndsAlone.completeJob_jobs {s : State} {j : Job} (h : EndsAlone s j) (st det : Nat) :
    (completeJob j.id st det s).jobs = s.jobs.filter fun k => k.id != j.id := by
  rw [h.completeJob_eq]
  dsimp only
  split
  · split
    · rfl
    · rfl
  · exact (writeCqe_reports ..).jobs

/-! ### An entry in a ring -/

theorem announce_disabled {r : Nat} {s : State} (h : getF s (fRING_CFG_IRQ_EN r) = 0) : announce r s = s := by
  simp [announce, bitF, h]

/-- An entry of a ring with its PHASE at its TAIL, and TAIL and PHASE as they go on, before any message (R344). -/
def ringEntry (r q0 q1 : Nat) (s : State) : State :=
  let t := getF s (fRING_PTR_TAIL r) % ringSize s r
  let ph := getF s (fRING_PTR_PHASE r)
  let s' := setF (fRING_PTR_TAIL r) ((t + 1) % ringSize s r) (hostWrite ((ringOwner s r).getD 0)
    (4096 * getF s (fRING_BASE_BASE r) + 16 * t) (leBytes 8 q0 ++ leBytes 8 (q1 % 2 ^ 63 + ph * 2 ^ 63)) s)
  if t + 1 = ringSize s r then setF (fRING_PTR_PHASE r) (1 - ph) s' else s'

theorem ringSize_setF_tail (r v : Nat) (s : State) : ringSize (setF (fRING_PTR_TAIL r) v s) r = ringSize s r := by
  rw [ringSize, getF_setF_other]
  · rfl
  · simp only [fldKey, fRING_CFG_LOG2SIZE, fRING_PTR_TAIL]
    omega
theorem ringSize_hostWrite (r f a : Nat) (d : List Byte) (s : State) : ringSize (hostWrite f a d s) r = ringSize s r := rfl

theorem ringWrite_eq (r q0 q1 : Nat) (s : State) : ringWrite r q0 q1 s = announce r (ringEntry r q0 q1 s) := by
  simp only [ringWrite, ringEntry, ringSize_setF_tail, ringSize_hostWrite]

theorem ringEntry_hostTx (r q0 q1 : Nat) (s : State) : (ringEntry r q0 q1 s).hostTx = s.hostTx ++
    [⟨(ringOwner s r).getD 0, 4096 * getF s (fRING_BASE_BASE r) + 16 * (getF s (fRING_PTR_TAIL r) % ringSize s r),
      leBytes 8 q0 ++ leBytes 8 (q1 % 2 ^ 63 + getF s (fRING_PTR_PHASE r) * 2 ^ 63), false⟩] := by
  unfold ringEntry
  dsimp only
  split
  · rfl
  · rfl

theorem getF_ringEntry_other {r : Nat} {g : Fld} (ht : fldKey g ≠ fldKey (fRING_PTR_TAIL r))
    (hp : fldKey g ≠ fldKey (fRING_PTR_PHASE r)) (q0 q1 : Nat) (s : State) :
    getF (ringEntry r q0 q1 s) g = getF s g := by
  unfold ringEntry
  dsimp only
  split
  · rw [getF_setF_other _ _ hp, getF_setF_other _ _ ht]
    rfl
  · rw [getF_setF_other _ _ ht]
    rfl

theorem getF_ringEntry_tail (r q0 q1 : Nat) (s : State) : getF (ringEntry r q0 q1 s) (fRING_PTR_TAIL r) =
    (getF s (fRING_PTR_TAIL r) % ringSize s r + 1) % ringSize s r % 2 ^ 16 := by
  have hkey : fldKey (fRING_PTR_TAIL r) ≠ fldKey (fRING_PTR_PHASE r) := by
    simp only [fldKey, fRING_PTR_TAIL, fRING_PTR_PHASE]
    omega
  unfold ringEntry
  dsimp only
  split
  · rw [getF_setF_other _ _ hkey, getF_setF_same]
    rfl
  · rw [getF_setF_same]
    rfl

theorem getF_ringEntry_phase {r : Nat} {s : State} (h : getF s (fRING_PTR_TAIL r) % ringSize s r + 1 = ringSize s r)
    (q0 q1 : Nat) : getF (ringEntry r q0 q1 s) (fRING_PTR_PHASE r) = (1 - getF s (fRING_PTR_PHASE r)) % 2 := by
  simp only [ringEntry, h, if_true, getF_setF_same]
  rfl

/-- A completion entry, with no message behind it, and the descriptor taken from the count of its ring (R343, R346). -/
theorem writeCqe_unannounced {h : HeldCqe} {s : State}
    (hirq : getF s (fRING_CFG_IRQ_EN (getF s (fRING_CFG_CQ h.job.ring))) = 0) : writeCqe h s =
      let t := ringEntry (getF s (fRING_CFG_CQ h.job.ring)) (cqeQ0 s h.job) (cqeQ1 h.job h.status h.detail) s
      setF (fRING_PTR_IN_FLIGHT h.job.ring) (getF t (fRING_PTR_IN_FLIGHT h.job.ring) - 1) t := by
  have hquiet : getF (ringEntry (getF s (fRING_CFG_CQ h.job.ring)) (cqeQ0 s h.job) (cqeQ1 h.job h.status h.detail) s)
      (fRING_CFG_IRQ_EN (getF s (fRING_CFG_CQ h.job.ring))) = 0 := by
    rw [getF_ringEntry_other, hirq]
    · simp only [fldKey, fRING_CFG_IRQ_EN, fRING_PTR_TAIL]
      omega
    · simp only [fldKey, fRING_CFG_IRQ_EN, fRING_PTR_PHASE]
      omega
  simp only [writeCqe, ringWrite_eq, announce_disabled hquiet]

/-! ### Apart from one another -/

theorem inFlight_ne_tail (q r : Nat) : fldKey (fRING_PTR_IN_FLIGHT q) ≠ fldKey (fRING_PTR_TAIL r) := by
  simp only [fldKey, fRING_PTR_IN_FLIGHT, fRING_PTR_TAIL]
  omega
theorem inFlight_ne_phase (q r : Nat) : fldKey (fRING_PTR_IN_FLIGHT q) ≠ fldKey (fRING_PTR_PHASE r) := by
  simp only [fldKey, fRING_PTR_IN_FLIGHT, fRING_PTR_PHASE]
  omega

end Sys2Proof.Machine
end

section
namespace Sys2Proof.Proofs
open Sys2Proof Sys2Proof.Machine Sys2Proof.Claims

/-- Settles O34: a completion that may be written is one entry of its ring beside the count of the other ring, and one whose
ring is full waits. -/
theorem completionEntries : Obligations.CompletionEntries := by
  unfold Obligations.CompletionEntries
  intro s j st det found noEngine heard shown unwanted cq size tail ph t
  have alone : EndsAlone s j := ⟨found, noEngine, heard, shown, unwanted⟩
  have hcompletes : Completes s t := completeJob_completes ..
  refine ⟨alone.completeJob_jobs .., hcompletes.mem, hcompletes.seqs, hcompletes.cores, fun hspace hirq _ => ?written,
    fun hfull => ?held⟩
  case held =>
    have ht : t = _ := alone.completeJob_held hfull
    rw [ht]
    exact ⟨rfl, rfl, getF_setF_same ..⟩
  case written =>
    have ht : t = _ := (alone.completeJob_written hspace).trans (writeCqe_unannounced hirq)
    rw [ht]
    refine ⟨ringEntry_hostTx .., ?tail, fun hend => ?phase, ?inFlight⟩
    case tail =>
      rw [getF_setF_other _ _ (inFlight_ne_tail _ _).symm]
      exact getF_ringEntry_tail ..
    case phase =>
      rw [getF_setF_other _ _ (inFlight_ne_phase _ _).symm]
      exact getF_ringEntry_phase (s := withoutJob j.id s) hend _ _
    case inFlight =>
      dsimp only
      rw [getF_setF_same, getF_ringEntry_other (inFlight_ne_tail _ _) (inFlight_ne_phase _ _)]
      rfl

end Sys2Proof.Proofs
end

section
/-! SUPPORT. How the descriptors that move no data start (R336, R339, R351, R469, R476, R520, R555, R607). -/
namespace Sys2Proof.Machine
open Sys2Proof Sys2Proof.Claims

/-! ### The commands -/

theorem exec_nop (r : Fin 8192) (s : State) : exec (.nop r) s = execNop r s := rfl
theorem exec_fence (r : Fin 8192) (s : State) : exec (.fence r) s = execFence r s := rfl
theorem exec_fenceRelease (r : Fin 8192) (s : State) : exec (.fenceRelease r) s = execFenceRelease r s := rfl
theorem exec_launch (r : Fin 8192) (s : State) : exec (.launch r) s = execLaunch r s := rfl
theorem exec_watchSet (r : Fin 8192) (s : State) : exec (.watchSet r) s = execWatchSet r s := rfl
theorem exec_power (r : Fin 8192) (s : State) : exec (.power r) s = execPower r s := rfl
theorem exec_barrier (r : Fin 8192) (s : State) : exec (.barrier r) s = execBarrier r s := rfl
theorem exec_spare (r : Fin 8192) (s : State) : exec (.spare r) s = execSpare r s := rfl
theorem exec_readback (r : Fin 8192) (s : State) : exec (.readback r) s = execReadback r s := rfl

/-! ### Starts -/

section Starts
variable {r : Fin 8192} {s : State} {j : Job}

/-- The ready descriptor with the opcode of the command acts, and those behind it are decided (R338). -/
theorem startOp_ready {op : Nat} (h : Ready s r op j) (act : Job → State → State) :
    startOp r op act s = .next (advanceRing r (act j s)) := by
  obtain ⟨hhead, hphase, hop, hfatal⟩ := h
  simp only [startOp, hhead, hphase, hop, hfatal, Bool.false_eq_true, not_false_eq_true, and_self, if_true]
  rfl

/-- A start whose action is known ends in the state after it. -/
theorem startOp_acts {op : Nat} (h : Ready s r op j) {act : Job → State → State} {t : State} (hact : act j s = t) :
    startOp r op act s = .next (advanceRing r t) := hact ▸ startOp_ready h act

/-- A descriptor that needs no engine only runs (R381). -/
theorem runJob_engineless (h : usesEngine j.op = false) (stage : Nat) :
    runJob j stage s = updJob j.id (fun j => { j with phase := .running, stage := stage }) s := by
  simp only [runJob, h, Bool.false_eq_true, if_false]

theorem execFenceRelease_met
    (h : s.jobs.find? (fun j => j.ring == r.val && j.op == 8 && j.phase == .running) = some j)
    (hmet : fenceMet s j = true) : execFenceRelease r s = .next (ends r j 0 0 s) := by
  simp only [execFenceRelease, h, hmet, if_true]
  rfl

/-! ### LAUNCH (R339, R398, R521) -/

/-- Sequencer n is the master of a partition that is not being removed. -/
def heldMaster (s : State) (n : Nat) : Prop := partAt s n ≠ none ∧ removing s n = false

theorem not_heldMaster_iff (n : Nat) : ¬ heldMaster s n ↔ (partAt s n).isNone ∨ removing s n = true := by
  simp only [heldMaster, not_and_or, Option.isNone_iff_eq_none, Bool.not_eq_false, ne_eq, not_not]

theorem execLaunch_refused (h : Ready s r 1 j) (hheld : ¬ heldMaster s (jTarget j)) :
    execLaunch r s = .next (ends r j 8 1 s) :=
  startOp_acts h (if_pos ((not_heldMaster_iff _).mp hheld))

theorem execLaunch_busy (h : Ready s r 1 j) (hheld : heldMaster s (jTarget j))
    (hbusy : launchable s (jTarget j) = false ∨ launching s (jTarget j) = true) :
    execLaunch r s = .next (ends r j 8 2 s) := by
  refine startOp_acts h ((if_neg fun c => (not_heldMaster_iff _).mpr c hheld).trans (if_pos ?_))
  simpa using hbusy

section Idle
variable (h : Ready s r 1 j) (hheld : heldMaster s (jTarget j)) (hidle : launchable s (jTarget j) = true)
  (hnone : launching s (jTarget j) = false)
include h hheld hidle hnone

theorem execLaunch_unloaded (himage : tget false s.imageOk (jTarget j) = false) :
    execLaunch r s = .next (ends r j 8 3 s) := by
  refine startOp_acts h ((if_neg fun c => (not_heldMaster_iff _).mpr c hheld).trans
    ((if_neg ?_).trans (if_pos ?_)))
  · simp [hidle, hnone]
  · simp [himage]

theorem execLaunch_sends (himage : tget false s.imageOk (jTarget j) = true) :
    execLaunch r s = .next (advanceRing r (sendStart j s)) := by
  refine startOp_acts h ((if_neg fun c => (not_heldMaster_iff _).mpr c hheld).trans
    ((if_neg ?_).trans (if_neg ?_)))
  · simp [hidle, hnone]
  · simp [himage]

end Idle

/-- With number 0 free, every quad open and a credit left, the start message goes out at once under number 0. -/
theorem sendStart_first (hop : j.op = 1) (hopen : ∀ q ∈ partQuads s (jTarget j), domOpen s q = true)
    (hfree : tidTaken s 0xA8 0 = false) (hmay : mayInject s ⟨0xA8, jTarget j, 0, .start j.id⟩ = true) :
    sendStart j s = issueRequest ⟨0xA8, jTarget j, 0, .start j.id⟩ (runJob j 0 s) := by
  have hfirst : (List.range 64).find? (fun t => !tidTaken s 0xA8 t) = some 0 := by
    simp [List.range_succ_eq_map, hfree]
  have hdark : (partQuads s (jTarget j)).filter (fun q => !domOpen s q) = [] := by simpa using hopen
  have hruns := runJob_engineless (s := s) (j := j) (by rw [hop]; decide) 0
  have hfree' : tidTaken (runJob j 0 s) 0xA8 0 = false := by rw [hruns]; exact hfree
  have hmay' : mayInject (runJob j 0 s) ⟨0xA8, jTarget j, 0, .start j.id⟩ = true := by rw [hruns]; exact hmay
  simp only [sendStart, hfirst, hdark, List.foldl_nil, submit, hfree', hmay', Bool.false_eq_true, if_false, if_true]

/-! ### WATCH_SET, POWER, BARRIER (R469, R476, R520) -/

theorem execWatchSet_passes (h : Ready s r 9 j) (hcheck : watchCheck s j = 0) : execWatchSet r s = .next (ends r j 0 0
    (if dBits j 1 8 1 = 1 then startWatch (dBits j 1 0 7) (dBits j 2 0 32) (dBits j 3 0 6) (dBits j 4 0 64) s
      else endWatch (dBits j 1 0 7) s)) := by
  refine startOp_acts h ((if_neg (not_not.mpr hcheck)).trans ?_)
  split
  · rfl
  · rfl

theorem execWatchSet_fails (h : Ready s r 9 j) (hcheck : watchCheck s j ≠ 0) :
    execWatchSet r s = .next (ends r j 8 (watchCheck s j) s) := startOp_acts h (if_pos hcheck)

theorem execPower_run (h : Ready s r 0xA j) (hdom : dBits j 1 0 6 ≤ 40) (hstate : dBits j 1 8 3 = 0) :
    execPower r s = .next (advanceRing r (requestState (dBits j 1 0 6) 0 (.desc j.id) (runJob j 0 s))) := by
  refine startOp_acts h ?_
  simp [hstate, Nat.not_lt.mpr hdom]

theorem execPower_fails (h : Ready s r 0xA j) (hstate : 5 ≤ dBits j 1 8 3) :
    execPower r s = .next (ends r j 8 1 s) := startOp_acts h (if_pos (.inl hstate))

theorem execBarrier_ready (h : Ready s r 0xE j) : execBarrier r s = .next (if 8 ≤ dBits j 1 0 4 then ends r j 8 1 s
    else advanceRing r (arriveAt (dBits j 1 0 4)
      (updJob j.id (fun j => { j with pos := nsNow s }) (runJob j 0 s)))) := by
  refine (startOp_ready h _).trans ?_
  split
  · rfl
  · rfl

/-! ### SPARE and READBACK (R555, R607) -/

/-- A field with its spare column unused and sound, and no SPARE under way, passes the first checks (R555). -/
theorem execSpare_unused (h : Ready s r 0xC j) (hactive : getF s (fSPARE_MAP_ACTIVE (jTarget j)) = 0)
    (hsound : getF s (fSPARE_MAP_SPARE_BAD (jTarget j)) = 0)
    (hnone : ∀ k ∈ s.jobs, ¬ (k.op = 0xC ∧ k.phase = .running ∧ jTarget k = jTarget j)) :
    execSpare r s = .next (if domRun s (quadDom (jTarget j)) then runs r j 0 s else ends r j 8 2 s) := by
  have hother : s.jobs.any (fun k => k.op == 0xC && k.phase == .running && jTarget k == jTarget j) = false := by
    simpa [and_assoc] using hnone
  refine (startOp_acts h (if_neg (by simp [bitF, hactive, hsound, hother]))).trans ?_
  by_cases hrun : domRun s (quadDom (jTarget j)) = true
  · rw [if_pos hrun, if_neg (not_not.mpr hrun)]
    rfl
  · rw [if_neg hrun, if_pos hrun]
    rfl

theorem execReadback_unowned (h : Ready s r 0xD j) (hpart : partAt s (jTarget j) = none) :
    execReadback r s = .next (ends r j 8 1 s) := by
  have ⟨hhead, hphase, hop, _⟩ := h
  simp only [execReadback, hhead, hphase, hop, and_self, if_true, startOp_ready h, hpart]
  rfl

theorem execReadback_advances (h : Ready s r 0xD j) {p : Part} (hpart : partAt s (jTarget j) = some p)
    (hmask : rbMask j < 2 ^ (2 ^ (p.wlog + p.hlog))) (hsize : snapSize (rbMask j) (rbSel j) ≤ dBits j 3 0 32) :
    execReadback r s = .next (advanceRing r (rbAdvance j.id (rbAdvance j.id (runJob j 0 s)))) := by
  have ⟨hhead, hphase, hop, _⟩ := h
  simp only [execReadback, hhead, hphase, hop, and_self, if_true, startOp_ready h, hpart, Nat.not_le.mpr hmask,
    Nat.not_lt.mpr hsize, if_false]

end Starts

end Sys2Proof.Machine
end

section
namespace Sys2Proof.Proofs
open Sys2Proof Sys2Proof.Machine Sys2Proof.Claims

/-- Settles O33: each descriptor that is ready acts as the first of its checks that fails says, or as they all pass. -/
theorem controlDescriptors : Obligations.ControlDescriptors := by
  unfold Obligations.ControlDescriptors
  intro r s j
  refine ⟨fun h => (exec_nop r s).trans (startOp_ready h _), fun h => (exec_fence r s).trans ?fence,
    fun h hmet => (exec_fenceRelease r s).trans (execFenceRelease_met h hmet),
    fun h => ⟨fun hheld => (exec_launch r s).trans (execLaunch_refused h hheld),
      fun hheld hbusy => (exec_launch r s).trans (execLaunch_busy h hheld hbusy),
      fun hheld hidle hnone himage => (exec_launch r s).trans (execLaunch_unloaded h hheld hidle hnone himage),
      fun hheld hidle hnone himage hopen hfree hmay _ => ?launch⟩,
    fun h hcheck => (exec_watchSet r s).trans (execWatchSet_passes h hcheck),
    fun h hcheck => (exec_watchSet r s).trans (execWatchSet_fails h hcheck),
    fun h hdom hstate => (exec_power r s).trans (execPower_run h hdom hstate),
    fun h hstate => (exec_power r s).trans (execPower_fails h hstate),
    fun h => (exec_barrier r s).trans (execBarrier_ready h),
    fun h hactive hsound hnone => (exec_spare r s).trans (execSpare_unused h hactive hsound hnone),
    fun h hpart => (exec_readback r s).trans (execReadback_unowned h hpart),
    fun p h hpart hmask hsize => (exec_readback r s).trans (execReadback_advances h hpart hmask hsize)⟩
  case fence =>
    refine (startOp_ready h _).trans ?_
    split
    · rfl
    · rfl
  case launch =>
    have ⟨_, _, hop, _⟩ := h
    rw [exec_launch, execLaunch_sends h hheld hidle hnone himage, sendStart_first hop hopen hfree hmay]

end Sys2Proof.Proofs
end

section
/-! SUPPORT. Packets at their node: how requests end, what an ejected packet does, and requests held in an Anchorage (R380,
R398–R411, R521–R524). -/
namespace Sys2Proof.Machine
open Sys2Proof Sys2Proof.Claims

/-! ### The commands -/

theorem exec_nocDeliver (i : BitVec 16) (x : DatErr) (s : State) : exec (.nocDeliver i x) s = execNocDeliver i x s := rfl
theorem exec_responseTimeout (src : BitVec 8) (tid : BitVec 6) (s : State) :
    exec (.responseTimeout src tid) s = execResponseTimeout src tid s := rfl
theorem exec_orphanTimeout (d src : BitVec 8) (tid : BitVec 6) (s : State) :
    exec (.orphanTimeout d src tid) s = execOrphanTimeout d src tid s := rfl
theorem exec_retryResend (src : BitVec 8) (tid : BitVec 6) (s : State) :
    exec (.retryResend src tid) s = execRetryResend src tid s := rfl

/-! ### Reports -/

theorem Reports.outst {s t : State} (h : Reports s t) : t.outst = s.outst := by rw [h]; rfl
theorem Reports.niWait {s t : State} (h : Reports s t) : t.niWait = s.niWait := by rw [h]; rfl
theorem Reports.halves {s t : State} (h : Reports s t) : t.halves = s.halves := by rw [h]; rfl

theorem nocCapture_reports (kind net router src dest port : Nat) (s : State) :
    Reports s (nocCapture kind net router src dest port s) := by
  unfold nocCapture
  dsimp only
  split
  · split
    · exact setF_reports ..
    · exact (setF_reports ..).trans (setFs_reports ..)
  · split
    · exact .refl s
    · exact setFs_reports ..
theorem timedOut_reports (net src dest a m : Nat) (s : State) : Reports s (timedOut net src dest a m s) :=
  ((tgtLog_reports ..).trans (setF_reports ..)).trans (nocCapture_reports ..)
theorem wakeTimedOut_reports (src a m : Nat) (s : State) : Reports s (wakeTimedOut src a m s) :=
  (tgtLog_reports ..).trans (setF_reports ..)

theorem getF_satF_same (f : Fld) (k : Nat) (s : State) :
    getF (satF f k s) f = min (getF s f + k) (2 ^ f.w - 1) := by
  have hwidth := Nat.two_pow_pos f.w
  rw [satF, getF_setF_same]
  exact Nat.mod_eq_of_lt (by omega)

/-- A capture stores NOC_ERR_CAP alone (R421). -/
theorem getF_nocCapture_other {g : Fld} (h : ∀ lo < 64, fldKey g ≠ 64 * 0x400010 + lo)
    (kind net router src dest port : Nat) (s : State) :
    getF (nocCapture kind net router src dest port s) g = getF s g := by
  have captured (u : State) : getF (setFs [(fNOC_ERR_CAP_VALID, 1), (fNOC_ERR_CAP_KIND, kind), (fNOC_ERR_CAP_NET, net),
      (fNOC_ERR_CAP_ROUTER, router), (fNOC_ERR_CAP_SRC, src), (fNOC_ERR_CAP_DEST, dest), (fNOC_ERR_CAP_PORT, port)] u) g =
      getF u g := by
    refine getF_setFs_other u fun e he => ?_
    simp only [List.mem_cons, List.not_mem_nil, or_false] at he
    rcases he with rfl | rfl | rfl | rfl | rfl | rfl | rfl
    all_goals exact h _ (by simp [fNOC_ERR_CAP_VALID, fNOC_ERR_CAP_KIND, fNOC_ERR_CAP_NET, fNOC_ERR_CAP_ROUTER,
      fNOC_ERR_CAP_SRC, fNOC_ERR_CAP_DEST, fNOC_ERR_CAP_PORT])
  have hovf : getF (setF fNOC_ERR_CAP_OVF 1 s) g = getF s g := getF_setF_other _ _ (h _ (by decide))
  unfold nocCapture
  dsimp only
  split
  · split
    · exact hovf
    · exact (captured _).trans hovf
  · split
    · rfl
    · exact captured s

/-! ### Requests outstanding -/

theorem outOf_some {s : State} {src tid : Nat} {o : Outst} (h : outOf s src tid = some o) : o.src = src ∧ o.tid = tid := by
  have hmatch := List.find?_some h
  simpa using hmatch
theorem outOf_congr {s t : State} (h : t.outst = s.outst) (src tid : Nat) : outOf t src tid = outOf s src tid := by
  unfold outOf
  rw [h]

/-- An update that keeps node and number is seen in the request it is of. -/
theorem outOf_updOutst {g : Outst → Outst} (src_keeps : ∀ o, (g o).src = o.src) (tid_keeps : ∀ o, (g o).tid = o.tid)
    (src tid : Nat) (s : State) : outOf (updOutst src tid g s) src tid = (outOf s src tid).map g := by
  have hmatch : ((fun o : Outst => o.src == src && o.tid == tid) ∘ fun o => if o.src = src ∧ o.tid = tid then g o else o) =
      fun o => o.src == src && o.tid == tid := by
    funext o
    simp only [Function.comp_apply]
    split
    · rw [src_keeps, tid_keeps]
    · rfl
  rw [outOf, updOutst, List.find?_map, hmatch, outOf]
  refine Option.map_congr fun o ho => ?_
  exact if_pos (outOf_some ho)

/-- What is left when request tid of node src has ended and its block is answered: it is outstanding no more, and data that
came for it is dropped (R401, R407). -/
def answered (src tid st : Nat) (d : List Byte) (po : Nat) (s : State) : State :=
  { s with
    outst := s.outst.filter (fun o => !(o.src == src && o.tid == tid)),
    halves := s.halves.filter fun h => !(h.2.dest == src && h.2.tid == tid &&
      match h.2.body with | .dat _ _ wr => !wr | _ => false),
    answers := s.answers ++ [⟨src, st, d, po⟩] }

theorem endOutst_ofBlock {s : State} {src tid : Nat} {o : Outst} (h : outOf s src tid = some o) (hb : ofBlock o)
    (st : Nat) (d : List Byte) (po : Nat) : endOutst src tid st d po s = answered src tid st d po s := by
  simp only [endOutst, h]
  cases hbody : o.body with
  | start id => exact absurd hbody (hb id)
  | req | rsp | dat | mgmt | mrsp | inv | ack => rfl

theorem answered_niWait {src tid st : Nat} {d : List Byte} {po : Nat} {s : State} :
    (answered src tid st d po s).niWait = s.niWait := rfl
theorem outOf_of_filtered {src tid : Nat} {s t : State}
    (h : t.outst = s.outst.filter (fun o => !(o.src == src && o.tid == tid))) : outOf t src tid = none := by
  rw [outOf, List.find?_eq_none]
  intro o ho
  rw [h] at ho
  obtain ⟨-, hother⟩ := List.mem_filter.mp ho
  exact fun hmatch => by simp [hmatch] at hother

/-! ### What waits at the NIs -/

theorem pump_idle {s : State} (h : s.niWait = []) : pump s = s := if_pos h
theorem actsAs_idle {p : Packet} {s : State} (h : s.niWait = []) : actsAs p s = { s with eject := s.eject.erase p } :=
  pump_idle h

/-- An ejected packet whose turn it is acts and leaves (R404). -/
theorem execNocDeliver_acts {i : BitVec 16} {x : DatErr} {s t : State} {p : Packet} (h : Ejects s i p)
    (hacts : deliverPacket p x s = (true, t)) : exec (.nocDeliver i x) s = .next (actsAs p t) := by
  obtain ⟨hp, hturn⟩ := h
  rw [exec_nocDeliver]
  simp only [execNocDeliver, hp, hturn, hacts, Bool.false_eq_true, if_false, if_true, ok, actsAs]

/-! ### A wake from an Anchorage (R409, R521–R523) -/

section Wakes
variable {d : Nat} {s : State}

/-- t has the memory, the packets in flight, the answers and the waiting requests of s. -/
structure SameTraffic (s t : State) : Prop where
  mem : t.mem = s.mem
  net : t.net = s.net
  answers : t.answers = s.answers
  niWait : t.niWait = s.niWait

theorem SameTraffic.trans {s t u : State} (h : SameTraffic s t) (k : SameTraffic t u) : SameTraffic s u :=
  ⟨k.mem.trans h.mem, k.net.trans h.net, k.answers.trans h.answers, k.niWait.trans h.niWait⟩
theorem updDom_sameTraffic (d : Nat) (g : Dom → Dom) (s : State) : SameTraffic s (updDom d g s) := by
  unfold updDom
  rw [setDom_frame]
  exact ⟨rfl, rfl, rfl, rfl⟩
theorem recordWake_sameTraffic (src d : Nat) (s : State) : SameTraffic s (recordWake src d s) := by
  unfold recordWake
  rw [setFs_frame]
  exact ⟨rfl, rfl, rfl, rfl⟩
theorem accepted_sameTraffic (src tid : Nat) (s : State) : SameTraffic s (accepted src tid s) := ⟨rfl, rfl, rfl, rfl⟩

theorem getF_accepted (src tid : Nat) (g : Fld) (s : State) : getF (accepted src tid s) g = getF s g := rfl
theorem getDom_accepted (src tid d : Nat) (s : State) : getDom (accepted src tid s) d = getDom s d := rfl
theorem domState_accepted (src tid d : Nat) (s : State) : domState (accepted src tid s) d = domState s d := rfl
theorem getDom_recordWake (src k d : Nat) (s : State) : getDom (recordWake src k s) d = getDom s d := by
  unfold recordWake
  rw [setFs_frame]
  rfl

/-- PWR_DOM's STATE and FAULT are not among what an update of the domain shows (R537). -/
theorem getF_updDom_other {g : Fld} (h : ∀ lo ∈ [3, 4, 7, 8, 12], fldKey g ≠ 64 * (0x43000 + 8 * d) + lo)
    (u : Dom → Dom) (s : State) : getF (updDom d u s) g = getF s g := by
  unfold updDom setDom
  dsimp only
  rw [getF_setFs_other]
  · rfl
  · intro e he
    simp only [List.mem_cons, List.not_mem_nil, or_false] at he
    rcases he with rfl | rfl | rfl | rfl | rfl
    all_goals exact h _ (by simp [fPWR_DOM_BUSY, fPWR_DOM_PHASE, fPWR_DOM_PEND, fPWR_DOM_PEND_STATE, fPWR_DOM_ANCH])
theorem getF_updDom_state (u : Dom → Dom) (s : State) :
    getF (updDom d u s) (fPWR_DOM_STATE d) = getF s (fPWR_DOM_STATE d) := by
  refine getF_updDom_other (fun lo hlo => ?_) u s
  simp only [List.mem_cons, List.not_mem_nil, or_false] at hlo
  simp only [fldKey, fPWR_DOM_STATE]
  omega
theorem getF_updDom_fault (u : Dom → Dom) (s : State) :
    getF (updDom d u s) (fPWR_DOM_FAULT d) = getF s (fPWR_DOM_FAULT d) := by
  refine getF_updDom_other (fun lo hlo => ?_) u s
  simp only [List.mem_cons, List.not_mem_nil, or_false] at hlo
  simp only [fldKey, fPWR_DOM_FAULT]
  omega
theorem domState_updDom (u : Dom → Dom) (s : State) : domState (updDom d u s) d = domState s d := by
  simp only [domState, getF_updDom_state]

/-- Domain d is not in Run, with nothing under way and no fault. -/
structure Rests (s : State) (d : Nat) : Prop where
  present : d ≤ 40
  dark : domState s d ≠ 0
  sound : getF s (fPWR_DOM_FAULT d) = 0
  still : (getDom s d).trans = none
  free : (getDom s d).slot = none

/-- A domain that is closed without a transition rests. -/
theorem rests_of_closed (hclosed : domOpen s d = false) (hsound : getF s (fPWR_DOM_FAULT d) = 0)
    (hstill : (getDom s d).trans = none) (hfree : (getDom s d).slot = none) : Rests s d := by
  simp only [domOpen, hstill, Bool.and_true, Bool.or_eq_false_iff, decide_eq_false_iff_not, beq_eq_false_iff_ne] at hclosed
  exact ⟨Nat.not_lt.mp hclosed.1, hclosed.2, hsound, hstill, hfree⟩

/-- The Dawn to Run of domain d from state `src`, asked for by wake source k (R516). -/
def dawnFrom (d src k : Nat) : Trans :=
  ⟨src, 0, .wake k, 3 + (dawnSteps d src 0).headD 1, dawnSteps d src 0, false, false⟩

/-- A wake of a domain that rests starts its Dawn and records the wake (R516, R526, R527). -/
theorem Rests.postWake_eq (h : Rests s d) (k : Nat) : postWake d k s =
    updDom d (fun y => { y with trans := some (dawnFrom d (domState s d) k), slot := none }) (recordWake k d s) := by
  obtain ⟨hd, hdark, hsound, hstill, hfree⟩ := h
  have hup : 0 < domState s d := Nat.pos_of_ne_zero hdark
  have hfault : bitF s (fPWR_DOM_FAULT d) = false := by simp [bitF, hsound]
  have hasked : postWake d k s = requestState d 0 (.wake k) s := by
    refine if_neg ?_
    simp [hfault, hdark, Nat.not_lt.mpr hd]
  have hstarts : requestState d 0 (.wake k) s = startTrans d 0 (.wake k) s := by
    simp only [requestState, hstill, hfault, hfree, hdark.symm, Bool.false_eq_true, false_and, and_false, if_false]
  rw [hasked, hstarts]
  simp only [startTrans, hup, if_true, dawnFrom]

/-- More in the Anchorage, and a request accepted, leave a domain at rest. -/
theorem Rests.anchored (h : Rests s d) (held : Held) (src tid : Nat) :
    Rests (accepted src tid (updDom d (fun y => { y with anch := y.anch ++ [held] }) s)) d := by
  obtain ⟨hd, hdark, hsound, hstill, hfree⟩ := h
  refine ⟨hd, ?_, ?_, ?_, ?_⟩
  · rwa [domState_accepted, domState_updDom]
  · rwa [getF_accepted, getF_updDom_fault]
  · rwa [getDom_accepted, getDom_updDom_same]
  · rwa [getDom_accepted, getDom_updDom_same]

/-- The state in which `held` has entered the Anchorage of domain d, its request is accepted, and the domain is asked for. -/
def heldAt (d : Nat) (held : Held) (src tid k : Nat) (s : State) : State :=
  postWake d k (accepted src tid (updDom d (fun y => { y with anch := y.anch ++ [held] }) s))

/-- What is held in the Anchorage of a domain at rest stays there, and the domain's Dawn begins. -/
theorem Rests.getDom_heldAt (h : Rests s d) (held : Held) (src tid k : Nat) :
    (getDom (heldAt d held src tid k s) d).anch = (getDom s d).anch ++ [held] ∧
      (getDom (heldAt d held src tid k s) d).trans ≠ none := by
  rw [heldAt, (h.anchored held src tid).postWake_eq, getDom_updDom_same, getDom_recordWake, getDom_accepted,
    getDom_updDom_same]
  exact ⟨rfl, nofun⟩
theorem Rests.heldAt_sameTraffic (h : Rests s d) (held : Held) (src tid k : Nat) :
    SameTraffic s (heldAt d held src tid k s) := by
  rw [heldAt, (h.anchored held src tid).postWake_eq]
  exact (((updDom_sameTraffic ..).trans (accepted_sameTraffic ..)).trans (recordWake_sameTraffic ..)).trans
    (updDom_sameTraffic ..)

end Wakes

/-! ### Deliveries -/

section Deliveries
variable {p : Packet} {x : DatErr} {s : State}

/-- A read whose domain is open is served and answered (R399, R402). -/
theorem deliverPacket_read {q : MemReq} {g : Region} {k st po : Nat} {d : List Byte} {w : State} (hbody : p.body = .req q)
    (hread : q.write = false) (hgood : p.bad = false) (hopen : domOpen s (nodeDom p.dest) = true)
    (hplace : locate q.addr = some (g, k))
    (hserve : serveMem g p.dest q.master false q.addr q.en q.data (accepted p.src p.tid s) = (.done st d po, w)) :
    deliverPacket p x s = (true, respond p.dest p.src p.tid st d po true (returnCredit p.src p.tid w)) := by
  simp [deliverPacket, hbody, hread, serveRequest, hopen, hgood, hplace, hserve]

/-- A read whose domain is dark enters its Anchorage and asks for the domain (R409, R523). -/
theorem deliverPacket_held {q : MemReq} (hbody : p.body = .req q) (hread : q.write = false)
    (hdark : domOpen s (nodeDom p.dest) = false) (hsound : getF s (fPWR_DOM_FAULT (nodeDom p.dest)) = 0)
    (hroom : anchFull (getDom s (nodeDom p.dest)) = false) : deliverPacket p x s =
      (true, heldAt (nodeDom p.dest) (.packet p) p.src p.tid 7 s) := by
  have hpacket : { p with body := .req q, bad := p.bad } = p := by rw [← hbody]
  simp [deliverPacket, hbody, hread, serveRequest, hdark, bitF, hsound, hroom, hpacket, heldAt]

theorem deliverPacket_firstHalf {q : MemReq} (hbody : p.body = .req q) (hwrite : q.write = true) (hdata : q.data = [])
    (hnone : halfOf s p 2 = none) : deliverPacket p x s = (true, keepHalf p s) := by
  simp [deliverPacket, hbody, hwrite, hdata, hnone]

/-- A start message that is due starts the image of its LAUNCH and is answered (R398, R521). -/
theorem deliverPacket_start {id : Nat} {j : Job} (hbody : p.body = .start id) (hdue : startDue s id = true)
    (hj : findJob s id = some j) : deliverPacket p x s =
      (true, respond p.dest p.src p.tid 0 [] 0 false (returnCredit p.src p.tid (startImage (jTarget j) j
        (updJob id (fun j => { j with stage := 1 }) (accepted p.src p.tid s))))) := by
  have hj' : findJob (accepted p.src p.tid s) id = some j := hj
  simp only [deliverPacket, hbody, serveStart, hdue, if_true, hj']

theorem deliverPacket_rsp {st po : Nat} {has : Bool} (hbody : p.body = .rsp st has po) :
    deliverPacket p x s = (true, gotRsp p st has po s) := by
  simp only [deliverPacket, hbody]

theorem gotRsp_ends {st po : Nat} {o : Outst} (ho : outOf s p.dest p.tid = some o) (h6 : st ≠ 6) (h7 : st ≠ 7) :
    gotRsp p st false po s = endOutst p.dest p.tid st [] 0 s := by
  simp [gotRsp, ho, h6, h7]
/-- A request that RETRY has answered: it waits, and its credit is back (R401, R410). -/
def retried (o : Outst) : Outst := { o with waiting := true, retry := true, credit := false }

/-- RETRY makes the request wait (R410). -/
theorem gotRsp_retry {po : Nat} {has : Bool} {o : Outst} (ho : outOf s p.dest p.tid = some o) :
    gotRsp p 6 has po s = satF (fNI_STAT_RETRY p.dest) 1 (updOutst p.dest p.tid retried s) := by
  simp only [gotRsp, ho, if_true]
  rfl
theorem gotRsp_late {st po : Nat} {has : Bool} (ho : outOf s p.dest p.tid = none) :
    gotRsp p st has po s = satF (fNI_ECC_LATE p.dest) 1 s := by
  simp only [gotRsp, ho]

theorem deliverPacket_registerWrite {m a : Nat} {be : BitVec 8} {v : Word} (hbody : p.body = .mgmt m true a be v) :
    deliverPacket p x s = (true, serveRegister p m true a be v s) := by
  simp [deliverPacket, hbody]
theorem deliverPacket_mrsp {st : Nat} {v : Word} (hbody : p.body = .mrsp st v) :
    deliverPacket p x s = (true, endOutst p.dest p.tid st (leBytes 8 v.toNat) 0 s) := by
  simp only [deliverPacket, hbody]
theorem deliverPacket_inv {v : Nat} (hbody : p.body = .inv 0 v) :
    deliverPacket p x s = (true, sendPacket p.dest p.src p.tid .ack (lineInvalidate p.dest v s)) := by
  simp only [deliverPacket, hbody, actSnp]
theorem deliverPacket_ack (hbody : p.body = .ack) : deliverPacket p x s = (true, acknowledge p.src s) := by
  simp only [deliverPacket, hbody]

end Deliveries

/-! ### Requests without an answer (R407, R410, R416) -/

/-- A request of a block that ends beside a report is outstanding no more, and its block is answered. -/
theorem endsWith_report {s u : State} {src tid : Nat} {o : Outst} (ho : outOf s src tid = some o) (hb : ofBlock o)
    (hidle : s.niWait = []) (hrep : Reports s u) {st : Nat} :
    let t := pump (endOutst src tid st [] 0 u)
    outOf t src tid = none ∧ t.answers = s.answers ++ [⟨src, st, [], 0⟩] ∧ t.mem = s.mem := by
  have hended : pump (endOutst src tid st [] 0 u) = answered src tid st [] 0 u := by
    rw [endOutst_ofBlock ((outOf_congr hrep.outst ..).trans ho) hb]
    exact pump_idle (hrep.niWait.trans hidle)
  rw [hended]
  exact ⟨outOf_of_filtered rfl, congrArg (· ++ [_]) hrep.answers, hrep.mem⟩

theorem execResponseTimeout_sent {src : BitVec 8} {tid : BitVec 6} {s : State} {o : Outst}
    (h : outOf s src.toNat tid.toNat = some o) (htime : getF s fNOC_TMO_TIMEOUT ≠ 0) (hsent : o.waiting = false) :
    execResponseTimeout src tid s = .next (pump (endOutst src.toNat tid.toNat 6 [] 0
      (timedOut (bodyNet o.body) o.src o.dest (bodyAddr o.body) (bodyMaster o.body) s))) := by
  obtain ⟨hsrc, htid⟩ := outOf_some h
  simp only [execResponseTimeout, htime, h, hsent, Bool.false_eq_true, if_false, ok, hsrc, htid]

theorem execRetryResend_limit {src : BitVec 8} {tid : BitVec 6} {s : State} {o : Outst}
    (h : outOf s src.toNat tid.toNat = some o) (hwaits : o.waiting = true) (hlimit : getF s fNOC_TMO_RETRY_LIM ≤ o.resends) :
    execRetryResend src tid s = .next (pump (endOutst src.toNat tid.toNat 7 [] 0
      (wakeTimedOut o.src (bodyAddr o.body) (bodyMaster o.body) s))) := by
  obtain ⟨hsrc, htid⟩ := outOf_some h
  simp only [execRetryResend, h, hwaits, hlimit, not_true_eq_false, if_false, if_true, ok, hsrc, htid]

/-- A request as it is sent again at tick `now` by route entry e. -/
def resent (now e : Nat) (o : Outst) : Outst :=
  { o with waiting := false, resends := o.resends + 1, since := now, route := e, credit := true }

/-- A request that may be sent again leaves by the entry that its route now has (R410, R416). -/
theorem execRetryResend_again {src : BitVec 8} {tid : BitVec 6} {s : State} {o : Outst}
    (h : outOf s src.toNat tid.toNat = some o) (hwaits : o.waiting = true) (hmore : o.resends < getF s fNOC_TMO_RETRY_LIM)
    (hroute : (activeRoute s o.src o.dest).testBit 34 = true)
    (hone : ∀ y ∈ s.outst, y.src = o.src → y.dest = o.dest → y.tid = o.tid ∨ y.route = activeRoute s o.src o.dest) :
    execRetryResend src tid s = .next (sendRequest o.src o.dest o.tid (activeRoute s o.src o.dest) o.body
      (updOutst src.toNat tid.toNat (resent s.ticks (activeRoute s o.src o.dest)) s)) := by
  have hnone : s.outst.any (fun y => y.src == o.src && y.dest == o.dest && y.tid != o.tid &&
      y.route != activeRoute s o.src o.dest) = false := by
    simp only [List.any_eq_false, Bool.and_eq_true, beq_iff_eq, bne_iff_ne, not_and, not_not, and_imp]
    exact fun y hy hs hd htid => (hone y hy hs hd).resolve_left htid
  obtain ⟨hsrc, htid⟩ := outOf_some h
  simp only [execRetryResend, h, hwaits, Nat.not_le.mpr hmore, hnone, hroute, not_true_eq_false, Bool.false_eq_true,
    if_false, if_true, ok]
  rw [hsrc, htid]
  rfl

/-- The flits of a request are all that it adds, and at least one (R398). -/
theorem sendRequest_adds (src dest tid e : Nat) (b : PBody) (s : State) :
    ∃ p ps, sendRequest src dest tid e b s = { s with net := s.net ++ p :: ps } := by
  unfold sendRequest
  split
  · split
    · exact ⟨_, _, rfl⟩
    · exact ⟨_, _, rfl⟩
  · exact ⟨_, _, rfl⟩

/-- The half of a write that waits is discarded and counted (R407). -/
theorem execOrphanTimeout_half {d src : BitVec 8} {tid : BitVec 6} {s : State} {h : Nat × Packet} {data : List Byte}
    {po : Nat}
    (hfind : s.halves.find? (fun h => h.2.dest == d.toNat && h.2.src == src.toNat && h.2.tid == tid.toNat) = some h)
    (hbody : h.2.body = .dat data po true) (htime : getF s fNOC_TMO_TIMEOUT ≠ 0) : execOrphanTimeout d src tid s =
      .next (nocCapture 5 h.2.net 0 h.2.src d.toNat 0 (satF (fNI_ECC_ORPHAN d.toNat) 1 (dropHalf h.2 s))) := by
  have hdest : h.2.dest = d.toNat := by
    have hmatch := List.find?_some hfind
    simp only [Bool.and_eq_true, beq_iff_eq] at hmatch
    exact hmatch.1.1
  simp only [execOrphanTimeout, htime, hfind, hbody, hdest, if_false, if_true, ok]

theorem not_mem_dropHalf (h : Nat × Packet) (s : State) : h ∉ (dropHalf h.2 s).halves := by
  simp [dropHalf]

theorem orphan_apart_from_capture (d : Nat) : ∀ lo < 64, fldKey (fNI_ECC_ORPHAN d) ≠ 64 * 0x400010 + lo := by
  intro lo hlo
  simp only [fldKey, fNI_ECC_ORPHAN]
  omega

end Sys2Proof.Machine
end

section
namespace Sys2Proof.Proofs
open Sys2Proof Sys2Proof.Machine Sys2Proof.Claims

/-- Settles O44: an ejected packet does what its body says, and a request whose time is over ends or is sent again. -/
theorem packetsActAtTheirNode : Obligations.PacketsActAtTheirNode := by
  unfold Obligations.PacketsActAtTheirNode
  refine ⟨fun i x s p h => ⟨?read, ?dark, ?half, ?start, ?rsp, ?retry, ?late, ?register, ?mrsp, ?inv, ?ack⟩,
    fun src tid s o ho hb hidle => ⟨fun htime hsent => ?timeout, fun hwaits hlimit => ?limit,
      fun hwaits hmore hroute hone => ?again⟩,
    fun d src tid s h data po hfind hbody htime => ?orphan⟩
  case read =>
    intro q g st d po w hbody hread hgood hopen ⟨k, hplace⟩ hserve
    exact execNocDeliver_acts h (deliverPacket_read hbody hread hgood hopen hplace hserve)
  case dark =>
    intro q hbody hread hdark hsound hroom hstill hfree hidle
    have hrests := rests_of_closed hdark hsound hstill hfree
    have hspace : anchFull (getDom s (nodeDom p.dest)) = false := by simp [anchFull, hstill, hroom]
    obtain ⟨hanch, htrans⟩ := hrests.getDom_heldAt (.packet p) p.src p.tid 7
    have hsame := hrests.heldAt_sameTraffic (.packet p) p.src p.tid 7
    have hexec := execNocDeliver_acts (x := x) h (deliverPacket_held hbody hread hdark hsound hspace)
    rw [actsAs_idle (hsame.niWait.trans hidle)] at hexec
    exact ⟨_, hexec, hsame.mem, hsame.net, hsame.answers, hanch, htrans⟩
  case half =>
    intro q hbody hwrite hdata hnone
    exact execNocDeliver_acts h (deliverPacket_firstHalf hbody hwrite hdata hnone)
  case start =>
    intro id j hbody hdue hj
    exact execNocDeliver_acts h (deliverPacket_start hbody hdue hj)
  case rsp =>
    intro st po o hbody ho hb h6 h7 hidle
    have hexec := execNocDeliver_acts (x := x) h (deliverPacket_rsp hbody)
    rw [gotRsp_ends ho h6 h7, endOutst_ofBlock ho hb, actsAs_idle (answered_niWait.trans hidle)] at hexec
    exact ⟨_, hexec, rfl, rfl, rfl, rfl, rfl⟩
  case retry =>
    intro o has po hbody ho hidle
    have hexec := execNocDeliver_acts (x := x) h (deliverPacket_rsp hbody)
    rw [gotRsp_retry ho, actsAs_idle (by exact hidle)] at hexec
    have hretried := (outOf_updOutst (g := retried) (fun _ => rfl) (fun _ => rfl) p.dest p.tid s).trans (congrArg _ ho)
    exact ⟨_, hexec, ⟨retried o, hretried, rfl, rfl, rfl⟩, rfl⟩
  case late =>
    intro st has po hbody ho
    exact (execNocDeliver_acts h (deliverPacket_rsp hbody)).trans (by rw [gotRsp_late ho])
  case register =>
    rintro m wr a be v hbody rfl
    exact execNocDeliver_acts h (deliverPacket_registerWrite hbody)
  case mrsp =>
    intro st v o hbody ho hb hidle
    have hexec := execNocDeliver_acts (x := x) h (deliverPacket_mrsp hbody)
    rw [endOutst_ofBlock ho hb, actsAs_idle (answered_niWait.trans hidle)] at hexec
    exact ⟨_, hexec, rfl, rfl, rfl, rfl, rfl⟩
  case inv =>
    intro v hbody
    exact execNocDeliver_acts h (deliverPacket_inv hbody)
  case ack =>
    intro hbody
    exact execNocDeliver_acts h (deliverPacket_ack hbody)
  case timeout =>
    exact ⟨_, (exec_responseTimeout src tid s).trans (execResponseTimeout_sent ho htime hsent),
      endsWith_report ho hb hidle (timedOut_reports ..)⟩
  case limit =>
    exact ⟨_, (exec_retryResend src tid s).trans (execRetryResend_limit ho hwaits hlimit),
      endsWith_report ho hb hidle (wakeTimedOut_reports ..)⟩
  case again =>
    have hexec := (exec_retryResend src tid s).trans (execRetryResend_again ho hwaits hmore hroute hone)
    have hagain := (outOf_updOutst (g := resent s.ticks (activeRoute s o.src o.dest)) (fun _ => rfl) (fun _ => rfl)
      src.toNat tid.toNat s).trans (congrArg _ ho)
    obtain ⟨f, fs, hsend⟩ := sendRequest_adds o.src o.dest o.tid (activeRoute s o.src o.dest) o.body
      (updOutst src.toNat tid.toNat (resent s.ticks (activeRoute s o.src o.dest)) s)
    rw [hsend] at hexec
    exact ⟨_, _, hexec, hagain, rfl, rfl, by simp [updOutst], rfl⟩
  case orphan =>
    have hrep := nocCapture_reports 5 h.2.net 0 h.2.src d.toNat 0 (satF (fNI_ECC_ORPHAN d.toNat) 1 (dropHalf h.2 s))
    refine ⟨_, (exec_orphanTimeout d src tid s).trans (execOrphanTimeout_half hfind hbody htime), ?_, hrep.mem,
      hrep.answers, ?_⟩
    · rw [hrep.halves]
      exact not_mem_dropHalf h s
    · rw [getF_nocCapture_other (orphan_apart_from_capture _), getF_satF_same]
      rfl

end Sys2Proof.Proofs
end

section
/-! SUPPORT. A function-level reset of a state that names a sequencer the part has not (R353, R14): the resume record of
sequencer 65 lies where RG_OWNER does. -/
namespace Sys2Proof.Machine
open Sys2Proof

theorem exec_flr (f : Fin 64) (s : State) : exec (.flr f) s = execFlr f s := rfl

/-- The reset of a VF that the host reaches (R353). -/
theorem execFlr_vf {f : Fin 64} {s : State} (hf : f ≠ 0) (h : hostReaches s (0x80 + f.val) = true) :
    execFlr f s = .next (flr f.val false s) := by
  simp [execFlr, h, hf, ok]

/-- An array trap that discards no ACALLs. -/
def idleTrap : Stop :=
  { kind := 4, cause := 10, mcsrc := 0, valid := true, upc := 0, inHold := false, holdRem := 0, apc := 0, eflags := 0,
    sw := false, hub := false, ended := false, discarded := [] }

/-- VF 1 is enabled and owns ring group 1, whose ring 64 is enabled, and a partition of master 65, of which there is none:
its core runs, and its micro-sequencer has an array trap and a yield request pending. -/
def strayMaster : State :=
  updSeq 65 (fun q => { q with state := .idle, pendSw := true, atrap := some idleTrap })
    (updCore 65 (fun c => { c with state := .running })
      (setFs [(fBOOT_STAT_STEP, 8), (fFUNC_STAT_ENABLED 1, 1), (fRG_OWNER_ASSIGNED 1, 1), (fRG_OWNER_OWNER 1, 1),
        (fRING_CFG_ENABLE 64, 1)] { State.reset with parts := [(65, ⟨0, 0, 1⟩)] }))

theorem strayMaster_reached : hostReaches strayMaster 0x81 = true := by decide +kernel
theorem strayMaster_jobs : strayMaster.jobs = [] := rfl
theorem strayMaster_ringOwner : ringOwner strayMaster 64 = some 1 := by decide +kernel

/-- The partition reset halts core 65, which releases the trap; the yield then taken writes the resume record over the
owner of group 1, so that the reset of VF 1 no longer finds the group its own. -/
theorem flr_strayMaster_ring : getF (flr 1 false strayMaster) (fRING_CFG_ENABLE 64) = 1 := by decide +kernel

end Sys2Proof.Machine
end

section
namespace Sys2Proof.Proofs
open Sys2Proof Sys2Proof.Machine Sys2Proof.Claims

/-- Refutes O42: FLR leaves ring 64 of VF 1 enabled in `strayMaster`. The statement asks for no `State.Numbered`, and where
a partition has a master above 63 the reset of that master's sequencer overwrites the owner of a ring group. -/
theorem not_functionsAndBar4 : ¬ Obligations.FunctionsAndBar4 := by
  unfold Obligations.FunctionsAndBar4
  rintro ⟨-, -, hflr, -⟩
  obtain ⟨t, hexec, -, hrings, -⟩ := hflr 1 strayMaster strayMaster_reached (by simp [strayMaster_jobs])
  rw [exec_flr, execFlr_vf (by decide) strayMaster_reached] at hexec
  injection hexec with ht
  have hdisabled := hrings 64 (by decide) strayMaster_ringOwner
  rw [← ht] at hdisabled
  exact absurd (flr_strayMaster_ring.symm.trans hdisabled) (by decide)

end Sys2Proof.Proofs
end

section
/-! SUPPORT. The invariant of O60: what it speaks of, and how it passes through conditionals, folds, pairs and the
results of the cores. Its sections elaborate one theorem after another: the default argument of `State.Sound.same`
awaits the theorems before it, and a thread for each would need more stacks than the check has memory for. -/
set_option Elab.async false
namespace Sys2Proof.Machine
open Sys2Proof

variable {s t : State}

/-- The invariant of O60 as one predicate. -/
def State.Sound (s : State) : Prop := s.memOk ∧ s.Numbered

/-- All that the invariant speaks of. -/
def State.kept (s : State) :
    List Host.Cell × List Job × List HeldCqe × List (Nat × Nat × Nat) × Tbl Part × Option PartCmd × List (Nat × Bool) :=
  (s.mem, s.jobs, s.heldCqe, s.evtHeld, s.parts, s.partCmd, s.flrWait)

/-- A state that agrees in all that the invariant speaks of. -/
theorem State.Sound.same (h : s.Sound) (e : t.kept = s.kept := by dsimp only [State.kept]) : t.Sound := by
  simp only [State.kept, Prod.mk.injEq] at e
  obtain ⟨hmem, hjobs, hheld, hevents, hparts, hcmd, hresets⟩ := e
  obtain ⟨hok, hnum⟩ := h
  refine ⟨?_, ⟨hjobs ▸ hnum.jobs, hheld ▸ hnum.held, hevents ▸ hnum.events, hparts ▸ hnum.parts, hcmd ▸ hnum.command,
    hresets ▸ hnum.resets⟩⟩
  unfold State.memOk
  rw [hmem]
  exact hok

theorem ite_sound {c : Prop} [Decidable c] (h : s.Sound) (k : t.Sound) : (if c then s else t).Sound := by
  split
  · exact h
  · exact k

theorem ite_sound_snd {α : Type} {c : Prop} [Decidable c] {p q : α × State} (h : p.2.Sound) (k : q.2.Sound) :
    (if c then p else q).2.Sound := by
  split
  · exact h
  · exact k

theorem ite_sound_snd_snd {α β : Type} {c : Prop} [Decidable c] {p q : α × β × State} (h : p.2.2.Sound)
    (k : q.2.2.Sound) :
    (if c then p else q).2.2.Sound := by
  split
  · exact h
  · exact k

theorem State.Sound.pair {α : Type} {a : α} (h : s.Sound) : (a, s).2.Sound := h

theorem State.Sound.triple {α β : Type} {a : α} {b : β} (h : s.Sound) : (a, b, s).2.2.Sound := h

theorem State.Sound.quad {α β γ : Type} {a : α} {b : β} {c : γ} (h : s.Sound) : (a, b, c, s).2.2.2.Sound := h

/-- The state of a pair that an equation names. -/
theorem State.Sound.snd {α : Type} {p : α × State} {a : α} (h : p.2.Sound) (e : p = (a, t)) : t.Sound := by
  subst e
  exact h

/-- The state of a triple that an equation names. -/
theorem State.Sound.snd_snd {α β : Type} {p : α × β × State} {a : α} {b : β} (h : p.2.2.Sound) (e : p = (a, b, t)) :
    t.Sound := by
  subst e
  exact h

/-- The state of four that an equation names. -/
theorem State.Sound.third {α β γ : Type} {p : α × β × γ × State} {a : α} {b : β} {c : γ} (h : p.2.2.2.Sound)
    (e : p = (a, b, c, t)) : t.Sound := by
  subst e
  exact h

theorem foldl_sound {α : Type} {f : State → α → State} {l : List α} (h : s.Sound)
    (hf : ∀ s : State, s.Sound → ∀ x ∈ l, (f s x).Sound) : (l.foldl f s).Sound :=
  foldl_keeps l h hf

theorem foldl_sound_snd {α β : Type} {f : α × State → β → α × State} {l : List β} {p : α × State} (h : p.2.Sound)
    (hf : ∀ p : α × State, p.2.Sound → ∀ x ∈ l, (f p x).2.Sound) : (l.foldl f p).2.Sound :=
  foldl_keeps (P := fun p : α × State => p.2.Sound) l h hf

theorem foldl_sound_snd_snd {α β γ : Type} {f : α × β × State → γ → α × β × State} {l : List γ} {p : α × β × State}
    (h : p.2.2.Sound) (hf : ∀ p : α × β × State, p.2.2.Sound → ∀ x ∈ l, (f p x).2.2.Sound) : (l.foldl f p).2.2.Sound :=
  foldl_keeps (P := fun p : α × β × State => p.2.2.Sound) l h hf

theorem foldl_sound_third {α β γ δ : Type} {f : α × β × γ × State → δ → α × β × γ × State} {l : List δ}
    {p : α × β × γ × State} (h : p.2.2.2.Sound)
    (hf : ∀ p : α × β × γ × State, p.2.2.2.Sound → ∀ x ∈ l, (f p x).2.2.2.Sound) : (l.foldl f p).2.2.2.Sound :=
  foldl_keeps (P := fun p : α × β × γ × State => p.2.2.2.Sound) l h hf

/-- A command goes on, to a state that meets the invariant. -/
def Goes (o : Out) : Prop := ∃ t, o = .next t ∧ t.Sound

theorem ok_sound (h : s.Sound) : Goes (ok s) := ⟨s, rfl, h⟩

theorem ite_goes {c : Prop} [Decidable c] {o p : Out} (h : Goes o) (k : Goes p) : Goes (if c then o else p) := by
  split
  · exact h
  · exact k

/-- An operation of a core ends in a state that meets the invariant. -/
def OpRes.Sound : OpRes → Prop
  | .done s _ | .trap s _ _ _ _ _ | .wait s | .stall s | .halt s _ => s.Sound

/-- A data access ends in one. -/
def DataRes.Sound : DataRes → Prop
  | .ok _ s => s.Sound
  | .no r => r.Sound

theorem OpRes.Sound.of_eq {r r' : OpRes} (h : r.Sound) (e : r = r') : r'.Sound := e ▸ h

theorem DataRes.Sound.of_eq {r r' : DataRes} (h : r.Sound) (e : r = r') : r'.Sound := e ▸ h

theorem OpRes.Sound.no {r : OpRes} (h : r.Sound) : DataRes.Sound (.no r) := h

theorem ite_opres {c : Prop} [Decidable c] {o p : OpRes} (h : o.Sound) (k : p.Sound) : (if c then o else p).Sound := by
  split
  · exact h
  · exact k

theorem ite_datares {c : Prop} [Decidable c] {o p : DataRes} (h : o.Sound) (k : p.Sound) :
    (if c then o else p).Sound := by
  split
  · exact h
  · exact k

/-- To take a function apart as a whole, before its arguments: to compare it with its definition at a state, the kernel
may evaluate what the definition matches on, and so a whole memory. -/
theorem of_function {α : Type} (f : α) {P : α → Prop} (h : ∀ g, g = f → P g) : P f := h f rfl

/-- A number of six bits. -/
theorem bits_six_lt {v i : Nat} : bits v i 6 < 64 := Nat.mod_lt _ (by decide)

end Sys2Proof.Machine
end

section
/-! SUPPORT. The invariant of O60: the operations on the state. -/
set_option Elab.async false
namespace Sys2Proof.Machine
open Sys2Proof

variable {s t : State}

theorem setF_sound {f v} (h : s.Sound) : (setF f v s).Sound := by
  unfold setF
  exact h.same

theorem satF_sound {f k} (h : s.Sound) : (satF f k s).Sound := setF_sound h

theorem incF_sound {f k} (h : s.Sound) : (incF f k s).Sound := setF_sound h

theorem maxF_sound {f v} (h : s.Sound) : (maxF f v s).Sound := setF_sound h

theorem setFs_sound {l} (h : s.Sound) : (setFs l s).Sound := foldl_sound h fun _ h1 _ _ => setF_sound h1

theorem setSeq_sound {n m} (h : s.Sound) : (setSeq n m s).Sound := by
  unfold setSeq
  exact h.same

theorem updSeq_sound {n g} (h : s.Sound) : (updSeq n g s).Sound := setSeq_sound h

theorem setCore_sound {n c} (h : s.Sound) : (setCore n c s).Sound := by
  unfold setCore
  exact h.same

theorem updCore_sound {n g} (h : s.Sound) : (updCore n g s).Sound := setCore_sound h

theorem setField_sound {f x} (h : s.Sound) : (setField f x s).Sound := by
  unfold setField
  exact h.same

theorem updField_sound {f g} (h : s.Sound) : (updField f g s).Sound := setField_sound h

theorem updSlice_sound {f sl g} (h : s.Sound) : (updSlice f sl g s).Sound := updField_sound h

theorem updSlices_sound {f g} (h : s.Sound) : (updSlices f g s).Sound := updField_sound h

theorem draw_sound (h : s.Sound) : (draw s).2.Sound := by
  unfold draw
  exact h.same

end Sys2Proof.Machine
end

section
/-! SUPPORT. The invariant of O60: the clocks. -/
set_option Elab.async false
namespace Sys2Proof.Machine
open Sys2Proof

variable {s t : State}

theorem tick_sound (h : s.Sound) : (tick s).Sound := ite_sound h.same.same h.same

end Sys2Proof.Machine
end

section
/-! SUPPORT. The invariant of O60: logs, events and reports. -/
set_option Elab.async false
namespace Sys2Proof.Machine
open Sys2Proof

variable {s t : State}

theorem hostWrite_sound {func addr data} (h : s.Sound) : (hostWrite func addr data s).Sound := by
  unfold hostWrite
  exact h.same

theorem msix_sound {f v} (h : s.Sound) : (msix f v s).Sound := ite_sound h.same (hostWrite_sound h)

theorem announce_sound {r} (h : s.Sound) : (announce r s).Sound := by
  unfold announce
  refine ite_sound (ite_sound (msix_sound h) ?_) h
  split
  · exact h.same
  · exact (msix_sound h).same

theorem ringWrite_sound {r q0 q1} (h : s.Sound) : (ringWrite r q0 q1 s).Sound := by
  unfold ringWrite
  extract_lets t ph s1 s2 s3
  have hs1 : s1.Sound := hostWrite_sound h
  have hs2 : s2.Sound := setF_sound hs1
  have hs3 : s3.Sound := ite_sound (setF_sound hs2) hs2
  exact announce_sound hs3

theorem postEntry_sound {f q1 data} (h : s.Sound) : (postEntry f q1 data s).Sound := by
  unfold postEntry
  extract_lets r mine lost s1 s2
  have hs2 : s2.Sound := ite_sound h (ringWrite_sound h).same
  exact ite_sound (ite_sound (satF_sound hs2.same) (ringWrite_sound hs2)) (ite_sound (satF_sound h.same) (satF_sound h))

/-- An event names a function of the part, so that it may be held (R560). -/
theorem postEvent_sound {f ty src data} (hf : f < 64) (h : s.Sound) : (postEvent f ty src data s).Sound := by
  unfold postEvent
  refine ite_sound h (ite_sound ⟨h.1, { h.2 with events := fun e he => ?_ }⟩ (postEntry_sound h))
  rcases List.mem_append.mp he with he | he
  · exact h.2.events e he
  · rw [List.mem_singleton.mp he]
    exact hf

/-- The owner of a ring is a function of the part: OWNER has six bits (R360). -/
theorem ringOwner_lt {r} : (ringOwner s r).getD 0 < 64 := by
  unfold ringOwner
  split
  · exact getF_lt s (fRG_OWNER_OWNER (r / 64))
  · decide

theorem mem_uniq {l : List Nat} {x : Nat} (hx : x ∈ uniq l) : x ∈ l := by
  unfold uniq at hx
  have key := foldl_keeps (P := fun a : List Nat => ∀ x ∈ a, x ∈ l)
    (g := fun a x => if a.contains x then a else a ++ [x])
    l (x := []) (by simp) fun a ha b hb x hx => ?_
  · exact key x hx
  · split at hx
    · exact ha x hx
    · rcases List.mem_append.mp hx with hx | hx
      · exact ha x hx
      · rw [List.mem_singleton.mp hx]
        exact hb

/-- The function that owns a partition is one the part has. -/
theorem ownerOf_lt {f g : Nat} (h : s.Sound) (e : ownerOf s f = some g) : g < 64 := by
  obtain ⟨p, hp, rfl⟩ := Option.map_eq_some_iff.mp e
  exact (h.2.parts p (List.mem_of_find?_eq_some hp)).2

theorem mem_ownerOf_lt {f : Nat} (h : s.Sound) : ∀ v ∈ (ownerOf s f).toList, v < 64 := fun _ hv =>
  ownerOf_lt h (Option.mem_toList.mp hv)

/-- Every VF that a device Logbook entry is mirrored to exists (R550). -/
theorem devLogFor_sound {vfs cls sev status master node field wh cap} (hv : ∀ v ∈ vfs, v < 64) (h : s.Sound) :
    (devLogFor vfs cls sev status master node field wh cap s).Sound := by
  unfold devLogFor
  extract_lets i seqno l0 vs s1 s2
  have hs2 : s2.Sound := incF_sound (incF_sound h.same)
  exact foldl_sound (postEvent_sound (by decide) hs2) fun _ h v hm =>
    postEvent_sound (hv v (List.mem_filter.mp (mem_uniq hm)).1) h

theorem masterFunc_lt {m g : Nat} (e : masterFunc m = some g) : g < 64 := by
  unfold masterFunc at e
  split at e
  · injection e with e
    omega
  · cases e

theorem devLogM_sound {cls sev status master node wh cap} (h : s.Sound) :
    (devLogM cls sev status master node wh cap s).Sound := by
  unfold devLogM
  refine devLogFor_sound (fun v hv => ?_) h
  rcases List.mem_append.mp hv with hv | hv
  · exact masterFunc_lt (Option.mem_toList.mp hv)
  · split at hv
    · exact mem_ownerOf_lt h v hv
    · cases hv

theorem devLogF_sound {cls sev field wh cap} (h : s.Sound) : (devLogF cls sev field wh cap s).Sound :=
  devLogFor_sound (mem_ownerOf_lt h) h

theorem tgtLog_sound {d addr master ty status} (h : s.Sound) : (tgtLog d addr master ty status s).Sound :=
  incF_sound ((setFs_sound (ite_sound (satF_sound h) h)).same)

theorem refusalLog_sound {d addr master ty status} (h : s.Sound) : (refusalLog d addr master ty status s).Sound :=
  devLogM_sound (tgtLog_sound h)

end Sys2Proof.Machine
end

section
/-! SUPPORT. The invariant of O60: planes. -/
set_option Elab.async false
namespace Sys2Proof.Machine
open Sys2Proof

variable {s t : State}

theorem readRowAs_sound {fwd f row} (h : s.Sound) : (readRowAs fwd s f row).2.2.Sound :=
  foldl_sound_snd_snd h (fun _ h1 _ _ => (draw_sound h1).triple)

theorem readRow_sound {f row} (h : s.Sound) : (readRow s f row).2.2.Sound := readRowAs_sound h

theorem dropFwd_sound {f row} (h : s.Sound) : (dropFwd f row s).Sound := updField_sound h

theorem setRowErr_sound {f key e} (h : s.Sound) : (setRowErr f key e s).Sound := updField_sound h

theorem flipRow_sound {f srow pcol row mask} (h : s.Sound) : (flipRow f srow pcol row mask s).Sound := by
  unfold flipRow
  extract_lets k e s1
  have hs1 : s1.Sound := setRowErr_sound h
  split
  · exact updField_sound hs1
  · exact hs1

theorem inject_sound {f row} (h : s.Sound) : (inject f row s).Sound := ite_sound (setF_sound (flipRow_sound h)) h

theorem writeRow_sound {f row en val} (h : s.Sound) : (writeRow s f row en val).2.Sound := by
  unfold writeRow
  extract_lets fwd
  split
  · rename_i e
    have h1 := (foldl_sound_snd_snd h (fun _ h1 _ _ =>
      ite_sound_snd_snd ((setRowErr_sound h1).triple) ((setRowErr_sound (draw_sound h1)).triple))).snd_snd e
    exact (inject_sound (updField_sound h1)).pair

theorem peCapture_sound {f src row upc e} (h : s.Sound) : (peCapture f src row upc e s).Sound :=
  ite_sound (setFs_sound (ite_sound (setF_sound h) h)) (ite_sound (setF_sound h) h)

theorem peError_sound {f src row upc e} (h : s.Sound) : (peError f src row upc e s).Sound := by
  unfold peError
  refine ite_sound (peCapture_sound (satF_sound h)) ?_
  extract_lets c s1 t
  have hs1 : s1.Sound := peCapture_sound (satF_sound (satF_sound h))
  exact ite_sound (devLogF_sound hs1) hs1

theorem peErrors_sound {f src row upc evs} (h : s.Sound) : (peErrors f src row upc evs s).Sound :=
  foldl_sound h fun _ h1 _ _ => peError_sound h1

end Sys2Proof.Machine
end

section
/-! SUPPORT. The invariant of O60: memory and its errors. -/
set_option Elab.async false
namespace Sys2Proof.Machine
open Sys2Proof

variable {s t : State}

theorem setByte_sound {a v} (h : s.Sound) : (setByte a v s).Sound :=
  ⟨setByte_memOk a v h.1, { h.2 with }⟩

theorem setBytes_sound {a l} (h : s.Sound) : (setBytes a l s).Sound :=
  foldl_sound h fun _ h1 _ _ => setByte_sound h1

theorem setWord_sound {w v} (h : s.Sound) : (setWord w v s).Sound := setBytes_sound h

theorem setErr_sound {w m} (h : s.Sound) : (setErr w m s).Sound := by
  unfold setErr
  exact h.same

theorem secWord_sound {w} (h : s.Sound) : (secWord s w).2.2.Sound := ite_sound_snd_snd h ((draw_sound h).triple)

theorem secRead_sound {note a en} (hnote : ∀ a0 a1 (s : State), s.Sound → (note a0 a1 s).Sound) (h : s.Sound) :
    (secRead note a en s).2.2.2.Sound := by
  unfold secRead
  split
  · rename_i e
    have h1 := (foldl_sound_third h (fun _ h1 _ _ =>
      (ite_sound (secWord_sound h1) (hnote _ _ _ (secWord_sound h1))).quad)).third e
    exact h1

theorem secWrite_sound {note a en data} (hnote : ∀ a0 a1 (s : State), s.Sound → (note a0 a1 s).Sound) (h : s.Sound) :
    (secWrite note a en data s).2.Sound := by
  unfold secWrite
  refine foldl_sound_snd h (fun p1 h1 x1 hx1 => ?_)
  split
  · extract_lets full merge
    refine ite_sound_snd ((setErr_sound (setWord_sound h1)).pair) ?_
    split
    · rename_i e
      have h2 := (secWord_sound h1).snd_snd e
      extract_lets s1
      have hs1 : s1.Sound := ite_sound h2 (hnote _ _ _ h2)
      exact ite_sound_snd ((setErr_sound (setWord_sound hs1)).pair) ((setErr_sound (setWord_sound hs1)).pair)

theorem stgCount_sound {m ue w} (h : s.Sound) : (stgCount m ue w s).Sound := by
  unfold stgCount
  extract_lets s1 held s2
  have hs1 : s1.Sound := ite_sound (satF_sound h) (satF_sound h)
  have hs2 : s2.Sound := ite_sound (setF_sound hs1) hs1
  exact ite_sound (setFs_sound hs2) hs2

theorem stgNote_sound {m ue w} (h : s.Sound) : (stgNote m ue w s).Sound :=
  ite_sound (devLogM_sound (stgCount_sound h)) (stgCount_sound h)

theorem spadNote_sound {n m st ue w} (h : s.Sound) : (spadNote n m st ue w s).Sound :=
  ite_sound (devLogM_sound (satF_sound h)) (satF_sound h)

end Sys2Proof.Machine
end

section
/-! SUPPORT. The invariant of O60: Survey. -/
set_option Elab.async false
namespace Sys2Proof.Machine
open Sys2Proof

variable {s t : State}

theorem surveySave_sound {r} (h : s.Sound) : (surveySave r s).2.Sound := by
  unfold surveySave
  split
  · split
    · rename_i e
      have h1 := (readRowAs_sound h).snd_snd e
      exact (setFs_sound (peErrors_sound h1)).pair
  · exact h
  · split
    · rename_i e
      have h1 := (foldl_sound_snd_snd h (fun _ h1 _ _ =>
        (ite_sound (secWord_sound h1) (stgCount_sound (secWord_sound h1))).triple)).snd_snd e
      exact h1

theorem surveyLog_sound {r sev cap} (h : s.Sound) : (surveyLog r sev cap s).Sound := by
  unfold surveyLog
  split
  · exact devLogFor_sound (mem_ownerOf_lt h) h
  · exact devLogFor_sound (mem_ownerOf_lt h) h
  · exact devLogFor_sound (by simp) h

theorem surveyRestore_sound {b} (h : s.Sound) : (surveyRestore b s).Sound := by
  unfold surveyRestore
  extract_lets s1 uncorrectable s2
  have hs1 : s1.Sound := by
    unfold s1
    split
    · extract_lets s3 s4
      have hs3 : s3.Sound := foldl_sound h fun _ h1 _ _ => setRowErr_sound h1
      have hs4 : s4.Sound := dropFwd_sound (updField_sound hs3)
      exact inject_sound (setF_sound hs4)
    · exact foldl_sound h fun _ h1 _ _ => ite_sound h1.same h1
    · exact foldl_sound h fun _ h1 _ _ => setErr_sound (setWord_sound h1)
  have hs2 : s2.Sound := ite_sound (surveyLog_sound hs1) hs1
  exact hs2.same

theorem marchFailed_sound {r m} (h : s.Sound) : (marchFailed r m s).Sound := by
  unfold marchFailed
  extract_lets s1
  have hs1 : s1.Sound := satF_sound (surveyLog_sound h)
  split
  · exact satF_sound hs1
  · exact hs1

theorem execSurveyBorrow_sound {t r fail sweep} (h : s.Sound) : Goes (execSurveyBorrow t r fail sweep s) := by
  unfold execSurveyBorrow
  refine ite_goes (ok_sound h) ?_
  split
  · refine ite_goes ?_ ?_
    · split
      · rename_i e1
        have h1 := (surveySave_sound h).snd e1
        exact ok_sound h1.same
    · exact ok_sound h
  · refine ite_goes ?_ (ok_sound h)
    extract_lets s1 s2
    have hs1 : s1.Sound := ite_sound (foldl_sound h (fun _ h1 _ _ => marchFailed_sound h1)) h
    have hs2 : s2.Sound := surveyRestore_sound hs1
    exact ok_sound (ite_sound (incF_sound hs2) hs2)

theorem rowYield_sound {f stall} (h : s.Sound) : (rowYield f stall s).Sound := by
  unfold rowYield
  split
  · split
    · exact ite_sound (maxF_sound (satF_sound (surveyRestore_sound h))) h
    · exact h
  · exact h

theorem almYield_sound {n} (h : s.Sound) : (almYield n s).Sound := by
  unfold almYield
  split
  · split
    · exact ite_sound (surveyRestore_sound h) h
    · exact h
  · exact h

theorem execStagingYield_sound {q stall} (h : s.Sound) : Goes (execStagingYield q stall s) := by
  unfold execStagingYield
  split
  · exact ok_sound (maxF_sound (satF_sound (surveyRestore_sound h)))
  · exact ok_sound h

theorem surveySeal_sound {d} (h : s.Sound) : (surveySeal d s).Sound := by
  unfold surveySeal
  refine foldl_sound h fun s1 h1 x1 hx1 => ?_
  split
  · exact ite_sound (surveyRestore_sound h1) h1
  · exact h1

theorem surveyDisable_sound {t} (h : s.Sound) : (surveyDisable t s).Sound := by
  unfold surveyDisable
  refine foldl_sound h fun s1 h1 x1 hx1 => ite_sound h1 ?_
  split
  · exact surveyRestore_sound h1
  · exact h1

end Sys2Proof.Machine
end

section
/-! SUPPORT. The invariant of O60: the processing elements. -/
set_option Elab.async false
namespace Sys2Proof.Machine
open Sys2Proof

variable {s t : State}

theorem readPort_sound {f ea} (h : s.Sound) : (readPort s f ea).2.2.Sound := ite_sound_snd_snd (readRow_sound h) h

theorem edgePorts_sound {m p w live sent} (h : s.Sound) : (edgePorts m p w live sent s).Sound := by
  unfold edgePorts
  extract_lets news segs side liveSegs s1 b d toFab fromFab s2 s3 used
  have hs1 : s1.Sound := h.same
  have hs2 : s2.Sound := by
    unfold s2
    refine ite_sound (foldl_sound hs1 (fun s4 h1 x1 hx1 => ?_)) hs1
    split
    · exact ite_sound h1.same h1
    · exact h1
  have hs3 : s3.Sound := ite_sound (foldl_sound hs2 (fun _ h1 _ _ => ite_sound h1.same h1)) hs2
  exact ite_sound hs1 (ite_sound (ite_sound (setF_sound hs1) hs1) (ite_sound (setF_sound hs3) hs3))

theorem peField_sound {w opt f} (h : s.Sound) : (peField w opt f s).2.2.2.Sound := by
  unfold peField
  extract_lets m
  split
  · rename_i e
    have h1 := (readPort_sound h).snd_snd e
    split
    · rename_i e1
      have h2 := (ite_sound_snd_snd h1 (readPort_sound h1)).snd_snd e1
      extract_lets s1 x fin sPl kPl src en snd s2
      have hs1 : s1.Sound := peErrors_sound (peErrors_sound h2)
      have hs2 : s2.Sound := updField_sound hs1
      split
      · exact (updField_sound (peErrors_sound (writeRow_sound hs2))).quad
      · exact (updField_sound hs2).quad

theorem reportUe_sound {n p w f evs} (h : s.Sound) : (reportUe n p w f evs s).Sound := ite_sound (updSeq_sound h) h

theorem almCapture_sound {n ue bcast pos upc field stage} (h : s.Sound) :
    (almCapture n ue bcast pos upc field stage s).Sound :=
  ite_sound (setFs_sound (ite_sound (setF_sound h) h)) (ite_sound (setF_sound h) h)

theorem bcastErrors_sound {n p w bc} (h : s.Sound) : (bcastErrors n p w bc s).Sound := by
  unfold bcastErrors
  refine foldl_sound h fun s1 h1 x1 hx1 => ?_
  split
  · exact satF_sound h1
  · exact updSeq_sound (almCapture_sound (satF_sound h1))

theorem peWord_sound {n p w bc} (h : s.Sound) : (peWord n p w bc s).Sound := by
  unfold peWord
  extract_lets fs nulls live idle opt s1 s2 news h1 due put
  have hs1 : s1.Sound := bcastErrors_sound h
  have hs2 : s2.Sound := foldl_sound hs1 fun _ h2 _ _ => updField_sound h2
  split
  · rename_i e
    have h2 := (foldl_sound_snd_snd hs2 (fun _ h2 _ _ => (reportUe_sound (peField_sound h2)).triple)).snd_snd e
    split
    · rename_i e1
      have h3 := (draw_sound h2).snd e1
      extract_lets sent s3 planes s4 s5
      have hs3 : s3.Sound := edgePorts_sound h3
      have hs4 : s4.Sound := ite_sound hs3 (updSeq_sound hs3)
      have hs5 : s5.Sound := ite_sound (updSeq_sound hs4) (ite_sound (updSeq_sound hs4) hs4)
      exact updSeq_sound hs5

theorem applyUpsets_sound {ups} (h : s.Sound) : (applyUpsets ups s).Sound :=
  foldl_sound h fun _ h1 _ _ => flipRow_sound h1

theorem execPeExecute_sound {n ups bc} (h : s.Sound) : Goes (execPeExecute n ups bc s) := by
  unfold execPeExecute
  extract_lets s1
  have hs1 : s1.Sound := applyUpsets_sound h
  split
  · exact ok_sound (peWord_sound hs1)
  · exact ok_sound hs1

theorem execNlatchDelivery_sound {n} (h : s.Sound) : Goes (execNlatchDelivery n s) := by
  unfold execNlatchDelivery
  split
  · exact ok_sound (updSeq_sound (foldl_sound h (fun _ h1 _ _ => updField_sound h1)))
  · exact ok_sound h

end Sys2Proof.Machine
end

section
/-! SUPPORT. The invariant of O60: the slices. -/
set_option Elab.async false
namespace Sys2Proof.Machine
open Sys2Proof

variable {s t : State}

theorem updPart_sound {n g} (h : s.Sound) : (updPart n g s).Sound :=
  foldl_sound h fun _ h1 _ _ => updField_sound h1

theorem updPartSlices_sound {n g} (h : s.Sound) : (updPartSlices n g s).Sound :=
  foldl_sound h fun _ h1 _ _ => updSlices_sound h1

theorem updLive_sound {n idle g} (h : s.Sound) : (updLive n idle g s).Sound :=
  foldl_sound h fun _ h1 _ _ => updField_sound h1

theorem updLiveSlices_sound {n idle g} (h : s.Sound) : (updLiveSlices n idle g s).Sound :=
  foldl_sound h fun _ h1 _ _ => updSlices_sound h1

theorem exchange_sound {n idle} (h : s.Sound) : (exchange n idle s).Sound := updSeq_sound (updLive_sound h)

theorem xpLoad_sound {n x} (h : s.Sound) : (xpLoad n x s).Sound := by
  unfold xpLoad
  extract_lets q s1
  have hs1 : s1.Sound := ite_sound (ite_sound (updSeq_sound (foldl_sound h (fun _ h1 _ _ => updField_sound h1)))
    (setF_sound h)) h
  refine ite_sound ?_ hs1
  exact ite_sound (updSeq_sound (foldl_sound hs1 (fun _ h1 _ _ => updField_sound h1))) (setF_sound hs1)

theorem xpStepWord_sound {n x} (h : s.Sound) : (xpStepWord n x s).Sound := by
  unfold xpStepWord
  extract_lets q s1 q1 op fmt sf k wt s2
  have hs1 : s1.Sound := ite_sound (exchange_sound h) h
  have hs2 : s2.Sound := foldl_sound hs1 fun _ h1 _ _ => updField_sound h1
  exact ite_sound (updSeq_sound hs2) hs1

theorem discardGroup_sound {n} (h : s.Sound) : (discardGroup n s).Sound :=
  updSeq_sound (updPartSlices_sound (updPart_sound h))

theorem commitGroup_sound {n idle drains} (h : s.Sound) : (commitGroup n idle drains s).Sound := by
  unfold commitGroup
  extract_lets fs anyCb fl lost s1 s2 s3 s4
  have hs1 : s1.Sound := updLive_sound h
  have hs2 : s2.Sound := updLiveSlices_sound hs1
  have hs3 : s3.Sound := updSeq_sound hs2
  have hs4 : s4.Sound := setF_sound hs3
  exact ite_sound (setF_sound hs4) hs4

theorem transposerReset_sound {n idle drains} (h : s.Sound) : (transposerReset n idle drains s).Sound :=
  updSeq_sound (updLiveSlices_sound (updLive_sound h))

theorem xpAct_sound {code n g} (hg : ∀ a0 (s : State), s.Sound → (g a0 s).Sound) (h : s.Sound) :
    Goes (xpAct code n g s) := by
  unfold xpAct
  split
  · exact ite_goes (ok_sound (hg _ _ (updSeq_sound h))) (ok_sound h)
  · exact ok_sound h

theorem execXpIdle_sound {n} (h : s.Sound) : Goes (execXpIdle n s) := xpAct_sound (fun _ _ h1 => h1) h

theorem execLda_sound {n} (h : s.Sound) : Goes (execLda n s) := xpAct_sound (fun _ _ h1 => xpLoad_sound h1) h

theorem execLdb_sound {n} (h : s.Sound) : Goes (execLdb n s) := xpAct_sound (fun _ _ h1 => xpLoad_sound h1) h

theorem execLdab_sound {n} (h : s.Sound) : Goes (execLdab n s) := xpAct_sound (fun _ _ h1 => xpLoad_sound h1) h

theorem execStep_sound {n} (h : s.Sound) : Goes (execStep n s) := xpAct_sound (fun _ _ h1 => xpStepWord_sound h1) h

theorem execStepLda_sound {n} (h : s.Sound) : Goes (execStepLda n s) :=
  xpAct_sound (fun _ _ h1 => xpLoad_sound (xpStepWord_sound h1)) h

theorem execStepLdb_sound {n} (h : s.Sound) : Goes (execStepLdb n s) :=
  xpAct_sound (fun _ _ h1 => xpLoad_sound (xpStepWord_sound h1)) h

theorem execStepLdab_sound {n} (h : s.Sound) : Goes (execStepLdab n s) :=
  xpAct_sound (fun _ _ h1 => xpLoad_sound (xpStepWord_sound h1)) h

theorem execSwap_sound {n} (h : s.Sound) : Goes (execSwap n s) := xpAct_sound (fun _ _ h1 => exchange_sound h1) h

theorem execCommit_sound {n} (h : s.Sound) : Goes (execCommit n s) :=
  xpAct_sound (fun _ _ h1 => commitGroup_sound h1) h

theorem execTreset_sound {n} (h : s.Sound) : Goes (execTreset n s) :=
  xpAct_sound (fun _ _ h1 => transposerReset_sound h1) h

theorem execWpgo_sound {n} (h : s.Sound) : Goes (execWpgo n s) :=
  xpAct_sound (fun _ _ h1 => foldl_sound h1 (fun _ h2 _ _ => updField_sound h2)) h

theorem execWpwait_sound {n} (h : s.Sound) : Goes (execWpwait n s) := xpAct_sound (fun _ _ h1 => h1) h

theorem deliver_sound {f sl rs markF7} (h : s.Sound) : (deliver f sl rs markF7 s).Sound :=
  ite_sound (updField_sound (updSlice_sound h)) (updSlice_sound h)

theorem beginWordTime_sound {op f sl} (h : s.Sound) : (beginWordTime op f sl s).Sound := by
  unfold beginWordTime
  split
  · exact h
  · exact ite_sound h (updSlice_sound h)

theorem beginDivide_sound {op f sl} (h : s.Sound) : (beginDivide op f sl s).Sound := by
  unfold beginDivide
  split
  · exact h
  · exact ite_sound h (updSlice_sound h)

theorem execSutorNop_sound {f sl} (h : s.Sound) : Goes (execSutorNop f sl s) := ok_sound (beginWordTime_sound h)

theorem execFadd_sound {f sl} (h : s.Sound) : Goes (execFadd f sl s) := ok_sound (beginWordTime_sound h)

theorem execFsub_sound {f sl} (h : s.Sound) : Goes (execFsub f sl s) := ok_sound (beginWordTime_sound h)

theorem execFmul_sound {f sl} (h : s.Sound) : Goes (execFmul f sl s) := ok_sound (beginWordTime_sound h)

theorem execFma_sound {f sl} (h : s.Sound) : Goes (execFma f sl s) := ok_sound (beginWordTime_sound h)

theorem execFmin_sound {f sl} (h : s.Sound) : Goes (execFmin f sl s) := ok_sound (beginWordTime_sound h)

theorem execFmax_sound {f sl} (h : s.Sound) : Goes (execFmax f sl s) := ok_sound (beginWordTime_sound h)

theorem execFabs_sound {f sl} (h : s.Sound) : Goes (execFabs f sl s) := ok_sound (beginWordTime_sound h)

theorem execFcmpeq_sound {f sl} (h : s.Sound) : Goes (execFcmpeq f sl s) := ok_sound (beginWordTime_sound h)

theorem execFcmplt_sound {f sl} (h : s.Sound) : Goes (execFcmplt f sl s) := ok_sound (beginWordTime_sound h)

theorem execFcmple_sound {f sl} (h : s.Sound) : Goes (execFcmple f sl s) := ok_sound (beginWordTime_sound h)

theorem execCvt_sound {f sl} (h : s.Sound) : Goes (execCvt f sl s) := ok_sound (beginWordTime_sound h)

theorem execImul_sound {f sl} (h : s.Sound) : Goes (execImul f sl s) := ok_sound (beginWordTime_sound h)

theorem execImulh_sound {f sl} (h : s.Sound) : Goes (execImulh f sl s) := ok_sound (beginWordTime_sound h)

theorem execIdiv_sound {f sl} (h : s.Sound) : Goes (execIdiv f sl s) := ok_sound (beginDivide_sound h)

theorem execIrem_sound {f sl} (h : s.Sound) : Goes (execIrem f sl s) := ok_sound (beginDivide_sound h)

theorem execImin_sound {f sl} (h : s.Sound) : Goes (execImin f sl s) := ok_sound (beginWordTime_sound h)

theorem execImax_sound {f sl} (h : s.Sound) : Goes (execImax f sl s) := ok_sound (beginWordTime_sound h)

theorem execIabs_sound {f sl} (h : s.Sound) : Goes (execIabs f sl s) := ok_sound (beginWordTime_sound h)

theorem execIcmpeq_sound {f sl} (h : s.Sound) : Goes (execIcmpeq f sl s) := ok_sound (beginWordTime_sound h)

theorem execIcmplt_sound {f sl} (h : s.Sound) : Goes (execIcmplt f sl s) := ok_sound (beginWordTime_sound h)

theorem execDadd_sound {f sl} (h : s.Sound) : Goes (execDadd f sl s) := ok_sound (beginWordTime_sound h)

theorem execDsub_sound {f sl} (h : s.Sound) : Goes (execDsub f sl s) := ok_sound (beginWordTime_sound h)

theorem execAccrd_sound {f sl} (h : s.Sound) : Goes (execAccrd f sl s) := ok_sound (beginWordTime_sound h)

theorem execAccld_sound {f sl} (h : s.Sound) : Goes (execAccld f sl s) := ok_sound (beginWordTime_sound h)

theorem execAccz_sound {f sl} (h : s.Sound) : Goes (execAccz f sl s) := ok_sound (beginWordTime_sound h)

theorem sliceFail_sound {n f sl e} (h : s.Sound) : (sliceFail n f sl e s).Sound := by
  unfold sliceFail
  exact updSlice_sound (ite_sound (setF_sound (satF_sound h)) (setFs_sound (satF_sound h)))

theorem execWordTimeComplete_sound {f sl fail} (h : s.Sound) : Goes (execWordTimeComplete f sl fail s) := by
  unfold execWordTimeComplete
  split
  · exact ok_sound h
  · extract_lets s1
    have hs1 : s1.Sound := deliver_sound (updSlice_sound h)
    split
    · exact ok_sound hs1
    · exact ok_sound (sliceFail_sound hs1)

theorem execDivideComplete_sound {f sl d} (h : s.Sound) : Goes (execDivideComplete f sl d s) := by
  unfold execDivideComplete
  split
  · exact ok_sound h
  · exact ok_sound (deliver_sound (updSlice_sound h))

end Sys2Proof.Machine
end

section
/-! SUPPORT. The invariant of O60: the micro-sequencers. -/
set_option Elab.async false
namespace Sys2Proof.Machine
open Sys2Proof

variable {s t : State}

theorem raiseIrq_sound {n cause} (h : s.Sound) : (raiseIrq n cause s).Sound := updCore_sound h

theorem fetchMicro_sound {n a} (h : s.Sound) : (fetchMicro s n a).2.Sound := by
  unfold fetchMicro
  split
  · exact h
  · extract_lets e
    split
    · exact h
    · exact h
    · exact h
    · split
      · rename_i e2
        have h1 := (draw_sound h).snd e2
        split
        · exact h1
        · exact h1
        · exact h1

theorem almUpset_sound {n a flip} (h : s.Sound) : (almUpset n a flip s).Sound := ite_sound h h.same

theorem writeRecord_sound {n st} (h : s.Sound) : (writeRecord n st s).Sound :=
  updSeq_sound (setFs_sound (setFs_sound (setFs_sound (setFs_sound h))))

theorem stopAt_sound {n st} (h : s.Sound) : (stopAt n st s).Sound := updSeq_sound (setF_sound h)

theorem completeYield_sound {n st} (h : s.Sound) : (completeYield n st s).Sound := updSeq_sound (writeRecord_sound h)

theorem takeRequests_sound {n kind upc ended} (h : s.Sound) : (takeRequests n kind upc ended s).Sound :=
  updSeq_sound (setF_sound h)

theorem takeIfIdle_sound {n} (h : s.Sound) : (takeIfIdle n s).Sound := by
  unfold takeIfIdle
  extract_lets q s1
  have hs1 : s1.Sound := takeRequests_sound h
  refine ite_sound ?_ h
  split
  · exact completeYield_sound hs1
  · exact hs1

theorem releaseTrap_sound {n st} (h : s.Sound) : (releaseTrap n st s).Sound :=
  takeIfIdle_sound (updSeq_sound (ite_sound h (setF_sound h)))

theorem settleTrap_sound {n} (h : s.Sound) : (settleTrap n s).Sound := by
  unfold settleTrap
  split
  · exact ite_sound (releaseTrap_sound h) h
  · exact h

theorem machineCheck_sound {n mcsrc apc} (h : s.Sound) : (machineCheck n mcsrc apc s).Sound := by
  unfold machineCheck
  extract_lets q s1 u st
  have hs1 : s1.Sound := setF_sound h
  split
  · exact ite_sound (updSeq_sound h) h
  · split
    · exact stopAt_sound h
    · exact stopAt_sound h
    · exact updSeq_sound h
    · exact settleTrap_sound (updSeq_sound hs1)
    · exact h

theorem recordFault_sound {n upc ports} (h : s.Sound) : (recordFault n upc ports s).Sound := by
  unfold recordFault
  split
  · exact h
  · exact ite_sound (setF_sound h) (setFs_sound h)

theorem haloRequest_sound {n p w} (h : s.Sound) : (haloRequest n p w s).Sound := by
  unfold haloRequest
  extract_lets b e
  exact ite_sound (foldl_sound h (fun _ h1 _ _ => ite_sound (setF_sound h1) (updSeq_sound h1))) h

theorem issue_sound {n p w} (h : s.Sound) : (issue n p w s).Sound := by
  unfold issue
  extract_lets q l cur next ends ports pw rem tree s1 s2 s3 s4 q1 kind u
  have hs1 : s1.Sound := ite_sound (setF_sound h) h
  have hs2 : s2.Sound := ite_sound (setF_sound hs1) hs1
  have hs3 : s3.Sound := haloRequest_sound (recordFault_sound hs2)
  have hs4 : s4.Sound := updSeq_sound hs3
  exact ite_sound (stopAt_sound hs4) (ite_sound (takeRequests_sound hs4) (ite_sound (updSeq_sound hs4) hs4))

theorem microIssue_sound {kind n flip} (h : s.Sound) : (microIssue kind n flip s).Sound := by
  unfold microIssue
  split
  · exact h
  · extract_lets q a bad
    have hbad : ∀ (s : State), s.Sound → (bad s).Sound := fun s1 h1 =>
      devLogM_sound (machineCheck_sound (almCapture_sound (satF_sound h1)))
    split
    · rename_i e1
      have h1 := (fetchMicro_sound (almUpset_sound h)).snd e1
      split
      · exact h1
      · exact hbad _ h1
      · refine ite_sound (hbad _ h1) (ite_sound h1 (ite_sound (updSeq_sound (ite_sound (setF_sound h1) h1)) ?_))
        extract_lets s1
        have hs1 : s1.Sound := by
          unfold s1
          split
          · exact almCapture_sound (satF_sound h1)
          · exact h1
        split
        · exact stopAt_sound (ite_sound (devLogF_sound hs1) hs1)
        · exact issue_sound hs1

theorem execNextWord_sound {n flip} (h : s.Sound) : Goes (execNextWord n flip s) := ok_sound (microIssue_sound h)

theorem execJump_sound {n flip} (h : s.Sound) : Goes (execJump n flip s) := ok_sound (microIssue_sound h)

theorem execMicroCall_sound {n flip} (h : s.Sound) : Goes (execMicroCall n flip s) := ok_sound (microIssue_sound h)

theorem execMicroReturn_sound {n flip} (h : s.Sound) : Goes (execMicroReturn n flip s) := ok_sound (microIssue_sound h)

theorem execBranchAny_sound {n flip} (h : s.Sound) : Goes (execBranchAny n flip s) := ok_sound (microIssue_sound h)

theorem execBranchNone_sound {n flip} (h : s.Sound) : Goes (execBranchNone n flip s) := ok_sound (microIssue_sound h)

theorem execLoopC0_sound {n flip} (h : s.Sound) : Goes (execLoopC0 n flip s) := ok_sound (microIssue_sound h)

theorem execLoopC1_sound {n flip} (h : s.Sound) : Goes (execLoopC1 n flip s) := ok_sound (microIssue_sound h)

theorem execDispatch_sound {n flip} (h : s.Sound) : Goes (execDispatch n flip s) := ok_sound (microIssue_sound h)

theorem execEndWord_sound {n flip} (h : s.Sound) : Goes (execEndWord n flip s) := ok_sound (microIssue_sound h)

theorem execHoldWord_sound {n flip} (h : s.Sound) : Goes (execHoldWord n flip s) := ok_sound (microIssue_sound h)

theorem execBranchMflag_sound {n flip} (h : s.Sound) : Goes (execBranchMflag n flip s) := ok_sound (microIssue_sound h)

theorem execRoutineStart_sound {n} (h : s.Sound) : Goes (execRoutineStart n s) :=
  ite_goes (ok_sound (updSeq_sound h)) (ok_sound h)

theorem execRoutineComplete_sound {n} (h : s.Sound) : Goes (execRoutineComplete n s) := by
  unfold execRoutineComplete
  extract_lets q
  split
  · exact ok_sound h
  · exact ite_goes (ok_sound (updSeq_sound h)) (ok_sound h)

theorem execYieldComplete_sound {n} (h : s.Sound) : Goes (execYieldComplete n s) := by
  unfold execYieldComplete
  extract_lets q
  split
  · exact ite_goes (ok_sound (completeYield_sound h)) (ok_sound h)
  · exact ok_sound h

theorem execArrayTrapRecord_sound {n} (h : s.Sound) : Goes (execArrayTrapRecord n s) := by
  unfold execArrayTrapRecord
  extract_lets q
  split
  · exact ite_goes (ok_sound (settleTrap_sound (updSeq_sound (writeRecord_sound h)))) (ok_sound h)
  · exact ok_sound h

theorem execSoundingResult_sound {n} (h : s.Sound) : Goes (execSoundingResult n s) := by
  unfold execSoundingResult
  split
  · exact ok_sound (updSeq_sound (setF_sound h))
  · exact ok_sound h

theorem execCensusResult_sound {n} (h : s.Sound) : Goes (execCensusResult n s) := by
  unfold execCensusResult
  extract_lets q
  split
  · extract_lets v s1 s2
    have hs1 : s1.Sound := setFs_sound h
    have hs2 : s2.Sound := ite_sound (setFs_sound hs1) hs1
    exact ok_sound (raiseIrq_sound (updSeq_sound hs2))
  · exact ok_sound h

theorem treeCapture_sound {n cen level f sl upc} (h : s.Sound) : (treeCapture n cen level f sl upc s).Sound :=
  ite_sound (setF_sound (satF_sound h)) (setFs_sound (satF_sound h))

theorem execTreeMismatch_sound {n level f sl} (h : s.Sound) : Goes (execTreeMismatch n level f sl s) := by
  unfold execTreeMismatch
  extract_lets q l
  split
  · exact ite_goes (ok_sound (devLogF_sound (machineCheck_sound (updSeq_sound (treeCapture_sound h))))) (ok_sound h)
  · exact ite_goes (ok_sound (updSeq_sound (treeCapture_sound h))) (ok_sound h)

theorem execCensusMismatch_sound {n level f sl} (h : s.Sound) : Goes (execCensusMismatch n level f sl s) := by
  unfold execCensusMismatch
  extract_lets q
  split
  · exact ite_goes (ok_sound (devLogF_sound (machineCheck_sound (updSeq_sound (treeCapture_sound h))))) (ok_sound h)
  · exact ok_sound h

theorem execUeReport_sound {n} (h : s.Sound) : Goes (execUeReport n s) := by
  unfold execUeReport
  extract_lets q
  split
  · exact ok_sound h
  · refine ite_goes ?_ (ok_sound h)
    extract_lets s1 s2
    have hs1 : s1.Sound := updSeq_sound h
    have hs2 : s2.Sound := machineCheck_sound hs1
    exact ok_sound (ite_sound (devLogF_sound hs2) (devLogF_sound hs2))

theorem resumeIssue_sound {n} (h : s.Sound) : (resumeIssue n s).Sound := by
  unfold resumeIssue
  extract_lets q g l kind action snds s1 s2 s3 out rem hold b13 b16 stk
  have hs1 : s1.Sound := ite_sound (discardGroup_sound h) h
  have hs2 : s2.Sound := ite_sound (setF_sound hs1) hs1
  have hs3 : s3.Sound := setFs_sound hs2
  exact ite_sound (takeIfIdle_sound (updSeq_sound hs3)) (setF_sound h)

theorem abortRoutine_sound {n} (h : s.Sound) : (abortRoutine n s).Sound := by
  unfold abortRoutine
  extract_lets q s1 gone
  have hs1 : s1.Sound := setFs_sound (discardGroup_sound h)
  exact ite_sound (ite_sound (updSeq_sound hs1) (takeIfIdle_sound (updSeq_sound hs1))) h

theorem hubRelease_sound {n} (h : s.Sound) : (hubRelease n s).Sound := by
  unfold hubRelease
  extract_lets q s1
  have hs1 : s1.Sound := updSeq_sound h
  exact ite_sound (ite_sound (takeIfIdle_sound (updSeq_sound hs1)) (resumeIssue_sound hs1)) hs1

theorem parkEntries_sound {n} (h : s.Sound) : (parkEntries n s).Sound := by
  unfold parkEntries
  extract_lets q s1
  have hs1 : s1.Sound := setFs_sound (discardGroup_sound h)
  exact ite_sound (takeIfIdle_sound (updSeq_sound hs1)) (setF_sound h)

theorem unparkEntries_sound {n} (h : s.Sound) : (unparkEntries n s).Sound := ite_sound (updSeq_sound h) (setF_sound h)

theorem dropEntries_sound {n} (h : s.Sound) : (dropEntries n s).Sound := updSeq_sound h

theorem yieldRequest_sound {n} (h : s.Sound) : (yieldRequest n s).Sound :=
  takeIfIdle_sound (updSeq_sound (setF_sound h))

theorem haloAck_sound {seg} (h : s.Sound) : (haloAck seg s).Sound := by
  unfold haloAck
  split
  · exact h
  · exact ite_sound (ite_sound (setF_sound h) (updSeq_sound h)) h

theorem execHaloAck_sound {g m} (h : s.Sound) : Goes (execHaloAck g m s) := ok_sound (haloAck_sound h)

theorem haloClear_sound {n} (h : s.Sound) : (haloClear n s).Sound := updSeq_sound h

end Sys2Proof.Machine
end

section
/-! SUPPORT. The invariant of O60: the descriptors. -/
set_option Elab.async false
namespace Sys2Proof.Machine
open Sys2Proof

variable {s t : State}

/-- A descriptor keeps its ring, and an engine it gets is one of the 16 (R381). -/
def KeepsJob (g : Job → Job) : Prop := ∀ j, (g j).ring = j.ring ∧ ∀ e, (g j).eng = some e → j.eng = some e ∨ e < 16

theorem updJob_sound {id g} (hg : KeepsJob g) (h : s.Sound) : (updJob id g s).Sound := by
  refine ⟨h.1, { h.2 with jobs := fun j hj => ?_ }⟩
  obtain ⟨k, hk, rfl⟩ := List.mem_map.mp hj
  obtain ⟨hring, heng⟩ := h.2.jobs k hk
  split
  · refine ⟨(hg k).1 ▸ hring, fun e he => ?_⟩
    rcases (hg k).2 e he with hold | hnew
    · exact heng e hold
    · exact hnew
  · exact ⟨hring, heng⟩

theorem keepsJob_same {g : Job → Job} (hring : ∀ j, (g j).ring = j.ring)
    (heng : ∀ j, (g j).eng = j.eng) : KeepsJob g :=
  fun j => ⟨hring j, fun _ he => .inl (heng j ▸ he)⟩

theorem giveEngines_sound {k} (h : s.Sound) : (giveEngines k s).Sound := by
  induction k generalizing s with
  | zero => exact h
  | succ k ih =>
    unfold giveEngines
    split
    · rename_i e _ he
      have hlt : e < 16 := List.mem_range.mp (List.mem_of_find?_eq_some he)
      refine ite_sound (ih (setFs_sound (updJob_sound (fun _ => ⟨rfl, fun _ hk => .inr ?_⟩) h))) h
      injection hk with hk
      omega
    · exact h

theorem giveEngine_sound (h : s.Sound) : (giveEngine s).Sound := giveEngines_sound h

theorem freeEngine_sound {j} (h : s.Sound) : (freeEngine j s).Sound := by
  unfold freeEngine
  refine giveEngine_sound ?_
  split
  · exact setF_sound h
  · exact h

theorem leaveEngine_sound {id stage} (h : s.Sound) : (leaveEngine id stage s).Sound := by
  unfold leaveEngine
  split
  · exact freeEngine_sound (updJob_sound (fun _ => ⟨rfl, nofun⟩) h)
  · exact h

theorem writeCqe_sound {h1} (h : s.Sound) : (writeCqe h1 s).Sound := setF_sound (ringWrite_sound h)

/-- Descriptors may leave. -/
theorem dropJobs_filter_sound {p : Job → Bool} (h : s.Sound) : ({ s with jobs := s.jobs.filter p } : State).Sound :=
  ⟨h.1, { h.2 with jobs := fun j hj => h.2.jobs j (List.mem_filter.mp hj).1 }⟩

/-- A completion may wait for its ring when its descriptor has one of the rings. -/
theorem holdCqe_sound {c : HeldCqe} (hc : c.job.ring < 8192) (h : s.Sound) :
    ({ s with heldCqe := s.heldCqe ++ [c] } : State).Sound := by
  refine ⟨h.1, { h.2 with held := fun k hk => ?_ }⟩
  rcases List.mem_append.mp hk with hk | hk
  · exact h.2.held k hk
  · rw [List.mem_singleton.mp hk]
    exact hc

theorem completeJob_sound {id status detail} (h : s.Sound) : (completeJob id status detail s).Sound := by
  unfold completeJob
  split
  · exact h
  · rename_i j hj
    have hring : j.ring < 8192 := (h.2.jobs j (List.mem_of_find?_eq_some hj)).1
    extract_lets s1 cq s2
    have hs1 : s1.Sound := freeEngine_sound (dropJobs_filter_sound h)
    have hs2 : s2.Sound := holdCqe_sound hring hs1
    exact ite_sound hs1 (ite_sound (setF_sound hs1) (ite_sound (ite_sound (setF_sound hs2) hs2) (writeCqe_sound hs1)))

theorem releaseCqes_sound {l : List HeldCqe} (hl : ∀ c ∈ l, c.job.ring < 8192) (h : s.Sound) :
    (releaseCqes l s).Sound := by
  induction l generalizing s with
  | nil => exact h
  | cons c t ih =>
    have ht := fun k hk => hl k (List.mem_cons_of_mem _ hk)
    unfold releaseCqes
    extract_lets cq s1
    have hs1 : s1.Sound := holdCqe_sound (hl c List.mem_cons_self) h
    exact ite_sound (ih ht (ite_sound (setF_sound hs1) hs1)) (ih ht (writeCqe_sound h))

theorem releaseHeld_sound (h : s.Sound) : (releaseHeld s).Sound :=
  releaseCqes_sound h.2.held ⟨h.1, { h.2 with held := nofun }⟩

theorem startImage_sound {n j} (h : s.Sound) : (startImage n j s).Sound :=
  setFs_sound (setCore_sound (almYield_sound h))

theorem haltCore_sound {n why} (h : s.Sound) : (haltCore n why s).Sound := by
  unfold haltCore
  extract_lets c s1 s2
  have hs1 : s1.Sound := setFs_sound (setCore_sound h)
  have hs2 : s2.Sound := settleTrap_sound hs1
  refine ite_sound (setF_sound h) ?_
  split
  · exact completeJob_sound hs2
  · exact hs2

end Sys2Proof.Machine
end

section
/-! SUPPORT. The invariant of O60: the fabric. -/
set_option Elab.async false
namespace Sys2Proof.Machine
open Sys2Proof

variable {s t : State}

theorem updStrip_sound {g f} (h : s.Sound) : (updStrip g f s).Sound := by
  unfold updStrip
  exact h.same

theorem updBlk_sound {g k f} (h : s.Sound) : (updBlk g k f s).Sound := updStrip_sound h

theorem readUnit_sound {g k u} (h : s.Sound) : (readUnit g k u s).2.2.Sound :=
  ite_sound_snd_snd h ((draw_sound h).triple)

theorem blkNote_sound {g k u r} (h : s.Sound) : (blkNote g k u r s).Sound :=
  ite_sound (satF_sound h) (ite_sound (devLogM_sound (satF_sound h)) h)

theorem readEntry_sound {g k e} (h : s.Sound) : (readEntry g k e s).2.2.Sound :=
  foldl_sound_snd_snd h (fun _ h1 _ _ => (readUnit_sound h1).triple)

theorem noteEntry_sound {g k e r} (h : s.Sound) : (noteEntry g k e r s).Sound := blkNote_sound h

theorem writeEntry_sound {g k e v} (h : s.Sound) : (writeEntry g k e v s).Sound :=
  foldl_sound h fun _ h1 _ _ => updBlk_sound h1

theorem storeTail_sound {g k v} (h : s.Sound) : (storeTail g k v s).Sound := updBlk_sound (writeEntry_sound h)

theorem pushBlk_sound {g k v} (h : s.Sound) : (pushBlk g k v s).Sound := ite_sound (setF_sound h) (storeTail_sound h)

theorem dropHead_sound {g k} (h : s.Sound) : (dropHead g k s).2.Sound :=
  (updBlk_sound (noteEntry_sound (readEntry_sound h))).pair

theorem popBlk_sound {g k} (h : s.Sound) : (popBlk g k s).2.Sound :=
  ite_sound_snd ((setF_sound h).pair) ((dropHead_sound h).pair)

theorem linkSees_sound {g k late} (h : s.Sound) : (linkSees g k late s).Sound := updBlk_sound h

theorem linkFreed_sound {g k} (h : s.Sound) : (linkFreed g k s).Sound := updBlk_sound h

theorem emptyHalo_sound {g} (h : s.Sound) : (emptyHalo g s).Sound := foldl_sound h fun _ h1 _ _ => updBlk_sound h1

theorem emptyLinkQueues_sound {g} (h : s.Sound) : (emptyLinkQueues g s).Sound :=
  foldl_sound h fun _ h1 _ _ => updBlk_sound h1

end Sys2Proof.Machine
end

section
/-! SUPPORT. The invariant of O60: the fleet links. -/
set_option Elab.async false
namespace Sys2Proof.Machine
open Sys2Proof

variable {s t : State}

theorem updLink_sound {j g} (h : s.Sound) : (updLink j g s).Sound := by
  unfold updLink
  exact h.same

theorem linkEvent_sound {j data} (h : s.Sound) : (linkEvent j data s).Sound := by
  unfold linkEvent
  refine postEvent_sound ?_ h
  omega

theorem sendFlit_sound {j f} (h : s.Sound) : (sendFlit j f s).Sound := ite_sound (updLink_sound h) h

theorem merEvent_sound {code} (h : s.Sound) : (merEvent code s).Sound := by
  unfold merEvent
  refine postEvent_sound ?_ h
  omega

theorem setMerState_sound {st} (h : s.Sound) : (setMerState st s).Sound :=
  ite_sound h (merEvent_sound ((setF_sound h).same))

theorem updBar_sound {b g} (h : s.Sound) : (updBar b g s).Sound := by
  unfold updBar
  exact h.same

theorem releaseDown_sound {b t} (h : s.Sound) : (releaseDown b t s).Sound :=
  updBar_sound (foldl_sound h (fun _ h1 _ _ => sendFlit_sound h1))

theorem barrierUp_sound {b} (h : s.Sound) : (barrierUp b s).Sound := by
  unfold barrierUp
  extract_lets x e
  refine ite_sound (ite_sound (releaseDown_sound h) ?_) h
  split
  · exact updBar_sound (sendFlit_sound h)
  · exact h

theorem treeChange_sound (h : s.Sound) : (treeChange s).Sound :=
  foldl_sound h fun _ h1 _ _ => barrierUp_sound (updBar_sound h1)

theorem elect_sound {kids par} (h : s.Sound) : (elect kids par s).Sound := by
  unfold elect
  extract_lets old st best new
  split
  · extract_lets st' s1 s2 s3
    have hs1 : s1.Sound := setFs_sound h.same
    have hs2 : s2.Sound := setMerState_sound hs1
    have hs3 : s3.Sound := ite_sound hs2 (merEvent_sound hs2)
    exact ite_sound hs3 (treeChange_sound hs3.same)

theorem updCands_sound {g} (h : s.Sound) : (updCands g s).Sound := elect_sound h.same

theorem linkDown_sound {j why} (h : s.Sound) : (linkDown j why s).Sound := by
  unfold linkDown
  extract_lets st l next halo tun kids par lost u s1 s2 s3 s4 s5 s6
  have hs1 : s1.Sound := updLink_sound h
  have hs2 : s2.Sound := setFs_sound hs1
  have hs3 : s3.Sound := ite_sound (emptyHalo_sound hs2) hs2
  have hs4 : s4.Sound := satF_sound (setF_sound hs3)
  have hs5 : s5.Sound := linkEvent_sound hs4
  have hs6 : s6.Sound := hs5.same
  exact ite_sound (elect_sound (ite_sound (setMerState_sound hs6) hs6)) hs2

theorem updWatch_sound {w g} (h : s.Sound) : (updWatch w g s).Sound := by
  unfold updWatch
  exact h.same

theorem arriveAt_sound {b} (h : s.Sound) : (arriveAt b s).Sound := barrierUp_sound (setF_sound h)

theorem fleetDone_sound {w} (h : s.Sound) : (fleetDone w s).Sound := ite_sound (arriveAt_sound (setF_sound h)) h

theorem stopWatch_sound {w} (h : s.Sound) : (stopWatch w s).Sound := by
  unfold stopWatch
  extract_lets led s1
  have hs1 : s1.Sound := updWatch_sound (setFs_sound h)
  exact ite_sound (fleetDone_sound hs1) hs1

end Sys2Proof.Machine
end

section
/-! SUPPORT. The invariant of O60: the network interfaces. -/
set_option Elab.async false
namespace Sys2Proof.Machine
open Sys2Proof

variable {s t : State}

theorem nocCapture_sound {kind net router src dest port} (h : s.Sound) :
    (nocCapture kind net router src dest port s).Sound :=
  ite_sound (ite_sound (setF_sound h) h) (setFs_sound (ite_sound (setF_sound h) h))

theorem routeDrop_sound {x net src dest addr master} (h : s.Sound) : (routeDrop x net src dest addr master s).Sound :=
  ite_sound (ite_sound (devLogM_sound h) h) (devLogM_sound (nocCapture_sound (satF_sound h)))

theorem routeDiscard_sound {x net src dest} (h : s.Sound) : (routeDiscard x net src dest s).Sound :=
  devLogM_sound (nocCapture_sound (ite_sound h (satF_sound h)))

theorem requestFails_sound {x net src dest addr master} (h : s.Sound) :
    (requestFails x net src dest addr master s).2.Sound := by
  unfold requestFails
  extract_lets gone
  have hgone : gone.Sound := routeDrop_sound h
  split
  · exact (tgtLog_sound (satF_sound hgone)).pair
  · exact (routeDiscard_sound hgone).pair

theorem timedOut_sound {net src dest addr m} (h : s.Sound) : (timedOut net src dest addr m s).Sound :=
  nocCapture_sound (satF_sound (tgtLog_sound h))

theorem wakeTimedOut_sound {src addr m} (h : s.Sound) : (wakeTimedOut src addr m s).Sound := satF_sound (tgtLog_sound h)

theorem startFails_sound {id status} (h : s.Sound) : (startFails id status s).Sound := by
  unfold startFails
  split
  · exact ite_sound (completeJob_sound h) h
  · exact h

theorem requestEnds_sound {src b status data poison} (h : s.Sound) :
    (requestEnds src b status data poison s).Sound := by
  unfold requestEnds
  split
  · exact ite_sound h (startFails_sound h)
  · exact h.same

theorem updOutst_sound {src tid g} (h : s.Sound) : (updOutst src tid g s).Sound := by
  unfold updOutst
  exact h.same

theorem sendPacket_sound {src dest tid b} (h : s.Sound) : (sendPacket src dest tid b s).Sound :=
  ite_sound h.same (routeDiscard_sound h)

theorem sendRequest_sound {src dest tid e b} (h : s.Sound) : (sendRequest src dest tid e b s).Sound := by
  unfold sendRequest
  split
  · exact ite_sound h.same h.same
  · exact h.same

theorem issueRequest_sound {r} (h : s.Sound) : (issueRequest r s).Sound :=
  ite_sound (sendRequest_sound h.same) (requestEnds_sound (requestFails_sound h))

theorem submit_sound {r} (h : s.Sound) : (submit r s).Sound := ite_sound h (ite_sound (issueRequest_sound h) h.same)

theorem pumpList_sound {l} (h : s.Sound) : (pumpList l s).Sound := by
  induction l generalizing s with
  | nil => exact h
  | cons r t ih =>
    unfold pumpList
    exact ih (ite_sound (issueRequest_sound h) h.same)

theorem pump_sound (h : s.Sound) : (pump s).Sound := ite_sound h (pumpList_sound h.same)

theorem endOutst_sound {src tid status data poison} (h : s.Sound) : (endOutst src tid status data poison s).Sound := by
  unfold endOutst
  split
  · exact requestEnds_sound h.same
  · exact satF_sound h

theorem returnCredit_sound {src tid} (h : s.Sound) : (returnCredit src tid s).Sound := updOutst_sound h

theorem accepted_sound {src tid} (h : s.Sound) : (accepted src tid s).Sound := updOutst_sound h

theorem respond_sound {d src tid status data poison rd} (h : s.Sound) :
    (respond d src tid status data poison rd s).Sound :=
  ite_sound (sendPacket_sound (sendPacket_sound h)) (sendPacket_sound h)

end Sys2Proof.Machine
end

section
/-! SUPPORT. The invariant of O60: the power domains. -/
set_option Elab.async false
namespace Sys2Proof.Machine
open Sys2Proof

variable {s t : State}

theorem setDom_sound {d x} (h : s.Sound) : (setDom d x s).Sound := setFs_sound h.same

theorem updDom_sound {d g} (h : s.Sound) : (updDom d g s).Sound := setDom_sound h

theorem powerNote_sound {bit} (h : s.Sound) : (powerNote bit s).Sound :=
  foldl_sound h (fun _ h1 _ _ => ite_sound h1 (ite_sound (raiseIrq_sound h1.same) h1.same))

theorem powerEvent_sound {d old new code} (h : s.Sound) : (powerEvent d old new code s).Sound := by
  unfold powerEvent
  extract_lets data fs
  refine foldl_sound (postEvent_sound (by decide) h) fun _ h1 f hf => postEvent_sound ?_ h1
  unfold fs at hf
  split at hf
  · obtain ⟨k, -, hk⟩ := List.mem_filterMap.mp (mem_uniq (List.mem_filter.mp hf).1)
    exact ownerOf_lt h hk
  · cases hf

theorem answerAsker_sound {a status} (h : s.Sound) : (answerAsker a status s).Sound := by
  unfold answerAsker
  split
  · exact completeJob_sound h
  · exact ite_sound h.same h
  · exact h

theorem recordWake_sound {src d} (h : s.Sound) : (recordWake src d s).Sound := setFs_sound h

theorem startTrans_sound {d dst who} (h : s.Sound) : (startTrans d dst who s).Sound := by
  unfold startTrans
  extract_lets src t steps s1
  have hs1 : s1.Sound := ite_sound (recordWake_sound h) h
  exact ite_sound (updDom_sound hs1) (ite_sound (updDom_sound h) (updDom_sound (ite_sound (surveySeal_sound h) h)))

theorem ejectHeld_sound {d out} (h : s.Sound) : (ejectHeld d out s).Sound := by
  unfold ejectHeld
  exact updDom_sound h.same

theorem deliverStarts_sound (h : s.Sound) : (deliverStarts s).Sound :=
  foldl_sound h fun _ h1 _ _ => ite_sound (ejectHeld_sound h1) h1

theorem deliverHeld_sound {d} (h : s.Sound) : (deliverHeld d s).Sound :=
  ite_sound (deliverStarts_sound (ejectHeld_sound h)) h

theorem ringWaiting_sound {d} (h : s.Sound) : (ringWaiting d s).Sound :=
  foldl_sound h fun _ h1 _ _ => ite_sound (raiseIrq_sound h1.same) h1

theorem requestState_sound {d dst who} (h : s.Sound) : (requestState d dst who s).Sound := by
  unfold requestState
  extract_lets x cur s1
  have hs1 : s1.Sound := by
    unfold s1
    split
    · exact answerAsker_sound h
    · exact h
  split
  · exact ite_sound (answerAsker_sound h) (ite_sound (answerAsker_sound h) (startTrans_sound h))
  · refine ite_sound ?_ (ite_sound (answerAsker_sound h) (updDom_sound hs1))
    extract_lets s2 s3
    have hs2 : s2.Sound := answerAsker_sound (answerAsker_sound (setDom_sound h))
    have hs3 : s3.Sound := ringWaiting_sound (deliverHeld_sound hs2)
    split
    · exact ite_sound (answerAsker_sound (updDom_sound hs3)) (startTrans_sound hs3)
    · exact hs3

theorem postWake_sound {d src} (h : s.Sound) : (postWake d src s).Sound := ite_sound h (requestState_sound h)

theorem anchorWake_sound {d} (h : s.Sound) : (anchorWake d s).Sound := ite_sound (postWake_sound h) h

theorem stateReached_sound {d} (h : s.Sound) : (stateReached d s).Sound := by
  unfold stateReached
  split
  · exact h
  · extract_lets s1 s2 s3 ls s4 s5 s6 s7
    have hs1 : s1.Sound := setF_sound (updDom_sound h)
    have hs2 : s2.Sound := ite_sound hs1 (powerNote_sound (powerEvent_sound (satF_sound hs1)))
    have hs3 : s3.Sound := answerAsker_sound hs2
    have hs4 : s4.Sound := foldl_sound hs3 fun _ h1 _ _ => setF_sound h1
    have hs5 : s5.Sound := ite_sound (deliverHeld_sound (ringWaiting_sound hs4)) hs3
    have hs6 : s6.Sound := updDom_sound hs5
    have hs7 : s7.Sound := by
      unfold s7
      split
      · exact ite_sound (answerAsker_sound hs6) (ite_sound (answerAsker_sound hs6) (startTrans_sound hs6))
      · exact hs5
    exact anchorWake_sound hs7

theorem sealDom_sound {d} (h : s.Sound) : (sealDom d s).Sound := by
  unfold sealDom
  split
  · exact h
  · extract_lets s1 s2 s3
    have hs1 : s1.Sound := foldl_sound h fun _ h1 _ _ => linkDown_sound h1
    have hs2 : s2.Sound := ite_sound hs1 (surveySeal_sound hs1)
    have hs3 : s3.Sound := updDom_sound hs2
    exact ite_sound hs3 (postWake_sound hs3)

theorem execDuskDrainEnd_sound {d} (h : s.Sound) : Goes (execDuskDrainEnd d s) := by
  unfold execDuskDrainEnd
  split
  · exact ite_goes (ok_sound (sealDom_sound h)) (ok_sound h)
  · exact ok_sound h

theorem execDrainMaxExpiry_sound {d} (h : s.Sound) : Goes (execDrainMaxExpiry d s) := by
  unfold execDrainMaxExpiry
  split
  · exact ite_goes (ok_sound (ite_sound (updDom_sound h) (sealDom_sound (updDom_sound h)))) (ok_sound h)
  · exact ok_sound h

theorem stepDone_sound {d t} (h : s.Sound) : (stepDone d t s).Sound := by
  unfold stepDone
  split
  · exact stateReached_sound h
  · exact updDom_sound h

theorem execDuskStepDone_sound {d} (h : s.Sound) : Goes (execDuskStepDone d s) := by
  unfold execDuskStepDone
  split
  · exact ite_goes (ok_sound (stepDone_sound h)) (ok_sound h)
  · exact ok_sound h

theorem execDawnStepDone_sound {d} (h : s.Sound) : Goes (execDawnStepDone d s) := by
  unfold execDawnStepDone
  split
  · exact ite_goes (ok_sound (stepDone_sound h)) (ok_sound h)
  · exact ok_sound h

theorem dropHeld_sound {d} (h : s.Sound) : (dropHeld d s).Sound := by
  unfold dropHeld
  extract_lets a s1
  have hs1 : s1.Sound := updDom_sound h
  refine foldl_sound hs1 fun s2 h1 x1 hx1 => ?_
  split
  · exact h1.same
  · exact respond_sound (accepted_sound (returnCredit_sound h1))
  · exact (wakeTimedOut_sound h1).same

theorem execDawnStepTimeout_sound {d} (h : s.Sound) : Goes (execDawnStepTimeout d s) := by
  unfold execDawnStepTimeout
  extract_lets x s1
  have hs1 : s1.Sound := setF_sound h
  split
  · refine ite_goes (ok_sound (dropHeld_sound (updDom_sound (powerEvent_sound (devLogM_sound ?_))))) (ok_sound h)
    split
    · exact answerAsker_sound (answerAsker_sound hs1)
    · exact answerAsker_sound hs1
  · exact ok_sound h

theorem execFaultClear_sound {d} (h : s.Sound) : Goes (execFaultClear d s) := ok_sound (anchorWake_sound (setF_sound h))

theorem pwrReq_sound {n v} (h : s.Sound) : (pwrReq n v s).Sound := by
  unfold pwrReq
  extract_lets dom st k
  split
  · exact h.same
  · exact requestState_sound h.same

theorem recordOffWake_sound {src} (h : s.Sound) : (recordOffWake src s).Sound := setFs_sound h

theorem wakeMap_sound {src map} (h : s.Sound) : (wakeMap src map s).Sound :=
  foldl_sound h fun _ h1 _ _ => postWake_sound h1

theorem mappedWake_sound {src slot} (h : s.Sound) : (mappedWake src slot s).Sound :=
  ite_sound ((recordOffWake_sound h).same) (wakeMap_sound h)

theorem execWakeN_sound (h : s.Sound) : Goes (execWakeN s) := ite_goes (ok_sound (mappedWake_sound h)) (ok_sound h)

theorem execPcieWake_sound (h : s.Sound) : Goes (execPcieWake s) :=
  ite_goes (ok_sound (mappedWake_sound h)) (ok_sound h)

theorem execAonTimerMatch_sound (h : s.Sound) : Goes (execAonTimerMatch s) :=
  ite_goes (ok_sound (mappedWake_sound h)) (ok_sound h)

theorem execOffEntry_sound (h : s.Sound) : Goes (execOffEntry s) := by
  unfold execOffEntry
  split
  · refine ite_goes ?_ (ok_sound h)
    extract_lets s1 s2
    have hs1 : s1.Sound := completeJob_sound h
    have hs2 : s2.Sound := foldl_sound hs1 fun _ h1 _ _ => setF_sound (setDom_sound h1)
    exact ok_sound hs2.same
  · exact ok_sound h

theorem execGovernorUpdate_sound {pwr tj} (h : s.Sound) : Goes (execGovernorUpdate pwr tj s) := by
  unfold execGovernorUpdate
  extract_lets k p t s1 hot cool above k' s2 s3
  have hs1 : s1.Sound := setFs_sound h
  have hs2 : s2.Sound := setFs_sound hs1
  have hs3 : s3.Sound := by
    unfold s3
    refine ite_sound hs2 (powerNote_sound (postEvent_sound ?_ hs2))
    omega
  refine ite_goes (ite_goes (ok_sound (postEvent_sound ?_ (setF_sound hs3))) (ok_sound hs3)) (ok_sound hs1)
  omega

theorem execThermalTrip_sound (h : s.Sound) : Goes (execThermalTrip s) := ok_sound h.same

end Sys2Proof.Machine
end

section
/-! SUPPORT. The invariant of O60: requests and their answers. -/
set_option Elab.async false
namespace Sys2Proof.Machine
open Sys2Proof

variable {s t : State}

theorem dropPageLines_sound {page sharers} (h : s.Sound) : (dropPageLines page sharers s).Sound :=
  foldl_sound h fun _ h1 _ _ => updCore_sound h1

theorem chartFetch_sound {page} (h : s.Sound) : (chartFetch page s).2.2.Sound := by
  unfold chartFetch
  extract_lets v m
  split
  · exact h
  · exact (satF_sound h).triple
  · exact (devLogM_sound (satF_sound h)).triple
  · split
    · rename_i e
      have h1 := (draw_sound h).snd e
      split
      · exact h1
      · exact (satF_sound h1).triple
      · exact (devLogM_sound (satF_sound h1)).triple

theorem cacheEntry_sound {page v} (h : s.Sound) : (cacheEntry page v s).Sound := by
  unfold cacheEntry
  split
  · exact h.same
  · extract_lets mine s1
    have hs1 : s1.Sound := by
      unfold s1
      refine ite_sound ?_ h
      split
      · exact (dropPageLines_sound h).same
      · exact h
    exact hs1.same

theorem chartEntry_sound {page} (h : s.Sound) : (chartEntry page s).2.Sound := by
  unfold chartEntry
  split
  · exact h
  · split
    · rename_i e1
      have h1 := (chartFetch_sound (satF_sound h)).snd_snd e1
      exact ite_sound_snd h1 ((cacheEntry_sound h1).pair)

theorem chartRefuse_sound {node addr m st ty} (h : s.Sound) : (chartRefuse node addr m st ty s).Sound :=
  ite_sound (refusalLog_sound h) (tgtLog_sound h)

theorem invalidateLine_sound {hva m} (h : s.Sound) : (invalidateLine hva m s).Sound := by
  unfold invalidateLine
  split
  · exact foldl_sound h fun _ h1 _ _ => updCore_sound h1
  · exact h

theorem stackLost_sound {ra m} (h : s.Sound) : (stackLost ra m s).Sound := devLogM_sound h

theorem hbmNote_sound {ra m r} (h : s.Sound) : (hbmNote ra m r s).Sound :=
  ite_sound h (ite_sound (satF_sound h) (devLogM_sound (setF_sound (satF_sound h))))

theorem hbmRead_sound {ra m en} (h : s.Sound) : (hbmRead ra m en s).2.2.2.Sound := (hbmNote_sound h).quad

theorem hbmWrite_sound {ra m en data} (h : s.Sound) : (hbmWrite ra m en data s).2.Sound := by
  unfold hbmWrite
  extract_lets bs r s1
  have hs1 : s1.Sound := hbmNote_sound h
  exact ite_sound_snd hs1 ((foldl_sound hs1.same (fun _ h1 _ _ => ite_sound (setByte_sound h1) h1)).pair)

theorem edgeCheck_sound {src d} (h : s.Sound) : (edgeCheck src d s).2.Sound := by
  unfold edgeCheck
  refine ite_sound_snd h.same ?_
  refine ite_sound_snd h ?_
  extract_lets x full
  exact ite_sound_snd h (ite_sound_snd ((satF_sound h.same).pair) ((postWake_sound (updDom_sound h)).pair))

theorem hbmServe_sound {ra m wr en data} (h : s.Sound) : (hbmServe ra m wr en data s).2.Sound :=
  ite_sound_snd ((hbmWrite_sound h).pair) ((hbmRead_sound h).pair)

theorem forward_sound {node ra a m wr en data} (h : s.Sound) : (forward node ra a m wr en data s).2.Sound := by
  unfold forward
  extract_lets dest serve s1
  have hserve : ∀ (s : State), s.Sound → (serve s).2.Sound := fun s2 h1 => ite_sound_snd h1 (hbmServe_sound h1)
  have hs1 : s1.Sound := h.same
  refine ite_sound_snd (hserve _ h) ?_
  split
  · exact (ite_sound (wakeTimedOut_sound hs1) (timedOut_sound hs1)).pair
  · split
    · split
      · rename_i e2
        have h1 := (requestFails_sound h).snd e2
        exact h1
      · rename_i e2
        have h1 := (requestFails_sound h).snd e2
        exact ite_sound_snd h1 ((timedOut_sound h1).pair)
    · split
      · rename_i e2
        have h1 := (edgeCheck_sound h).snd e2
        exact (wakeTimedOut_sound h1).pair
      · rename_i e2
        have h1 := (edgeCheck_sound h).snd e2
        exact h1
      · rename_i e2
        have h1 := (edgeCheck_sound h).snd e2
        split
        · rename_i e3 _
          have h2 := (hserve _ h1).snd e3
          extract_lets s2
          have hs2 : s2.Sound := routeDiscard_sound h2
          exact ite_sound_snd hs2 ((timedOut_sound hs2).pair)
        · exact hserve _ h1

theorem serveMem_sound {r node m wr a en data} (h : s.Sound) : (serveMem r node m wr a en data s).2.Sound := by
  unfold serveMem
  refine ite_sound_snd ((refusalLog_sound h).pair) ?_
  split
  · refine ite_sound_snd h ?_
    refine ite_sound_snd ?_ ?_
    · split
      · rename_i e
        have h1 := (secWrite_sound (fun _ _ _ h1 => stgNote_sound h1) h).snd e
        exact h1
    · split
      · rename_i e
        have h1 := (secRead_sound (fun _ _ _ h1 => stgNote_sound h1) h).third e
        exact h1
  · refine ite_sound_snd ?_ ?_
    · split
      · rename_i e
        have h1 := (secWrite_sound (fun _ _ _ h1 => spadNote_sound h1) h).snd e
        exact h1
    · split
      · rename_i e
        have h1 := (secRead_sound (fun _ _ _ h1 => spadNote_sound h1) h).third e
        exact h1
  · exact h
  · exact ite_sound_snd ((stackLost_sound h).pair) (ite_sound_snd h (hbmServe_sound h))
  · extract_lets hva
    refine ite_sound_snd h ?_
    split
    · rename_i v1 _ e
      have h1 := (chartEntry_sound h).snd e
      split
      · exact h1
      · split
        · exact (chartRefuse_sound h1).pair
        · refine ite_sound_snd ((stackLost_sound h1).pair) ?_
          split
          · rename_i e2
            have h2 := (forward_sound h1).snd e2
            exact (ite_sound (invalidateLine_sound h2) h2).pair
          · exact forward_sound h1

theorem answerLost_sound {net src dest a m} (h : s.Sound) : (answerLost net src dest a m s).2.Sound :=
  ite_sound_snd h.same ((timedOut_sound h).pair)

theorem discardData_sound {b x src dest} (h : s.Sound) : (discardData b x src dest s).Sound :=
  ite_sound (routeDiscard_sound h) h

theorem nocAccess_sound {src m wr a en data} (h : s.Sound) : (nocAccess src m wr a en data s).2.Sound := by
  unfold nocAccess
  extract_lets line s1 node
  have hs1 : s1.Sound := h.same
  split
  · exact h
  · exact (ite_sound (wakeTimedOut_sound hs1) (timedOut_sound hs1)).pair
  · split
    · exact (tgtLog_sound h).pair
    · refine ite_sound_snd h ?_
      split
      · split
        · rename_i e3
          have h1 := (requestFails_sound h).snd e3
          exact (discardData_sound h1).pair
        · rename_i e3
          have h1 := (requestFails_sound h).snd e3
          exact answerLost_sound (discardData_sound h1)
      · split
        · rename_i e3 _ e4
          have h1 := (edgeCheck_sound h).snd e4
          split
          · exact (wakeTimedOut_sound h1).pair
          · exact h1
          · split
            · rename_i e5
              have h2 := (serveMem_sound h1).snd e5
              split
              · exact h2
              · exact answerLost_sound (discardData_sound (routeDiscard_sound h2))
              · exact h2

end Sys2Proof.Machine
end

section
/-! SUPPORT. The invariant of O60: the run of a core. -/
set_option Elab.async false
namespace Sys2Proof.Machine
open Sys2Proof

variable {s t : State}

theorem setReg_sound {n r v} (h : s.Sound) : (setReg n r v s).Sound := updCore_sound h

theorem wrote_sound {n r v} (h : s.Sound) : (wrote n r v s).Sound := setReg_sound h

theorem addSharer_sound {page n} (h : s.Sound) : (addSharer page n s).Sound := by
  unfold addSharer
  split
  · exact ite_sound h h.same
  · exact h

theorem cacheFill_sound {n line data} (h : s.Sound) : (cacheFill n line data s).Sound := updCore_sound h

theorem coreResp_sound {a x} (hx : x.2.Sound) : (coreResp a x).Sound := by
  unfold coreResp
  split
  · exact hx
  · exact hx
  · exact hx

theorem coreLoad_sound {n a w e} (h : s.Sound) : (coreLoad n a w e s).Sound := by
  unfold coreLoad
  refine ite_datares h ?_
  extract_lets p line
  split
  · split
    · rename_i e2
      have h1 := (secWord_sound h).snd_snd e2
      exact ite_datares (devLogM_sound (satF_sound h1)) (ite_sound (satF_sound h1) h1)
  · exact coreResp_sound (nocAccess_sound h)
  · split
    · exact h
    · split
      · rename_i e2
        have h1 := (coreResp_sound (nocAccess_sound h)).of_eq e2
        exact addSharer_sound (cacheFill_sound h1)
      · exact coreResp_sound (nocAccess_sound h)

theorem coreStore_sound {n a data} (h : s.Sound) : (coreStore n a data s).Sound := by
  unfold coreStore
  extract_lets w p line
  refine ite_datares h ?_
  split
  · exact secWrite_sound (fun _ _ _ h1 => spadNote_sound h1) h
  · exact coreResp_sound (nocAccess_sound h)
  · split
    · rename_i e
      have h1 := (coreResp_sound (nocAccess_sound h)).of_eq e
      exact updCore_sound h1
    · exact coreResp_sound (nocAccess_sound h)

theorem loadOp_sound {n rd ea w sgn e} (h : s.Sound) : (loadOp n rd ea w sgn e s).Sound := by
  unfold loadOp
  split
  · rename_i e1
    have h1 := (coreLoad_sound h).of_eq e1
    exact wrote_sound h1
  · rename_i e1
    have h1 := (coreLoad_sound h).of_eq e1
    exact h1

theorem storeOp_sound {n ea v w} (h : s.Sound) : (storeOp n ea v w s).Sound := by
  unfold storeOp
  split
  · rename_i e
    have h1 := (coreStore_sound h).of_eq e
    exact h1
  · rename_i e
    have h1 := (coreStore_sound h).of_eq e
    exact h1

theorem shortOp_sound {n o e} (h : s.Sound) : (shortOp n o e s).Sound := by
  unfold shortOp
  extract_lets rd rs
  split
  · exact h
  · exact loadOp_sound h
  · exact storeOp_sound h
  · split
    · rename_i e2
      have h1 := (loadOp_sound h).of_eq e2
      exact setReg_sound h1
    · exact loadOp_sound h
  · split
    · rename_i e2
      have h1 := (storeOp_sound h).of_eq e2
      exact setReg_sound h1
    · exact storeOp_sound h
  · exact wrote_sound h

theorem raiseTrap_sound {n cause slot status why bad mcsrc} (h : s.Sound) :
    (raiseTrap n cause slot status why bad mcsrc s).Sound :=
  updCore_sound h

theorem finishWord_sound {n} (h : s.Sound) : (finishWord n s).Sound := ite_sound (haltCore_sound h) h

theorem settle_sound {n slot r} (hr : r.Sound) : (settle n slot r).Sound := by
  unfold settle
  split
  · exact finishWord_sound (updCore_sound hr)
  · exact finishWord_sound (raiseTrap_sound hr)
  · exact finishWord_sound (updCore_sound hr)
  · exact updCore_sound hr
  · exact haltCore_sound hr

theorem skipTo_sound {n a} (h : s.Sound) : (skipTo n a s).Sound := finishWord_sound (updCore_sound h)

theorem prefixSecond_sound {n b} (h : s.Sound) : (prefixSecond n b s).Sound := by
  unfold prefixSecond
  extract_lets k s1 t
  have hs1 : s1.Sound := updCore_sound h
  exact ite_sound (skipTo_sound hs1) (finishWord_sound (updCore_sound hs1))

theorem runPair_sound {n a b e} (h : s.Sound) : (runPair n a b e s).Sound := by
  unfold runPair
  extract_lets c target k s1
  have hs1 : s1.Sound := updCore_sound h
  refine ite_sound (raiseTrap_sound h) ?_
  refine ite_sound ?_ ?_
  · exact ite_sound (prefixSecond_sound h) (settle_sound (shortOp_sound h))
  · refine ite_sound (ite_sound (raiseTrap_sound h) (ite_sound (skipTo_sound h) (settle_sound (shortOp_sound hs1)))) ?_
    split
    · rename_i e1
      have h1 := (shortOp_sound h).of_eq e1
      exact ite_sound (prefixSecond_sound h1) (settle_sound (shortOp_sound h1))
    · exact settle_sound (shortOp_sound h)

theorem runWord_sound {n mn sem e} (hsem : ∀ a0 a1 (s : State), s.Sound → (sem a0 a1 s).Sound) (h : s.Sound) :
    (runWord n mn sem e s).Sound := by
  unfold runWord
  refine ite_sound ?_ h
  extract_lets c s1 ce
  have hs1 : s1.Sound := satF_sound h
  have hce : ∀ (s : State), s.Sound → (ce s).Sound := fun _ h1 => ite_sound (satF_sound h1) h1
  split
  · exact raiseTrap_sound (devLogM_sound hs1)
  · split
    · exact raiseTrap_sound (hce _ h)
    · exact ite_sound (settle_sound (hsem _ _ _ (hce _ h))) h
    · exact ite_sound (runPair_sound (hce _ h)) h

theorem runShort_sound {n mn e} (h : s.Sound) : (runShort n mn e s).Sound := runWord_sound (fun _ _ _ h1 => h1) h

end Sys2Proof.Machine
end

section
/-! SUPPORT. The invariant of O60: the instructions of a core. -/
set_option Elab.async false
namespace Sys2Proof.Machine
open Sys2Proof

variable {s t : State}

theorem aluOp_sound {n g o} (h : s.Sound) : (aluOp n g o s).Sound := wrote_sound h

theorem immOp_sound {n g o} (h : s.Sound) : (immOp n g o s).Sound := wrote_sound h

theorem execAdd_sound {n e} (h : s.Sound) : Goes (execAdd n e s) :=
  ok_sound (runWord_sound (fun _ _ _ h1 => aluOp_sound h1) h)

theorem execSub_sound {n e} (h : s.Sound) : Goes (execSub n e s) :=
  ok_sound (runWord_sound (fun _ _ _ h1 => aluOp_sound h1) h)

theorem execAndOp_sound {n e} (h : s.Sound) : Goes (execAndOp n e s) :=
  ok_sound (runWord_sound (fun _ _ _ h1 => aluOp_sound h1) h)

theorem execOrOp_sound {n e} (h : s.Sound) : Goes (execOrOp n e s) :=
  ok_sound (runWord_sound (fun _ _ _ h1 => aluOp_sound h1) h)

theorem execXorOp_sound {n e} (h : s.Sound) : Goes (execXorOp n e s) :=
  ok_sound (runWord_sound (fun _ _ _ h1 => aluOp_sound h1) h)

theorem execAndn_sound {n e} (h : s.Sound) : Goes (execAndn n e s) :=
  ok_sound (runWord_sound (fun _ _ _ h1 => aluOp_sound h1) h)

theorem execSll_sound {n e} (h : s.Sound) : Goes (execSll n e s) :=
  ok_sound (runWord_sound (fun _ _ _ h1 => aluOp_sound h1) h)

theorem execSrl_sound {n e} (h : s.Sound) : Goes (execSrl n e s) :=
  ok_sound (runWord_sound (fun _ _ _ h1 => aluOp_sound h1) h)

theorem execSra_sound {n e} (h : s.Sound) : Goes (execSra n e s) :=
  ok_sound (runWord_sound (fun _ _ _ h1 => aluOp_sound h1) h)

theorem execRor_sound {n e} (h : s.Sound) : Goes (execRor n e s) :=
  ok_sound (runWord_sound (fun _ _ _ h1 => aluOp_sound h1) h)

theorem execMul_sound {n e} (h : s.Sound) : Goes (execMul n e s) :=
  ok_sound (runWord_sound (fun _ _ _ h1 => aluOp_sound h1) h)

theorem execMulh_sound {n e} (h : s.Sound) : Goes (execMulh n e s) :=
  ok_sound (runWord_sound (fun _ _ _ h1 => aluOp_sound h1) h)

theorem execMulhu_sound {n e} (h : s.Sound) : Goes (execMulhu n e s) :=
  ok_sound (runWord_sound (fun _ _ _ h1 => aluOp_sound h1) h)

theorem execDiv_sound {n e} (h : s.Sound) : Goes (execDiv n e s) :=
  ok_sound (runWord_sound (fun _ _ _ h1 => aluOp_sound h1) h)

theorem execDivu_sound {n e} (h : s.Sound) : Goes (execDivu n e s) :=
  ok_sound (runWord_sound (fun _ _ _ h1 => aluOp_sound h1) h)

theorem execRem_sound {n e} (h : s.Sound) : Goes (execRem n e s) :=
  ok_sound (runWord_sound (fun _ _ _ h1 => aluOp_sound h1) h)

theorem execRemu_sound {n e} (h : s.Sound) : Goes (execRemu n e s) :=
  ok_sound (runWord_sound (fun _ _ _ h1 => aluOp_sound h1) h)

theorem execSeteq_sound {n e} (h : s.Sound) : Goes (execSeteq n e s) :=
  ok_sound (runWord_sound (fun _ _ _ h1 => aluOp_sound h1) h)

theorem execSetne_sound {n e} (h : s.Sound) : Goes (execSetne n e s) :=
  ok_sound (runWord_sound (fun _ _ _ h1 => aluOp_sound h1) h)

theorem execSetlt_sound {n e} (h : s.Sound) : Goes (execSetlt n e s) :=
  ok_sound (runWord_sound (fun _ _ _ h1 => aluOp_sound h1) h)

theorem execSetltu_sound {n e} (h : s.Sound) : Goes (execSetltu n e s) :=
  ok_sound (runWord_sound (fun _ _ _ h1 => aluOp_sound h1) h)

theorem execMin_sound {n e} (h : s.Sound) : Goes (execMin n e s) :=
  ok_sound (runWord_sound (fun _ _ _ h1 => aluOp_sound h1) h)

theorem execMax_sound {n e} (h : s.Sound) : Goes (execMax n e s) :=
  ok_sound (runWord_sound (fun _ _ _ h1 => aluOp_sound h1) h)

theorem execMinu_sound {n e} (h : s.Sound) : Goes (execMinu n e s) :=
  ok_sound (runWord_sound (fun _ _ _ h1 => aluOp_sound h1) h)

theorem execMaxu_sound {n e} (h : s.Sound) : Goes (execMaxu n e s) :=
  ok_sound (runWord_sound (fun _ _ _ h1 => aluOp_sound h1) h)

theorem execPerm_sound {n e} (h : s.Sound) : Goes (execPerm n e s) :=
  ok_sound (runWord_sound (fun _ _ _ h1 => aluOp_sound h1) h)

theorem execClz_sound {n e} (h : s.Sound) : Goes (execClz n e s) :=
  ok_sound (runWord_sound (fun _ _ _ h1 => aluOp_sound h1) h)

theorem execCtz_sound {n e} (h : s.Sound) : Goes (execCtz n e s) :=
  ok_sound (runWord_sound (fun _ _ _ h1 => aluOp_sound h1) h)

theorem execPopc_sound {n e} (h : s.Sound) : Goes (execPopc n e s) :=
  ok_sound (runWord_sound (fun _ _ _ h1 => aluOp_sound h1) h)

theorem execAddi_sound {n e} (h : s.Sound) : Goes (execAddi n e s) :=
  ok_sound (runWord_sound (fun _ _ _ h1 => immOp_sound h1) h)

theorem execAndi_sound {n e} (h : s.Sound) : Goes (execAndi n e s) :=
  ok_sound (runWord_sound (fun _ _ _ h1 => immOp_sound h1) h)

theorem execOri_sound {n e} (h : s.Sound) : Goes (execOri n e s) :=
  ok_sound (runWord_sound (fun _ _ _ h1 => immOp_sound h1) h)

theorem execXori_sound {n e} (h : s.Sound) : Goes (execXori n e s) :=
  ok_sound (runWord_sound (fun _ _ _ h1 => immOp_sound h1) h)

theorem execSetlti_sound {n e} (h : s.Sound) : Goes (execSetlti n e s) :=
  ok_sound (runWord_sound (fun _ _ _ h1 => immOp_sound h1) h)

theorem execSetltui_sound {n e} (h : s.Sound) : Goes (execSetltui n e s) :=
  ok_sound (runWord_sound (fun _ _ _ h1 => immOp_sound h1) h)

theorem execLsi_sound {n e} (h : s.Sound) : Goes (execLsi n e s) :=
  ok_sound (runWord_sound (fun _ _ _ h1 => immOp_sound h1) h)

theorem execSlli_sound {n e} (h : s.Sound) : Goes (execSlli n e s) :=
  ok_sound (runWord_sound (fun _ _ _ h1 => immOp_sound h1) h)

theorem execSrli_sound {n e} (h : s.Sound) : Goes (execSrli n e s) :=
  ok_sound (runWord_sound (fun _ _ _ h1 => immOp_sound h1) h)

theorem execSrai_sound {n e} (h : s.Sound) : Goes (execSrai n e s) :=
  ok_sound (runWord_sound (fun _ _ _ h1 => immOp_sound h1) h)

theorem execBfx_sound {n e} (h : s.Sound) : Goes (execBfx n e s) :=
  ok_sound (runWord_sound (fun _ _ _ h1 => immOp_sound h1) h)

theorem execBfi_sound {n e} (h : s.Sound) : Goes (execBfi n e s) :=
  ok_sound (runWord_sound (fun _ _ _ h1 => aluOp_sound h1) h)

theorem execLd8_sound {n e} (h : s.Sound) : Goes (execLd8 n e s) :=
  ok_sound (runWord_sound (fun _ _ _ h1 => loadOp_sound h1) h)

theorem execLd16_sound {n e} (h : s.Sound) : Goes (execLd16 n e s) :=
  ok_sound (runWord_sound (fun _ _ _ h1 => loadOp_sound h1) h)

theorem execLd32_sound {n e} (h : s.Sound) : Goes (execLd32 n e s) :=
  ok_sound (runWord_sound (fun _ _ _ h1 => loadOp_sound h1) h)

theorem execLd64_sound {n e} (h : s.Sound) : Goes (execLd64 n e s) :=
  ok_sound (runWord_sound (fun _ _ _ h1 => loadOp_sound h1) h)

theorem execLd8s_sound {n e} (h : s.Sound) : Goes (execLd8s n e s) :=
  ok_sound (runWord_sound (fun _ _ _ h1 => loadOp_sound h1) h)

theorem execLd16s_sound {n e} (h : s.Sound) : Goes (execLd16s n e s) :=
  ok_sound (runWord_sound (fun _ _ _ h1 => loadOp_sound h1) h)

theorem execLd32s_sound {n e} (h : s.Sound) : Goes (execLd32s n e s) :=
  ok_sound (runWord_sound (fun _ _ _ h1 => loadOp_sound h1) h)

theorem execSt8_sound {n e} (h : s.Sound) : Goes (execSt8 n e s) :=
  ok_sound (runWord_sound (fun _ _ _ h1 => storeOp_sound h1) h)

theorem execSt16_sound {n e} (h : s.Sound) : Goes (execSt16 n e s) :=
  ok_sound (runWord_sound (fun _ _ _ h1 => storeOp_sound h1) h)

theorem execSt32_sound {n e} (h : s.Sound) : Goes (execSt32 n e s) :=
  ok_sound (runWord_sound (fun _ _ _ h1 => storeOp_sound h1) h)

theorem execSt64_sound {n e} (h : s.Sound) : Goes (execSt64 n e s) :=
  ok_sound (runWord_sound (fun _ _ _ h1 => storeOp_sound h1) h)

theorem ildOp_sound {n o} (h : s.Sound) : (ildOp n o s).Sound := ite_opres h (wrote_sound h)

theorem execIld_sound {n e} (h : s.Sound) : Goes (execIld n e s) :=
  ok_sound (runWord_sound (fun _ _ _ h1 => ildOp_sound h1) h)

theorem goTo_sound {t} (h : s.Sound) : (goTo s t).Sound := h

theorem branchOp_sound {n p o} (h : s.Sound) : (branchOp n p o s).Sound := ite_opres (goTo_sound h) h

theorem execBeq_sound {n e} (h : s.Sound) : Goes (execBeq n e s) :=
  ok_sound (runWord_sound (fun _ _ _ h1 => branchOp_sound h1) h)

theorem execBne_sound {n e} (h : s.Sound) : Goes (execBne n e s) :=
  ok_sound (runWord_sound (fun _ _ _ h1 => branchOp_sound h1) h)

theorem execBlt_sound {n e} (h : s.Sound) : Goes (execBlt n e s) :=
  ok_sound (runWord_sound (fun _ _ _ h1 => branchOp_sound h1) h)

theorem execBge_sound {n e} (h : s.Sound) : Goes (execBge n e s) :=
  ok_sound (runWord_sound (fun _ _ _ h1 => branchOp_sound h1) h)

theorem execBltu_sound {n e} (h : s.Sound) : Goes (execBltu n e s) :=
  ok_sound (runWord_sound (fun _ _ _ h1 => branchOp_sound h1) h)

theorem execBgeu_sound {n e} (h : s.Sound) : Goes (execBgeu n e s) :=
  ok_sound (runWord_sound (fun _ _ _ h1 => branchOp_sound h1) h)

theorem execBeqz_sound {n e} (h : s.Sound) : Goes (execBeqz n e s) :=
  ok_sound (runWord_sound (fun _ _ _ h1 => branchOp_sound h1) h)

theorem execBnez_sound {n e} (h : s.Sound) : Goes (execBnez n e s) :=
  ok_sound (runWord_sound (fun _ _ _ h1 => branchOp_sound h1) h)

theorem execBltz_sound {n e} (h : s.Sound) : Goes (execBltz n e s) :=
  ok_sound (runWord_sound (fun _ _ _ h1 => branchOp_sound h1) h)

theorem execBgez_sound {n e} (h : s.Sound) : Goes (execBgez n e s) :=
  ok_sound (runWord_sound (fun _ _ _ h1 => branchOp_sound h1) h)

theorem execBgtz_sound {n e} (h : s.Sound) : Goes (execBgtz n e s) :=
  ok_sound (runWord_sound (fun _ _ _ h1 => branchOp_sound h1) h)

theorem execBlez_sound {n e} (h : s.Sound) : Goes (execBlez n e s) :=
  ok_sound (runWord_sound (fun _ _ _ h1 => branchOp_sound h1) h)

theorem execJmp_sound {n e} (h : s.Sound) : Goes (execJmp n e s) :=
  ok_sound (runWord_sound (fun _ _ _ h1 => goTo_sound h1) h)

theorem execJr_sound {n e} (h : s.Sound) : Goes (execJr n e s) :=
  ok_sound (runWord_sound (fun _ _ _ h1 => goTo_sound h1) h)

theorem loopOp_sound {n o} (h : s.Sound) : (loopOp n o s).Sound :=
  ite_opres (goTo_sound (updCore_sound h)) (updCore_sound h)

theorem execLoop_sound {n e} (h : s.Sound) : Goes (execLoop n e s) :=
  ok_sound (runWord_sound (fun _ _ _ h1 => loopOp_sound h1) h)

theorem undoCore_sound {n u} (h : s.Sound) : (undoCore n u s).Sound := updCore_sound h

theorem spillFault_sound {n u status why bad} (h : s.Sound) : (spillFault u s n status why bad).Sound :=
  undoCore_sound h

theorem frameStores_sound {n u l} (h : s.Sound) : (frameStores n u l s).Sound := by
  induction l generalizing s with
  | nil => exact h
  | cons x t ih =>
    unfold frameStores
    have h1 := coreStore_sound (n := n) (a := x.1) (data := leBytes 8 x.2.toNat) h
    split
    · rename_i e
      exact ih (h1.of_eq e : DataRes.Sound _)
    · rename_i e
      exact (spillFault_sound (h1.of_eq e : DataRes.Sound _)).no
    · rename_i e
      exact (h1.of_eq e : DataRes.Sound _)

theorem spillOldest_sound {n} (h : s.Sound) : (spillOldest n s).Sound := by
  unfold spillOldest
  extract_lets c old mask k base w
  refine ite_datares (spillFault_sound h).no ?_
  split
  · exact (spillFault_sound h).no
  · rename_i words _ _
    have h1 := frameStores_sound (n := n) (u := s)
      (l := (List.range words.length).map fun i => (base.toNat + 8 * i, words.getD i 0)) h
    split
    · rename_i e
      exact setReg_sound (h1.of_eq e : DataRes.Sound _)
    · rename_i e
      exact undoCore_sound (h1.of_eq e : DataRes.Sound _)
    · exact h1

theorem callOp_sound {n target o} (h : s.Sound) : (callOp n target o s).Sound := by
  unfold callOp
  extract_lets c slide
  have hslide : ∀ (s : State), s.Sound → (slide s).Sound := fun s1 h1 => updCore_sound h1
  refine ite_opres (spillFault_sound h) (ite_opres ?_ (goTo_sound (hslide _ h)))
  split
  · rename_i e
    have h1 := (spillOldest_sound h).of_eq e
    exact goTo_sound (hslide _ h1)
  · rename_i e
    have h1 := (spillOldest_sound h).of_eq e
    exact h1

theorem execCall_sound {n e} (h : s.Sound) : Goes (execCall n e s) :=
  ok_sound (runWord_sound (fun _ _ _ h1 => callOp_sound h1) h)

theorem execCallr_sound {n e} (h : s.Sound) : Goes (execCallr n e s) :=
  ok_sound (runWord_sound (fun _ _ _ h1 => callOp_sound h1) h)

/-- The loads of a frame end well or fail in a state that meets the invariant. -/
def FrameSound {α : Type} : (α × State) ⊕ OpRes → Prop
  | .inl (_, s) => s.Sound
  | .inr r => r.Sound

theorem FrameSound.of_opRes {α : Type} {r : OpRes} (h : r.Sound) : FrameSound (.inr r : (α × State) ⊕ OpRes) := h

theorem FrameSound.inl {α : Type} {a : α} {x : (α × State) ⊕ OpRes} (h : FrameSound x) (e : x = .inl (a, t)) :
    t.Sound := by
  subst e
  exact h

theorem FrameSound.inr {α : Type} {r : OpRes} {x : (α × State) ⊕ OpRes} (h : FrameSound x) (e : x = .inr r) :
    r.Sound := by
  subst e
  exact h

theorem frameLoads_sound {n u e l w} (h : s.Sound) : FrameSound (frameLoads n u e l w s) := by
  induction l generalizing s e w with
  | nil => exact h
  | cons a t ih =>
    unfold frameLoads
    have h1 := coreLoad_sound (n := n) (a := a) (w := 8) (e := e) h
    split
    · rename_i e
      exact ih (h1.of_eq e : DataRes.Sound _)
    · rename_i e
      exact undoCore_sound (h1.of_eq e : DataRes.Sound _)
    · rename_i e
      exact FrameSound.of_opRes (spillFault_sound (h1.of_eq e : DataRes.Sound _))
    · rename_i e
      exact (h1.of_eq e : DataRes.Sound _)

/-- A fill ends well or fails in a state that meets the invariant. -/
def FillSound : State ⊕ OpRes → Prop
  | .inl s => s.Sound
  | .inr r => r.Sound

theorem FillSound.of_opRes {r : OpRes} (h : r.Sound) : FillSound (.inr r) := h

theorem fillWindow_sound {n e} (h : s.Sound) : FillSound (fillWindow n e s) := by
  unfold fillWindow
  extract_lets c w7 caller
  split
  · exact FillSound.of_opRes (spillFault_sound h)
  split
  · exact FillSound.of_opRes (spillFault_sound h)
  split
  · rename_i e1
    exact (frameLoads_sound h).inr e1
  · rename_i e1
    have h1 := (frameLoads_sound h).inl e1
    extract_lets mask k
    split
    · exact FillSound.of_opRes (spillFault_sound h1)
    split
    · rename_i e2
      exact (frameLoads_sound h1).inr e2
    · rename_i e2
      have h2 := (frameLoads_sound h1).inl e2
      refine updCore_sound (foldl_sound h2 fun s h3 i _ => ?_)
      split
      · exact updCore_sound (updCore_sound h3)
      · exact updCore_sound (updCore_sound (draw_sound (draw_sound h3)))

theorem returnW_sound {n e} (h : s.Sound) : (returnW n e s).Sound := by
  unfold returnW
  extract_lets c slide
  have hslide : ∀ s : State, s.Sound → (slide s).Sound := fun _ h => goTo_sound (updCore_sound h)
  refine ite_opres (spillFault_sound h) (ite_opres (hslide _ h) ?_)
  have hfill := fillWindow_sound (n := n) (e := e) h
  split
  · rename_i e1
    rw [e1] at hfill
    exact hslide _ hfill
  · rename_i e1
    rw [e1] at hfill
    exact hfill

theorem execReturnOp_sound {n e} (h : s.Sound) : Goes (execReturnOp n e s) :=
  ok_sound (runWord_sound (fun _ _ _ h1 => returnW_sound h1) h)

theorem beginWait_sound {n} (h : s.Sound) : (beginWait s n).Sound := ite_opres h h

theorem afterAcalls_sound {n g} (hg : ∀ (s : State), s.Sound → (g s).Sound) (h : s.Sound) : (afterAcalls n g s).Sound :=
  ite_opres (beginWait_sound h) (hg _ h)

theorem acallOp_sound {n o} (h : s.Sound) : (acallOp n o s).Sound := ite_opres (beginWait_sound h) (updSeq_sound h)

theorem execAcall_sound {n e} (h : s.Sound) : Goes (execAcall n e s) :=
  ok_sound (runWord_sound (fun _ _ _ h1 => acallOp_sound h1) h)

theorem execAwait_sound {n e} (h : s.Sound) : Goes (execAwait n e s) :=
  ok_sound (runWord_sound (fun _ _ _ h1 => afterAcalls_sound (fun _ h2 => h2) h1) h)

theorem execAsnd_sound {n e} (h : s.Sound) : Goes (execAsnd n e s) :=
  ok_sound (runWord_sound (fun _ _ _ h1 => afterAcalls_sound (fun _ h2 => wrote_sound h2) h1) h)

theorem execHaltOp_sound {n e} (h : s.Sound) : Goes (execHaltOp n e s) :=
  ok_sound (runWord_sound (fun _ _ _ h1 => afterAcalls_sound (fun _ h2 => h2) h1) h)

theorem execBrk_sound {n e} (h : s.Sound) : Goes (execBrk n e s) := ok_sound (runWord_sound (fun _ _ _ h1 => h1) h)

theorem mfsrOp_sound {n o} (h : s.Sound) : (mfsrOp n o s).Sound := by
  unfold mfsrOp
  split
  · exact wrote_sound h
  · exact h

theorem mtsrOp_sound {n o} (h : s.Sound) : (mtsrOp n o s).Sound := by
  unfold mtsrOp
  split
  · exact updCore_sound h
  · exact h

theorem execMfsr_sound {n e} (h : s.Sound) : Goes (execMfsr n e s) :=
  ok_sound (runWord_sound (fun _ _ _ h1 => mfsrOp_sound h1) h)

theorem execMtsr_sound {n e} (h : s.Sound) : Goes (execMtsr n e s) :=
  ok_sound (runWord_sound (fun _ _ _ h1 => mtsrOp_sound h1) h)

theorem execTrapEntry_sound {n} (h : s.Sound) : Goes (execTrapEntry n s) := by
  unfold execTrapEntry
  extract_lets c first
  refine ite_goes (ok_sound h) ?_
  split
  · exact ite_goes (ok_sound (haltCore_sound (devLogM_sound (setF_sound h)))) (ok_sound (updCore_sound h))
  · split
    · exact ite_goes (ok_sound h) (ok_sound (releaseTrap_sound (updCore_sound h)))
    · exact ok_sound h

theorem execInterruptEntry_sound {n} (h : s.Sound) : Goes (execInterruptEntry n s) := by
  unfold execInterruptEntry
  extract_lets c
  refine ite_goes (ok_sound h) ?_
  split
  · exact ok_sound (updCore_sound h)
  · exact ok_sound h

theorem eretOp_sound {n} (h : s.Sound) : (eretOp n s).Sound := by
  unfold eretOp
  extract_lets c epc x t pc tstat s1 s2 rem
  have hs1 : s1.Sound := updCore_sound h
  have hs2 : s2.Sound := updCore_sound hs1
  exact ite_opres (ite_opres (goTo_sound hs2) hs2) hs1

theorem execEret_sound {n e} (h : s.Sound) : Goes (execEret n e s) :=
  ok_sound (runWord_sound (fun _ _ _ h1 => eretOp_sound h1) h)

theorem execShortNop_sound {n e} (h : s.Sound) : Goes (execShortNop n e s) := ok_sound (runShort_sound h)

theorem execMov_sound {n e} (h : s.Sound) : Goes (execMov n e s) := ok_sound (runShort_sound h)

theorem execShortAdd_sound {n e} (h : s.Sound) : Goes (execShortAdd n e s) := ok_sound (runShort_sound h)

theorem execShortSub_sound {n e} (h : s.Sound) : Goes (execShortSub n e s) := ok_sound (runShort_sound h)

theorem execShortAnd_sound {n e} (h : s.Sound) : Goes (execShortAnd n e s) := ok_sound (runShort_sound h)

theorem execShortOr_sound {n e} (h : s.Sound) : Goes (execShortOr n e s) := ok_sound (runShort_sound h)

theorem execShortXor_sound {n e} (h : s.Sound) : Goes (execShortXor n e s) := ok_sound (runShort_sound h)

theorem execNotOp_sound {n e} (h : s.Sound) : Goes (execNotOp n e s) := ok_sound (runShort_sound h)

theorem execNeg_sound {n e} (h : s.Sound) : Goes (execNeg n e s) := ok_sound (runShort_sound h)

theorem execAdds_sound {n e} (h : s.Sound) : Goes (execAdds n e s) := ok_sound (runShort_sound h)

theorem execMovi_sound {n e} (h : s.Sound) : Goes (execMovi n e s) := ok_sound (runShort_sound h)

theorem execSlls_sound {n e} (h : s.Sound) : Goes (execSlls n e s) := ok_sound (runShort_sound h)

theorem execSrls_sound {n e} (h : s.Sound) : Goes (execSrls n e s) := ok_sound (runShort_sound h)

theorem execSras_sound {n e} (h : s.Sound) : Goes (execSras n e s) := ok_sound (runShort_sound h)

theorem execShortClz_sound {n e} (h : s.Sound) : Goes (execShortClz n e s) := ok_sound (runShort_sound h)

theorem execShortCtz_sound {n e} (h : s.Sound) : Goes (execShortCtz n e s) := ok_sound (runShort_sound h)

theorem execShortPopc_sound {n e} (h : s.Sound) : Goes (execShortPopc n e s) := ok_sound (runShort_sound h)

theorem execLdq_sound {n e} (h : s.Sound) : Goes (execLdq n e s) := ok_sound (runShort_sound h)

theorem execStq_sound {n e} (h : s.Sound) : Goes (execStq n e s) := ok_sound (runShort_sound h)

theorem execLdqp_sound {n e} (h : s.Sound) : Goes (execLdqp n e s) := ok_sound (runShort_sound h)

theorem execStqp_sound {n e} (h : s.Sound) : Goes (execStqp n e s) := ok_sound (runShort_sound h)

theorem execZxw_sound {n e} (h : s.Sound) : Goes (execZxw n e s) := ok_sound (runShort_sound h)

theorem execSxw_sound {n e} (h : s.Sound) : Goes (execSxw n e s) := ok_sound (runShort_sound h)

theorem execBswap_sound {n e} (h : s.Sound) : Goes (execBswap n e s) := ok_sound (runShort_sound h)

theorem execRep_sound {n e} (h : s.Sound) : Goes (execRep n e s) := ok_sound (runShort_sound h)

theorem execRepi_sound {n e} (h : s.Sound) : Goes (execRepi n e s) := ok_sound (runShort_sound h)

end Sys2Proof.Machine
end

section
/-! SUPPORT. The invariant of O60: the register accesses. -/
set_option Elab.async false
namespace Sys2Proof.Machine
open Sys2Proof

variable {s t : State}

theorem storeF_sound {f v en} (h : s.Sound) : (storeF f v en s).Sound := setF_sound h

theorem writeFld_sound {f v en} (h : s.Sound) : (writeFld f v en s).Sound := by
  unfold writeFld
  split
  · exact ite_sound h (storeF_sound h)
  · exact ite_sound h (setF_sound h)
  · exact ite_sound h (setF_sound h)
  · exact h
  · exact h
  · exact h

theorem writeRow'_sound {r i j v en} (h : s.Sound) : (writeRow' r i j v en s).Sound :=
  foldl_sound h fun _ h1 _ _ => writeFld_sound h1

theorem writeTy_sound {ty r i j v en} (h : s.Sound) : (writeTy ty r i j v en s).Sound :=
  foldl_sound h fun _ h1 _ _ => writeFld_sound h1

theorem clearRc_sound {r i j en} (h : s.Sound) : (clearRc r i j en s).Sound :=
  foldl_sound h fun _ h1 _ _ => setF_sound h1

theorem regJudge_sound {m who wr o} (h : s.Sound) : (regJudge m who wr o s).2.Sound :=
  ite_sound_snd ((tgtLog_sound h).pair) (ite_sound_snd ((refusalLog_sound h).pair) h)

theorem regRoute_sound {src m o} (h : s.Sound) : (regRoute src m o s).2.Sound := by
  unfold regRoute
  extract_lets node
  split
  · exact h
  · split
    · rename_i e1
      have h1 := (requestFails_sound h).snd e1
      exact h1
    · rename_i e1
      have h1 := (requestFails_sound h).snd e1
      exact (timedOut_sound h1).pair

theorem emptyJudge_sound {m o} (h : s.Sound) : (emptyJudge m o s).2.Sound := ite_sound_snd ((tgtLog_sound h).pair) h

theorem regGate_sound {src m who wr o} (h : s.Sound) : (regGate src m who wr o s).2.Sound := by
  unfold regGate
  split
  · rename_i e
    have h1 := (regRoute_sound h).snd e
    exact regJudge_sound h1
  · exact regRoute_sound h

theorem regAnswer_sound {src m o st} (h : s.Sound) : (regAnswer src m o st s).2.Sound := by
  unfold regAnswer
  extract_lets node
  split
  · exact h
  · exact (timedOut_sound (routeDiscard_sound h)).pair

theorem hostWriteReg_sound {m who o act} (hact : ∀ (s : State), s.Sound → (act s).Sound) (h : s.Sound) :
    (hostWriteReg m who o act s).Sound :=
  ite_sound (ite_sound (regAnswer_sound (hact _ (regGate_sound h))) (regGate_sound h)) h

theorem hostCmd_sound {m o act} (hact : ∀ (s : State), s.Sound → (act s).Sound) (h : s.Sound) :
    Goes (hostCmd m o act s) :=
  ok_sound (hostWriteReg_sound (fun _ h1 => hact _ h1) h)

end Sys2Proof.Machine
end

section
/-! SUPPORT. The invariant of O60: the registers of a sequencer. -/
set_option Elab.async false
namespace Sys2Proof.Machine
open Sys2Proof

variable {s t : State}

theorem hostRej_sound {n} (h : s.Sound) : (hostRej n s).Sound := setF_sound h

theorem haltedOnly_sound {port n act} (hact : ∀ (s : State), s.Sound → (act s).Sound) (h : s.Sound) :
    (haltedOnly port n act s).Sound :=
  ite_sound (hact _ h) (hostRej_sound h)

theorem softYield_sound {n} (h : s.Sound) : (softYield n s).Sound := by
  unfold softYield
  extract_lets q off
  split
  · exact h
  · exact h
  · exact h
  · exact ite_sound (updSeq_sound h) (updSeq_sound (setF_sound h))
  · exact yieldRequest_sound h

theorem softResume_sound {n} (h : s.Sound) : (softResume n s).Sound :=
  ite_sound (ite_sound (updSeq_sound (setF_sound h)) h) (resumeIssue_sound h)

theorem writeMseqCtl_sound {port n v en} (h : s.Sound) : (writeMseqCtl port n v en s).Sound := by
  unfold writeMseqCtl
  refine haltedOnly_sound (fun s1 h1 => ?_) h
  extract_lets s2 s3
  have hs2 : s2.Sound := ite_sound (softYield_sound h1) h1
  have hs3 : s3.Sound := ite_sound (softResume_sound hs2) hs2
  exact ite_sound (abortRoutine_sound hs3) hs3

theorem writeParkCtl_sound {port n v en} (h : s.Sound) : (writeParkCtl port n v en s).Sound := by
  unfold writeParkCtl
  refine haltedOnly_sound (fun s1 h1 => ?_) h
  refine ite_sound h1 ?_
  extract_lets s2 s3 s4
  have hs2 : s2.Sound := writeTy_sound h1
  have hs3 : s3.Sound := ite_sound (parkEntries_sound hs2) hs2
  have hs4 : s4.Sound := ite_sound (unparkEntries_sound hs3) hs3
  exact ite_sound (dropEntries_sound hs4) hs4

theorem writeResume_sound {port r n v en} (h : s.Sound) : (writeResume port r n v en s).Sound :=
  haltedOnly_sound (fun _ h1 => ite_sound (writeRow'_sound h1) h1) h

theorem execYieldReq_sound {m n} (h : s.Sound) : Goes (execYieldReq m n s) :=
  hostCmd_sound (fun _ h1 => writeMseqCtl_sound h1) h

theorem execResume_sound {m n} (h : s.Sound) : Goes (execResume m n s) :=
  hostCmd_sound (fun _ h1 => writeMseqCtl_sound h1) h

theorem execAbort_sound {m n} (h : s.Sound) : Goes (execAbort m n s) :=
  hostCmd_sound (fun _ h1 => writeMseqCtl_sound h1) h

theorem execParkQueue_sound {m n} (h : s.Sound) : Goes (execParkQueue m n s) :=
  hostCmd_sound (fun _ h1 => writeParkCtl_sound h1) h

theorem execUnpark_sound {m n} (h : s.Sound) : Goes (execUnpark m n s) :=
  hostCmd_sound (fun _ h1 => writeParkCtl_sound h1) h

theorem execDropPark_sound {m n} (h : s.Sound) : Goes (execDropPark m n s) :=
  hostCmd_sound (fun _ h1 => writeParkCtl_sound h1) h

theorem forceHalt_sound {n} (h : s.Sound) : (forceHalt n s).Sound :=
  ite_sound h (ite_sound (setF_sound h) (haltCore_sound h))

theorem writeSeqCtl_sound {port who n v en} (h : s.Sound) : (writeSeqCtl port who n v en s).Sound :=
  ite_sound h (ite_sound (forceHalt_sound (ite_sound (raiseIrq_sound h) h)) (ite_sound (raiseIrq_sound h) h))

theorem execSeqHalt_sound {m n} (h : s.Sound) : Goes (execSeqHalt m n s) :=
  hostCmd_sound (fun _ h1 => writeSeqCtl_sound h1) h

theorem execPreq_sound {m n} (h : s.Sound) : Goes (execPreq m n s) :=
  hostCmd_sound (fun _ h1 => writeSeqCtl_sound h1) h

theorem writeHmsgIn_sound {port who n v en} (h : s.Sound) : (writeHmsgIn port who n v en s).Sound :=
  ite_sound (raiseIrq_sound (setF_sound (storeF_sound (ite_sound (setF_sound h) h)))) h

theorem execHmsgInWrite_sound {m n v} (h : s.Sound) : Goes (execHmsgInWrite m n v s) :=
  hostCmd_sound (fun _ h1 => writeHmsgIn_sound h1) h

theorem writeHmsgOut_sound {port n v en} (h : s.Sound) : (writeHmsgOut port n v en s).Sound := by
  unfold writeHmsgOut
  extract_lets s1
  have hs1 : s1.Sound := storeF_sound h
  refine ite_sound ?_ hs1
  split
  · rename_i e
    exact postEvent_sound (ownerOf_lt hs1 e) hs1
  · exact hs1

theorem execHmsgOutWrite_sound {n v} (h : s.Sound) : Goes (execHmsgOutWrite n v s) :=
  ite_goes (ok_sound h) (ok_sound (writeHmsgOut_sound h))

theorem execTimerMatch_sound {n} (h : s.Sound) : Goes (execTimerMatch n s) :=
  ite_goes (ok_sound (raiseIrq_sound h)) (ok_sound h)

theorem writeEdgeCfg_sound {n v en} (h : s.Sound) : (writeEdgeCfg n v en s).Sound :=
  ite_sound (writeRow'_sound h) (setFs_sound h)

theorem execEdgeCfgWrite_sound {m n v} (h : s.Sound) : Goes (execEdgeCfgWrite m n v s) :=
  hostCmd_sound (fun _ h1 => writeEdgeCfg_sound h1) h

theorem writeHaloStat_sound {n v en} (h : s.Sound) : (writeHaloStat n v en s).Sound := ite_sound (haloClear_sound h) h

theorem execHaloClr_sound {m n} (h : s.Sound) : Goes (execHaloClr m n s) :=
  hostCmd_sound (fun _ h1 => writeHaloStat_sound h1) h

theorem writeLeaseMap_sound {n v en} (h : s.Sound) : (writeLeaseMap n v en s).Sound :=
  ite_sound (rowYield_sound (storeF_sound h)) (storeF_sound h)

theorem execLeaseMapWrite_sound {m n v} (h : s.Sound) : Goes (execLeaseMapWrite m n v s) :=
  hostCmd_sound (fun _ h1 => writeLeaseMap_sound h1) h

theorem execInjectArm_sound {m n v} (h : s.Sound) : Goes (execInjectArm m n v s) :=
  hostCmd_sound (fun _ h1 => writeRow'_sound h1) h

theorem execRowYield_sound {f stall} (h : s.Sound) : Goes (execRowYield f stall s) := by
  unfold execRowYield
  split
  · extract_lets q r
    refine ite_goes ?_ (ok_sound h)
    split
    · exact ite_goes (ok_sound (rowYield_sound h)) (ok_sound h)
    · exact ok_sound h
  · exact ok_sound h

theorem writeScmd_sound {port n v en} (h : s.Sound) : (writeScmd port n v en s).Sound :=
  ite_sound (writeRow'_sound h) (setF_sound h)

theorem writeSmode_sound {port n v en} (h : s.Sound) : (writeSmode port n v en s).Sound := by
  unfold writeSmode
  extract_lets all put rmBad
  refine ite_sound (setF_sound h) (ite_sound (updPartSlices_sound h) ?_)
  split
  · exact updSlice_sound h
  · exact h

theorem execSmodeWrite_sound {m n v} (h : s.Sound) : Goes (execSmodeWrite m n v s) :=
  hostCmd_sound (fun _ h1 => writeSmode_sound h1) h

theorem readbackRow_sound {f sl row} (h : s.Sound) : (readbackRow f sl row s).2.2.Sound := by
  unfold readbackRow
  split
  · exact h
  · split
    · rename_i e2
      have h1 := (draw_sound h).snd e2
      split
      · extract_lets w
        split
        · exact h1
        · exact (ite_sound (devLogF_sound (peError_sound h1)) (peError_sound h1)).triple

theorem rbRead_sound {n} (h : s.Sound) : (rbRead n s).2.Sound :=
  ite_sound_snd ((setF_sound (readbackRow_sound (ite_sound (rowYield_sound h) h))).pair) h

theorem rbHostRead_sound {who n} (h : s.Sound) : (rbHostRead who n s).2.Sound :=
  ite_sound_snd ((hostRej_sound h).pair) (ite_sound_snd h (rbRead_sound h))

theorem rbSelRead_sound {who n} (h : s.Sound) : (rbSelRead who n s).2.Sound := ite_sound_snd h ((hostRej_sound h).pair)

theorem writeRbSel_sound {port who n v en} (h : s.Sound) : (writeRbSel port who n v en s).Sound :=
  ite_sound (writeRow'_sound h) (hostRej_sound h)

theorem answerRead_sound {m st v} (h : s.Sound) : (answerRead m st v s).Sound := by
  unfold answerRead
  exact h.same

theorem execRbDataRead_sound {m n} (h : s.Sound) : Goes (execRbDataRead m n s) := by
  unfold execRbDataRead
  extract_lets o
  refine ite_goes (ok_sound h) ?_
  refine ite_goes (ok_sound h) ?_
  split
  · rename_i e
    have h1 := (regGate_sound h).snd e
    refine ite_goes ?_ (ok_sound (answerRead_sound h1))
    exact ok_sound (answerRead_sound (regAnswer_sound (rbHostRead_sound h1)))

end Sys2Proof.Machine
end

section
/-! SUPPORT. The invariant of O60: the partitions. -/
set_option Elab.async false
namespace Sys2Proof.Machine
open Sys2Proof

variable {s t : State}

theorem resetSeq_sound {st n} (h : s.Sound) : (resetSeq st n s).Sound := by
  unfold resetSeq
  extract_lets u s1 rows s2 s3
  have hs1 : s1.Sound := updSeq_sound h
  have hs2 : s2.Sound := foldl_sound hs1 fun _ h1 _ _ => foldl_sound h1 (fun _ h2 _ _ => setF_sound h2)
  have hs3 : s3.Sound := setFs_sound hs2
  exact stopWatch_sound (updCore_sound hs3)

theorem resetPart_sound {n p} (h : s.Sound) : (resetPart n p s).Sound := by
  unfold resetPart
  extract_lets fs s1 s2
  have hs1 : s1.Sound := haltCore_sound h
  have hs2 : s2.Sound := foldl_sound hs1 fun _ h1 _ _ => updField_sound h1
  exact foldl_sound hs2 fun _ h1 _ _ => resetSeq_sound h1.same

theorem partRefuse_sound {why} (h : s.Sound) : (partRefuse why s).Sound := setFs_sound h

theorem mem_of_tlook {α : Type} {m : Tbl α} {k : Nat} {v : α} (e : tlook m k = some v) : (k, v) ∈ m := by
  induction m with
  | nil => cases e
  | cons x m ih =>
    obtain ⟨j, u⟩ := x
    simp only [tlook] at e
    split at e
    · rename_i hj
      injection e with e
      rw [hj, e]
      exact List.mem_cons_self
    · exact List.mem_cons_of_mem _ (ih e)

/-- A partition of the part has a master and a function of the part. -/
theorem partAt_lt {n : Nat} {p : Part} (h : s.Sound) (e : partAt s n = some p) : n < 64 ∧ p.func < 64 :=
  h.2.parts (n, p) (mem_of_tlook e)

theorem partBegin_sound {c} (hc : c.master < 64 ∧ c.part.func < 64) (h : s.Sound) : (partBegin c s).Sound := by
  refine setF_sound ⟨h.1, { h.2 with command := fun d hd => ?_ }⟩
  injection hd with hd
  exact hd ▸ hc

theorem writePartCmd_sound {op n p} (hn : n < 64) (hp : p.func < 64) (h : s.Sound) : (writePartCmd op n p s).Sound := by
  unfold writePartCmd
  split
  · exact ite_sound (partBegin_sound ⟨hn, hp⟩ h) (partRefuse_sound h)
  · refine ite_sound (partRefuse_sound h) ?_
    split
    · rename_i e
      exact partBegin_sound (partAt_lt h e) (resetPart_sound h)
    · exact h
  · refine ite_sound (partRefuse_sound h) ?_
    split
    · rename_i e
      exact ite_sound (partBegin_sound (partAt_lt h e) h) (partBegin_sound (partAt_lt h e) (resetPart_sound h))
    · exact partRefuse_sound h
  · exact ite_sound (partRefuse_sound h) h

theorem actPending_sound (h : s.Sound) : (actPending s).Sound := by
  unfold actPending
  split
  · rename_i c e
    refine ite_sound (resetPart_sound ⟨h.1, { h.2 with command := fun d hd => ?_ }⟩) h
    injection hd with hd
    exact hd ▸ h.2.command c e
  · exact h

theorem execPartitionDefine_sound {m f wlog hlog func} (h : s.Sound) :
    Goes (execPartitionDefine m f wlog hlog func s) :=
  hostCmd_sound (fun _ h => writePartCmd_sound f.isLt func.isLt h) h

theorem execPartitionRemove_sound {m f} (h : s.Sound) : Goes (execPartitionRemove m f s) :=
  hostCmd_sound (fun _ h => writePartCmd_sound f.isLt (by decide) h) h

theorem execPartitionReset_sound {m f} (h : s.Sound) : Goes (execPartitionReset m f s) :=
  hostCmd_sound (fun _ h => writePartCmd_sound f.isLt (by decide) h) h

theorem execPartCmdDone_sound (h : s.Sound) : Goes (execPartCmdDone s) := by
  unfold execPartCmdDone
  split
  · exact ok_sound h
  rename_i c e
  extract_lets fin fs s1
  have hfin : ∀ s : State, s.Sound → (fin s).Sound := fun _ h => setF_sound ⟨h.1, { h.2 with command := nofun }⟩
  split
  · refine ok_sound (hfin _ (resetPart_sound ⟨h.1, { h.2 with parts := fun p hp => ?_ }⟩))
    rcases mem_tput hp with rfl | hp
    · exact h.2.command c e
    · exact h.2.parts p hp
  · have hs1 : s1.Sound := ⟨h.1, { h.2 with parts := fun p hp => h.2.parts p (mem_terase hp) }⟩
    exact ok_sound (hfin _ (foldl_sound hs1 fun _ h _ _ => updSeq_sound h))
  · exact ite_goes (ok_sound (hfin _ h)) (ok_sound h)

end Sys2Proof.Machine
end

section
/-! SUPPORT. The invariant of O60: the network's registers. -/
set_option Elab.async false
namespace Sys2Proof.Machine
open Sys2Proof

variable {s t : State}

theorem writeRoute_sound {d b e v en} (h : s.Sound) : (writeRoute d b e v en s).Sound :=
  ite_sound h (ite_sound (setF_sound h) h.same)

theorem execRouteWrite_sound {m d b e v} (h : s.Sound) : Goes (execRouteWrite m d b e v s) :=
  hostCmd_sound (fun _ h1 => writeRoute_sound h1) h

theorem writeNocCtl_sound {v en} (h : s.Sound) : (writeNocCtl v en s).Sound := by
  unfold writeNocCtl
  extract_lets s1
  have hs1 : s1.Sound := writeTy_sound h
  exact ite_sound (ite_sound (setF_sound hs1) (setFs_sound hs1)) hs1

theorem execEpochSwitch_sound {m} (h : s.Sound) : Goes (execEpochSwitch m s) :=
  hostCmd_sound (fun _ h1 => writeNocCtl_sound h1) h

theorem execEpochSwitchDone_sound (h : s.Sound) : Goes (execEpochSwitchDone s) :=
  ite_goes (ok_sound (pump_sound (setFs_sound h))) (ok_sound h)

theorem writeRouterCtl_sound {r v en} (h : s.Sound) : (writeRouterCtl r v en s).Sound := by
  unfold writeRouterCtl
  extract_lets s1 s2 s3
  have hs1 : s1.Sound := writeTy_sound h
  have hs2 : s2.Sound := storeF_sound hs1
  have hs3 : s3.Sound := setF_sound hs2
  exact ite_sound (ite_sound (setF_sound hs3) (setFs_sound hs3)) hs3

theorem execRouterGo_sound {m r pe} (h : s.Sound) : Goes (execRouterGo m r pe s) :=
  hostCmd_sound (fun _ h1 => writeRouterCtl_sound h1) h

theorem execRouterWindowEnd_sound {r} (h : s.Sound) : Goes (execRouterWindowEnd r s) :=
  ite_goes (ok_sound ((setFs_sound h).same)) (ok_sound h)

theorem failPort_sound {r b} (h : s.Sound) : (failPort r b s).Sound := by
  unfold failPort
  exact (setFs_sound h).same

end Sys2Proof.Machine
end

section
/-! SUPPORT. The invariant of O60: the staging banks and the HBM. -/
set_option Elab.async false
namespace Sys2Proof.Machine
open Sys2Proof

variable {s t : State}

theorem answer_sound {node status data poison} (h : s.Sound) : (answer node status data poison s).Sound := by
  unfold answer
  exact h.same

theorem refuse_sound {d q} (h : s.Sound) : (refuse d q s).Sound := answer_sound (refusalLog_sound h)

theorem bankRead_sound {q} (h : s.Sound) : (bankRead q s).Sound :=
  answer_sound (secRead_sound (fun _ _ _ h1 => stgNote_sound h1) h)

theorem bankWrite_sound {q} (h : s.Sound) : (bankWrite q s).Sound :=
  answer_sound (secWrite_sound (fun _ _ _ h1 => stgNote_sound h1) h)

theorem countCollisions_sound {k a b} (h : s.Sound) : (countCollisions k a b s).Sound :=
  ite_sound (foldl_sound h (fun _ h1 _ _ => devLogM_sound (satF_sound h1))) h

theorem upset_sound {mine ups} (h : s.Sound) : (upset mine ups s).Sound :=
  foldl_sound h fun _ h1 _ _ => setErr_sound h1

theorem execStagingAccess_sound {k ready ups} (h : s.Sound) : Goes (execStagingAccess k ready ups s) := by
  unfold execStagingAccess
  extract_lets s1 rs gs s2 s3 s4 go s5 ws s6
  have hs1 : s1.Sound := upset_sound h
  have hs2 : s2.Sound := foldl_sound hs1 fun _ h _ _ => satF_sound h
  have hs3 : s3.Sound := by
    unfold s3
    split
    · exact hs2.same
    · exact hs2
  have hs4 : s4.Sound := foldl_sound hs3 fun _ h _ _ => refuse_sound h
  have hs5 : s5.Sound := foldl_sound hs4 fun _ h _ _ => bankRead_sound h
  have hs6 : s6.Sound := foldl_sound hs5 fun _ h _ _ => bankWrite_sound h
  refine ite_goes (ok_sound hs1) ?_
  clear_value ws
  split
  · exact ok_sound (countCollisions_sound hs6)
  · exact ok_sound hs6

theorem spadArrive_sound {n r} (h : s.Sound) : (spadArrive n r s).2.Sound :=
  ite_sound_snd h (ite_sound_snd h (ite_sound_snd ((refuse_sound h).pair) h.same))

theorem spadDo_sound {n k q e} (h : s.Sound) : (spadDo n k q e s).2.Sound := by
  unfold spadDo
  extract_lets en
  refine ite_sound_snd ?_ ?_
  · split
    · rename_i e1
      have h1 := (secWrite_sound (fun _ _ _ h1 => spadNote_sound h1) h).snd e1
      exact h1
  · split
    · rename_i e1
      have h1 := (secRead_sound (fun _ _ _ h1 => spadNote_sound h1) h).third e1
      exact h1

theorem execScratchpadPart_sound {n r k waited ups} (h : s.Sound) : Goes (execScratchpadPart n r k waited ups s) := by
  unfold execScratchpadPart
  extract_lets s1 q
  have hs1 : s1.Sound := upset_sound h
  split
  · rename_i e
    have h1 := (spadArrive_sound hs1).snd e
    split
    · refine ite_goes ?_ (ok_sound h1)
      extract_lets s2
      have hs2 : s2.Sound := ite_sound (setFs_sound h1) h1
      split
      · rename_i e3
        have h2 := (spadDo_sound hs2).snd e3
        exact ite_goes (ok_sound (answer_sound h2.same)) (ok_sound h2.same)
    · exact ok_sound h1

theorem execSpadStarve_sound {n r k} (h : s.Sound) : Goes (execSpadStarve n r k s) := by
  unfold execSpadStarve
  split
  · rename_i e
    have h1 := (spadArrive_sound h).snd e
    split
    · exact ite_goes (ok_sound (satF_sound h1.same)) (ok_sound h1)
    · exact ok_sound h1

theorem stackEdge_sound {x k} (h : s.Sound) : (stackEdge x k s).Sound := by
  unfold stackEdge
  extract_lets home d
  refine ite_sound h.same ?_
  refine ite_sound (answer_sound (wakeTimedOut_sound h)) ?_
  exact ite_sound (satF_sound h.same) (postWake_sound (updDom_sound h))

theorem toStack_sound {ra fwd q} (h : s.Sound) : (toStack ra fwd q s).Sound := by
  unfold toStack
  extract_lets home dest x
  refine ite_sound (answer_sound (stackLost_sound h)) (ite_sound (stackEdge_sound h) ?_)
  split
  · split
    · rename_i e1
      have h1 := (requestFails_sound h).snd e1
      exact answer_sound (discardData_sound h1)
    · rename_i e1
      have h1 := (requestFails_sound h).snd e1
      exact ite_sound h1 (answer_sound (timedOut_sound (discardData_sound h1)))
  · exact ite_sound h.same (stackEdge_sound h)

theorem execRawRequest_sound {r} (h : s.Sound) : Goes (execRawRequest r s) := by
  unfold execRawRequest
  extract_lets q
  split
  · exact ite_goes (ok_sound h) (ite_goes (ok_sound (refuse_sound h)) (ok_sound (toStack_sound h)))
  · exact ok_sound h

theorem answerWrite_sound {q} (h : s.Sound) : (answerWrite q s).Sound := by
  unfold answerWrite
  extract_lets line all s1
  have hs1 : s1.Sound := foldl_sound h fun _ h1 _ _ => updCore_sound h1
  split
  · exact answer_sound hs1
  · exact hs1.same

theorem stackAnswers_sound {x status data poison} (h : s.Sound) : (stackAnswers x status data poison s).Sound := by
  unfold stackAnswers
  extract_lets q home node
  split
  · exact ite_sound (answerWrite_sound h) (answer_sound h)
  · extract_lets s1
    have hs1 : s1.Sound := discardData_sound (routeDiscard_sound h)
    exact ite_sound hs1 (answer_sound (timedOut_sound hs1))

theorem hbmAct_sound {x} (h : s.Sound) : (hbmAct x s).Sound :=
  ite_sound (stackAnswers_sound (hbmWrite_sound h)) (stackAnswers_sound (hbmRead_sound h))

theorem stackUpset_sound {x e} (h : s.Sound) : (stackUpset x e s).Sound :=
  ite_sound h (foldl_sound h (fun _ h1 _ _ => h1.same))

theorem execHbmServe_sound {c e} (h : s.Sound) : Goes (execHbmServe c e s) := by
  unfold execHbmServe
  split
  · exact ite_goes (ok_sound (hbmAct_sound (stackUpset_sound h.same))) (ok_sound h)
  · exact ok_sound h

theorem translate_sound {v q} (h : s.Sound) : (translate v q s).Sound := by
  unfold translate
  extract_lets hva
  split
  · exact answer_sound (chartRefuse_sound h)
  · exact toStack_sound h

theorem execTranslatedRequest_sound {r} (h : s.Sound) : Goes (execTranslatedRequest r s) := by
  unfold execTranslatedRequest
  extract_lets q page
  split
  · refine ite_goes (ok_sound h) (ite_goes (ok_sound (refuse_sound h)) (ite_goes (ok_sound h.same) ?_))
    split
    · exact ok_sound (translate_sound h)
    · exact ok_sound (satF_sound h.same)
  · exact ok_sound h

theorem execChartFetchDone_sound {i flip} (h : s.Sound) : Goes (execChartFetchDone i flip s) := by
  unfold execChartFetchDone
  extract_lets s1 mine s2
  have hs1 : s1.Sound := h.same
  have hs2 : s2.Sound := hs1.same
  refine ite_goes (ok_sound hs1) ?_
  split
  · rename_i e
    have h1 := (chartFetch_sound hs2).snd_snd e
    refine ite_goes ?_ ?_
    · exact ok_sound (foldl_sound h1 (fun _ h2 _ _ => answer_sound h2))
    · exact ok_sound (foldl_sound (cacheEntry_sound h1) (fun _ h2 _ _ => translate_sound h2))

theorem hotChannel_sound {total obs c} (h : s.Sound) : (hotChannel total obs c s).Sound := by
  unfold hotChannel
  extract_lets hot run s1
  have hs1 : s1.Sound := satF_sound h.same
  exact ite_sound (ite_sound (setF_sound (devLogM_sound hs1)) hs1) (setF_sound h.same)

theorem execHotWindow_sound {obs} (h : s.Sound) : Goes (execHotWindow obs s) :=
  ok_sound (foldl_sound h (fun _ h1 _ _ => hotChannel_sound h1))

theorem writeHbmSeed_sound {p v en} (h : s.Sound) : (writeHbmSeed p v en s).Sound :=
  ite_sound (setF_sound h) (writeRow'_sound h)

theorem execHbmSeedWrite_sound {m p v} (h : s.Sound) : Goes (execHbmSeedWrite m p v s) :=
  hostCmd_sound (fun _ h1 => writeHbmSeed_sound h1) h

theorem execStackTemperatureRead_sound {k t} (h : s.Sound) : Goes (execStackTemperatureRead k t s) :=
  ite_goes (ok_sound (setF_sound h.same)) (ok_sound h)

theorem actInval_sound {kind node what} (h : s.Sound) : (actInval kind node what s).Sound := by
  unfold actInval
  exact h.same

theorem lineInvalidate_sound {n line} (h : s.Sound) : (lineInvalidate n line s).Sound :=
  actInval_sound (updCore_sound h)

theorem execLineInvalidate_sound {n line} (h : s.Sound) : Goes (execLineInvalidate n line s) :=
  ok_sound (lineInvalidate_sound h)

theorem invalidateAll_sound {d} (h : s.Sound) : (invalidateAll d s).Sound :=
  ite_sound (updCore_sound h) (ite_sound (foldl_sound h.same (fun _ h1 _ _ => dropPageLines_sound h1)) h)

theorem entryInvalidate_sound {d i} (h : s.Sound) : (entryInvalidate d i s).Sound := by
  unfold entryInvalidate
  refine ite_sound h (actInval_sound ?_)
  split
  · extract_lets s1
    have hs1 : s1.Sound := satF_sound h
    exact ite_sound (dropPageLines_sound hs1.same) (invalidateAll_sound hs1)
  · exact h

theorem execEntryInvalidate_sound {i} (h : s.Sound) : Goes (execEntryInvalidate i s) :=
  ok_sound (entryInvalidate_sound h)

theorem execInvalidateAll_sound {d} (h : s.Sound) : Goes (execInvalidateAll d s) := ok_sound (invalidateAll_sound h)

theorem releaseAnswers_sound (h : s.Sound) : (releaseAnswers s).Sound := by
  unfold releaseAnswers
  exact h.same

theorem chartDone_sound (h : s.Sound) : (chartDone s).Sound := foldl_sound h fun _ h1 _ _ => completeJob_sound h1

theorem acknowledge_sound {d} (h : s.Sound) : (acknowledge d s).Sound := by
  unfold acknowledge
  split
  · exact chartDone_sound (releaseAnswers_sound h.same)
  · exact h

theorem execAcknowledge_sound {d} (h : s.Sound) : Goes (execAcknowledge d s) := ok_sound (acknowledge_sound h)

end Sys2Proof.Machine
end

section
/-! SUPPORT. The invariant of O60: the rings. -/
set_option Elab.async false
namespace Sys2Proof.Machine
open Sys2Proof

variable {s t : State}

theorem payOverflow_sound {r} (h : s.Sound) : (payOverflow r s).Sound := ite_sound ((ringWrite_sound h).same) h

theorem enableRing_sound {f r} (h : s.Sound) : (enableRing f r s).Sound :=
  ite_sound (payOverflow_sound (setFs_sound h)) (setFs_sound h)

theorem writeRingCfg_sound {f r v en} (h : s.Sound) : (writeRingCfg f r v en s).Sound := by
  unfold writeRingCfg
  extract_lets on off s1 s2
  have hs1 : s1.Sound := storeF_sound (storeF_sound h)
  have hs2 : s2.Sound := foldl_sound h fun _ h1 _ _ => writeFld_sound h1
  exact ite_sound (ite_sound h (ite_sound (setF_sound hs1) hs1)) (ite_sound (enableRing_sound hs2) hs2)

theorem writeRingBase_sound {r v en} (h : s.Sound) : (writeRingBase r v en s).Sound := ite_sound h (writeRow'_sound h)

theorem execRingEnable_sound {f r v} (h : s.Sound) : Goes (execRingEnable f r v s) :=
  hostCmd_sound (fun _ h1 => writeRingCfg_sound h1) h

theorem execRingDisable_sound {f r v} (h : s.Sound) : Goes (execRingDisable f r v s) :=
  hostCmd_sound (fun _ h1 => writeRingCfg_sound h1) h

theorem writeRgOwner_sound {g v en} (h : s.Sound) : (writeRgOwner g v en s).Sound :=
  ite_sound (setF_sound h) (writeRow'_sound h)

theorem execRgOwnerWrite_sound {m g v} (h : s.Sound) : Goes (execRgOwnerWrite m g v s) :=
  hostCmd_sound (fun _ h1 => writeRgOwner_sound h1) h

theorem execMsixHoldoffEnd_sound {r} (h : s.Sound) : Goes (execMsixHoldoffEnd r s) := by
  unfold execMsixHoldoffEnd
  refine ite_goes (ok_sound h) ?_
  split
  · exact ite_goes (ok_sound (announce_sound h.same)) (ok_sound h.same)
  · exact ok_sound h.same
  · exact ok_sound h

theorem execDescriptorFetch_sound {r ce} (h : s.Sound) : Goes (execDescriptorFetch r ce s) := by
  unfold execDescriptorFetch
  extract_lets s1 k head f u
  have hs1 : s1.Sound := satF_sound h
  have hu : u.Sound := incF_sound (setF_sound hs1)
  exact ite_goes (ok_sound hu.same) (ok_sound hs1)

theorem execDescriptorFetchFail_sound {r} (h : s.Sound) : Goes (execDescriptorFetchFail r s) := by
  unfold execDescriptorFetchFail
  split
  · exact ok_sound (postEvent_sound ringOwner_lt (setFs_sound (setF_sound h.same)))
  · exact ok_sound h

theorem advance_sound {r k} (h : s.Sound) : (advance r k s).Sound := by
  induction k generalizing s with
  | zero => exact h
  | succ k ih =>
    unfold advance
    split
    · refine ite_sound h ?_
      split
      · exact ih (completeJob_sound h)
      · exact updJob_sound (keepsJob_same (fun _ => rfl) fun _ => rfl) h
    · exact h

theorem advanceRing_sound {r} (h : s.Sound) : (advanceRing r s).Sound := advance_sound h

theorem advanceAll_sound (h : s.Sound) : (advanceAll s).Sound :=
  foldl_sound h fun _ h1 _ _ => advanceRing_sound h1

theorem execDescriptorArrival_sound {r ds} (h : s.Sound) : Goes (execDescriptorArrival r ds s) := by
  unfold execDescriptorArrival
  split
  · refine ite_goes (ok_sound (advanceRing_sound ⟨h.1, { h.2 with jobs := fun j hj => ?_ }⟩)) (ok_sound h)
    rcases List.mem_append.mp hj with hj | hj
    · exact h.2.jobs j hj
    · obtain ⟨i, -, rfl⟩ := List.mem_map.mp hj
      exact ⟨r.isLt, nofun⟩
  · exact ok_sound h

theorem runJob_sound {j stage} (h : s.Sound) : (runJob j stage s).Sound := by
  unfold runJob
  extract_lets s1
  have hs1 : s1.Sound := updJob_sound (keepsJob_same (fun _ => rfl) fun _ => rfl) h
  exact ite_sound (giveEngine_sound hs1) hs1

theorem startOp_sound {r op act} (hact : ∀ a0 (s : State), s.Sound → (act a0 s).Sound) (h : s.Sound) :
    Goes (startOp r op act s) := by
  unfold startOp
  split
  · exact ite_goes (ok_sound (advanceRing_sound (hact _ _ h))) (ok_sound h)
  · exact ok_sound h

theorem badParam_sound {det j} (h : s.Sound) : (badParam det j s).Sound := completeJob_sound h

theorem doorbellBad_sound {bit r} (h : s.Sound) : (doorbellBad bit r s).Sound :=
  postEvent_sound ringOwner_lt (setF_sound h)

theorem releaseWaiting_sound (h : s.Sound) : (releaseWaiting s).Sound :=
  ite_sound h (advanceAll_sound (releaseHeld_sound h))

theorem doorbell_sound {f r size off v} (h : s.Sound) : (doorbell f r size off v s).Sound := by
  unfold doorbell
  extract_lets n old tail s1
  have hs1 : s1.Sound := setF_sound h
  refine ite_sound h ?_
  refine ite_sound (doorbellBad_sound h) ?_
  refine ite_sound (doorbellBad_sound h) ?_
  refine ite_sound (ite_sound (raiseIrq_sound hs1) hs1) ?_
  exact ite_sound (doorbellBad_sound h) (payOverflow_sound (releaseWaiting_sound (setF_sound h)))

theorem execSqDoorbell_sound {f slot size off v} (h : s.Sound) : Goes (execSqDoorbell f slot size off v s) := by
  unfold execSqDoorbell
  split
  · exact ite_goes (ok_sound (doorbell_sound h)) (ok_sound h)
  · exact ok_sound h

theorem execCqDoorbell_sound {f slot size off v} (h : s.Sound) : Goes (execCqDoorbell f slot size off v s) := by
  unfold execCqDoorbell
  split
  · exact ite_goes (ok_sound h) (ok_sound (doorbell_sound h))
  · exact ok_sound h

theorem execNop_sound {r} (h : s.Sound) : Goes (execNop r s) := startOp_sound (fun _ _ h1 => completeJob_sound h1) h

theorem sendStart_sound {j} (h : s.Sound) : (sendStart j s).Sound := by
  unfold sendStart
  extract_lets n dark
  split
  · exact h
  · exact foldl_sound (submit_sound (runJob_sound h)) (fun _ h1 _ _ => postWake_sound h1)

theorem execLaunch_sound {r} (h : s.Sound) : Goes (execLaunch r s) := by
  unfold execLaunch
  refine startOp_sound (fun a01 s1 h1 => ?_) h
  extract_lets n
  refine ite_sound (badParam_sound h1) ?_
  exact ite_sound (badParam_sound h1) (ite_sound (badParam_sound h1) (sendStart_sound h1))

theorem execFence_sound {r} (h : s.Sound) : Goes (execFence r s) :=
  startOp_sound (fun _ _ h1 => ite_sound (badParam_sound h1) (runJob_sound h1)) h

theorem execFenceRelease_sound {r} (h : s.Sound) : Goes (execFenceRelease r s) := by
  unfold execFenceRelease
  split
  · exact ite_goes (ok_sound (advanceRing_sound (completeJob_sound h))) (ok_sound h)
  · exact ok_sound h

theorem execPower_sound {r} (h : s.Sound) : Goes (execPower r s) := by
  unfold execPower
  refine startOp_sound (fun a01 s1 h1 => ?_) h
  extract_lets d st u
  have hu : u.Sound := runJob_sound h1
  refine ite_sound (badParam_sound h1) ?_
  exact ite_sound (ite_sound hu.same (badParam_sound h1)) (ite_sound (badParam_sound h1) (requestState_sound hu))

theorem resetRings_sound {f} (h : s.Sound) : (resetRings f s).Sound := by
  unfold resetRings
  exact h.same

theorem dropWhere_sound {p} (h : s.Sound) : (dropWhere p s).Sound :=
  foldl_sound (dropJobs_filter_sound h) fun _ h _ _ => freeEngine_sound h

theorem dropJobs_sound {f} (h : s.Sound) : (dropJobs f s).Sound := by
  unfold dropJobs
  extract_lets s1
  have hs1 : s1.Sound := dropWhere_sound h
  refine ⟨hs1.1, { hs1.2 with jobs := fun j hj => ?_, held := fun c hc => ?_, events := fun e he => ?_ }⟩
  · obtain ⟨k, hk, rfl⟩ := List.mem_map.mp hj
    split
    · exact hs1.2.jobs k hk
    · exact hs1.2.jobs k hk
  · exact hs1.2.held c (List.mem_filter.mp hc).1
  · exact hs1.2.events e (List.mem_filter.mp he).1

theorem dropReadbacks_sound {f} (h : s.Sound) : (dropReadbacks f s).Sound := dropWhere_sound h

theorem flrActs_sound {f} (h : s.Sound) : (flrActs f s).Sound := by
  unfold flrActs
  extract_lets s1 s2
  have hs1 : s1.Sound := foldl_sound h fun _ h1 _ _ => resetPart_sound h1
  have hs2 : s2.Sound := resetRings_sound (dropJobs_sound hs1)
  exact hs2.same

theorem strip_sound {f} (h : s.Sound) : (strip f s).Sound := by
  unfold strip
  extract_lets s1 s2
  have hs1 : s1.Sound := setF_sound h
  have hs2 : s2.Sound := foldl_sound hs1 fun _ h _ _ => setF_sound h
  refine ⟨hs2.1, { hs2.2 with parts := fun p hp => ?_ }⟩
  obtain ⟨q, hq, rfl⟩ := List.mem_map.mp hp
  have hlt := hs2.2.parts q hq
  split
  · exact ⟨hlt.1, (by decide : 0 < 64)⟩
  · exact hlt

theorem flrEnd_sound {f cease} (h : s.Sound) : (flrEnd f cease s).Sound :=
  ite_sound (strip_sound (flrActs_sound h)) (flrActs_sound h)

theorem flr_sound {f cease} (hf : f < 64) (h : s.Sound) : (flr f cease s).Sound := by
  unfold flr
  extract_lets s1
  have hs1 : s1.Sound := dropReadbacks_sound h
  refine ite_sound ⟨hs1.1, { hs1.2 with resets := fun e he => ?_ }⟩ (flrEnd_sound hs1)
  rcases List.mem_append.mp he with he | he
  · exact hs1.2.resets e he
  · rw [List.mem_singleton.mp he]
    exact hf

/-- The VFs above a number are functions of the part. -/
theorem vfsAbove_lt {k : Nat} : ∀ v ∈ vfsAbove s k, v < 64 := fun _ hv => List.mem_range.mp (List.mem_filter.mp hv).1

/-- Resets that wait may leave. -/
theorem dropResets_sound {p : Nat × Bool → Bool} (h : s.Sound) :
    ({ s with flrWait := s.flrWait.filter p } : State).Sound :=
  ⟨h.1, { h.2 with resets := fun e he => h.2.resets e (List.mem_filter.mp he).1 }⟩

theorem flrResume_sound (h : s.Sound) : (flrResume s).Sound :=
  foldl_sound (dropResets_sound h) fun _ h _ _ => flrEnd_sound h

theorem execFlr_sound {f} (h : s.Sound) : Goes (execFlr f s) := by
  unfold execFlr
  refine ite_goes (ok_sound (flr_sound f.isLt (ite_sound ?_ h))) (ok_sound h)
  exact foldl_sound h.same fun _ h v hv => flr_sound (vfsAbove_lt v hv) h

theorem execVfEnable_sound {num} (h : s.Sound) : Goes (execVfEnable num s) :=
  ite_goes (ok_sound (foldl_sound h.same (fun _ h1 _ _ => setF_sound h1))) (ok_sound h)

theorem execVfDisable_sound {num} (h : s.Sound) : Goes (execVfDisable num s) :=
  ite_goes (ok_sound (foldl_sound h.same fun _ h v hv => flr_sound (vfsAbove_lt v hv) h)) (ok_sound h)

theorem bar4Line_sound {f wr a en data} (h : s.Sound) : (bar4Line f wr a en data s).2.Sound := by
  unfold bar4Line
  split
  · rename_i e
    have h1 := (nocAccess_sound h).snd e
    exact h1
  · exact nocAccess_sound h

theorem bar4Lines_sound {f wr a0 en data l} (h : s.Sound) : (bar4Lines f wr a0 en data l s).2.Sound := by
  induction l generalizing s with
  | nil => exact h
  | cons x t ih =>
    unfold bar4Lines
    have h1 := bar4Line_sound (f := f) (wr := wr) (a := x.1) (en := (en.drop (x.1 - a0)).take x.2)
      (data := (data.drop (x.1 - a0)).take x.2) h
    split
    · rename_i e
      exact (h1.snd e).pair
    · rename_i e
      have h2 := ih (h1.snd e)
      split
      · rename_i e2
        exact (h2.snd e2).pair
      · rename_i e2
        exact (h2.snd e2).pair

theorem execBar4Access_sound {f wr off en data} (h : s.Sound) : Goes (execBar4Access f wr off en data s) := by
  unfold execBar4Access
  refine ite_goes ?_ (ok_sound h)
  split
  · rename_i e
    have h1 := (bar4Lines_sound h).snd e
    exact ite_goes (ok_sound h1) (ok_sound (answer_sound h1))
  · rename_i e
    have h1 := (bar4Lines_sound h).snd e
    exact ok_sound h1

end Sys2Proof.Machine
end

section
/-! SUPPORT. The invariant of O60: the links. -/
set_option Elab.async false
namespace Sys2Proof.Machine
open Sys2Proof

variable {s t : State}

theorem setTx_sound {j m} (h : s.Sound) : (setTx j m s).Sound := setFs_sound h

theorem setRx_sound {j m} (h : s.Sound) : (setRx j m s).Sound := setFs_sound h

theorem announceSet_sound {j m} (h : s.Sound) : (announceSet j m s).Sound := setTx_sound (updLink_sound h)

theorem takeFlit_sound {j cls p act} (hact : ∀ a0 (s : State), s.Sound → (act a0 s).Sound) (h : s.Sound) :
    Goes (takeFlit j cls p act s) := by
  unfold takeFlit
  split
  · exact ite_goes (ok_sound (hact _ _ (updLink_sound h))) (ok_sound h)
  · exact ok_sound h

theorem writeLinkCtl_sound {j v en} (h : s.Sound) : (writeLinkCtl j v en s).Sound := by
  unfold writeLinkCtl
  extract_lets was s1 now m s2 s3
  have hs1 : s1.Sound := writeTy_sound h
  have hs2 : s2.Sound := setF_sound hs1
  have hs3 : s3.Sound := ite_sound (ite_sound (setFs_sound hs1) (ite_sound (setF_sound hs2) hs2))
    (ite_sound (linkDown_sound hs1) hs1)
  exact ite_sound (setFs_sound hs3) hs3

theorem execLinkEnable_sound {m j v} (h : s.Sound) : Goes (execLinkEnable m j v s) :=
  hostCmd_sound (fun _ h1 => writeLinkCtl_sound h1) h

theorem execSignalDetect_sound {j lanes} (h : s.Sound) : Goes (execSignalDetect j lanes s) := by
  unfold execSignalDetect
  extract_lets s1
  have hs1 : s1.Sound := foldl_sound h fun _ h1 _ _ => setF_sound h1
  exact ite_goes (ok_sound (setF_sound hs1)) (ok_sound hs1)

theorem joinLate_sound {j tx rx} (h : s.Sound) : (joinLate j tx rx s).Sound := by
  unfold joinLate
  extract_lets k
  split
  · extract_lets s1 s2 s3 s4
    have hs1 : s1.Sound := updLink_sound h
    have hs2 : s2.Sound := ite_sound hs1 (announceSet_sound hs1)
    have hs3 : s3.Sound := setRx_sound hs2
    have hs4 : s4.Sound := foldl_sound hs3 fun _ h1 _ _ => linkEvent_sound h1
    exact foldl_sound hs4 fun _ h1 _ _ => linkEvent_sound h1

theorem execTrainDone_sound {j tx rx} (h : s.Sound) : Goes (execTrainDone j tx rx s) := by
  unfold execTrainDone
  split
  · exact ite_goes (ite_goes (ok_sound h) (ok_sound (setF_sound h)))
      (ite_goes (ok_sound (joinLate_sound h)) (ok_sound h))

theorem execAlignDone_sound {j tx rx} (h : s.Sound) : Goes (execAlignDone j tx rx s) := by
  unfold execAlignDone
  extract_lets tx1 rx1 s1 u u1
  have hs1 : s1.Sound := setRx_sound (setTx_sound (setF_sound h))
  exact ite_goes (ok_sound (sendFlit_sound (updLink_sound hs1))) (ok_sound h)

theorem execBringupTimeout_sound {j} (h : s.Sound) : Goes (execBringupTimeout j s) := by
  unfold execBringupTimeout
  extract_lets st u s1
  have hs1 : s1.Sound := updLink_sound h
  exact ite_goes (ok_sound (setF_sound (setRx_sound (setTx_sound hs1)))) (ok_sound h)

theorem goActive_sound {j} (h : s.Sound) : (goActive j s).Sound := linkEvent_sound (setF_sound h)

theorem goHeld_sound {j} (h : s.Sound) : (goHeld j s).Sound := setF_sound h

theorem sendSegments_sound {j ty l} (h : s.Sound) : (sendSegments j ty l s).Sound :=
  foldl_sound h fun _ h1 _ _ => sendFlit_sound h1

theorem sendNonce_sound {j} (h : s.Sound) : (sendNonce j s).Sound := sendSegments_sound (updLink_sound (draw_sound h))

theorem lodestarSign_sound {msg} (h : s.Sound) : (lodestarSign msg s).2.Sound := (draw_sound h).pair

theorem execIdentFlit_sound {j} (h : s.Sound) : Goes (execIdentFlit j s) := by
  unfold execIdentFlit
  refine ite_goes ?_ (ok_sound h)
  refine takeFlit_sound (fun a01 s1 h1 => ?_) h
  extract_lets s2
  have hs2 : s2.Sound := updLink_sound h1
  split
  · extract_lets s3 bad s4
    have hs3 : s3.Sound := setFs_sound hs2
    have hs4 : s4.Sound := ite_sound (linkEvent_sound (setF_sound hs3)) hs3
    exact ite_sound (goHeld_sound hs4) (ite_sound (sendNonce_sound (setF_sound hs4)) (goActive_sound hs4))

theorem prove_sound {j} (h : s.Sound) : (prove j s).Sound := by
  unfold prove
  extract_lets s1 s2 k
  have hs1 : s1.Sound := ite_sound (sendNonce_sound h) h
  have hs2 : s2.Sound := by
    unfold s2
    split
    · exact sendSegments_sound hs1
    · exact hs1
  refine ite_sound ?_ hs2
  split
  · rename_i e
    have h1 := (lodestarSign_sound hs2).snd e
    exact sendSegments_sound h1

theorem execNonce_sound {j} (h : s.Sound) : Goes (execNonce j s) :=
  takeFlit_sound (fun _ _ h1 => ite_sound (prove_sound (updLink_sound h1)) (updLink_sound h1)) h

theorem execCert_sound {j} (h : s.Sound) : Goes (execCert j s) := takeFlit_sound (fun _ _ h1 => updLink_sound h1) h

theorem execSig_sound {j} (h : s.Sound) : Goes (execSig j s) := by
  unfold execSig
  refine takeFlit_sound (fun a01 s1 h1 => ite_sound ?_ (updLink_sound h1)) h
  split
  · exact goActive_sound (setFs_sound (updLink_sound h1))
  · exact goHeld_sound (linkEvent_sound (setF_sound (updLink_sound h1)))

theorem execRttMeasure_sound {j ns} (h : s.Sound) : Goes (execRttMeasure j ns s) :=
  ite_goes (ok_sound (setF_sound h)) (ok_sound h)

theorem endRetrain_sound {j l} (h : s.Sound) : (endRetrain j l s).Sound := setF_sound (updLink_sound h)

theorem startRetrain_sound {j l} (h : s.Sound) : (startRetrain j l s).Sound := by
  unfold startRetrain
  refine ite_sound h ?_
  extract_lets s1 s2 s3
  have hs1 : s1.Sound := updLink_sound h
  have hs2 : s2.Sound := setRx_sound hs1
  have hs3 : s3.Sound := ite_sound (announceSet_sound hs2) hs2
  exact ite_sound (ite_sound (linkDown_sound hs3) hs3) (sendFlit_sound hs3)

theorem retireLane_sound {j l} (h : s.Sound) : (retireLane j l s).Sound := by
  unfold retireLane
  refine ite_sound ?_ h
  extract_lets m s1
  have hs1 : s1.Sound := linkEvent_sound (setRx_sound (updLink_sound h))
  exact ite_sound (ite_sound (linkDown_sound hs1) hs1) (ite_sound (startRetrain_sound hs1) hs1)

theorem execLaneLoss_sound {j l} (h : s.Sound) : Goes (execLaneLoss j l s) :=
  ite_goes (ok_sound (retireLane_sound (setF_sound h))) (ok_sound h)

theorem writeLaneCmd_sound {j v en} (h : s.Sound) : (writeLaneCmd j v en s).Sound := by
  unfold writeLaneCmd
  extract_lets s1
  have hs1 : s1.Sound := foldl_sound h fun _ h1 _ _ => retireLane_sound h1
  exact foldl_sound hs1 (fun _ h1 _ _ => ite_sound (startRetrain_sound (setFs_sound h1)) h1)

theorem execLaneRetire_sound {m j lanes} (h : s.Sound) : Goes (execLaneRetire m j lanes s) :=
  hostCmd_sound (fun _ h1 => writeLaneCmd_sound h1) h

theorem execLaneRetrain_sound {m j lanes} (h : s.Sound) : Goes (execLaneRetrain m j lanes s) :=
  hostCmd_sound (fun _ h1 => writeLaneCmd_sound h1) h

theorem execRetrain_sound {j} (h : s.Sound) : Goes (execRetrain j s) :=
  takeFlit_sound (fun _ _ h1 => ite_sound (startRetrain_sound h1) h1) h

theorem maybeRejoin_sound {j l} (h : s.Sound) : (maybeRejoin j l s).Sound := by
  unfold maybeRejoin
  extract_lets k s1 s2
  have hs1 : s1.Sound := endRetrain_sound (updLink_sound h)
  have hs2 : s2.Sound := announceSet_sound (setRx_sound hs1)
  exact ite_sound (linkEvent_sound (setFs_sound hs2)) h

theorem execRetrainDone_sound {j trained} (h : s.Sound) : Goes (execRetrainDone j trained s) := by
  unfold execRetrainDone
  split
  · exact ite_goes (ok_sound (maybeRejoin_sound (updLink_sound (sendFlit_sound h)))) (ok_sound h)
  · exact takeFlit_sound (fun _ _ h1 => ite_sound (maybeRejoin_sound (updLink_sound h1)) h1) h

theorem execRetrainFail_sound {j l} (h : s.Sound) : Goes (execRetrainFail j l s) := by
  unfold execRetrainFail
  refine ite_goes ?_ (ok_sound h)
  extract_lets k s1
  have hs1 : s1.Sound := setF_sound h
  exact ite_goes (ok_sound (linkEvent_sound (setF_sound (endRetrain_sound hs1)))) (ok_sound (sendFlit_sound hs1))

theorem laneErrors_sound {j l ce ue} (h : s.Sound) : (laneErrors j l ce ue s).Sound :=
  ite_sound (retireLane_sound (updLink_sound h)) (updLink_sound h)

theorem deliverWord_sound {j c} (h : s.Sound) : (deliverWord j c s).Sound := updLink_sound (satF_sound h)

theorem deliverAhead_sound {j n} (h : s.Sound) : (deliverAhead j n s).Sound := by
  induction n generalizing s with
  | zero => exact h
  | succ n ih =>
    unfold deliverAhead
    extract_lets k
    split
    · exact ih (deliverWord_sound (updLink_sound h))
    · exact h

theorem nakFrom_sound {j} (h : s.Sound) : (nakFrom j s).Sound := updLink_sound h

theorem placeWord_sound {j c} (h : s.Sound) : (placeWord j c s).Sound := by
  unfold placeWord
  extract_lets k n d
  refine ite_sound (deliverAhead_sound (deliverWord_sound h)) ?_
  exact ite_sound h (ite_sound (ite_sound (nakFrom_sound h) h) (ite_sound (updLink_sound h) (nakFrom_sound h)))

theorem execCodewordReceive_sound {j lane w} (h : s.Sound) : Goes (execCodewordReceive j lane w s) := by
  unfold execCodewordReceive
  extract_lets st l
  refine ite_goes ?_ (ok_sound h)
  generalize laneDecode _ _ _ = x
  obtain ⟨c, past⟩ := x
  split
  rename_i e
  clear e
  extract_lets s1
  have hs1 : s1.Sound := updLink_sound h
  split
  · exact ok_sound (laneErrors_sound (nakFrom_sound (satF_sound (satF_sound hs1))))
  · extract_lets s2 s3
    have hs2 : s2.Sound := ite_sound hs1 (satF_sound (satF_sound hs1))
    have hs3 : s3.Sound := placeWord_sound (updLink_sound hs2)
    exact ok_sound (ite_sound hs3 (laneErrors_sound hs3))

theorem actNak_sound {j q} (h : s.Sound) : (actNak j q s).Sound :=
  ite_sound (linkDown_sound (updLink_sound h)) (updLink_sound h)

theorem actRxreq_sound {j m} (h : s.Sound) : (actRxreq j m s).Sound := by
  unfold actRxreq
  extract_lets out s1 left s2
  have hs1 : s1.Sound := foldl_sound h fun _ h1 _ _ => linkEvent_sound h1
  have hs2 : s2.Sound := announceSet_sound hs1
  refine ite_sound h ?_
  refine ite_sound (ite_sound (linkDown_sound hs1) (setTx_sound hs1)) ?_
  exact ite_sound (foldl_sound hs2 (fun _ h1 _ _ => startRetrain_sound h1)) hs2

theorem execLlFlit_sound {j} (h : s.Sound) : Goes (execLlFlit j s) := by
  unfold execLlFlit
  refine takeFlit_sound (fun a01 s1 h1 => ?_) h
  extract_lets s2 s3 set s4 k s5
  have hs2 : s2.Sound := updLink_sound h1
  have hs3 : s3.Sound := ite_sound (actNak_sound hs2) hs2
  have hs4 : s4.Sound := updLink_sound hs3
  have hs5 : s5.Sound := ite_sound (setRx_sound hs4) hs3
  exact actRxreq_sound hs5

theorem execLlSilence_sound {j} (h : s.Sound) : Goes (execLlSilence j s) :=
  ite_goes (ok_sound (linkDown_sound h)) (ok_sound h)

theorem execParkAck_sound {j} (h : s.Sound) : Goes (execParkAck j s) :=
  takeFlit_sound (fun _ _ h1 => ite_sound (updLink_sound h1) h1) h

theorem execParkAckTimeout_sound {j} (h : s.Sound) : Goes (execParkAckTimeout j s) :=
  ite_goes (ok_sound (updLink_sound h)) (ok_sound h)

theorem linkWake_sound {j src} (h : s.Sound) : (linkWake j src s).Sound :=
  ite_sound ((recordOffWake_sound (setF_sound h)).same) (postWake_sound (setF_sound h))

theorem execLinkWakeDetect_sound {j} (h : s.Sound) : Goes (execLinkWakeDetect j s) :=
  ite_goes (ok_sound (linkWake_sound h)) (ok_sound h)

theorem execReveilleDetect_sound {j} (h : s.Sound) : Goes (execReveilleDetect j s) :=
  ite_goes (ok_sound (linkWake_sound h)) (ok_sound h)

theorem writeLinkWake_sound {v en} (h : s.Sound) : (writeLinkWake v en s).Sound := ite_sound h (writeRow'_sound h)

theorem execReveille_sound {m j} (h : s.Sound) : Goes (execReveille m j s) :=
  hostCmd_sound (fun _ h1 => writeLinkCtl_sound h1) h

theorem execReveilleEnd_sound {j} (h : s.Sound) : Goes (execReveilleEnd j s) :=
  ite_goes (ok_sound (setFs_sound h)) (ok_sound h)

theorem writeFleetId_sound {v en} (h : s.Sound) : (writeFleetId v en s).Sound :=
  ite_sound h (elect_sound (writeRow'_sound h))

theorem execFleetIdWrite_sound {m v} (h : s.Sound) : Goes (execFleetIdWrite m v s) :=
  hostCmd_sound (fun _ h1 => writeFleetId_sound h1) h

theorem writeLaneMode_sound {j v en} (h : s.Sound) : (writeLaneMode j v en s).Sound :=
  ite_sound h (ite_sound (setF_sound h) (writeRow'_sound h))

theorem execLaneModeWrite_sound {m j v} (h : s.Sound) : Goes (execLaneModeWrite m j v s) :=
  hostCmd_sound (fun _ h1 => writeLaneMode_sound h1) h

end Sys2Proof.Machine
end

section
/-! SUPPORT. The invariant of O60: Meridian. -/
set_option Elab.async false
namespace Sys2Proof.Machine
open Sys2Proof

variable {s t : State}

theorem writeMerCtl_sound {v en} (h : s.Sound) : (writeMerCtl v en s).Sound := elect_sound (writeRow'_sound h)

theorem execAnnounce_sound {j} (h : s.Sound) : Goes (execAnnounce j s) :=
  takeFlit_sound (fun _ _ h1 => updCands_sound h1) h

theorem execAnnounceTimer_sound (h : s.Sound) : Goes (execAnnounceTimer s) :=
  ok_sound (foldl_sound h (fun _ h1 _ _ => sendFlit_sound h1))

theorem execCandidateTimeout_sound {j prio idx} (h : s.Sound) : Goes (execCandidateTimeout j prio idx s) := by
  unfold execCandidateTimeout
  extract_lets it kids par was s1 s2
  have hs1 : s1.Sound := h.same
  have hs2 : s2.Sound := ite_sound (setMerState_sound hs1) hs1
  exact ite_goes (ok_sound (elect_sound hs2)) (ok_sound h)

theorem execSyncInterval_sound (h : s.Sound) : Goes (execSyncInterval s) := by
  unfold execSyncInterval
  extract_lets s1
  have hs1 : s1.Sound := foldl_sound h fun _ h1 _ _ => sendFlit_sound h1
  exact ite_goes (ok_sound hs1.same) (ok_sound hs1.same)

theorem execSync_sound {j} (h : s.Sound) : Goes (execSync j s) := by
  unfold execSync
  refine takeFlit_sound (fun a01 s1 h1 => ?_) h
  split
  · exact ite_sound (sendFlit_sound h1.same) h1
  · exact h1

theorem execDelayReq_sound {j} (h : s.Sound) : Goes (execDelayReq j s) :=
  takeFlit_sound (fun _ _ h1 => sendFlit_sound h1) h

theorem stepMeridian_sound {th} (h : s.Sound) : (stepMeridian th s).Sound := by
  unfold stepMeridian
  extract_lets old s1 d
  have hs1 : s1.Sound := h.same
  exact foldl_sound hs1 (fun _ h1 _ _ => ite_sound (updBar_sound (setF_sound h1.same)) (setF_sound h1.same))

theorem trimRate_sound (h : s.Sound) : (trimRate s).Sound := by
  unfold trimRate
  exact (draw_sound h).same

theorem actTheta_sound {th} (h : s.Sound) : (actTheta th s).Sound := by
  unfold actTheta
  extract_lets s1 far near s2 s3 s4
  have hs1 : s1.Sound := setF_sound h
  have hs2 : s2.Sound := ite_sound (stepMeridian_sound hs1) (trimRate_sound hs1)
  have hs3 : s3.Sound := hs2.same
  have hs4 : s4.Sound := trimRate_sound hs1
  split
  · exact ite_sound (setMerState_sound hs3) hs3
  · exact ite_sound (setMerState_sound hs4) hs4
  · exact hs1

theorem execDelayResp_sound {j} (h : s.Sound) : Goes (execDelayResp j s) := by
  unfold execDelayResp
  refine takeFlit_sound (fun a01 s1 h1 => ?_) h
  split
  · exact ite_sound (actTheta_sound h1.same) h1
  · exact h1

theorem watchEvent_sound {w data} (h : s.Sound) : (watchEvent w data s).Sound := by
  unfold watchEvent
  extract_lets s1
  have hs1 : s1.Sound := postEvent_sound ((by decide)) h
  refine ite_sound ?_ hs1
  split
  · exact ite_sound hs1 (postEvent_sound (ownerOf_lt hs1 ‹_›) hs1)
  · exact hs1

theorem noteLag_sound {w lag} (h : s.Sound) : (noteLag w lag s).Sound := by
  unfold noteLag
  extract_lets p sat s1 s2
  have hs1 : s1.Sound := setF_sound h
  have hs2 : s2.Sound := ite_sound (watchEvent_sound (setFs_sound hs1)) hs1
  exact ite_sound (setF_sound hs2) hs2

theorem ringAt_sound {w b} (h : s.Sound) : (ringAt w b s).Sound :=
  setF_sound (noteLag_sound (updWatch_sound (setF_sound (incF_sound h))))

theorem bellIrq_sound {n} (h : s.Sound) : (bellIrq n s).Sound :=
  ite_sound (raiseIrq_sound h) (postWake_sound (updWatch_sound h))

theorem ringFollower_sound {w n} (h : s.Sound) : (ringFollower w n s).Sound :=
  bellIrq_sound (setF_sound (updWatch_sound (setF_sound (incF_sound h))))

theorem fleetBell_sound {w b} (h : s.Sound) : (fleetBell w b s).Sound := by
  unfold fleetBell
  extract_lets s1
  have hs1 : s1.Sound := ringAt_sound h
  exact fleetDone_sound (foldl_sound hs1 (fun _ h1 _ _ => ringFollower_sound h1))

theorem execWatchBell_sound {w} (h : s.Sound) : Goes (execWatchBell w s) := by
  unfold execWatchBell
  split
  · exact ite_goes (ok_sound (fleetBell_sound h)) (ite_goes (ok_sound h) (ok_sound (bellIrq_sound (ringAt_sound h))))
  · exact ok_sound h

theorem wDone_sound {n} (h : s.Sound) : (wDone n s).Sound := by
  unfold wDone
  extract_lets w s1
  have hs1 : s1.Sound := setF_sound (updWatch_sound h)
  exact ite_sound h (ite_sound (setF_sound h) (ite_sound (fleetDone_sound hs1) hs1))

theorem execWDone_sound {n} (h : s.Sound) : Goes (execWDone n s) := ite_goes (ok_sound h) (ok_sound (wDone_sound h))

theorem writeWatchMode_sound {w v en} (h : s.Sound) : (writeWatchMode w v en s).Sound := ite_sound h (writeRow'_sound h)

theorem execWatchModeWrite_sound {m w v} (h : s.Sound) : Goes (execWatchModeWrite m w v s) :=
  hostCmd_sound (fun _ h1 => writeWatchMode_sound h1) h

theorem startWatch_sound {w period shorten start} (h : s.Sound) : (startWatch w period shorten start s).Sound :=
  ite_sound (setF_sound (setFs_sound (updWatch_sound h))) (setFs_sound (updWatch_sound h))

theorem endWatch_sound {w} (h : s.Sound) : (endWatch w s).Sound := updWatch_sound (stopWatch_sound h)

theorem execWatchSet_sound {r} (h : s.Sound) : Goes (execWatchSet r s) := by
  unfold execWatchSet
  refine startOp_sound (fun a01 s1 h1 => ?_) h
  extract_lets w k
  refine ite_sound (badParam_sound h1) ?_
  exact ite_sound (completeJob_sound (startWatch_sound h1)) (completeJob_sound (endWatch_sound h1))

theorem execBarrier_sound {r} (h : s.Sound) : Goes (execBarrier r s) := by
  unfold execBarrier
  refine startOp_sound (fun a01 s1 h1 => ?_) h
  exact ite_sound (badParam_sound h1) (arriveAt_sound
    (updJob_sound (keepsJob_same (fun _ => rfl) fun _ => rfl) (runJob_sound h1)))

theorem execArrive_sound {j} (h : s.Sound) : Goes (execArrive j s) := by
  unfold execArrive
  refine takeFlit_sound (fun a01 s1 h1 => ite_sound ?_ (ite_sound ?_ (ite_sound (updBar_sound h1) h1))) h
  · extract_lets s2
    have hs2 : s2.Sound := updBar_sound h1
    split
    · exact sendFlit_sound hs2
    · exact barrierUp_sound hs2
  · split
    · exact sendFlit_sound h1
    · exact h1

theorem execRelease_sound {j} (h : s.Sound) : Goes (execRelease j s) := by
  unfold execRelease
  refine takeFlit_sound (fun a01 s1 h1 => ?_) h
  exact ite_sound (satF_sound h1) (ite_sound h1 (releaseDown_sound (updBar_sound h1)))

theorem completeBarrier_sound {b} (h : s.Sound) : (completeBarrier b s).Sound :=
  foldl_sound h fun _ h1 _ _ => completeJob_sound h1

theorem execBarrierComplete_sound {b} (h : s.Sound) : Goes (execBarrierComplete b s) := by
  unfold execBarrierComplete
  extract_lets x s1 s2 u w
  have hs1 : s1.Sound := ite_sound (satF_sound h) h
  have hs2 : s2.Sound := setF_sound (incF_sound hs1)
  split
  · refine ite_goes ?_ (ok_sound h)
    extract_lets s3
    have hs3 : s3.Sound := updBar_sound hs2
    exact ite_goes (ite_goes (ok_sound (fleetBell_sound hs3)) (ok_sound hs3)) (ok_sound (completeBarrier_sound hs3))
  · exact ok_sound h

theorem execBarrierTimeout_sound {r} (h : s.Sound) : Goes (execBarrierTimeout r s) := by
  unfold execBarrierTimeout
  extract_lets due
  split
  · exact ok_sound (completeJob_sound h)
  · exact ok_sound h

end Sys2Proof.Machine
end

section
/-! SUPPORT. The invariant of O60: the fabric strips. -/
set_option Elab.async false
namespace Sys2Proof.Machine
open Sys2Proof

variable {s t : State}

theorem captureCoves_sound {g vs} (h : s.Sound) : (captureCoves g vs s).Sound := updStrip_sound h

theorem ramRead_sound {g k portB p} (h : s.Sound) : (ramRead g k portB p s).Sound :=
  ite_sound (updBlk_sound (noteEntry_sound (readEntry_sound h))) (updBlk_sound h)

theorem ramWrite_sound {g k p} (h : s.Sound) : (ramWrite g k p s).Sound := ite_sound (writeEntry_sound h) h

theorem ramEdge_sound {g k a b order} (h : s.Sound) : (ramEdge g k a b order s).Sound := by
  unfold ramEdge
  split
  · refine ite_sound ?_ ?_
    · exact ramWrite_sound (ramWrite_sound (ramRead_sound (ramRead_sound h)))
    · refine ite_sound ?_ ?_
      · exact ramWrite_sound (ramRead_sound (ramWrite_sound (ramRead_sound h)))
      · exact ramWrite_sound (ramRead_sound (ramWrite_sound (ramRead_sound h)))
  · exact ramWrite_sound (ramRead_sound h)
  · exact ramWrite_sound (ramRead_sound h)
  · exact h

theorem queueEdge_sound {g k a b lateA lateB} (h : s.Sound) : (queueEdge g k a b lateA lateB s).Sound := by
  unfold queueEdge
  extract_lets f full nf pop push data both s1 s2 s3 s4
  have hs1 : s1.Sound := updBlk_sound h
  have hs2 : s2.Sound := ite_sound (ite_sound (popBlk_sound hs1) hs1) h
  have hs3 : s3.Sound := ite_sound (ite_sound (storeTail_sound hs2) (ite_sound (setF_sound hs2) (storeTail_sound hs2)))
    hs2
  have hs4 : s4.Sound := ite_sound (updBlk_sound hs3) hs3
  exact ite_sound (updBlk_sound hs4) hs4

theorem blockEdge_sound {g k vs on ph} (h : s.Sound) : (blockEdge g k vs on ph s).Sound :=
  ite_sound h (ite_sound (ramEdge_sound h) (queueEdge_sound h))

theorem edgeClock_sound {g vs on} (h : s.Sound) : (edgeClock g vs on s).Sound := by
  unfold edgeClock
  extract_lets s1 segs s2
  have hs1 : s1.Sound := foldl_sound h fun _ h1 _ _ => ite_sound (haloAck_sound h1.same) h1.same
  have hs2 : s2.Sound := updStrip_sound hs1
  exact ite_sound hs2.same hs1

theorem drivePads_sound {g vs} (h : s.Sound) : (drivePads g vs s).Sound := by
  unfold drivePads
  refine foldl_sound h fun s1 h1 x1 hx1 => ?_
  split
  · exact updStrip_sound h1
  · exact h1

theorem upsetBlks_sound {g ups} (h : s.Sound) : (upsetBlks g ups s).Sound :=
  foldl_sound h fun _ h1 _ _ => ite_sound (updBlk_sound h1) h1

theorem captureTrees_sound {g on} (h : s.Sound) : (captureTrees g on s).Sound := ite_sound h (updStrip_sound h)

theorem sampleSync_sound {g on pins} (h : s.Sound) : (sampleSync g on pins s).Sound := updStrip_sound h

theorem execTreeEdge_sound {g ts pins ph ups} (h : s.Sound) : Goes (execTreeEdge g ts pins ph ups s) := by
  unfold execTreeEdge
  extract_lets g1 on s1 vs s2 s3 s4 s5 vs1
  have hs1 : s1.Sound := upsetBlks_sound h
  have hs2 : s2.Sound := captureTrees_sound hs1
  have hs3 : s3.Sound := captureCoves_sound hs2
  have hs4 : s4.Sound := foldl_sound hs3 fun _ h1 _ _ => blockEdge_sound h1
  have hs5 : s5.Sound := sampleSync_sound (edgeClock_sound hs4)
  exact ite_goes (ok_sound (drivePads_sound hs5.same)) (ok_sound h)

theorem writeFabClk_sound {g t v en} (h : s.Sound) : (writeFabClk g t v en s).Sound :=
  ite_sound (setF_sound h) (ite_sound (writeRow'_sound h) (setF_sound (writeRow'_sound h)))

theorem execFabClkWrite_sound {m g t v} (h : s.Sound) : Goes (execFabClkWrite m g t v s) :=
  hostCmd_sound (fun _ h1 => writeFabClk_sound h1) h

theorem execClockRestart_sound {g t dead} (h : s.Sound) : Goes (execClockRestart g t dead s) :=
  ite_goes (ok_sound (ite_sound (setF_sound (setF_sound h)) (setF_sound h))) (ok_sound h)

theorem execClkLost_sound {g t} (h : s.Sound) : Goes (execClkLost g t s) :=
  ite_goes (ok_sound h) (ok_sound (setF_sound h))

theorem writeFabCap_sound {g v en} (h : s.Sound) : (writeFabCap g v en s).Sound :=
  ite_sound (updStrip_sound (setFs_sound h)) h

theorem execCapture_sound {m g} (h : s.Sound) : Goes (execCapture m g s) :=
  hostCmd_sound (fun _ h1 => writeFabCap_sound h1) h

theorem execCaptureDone_sound {g} (h : s.Sound) : Goes (execCaptureDone g s) :=
  ite_goes (ok_sound (setFs_sound (captureTrees_sound h))) (ok_sound h)

theorem readFabRb_sound {g} (h : s.Sound) : (readFabRb g s).2.Sound :=
  ite_sound_snd h (ite_sound_snd ((setFs_sound h).pair) ((setFs_sound (readUnit_sound h)).pair))

theorem execFabRbDataRead_sound {m g} (h : s.Sound) : Goes (execFabRbDataRead m g s) := by
  unfold execFabRbDataRead
  extract_lets o
  refine ite_goes ?_ (ok_sound h)
  split
  · rename_i e
    have h1 := (regGate_sound h).snd e
    refine ite_goes ?_ (ok_sound (answerRead_sound h1))
    exact ok_sound (answerRead_sound (regAnswer_sound (readFabRb_sound h1)))

theorem execConfigScan_sound {g bad} (h : s.Sound) : Goes (execConfigScan g bad s) :=
  ite_goes (ok_sound (foldl_sound h (fun _ h1 _ _ => ite_sound (devLogM_sound h1) h1))) (ok_sound h)

theorem execHaloFlitTx_sound {j c late} (h : s.Sound) : Goes (execHaloFlitTx j c late s) := by
  unfold execHaloFlitTx
  refine ite_goes ?_ (ok_sound h)
  split
  · extract_lets s1
    have hs1 : s1.Sound := linkSees_sound h
    exact ite_goes (ok_sound (sendFlit_sound (updLink_sound (dropHead_sound hs1)))) (ok_sound hs1)
  · exact ok_sound h

theorem execHaloFlitRx_sound {j c} (h : s.Sound) : Goes (execHaloFlitRx j c s) := by
  unfold execHaloFlitRx
  split
  · extract_lets s1
    have hs1 : s1.Sound := updLink_sound h
    split
    · exact ite_goes (ok_sound (pushBlk_sound (linkFreed_sound hs1))) (ok_sound hs1)
    · exact ok_sound hs1
  · exact ok_sound h

end Sys2Proof.Machine
end

section
/-! SUPPORT. The invariant of O60: the transmitters of the links. -/
set_option Elab.async false
namespace Sys2Proof.Machine
open Sys2Proof

variable {s t : State}

theorem llSent_sound {j} (h : s.Sound) : (llSent j s).Sound := updLink_sound h

theorem maybePark_sound {j} (h : s.Sound) : (maybePark j s).Sound := ite_sound (updLink_sound (sendFlit_sound h)) h

theorem noteT3_sound {j fs} (h : s.Sound) : (noteT3 j fs s).Sound := ite_sound h.same h

theorem emit_sound {j c} (h : s.Sound) : (emit j c s).Sound := by
  unfold emit
  exact (updLink_sound h).same

theorem emitNew_sound {j fill} (h : s.Sound) : (emitNew j fill s).Sound :=
  emit_sound (noteT3_sound (ite_sound (llSent_sound (updLink_sound h)) (updLink_sound h)))

theorem execCodewordTransmit_sound {j} (h : s.Sound) : Goes (execCodewordTransmit j s) := by
  unfold execCodewordTransmit
  extract_lets j1 s1
  have hs1 : s1.Sound := maybePark_sound h
  refine ite_goes ?_ (ok_sound h)
  split
  · exact ok_sound (emit_sound (satF_sound (updLink_sound hs1)))
  · exact ok_sound (emitNew_sound hs1)

theorem execLinkPark_sound {j} (h : s.Sound) : Goes (execLinkPark j s) :=
  ite_goes (takeFlit_sound (fun _ _ h1 => linkDown_sound (emitNew_sound h1)) h) (ok_sound h)

end Sys2Proof.Machine
end

section
/-! SUPPORT. The invariant of O60: the loads of a strip. -/
set_option Elab.async false
namespace Sys2Proof.Machine
open Sys2Proof

variable {s t : State}

theorem extendWith_sound {idx kind start count data} (h : s.Sound) :
    (extendWith idx kind start count data s).Sound := by
  unfold extendWith
  exact h.same

theorem execFabricLoad_sound {r} (h : s.Sound) : Goes (execFabricLoad r s) := by
  unfold execFabricLoad
  refine startOp_sound (fun a01 s1 h1 => ?_) h
  refine ite_sound (badParam_sound h1) ?_
  exact ite_sound (badParam_sound h1) (ite_sound (badParam_sound h1) (runJob_sound h1))

theorem enterLoading_sound {j} (h : s.Sound) : (enterLoading j s).Sound :=
  updJob_sound (keepsJob_same (fun _ => rfl) fun _ => rfl) (updStrip_sound (setFs_sound h))

theorem beginLoad_sound {j} (h : s.Sound) : (beginLoad j s).Sound := by
  unfold beginLoad
  extract_lets g is
  refine ite_sound (completeJob_sound h) (ite_sound (completeJob_sound h) ?_)
  split
  · exact completeJob_sound h
  · exact enterLoading_sound h

theorem nextLoad_sound {g n} (h : s.Sound) : (nextLoad g n s).Sound := by
  induction n generalizing s with
  | zero => exact h
  | succ n ih =>
    unfold nextLoad
    refine ite_sound h ?_
    split
    · exact h
    · extract_lets s1
      have hs1 : s1.Sound := updStrip_sound h
      refine ih ?_
      split
      · exact beginLoad_sound hs1
      · exact hs1

theorem loadRead_sound {j} (h : s.Sound) : (loadRead j s).Sound := nextLoad_sound (updStrip_sound (leaveEngine_sound h))

theorem execLoadRelease_sound {g} (h : s.Sound) : Goes (execLoadRelease g s) := by
  unfold execLoadRelease
  split
  · exact ite_goes (ok_sound (updJob_sound (keepsJob_same (fun _ => rfl) fun _ => rfl) (updStrip_sound h))) (ok_sound h)
  · exact ok_sound h

theorem noteWarn_sound {g w} (h : s.Sound) : (noteWarn g w s).Sound := by
  unfold noteWarn
  split
  · exact h
  · exact ite_sound (setF_sound h) (setFs_sound h)

theorem execReleaseStage_sound {g t} (h : s.Sound) : Goes (execReleaseStage g t s) := by
  unfold execReleaseStage
  extract_lets load rs s1 s2
  have hs2 : s2.Sound := updStrip_sound (updStrip_sound h)
  refine ite_goes (ok_sound h) (ite_goes (ok_sound (updStrip_sound h)) (ite_goes (ok_sound (updStrip_sound h)) ?_))
  clear_value s2 rs load
  split
  · exact ok_sound (nextLoad_sound (completeJob_sound (extendWith_sound (noteWarn_sound (setFs_sound hs2)))))
  · exact ok_sound hs2

theorem execPmaWordReceived_sound {g l w late} (h : s.Sound) : Goes (execPmaWordReceived g l w late s) := by
  unfold execPmaWordReceived
  split
  · exact ite_goes (ok_sound (updBlk_sound (pushBlk_sound h))) (ok_sound h)
  · exact ok_sound h

theorem execPmaWordSent_sound {g l late} (h : s.Sound) : Goes (execPmaWordSent g l late s) := by
  unfold execPmaWordSent
  split
  · refine ite_goes ?_ ?_
    · extract_lets last
      split
      · rename_i e1
        have h1 := (popBlk_sound h).snd e1
        exact ok_sound ((updBlk_sound h1).same)
    · exact ok_sound h
  · exact ok_sound h

end Sys2Proof.Machine
end

section
/-! SUPPORT. The invariant of O60: the service functions. -/
set_option Elab.async false
namespace Sys2Proof.Machine
open Sys2Proof

variable {s t : State}

theorem hubRequest_sound {n sp} (h : s.Sound) : (hubRequest n sp s).Sound :=
  takeIfIdle_sound (raiseIrq_sound (updSeq_sound h))

theorem hubBegin_sound {n sp} (h : s.Sound) : (hubBegin n sp s).Sound := updSeq_sound h

theorem hubEnd_sound {n} (h : s.Sound) : (hubEnd n s).Sound := takeIfIdle_sound (hubRelease_sound h)

theorem execSpare_sound {r} (h : s.Sound) : Goes (execSpare r s) := by
  unfold execSpare
  refine startOp_sound (fun a01 s1 h1 => ?_) h
  exact ite_sound (badParam_sound h1) (ite_sound (badParam_sound h1) (runJob_sound h1))

theorem execSparePretestDone_sound {f good} (h : s.Sound) : Goes (execSparePretestDone f good s) := by
  unfold execSparePretestDone
  split
  · refine ite_goes ?_ (ok_sound (flrResume_sound (actPending_sound (badParam_sound (setF_sound h)))))
    extract_lets s1
    have hs1 : s1.Sound := updJob_sound (keepsJob_same (fun _ => rfl) fun _ => rfl) h
    split
    · exact ok_sound (hubRequest_sound hs1)
    · exact ok_sound hs1
  · exact ok_sound h

theorem execSpareQuiesced_sound {f} (h : s.Sound) : Goes (execSpareQuiesced f s) := by
  unfold execSpareQuiesced
  split
  · extract_lets start
    have hstart : ∀ (s : State), s.Sound → (start s).Sound := fun _ h1 =>
      setF_sound (updJob_sound (keepsJob_same (fun _ => rfl) fun _ => rfl) (rowYield_sound h1))
    split
    · exact ite_goes (ok_sound (hstart _ (hubBegin_sound h))) (ok_sound h)
    · exact ok_sound (hstart _ h)
  · exact ok_sound h

theorem moveErr_sound {f k e} (h : s.Sound) : (moveErr f k e s).Sound := by
  unfold moveErr
  split
  · split
    · rename_i e2
      have h1 := (draw_sound h).snd e2
      split
      · extract_lets s1
        have hs1 : s1.Sound := updField_sound h1
        split
        · exact hs1
        · exact ite_sound (devLogF_sound (setRowErr_sound (peError_sound hs1))) (peError_sound hs1)

theorem repairCopy_sound {f col} (h : s.Sound) : (repairCopy f col s).Sound :=
  foldl_sound (updField_sound h) (fun _ h1 _ _ => moveErr_sound h1)

theorem spareSwitch_sound {f col} (h : s.Sound) : (spareSwitch f col s).Sound := by
  unfold spareSwitch
  extract_lets s1
  have hs1 : s1.Sound := setFs_sound (repairCopy_sound h)
  exact ite_sound (inject_sound hs1) hs1

theorem execSpareCopyDone_sound {f} (h : s.Sound) : Goes (execSpareCopyDone f s) := by
  unfold execSpareCopyDone
  split
  · extract_lets s1 s2 s3
    have hs1 : s1.Sound := spareSwitch_sound h
    have hs2 : s2.Sound := completeJob_sound (devLogF_sound hs1)
    have hs3 : s3.Sound := by
      unfold s3
      split
      · exact hubEnd_sound hs2
      · exact hs2
    exact ok_sound (flrResume_sound (actPending_sound hs3))
  · exact ok_sound h

theorem writeHbmRecal_sound {k v en} (h : s.Sound) : (writeHbmRecal k v en s).Sound := by
  unfold writeHbmRecal
  extract_lets s1 s2
  have hs1 : s1.Sound := writeTy_sound (writeTy_sound h)
  have hs2 : s2.Sound := setFs_sound hs1
  exact ite_sound (ite_sound (setF_sound hs1) hs2.same) hs1

theorem execHbmRecal_sound {m k ch} (h : s.Sound) : Goes (execHbmRecal m k ch s) :=
  hostCmd_sound (fun _ h1 => writeHbmRecal_sound h1) h

theorem execHbmRecalDone_sound {k us} (h : s.Sound) : Goes (execHbmRecalDone k us s) :=
  ite_goes (ok_sound ((setFs_sound h).same)) (ok_sound h)

theorem fwError_sound {why} (h : s.Sound) : (fwError why s).Sound := setFs_sound h

theorem writeFwCtl_sound {v en} (h : s.Sound) : (writeFwCtl v en s).Sound := by
  unfold writeFwCtl
  extract_lets s1 s2 u
  have hs1 : s1.Sound := writeTy_sound h
  have hs2 : s2.Sound := ite_sound (ite_sound (fwError_sound hs1) (setFs_sound hs1)) hs1
  have hu : u.Sound := setFs_sound hs2
  exact ite_sound (ite_sound (fwError_sound hs2) (ite_sound (fwError_sound hs2) hu.same)) hs2

theorem execFwStage_sound {m} (h : s.Sound) : Goes (execFwStage m s) :=
  hostCmd_sound (fun _ h1 => writeFwCtl_sound h1) h

theorem setInactive_sound {l} (h : s.Sound) : (setInactive l s).Sound := by
  unfold setInactive
  exact h.same

theorem execFwStageDone_sound {flashOk} (h : s.Sound) : Goes (execFwStageDone flashOk s) := by
  unfold execFwStageDone
  refine ite_goes ?_ (ok_sound h)
  extract_lets s1 off len
  have hs1 : s1.Sound := setFs_sound h
  refine ite_goes (ok_sound (fwError_sound hs1)) ?_
  split
  · rename_i e
    have h1 := (secRead_sound (fun _ _ _ h1 => stgNote_sound h1) hs1).third e
    extract_lets i
    refine ite_goes (ok_sound (fwError_sound h1)) ?_
    refine ite_goes (ok_sound (fwError_sound h1)) ?_
    refine ite_goes ?_ (ok_sound (setF_sound (setInactive_sound h1)))
    exact ok_sound (fwError_sound (setF_sound (setInactive_sound h1)))

theorem execFwSwitch_sound {m} (h : s.Sound) : Goes (execFwSwitch m s) :=
  hostCmd_sound (fun _ h1 => writeFwCtl_sound h1) h

theorem runImage_sound {act} (h : s.Sound) : (runImage act s).Sound := by
  unfold runImage
  exact (setFs_sound h).same

theorem execFwSwitchDone_sound {us} (h : s.Sound) : Goes (execFwSwitchDone us s) := by
  unfold execFwSwitchDone
  extract_lets act s1 s2 held s3 s4 s5
  have hs2 : s2.Sound := setFs_sound (runImage_sound h.same)
  have hs3 : s3.Sound := releaseHeld_sound ⟨hs2.1, { hs2.2 with events := nofun }⟩
  have hs4 : s4.Sound := ite_sound hs3 (foldl_sound hs3 fun _ h _ _ => postEntry_sound h)
  have hs5 : s5.Sound := foldl_sound hs4 fun _ h _ _ => payOverflow_sound h
  exact ite_goes (ok_sound (advanceAll_sound (devLogM_sound hs5))) (ok_sound h)

theorem execFatalError_sound {unit addr} (h : s.Sound) : Goes (execFatalError unit addr s) :=
  ok_sound (devLogM_sound (setFs_sound h.same))

theorem writeSecCtl_sound {v en} (h : s.Sound) : (writeSecCtl v en s).Sound := by
  unfold writeSecCtl
  extract_lets s1 s2
  have hs1 : s1.Sound := writeTy_sound h
  have hs2 : s2.Sound := ite_sound (ite_sound (setF_sound hs1) (setFs_sound hs1)) hs1
  exact ite_sound (ite_sound (setFs_sound hs2) (setF_sound hs2)) hs2

theorem execSvnCommit_sound {m} (h : s.Sound) : Goes (execSvnCommit m s) :=
  hostCmd_sound (fun _ h1 => writeSecCtl_sound h1) h

theorem execRevoke0_sound {m} (h : s.Sound) : Goes (execRevoke0 m s) :=
  hostCmd_sound (fun _ h1 => writeSecCtl_sound h1) h

theorem endFuses_sound {take} (h : s.Sound) : (endFuses take s).Sound := by
  unfold endFuses
  extract_lets s1 s2
  have hs1 : s1.Sound := ite_sound (setF_sound h) h
  have hs2 : s2.Sound := ite_sound (setF_sound hs1) hs1
  exact setFs_sound hs2

theorem execFuseWriteDone_sound (h : s.Sound) : Goes (execFuseWriteDone s) :=
  ite_goes (ok_sound (endFuses_sound h)) (ok_sound h)

theorem aclWrite_sound {d act} (hact : ∀ (s : State), s.Sound → (act s).Sound) (h : s.Sound) :
    (aclWrite d act s).Sound :=
  ite_sound h (ite_sound (setF_sound h) (hact _ h))

theorem writeAclPerm_sound {d m v en} (h : s.Sound) : (writeAclPerm d m v en s).Sound :=
  ite_sound h (aclWrite_sound (fun _ h1 => writeRow'_sound h1) h)

theorem writeAclBase_sound {d r v en} (h : s.Sound) : (writeAclBase d r v en s).Sound :=
  aclWrite_sound (fun _ h1 => writeRow'_sound h1) h

theorem writeAclLimit_sound {d r v en} (h : s.Sound) : (writeAclLimit d r v en s).Sound :=
  aclWrite_sound (fun _ h1 => writeRow'_sound h1) h

theorem writeAclCtl_sound {d v en} (h : s.Sound) : (writeAclCtl d v en s).Sound :=
  aclWrite_sound (fun _ h1 => writeRow'_sound h1) h

theorem execAclLock_sound {m d} (h : s.Sound) : Goes (execAclLock m d s) :=
  hostCmd_sound (fun _ h1 => writeAclCtl_sound h1) h

end Sys2Proof.Machine
end

section
/-! SUPPORT. The invariant of O60: resets, power and boot. -/
set_option Elab.async false
namespace Sys2Proof.Machine
open Sys2Proof

variable {s t : State}

theorem resetRegs_sound {drop} (h : s.Sound) : (resetRegs drop s).Sound := by
  unfold resetRegs
  exact h.same

theorem resetSeqDomain_sound {n} (h : s.Sound) : (resetSeqDomain n s).Sound :=
  updField_sound ((updSeq_sound (updCore_sound (resetRegs_sound h))).same)

theorem resetStripLogic_sound {g} (h : s.Sound) : (resetStripLogic g s).Sound := updStrip_sound h

theorem resetLink_sound {j} (h : s.Sound) : (resetLink j s).Sound :=
  resetRegs_sound ((ite_sound (emptyLinkQueues_sound h) h).same)

theorem domainActs_sound {d} (h : s.Sound) : (domainActs d s).Sound := by
  unfold domainActs
  refine ite_sound ?_ ?_
  · exact foldl_sound (surveySeal_sound h) (fun _ h1 _ _ => resetSeqDomain_sound h1)
  · refine ite_sound ((invalidateAll_sound h).same) ?_
    refine ite_sound (updStrip_sound (resetStripLogic_sound h)) ?_
    exact ite_sound (foldl_sound h (fun _ h1 _ _ => resetLink_sound h1)) h

theorem writeDomRst_sound {v en} (h : s.Sound) : (writeDomRst v en s).Sound := by
  unfold writeDomRst
  extract_lets s1 s2 d why s3
  have hs1 : s1.Sound := writeTy_sound h
  have hs2 : s2.Sound := storeF_sound hs1
  have hs3 : s3.Sound := setFs_sound hs2
  exact ite_sound (ite_sound (domainActs_sound (updDom_sound hs3.same)) (setFs_sound hs2)) hs2

theorem execDomainReset_sound {m d} (h : s.Sound) : Goes (execDomainReset m d s) :=
  hostCmd_sound (fun _ h1 => writeDomRst_sound h1) h

theorem execDomainResetDone_sound (h : s.Sound) : Goes (execDomainResetDone s) := by
  unfold execDomainResetDone
  refine ite_goes (ite_goes (ok_sound h) ?_) (ok_sound h)
  extract_lets s1 s2 s3
  have hs1 : s1.Sound := setFs_sound (updDom_sound h)
  have hs2 : s2.Sound := ringWaiting_sound (deliverHeld_sound hs1)
  have hs3 : s3.Sound := updDom_sound hs2
  split
  · exact ite_goes (ok_sound (answerAsker_sound hs3)) (ok_sound (startTrans_sound hs3))
  · exact ok_sound hs2

theorem reset_sound : State.reset.Sound := ⟨rfl, numbered_of _ rfl⟩

theorem keepOutside_reset_sound : (keepOutside s State.reset).Sound := reset_sound.same rfl

theorem powerOn_sound : (powerOn s).Sound := setFs_sound keepOutside_reset_sound.same

theorem warmLogic_sound (h : s.Sound) : (warmLogic s).Sound :=
  setFs_sound (foldl_sound ⟨h.1, ⟨nofun, nofun, nofun, nofun, nofun, nofun⟩⟩ fun _ h _ _ => resetStripLogic_sound h)

theorem endCopies_sound (h : s.Sound) : (endCopies s).Sound :=
  foldl_sound h fun _ h1 _ _ => ite_sound (spareSwitch_sound h1) h1

/-- The descriptors, held completions and held events end. -/
theorem dropTransfers_sound {l x y} (h : s.Sound) :
    ({ s with jobs := [], fetches := l, heldCqe := [], evtHeld := [], cqHold := x, ringStop := y } : State).Sound :=
  ⟨h.1, { h.2 with jobs := nofun, held := nofun, events := nofun }⟩

theorem execPerstNFall_sound (h : s.Sound) : Goes (execPerstNFall s) := by
  unfold execPerstNFall
  extract_lets s1 s2 s3 s4 s5
  refine ite_goes (ok_sound h) ?_
  have hs1 : s1.Sound := endCopies_sound (endFuses_sound h)
  have hs2 : s2.Sound := ite_sound (setInactive_sound hs1) hs1
  have hs3 : s3.Sound := by
    refine foldl_sound hs2 fun s h i _ => ?_
    split
    · exact surveyRestore_sound h
    · exact h
  have hs5 : s5.Sound := foldl_sound (dropTransfers_sound hs3) fun _ h _ _ => setF_sound (setDom_sound h)
  exact ite_goes (ok_sound (warmLogic_sound hs5)) (ok_sound (setFs_sound hs5).same)

theorem execPwrGoodFall_sound {fused} : Goes (execPwrGoodFall fused s) := by
  unfold execPwrGoodFall
  extract_lets s1 s2 u u1
  have hu1 : u1.Sound := powerOn_sound
  exact ok_sound hu1.same

theorem execAonPowerUp_sound : Goes (execAonPowerUp s) := by
  have hs : (setFs (fuses s) { keepOutside s State.reset with ticks := 0, aonBase := 0, aonAt := 0 }).Sound :=
    setFs_sound keepOutside_reset_sound.same
  exact ok_sound hs.same

theorem execBootStart_sound (h : s.Sound) : Goes (execBootStart s) :=
  ite_goes (ok_sound h) (ite_goes (ite_goes (ok_sound (setFs_sound powerOn_sound)) (ok_sound h))
    (ite_goes (ok_sound h) (ite_goes (ok_sound (setF_sound h)) (ok_sound (setF_sound h.same)))))

theorem bootFail_sound {why} (h : s.Sound) : (bootFail why s).Sound := setFs_sound h

theorem bootFirmware_sound (h : s.Sound) : (bootFirmware s).Sound := by
  unfold bootFirmware
  extract_lets p good
  exact ite_sound (runImage_sound (setFs_sound h)) (ite_sound (runImage_sound (setFs_sound h)) (bootFail_sound h))

theorem bootTiles_sound (h : s.Sound) : (bootTiles s).Sound :=
  foldl_sound h fun _ h1 _ _ => setF_sound (draw_sound h1)

theorem bootMemories_sound {fail} (h : s.Sound) : (bootMemories fail s).Sound :=
  foldl_sound h (fun _ h1 _ _ => ite_sound (devLogM_sound (setFs_sound h1)) (setF_sound h1))

theorem configure_sound {c} (h : s.Sound) : (configure c s).Sound := by
  unfold configure
  exact h.same

theorem execBootStepDone_sound {o} (h : s.Sound) : Goes (execBootStepDone o s) := by
  unfold execBootStepDone
  refine ite_goes (ok_sound h) ?_
  extract_lets go s1
  have hgo : ∀ (k : ℕ) (s : State), s.Sound → (go k s).Sound := fun _ s2 h1 => setF_sound h1
  have hs1 : s1.Sound := foldl_sound h fun _ h1 _ _ => setF_sound h1
  split
  · exact ite_goes (ok_sound h) (ok_sound (hgo _ _ h))
  · exact ite_goes (ok_sound (hgo _ _ h)) (ok_sound (bootFail_sound h))
  · exact ok_sound (bootFirmware_sound h.same)
  · exact ok_sound (hgo _ _ (setF_sound h))
  · exact ok_sound (hgo _ _ (bootTiles_sound h))
  · exact ok_sound (hgo _ _ (bootMemories_sound h))
  · exact ok_sound (hgo _ _ (setF_sound (configure_sound h)))
  · exact ok_sound (setFs_sound hs1)
  · exact ok_sound h

theorem execAvsWrite_sound {mv} (h : s.Sound) : Goes (execAvsWrite mv s) := ite_goes (ok_sound h.same) (ok_sound h)

theorem execAvsAck_sound (h : s.Sound) : Goes (execAvsAck s) := by
  unfold execAvsAck
  split
  · exact ite_goes (ok_sound (warmLogic_sound h.same)) (ok_sound h.same)
  · exact ok_sound h

theorem execAvsRetry_sound (h : s.Sound) : Goes (execAvsRetry s) := by
  unfold execAvsRetry
  split
  · exact ok_sound h.same
  · exact ok_sound h

theorem execVddGpioRise_sound {g high} (h : s.Sound) : Goes (execVddGpioRise g high s) := ok_sound h.same

end Sys2Proof.Machine
end

section
/-! SUPPORT. The invariant of O60: the registers. -/
set_option Elab.async false
namespace Sys2Proof.Machine
open Sys2Proof

variable {s t : State}

theorem chartPeek_sound (h : s.Sound) : (chartPeek s).2.Sound := by
  unfold chartPeek
  extract_lets page v m
  split
  · exact h
  · exact h
  · exact h
  · exact ite_sound_snd ((draw_sound h).pair) ((draw_sound h).pair)

theorem rowRead_sound {who r i j} (h : s.Sound) : (rowRead who r i j s).2.Sound := by
  unfold rowRead
  split
  · exact h
  · exact h
  · exact h
  · exact h
  · exact h
  · exact h
  · exact h
  · exact h
  · exact h
  · exact h
  · exact h
  · exact h
  · exact ite_sound_snd h (rbSelRead_sound h)
  · exact rbHostRead_sound h
  · exact h
  · exact h
  · exact chartPeek_sound h
  · exact h
  · exact h
  · exact h
  · exact h
  · exact h
  · exact h
  · exact readFabRb_sound h
  · exact h
  · exact h
  · exact h
  · exact h
  · exact h
  · exact h
  · exact h

theorem markRead_sound {r i j} (h : s.Sound) : (markRead r i j s).Sound := ite_sound h.same h

theorem regRead_sound {who r en} (h : s.Sound) : (regRead who r en s).2.Sound := by
  unfold regRead
  split
  · exact (markRead_sound (clearRc_sound (rowRead_sound h))).pair
  · exact h
  · exact h
  · exact h

theorem writeGovCtl_sound {v en} (h : s.Sound) : (writeGovCtl v en s).Sound := by
  unfold writeGovCtl
  extract_lets new s1 s2
  have hs1 : s1.Sound := storeF_sound h
  have hs2 : s2.Sound := ite_sound (setF_sound hs1) hs1
  exact ite_sound (setF_sound hs2) hs2

theorem writeTunCmd_sound {j v en} (h : s.Sound) : (writeTunCmd j v en s).Sound :=
  ite_sound h (ite_sound (setF_sound h) (updLink_sound h))

theorem writePwrDom_sound {d v en} (h : s.Sound) : (writePwrDom d v en s).Sound :=
  ite_sound h (ite_sound (anchorWake_sound (writeTy_sound h)) (writeTy_sound h))

theorem rowWrite_sound {port who r i j v en} (h : s.Sound) : (rowWrite port who r i j v en s).Sound := by
  unfold rowWrite
  split
  · exact writeSeqCtl_sound h
  · exact writeParkCtl_sound h
  · exact writeRbSel_sound h
  · exact writeHmsgIn_sound h
  · exact writeHmsgOut_sound h
  · exact writeMseqCtl_sound h
  · exact writeResume_sound h
  · exact writeResume_sound h
  · exact writeResume_sound h
  · exact writeResume_sound h
  · exact writeResume_sound h
  · exact writeResume_sound h
  · exact writeResume_sound h
  · exact writeResume_sound h
  · exact writeEdgeCfg_sound h
  · exact writeHaloStat_sound h
  · exact writeLeaseMap_sound h
  · exact writeScmd_sound h
  · exact writeSmode_sound h
  · exact writePartCmd_sound bits_six_lt bits_six_lt h
  · exact writeRingBase_sound h
  · exact writeRingCfg_sound h
  · exact writeRgOwner_sound h
  · exact writeHbmSeed_sound h
  · exact writeNocCtl_sound h
  · exact writeRouterCtl_sound h
  · exact writeLinkCtl_sound h
  · exact writeLaneCmd_sound h
  · exact writeLaneMode_sound h
  · exact writeTunCmd_sound h
  · exact writeFleetId_sound h
  · exact writeLinkWake_sound h
  · exact writeMerCtl_sound h
  · exact writeWatchMode_sound h
  · exact writeFabClk_sound h
  · exact writeFabCap_sound h
  · exact writePwrDom_sound h
  · exact writeGovCtl_sound h
  · exact surveyDisable_sound (writeRow'_sound h)
  · exact writeHbmRecal_sound h
  · exact writeFwCtl_sound h
  · exact writeSecCtl_sound h
  · exact writeAclPerm_sound h
  · exact writeAclBase_sound h
  · exact writeAclLimit_sound h
  · exact writeAclCtl_sound h
  · exact writeDomRst_sound h
  · exact writeRow'_sound h

theorem msixWrite_sound {f o v en} (h : s.Sound) : (msixWrite f o v en s).Sound :=
  ite_sound h (ite_sound (msix_sound h.same.same) h.same)

theorem regWrite_sound {who r v en} (h : s.Sound) : (regWrite who r v en s).Sound := by
  unfold regWrite
  split
  · exact rowWrite_sound h
  · exact h
  · exact writeRoute_sound h
  · exact msixWrite_sound h

theorem regAccess_sound {src m who bar wr o en v} (h : s.Sound) : (regAccess src m who bar wr o en v s).2.2.Sound := by
  unfold regAccess
  split
  · split
    · rename_i e1
      have h1 := (regRoute_sound h).snd e1
      exact (regAnswer_sound (ite_sound_snd h1 (emptyJudge_sound h1))).triple
    · rename_i e1
      have h1 := (regRoute_sound h).snd e1
      exact h1
  · split
    · rename_i e1
      have h1 := (regGate_sound h).snd e1
      refine ite_sound_snd_snd h1 ?_
      exact (regAnswer_sound (ite_sound_snd ((regWrite_sound h1).pair) (regRead_sound h1))).triple

theorem execRegisterRead_sound {m o n} (h : s.Sound) : Goes (execRegisterRead m o n s) := by
  unfold execRegisterRead
  extract_lets o1 m1 bar
  refine ite_goes (ok_sound h) ?_
  split
  · exact ok_sound (answer_sound h)
  · refine ite_goes ?_ ?_
    · exact ok_sound h
    · split
      · rename_i e1
        have h1 := (regAccess_sound h).snd_snd e1
        exact ok_sound (answer_sound h1)

theorem execRegisterWrite_sound {m o n v} (h : s.Sound) : Goes (execRegisterWrite m o n v s) := by
  unfold execRegisterWrite
  extract_lets o1 m1
  refine ite_goes (ok_sound h) ?_
  split
  · exact ok_sound h
  · exact ite_goes (ok_sound h) (ok_sound (regAccess_sound h))

theorem lineWords_sound {src m wr o en data l x} (h : x.2.2.Sound) : (lineWords src m wr o en data l x).2.2.Sound := by
  induction l generalizing x with
  | nil => exact h
  | cons i l ih =>
    obtain ⟨st, d, s⟩ := x
    unfold lineWords
    extract_lets e
    split
    rename_i e1
    exact ih (State.Sound.triple ((ite_sound_snd_snd (State.Sound.triple h) (regAccess_sound h)).snd_snd e1))

theorem regLine_sound {src m wr o en data} (h : s.Sound) : (regLine src m wr o en data s).2.2.Sound := by
  unfold regLine
  exact lineWords_sound h

theorem execRegisterLineRequest_sound {r} (h : s.Sound) : Goes (execRegisterLineRequest r s) := by
  unfold execRegisterLineRequest
  extract_lets a en
  refine ite_goes (ite_goes (ok_sound h) ?_) (ok_sound h)
  split
  rename_i e
  exact ok_sound (answer_sound ((regLine_sound h).snd_snd e))

theorem anyAccess_sound {src m wr a en data} (h : s.Sound) : (anyAccess src m wr a en data s).2.Sound := by
  unfold anyAccess
  refine ite_sound_snd ?_ (nocAccess_sound h)
  split
  extract_lets o
  refine ite_sound_snd h ?_
  split
  rename_i e
  exact (regLine_sound h).snd_snd e

end Sys2Proof.Machine
end

section
/-! SUPPORT. The invariant of O60: the I/O ports. -/
set_option Elab.async false
namespace Sys2Proof.Machine
open Sys2Proof

variable {s t : State}

theorem badPort_sound {p} (h : s.Sound) : (badPort p s).Sound := h

/-- What a read of a port leaves, where the port is assigned. -/
def ReadSound : Option (Nat × State) → Prop
  | some (_, s) => s.Sound
  | none => True

theorem portRead_sound {n p} (h : s.Sound) : ReadSound (portRead n p s) := by
  unfold portRead
  split
  case h_8 => exact State.Sound.same (s := s) h
  case h_10 =>
    split
    · split
      · exact rbRead_sound h
      · split
        rename_i e
        have h1 := (regRead_sound h).snd e
        exact ite_sound (setF_sound h1) h1
    · trivial
  all_goals exact h

/-- What a write of a port leaves, where the port is assigned. -/
def WriteSound : Option State → Prop
  | some s => s.Sound
  | none => True

theorem portWrite_sound {n p v} (h : s.Sound) : WriteSound (portWrite n p v s) := by
  unfold portWrite
  split
  · exact wDone_sound h
  · exact writeRow'_sound h
  · exact writeWatchMode_sound h
  · exact h
  · exact h
  · exact h
  · exact h
  · exact pwrReq_sound h
  · exact State.Sound.same (s := s) h
  · cases portRow n p with
    | none => trivial
    | some x => exact rowWrite_sound h

theorem inOp_sound {n o} (h : s.Sound) : (inOp n o s).Sound := by
  unfold inOp
  extract_lets p go
  have hgo : ∀ s : State, s.Sound → (go s).Sound := by
    intro s h
    refine ite_opres h (ite_opres h ?_)
    have hread := portRead_sound (n := n) (p := p) h
    split
    · rename_i e
      rw [e] at hread
      exact wrote_sound hread
    · exact h
  exact ite_opres h (ite_opres (afterAcalls_sound hgo h) (hgo s h))

theorem outOp_sound {n o} (h : s.Sound) : (outOp n o s).Sound := by
  unfold outOp
  extract_lets p go
  have hgo : ∀ s : State, s.Sound → (go s).Sound := by
    intro s h
    have hwrite := portWrite_sound (n := n) (p := p) (v := regOf s n o.rd) h
    simp only [go]
    split
    · rename_i e
      rw [e] at hwrite
      exact hwrite
    · exact h
  exact ite_opres h (ite_opres (afterAcalls_sound hgo h) (hgo s h))

theorem execInPort_sound {n e} (h : s.Sound) : Goes (execInPort n e s) :=
  ok_sound (runWord_sound (fun _ _ _ h1 => inOp_sound h1) h)

theorem execOutPort_sound {n e} (h : s.Sound) : Goes (execOutPort n e s) :=
  ok_sound (runWord_sound (fun _ _ _ h1 => outOp_sound h1) h)

theorem execPwrReq_sound {n v} (h : s.Sound) : Goes (execPwrReq n v s) :=
  ite_goes (ok_sound h) (ok_sound (pwrReq_sound h))

end Sys2Proof.Machine
end

section
/-! SUPPORT. The invariant of O60: the tunnel engines. -/
set_option Elab.async false
namespace Sys2Proof.Machine
open Sys2Proof

variable {s t : State}

theorem sendFlits_sound {j fs} (h : s.Sound) : (sendFlits j fs s).Sound :=
  foldl_sound h fun _ h1 _ _ => sendFlit_sound h1

theorem execTunnelCommand_sound {m j v} (h : s.Sound) : Goes (execTunnelCommand m j v s) :=
  hostCmd_sound (fun _ h1 => writeTunCmd_sound h1) h

theorem completeTun_sound {j st} (h : s.Sound) : (completeTun j st s).Sound := by
  unfold completeTun
  split
  · extract_lets s1 k s2
    have hs1 : s1.Sound := incF_sound (updLink_sound h)
    have hs2 : s2.Sound := ite_sound (setFs_sound hs1) hs1
    exact ite_sound (linkEvent_sound hs2) hs2
  · exact h

theorem issueLine_sound {j} (h : s.Sound) : (issueLine j s).2.Sound := by
  unfold issueLine
  split
  · refine ite_sound_snd (ite_sound_snd ((sendFlits_sound (updLink_sound h)).pair) ?_) h
    split
    · rename_i e1
      have h1 := (anyAccess_sound h).snd e1
      exact h1
    · rename_i e1
      have h1 := (anyAccess_sound h).snd e1
      exact (sendFlits_sound (updLink_sound h1)).pair
    · rename_i e1
      have h1 := (anyAccess_sound h).snd e1
      exact (updLink_sound h1).pair
  · exact h

theorem issueLines_sound {j n} (h : s.Sound) : (issueLines j n s).Sound := by
  induction n generalizing s with
  | zero => exact h
  | succ n ih => exact ite_sound (ih (issueLine_sound h)) (issueLine_sound h)

theorem takeTun_sound {j c} (h : s.Sound) : (takeTun j c s).Sound := by
  unfold takeTun
  extract_lets s1
  have hs1 : s1.Sound := updLink_sound h
  exact ite_sound (completeTun_sound hs1) (ite_sound (completeTun_sound hs1) (issueLines_sound hs1))

theorem execTunnelStart_sound {j} (h : s.Sound) : Goes (execTunnelStart j s) := by
  unfold execTunnelStart
  refine ite_goes ?_ (ok_sound h)
  split
  · exact ite_goes (ok_sound h) (ok_sound (takeTun_sound h))
  · exact ok_sound h
  · exact ite_goes (ok_sound (issueLines_sound (updLink_sound h))) (ok_sound h)

theorem execTunnelWaitTimeout_sound {j} (h : s.Sound) : Goes (execTunnelWaitTimeout j s) := by
  unfold execTunnelWaitTimeout
  split
  · exact ite_goes (ok_sound (completeTun_sound h)) (ok_sound h)
  · exact ok_sound h

theorem execTunnelCommandDone_sound {j} (h : s.Sound) : Goes (execTunnelCommandDone j s) := by
  unfold execTunnelCommandDone
  split
  · exact ite_goes (ok_sound (completeTun_sound h)) (ok_sound h)
  · exact ok_sound h

theorem tookRequest_sound {j rest} (h : s.Sound) : (tookRequest j rest s).Sound := updLink_sound h

theorem execTunnelRequest_sound {j} (h : s.Sound) : Goes (execTunnelRequest j s) := by
  unfold execTunnelRequest
  split
  · extract_lets h1 wr tid en
    refine ite_goes (ok_sound (sendFlits_sound (tookRequest_sound h))) ?_
    split
    · rename_i e1
      have h2 := (anyAccess_sound h).snd e1
      exact ok_sound h2
    · rename_i e1
      have h2 := (anyAccess_sound h).snd e1
      exact ok_sound (sendFlits_sound (tookRequest_sound h2))
  · exact ok_sound h

theorem tunAnswered_sound {j tid st} (h : s.Sound) : (tunAnswered j tid st s).Sound := updLink_sound h

theorem execTunnelResponse_sound {j} (h : s.Sound) : Goes (execTunnelResponse j s) := by
  unfold execTunnelResponse
  split
  · extract_lets h1 st tid took
    have htook : ∀ (s : State), s.Sound → (took s).Sound := fun s1 h2 => updLink_sound h2
    split
    · split
      · refine ite_goes ?_ (ok_sound (issueLines_sound (tunAnswered_sound (htook _ h))))
        extract_lets d
        split
        · rename_i e3
          have h2 := (anyAccess_sound h).snd e3
          exact ok_sound h2
        · rename_i e3
          have h2 := (anyAccess_sound h).snd e3
          exact ok_sound (issueLines_sound (tunAnswered_sound (htook _ h2)))
      · exact ok_sound (htook _ h)
    · exact ok_sound (htook _ h)
  · exact ok_sound h

end Sys2Proof.Machine
end

section
/-! SUPPORT. The invariant of O60: the word ports. -/
set_option Elab.async false
namespace Sys2Proof.Machine
open Sys2Proof

variable {s t : State}

theorem wpError_sound {n f st} (h : s.Sound) : (wpError n f st s).Sound := ite_sound h (setFs_sound h)

theorem wpRequest_sound {f t p} (h : s.Sound) : (wpRequest f t p s).2.Sound := anyAccess_sound h

theorem wpLines_sound {f n} (h : s.Sound) : (wpLines f n s).2.Sound := by
  induction n generalizing s with
  | zero => exact h
  | succ n ih =>
    unfold wpLines
    split
    · exact h
    · rename_i t _
      have hline := wpRequest_sound (f := f) (t := t) (p := t.pos) h
      refine ite_sound_snd h ?_
      split
      · rename_i e
        exact hline.snd e
      · rename_i e
        exact ih (updField_sound (hline.snd e))
      · rename_i e
        exact (wpError_sound (hline.snd e)).pair

theorem wpLate_sound {f late} (h : s.Sound) : (wpLate f late s).Sound := by
  unfold wpLate
  refine foldl_sound h fun s1 h1 x1 hx1 => ite_sound ?_ h1
  split
  · extract_lets p
    refine ite_sound h1 ?_
    split
    · rename_i e1
      have h2 := (wpRequest_sound h1).snd e1
      exact ite_sound (updField_sound h2) h2
    · rename_i e1
      have h2 := (wpRequest_sound h1).snd e1
      exact h2
  · exact h1

theorem wpFill_sound {f t} (h : s.Sound) : (wpFill f t s).Sound := updSeq_sound (updField_sound h)

theorem execWpTransferEnd_sound {f late} (h : s.Sound) : Goes (execWpTransferEnd f late s) := by
  unfold execWpTransferEnd
  split
  · rename_i e
    have h1 := (wpLines_sound h).snd e
    exact ok_sound h1
  · rename_i e
    have h1 := (wpLines_sound h).snd e
    extract_lets s1
    have hs1 : s1.Sound := ite_sound h1 (wpLate_sound h1)
    split
    · exact ok_sound (updField_sound (ite_sound (wpFill_sound hs1) hs1))
    · exact ok_sound hs1

end Sys2Proof.Machine
end

section
/-! SUPPORT. The invariant of O60: the DMA engines. -/
set_option Elab.async false
namespace Sys2Proof.Machine
open Sys2Proof

variable {s t : State}

theorem keepsJob_ite {c : Job → Prop} [DecidablePred c] {g k : Job → Job} (hg : KeepsJob g) (hk : KeepsJob k) :
    KeepsJob fun j => if c j then g j else k j := by
  intro j
  dsimp only
  split
  · exact hg j
  · exact hk j

theorem failMove_sound {id st side off} (h : s.Sound) : (failMove id st side off s).Sound :=
  updJob_sound (keepsJob_ite (keepsJob_same (fun _ => rfl) fun _ => rfl) (keepsJob_same (fun _ => rfl) fun _ => rfl)) h

theorem gotData_sound {id d} (h : s.Sound) : (gotData id d s).Sound := by
  unfold gotData
  extract_lets s1
  have hs1 : s1.Sound := updJob_sound (keepsJob_same (fun _ => rfl) fun _ => rfl) h
  split
  · refine ite_sound ?_ hs1
    split
    · exact incF_sound hs1
    · exact hs1
  · exact hs1

theorem sentData_sound {id k} (h : s.Sound) : (sentData id k s).Sound := by
  unfold sentData
  extract_lets s1
  have hs1 : s1.Sound := updJob_sound (keepsJob_same (fun _ => rfl) fun _ => rfl) h
  split
  · split
    · exact incF_sound hs1
    · exact hs1
  · exact hs1

theorem engineAccess_sound {j wr a k data} (h : s.Sound) : (engineAccess j wr a k data s).2.Sound := anyAccess_sound h

theorem gather_sound {id src n} (h : s.Sound) : (gather id src n s).2.Sound := by
  induction n generalizing s with
  | zero => exact h
  | succ n ih =>
    unfold gather
    split
    · exact h
    · extract_lets got k
      refine ite_sound_snd h ?_
      split
      · rename_i e
        exact (engineAccess_sound h).snd e
      · rename_i e
        exact ih (gotData_sound ((engineAccess_sound h).snd e))
      · rename_i e
        exact (failMove_sound ((engineAccess_sound h).snd e)).pair

theorem flush_sound {all id dst n} (h : s.Sound) : (flush all id dst n s).2.Sound := by
  induction n generalizing s with
  | zero => exact h
  | succ n ih =>
    unfold flush
    split
    · exact h
    · extract_lets bad room k
      refine ite_sound_snd h ?_
      split
      · rename_i e
        exact (engineAccess_sound h).snd e
      · rename_i e
        exact ih (sentData_sound ((engineAccess_sound h).snd e))
      · rename_i e
        exact (failMove_sound ((engineAccess_sound h).snd e)).pair

theorem hostPieces_sound {func n a d} (h : s.Sound) : (hostPieces func n a d s).Sound := by
  induction n generalizing s a d with
  | zero => exact h
  | succ n ih => exact ite_sound h (ih h.same)

theorem hostStore_sound {func a d} (h : s.Sound) : (hostStore func a d s).Sound := hostPieces_sound h

theorem freeBytes_sound {k} (h : s.Sound) : (freeBytes k s).2.Sound := (draw_sound h).pair

theorem lateNoc_sound {j dst len off late} (h : s.Sound) : (lateNoc j dst len off late s).Sound := by
  unfold lateNoc
  refine foldl_sound h fun s1 h1 x1 hx1 => ?_
  extract_lets o k
  refine ite_sound ?_ h1
  split
  · rename_i e
    have h2 := (freeBytes_sound h1).snd e
    exact engineAccess_sound h2

theorem lateHost_sound {j dst len off late} (h : s.Sound) : (lateHost j dst len off late s).Sound := by
  unfold lateHost
  refine foldl_sound h fun s1 h1 x1 hx1 => ?_
  extract_lets o k
  refine ite_sound ?_ h1
  split
  · rename_i e
    have h2 := (freeBytes_sound h1).snd e
    exact hostStore_sound h2

theorem startMove_sound {r op} (h : s.Sound) : Goes (startMove r op s) :=
  startOp_sound (fun _ _ h1 => ite_sound (badParam_sound h1) (runJob_sound h1)) h

theorem execDmaIn_sound {r} (h : s.Sound) : Goes (execDmaIn r s) := startMove_sound h

theorem execDmaOut_sound {r} (h : s.Sound) : Goes (execDmaOut r s) := startMove_sound h

theorem execCopy_sound {r} (h : s.Sound) : Goes (execCopy r s) := by
  unfold execCopy
  refine startOp_sound (fun a01 s1 h1 => ?_) h
  exact ite_sound (badParam_sound h1) (ite_sound (badParam_sound h1) (runJob_sound h1))

theorem takeReads_sound {id n} (h : s.Sound) : (takeReads id n s).Sound := by
  induction n generalizing s with
  | zero => exact h
  | succ n ih =>
    unfold takeReads
    split
    · split
      · exact ite_sound h (ih (gotData_sound (updJob_sound (keepsJob_same (fun _ => rfl) fun _ => rfl) h)))
      · exact h
    · exact h

theorem execHostReadCompletion_sound {e i x} (h : s.Sound) : Goes (execHostReadCompletion e i x s) := by
  unfold execHostReadCompletion
  split
  · extract_lets s1 bad
    have hs1 : s1.Sound := updJob_sound (keepsJob_same (fun _ => rfl) fun _ => rfl) h
    have hbad : ∀ st, Goes (bad st) := fun _ => ok_sound (failMove_sound hs1)
    split
    · extract_lets s2 s3
      have hs3 : s3.Sound := takeReads_sound (updJob_sound (keepsJob_same (fun _ => rfl) fun _ => rfl) hs1)
      exact ite_goes (ite_goes (ok_sound (flush_sound hs3)) (ok_sound hs3)) (ok_sound hs1)
    · exact hbad 3
    · exact hbad 1
    · exact hbad 4
  · exact ok_sound h

theorem execHostReadTimeout_sound {e i} (h : s.Sound) : Goes (execHostReadTimeout e i s) := by
  unfold execHostReadTimeout
  split
  · exact ite_goes (ok_sound h) (ok_sound (failMove_sound (updJob_sound (keepsJob_same (fun _ => rfl) fun _ => rfl) h)))
  · exact ok_sound h

theorem endMove_sound {id late} (h : s.Sound) : (endMove id late s).Sound := by
  unfold endMove
  split
  · exact h
  · split
    · exact ite_sound (completeJob_sound h) h
    · exact ite_sound h (completeJob_sound (ite_sound (lateHost_sound h) (lateNoc_sound h)))

theorem sendOut_sound {id} (h : s.Sound) : (sendOut id s).Sound := by
  unfold sendOut
  split
  · exact sentData_sound (hostStore_sound h)
  · exact h

theorem execDmaTransferEnd_sound {e late} (h : s.Sound) : Goes (execDmaTransferEnd e late s) := by
  unfold execDmaTransferEnd
  split
  · exact ok_sound h
  · extract_lets fuel
    split
    · split
      rename_i e1
      have h1 := (flush_sound h).snd e1
      exact ite_goes (ok_sound (endMove_sound h1)) (ok_sound h1)
    · split
      rename_i e1
      have h1 := (gather_sound h).snd e1
      exact ite_goes (ok_sound (endMove_sound (sendOut_sound h1))) (ok_sound h1)
    · split
      rename_i e1
      have h1 := (gather_sound h).snd e1
      refine ite_goes ?_ (ok_sound h1)
      split
      rename_i e2
      have h2 := (flush_sound h1).snd e2
      exact ite_goes (ok_sound (endMove_sound h2)) (ok_sound h2)
    · exact ok_sound h

theorem execAlmanacLoad_sound {r} (h : s.Sound) : Goes (execAlmanacLoad r s) := by
  unfold execAlmanacLoad
  refine startOp_sound (fun a01 s1 h1 => ?_) h
  exact ite_sound (badParam_sound h1) (ite_sound (badParam_sound h1) (runJob_sound h1))

theorem execImageLoad_sound {r} (h : s.Sound) : Goes (execImageLoad r s) := by
  unfold execImageLoad
  refine startOp_sound (fun a01 s1 h1 => ?_) h
  exact ite_sound (badParam_sound h1) (ite_sound (badParam_sound h1) (runJob_sound h1))

theorem execChartUpdate_sound {r} (h : s.Sound) : Goes (execChartUpdate r s) :=
  startOp_sound (fun _ _ h1 => ite_sound (badParam_sound h1) (runJob_sound h1)) h

theorem almRead_sound {j} (h : s.Sound) : (almRead j s).Sound := by
  unfold almRead
  split
  · exact completeJob_sound h
  · exact leaveEngine_sound h

theorem writeChart_sound {page v} (h : s.Sound) : (writeChart page v s).Sound := by
  unfold writeChart
  extract_lets new old s1
  have hs1 : s1.Sound := h.same
  split
  · exact ite_sound hs1 hs1.same
  · exact hs1

theorem chartRead_sound {j} (h : s.Sound) : (chartRead j s).Sound := by
  unfold chartRead
  extract_lets n s1
  have hs1 : s1.Sound := foldl_sound h fun _ h1 _ _ => writeChart_sound h1
  split
  · exact completeJob_sound h
  · exact chartDone_sound (leaveEngine_sound hs1)

theorem sourceIn_sound {id} (h : s.Sound) : (sourceIn id s).Sound := by
  unfold sourceIn
  split
  · exact h
  · split
    · exact ite_sound h (completeJob_sound h)
    · refine ite_sound h ?_
      split
      · exact almRead_sound h
      · exact leaveEngine_sound h
      · exact loadRead_sound h
      · exact chartRead_sound h

theorem execSourceReadDone_sound {e} (h : s.Sound) : Goes (execSourceReadDone e s) := by
  unfold execSourceReadDone
  split
  · refine ite_goes (ite_goes ?_ (ok_sound (sourceIn_sound h))) (ok_sound h)
    split
    rename_i e1
    have h1 := (gather_sound h).snd e1
    exact ite_goes (ok_sound (sourceIn_sound h1)) (ok_sound h1)
  · exact ok_sound h

theorem almWrite_sound {n j} (h : s.Sound) : (almWrite n j s).Sound := foldl_sound h fun _ h1 _ _ => h1.same

theorem imageWrite_sound {n j} (h : s.Sound) : (imageWrite n j s).Sound := updCore_sound h

theorem execLoadWriteDone_sound {n} (h : s.Sound) : Goes (execLoadWriteDone n s) := by
  unfold execLoadWriteDone
  split
  · refine ite_goes ?_ ?_
    · exact ok_sound (completeJob_sound (extendWith_sound (almWrite_sound (almYield_sound h))))
    · exact ok_sound (completeJob_sound (extendWith_sound ((imageWrite_sound h).same)))
  · exact ok_sound h

end Sys2Proof.Machine
end

section
/-! SUPPORT. The invariant of O60: the snapshots. -/
set_option Elab.async false
namespace Sys2Proof.Machine
open Sys2Proof

variable {s t : State}

theorem readAll_sound {read : Nat → State → List Byte × Bool × State} {k}
    (hread : ∀ i (s : State), s.Sound → (read i s).2.2.Sound) (h : s.Sound) : (readAll read k s).2.2.Sound :=
  foldl_sound_snd_snd h fun _ hp i _ => hread i _ hp

theorem State.Sound.of_triple {α β : Type} {a : α} {b : β} {x : α × β × State} (h : t.Sound) (e : x = (a, b, t)) :
    x.2.2.Sound := by
  subst e
  exact h

theorem snapRows_sound {f} (h : s.Sound) : (snapRows f s).2.2.Sound := by
  refine of_function snapRows (P := fun g => (g f s).2.2.Sound) fun g e => ?_
  unfold snapRows at e
  have e := congrFun (congrFun e f) s
  generalize hr : readAll _ _ s = y at e
  have hy : y.2.2.Sound := by
    rw [← hr]
    refine readAll_sound (fun i s h => ?_) h
    split
    rename_i e
    exact ((readbackRow_sound h).snd_snd e).triple
  obtain ⟨d, us, u⟩ := y
  exact hy.of_triple e

theorem almSnap_sound {n a} (h : s.Sound) : (almSnap n a s).2.2.Sound := by
  unfold almSnap
  split
  · rename_i e
    have h1 := (fetchMicro_sound h).snd e
    extract_lets stored s1 v1
    have hs1 : s1.Sound := almCapture_sound (satF_sound h1)
    split
    · exact h1
    · exact h1
    · exact (almCapture_sound (satF_sound h1)).triple
    · exact (devLogM_sound hs1).triple

theorem snapAlm_sound {n} (h : s.Sound) : (snapAlm n s).2.2.Sound := by
  refine of_function snapAlm (P := fun g => (g n s).2.2.Sound) fun g e => ?_
  unfold snapAlm at e
  have e := congrFun (congrFun e n) s
  generalize hr : readAll _ _ s = y at e
  have hy : y.2.2.Sound := by
    rw [← hr]
    exact readAll_sound (fun _ _ h => almSnap_sound h) h
  obtain ⟨d, us, u⟩ := y
  exact hy.of_triple e

theorem isrSnap_sound {isr n a} (h : s.Sound) : (isrSnap isr n a s).2.2.Sound := by
  unfold isrSnap
  extract_lets w s1
  have hs1 : s1.Sound := satF_sound h
  split
  · exact (satF_sound h).triple
  · exact (devLogM_sound hs1).triple
  · exact h

theorem snapIsr_sound {isr n} (h : s.Sound) : (snapIsr isr n s).2.2.Sound := by
  refine of_function snapIsr (P := fun g => (g isr n s).2.2.Sound) fun g e => ?_
  unfold snapIsr at e
  have e := congrFun (congrFun (congrFun e isr) n) s
  generalize hr : readAll _ _ s = y at e
  have hy : y.2.2.Sound := by
    rw [← hr]
    exact readAll_sound (fun _ _ h => isrSnap_sound h) h
  obtain ⟨d, us, u⟩ := y
  exact hy.of_triple e

theorem snapSpad_sound {n} (h : s.Sound) : (snapSpad n s).2.2.Sound := by
  refine of_function snapSpad (P := fun g => (g n s).2.2.Sound) fun g e => ?_
  unfold snapSpad at e
  have e := congrFun (congrFun e n) s
  generalize hr : readAll _ _ s = y at e
  have hy : y.2.2.Sound := by
    rw [← hr]
    refine readAll_sound (fun i s h => ?_) h
    extract_lets w
    split
    rename_i e
    have h1 := (secWord_sound h).snd_snd e
    exact ite_sound h1 (spadNote_sound h1)
  obtain ⟨d, us, u⟩ := y
  exact hy.of_triple e

theorem snapSection_sound {isr n f sel} (h : s.Sound) : (snapSection isr n f sel s).2.2.2.Sound := by
  unfold snapSection
  extract_lets on
  split
  rename_i e
  have h0 := (ite_sound_snd_snd (snapRows_sound h) h).snd_snd e
  extract_lets d1 d2 d3
  split
  rename_i e
  have h4 := (ite_sound_snd_snd (snapAlm_sound h0) h0).snd_snd e
  split
  rename_i e
  have h5 := (ite_sound_snd_snd (snapIsr_sound h4) h4).snd_snd e
  split
  rename_i e
  exact (ite_sound_snd_snd (snapSpad_sound h5) h5).snd_snd e

theorem snapshot_sound {isr j p} (h : s.Sound) : (snapshot isr j p s).2.2.Sound := by
  unfold snapshot
  extract_lets n fs head
  split
  rename_i e
  refine (foldl_sound_third h fun x hx r _ => ?_).third e
  obtain ⟨d, pe, other, s⟩ := x
  dsimp only
  have h1 := snapSection_sound (isr := isr) (n := n) (f := fs.getD r 0) (sel := rbSel j) (s := s) hx
  generalize snapSection _ _ _ _ _ = y at h1 ⊢
  exact h1

theorem surveyClear_sound {n} (h : s.Sound) : (surveyClear n s).Sound :=
  foldl_sound h fun _ h1 _ _ => rowYield_sound h1

theorem rbAdvance_sound {id} (h : s.Sound) : (rbAdvance id s).Sound := by
  unfold rbAdvance
  split
  · exact h
  · extract_lets n dark s1
    have hs1 : s1.Sound := surveyClear_sound (hubBegin_sound h)
    split
    · refine ite_sound (badParam_sound h) ?_
      refine ite_sound (foldl_sound h (fun _ h1 _ _ => postWake_sound h1)) ?_
      exact ite_sound (hubRequest_sound (updJob_sound (keepsJob_same (fun _ => rfl) fun _ => rfl) h)) h
    · exact ite_sound (updJob_sound (keepsJob_same (fun _ => rfl) fun _ => rfl) hs1) h
    · exact h

theorem execReadback_sound {r} (h : s.Sound) : Goes (execReadback r s) := by
  unfold execReadback
  split
  · refine ite_goes (startOp_sound (fun a01 s1 h1 => ?_) h) ?_
    · split
      · exact badParam_sound h1
      · refine ite_sound (badParam_sound h1) ?_
        exact ite_sound (badParam_sound h1) (rbAdvance_sound (rbAdvance_sound (runJob_sound h1)))
    · split
      · exact ok_sound (rbAdvance_sound (rbAdvance_sound h))
      · exact ok_sound h
  · split
    · exact ok_sound (rbAdvance_sound (rbAdvance_sound h))
    · exact ok_sound h

theorem endReadback_sound {j st det} (h : s.Sound) : (endReadback j st det s).Sound := by
  unfold endReadback
  extract_lets n
  exact flrResume_sound (actPending_sound (finishWord_sound (hubEnd_sound (completeJob_sound h))))

theorem snapLines_sound {id dst n} (h : s.Sound) : (snapLines id dst n s).2.Sound := by
  induction n generalizing s with
  | zero => exact h
  | succ n ih =>
    unfold snapLines
    split
    · exact h
    · refine ite_sound_snd h ?_
      extract_lets k
      split
      · rename_i e
        exact (engineAccess_sound h).snd e
      · rename_i e
        extract_lets s1
        have hs1 : s1.Sound := updJob_sound (keepsJob_same (fun _ => rfl) fun _ => rfl) ((engineAccess_sound h).snd e)
        refine ih ?_
        split
        · exact incF_sound hs1
        · exact hs1
      · rename_i e
        exact (failMove_sound ((engineAccess_sound h).snd e)).pair

theorem execReadbackCopyDone_sound {n isr late} (h : s.Sound) : Goes (execReadbackCopyDone n isr late s) := by
  unfold execReadbackCopyDone
  split
  · refine ite_goes (ok_sound h) ?_
    extract_lets s1
    have hs1 : s1.Sound := by
      refine ite_sound ?_ h
      split
      rename_i e
      exact updJob_sound (keepsJob_same (fun _ => rfl) fun _ => rfl) ((snapshot_sound h).snd_snd e)
    split
    · exact ok_sound hs1
    · refine ite_goes ?_ ?_
      · extract_lets s2 s3
        have hs2 : s2.Sound := hostStore_sound hs1
        refine ok_sound (endReadback_sound ?_)
        unfold s3
        split
        · exact incF_sound hs2
        · exact hs2
      · extract_lets dst
        split
        rename_i e
        have h2 := (snapLines_sound hs1).snd e
        refine ite_goes ?_ (ok_sound h2)
        split
        · exact ok_sound h2
        · split
          · exact ok_sound (endReadback_sound h2)
          · exact ok_sound (endReadback_sound (lateNoc_sound h2))
  · exact ok_sound h

end Sys2Proof.Machine
end

section
/-! SUPPORT. The invariant of O60: the packets. -/
set_option Elab.async false
namespace Sys2Proof.Machine
open Sys2Proof

variable {s t : State}

theorem inject'_sound {x} (h : s.Sound) : (inject' x s).Sound := by
  unfold inject'
  split
  · extract_lets q src u
    have hu : u.Sound := tgtLog_sound h
    refine ite_sound h ?_
    split
    · exact hu.same
    · exact h
    · exact submit_sound h
  · exact ite_sound (submit_sound h) h
  · exact ite_sound (sendPacket_sound h) h
  · exact h

theorem parityErrors_sound {r port k p} (h : s.Sound) : (parityErrors r port k p s).Sound := by
  induction k generalizing s with
  | zero => exact h
  | succ k ih => exact ih (nocCapture_sound (satF_sound h))

theorem enterRouter_sound {r port errs p pass lose} (hpass : ∀ (s : State), s.Sound → (pass s).Sound)
    (hlose : ∀ (s : State), s.Sound → (lose s).Sound) (h : s.Sound) :
      (enterRouter r port errs p pass lose s).Sound := by
  unfold enterRouter
  extract_lets s1 s2
  have hs1 : s1.Sound := satF_sound (parityErrors_sound h)
  have hs2 : s2.Sound := nocCapture_sound (hlose _ hs1)
  exact ite_sound (devLogM_sound hs2) (hpass _ hs1)

theorem hopFails_sound {p port} (h : s.Sound) : (hopFails p port s).Sound := by
  unfold hopFails
  extract_lets x
  refine ite_sound ?_ (routeDiscard_sound h)
  split
  · rename_i e
    have h1 := (requestFails_sound h).snd e
    exact endOutst_sound h1
  · rename_i e
    have h1 := (requestFails_sound h).snd e
    exact h1

theorem tookTurn_sound {o p} (h : s.Sound) : (tookTurn o p s).Sound := by
  unfold tookTurn
  exact h.same

theorem movePacket_sound {i errs} (h : s.Sound) : (movePacket i errs s).Sound := by
  unfold movePacket
  split
  · exact h
  · extract_lets gone u
    have hgone : ∀ (s : State), s.Sound → (gone s).Sound := fun s1 h1 => h1.same
    have hu : u.Sound := tookTurn_sound (hgone _ h)
    refine ite_sound (ite_sound h (enterRouter_sound (fun _ h1 => h1.same) (fun _ h1 => hgone _ h1) h)) ?_
    split
    · exact hopFails_sound (hgone _ h)
    · exact ite_sound h hu.same
    · refine ite_sound h ?_
      exact enterRouter_sound (fun _ h1 => h1.same) (fun _ h1 => failPort_sound (hgone _ h1)) (tookTurn_sound h)

theorem execNocHop_sound {x errs upset} (h : s.Sound) : Goes (execNocHop x errs upset s) := by
  unfold execNocHop
  extract_lets s1
  have hs1 : s1.Sound := by
    unfold s1
    split
    · exact ite_sound h h.same
    · exact h
  split
  · exact ok_sound (pump_sound (movePacket_sound hs1))
  · exact ok_sound (inject'_sound hs1)

theorem serveRequest_sound {p q bad} (h : s.Sound) : (serveRequest p q bad s).2.Sound := by
  unfold serveRequest
  extract_lets d reply s1
  have hreply : ∀ (st : ℕ) (data : List Byte) (po : ℕ) (s : State), s.Sound → (reply st data po s).2.Sound :=
    fun st1 data1 po1 s2 h1 => (respond_sound (returnCredit_sound h1)).pair
  have hs1 : s1.Sound := accepted_sound h
  refine ite_sound_snd (ite_sound_snd (hreply _ _ _ _ hs1) ?_) ?_
  · split
    · split
      · rename_i e1
        have h1 := (serveMem_sound hs1).snd e1
        exact hreply _ _ _ _ h1
      · rename_i e1
        have h1 := (serveMem_sound hs1).snd e1
        exact h1
    · exact hs1
  · refine ite_sound_snd (hreply _ _ _ _ h) ?_
    exact ite_sound_snd (hreply _ _ _ _ h) ((postWake_sound (accepted_sound (updDom_sound h))).pair)

theorem serveStart_sound {p id} (h : s.Sound) : (serveStart p id s).2.Sound := by
  unfold serveStart
  extract_lets d reply s1 s2
  have hreply : ∀ (st : ℕ) (s : State), s.Sound → (reply st s).2.Sound := fun st1 s3 h1 =>
    (respond_sound (returnCredit_sound h1)).pair
  have hs1 : s1.Sound := accepted_sound h
  have hs2 : s2.Sound := accepted_sound (updDom_sound h)
  refine ite_sound_snd ?_ ?_
  · split
    · exact hreply _ _ (startImage_sound (updJob_sound (keepsJob_same (fun _ => rfl) fun _ => rfl) hs1))
    · exact hreply _ _ hs1
  · exact ite_sound_snd (hreply _ _ h) (ite_sound_snd (hreply _ _ h) ((ite_sound hs2 (postWake_sound hs2)).pair))

theorem serveRegister_sound {p m wr a be v} (h : s.Sound) : (serveRegister p m wr a be v s).Sound := by
  refine of_function serveRegister (P := fun g => (g p m wr a be v s).Sound) fun g e => ?_
  unfold serveRegister at e
  subst e
  beta_reduce
  extract_lets o en reply
  have hreply : ∀ st x (s : State), s.Sound → (reply st x s).Sound :=
    fun _ _ _ h => sendPacket_sound (returnCredit_sound h)
  clear_value o en reply
  split
  · split
    rename_i e
    exact hreply _ _ _ ((emptyJudge_sound h).snd e)
  · split
    rename_i e
    have h1 := (regJudge_sound h).snd e
    refine ite_sound (hreply _ _ _ h1) (ite_sound (hreply _ _ _ (regWrite_sound h1)) ?_)
    split
    rename_i e
    exact hreply _ _ _ ((regRead_sound h1).snd e)

theorem dropHalf_sound {h1} (h : s.Sound) : (dropHalf h1 s).Sound := by
  unfold dropHalf
  exact h.same

theorem keepHalf_sound {p} (h : s.Sound) : (keepHalf p s).Sound := by
  unfold keepHalf
  exact h.same

theorem gotRsp_sound {p st has po} (h : s.Sound) : (gotRsp p st has po s).Sound := by
  unfold gotRsp
  split
  · exact satF_sound h
  · refine ite_sound (satF_sound (updOutst_sound h)) ?_
    refine ite_sound ?_ (ite_sound (endOutst_sound (wakeTimedOut_sound h)) (endOutst_sound h))
    split
    · split
      · exact endOutst_sound h
      · exact h
    · exact updOutst_sound h

theorem checkDat_sound {p e} (h : s.Sound) : (checkDat p e s).Sound :=
  ite_sound (satF_sound h) (devLogM_sound (nocCapture_sound (satF_sound (satF_sound h))))

theorem actSnp_sound {d k v} (h : s.Sound) : (actSnp d k v s).Sound := by
  unfold actSnp
  split
  · exact lineInvalidate_sound h
  · exact entryInvalidate_sound h
  · exact invalidateAll_sound h

theorem servePair_sound {p q bad} (h : s.Sound) : (servePair p q bad s).2.Sound := by
  unfold servePair
  split
  · rename_i e
    have h1 := (serveRequest_sound h).snd e
    exact h1
  · rename_i e
    have h1 := (serveRequest_sound h).snd e
    exact h1.same

theorem deliverPacket_sound {p e} (h : s.Sound) : (deliverPacket p e s).2.Sound := by
  unfold deliverPacket
  split
  · refine ite_sound_snd ?_ (serveRequest_sound h)
    split
    · split
      · exact servePair_sound (dropHalf_sound h)
      · exact h
    · exact (keepHalf_sound h).pair
  · exact serveStart_sound h
  · extract_lets s1 bad p'
    have hs1 : s1.Sound := checkDat_sound h
    refine ite_sound_snd ?_ ?_
    · split
      · split
        · exact servePair_sound (dropHalf_sound hs1)
        · exact hs1
      · exact (keepHalf_sound hs1).pair
    · split
      · split
        · exact (endOutst_sound hs1).pair
        · exact (keepHalf_sound hs1).pair
      · exact hs1
  · exact (gotRsp_sound h).pair
  · exact ite_sound_snd h ((serveRegister_sound h).pair)
  · exact (endOutst_sound h).pair
  · exact (sendPacket_sound (actSnp_sound h)).pair
  · exact (acknowledge_sound h).pair

theorem execNocDeliver_sound {i e} (h : s.Sound) : Goes (execNocDeliver i e s) := by
  unfold execNocDeliver
  split
  · exact ok_sound h
  · refine ite_goes (ok_sound h) ?_
    split
    · rename_i e2
      have h1 := (deliverPacket_sound h).snd e2
      exact ok_sound (pump_sound (ite_sound h1.same h1))

theorem dropAccess_sound {src} (h : s.Sound) : (dropAccess src s).Sound := by
  unfold dropAccess
  exact h.same

theorem execResponseTimeout_sound {src tid} (h : s.Sound) : Goes (execResponseTimeout src tid s) := by
  unfold execResponseTimeout
  refine ite_goes (ok_sound h) ?_
  split
  · exact ite_goes (ok_sound h) (ok_sound (pump_sound (endOutst_sound (timedOut_sound h))))
  · exact ite_goes (ok_sound ((dropAccess_sound h).same)) (ok_sound h)

theorem execOrphanTimeout_sound {d src tid} (h : s.Sound) : Goes (execOrphanTimeout d src tid s) := by
  unfold execOrphanTimeout
  refine ite_goes (ok_sound h) ?_
  split
  · exact ite_goes (ok_sound (nocCapture_sound (satF_sound (dropHalf_sound h)))) (ok_sound h)
  · exact ok_sound h

theorem resendHeld_sound {e} (h : s.Sound) : (resendHeld e s).Sound := by
  unfold resendHeld
  split
  · extract_lets s1
    have hs1 : s1.Sound := h.same
    split
    · exact stackEdge_sound hs1
    · exact ite_sound hs1 (ite_sound hs1.same (ite_sound (satF_sound hs1.same) (postWake_sound (updDom_sound hs1))))

theorem execRetryResend_sound {src tid} (h : s.Sound) : Goes (execRetryResend src tid s) := by
  unfold execRetryResend
  split
  · refine ite_goes (ok_sound h) ?_
    refine ite_goes ?_ ?_
    · exact ok_sound (pump_sound (endOutst_sound (wakeTimedOut_sound h)))
    · extract_lets e
      refine ite_goes (ok_sound h) ?_
      refine ite_goes (ok_sound (sendRequest_sound (updOutst_sound h))) ?_
      exact ok_sound (pump_sound (endOutst_sound (requestFails_sound h)))
  · split
    · exact ok_sound (resendHeld_sound h)
    · exact ok_sound h

end Sys2Proof.Machine
end

section
/-! SUPPORT. The invariant of O60: security. -/
set_option Elab.async false
namespace Sys2Proof.Machine
open Sys2Proof

variable {s t : State}

theorem loadIr_sound {code dr} (h : s.Sound) : (loadIr code dr s).Sound := by
  unfold loadIr
  exact h.same

theorem takeBalls_sound {code k scan cells upd} (h : s.Sound) : (takeBalls code k scan cells upd s).Sound :=
  ite_sound h.same (loadIr_sound h)

theorem execTapReset_sound (h : s.Sound) : Goes (execTapReset s) := ok_sound h.same

theorem execExtest_sound {cells upd} (h : s.Sound) : Goes (execExtest cells upd s) := ok_sound (takeBalls_sound h)

theorem execSamplePreload_sound {cells upd} (h : s.Sound) : Goes (execSamplePreload cells upd s) :=
  ok_sound ((loadIr_sound h).same)

theorem execIdcode_sound (h : s.Sound) : Goes (execIdcode s) := ok_sound (loadIr_sound h)

theorem execHighz_sound (h : s.Sound) : Goes (execHighz s) := ok_sound (takeBalls_sound h)

theorem execClamp_sound (h : s.Sound) : Goes (execClamp s) := ok_sound (takeBalls_sound h)

theorem execExtestPulse_sound {cells upd} (h : s.Sound) : Goes (execExtestPulse cells upd s) :=
  ok_sound (takeBalls_sound h)

theorem execExtestTrain_sound {cells upd} (h : s.Sound) : Goes (execExtestTrain cells upd s) :=
  ok_sound (takeBalls_sound h)

theorem execBypass_sound (h : s.Sound) : Goes (execBypass s) := ok_sound (loadIr_sound h)

theorem execDbgChal_sound (h : s.Sound) : Goes (execDbgChal s) := by
  unfold execDbgChal
  refine ite_goes ?_ ?_
  · split
    · rename_i e
      have h1 := (draw_sound h).snd e
      exact ok_sound ((loadIr_sound h1).same)
  · exact ok_sound (loadIr_sound h)

theorem execDbgResp_sound {v} (h : s.Sound) : Goes (execDbgResp v s) := by
  unfold execDbgResp
  extract_lets s1 pass s2 level s3
  have hs1 : s1.Sound := loadIr_sound h
  have hs2 : s2.Sound := hs1.same
  have hs3 : s3.Sound := setF_sound hs2
  refine ite_goes (ok_sound hs1) ?_
  exact ite_goes (ok_sound (ite_sound (setF_sound hs3) hs3)) (ok_sound (satF_sound hs2.same))

theorem execDbgStat_sound (h : s.Sound) : Goes (execDbgStat s) := ok_sound (loadIr_sound h)

theorem execDbgAcc_sound {v} (h : s.Sound) : Goes (execDbgAcc v s) := by
  unfold execDbgAcc
  extract_lets s1 wr level u
  have hs1 : s1.Sound := loadIr_sound h
  exact ite_goes (ok_sound hs1) (ite_goes (ok_sound hs1.same) (ok_sound hs1.same))

theorem dbgMemory_sound {r node wr a be v} (h : s.Sound) : (dbgMemory r node wr a be v s).2.Sound := by
  unfold dbgMemory
  refine ite_sound_snd h ?_
  split
  · split
    · rename_i e1
      have h1 := (requestFails_sound h).snd e1
      exact h1
    · rename_i e1
      have h1 := (requestFails_sound h).snd e1
      exact (timedOut_sound h1).pair
  · refine ite_sound_snd ((tgtLog_sound h).pair) ?_
    split
    · rename_i e1
      have h1 := (serveMem_sound h).snd e1
      exact h1
    · rename_i e1
      have h1 := (serveMem_sound h).snd e1
      split
      · exact h1
      · exact (timedOut_sound (routeDiscard_sound h1)).pair

theorem dbgAccess_sound {a wr be v} (h : s.Sound) : (dbgAccess a wr be v s).2.Sound := by
  unfold dbgAccess
  split
  · exact (tgtLog_sound h).pair
  · exact ite_sound_snd h ((regAccess_sound h).pair)
  · exact dbgMemory_sound h

theorem execDbgAccDone_sound (h : s.Sound) : Goes (execDbgAccDone s) := by
  unfold execDbgAccDone
  split
  · exact ok_sound h
  · split
    · rename_i e1
      have h1 := (dbgAccess_sound h).snd e1
      exact ok_sound h1
    · rename_i e1
      have h1 := (dbgAccess_sound h).snd e1
      exact ok_sound h1.same

theorem reply_sound {t m} (h : s.Sound) : (reply t m s).Sound := by
  unfold reply
  exact h.same

theorem execSetEndpointId_sound {t eid} (h : s.Sound) : Goes (execSetEndpointId t eid s) :=
  ite_goes (ok_sound (reply_sound (ite_sound h h.same))) (ok_sound h)

theorem spdmReq_sound {t need act} (hact : ∀ (s : State), s.Sound → (act s).Sound) (h : s.Sound) :
    Goes (spdmReq t need act s) :=
  ite_goes (ite_goes (ok_sound (reply_sound h)) (ok_sound (hact _ h))) (ok_sound h)

theorem setConn_sound {t k} (h : s.Sound) : (setConn t k s).Sound := by
  unfold setConn
  exact h.same

theorem execGetVersion_sound {t} (h : s.Sound) : Goes (execGetVersion t s) :=
  spdmReq_sound (fun _ h1 => reply_sound (setConn_sound h1)) h

theorem execGetCapabilities_sound {t} (h : s.Sound) : Goes (execGetCapabilities t s) :=
  spdmReq_sound (fun _ h1 => ite_sound (reply_sound (setConn_sound h1)) (reply_sound h1)) h

theorem execNegotiateAlgorithms_sound {t offered} (h : s.Sound) : Goes (execNegotiateAlgorithms t offered s) := by
  unfold execNegotiateAlgorithms
  refine spdmReq_sound (fun s1 h1 => ?_) h
  exact ite_sound (reply_sound h1) (ite_sound (reply_sound (setConn_sound h1)) (reply_sound h1))

theorem identified_sound {t act} (hact : ∀ (s : State), s.Sound → (act s).Sound) (h : s.Sound) :
    (identified t act s).Sound :=
  ite_sound (hact _ h) (reply_sound h)

theorem execGetDigests_sound {t} (h : s.Sound) : Goes (execGetDigests t s) :=
  spdmReq_sound (fun _ h1 => identified_sound (fun _ h2 => reply_sound h2) h1) h

theorem execGetCertificate_sound {t slot off len} (h : s.Sound) : Goes (execGetCertificate t slot off len s) := by
  unfold execGetCertificate
  refine spdmReq_sound (fun s1 h1 => ?_) h
  exact identified_sound (fun _ h2 => ite_sound (reply_sound h2) (reply_sound h2)) h1

theorem signed_sound (h : s.Sound) : (signed s).2.2.Sound := by
  unfold signed
  split
  · rename_i e
    have h1 := (draw_sound h).snd e
    split
    · rename_i e1
      have h2 := (draw_sound h1).snd e1
      split
      · rename_i e2
        have h3 := (lodestarSign_sound h2).snd e2
        exact h3

theorem execChallenge_sound {t slot summary} (h : s.Sound) : Goes (execChallenge t slot summary s) := by
  unfold execChallenge
  refine ite_goes (ok_sound h) ?_
  refine spdmReq_sound (fun s1 h1 => ?_) h
  refine ite_sound (reply_sound h1) ?_
  refine ite_sound (reply_sound h1) ?_
  exact reply_sound (signed_sound (ite_sound_snd h1 (ite_sound_snd ((draw_sound h1).pair) h1)))

theorem execGetMeasurements_sound {t op sign} (h : s.Sound) : Goes (execGetMeasurements t op sign s) := by
  unfold execGetMeasurements
  refine ite_goes (ok_sound h) ?_
  refine spdmReq_sound (fun s1 h1 => ?_) h
  exact ite_sound (reply_sound h1) (ite_sound (reply_sound h1) (reply_sound (signed_sound h1)))

theorem execSpdmUnsupported_sound {t} (h : s.Sound) : Goes (execSpdmUnsupported t s) :=
  spdmReq_sound (fun _ h1 => reply_sound h1) h

theorem execSpdmBusy_sound {t} (h : s.Sound) : Goes (execSpdmBusy t s) := spdmReq_sound (fun _ h1 => reply_sound h1) h

end Sys2Proof.Machine
end

section
/-! SUPPORT. The invariant of O60: the commands and the step. -/
set_option Elab.async false
namespace Sys2Proof.Machine
open Sys2Proof

variable {s t : State}

/-- Every command goes on, to a state that meets the invariant. -/
theorem exec_sound {c : Instr} (h : s.Sound) : Goes (exec c s) := by
  cases c with
  | peExecute => exact execPeExecute_sound h
  | nlatchDelivery => exact execNlatchDelivery_sound h
  | ueReport => exact execUeReport_sound h
  | nextWord => exact execNextWord_sound h
  | jump => exact execJump_sound h
  | microCall => exact execMicroCall_sound h
  | microReturn => exact execMicroReturn_sound h
  | branchAny => exact execBranchAny_sound h
  | branchNone => exact execBranchNone_sound h
  | loopC0 => exact execLoopC0_sound h
  | loopC1 => exact execLoopC1_sound h
  | dispatch => exact execDispatch_sound h
  | endWord => exact execEndWord_sound h
  | holdWord => exact execHoldWord_sound h
  | branchMflag => exact execBranchMflag_sound h
  | routineStart => exact execRoutineStart_sound h
  | routineComplete => exact execRoutineComplete_sound h
  | yieldComplete => exact execYieldComplete_sound h
  | arrayTrapRecord => exact execArrayTrapRecord_sound h
  | soundingResult => exact execSoundingResult_sound h
  | censusResult => exact execCensusResult_sound h
  | treeMismatch => exact execTreeMismatch_sound h
  | censusMismatch => exact execCensusMismatch_sound h
  | haloAck => exact execHaloAck_sound h
  | xpIdle => exact execXpIdle_sound h
  | lda => exact execLda_sound h
  | ldb => exact execLdb_sound h
  | ldab => exact execLdab_sound h
  | step => exact execStep_sound h
  | stepLda => exact execStepLda_sound h
  | stepLdb => exact execStepLdb_sound h
  | stepLdab => exact execStepLdab_sound h
  | swap => exact execSwap_sound h
  | commit => exact execCommit_sound h
  | treset => exact execTreset_sound h
  | wpgo => exact execWpgo_sound h
  | wpwait => exact execWpwait_sound h
  | wpTransferEnd => exact execWpTransferEnd_sound h
  | wordTimeComplete => exact execWordTimeComplete_sound h
  | divideComplete => exact execDivideComplete_sound h
  | sutorNop => exact execSutorNop_sound h
  | fadd => exact execFadd_sound h
  | fsub => exact execFsub_sound h
  | fmul => exact execFmul_sound h
  | fma => exact execFma_sound h
  | fmin => exact execFmin_sound h
  | fmax => exact execFmax_sound h
  | fabs => exact execFabs_sound h
  | fcmpeq => exact execFcmpeq_sound h
  | fcmplt => exact execFcmplt_sound h
  | fcmple => exact execFcmple_sound h
  | cvt => exact execCvt_sound h
  | imul => exact execImul_sound h
  | imulh => exact execImulh_sound h
  | idiv => exact execIdiv_sound h
  | irem => exact execIrem_sound h
  | imin => exact execImin_sound h
  | imax => exact execImax_sound h
  | iabs => exact execIabs_sound h
  | icmpeq => exact execIcmpeq_sound h
  | icmplt => exact execIcmplt_sound h
  | dadd => exact execDadd_sound h
  | dsub => exact execDsub_sound h
  | accrd => exact execAccrd_sound h
  | accld => exact execAccld_sound h
  | accz => exact execAccz_sound h
  | smodeWrite => exact execSmodeWrite_sound h
  | yieldReq => exact execYieldReq_sound h
  | resume => exact execResume_sound h
  | abort => exact execAbort_sound h
  | parkQueue => exact execParkQueue_sound h
  | unpark => exact execUnpark_sound h
  | dropPark => exact execDropPark_sound h
  | seqHalt => exact execSeqHalt_sound h
  | preq => exact execPreq_sound h
  | hmsgInWrite => exact execHmsgInWrite_sound h
  | hmsgOutWrite => exact execHmsgOutWrite_sound h
  | timerMatch => exact execTimerMatch_sound h
  | edgeCfgWrite => exact execEdgeCfgWrite_sound h
  | haloClr => exact execHaloClr_sound h
  | leaseMapWrite => exact execLeaseMapWrite_sound h
  | injectArm => exact execInjectArm_sound h
  | rbDataRead => exact execRbDataRead_sound h
  | surveyBorrow => exact execSurveyBorrow_sound h
  | rowYield => exact execRowYield_sound h
  | stagingYield => exact execStagingYield_sound h
  | trapEntry => exact execTrapEntry_sound h
  | interruptEntry => exact execInterruptEntry_sound h
  | add => exact execAdd_sound h
  | sub => exact execSub_sound h
  | andOp => exact execAndOp_sound h
  | orOp => exact execOrOp_sound h
  | xorOp => exact execXorOp_sound h
  | andn => exact execAndn_sound h
  | sll => exact execSll_sound h
  | srl => exact execSrl_sound h
  | sra => exact execSra_sound h
  | ror => exact execRor_sound h
  | mul => exact execMul_sound h
  | mulh => exact execMulh_sound h
  | mulhu => exact execMulhu_sound h
  | div => exact execDiv_sound h
  | divu => exact execDivu_sound h
  | rem => exact execRem_sound h
  | remu => exact execRemu_sound h
  | seteq => exact execSeteq_sound h
  | setne => exact execSetne_sound h
  | setlt => exact execSetlt_sound h
  | setltu => exact execSetltu_sound h
  | min => exact execMin_sound h
  | max => exact execMax_sound h
  | minu => exact execMinu_sound h
  | maxu => exact execMaxu_sound h
  | perm => exact execPerm_sound h
  | clz => exact execClz_sound h
  | ctz => exact execCtz_sound h
  | popc => exact execPopc_sound h
  | addi => exact execAddi_sound h
  | andi => exact execAndi_sound h
  | ori => exact execOri_sound h
  | xori => exact execXori_sound h
  | setlti => exact execSetlti_sound h
  | setltui => exact execSetltui_sound h
  | lsi => exact execLsi_sound h
  | ld8 => exact execLd8_sound h
  | ld16 => exact execLd16_sound h
  | ld32 => exact execLd32_sound h
  | ld64 => exact execLd64_sound h
  | ld8s => exact execLd8s_sound h
  | ld16s => exact execLd16s_sound h
  | ld32s => exact execLd32s_sound h
  | st8 => exact execSt8_sound h
  | st16 => exact execSt16_sound h
  | st32 => exact execSt32_sound h
  | st64 => exact execSt64_sound h
  | ild => exact execIld_sound h
  | inPort => exact execInPort_sound h
  | outPort => exact execOutPort_sound h
  | loop => exact execLoop_sound h
  | beq => exact execBeq_sound h
  | bne => exact execBne_sound h
  | blt => exact execBlt_sound h
  | bge => exact execBge_sound h
  | bltu => exact execBltu_sound h
  | bgeu => exact execBgeu_sound h
  | beqz => exact execBeqz_sound h
  | bnez => exact execBnez_sound h
  | bltz => exact execBltz_sound h
  | bgez => exact execBgez_sound h
  | bgtz => exact execBgtz_sound h
  | blez => exact execBlez_sound h
  | jmp => exact execJmp_sound h
  | call => exact execCall_sound h
  | callr => exact execCallr_sound h
  | acall => exact execAcall_sound h
  | bfx => exact execBfx_sound h
  | bfi => exact execBfi_sound h
  | mfsr => exact execMfsr_sound h
  | mtsr => exact execMtsr_sound h
  | slli => exact execSlli_sound h
  | srli => exact execSrli_sound h
  | srai => exact execSrai_sound h
  | returnOp => exact execReturnOp_sound h
  | jr => exact execJr_sound h
  | eret => exact execEret_sound h
  | haltOp => exact execHaltOp_sound h
  | await => exact execAwait_sound h
  | asnd => exact execAsnd_sound h
  | brk => exact execBrk_sound h
  | shortNop => exact execShortNop_sound h
  | mov => exact execMov_sound h
  | shortAdd => exact execShortAdd_sound h
  | shortSub => exact execShortSub_sound h
  | shortAnd => exact execShortAnd_sound h
  | shortOr => exact execShortOr_sound h
  | shortXor => exact execShortXor_sound h
  | notOp => exact execNotOp_sound h
  | neg => exact execNeg_sound h
  | adds => exact execAdds_sound h
  | movi => exact execMovi_sound h
  | slls => exact execSlls_sound h
  | srls => exact execSrls_sound h
  | sras => exact execSras_sound h
  | shortClz => exact execShortClz_sound h
  | shortCtz => exact execShortCtz_sound h
  | shortPopc => exact execShortPopc_sound h
  | ldq => exact execLdq_sound h
  | stq => exact execStq_sound h
  | ldqp => exact execLdqp_sound h
  | stqp => exact execStqp_sound h
  | zxw => exact execZxw_sound h
  | sxw => exact execSxw_sound h
  | bswap => exact execBswap_sound h
  | rep => exact execRep_sound h
  | repi => exact execRepi_sound h
  | scratchpadPart => exact execScratchpadPart_sound h
  | spadStarve => exact execSpadStarve_sound h
  | sqDoorbell => exact execSqDoorbell_sound h
  | cqDoorbell => exact execCqDoorbell_sound h
  | descriptorFetch => exact execDescriptorFetch_sound h
  | descriptorArrival => exact execDescriptorArrival_sound h
  | descriptorFetchFail => exact execDescriptorFetchFail_sound h
  | nop => exact execNop_sound h
  | launch => exact execLaunch_sound h
  | dmaIn => exact execDmaIn_sound h
  | dmaOut => exact execDmaOut_sound h
  | copy => exact execCopy_sound h
  | dmaTransferEnd => exact execDmaTransferEnd_sound h
  | hostReadTimeout => exact execHostReadTimeout_sound h
  | almanacLoad => exact execAlmanacLoad_sound h
  | imageLoad => exact execImageLoad_sound h
  | sourceReadDone => exact execSourceReadDone_sound h
  | loadWriteDone => exact execLoadWriteDone_sound h
  | fabricLoad => exact execFabricLoad_sound h
  | fence => exact execFence_sound h
  | fenceRelease => exact execFenceRelease_sound h
  | watchSet => exact execWatchSet_sound h
  | power => exact execPower_sound h
  | chartUpdate => exact execChartUpdate_sound h
  | spare => exact execSpare_sound h
  | readback => exact execReadback_sound h
  | readbackCopyDone => exact execReadbackCopyDone_sound h
  | barrier => exact execBarrier_sound h
  | msixHoldoffEnd => exact execMsixHoldoffEnd_sound h
  | ringEnable => exact execRingEnable_sound h
  | ringDisable => exact execRingDisable_sound h
  | rgOwnerWrite => exact execRgOwnerWrite_sound h
  | flr => exact execFlr_sound h
  | vfDisable => exact execVfDisable_sound h
  | bar4Access => exact execBar4Access_sound h
  | registerWrite => exact execRegisterWrite_sound h
  | registerLineRequest => exact execRegisterLineRequest_sound h
  | stagingAccess => exact execStagingAccess_sound h
  | translatedRequest => exact execTranslatedRequest_sound h
  | chartFetchDone => exact execChartFetchDone_sound h
  | rawRequest => exact execRawRequest_sound h
  | hbmServe => exact execHbmServe_sound h
  | hotWindow => exact execHotWindow_sound h
  | hbmSeedWrite => exact execHbmSeedWrite_sound h
  | lineInvalidate => exact execLineInvalidate_sound h
  | entryInvalidate => exact execEntryInvalidate_sound h
  | invalidateAll => exact execInvalidateAll_sound h
  | acknowledge => exact execAcknowledge_sound h
  | nocHop => exact execNocHop_sound h
  | nocDeliver => exact execNocDeliver_sound h
  | responseTimeout => exact execResponseTimeout_sound h
  | orphanTimeout => exact execOrphanTimeout_sound h
  | retryResend => exact execRetryResend_sound h
  | routeWrite => exact execRouteWrite_sound h
  | epochSwitch => exact execEpochSwitch_sound h
  | epochSwitchDone => exact execEpochSwitchDone_sound h
  | routerGo => exact execRouterGo_sound h
  | routerWindowEnd => exact execRouterWindowEnd_sound h
  | linkEnable => exact execLinkEnable_sound h
  | signalDetect => exact execSignalDetect_sound h
  | trainDone => exact execTrainDone_sound h
  | alignDone => exact execAlignDone_sound h
  | bringupTimeout => exact execBringupTimeout_sound h
  | identFlit => exact execIdentFlit_sound h
  | nonce => exact execNonce_sound h
  | cert => exact execCert_sound h
  | sig => exact execSig_sound h
  | codewordReceive j lane w =>
    change Goes (execCodewordReceive j lane w s)
    exact execCodewordReceive_sound h
  | llFlit => exact execLlFlit_sound h
  | laneLoss => exact execLaneLoss_sound h
  | laneRetire => exact execLaneRetire_sound h
  | laneRetrain => exact execLaneRetrain_sound h
  | retrain => exact execRetrain_sound h
  | retrainDone => exact execRetrainDone_sound h
  | retrainFail => exact execRetrainFail_sound h
  | llSilence => exact execLlSilence_sound h
  | rttMeasure => exact execRttMeasure_sound h
  | haloFlitTx => exact execHaloFlitTx_sound h
  | haloFlitRx => exact execHaloFlitRx_sound h
  | tunnelCommand => exact execTunnelCommand_sound h
  | tunnelStart => exact execTunnelStart_sound h
  | tunnelWaitTimeout => exact execTunnelWaitTimeout_sound h
  | tunnelCommandDone => exact execTunnelCommandDone_sound h
  | tunnelRequest => exact execTunnelRequest_sound h
  | tunnelResponse => exact execTunnelResponse_sound h
  | linkPark => exact execLinkPark_sound h
  | parkAck => exact execParkAck_sound h
  | parkAckTimeout => exact execParkAckTimeout_sound h
  | linkWakeDetect => exact execLinkWakeDetect_sound h
  | reveilleDetect => exact execReveilleDetect_sound h
  | reveille => exact execReveille_sound h
  | reveilleEnd => exact execReveilleEnd_sound h
  | fleetIdWrite => exact execFleetIdWrite_sound h
  | laneModeWrite => exact execLaneModeWrite_sound h
  | announce => exact execAnnounce_sound h
  | announceTimer => exact execAnnounceTimer_sound h
  | candidateTimeout => exact execCandidateTimeout_sound h
  | syncInterval => exact execSyncInterval_sound h
  | sync => exact execSync_sound h
  | delayReq => exact execDelayReq_sound h
  | delayResp => exact execDelayResp_sound h
  | watchBell => exact execWatchBell_sound h
  | wDone => exact execWDone_sound h
  | watchModeWrite => exact execWatchModeWrite_sound h
  | arrive => exact execArrive_sound h
  | release => exact execRelease_sound h
  | barrierComplete => exact execBarrierComplete_sound h
  | barrierTimeout => exact execBarrierTimeout_sound h
  | fabClkWrite => exact execFabClkWrite_sound h
  | clockRestart => exact execClockRestart_sound h
  | clkLost => exact execClkLost_sound h
  | capture => exact execCapture_sound h
  | captureDone => exact execCaptureDone_sound h
  | fabRbDataRead => exact execFabRbDataRead_sound h
  | loadRelease => exact execLoadRelease_sound h
  | releaseStage => exact execReleaseStage_sound h
  | configScan => exact execConfigScan_sound h
  | pwrReq => exact execPwrReq_sound h
  | duskDrainEnd => exact execDuskDrainEnd_sound h
  | drainMaxExpiry => exact execDrainMaxExpiry_sound h
  | duskStepDone => exact execDuskStepDone_sound h
  | dawnStepDone => exact execDawnStepDone_sound h
  | dawnStepTimeout => exact execDawnStepTimeout_sound h
  | faultClear => exact execFaultClear_sound h
  | wakeN => exact execWakeN_sound h
  | pcieWake => exact execPcieWake_sound h
  | aonTimerMatch => exact execAonTimerMatch_sound h
  | governorUpdate => exact execGovernorUpdate_sound h
  | thermalTrip => exact execThermalTrip_sound h
  | offEntry => exact execOffEntry_sound h
  | sparePretestDone => exact execSparePretestDone_sound h
  | spareQuiesced => exact execSpareQuiesced_sound h
  | spareCopyDone => exact execSpareCopyDone_sound h
  | hbmRecal => exact execHbmRecal_sound h
  | hbmRecalDone => exact execHbmRecalDone_sound h
  | fwStage => exact execFwStage_sound h
  | fwStageDone => exact execFwStageDone_sound h
  | fwSwitch => exact execFwSwitch_sound h
  | fwSwitchDone => exact execFwSwitchDone_sound h
  | svnCommit => exact execSvnCommit_sound h
  | revoke0 => exact execRevoke0_sound h
  | fuseWriteDone => exact execFuseWriteDone_sound h
  | fatalError => exact execFatalError_sound h
  | domainReset => exact execDomainReset_sound h
  | domainResetDone => exact execDomainResetDone_sound h
  | partitionDefine => exact execPartitionDefine_sound h
  | partitionRemove => exact execPartitionRemove_sound h
  | partitionReset => exact execPartitionReset_sound h
  | partCmdDone => exact execPartCmdDone_sound h
  | aclLock => exact execAclLock_sound h
  | tapReset => exact execTapReset_sound h
  | extest => exact execExtest_sound h
  | samplePreload => exact execSamplePreload_sound h
  | idcode => exact execIdcode_sound h
  | highz => exact execHighz_sound h
  | clamp => exact execClamp_sound h
  | extestPulse => exact execExtestPulse_sound h
  | extestTrain => exact execExtestTrain_sound h
  | bypass => exact execBypass_sound h
  | dbgChal => exact execDbgChal_sound h
  | dbgResp => exact execDbgResp_sound h
  | dbgAcc => exact execDbgAcc_sound h
  | dbgAccDone => exact execDbgAccDone_sound h
  | dbgStat => exact execDbgStat_sound h
  | setEndpointId => exact execSetEndpointId_sound h
  | getVersion => exact execGetVersion_sound h
  | getCapabilities => exact execGetCapabilities_sound h
  | negotiateAlgorithms => exact execNegotiateAlgorithms_sound h
  | getDigests => exact execGetDigests_sound h
  | getCertificate => exact execGetCertificate_sound h
  | challenge => exact execChallenge_sound h
  | getMeasurements => exact execGetMeasurements_sound h
  | spdmUnsupported => exact execSpdmUnsupported_sound h
  | spdmBusy => exact execSpdmBusy_sound h
  | pwrGoodFall => exact execPwrGoodFall_sound
  | aonPowerUp => exact execAonPowerUp_sound
  | perstNFall => exact execPerstNFall_sound h
  | bootStart => exact execBootStart_sound h
  | bootStepDone => exact execBootStepDone_sound h
  | avsWrite => exact execAvsWrite_sound h
  | avsAck => exact execAvsAck_sound h
  | avsRetry => exact execAvsRetry_sound h
  | registerRead => exact execRegisterRead_sound h
  | treeEdge => exact execTreeEdge_sound h
  | pmaWordReceived => exact execPmaWordReceived_sound h
  | pmaWordSent => exact execPmaWordSent_sound h
  | codewordTransmit => exact execCodewordTransmit_sound h
  | hostReadCompletion => exact execHostReadCompletion_sound h
  | vfEnable => exact execVfEnable_sound h
  | stackTemperatureRead => exact execStackTemperatureRead_sound h
  | vddGpioRise => exact execVddGpioRise_sound h

/-- So does every step: the command at the front, or the passage of time. -/
theorem step_sound (h : s.Sound) : Goes (step s) := by
  unfold step
  split
  · exact ⟨tick s, rfl, tick_sound h⟩
  · exact exec_sound h.same

end Sys2Proof.Machine
end

section
namespace Sys2Proof.Proofs
open Sys2Proof Sys2Proof.Machine

/-- Settles O60: every function of the model that makes a state keeps the invariant, so every command and every step
does, and no command faults or is refused. -/
theorem stepKeepsTheState : Obligations.StepKeepsTheState := by
  unfold Obligations.StepKeepsTheState
  exact ⟨fun _ _ hok hnum => exec_sound ⟨hok, hnum⟩, fun _ hok hnum => step_sound ⟨hok, hnum⟩⟩

end Sys2Proof.Proofs
end

section
/-! SUPPORT. The registers that Logbook entries store: those of the Logbooks, of the functions and of the rings, and no
other (R344, R349, R549, R550). -/
namespace Sys2Proof.Machine
open Sys2Proof

variable {s t : State}

/-- A register that an entry of the device Logbook never stores. -/
structure Unlogged (g : Fld) : Prop where
  width : g.lo < 64
  notFunc : g.addr < 0x41200 ∨ 0x41400 ≤ g.addr
  notRing : g.addr < 0x80000 ∨ 0xC0000 ≤ g.addr
  notDlog : g.addr ≠ 0x208800

/-- Fields at different addresses are different fields. -/
theorem fldKey_ne_of_addr {g f : Fld} (hg : g.lo < 64) (hf : f.lo < 64) (h : g.addr ≠ f.addr) :
    fldKey g ≠ fldKey f := by
  unfold fldKey
  omega

section
variable {g : Fld} (hg : Unlogged g)
include hg

theorem Unlogged.getF_setRing {f : Fld} {r : Nat} (hr : r < 8192) (hf : f.lo < 64) (hlo : 0x80000 + 0x20 * r ≤ f.addr)
    (hhi : f.addr < 0x80020 + 0x20 * r) (v : Nat) (s : State) : getF (setF f v s) g = getF s g := by
  have := hg.notRing
  exact getF_setF_other v s (fldKey_ne_of_addr hg.width hf (by omega))

theorem Unlogged.getF_ringWrite {r : Nat} (hr : r < 8192) (a b : Nat) (s : State) :
    getF (ringWrite r a b s) g = getF s g := by
  have tail (v : Nat) (u : State) : getF (setF (fRING_PTR_TAIL r) v u) g = getF u g :=
    hg.getF_setRing hr (by decide : 16 < 64) (by simp only [fRING_PTR_TAIL]; omega)
      (by simp only [fRING_PTR_TAIL]; omega) v u
  have phase (v : Nat) (u : State) : getF (setF (fRING_PTR_PHASE r) v u) g = getF u g :=
    hg.getF_setRing hr (by decide : 63 < 64) (by simp only [fRING_PTR_PHASE]; omega)
      (by simp only [fRING_PTR_PHASE]; omega) v u
  unfold ringWrite
  dsimp only
  rw [getF_congr g (announce_regs ..)]
  split
  · rw [phase, tail]
    rfl
  · rw [tail]
    rfl

theorem Unlogged.getF_countLost {r : Nat} (hr : r < 8192) (k : Nat) (m : Tbl Nat) (s : State) :
    getF (satF (fRING_STAT_EVT_LOST r) k { s with evtLost := m }) g = getF s g :=
  hg.getF_setRing hr (by decide : 32 < 64) (by simp only [fRING_STAT_EVT_LOST]; omega)
    (by simp only [fRING_STAT_EVT_LOST]; omega) _ _

theorem Unlogged.getF_postEntry {f : Nat} (hf : f < 64) (a b : Nat) (s : State) :
    getF (postEntry f a b s) g = getF s g := by
  have hring : getF s (fFUNC_CFG_EVT_RING f) < 8192 := getF_lt s _
  unfold postEntry
  dsimp only
  split
  · generalize hu : (if tget 0 s.evtLost (getF s (fFUNC_CFG_EVT_RING f)) = 0 then s else _) = u
    have announced : getF u g = getF s g := by
      rw [← hu]
      split
      · rfl
      · exact (getF_with_evtLost ..).trans (hg.getF_ringWrite hring ..)
    split
    · exact (hg.getF_countLost hring ..).trans announced
    · exact (hg.getF_ringWrite hring ..).trans announced
  · split
    · exact hg.getF_countLost hring ..
    · have := hg.notFunc
      exact getF_setF_other _ _ (fldKey_ne_of_addr hg.width (by decide : 16 < 64)
        (by simp only [fFUNC_STAT_EVT_LOST]; omega))

theorem Unlogged.getF_postEvent {f : Nat} (hf : f < 64) (ty src data : Nat) (s : State) :
    getF (postEvent f ty src data s) g = getF s g := by
  unfold postEvent
  split
  · rfl
  · split
    · rfl
    · exact hg.getF_postEntry hf ..

theorem Unlogged.getF_dlogPtr {f : Fld} (hf : f.lo < 64) (h : f.addr = 0x208800) (k : Nat) (s : State) :
    getF (incF f k s) g = getF s g :=
  getF_setF_other _ _ (fldKey_ne_of_addr hg.width hf fun e => hg.notDlog (e.trans h))

theorem Unlogged.getF_devLogFor {vfs : List Nat} (hvfs : ∀ v ∈ vfs, v < 64)
    (cls sev status master node field wh cap : Nat)
    (s : State) : getF (devLogFor vfs cls sev status master node field wh cap s) g = getF s g := by
  have hfuncs : ∀ v ∈ uniq (vfs.filter (· != 0)), v < 64 := fun v hv =>
    hvfs v (List.mem_filter.mp (mem_uniq hv)).1
  unfold devLogFor
  dsimp only
  refine foldl_keeps (P := fun t => getF t g = getF s g) _ ?_ fun _ h v hv =>
    (hg.getF_postEvent (hfuncs v hv) ..).trans h
  rw [hg.getF_postEvent (by decide), hg.getF_dlogPtr (by decide) rfl, hg.getF_dlogPtr (by decide) rfl]
  rfl

/-- An entry about a node that is no sequencer's. -/
theorem Unlogged.getF_devLogM {node : Nat} (hnode : 64 ≤ node) (cls sev status master wh cap : Nat) (s : State) :
    getF (devLogM cls sev status master node wh cap s) g = getF s g := by
  refine hg.getF_devLogFor (fun v hv => ?_) ..
  rw [if_neg (by omega), List.append_nil] at hv
  exact masterFunc_lt (Option.mem_toList.mp hv)

end

end Sys2Proof.Machine
end

section
/-! SUPPORT. Reads and writes of a SECDED memory without errors: what is read is what is stored, and a write stores the
enabled bytes (R366). -/
namespace Sys2Proof.Machine
open Sys2Proof

variable {s t : State}

theorem mem_wordsOf {a : Nat} {en : List Bool} {w : Nat} : w ∈ wordsOf a en ↔ ∃ i < 8, wordEn a en w i = true := by
  unfold wordsOf
  simp only [List.mem_filter, List.mem_map, List.mem_range, List.any_eq_true]
  constructor
  · rintro ⟨-, i, hi, h⟩
    exact ⟨i, hi, h⟩
  · rintro ⟨i, hi, h⟩
    have hen : a ≤ 8 * w + i ∧ 8 * w + i - a < en.length := by
      simp only [wordEn, Bool.and_eq_true, decide_eq_true_eq] at h
      refine ⟨h.1, Decidable.byContradiction fun hlen => ?_⟩
      rw [List.getD_eq_default _ _ (by omega)] at h
      exact absurd h.2 (by decide)
    exact ⟨⟨w - a / 8, by omega, by omega⟩, i, hi, h⟩

/-- The byte at x lies in a word that the access touches when its enable is set. -/
theorem div_mem_wordsOf {a : Nat} {en : List Bool} {x : Nat} (ha : a ≤ x) (hx : en.getD (x - a) false = true) :
    x / 8 ∈ wordsOf a en := by
  refine mem_wordsOf.mpr ⟨x % 8, Nat.mod_lt _ (by decide), ?_⟩
  have hword : 8 * (x / 8) + x % 8 = x := Nat.div_add_mod x 8
  rw [wordEn, hword, hx, decide_eq_true ha]
  rfl

theorem tlook_map_mem {α : Type} {f : Nat → α} {l : List Nat} {w : Nat} (h : w ∈ l) :
    tlook (l.map fun w => (w, f w)) w = some (f w) := by
  induction l with
  | nil => cases h
  | cons x l ih =>
    rw [List.map_cons, tlook]
    split
    · next e => rw [e]
    · next e => exact ih ((List.mem_cons.mp h).resolve_left fun k => e k.symm)

/-- A fold whose steps add an item each and leave the rest. -/
theorem foldl_collects {α β γ : Type} {f : List γ × β → α → List γ × β} {b : β} {g : α → γ} {l : List α}
    (h : ∀ ws, ∀ x ∈ l, f (ws, b) x = (ws ++ [g x], b)) (ws : List γ) : l.foldl f (ws, b) = (ws ++ l.map g, b) := by
  induction l generalizing ws with
  | nil => rw [List.map_nil, List.append_nil]; rfl
  | cons x l ih =>
    rw [List.foldl_cons, h ws x List.mem_cons_self, ih fun ws y hy => h ws y (List.mem_cons_of_mem _ hy),
      List.map_cons, List.append_assoc]
    rfl

section
variable {a : Nat} {en : List Bool}

theorem secRead_clean (note : Bool → Nat → State → State) (h : ∀ w ∈ wordsOf a en, tget 0 s.memErr w = 0) :
    secRead note a en s =
      (0, (List.range en.length).map (fun k => if en.getD k false then memByte s (a + k) else 0), 0, s) := by
  unfold secRead
  rw [foldl_collects (g := fun w => (w, memWord s w)) fun ws w hw => by dsimp only; rw [secWord_intact (h w hw)]; rfl]
  dsimp only
  rw [List.nil_append]
  refine congrArg (fun d => (0, d, 0, s)) (List.map_congr_left fun k _ => ?_)
  split
  · next hk =>
    have hmem : (a + k) / 8 ∈ wordsOf a en := by
      refine div_mem_wordsOf (Nat.le_add_right ..) ?_
      rwa [Nat.add_sub_cancel_left]
    rw [tget, tlook_map_mem hmem, Option.getD_some, wordByte_memWord _ _ (Nat.mod_lt _ (by decide)), Nat.div_add_mod]
  · rfl

end

/-- The byte of word w at x after a write of a SECDED memory merges into a word. -/
def mergedByte (a : Nat) (en : List Bool) (data : List Byte) (s : State) (x : Nat) : Byte :=
  if wordEn a en (x / 8) (x % 8) = true then data.getD (x - a) 0 else memByte s x

/-- u is s after a write of the words `done` of a SECDED memory without errors: their enabled bytes are stored, no error
has come, and nothing else has changed. -/
structure Written (a : Nat) (en : List Bool) (data : List Byte) (done : List Nat) (s u : State) : Prop where
  bytes : ∀ x, memByte u x = if x / 8 ∈ done then mergedByte a en data s x else memByte s x
  errors : ∀ w, tget 0 u.memErr w = tget 0 s.memErr w
  frame : u = { s with mem := u.mem, memErr := u.memErr }

theorem tget_tset_default {α : Type} [DecidableEq α] {d : α} {m : Tbl α} {k : Nat} (h : tget d m k = d) (j : Nat) :
    tget d (tset d m k d) j = tget d m j := by
  rw [tget_tset]
  split
  · next e => rw [e, h]
  · rfl

/-- One more word is stored. -/
theorem Written.store {a : Nat} {en : List Bool} {data : List Byte} {done : List Nat} {u : State} {w : Nat} {v : Word}
    (h : Written a en data done s u) (herr : tget 0 s.memErr w = 0)
    (hv : ∀ i < 8, wordByte v i = if wordEn a en w i = true then data.getD (8 * w + i - a) 0 else memByte u
      (8 * w + i)) :
    Written a en data (done ++ [w]) s (setErr w 0 (setWord w v u)) := by
  constructor
  case bytes =>
    intro x
    show memByte (setWord w v u) x = _
    rw [memByte_setWord]
    by_cases hx : x / 8 = w
    · have hsub : 8 * w + (x - 8 * w) = x := by omega
      have hmod : x - 8 * w = x % 8 := by omega
      rw [if_pos (by omega), if_pos (by simp [hx]), hv _ (by omega), hsub, hmod, h.bytes, mergedByte, hx]
      split
      · rfl
      · exact ite_self _
    · rw [if_neg (by omega), h.bytes]
      simp [hx]
  case errors =>
    intro k
    have hclean : tget 0 (setWord w v u).memErr w = 0 := by
      rw [setWord, setBytes_frame]
      exact (h.errors w).trans herr
    show tget 0 (tset 0 (setWord w v u).memErr w 0) k = _
    rw [tget_tset_default hclean, setWord, setBytes_frame]
    exact h.errors k
  case frame =>
    rw [setErr, setWord, setBytes_frame, h.frame]

theorem secWrite_clean (note : Bool → Nat → State → State) {a : Nat} {en : List Bool} {data : List Byte}
    (h : ∀ w ∈ wordsOf a en, tget 0 s.memErr w = 0) :
    ∃ u, secWrite note a en data s = (0, u) ∧ Written a en data (wordsOf a en) s u := by
  unfold secWrite
  generalize wordsOf a en = l at h
  suffices H : ∀ (done : List Nat) (u : State), Written a en data done s u →
      ∃ t, l.foldl _ (0, u) = (0, t) ∧ Written a en data (done ++ l) s t from
    H [] s ⟨fun x => by simp, fun _ => rfl, rfl⟩
  induction l with
  | nil => exact fun done u hu => ⟨u, rfl, by rwa [List.append_nil]⟩
  | cons w l ih =>
    intro done u hu
    have herr := h w List.mem_cons_self
    have hword : secWord u w = (memWord u w, 0, u) := secWord_intact ((hu.errors w).trans herr)
    rw [List.foldl_cons, List.append_cons]
    have next {v : Word} (hv : ∀ i < 8, wordByte v i =
        if wordEn a en w i = true then data.getD (8 * w + i - a) 0 else memByte u (8 * w + i)) :=
      ih (fun x hx => h x (List.mem_cons_of_mem _ hx)) _ _ (hu.store herr hv)
    dsimp only
    rw [hword]
    dsimp only
    split
    · next hall =>
      refine next fun i hi => ?_
      rw [wordByte_leNum_map _ hi, List.all_eq_true.mp hall i (List.mem_range.mpr hi)]
      rfl
    · refine next fun i hi => ?_
      rw [wordByte_leNum_map _ hi, wordByte_memWord _ _ hi]

/-- After the whole write every byte is the one written, or as it was. -/
theorem Written.memByte_eq {a : Nat} {en : List Bool} {data : List Byte} {u : State}
    (h : Written a en data (wordsOf a en) s u) (x : Nat) :
    memByte u x = if a ≤ x ∧ en.getD (x - a) false = true then data.getD (x - a) 0 else memByte s x := by
  have hword : 8 * (x / 8) + x % 8 = x := Nat.div_add_mod x 8
  simp only [h.bytes, mergedByte, wordEn, hword, Bool.and_eq_true, decide_eq_true_eq]
  split
  · rfl
  · next hmem => exact (if_neg fun hen => hmem (div_mem_wordsOf hen.1 hen.2)).symm

end Sys2Proof.Machine
end

section
/-! SUPPORT. A bank of the staging SRAM: the requests as it judges them, its grants, and what it does with them (R363 to
R366, R569). -/
namespace Sys2Proof.Machine
open Sys2Proof Sys2Proof.Claims

variable {s t : State}

/-! ### Requests -/

theorem getD_map_range {α : Type} (f : Nat → α) (d : α) (k i : Nat) :
    ((List.range k).map f).getD i d = if i < k then f i else d := by
  rw [List.getD_eq_getElem?_getD, List.getElem?_map]
  split
  · next h => simp [h]
  · next h => simp [h]

theorem getD_memReq_en (r : LineReq) (i : Nat) : (memReq r).en.getD i false = r.en.getLsbD i := by
  rw [memReq, getD_map_range]
  split
  · rfl
  · exact (BitVec.getLsbD_of_ge _ _ (by omega)).symm
theorem getD_memReq_data (r : LineReq) {i : Nat} (h : i < 64) : (memReq r).data.getD i 0 = reqByte r i := by
  rw [memReq, getD_map_range, if_pos h]
  rfl
@[simp] theorem length_memReq_en (r : LineReq) : (memReq r).en.length = 64 := by simp [memReq]

/-- A line without errors: none of the words that a request touches has one. -/
theorem clean_words {r : LineReq} (h : Clean s (lineAddr r)) :
    ∀ w ∈ wordsOf (memReq r).addr (memReq r).en, tget 0 s.memErr w = 0 := by
  intro w hw
  obtain ⟨i, hi, hen⟩ := mem_wordsOf.mp hw
  simp only [wordEn, Bool.and_eq_true, decide_eq_true_eq, getD_memReq_en] at hen
  have hlt := BitVec.lt_of_getLsbD hen.2
  have haddr : (memReq r).addr = lineAddr r := rfl
  rw [haddr] at hen hlt
  have : lineAddr r = 64 * r.line.toNat := rfl
  exact h w (by omega) (by omega)

/-! ### A request served -/

/-- u is s after a request has been served without errors: its bytes are stored or returned, and it is answered. -/
structure Served (r : LineReq) (s u : State) : Prop where
  bytes : ∀ x, memByte u x = (stores r x).getD (memByte s x)
  errors : ∀ w, tget 0 u.memErr w = tget 0 s.memErr w
  frame : u = { s with mem := u.mem, memErr := u.memErr, answers := s.answers ++ [⟨r.node.toNat, 0, lineBack s r, 0⟩] }

/-- What a bank does with a request that it grants and its table lets pass. -/
def bankDo (q : MemReq) (s : State) : State := if q.write then bankWrite q s else bankRead q s

theorem stores_read {r : LineReq} (h : r.write = false) (x : Nat) : stores r x = none := by simp [stores, h]
theorem stores_write {r : LineReq} (h : r.write = true) (x : Nat) :
    stores r x = if lineAddr r ≤ x ∧ (memReq r).en.getD (x - lineAddr r) false = true
      then some ((memReq r).data.getD (x - lineAddr r) 0) else none := by
  rw [stores, getD_memReq_en]
  by_cases hen : lineAddr r ≤ x ∧ r.en.getLsbD (x - lineAddr r) = true
  · obtain ⟨hle, hbit⟩ := hen
    have hlt := BitVec.lt_of_getLsbD hbit
    rw [if_pos ⟨h, hle, by omega, hbit⟩, if_pos ⟨hle, hbit⟩, getD_memReq_data r hlt]
  · rw [if_neg fun k => hen ⟨k.2.1, k.2.2.2⟩, if_neg hen]

theorem bankRead_served {r : LineReq} (h : r.write = false) (hclean : Clean s (lineAddr r)) :
    Served r s (bankRead (memReq r) s) := by
  unfold bankRead
  rw [secRead_clean _ (clean_words hclean)]
  refine ⟨fun x => by rw [stores_read h]; rfl, fun _ => rfl, ?_⟩
  have hback : (List.range (memReq r).en.length).map (fun k =>
      if (memReq r).en.getD k false then memByte s ((memReq r).addr + k) else 0) = lineBack s r := by
    rw [lineBack, h, length_memReq_en]
    simp only [getD_memReq_en]
    rfl
  rw [hback]
  rfl

theorem bankWrite_served {r : LineReq} (h : r.write = true) (hclean : Clean s (lineAddr r)) :
    Served r s (bankWrite (memReq r) s) := by
  unfold bankWrite
  obtain ⟨u, hwrite, hu⟩ := secWrite_clean (stgNote (memReq r).master) (data := (memReq r).data) (clean_words hclean)
  rw [hwrite]
  refine ⟨fun x => ?_, hu.errors, ?_⟩
  · show memByte u x = _
    have haddr : (memReq r).addr = lineAddr r := rfl
    rw [hu.memByte_eq, stores_write h, haddr]
    split <;> rfl
  · rw [lineBack, h]
    show answer _ 0 [] 0 u = _
    rw [answer, hu.frame]
    rfl

theorem bankDo_served {r : LineReq} (hclean : Clean s (lineAddr r)) : Served r s (bankDo (memReq r) s) := by
  have hwrite : (memReq r).write = r.write := rfl
  unfold bankDo
  rw [hwrite]
  split
  · next h => exact bankWrite_served h hclean
  · next h => exact bankRead_served (by simpa using h) hclean

end Sys2Proof.Machine
end

section
/-! SUPPORT. The grants of a staging bank and its whole nc (R364, R365). -/
namespace Sys2Proof.Machine
open Sys2Proof Sys2Proof.Claims

variable {s t : State}

/-! ### Access tables -/

/-- The first offset of the access tables (R627). -/
def aclBase : Nat := 0x800000

/-- A table depends on its own registers alone. -/
theorem aclAllows_congr (h : ∀ f : Fld, aclBase ≤ f.addr → f.lo < 64 → getF t f = getF s f) (d m : Nat) (wr : Bool)
    (a : Nat) :
    aclAllows t d m wr a = aclAllows s d m wr a := by
  have hen (r : Nat) : bitF t (fACL_BASE_EN d r) = bitF s (fACL_BASE_EN d r) := by
    rw [bitF, bitF, h _ (by simp only [aclBase, fACL_BASE_EN]; omega) (by decide : 0 < 64)]
  have hbase (r : Nat) : getF t (fACL_BASE_BASE d r) = getF s (fACL_BASE_BASE d r) :=
    h _ (by simp only [aclBase, fACL_BASE_BASE]; omega) (by decide : 6 < 64)
  have hlimit (r : Nat) : getF t (fACL_LIMIT_LIMIT d r) = getF s (fACL_LIMIT_LIMIT d r) :=
    h _ (by simp only [aclBase, fACL_LIMIT_LIMIT]; omega) (by decide : 6 < 64)
  unfold aclAllows
  simp only [hen, hbase, hlimit]
  split
  · rfl
  · split
    · next r hr =>
      have hr8 := List.mem_range.mp (List.mem_of_find?_eq_some hr)
      have hbit : b2n wr < 2 := by cases wr <;> decide
      rw [bitF, bitF, h _ (by simp only [aclBase, fACL_PERM]; omega) (by simp only [fACL_PERM]; omega)]
    · rfl

/-- What leaves the tables, leaves what they allow. -/
theorem allowed_congr (h : ∀ f : Fld, aclBase ≤ f.addr → f.lo < 64 → getF t f = getF s f) (d : Nat) (q : MemReq) :
    allowed t d q = allowed s d q := aclAllows_congr h ..

theorem unlogged_of_acl {f : Fld} (h : aclBase ≤ f.addr) (hlo : f.lo < 64) : Unlogged f := by
  unfold aclBase at h
  exact ⟨hlo, by omega, by omega, by omega⟩

/-- A register below the tables is none of them. -/
theorem getF_setF_below_acl {f g : Fld} (hf : f.addr < aclBase) (hlo : f.lo < 64) (hg : aclBase ≤ g.addr) (v : Nat)
    (s : State) :
    getF (setF f v s) g = getF s g := by
  refine getF_setF_other _ _ ?_
  unfold fldKey
  omega

/-- A target Logbook entry of a node leaves the tables. -/
theorem getF_tgtLog_acl {d : Nat} (hd : d < 256) {g : Fld} (hg : aclBase ≤ g.addr) (a m ty st : Nat) (s : State) :
    getF (tgtLog d a m ty st s) g = getF s g := by
  have entry {f : Fld} (hlo : f.lo < 64) (hf : f.addr < 0x230000) (v : Nat) (u : State) :
    getF (setF f v u) g = getF u g :=
    getF_setF_below_acl (by unfold aclBase; omega) hlo hg v u
  have hi : getF s (fTLOG_STAT_NEXT d) < 16 := getF_lt s _
  have lost (u : State) : getF (satF (fTLOG_STAT_LOST d) 1 u) g = getF u g :=
    entry (by decide : 16 < 64) (by simp only [fTLOG_STAT_LOST]; omega) _ u
  have next (u : State) : getF (incF (fTLOG_STAT_NEXT d) 1 u) g = getF u g :=
    entry (by decide : 0 < 64) (by simp only [fTLOG_STAT_NEXT]; omega) _ u
  unfold tgtLog
  dsimp only
  rw [next]
  refine (getF_setFs_other _ fun e he => ?_).trans ?_
  · simp only [List.mem_cons, List.not_mem_nil, or_false] at he
    unfold aclBase at hg
    rcases he with rfl | rfl | rfl | rfl | rfl
    all_goals
      simp only [fldKey, fTLOG_T0_ADDR, fTLOG_T0_MASTER, fTLOG_T0_TYPE, fTLOG_T0_STATUS, fTLOG_T1_TIME]
      omega
  · split
    · exact lost s
    · rfl

/-- A refusal leaves the tables. -/
theorem getF_refusalLog_acl {d : Nat} (hd : d < 256) (hnode : 64 ≤ d) {g : Fld} (hg : aclBase ≤ g.addr)
    (hlo : g.lo < 64)
    (a m ty st : Nat) (s : State) : getF (refusalLog d a m ty st s) g = getF s g :=
  ((unlogged_of_acl hg hlo).getF_devLogM hnode ..).trans (getF_tgtLog_acl hd hg ..)

/-! ### Grants -/

theorem nextTurn_one (last x : Nat) : nextTurn 256 last [x] = some x := rfl
/-- Of two the one whose turn comes first, in either order of arrival; the first to arrive when both have the same turn.
-/
theorem nextTurn_two {last x y : Nat} (h : roundAfter 256 last x ≤ roundAfter 256 last y) :
    nextTurn 256 last [x, y] = some x := if_neg (by omega)
theorem nextTurn_swap {last x y : Nat} (h : roundAfter 256 last x < roundAfter 256 last y) :
    nextTurn 256 last [y, x] = some x := if_pos h

theorem grants_one (last : Nat) (q : MemReq) : grants last [q] = [q] := by
  simp [grants, nextTurn]

/-- Requests of one master: the first is granted alone. -/
theorem grants_same (last : Nat) {a b : MemReq} (h : a.master = b.master) : grants last [a, b] = [a] := by
  simp [grants, ← h, nextTurn]

section
variable {last : Nat} {a b : MemReq} (hne : a.master ≠ b.master)
include hne

theorem grants_two (h : roundAfter 256 last a.master ≤ roundAfter 256 last b.master) : grants last [a, b] = [a, b] := by
  simp [grants, nextTurn_two h, hne, hne.symm, nextTurn_one]
theorem grants_swap (h : roundAfter 256 last a.master < roundAfter 256 last b.master) :
    grants last [b, a] = [a, b] := by
  simp [grants, nextTurn_swap h, hne.symm, nextTurn_one]

end

/-! ### The nc of a bank -/

/-- A bank serves the requests that it grants and its table lets pass: the reads, then the writes from port B on, of
which two to one line are compared. -/
def bankServes (k : Nat) (gs : List MemReq) (s : State) : State :=
  let t := (gs.filter (·.write)).reverse.foldl (fun s q => bankWrite q s)
    ((gs.filter fun q => !q.write).foldl (fun s q => bankRead q s) s)
  match gs.filter (·.write) with
  | [x, y] => countCollisions k x y t
  | _ => t

/-- The requests that a bank does not grant count a conflict, and it keeps the last master granted. -/
def bankGrants (k : Nat) (rs gs : List MemReq) (m : Nat) (s : State) : State :=
  let t := (gs.foldl (fun l q => l.erase q) rs).foldl (fun s q => satF (fSTG_CONFLICT_COUNT q.master (k / 8)) 1 s) s
  { t with stgTurn := tset 255 t.stgTurn k m }

section
variable {k : Fin 32} {l : List LineReq} {rs gs : List MemReq} {q : MemReq}

theorem exec_stagingAccess (hopen : domOpen s (37 + k.val / 8) = true)
    (hrs : (l.map memReq).filter (bankTakes s k) = rs) (hgs : grants (tget 255 s.stgTurn k) rs = gs)
    (hlast : gs.getLast? = some q) (hall : ∀ x ∈ gs, allowed (bankGrants k rs gs q.master s) (0x60 + k) x = true) :
    exec (.stagingAccess k l []) s = .next (bankServes k gs (bankGrants k rs gs q.master s)) := by
  have hnone : gs.filter (fun x => !allowed (bankGrants k rs gs q.master s) (0x60 + k) x) = [] :=
    List.filter_eq_nil_iff.mpr fun x hx => by simp [hall x hx]
  have hgo : gs.filter (allowed (bankGrants k rs gs q.master s) (0x60 + k)) = gs := List.filter_eq_self.mpr hall
  show execStagingAccess k l [] s = _
  unfold execStagingAccess
  have hups : upset (fun w => decide (8 * w < 0x4000000) && bankOf (8 * w) == k.val) [] s = s := rfl
  simp only [hups, hopen, not_true_eq_false, if_false, hrs, hgs, hlast]
  unfold bankGrants at hnone hgo
  dsimp only at hnone hgo
  rw [hnone, List.foldl_nil, hgo]
  unfold bankServes bankGrants
  dsimp only
  generalize gs.filter (·.write) = ws
  rcases ws with _ | ⟨x, _ | ⟨y, _ | ⟨z, ws⟩⟩⟩ <;> rfl

end

end Sys2Proof.Machine
end

section
/-! SUPPORT. One request at a staging bank, and two at its two ports (R364, R365). -/
namespace Sys2Proof.Machine
open Sys2Proof Sys2Proof.Claims

variable {s t u : State}

theorem Reports.stgTurn (h : Reports s t) : t.stgTurn = s.stgTurn := by rw [h]; rfl
theorem memByte_congr (h : t.mem = s.mem) (x : Nat) : memByte t x = memByte s x := by rw [memByte, h]; rfl
theorem Reports.memByte_eq (h : Reports s t) (x : Nat) : memByte t x = memByte s x := memByte_congr h.mem x

/-- The answer to a request served without errors. -/
def lineAnswer (s : State) (r : LineReq) : Answer := ⟨r.node.toNat, 0, lineBack s r, 0⟩

section
variable {r : LineReq} (h : Served r s t)
include h

theorem Served.answers : t.answers = s.answers ++ [lineAnswer s r] := by rw [h.frame]; rfl
theorem Served.regs : t.regs = s.regs := by rw [h.frame]
theorem Served.cores : t.cores = s.cores := by rw [h.frame]
theorem Served.seqs : t.seqs = s.seqs := by rw [h.frame]
theorem Served.stgTurn : t.stgTurn = s.stgTurn := by rw [h.frame]
theorem Served.clean {a : Nat} (k : Clean s a) : Clean t a := fun w hlo hhi => (h.errors w).trans (k w hlo hhi)
/-- After a read every request, and before any request a write, is answered alike. -/
theorem Served.lineAnswer_eq {q : LineReq} (hq : r.write = false ∨ q.write = true) :
    lineAnswer t q = lineAnswer s q := by
  have hback : lineBack t q = lineBack s q := by
    unfold lineBack
    split
    · rfl
    · next hread =>
      have hr : r.write = false := hq.resolve_right hread
      simp only [h.bytes, stores_read hr, Option.getD_none]
  rw [lineAnswer, hback]
  rfl

end

/-- u is s after the requests of ports A and B have been served without errors, port A's bytes last. -/
structure BothServed (a b : LineReq) (s u : State) : Prop where
  bytes : ∀ x, memByte u x = (stores a x).getD ((stores b x).getD (memByte s x))
  answers : u.answers = s.answers ++ [lineAnswer s a, lineAnswer s b] ∨
    u.answers = s.answers ++ [lineAnswer s b, lineAnswer s a]
  regs : u.regs = s.regs
  cores : u.cores = s.cores
  seqs : u.seqs = s.seqs
  stgTurn : u.stgTurn = s.stgTurn

variable {a b : LineReq}

theorem BothServed.mem_answers {a b r : LineReq} (h : BothServed a b s u) (hr : r = a ∨ r = b) :
    lineAnswer s r ∈ u.answers := by
  have hmem : lineAnswer s r = lineAnswer s a ∨ lineAnswer s r = lineAnswer s b := hr.imp (congrArg _) (congrArg _)
  obtain e | e := h.answers
  · rw [e]
    exact List.mem_append_right _ (List.mem_pair.mpr hmem)
  · rw [e]
    exact List.mem_append_right _ (List.mem_pair.mpr hmem.symm)
theorem BothServed.length_answers {a b : LineReq} (h : BothServed a b s u) :
    u.answers.length = s.answers.length + 2 := by
  obtain e | e := h.answers <;> rw [e, List.length_append] <;> rfl

/-- Port A's request first, which reads. -/
theorem BothServed.of_read (hread : a.write = false) (ha : Served a s t) (hb : Served b t u) : BothServed a b s u where
  bytes x := by rw [hb.bytes, ha.bytes, stores_read hread]; rfl
  answers := .inl (by rw [hb.answers, ha.answers, ha.lineAnswer_eq (.inl hread), List.append_assoc]; rfl)
  regs := hb.regs.trans ha.regs
  cores := hb.cores.trans ha.cores
  seqs := hb.seqs.trans ha.seqs
  stgTurn := hb.stgTurn.trans ha.stgTurn

/-- Port B's request first, as port A's writes. -/
theorem BothServed.of_write (hwrite : a.write = true) (hb : Served b s t) (ha : Served a t u) : BothServed a b s u where
  bytes x := by rw [ha.bytes, hb.bytes]
  answers := .inr (by rw [ha.answers, hb.answers, hb.lineAnswer_eq (.inr hwrite), List.append_assoc]; rfl)
  regs := ha.regs.trans hb.regs
  cores := ha.cores.trans hb.cores
  seqs := ha.seqs.trans hb.seqs
  stgTurn := ha.stgTurn.trans hb.stgTurn

theorem countCollisions_reports (k : Nat) (a b : MemReq) (s : State) : Reports s (countCollisions k a b s) := by
  unfold countCollisions
  split
  · exact foldl_keeps (P := Reports s) _ (.refl s) fun _ h _ _ => h.trans ((setF_reports ..).trans (devLogM_reports ..))
  · exact .refl s

theorem bankServes_one (k : Nat) (q : MemReq) (s : State) : bankServes k [q] s = bankDo q s := by
  unfold bankServes bankDo
  cases h : q.write <;> simp [h]

theorem bankServes_two (k : Nat) (ha : Clean s (lineAddr a)) (hb : Clean s (lineAddr b)) :
    ∃ t, BothServed a b s t ∧ bankServes k [memReq a, memReq b] s =
      if a.write = true ∧ b.write = true then countCollisions k (memReq a) (memReq b) t else t := by
  have hfirst {r q : LineReq} (hr : Clean s (lineAddr r)) (hq : Clean s (lineAddr q)) :
      Served r s (bankDo (memReq r) s) ∧ Served q (bankDo (memReq r) s) (bankDo (memReq q) (bankDo (memReq r) s)) :=
    ⟨bankDo_served hr, bankDo_served ((bankDo_served hr).clean hq)⟩
  have hwrite (r : LineReq) : (memReq r).write = r.write := rfl
  cases haw : a.write with
  | false =>
    obtain ⟨h1, h2⟩ := hfirst ha hb
    refine ⟨_, .of_read haw h1 h2, ?_⟩
    cases hbw : b.write <;> simp [bankServes, bankDo, hwrite, haw, hbw]
  | true =>
    obtain ⟨h1, h2⟩ := hfirst hb ha
    refine ⟨_, .of_write haw h1 h2, ?_⟩
    cases hbw : b.write <;> simp [bankServes, bankDo, hwrite, haw, hbw]

/-! ### Collisions -/

theorem collides_memReq {w : Nat} (hw : w < 8) : collides (memReq a) (memReq b) w = differAt a b w := by
  unfold collides differAt
  refine Bool.eq_iff_iff.mpr ?_
  simp only [List.any_eq_true, List.mem_range, getD_memReq_en]
  refine exists_congr fun i => and_congr_right fun hi => ?_
  rw [getD_memReq_data a (by omega), getD_memReq_data b (by omega)]

theorem unlogged_collCount (k : Fin 32) : Unlogged (fSTG_COLL_COUNT k) := by
  refine ⟨(by decide : 0 < 64), ?_, ?_, ?_⟩ <;> simp only [fSTG_COLL_COUNT] <;> omega

/-- Counting in a register that saturates, with what else each step does leaving it. -/
theorem getF_foldl_satF {α : Type} {f : Fld} {g : α → State → State} (hg : ∀ x u, getF (g x u) f = getF u f)
    (l : List α)
    (s : State) : getF (l.foldl (fun s x => g x (satF f 1 s)) s) f = min (getF s f + l.length) (2 ^ f.w - 1) := by
  induction l generalizing s with
  | nil =>
    have := getF_lt s f
    rw [List.foldl_nil, List.length_nil]
    omega
  | cons x l ih =>
    rw [List.foldl_cons, ih, hg, getF_satF_same, List.length_cons]
    omega

theorem getF_countCollisions (k : Fin 32) (h : a.line = b.line) (s : State) :
    getF (countCollisions k (memReq a) (memReq b) s) (fSTG_COLL_COUNT k) =
      min (getF s (fSTG_COLL_COUNT k) + trues ((List.range 8).map (differAt a b))) (2 ^ 32 - 1) := by
  have haddr : (memReq a).addr = (memReq b).addr := congrArg (64 * BitVec.toNat ·) h
  have hwords : (List.range 8).filter (collides (memReq a) (memReq b)) = (List.range 8).filter (differAt a b) :=
    List.filter_congr fun w hw => collides_memReq (List.mem_range.mp hw)
  rw [countCollisions, if_pos haddr, hwords]
  refine (getF_foldl_satF (fun x u => (unlogged_collCount k).getF_devLogM (by omega) ..) ..).trans ?_
  rw [trues, List.filter_map, List.length_map]
  rfl

end Sys2Proof.Machine
end

section
/-! SUPPORT. Staging accesses whose requests the bank takes and its table lets pass, and one that its table refuses
(R364, R365, R569, R574). -/
namespace Sys2Proof.Machine
open Sys2Proof Sys2Proof.Claims

variable {s : State} {k : Fin 32}

/-- A request that bank k can serve at once: its table lets it pass, and its line has no errors. -/
def BankGood (s : State) (k : Fin 32) (r : LineReq) : Prop :=
  bankTakes s k (memReq r) = true ∧ Passes s (0x60 + k.val) r ∧ Clean s (lineAddr r)

/-- A master's turn at a bank. -/
def bankTurn (s : State) (k : Fin 32) (r : LineReq) : Nat := roundAfter 256 (tget 255 s.stgTurn k) r.master.toNat

/-- Conflicts and turns are no part of the tables. -/
theorem allowed_bankGrants {gs rs : List MemReq} (hrs : ∀ x ∈ gs.foldl (fun l q => l.erase q) rs, x.master < 256)
    (m d : Nat) (q : MemReq) : allowed (bankGrants k rs gs m s) d q = allowed s d q := by
  refine allowed_congr (fun f hf hlo => ?_) d q
  have hk := k.isLt
  refine foldl_keeps (P := fun t => getF t f = getF s f) _ rfl fun t h x hx => ?_
  have hx := hrs x hx
  refine (getF_setF_below_acl ?_ (by decide : 0 < 64) hf ..).trans h
  simp only [fSTG_CONFLICT_COUNT, aclBase]
  omega

theorem master_lt (r : LineReq) : (memReq r).master < 256 := r.master.isLt
theorem master_ne {a b : LineReq} (h : a.master ≠ b.master) : (memReq a).master ≠ (memReq b).master :=
  fun e => h (BitVec.eq_of_toNat_eq e)

variable (hopen : domOpen s (37 + k.val / 8) = true)
include hopen

theorem exec_staging_one {a : LineReq} (ha : BankGood s k a) :
    exec (.stagingAccess k [a] []) s =
      .next (bankDo (memReq a) { s with stgTurn := tset 255 s.stgTurn k a.master.toNat }) := by
  obtain ⟨htakes, hpass, -⟩ := ha
  have hrs : ([a].map memReq).filter (bankTakes s k) = [memReq a] := by simp [htakes]
  have hleft : [memReq a].foldl (fun l q => l.erase q) [memReq a] = [] := by simp
  rw [exec_stagingAccess hopen hrs (grants_one _ _) rfl fun x hx => ?_, bankServes_one, bankGrants, hleft]
  · rfl
  · rw [allowed_bankGrants (by rw [hleft]; nofun), List.mem_singleton.mp hx]
    exact hpass

section
variable {a b : LineReq} (ha : BankGood s k a) (hb : BankGood s k b)
include ha hb

theorem exec_staging_two (hne : a.master ≠ b.master) (hturn : bankTurn s k a ≤ bankTurn s k b) {l : List LineReq}
    (hl : l = [a, b] ∨ l = [b, a] ∧ bankTurn s k a < bankTurn s k b) :
    exec (.stagingAccess k l []) s = .next (bankServes k [memReq a, memReq b]
      { s with stgTurn := tset 255 s.stgTurn k b.master.toNat }) := by
  obtain ⟨hatakes, hapass, -⟩ := ha
  obtain ⟨hbtakes, hbpass, -⟩ := hb
  have hmasters := master_ne hne
  have hreqs : memReq b ≠ memReq a := fun e => hmasters (congrArg MemReq.master e).symm
  have served {rs : List MemReq} (hrs : (l.map memReq).filter (bankTakes s k) = rs)
      (hgrants : grants (tget 255 s.stgTurn k) rs = [memReq a, memReq b])
      (hleft : [memReq a, memReq b].foldl (fun l q => l.erase q) rs = []) :
      exec (.stagingAccess k l []) s = .next (bankServes k [memReq a, memReq b]
        { s with stgTurn := tset 255 s.stgTurn k b.master.toNat }) := by
    rw [exec_stagingAccess hopen hrs hgrants rfl fun x hx => ?_, bankGrants, hleft]
    · rfl
    · rw [allowed_bankGrants (by rw [hleft]; nofun)]
      obtain rfl | rfl := List.mem_pair.mp hx
      · exact hapass
      · exact hbpass
  obtain rfl | ⟨rfl, hlt⟩ := hl
  · exact served (by simp [hatakes, hbtakes]) (grants_two hmasters hturn) (by simp)
  · exact served (by simp [hatakes, hbtakes]) (grants_swap hmasters hlt) (by simp [hreqs])

theorem exec_staging_conflict (hsame : a.master = b.master) :
    exec (.stagingAccess k [a, b] []) s = .next (bankDo (memReq a)
      { satF (fSTG_CONFLICT_COUNT a.master.toNat (k.val / 8)) 1 s with stgTurn := tset 255 s.stgTurn k a.master.toNat }) := by
  obtain ⟨hatakes, hapass, -⟩ := ha
  obtain ⟨hbtakes, -, -⟩ := hb
  have hrs : ([a, b].map memReq).filter (bankTakes s k) = [memReq a, memReq b] := by simp [hatakes, hbtakes]
  have hmasters : (memReq a).master = (memReq b).master := congrArg BitVec.toNat hsame
  have hleft : [memReq a].foldl (fun l q => l.erase q) [memReq a, memReq b] = [memReq b] := by simp
  rw [exec_stagingAccess hopen hrs (grants_same _ hmasters) rfl fun x hx => ?_, bankServes_one, bankGrants, hleft]
  · rw [List.foldl_cons, List.foldl_nil, ← hmasters]
    rfl
  · rw [allowed_bankGrants (by rw [hleft]; exact fun x hx => List.mem_singleton.mp hx ▸ master_lt b),
      List.mem_singleton.mp hx]
    exact hapass

end

theorem exec_staging_refused {r : LineReq} (htakes : bankTakes s k (memReq r) = true)
    (hpass : ¬ Passes s (0x60 + k.val) r) :
    exec (.stagingAccess k [r] []) s =
      .next (refuse (0x60 + k.val) (memReq r) { s with stgTurn := tset 255 s.stgTurn k r.master.toNat }) := by
  have hk := k.isLt
  have hrs : ([r].map memReq).filter (bankTakes s k) = [memReq r] := by simp [htakes]
  have hleft : [memReq r].foldl (fun l q => l.erase q) [memReq r] = [] := by simp
  have hrefused : allowed s (0x60 + k.val) (memReq r) = false := Bool.eq_false_iff.mpr hpass
  show execStagingAccess k [r] [] s = _
  unfold execStagingAccess
  have hups : upset (fun w => decide (8 * w < 0x4000000) && bankOf (8 * w) == k.val) [] s = s := rfl
  generalize hu : ({ s with stgTurn := tset 255 s.stgTurn k r.master.toNat } : State) = u
  have hbefore : allowed u (0x60 + k.val) (memReq r) = false := hu ▸ hrefused
  have hafter : allowed (refuse (0x60 + k.val) (memReq r) u) (0x60 + k.val) (memReq r) = false :=
    (allowed_congr (fun f hf hlo => getF_refusalLog_acl (by omega) (by omega) hf hlo ..) ..).trans hbefore
  have hturn : ({ s with stgTurn := tset 255 s.stgTurn k (memReq r).master } : State) = u := hu
  simp only [hups, hopen, not_true_eq_false, if_false, hrs, grants_one, hleft, List.foldl_nil, List.getLast?_singleton,
    hturn]
  simp [hbefore, hafter, ok]

end Sys2Proof.Machine
end

section
namespace Sys2Proof.Proofs
open Sys2Proof Sys2Proof.Machine Sys2Proof.Claims

/-- Settles O37: a bank that takes one request, or two of different masters, serves them on one state, since reads
change nothing and port A's write comes last; one request of two with the same master is left and counted. -/
theorem stagingBanksServe : Obligations.StagingBanksServe := by
  unfold Obligations.StagingBanksServe
  intro k s hopen
  refine ⟨fun a ha => ?_, fun a b ha hb hne hturn l hl => ?_, fun a b ha hb haw hbw hne hline hturn => ?_,
    fun a b ha hb hsame => ?_, fun r htakes hpass => ?_⟩
  · have h : Served a { s with stgTurn := tset 255 s.stgTurn k a.master.toNat } _ := bankDo_served ha.2.2
    refine ⟨_, exec_staging_one hopen ha, h.bytes, h.answers, ?_, h.regs, h.cores, h.seqs⟩
    rw [h.stgTurn]
    exact tget_tset_same ..
  · obtain ⟨t, h, hserves⟩ := bankServes_two (s := { s with stgTurn := tset 255 s.stgTurn k b.master.toNat }) k
      ha.2.2 hb.2.2
    have hrep : Reports t (bankServes k [memReq a, memReq b]
      { s with stgTurn := tset 255 s.stgTurn k b.master.toNat }) := by
      rw [hserves]
      split
      · exact countCollisions_reports ..
      · exact .refl t
    refine ⟨_, exec_staging_two hopen ha hb hne hturn hl, fun x => (hrep.memByte_eq x).trans (h.bytes x), ?_, ?_, ?_,
      hrep.cores.trans h.cores, hrep.seqs.trans h.seqs⟩
    · intro r hr
      rw [hrep.answers]
      exact h.mem_answers hr
    · rw [hrep.stgTurn, h.stgTurn]
      exact tget_tset_same ..
    · rw [hrep.answers]
      exact h.length_answers
  · obtain ⟨t, h, hserves⟩ := bankServes_two (s := { s with stgTurn := tset 255 s.stgTurn k b.master.toNat }) k
      ha.2.2 hb.2.2
    refine ⟨_, exec_staging_two hopen ha hb hne (Nat.le_of_lt hturn) (.inl rfl), ?_⟩
    rw [hserves, if_pos ⟨haw, hbw⟩, getF_countCollisions k hline, getF_congr _ h.regs]
    rfl
  · have h : Served a _ (bankDo (memReq a) { satF (fSTG_CONFLICT_COUNT a.master.toNat (k.val / 8)) 1 s with
        stgTurn := tset 255 s.stgTurn k a.master.toNat }) := bankDo_served ha.2.2
    exact ⟨_, exec_staging_conflict hopen ha hb hsame, (getF_congr _ h.regs).trans (getF_satF_same ..), h.answers,
      h.bytes⟩
  · exact exec_staging_refused hopen htakes hpass

end Sys2Proof.Proofs
end

section
/-! SUPPORT. Requests on their way to a stack of the HBM: raw, translated, refused, and waiting for their Chart entry
(R368, R370, R374 to R377). -/
namespace Sys2Proof.Machine
open Sys2Proof Sys2Proof.Claims

variable {s t u : State} {r : LineReq} {q : MemReq}

/-! ### The controller of a stack -/

/-- A request whose stack takes it at once, on a way that is free, joins the stack's queue. -/
theorem toStack_up {ra : Nat} {fwd : Bool} (hup : StackUp s ra) (hway : fwd = false ∨ Forwards s q.addr ra) :
    toStack ra fwd q s = { s with hbmQ := s.hbmQ ++ [⟨ra, fwd, q⟩] } := by
  obtain ⟨hserves, hopen⟩ := hup
  have hedge : stackEdge ⟨ra, fwd, q⟩ 0 s = { s with hbmQ := s.hbmQ ++ [⟨ra, fwd, q⟩] } := if_pos hopen
  unfold toStack
  rw [hserves]
  obtain rfl | ⟨-, hnear | ⟨hroute, hretry⟩⟩ := hway
  · exact hedge
  · simp only [Bool.false_eq_true, if_false, hnear, or_true, if_true, hedge]
  · simp only [Bool.false_eq_true, if_false, hroute, hretry, hedge, ite_self]

/-- A request to a stack that failed is answered so, and logged. -/
theorem toStack_failed {ra : Nat} (h : stackFailed s ra = true) (fwd : Bool) (q : MemReq) :
    toStack ra fwd q s = answer q.node 3 [] 0 (stackLost ra q.master s) := if_pos h

theorem stackLost_reports (ra m : Nat) (s : State) : Reports s (stackLost ra m s) := devLogM_reports ..

theorem Reports.hbmQ (h : Reports s u) : u.hbmQ = s.hbmQ := by rw [h]; rfl

/-- An answer after what only reports. -/
theorem Reports.answer_answers (h : Reports s u) {n st po : Nat} {d : List Byte} :
    (answer n st d po u).answers = s.answers ++ [⟨n, st, d, po⟩] := by
  rw [h]; rfl

theorem exec_rawRequest {node : Nat} (hloc : locate (lineAddr r) = some (.raw, node))
    (hopen : domOpen s (nodeDom node) = true)
    (hpass : Passes s node r) :
    exec (.rawRequest r) s = .next (toStack (lineAddr r - hbmRBase) false (memReq r) s) := by
  have hloc : locate (memReq r).addr = some (.raw, node) := hloc
  have hpass : allowed s node (memReq r) = true := hpass
  show execRawRequest r s = _
  simp [execRawRequest, hloc, hopen, hpass, ok]
  rfl

/-! ### The home controller -/

/-- The steps 2 to 4 of R375, as a status or the raw address. -/
theorem chartDecide_refused {v : BitVec 32} {m st : Nat} {wr : Bool} (h : entryStatus s v m wr = some st) (hva : Nat) :
    ∃ ty, chartDecide s v m wr hva = .error (st, ty) := by
  unfold entryStatus at h
  dsimp only at h
  unfold chartDecide bits
  dsimp only
  split at h
  · next hvalid =>
    cases h
    exact ⟨2, if_pos (by simpa using hvalid)⟩
  · next hvalid =>
    rw [if_neg (by simpa using hvalid)]
    split at h
    · next hperm =>
      cases h
      refine ⟨7, ?_⟩
      split
      · rfl
      · exact if_pos (.inl (by grind))
    · next hperm =>
      split at h
      · next hread =>
        cases h
        refine ⟨7, ?_⟩
        split
        · rfl
        · exact if_pos (.inr ⟨hread.2, hread.1⟩)
      · cases h

theorem chartDecide_allowed {v : BitVec 32} {m a : Nat} {wr : Bool} (h : entryStatus s v m wr = none) :
    chartDecide s v m wr (a - hbmVBase) = .ok (entryRaw s v a) := by
  unfold entryStatus at h
  dsimp only at h
  split at h
  · cases h
  · next hvalid =>
    split at h
    · cases h
    · next hperm =>
      split at h
      · cases h
      · next hread =>
        unfold chartDecide bits entryRaw
        dsimp only
        rw [if_neg (by simpa using hvalid), if_neg (by grind), if_neg (by grind)]
        simp

theorem chartRefuse_reports (node a m st ty : Nat) (s : State) : Reports s (chartRefuse node a m st ty s) := by
  unfold chartRefuse
  split
  · exact refusalLog_reports ..
  · exact tgtLog_reports ..

theorem translate_refused {v : BitVec 32} {st : Nat} (h : entryStatus s v q.master q.write = some st) :
    ∃ u, Reports s u ∧ translate v q s = answer q.node st [] 0 u := by
  obtain ⟨ty, hdecide⟩ := chartDecide_refused h (q.addr - hbmVBase)
  refine ⟨_, chartRefuse_reports (homeNode ((q.addr - hbmVBase) / 65536)) q.addr q.master st ty s, ?_⟩
  unfold translate
  dsimp only
  rw [hdecide]

theorem translate_forwards {v : BitVec 32} (h : entryStatus s v q.master q.write = none)
    (hway : Forwards s q.addr (entryRaw s v q.addr)) :
    translate v q s = { s with hbmQ := s.hbmQ ++ [⟨entryRaw s v q.addr, true, q⟩] } := by
  unfold translate
  dsimp only
  rw [chartDecide_allowed h]
  exact toStack_up hway.1 (.inr hway)

section
variable {node : Nat} (hloc : locate (lineAddr r) = some (.xlat, node)) (hopen : domOpen s (nodeDom node) = true)
  (hpass : Passes s node r) (hwait : ∀ w ∈ s.xlatWait, (w.addr - hbmVBase) / 65536 ≠ (lineAddr r - hbmVBase) / 65536)
include hloc hopen hpass hwait

theorem exec_translatedRequest : exec (.translatedRequest r) s =
    .next (match tlook s.chartCache ((lineAddr r - hbmVBase) / 65536) with
      | some l => translate l.entry (memReq r) s
      | none => satF (fHBM_XLAT_MISS ((lineAddr r - hbmVBase) / 65536 % 4)) 1
          { s with xlatWait := s.xlatWait ++ [memReq r] }) := by
  have hloc : locate (memReq r).addr = some (.xlat, node) := hloc
  have hpass : allowed s node (memReq r) = true := hpass
  have hnone : s.xlatWait.any (fun w => (w.addr - hbmVBase) / 65536 == ((memReq r).addr - hbmVBase) / 65536) = false :=
    List.any_eq_false.mpr fun w hw => mt beq_iff_eq.mp (hwait w hw)
  show execTranslatedRequest r s = _
  simp only [execTranslatedRequest, hloc, hopen, hpass, hnone, not_true_eq_false, if_false, Bool.false_eq_true]
  have haddr : (memReq r).addr = lineAddr r := rfl
  rw [haddr]
  cases tlook s.chartCache ((lineAddr r - hbmVBase) / 65536) <;> rfl

theorem exec_translatedRequest_cached {l : ChartLine}
    (h : tlook s.chartCache ((lineAddr r - hbmVBase) / 65536) = some l) :
    exec (.translatedRequest r) s = .next (translate l.entry (memReq r) s) := by
  rw [exec_translatedRequest hloc hopen hpass hwait, h]

theorem exec_translatedRequest_missed (h : tlook s.chartCache ((lineAddr r - hbmVBase) / 65536) = none) :
    exec (.translatedRequest r) s = .next (satF (fHBM_XLAT_MISS ((lineAddr r - hbmVBase) / 65536 % 4)) 1
      { s with xlatWait := s.xlatWait ++ [memReq r] }) := by
  rw [exec_translatedRequest hloc hopen hpass hwait, h]

end

/-! ### The fetch of a Chart entry -/

theorem chartFetch_clean {i : Nat} (h : tget 0 s.chartErr i = 0) : chartFetch i s = (tget 0 s.chart i, 0, s) := by
  unfold chartFetch
  rw [h]
  rfl

theorem unlogged_chartUe : Unlogged fCHART_ECC_UE_CNT := ⟨by decide, by decide, by decide, by decide⟩

/-- Two wrong bits: the entry is uncorrectable, counted and logged (R377). -/
theorem chartFetch_bad {i : Nat} (h : popc 6 (tget 0 s.chartErr i).toNat = 2) :
    ∃ v u, chartFetch i s = (v, 2, u) ∧ Reports s u ∧
      getF u fCHART_ECC_UE_CNT = min (getF s fCHART_ECC_UE_CNT + 1) (2 ^ fCHART_ECC_UE_CNT.w - 1) := by
  refine ⟨tget 0 s.chart i, devLogM 9 2 4 0xFF 0xA9 i (tget 0 s.chart i).toNat (satF fCHART_ECC_UE_CNT 1 s), ?_,
    (setF_reports ..).trans (devLogM_reports ..),
    (unlogged_chartUe.getF_devLogM (by decide) ..).trans (getF_satF_same ..)⟩
  unfold chartFetch
  dsimp only
  rw [h]
  rfl

theorem dropPageLines_frame (p : Nat) (l : List Nat) (s : State) :
    dropPageLines p l s = { s with cores := (dropPageLines p l s).cores } := by
  unfold dropPageLines
  refine foldl_keeps (P := fun t : State => t = { s with cores := t.cores }) _ rfl fun t h _ _ => ?_
  rw [h]
  rfl

/-- A new entry enters the Chart cache; another may leave for it, with its lines in the sharers. -/
theorem cacheEntry_new {i : Nat} {v : BitVec 32} (h : tlook s.chartCache i = none) :
    tlook (cacheEntry i v s).chartCache i = some ⟨v, []⟩ ∧
      cacheEntry i v s = { s with cores := (cacheEntry i v s).cores, chartCache := (cacheEntry i v s).chartCache } := by
  unfold cacheEntry
  rw [h]
  dsimp only
  refine ⟨tlook_tput_same .., ?_⟩
  split
  · split
    · rw [dropPageLines_frame]
    · rfl
  · rfl

end Sys2Proof.Machine
end

section
/-! SUPPORT. The fetch of a Chart entry for a waiting request, and the service of a request by its stack (R368, R369,
R372, R376, R377). -/
namespace Sys2Proof.Machine
open Sys2Proof Sys2Proof.Claims

variable {s t u : State} {x : HbmReq}

/-! ### A request that waits for its Chart entry -/

/-- Entry i is read for the only request that waits, after some of its stored bits have flipped. -/
def fetched (i : Nat) (flip : BitVec 39) (s : State) : State :=
  { s with chartErr := tset 0 s.chartErr i (tget 0 s.chartErr i ^^^ flip), xlatWait := [] }

theorem fetched_chartErr (i : Nat) (flip : BitVec 39) (s : State) :
    tget 0 (fetched i flip s).chartErr i = tget 0 s.chartErr i ^^^ flip := tget_tset_same ..

section
variable {i : Fin 2097152} {flip : BitVec 39} {q : MemReq} {v : BitVec 32} (hwait : s.xlatWait = [q])
  (hpage : (q.addr - hbmVBase) / 65536 = i.val)
include hwait hpage

theorem exec_chartFetchDone : exec (.chartFetchDone i flip) s =
    if (chartFetch i (fetched i flip s)).2.1 = 2 then .next (answer q.node 4 [] 0 (chartFetch i (fetched i flip s)).2.2)
    else .next (translate (chartFetch i (fetched i flip s)).1 q
      (cacheEntry i (chartFetch i (fetched i flip s)).1 (chartFetch i (fetched i flip s)).2.2)) := by
  have hmine : s.xlatWait.filter (fun w => (w.addr - hbmVBase) / 65536 == i.val) = [q] := by
    rw [hwait]
    simp [hpage]
  have hrest : s.xlatWait.filter (fun w => (w.addr - hbmVBase) / 65536 != i.val) = [] := by
    rw [hwait]
    simp [hpage]
  show execChartFetchDone i flip s = _
  unfold execChartFetchDone
  simp only [hmine, hrest, List.cons_ne_nil, if_false]
  rfl

theorem exec_chartFetchDone_lost (hf : chartFetch i (fetched i flip s) = (v, 2, u)) :
    exec (.chartFetchDone i flip) s = .next (answer q.node 4 [] 0 u) := by
  rw [exec_chartFetchDone hwait hpage, hf, if_pos rfl]

theorem exec_chartFetchDone_cached {r : Nat} (hr : r ≠ 2) (hf : chartFetch i (fetched i flip s) = (v, r, u)) :
    exec (.chartFetchDone i flip) s = .next (translate v q (cacheEntry i v u)) := by
  rw [exec_chartFetchDone hwait hpage, hf, if_neg hr]

end

/-- A request for whose page the entry has come goes its way as it would have gone at once. -/
theorem translate_forwards_fetched {i : Nat} {flip : BitVec 39} {q : MemReq} {v : BitVec 32}
    (h : entryStatus s v q.master q.write = none) (hway : Forwards s q.addr (entryRaw s v q.addr))
    (hnew : tlook s.chartCache i = none) :
    let u := cacheEntry i v (fetched i flip s)
    translate v q u = { u with hbmQ := s.hbmQ ++ [⟨entryRaw s v q.addr, true, q⟩] } ∧ u.xlatWait = [] ∧
      u.mem = s.mem ∧ u.answers = s.answers ∧ tlook u.chartCache i = some ⟨v, []⟩ := by
  obtain ⟨hin, hframe⟩ := cacheEntry_new (s := fetched i flip s) (v := v) hnew
  dsimp only
  generalize cacheEntry i v (fetched i flip s) = u at hin hframe
  generalize u.cores = cores, u.chartCache = cache at hin hframe
  subst hframe
  exact ⟨translate_forwards h hway, rfl, rfl, rfl, hin⟩

/-! ### What a stack finds in its bursts -/

/-- A byte that a request touches lies in one of its bursts. -/
theorem mem_burstsOf {ra i : Nat} {en : List Bool} (h : en.getD i false = true) : (ra + i) / 32 ∈ burstsOf ra en := by
  have hi : i < en.length := by
    refine Decidable.byContradiction fun hi => ?_
    rw [List.getD_eq_default _ _ (by omega)] at h
    cases h
  have hlen : (ra + i) / 32 - ra / 32 < (ra + en.length + 31) / 32 - ra / 32 := by omega
  have hback : 32 * ((ra + i) / 32) + (ra + i) % 32 - ra = i := by omega
  refine List.mem_filter.mpr ⟨List.mem_map.mpr ⟨_, List.mem_range.mpr hlen, by omega⟩,
    List.any_eq_true.mpr ⟨(ra + i) % 32, List.mem_range.mpr (by omega), ?_⟩⟩
  rw [hback, h, Bool.and_true, decide_eq_true_eq]
  omega

/-- A burst of a request holds a byte that it touches. -/
theorem exists_of_mem_burstsOf {ra b : Nat} {en : List Bool} (h : b ∈ burstsOf ra en) :
    ∃ i < en.length, en.getD i false = true ∧ (ra + i) / 32 = b := by
  obtain ⟨j, hj, hin⟩ := List.any_eq_true.mp (List.mem_filter.mp h).2
  obtain ⟨hle, hen⟩ := Bool.and_eq_true_iff.mp hin
  have hle := of_decide_eq_true hle
  have hj := List.mem_range.mp hj
  refine ⟨32 * b + j - ra, ?_, hen, by omega⟩
  refine Decidable.byContradiction fun hi => ?_
  rw [List.getD_eq_default _ _ (by omega)] at hen
  cases hen

/-- Bursts that all hold the same upset report it. -/
theorem burstErr_all {bs : List Nat} {v : Nat} (h : ∀ b ∈ bs, tget 0 s.hbmErr b = v) :
    burstErr s bs = if bs = [] then 0 else v := by
  have hfold (m : Nat) (l : List Nat) (hl : ∀ b ∈ l, tget 0 s.hbmErr b = v) :
      l.foldl (fun m b => max m (tget 0 s.hbmErr b)) m = if l = [] then m else max m v := by
    induction l generalizing m with
    | nil => rfl
    | cons b l ih =>
      rw [List.foldl_cons, ih _ fun c hc => hl c (List.mem_cons_of_mem _ hc), hl b List.mem_cons_self,
        if_neg (List.cons_ne_nil b l)]
      split <;> omega
  rw [burstErr, hfold 0 bs h]
  split <;> omega

/-- What HBM_SERVE says of the bursts, as the stack keeps it. -/
def upsetOf : HbmEcc → Nat
  | .clean => 0
  | .corrected => 1
  | .uncorrectable => 2

theorem foldl_upset_frame (v : Nat) (l : List Nat) (s : State) :
    ∃ m, l.foldl (fun s b => { s with hbmErr := tset 0 s.hbmErr b (max v (tget 0 s.hbmErr b)) }) s =
      { s with hbmErr := m } := by
  induction l generalizing s with
  | nil => exact ⟨s.hbmErr, rfl⟩
  | cons b l ih =>
    obtain ⟨m, hm⟩ := ih { s with hbmErr := tset 0 s.hbmErr b (max v (tget 0 s.hbmErr b)) }
    exact ⟨m, hm⟩

theorem stackUpset_frame (x : HbmReq) (e : HbmEcc) (s : State) : ∃ m, stackUpset x e s = { s with hbmErr := m } := by
  cases e
  · exact ⟨s.hbmErr, rfl⟩
  · exact foldl_upset_frame 1 ..
  · exact foldl_upset_frame 2 ..

theorem tget_foldl_upset {v : Nat} {l : List Nat} {s : State}
    (h : ∀ b ∈ l, tget 0 s.hbmErr b = 0 ∨ tget 0 s.hbmErr b = v) (b : Nat) :
    tget 0 (l.foldl (fun s b => { s with hbmErr := tset 0 s.hbmErr b (max v (tget 0 s.hbmErr b)) }) s).hbmErr b =
      if b ∈ l then v else tget 0 s.hbmErr b := by
  induction l generalizing s with
  | nil => rfl
  | cons a l ih =>
    have ha : max v (tget 0 s.hbmErr a) = v := by
      have := h a List.mem_cons_self
      omega
    have hset (c : Nat) : tget 0 (tset 0 s.hbmErr a (max v (tget 0 s.hbmErr a))) c =
        if c = a then v else tget 0 s.hbmErr c := by rw [ha, tget_tset]
    rw [List.foldl_cons, ih]
    · dsimp only
      rw [hset]
      grind
    · intro c hc
      dsimp only
      rw [hset]
      have := h c (List.mem_cons_of_mem _ hc)
      split <;> omega

/-- Bursts without an upset hold what HBM_SERVE says. -/
theorem tget_stackUpset {e : HbmEcc} (h : ∀ b ∈ burstsOf x.ra x.req.en, tget 0 s.hbmErr b = 0) :
    ∀ b ∈ burstsOf x.ra x.req.en, tget 0 (stackUpset x e s).hbmErr b = upsetOf e := by
  intro b hb
  have hset (v : Nat) := tget_foldl_upset (v := v) (fun c hc => .inl (h c hc)) b
  simp only [hb, if_true] at hset
  cases e
  · exact h b hb
  · exact hset 1
  · exact hset 2

/-! ### What is counted of it -/

theorem unlogged_hbmUe (k : Nat) (hk : k < 4) : Unlogged (fHBM_ERR_UE_CNT k) :=
  ⟨(by decide : 0 < 64), .inr (by simp only [fHBM_ERR_UE_CNT]; omega), .inl (by simp only [fHBM_ERR_UE_CNT]; omega),
    by simp only [fHBM_ERR_UE_CNT]; omega⟩

theorem unlogged_nocActive : Unlogged fNOC_CTL_ACTIVE := ⟨by decide, by decide, by decide, by decide⟩

theorem le_rawNode (ra : Nat) : 64 ≤ rawNode ra := by
  unfold rawNode
  omega

/-- An uncorrectable read is counted at its stack, and no route changes. -/
theorem getF_hbmNote_bad (ra m : Nat) (s : State) :
    getF (hbmNote ra m 2 s) (fHBM_ERR_UE_CNT (ra / 2 ^ 35 % 4)) =
      min (getF s (fHBM_ERR_UE_CNT (ra / 2 ^ 35 % 4)) + 1) (2 ^ (fHBM_ERR_UE_CNT (ra / 2 ^ 35 % 4)).w - 1) ∧
    getF (hbmNote ra m 2 s) fNOC_CTL_ACTIVE = getF s fNOC_CTL_ACTIVE := by
  have hk : ra / 2 ^ 35 % 4 < 4 := Nat.mod_lt _ (by decide)
  have hnote : hbmNote ra m 2 s = devLogM 10 2 4 m (rawNode ra) (bits ra 35 2 + bits ra 30 5 * 4)
      (hbmErrValue (setF (fHBM_ERR_LPC (bits ra 35 2)) (bits ra 30 5) (satF (fHBM_ERR_UE_CNT (bits ra 35 2)) 1 s))
        (bits ra 35 2))
      (setF (fHBM_ERR_LPC (bits ra 35 2)) (bits ra 30 5) (satF (fHBM_ERR_UE_CNT (bits ra 35 2)) 1 s)) := rfl
  have hbits : bits ra 35 2 = ra / 2 ^ 35 % 4 := rfl
  rw [hnote, hbits]
  generalize ra / 2 ^ 35 % 4 = k at hk
  rw [(unlogged_hbmUe k hk).getF_devLogM (le_rawNode ra), unlogged_nocActive.getF_devLogM (le_rawNode ra)]
  have hlpc : fldKey (fHBM_ERR_UE_CNT k) ≠ fldKey (fHBM_ERR_LPC k) := by
    simp only [fldKey, fHBM_ERR_UE_CNT, fHBM_ERR_LPC]
    omega
  constructor
  · rw [getF_setF_other _ _ hlpc, getF_satF_same]
  · rw [getF_setF_other _ _ (fldKey_ne_of_addr (by decide) (by decide : 16 < 64)
        (by simp only [fNOC_CTL_ACTIVE, fHBM_ERR_LPC]; omega)),
      satF, getF_setF_other _ _ (fldKey_ne_of_addr (by decide) (by decide : 0 < 64)
        (by simp only [fNOC_CTL_ACTIVE, fHBM_ERR_UE_CNT]; omega))]

end Sys2Proof.Machine
end

section
/-! SUPPORT. A stack serves the request whose turn it is: what its bursts hold, what it stores and what it answers
(R368, R369, R372). -/
namespace Sys2Proof.Machine
open Sys2Proof Sys2Proof.Claims

variable {s t u : State} {x : HbmReq}

/-- The enabled bytes of a read, and 0 elsewhere (R369). -/
def hbmBytes (ra : Nat) (en : List Bool) (s : State) : List Byte :=
  (List.range en.length).map fun i => if en.getD i false then memByte s (hbmRBase + ra + i) else 0

theorem hbmBytes_congr (h : t.mem = s.mem) (ra : Nat) (en : List Bool) : hbmBytes ra en t = hbmBytes ra en s := by
  unfold hbmBytes
  simp only [memByte_congr h]

/-! ### The turn of a request -/

/-- Pseudo-channel c has taken request x from its queue, and found in its bursts what `e` says. -/
def taken (c : Nat) (e : HbmEcc) (x : HbmReq) (s : State) : State :=
  stackUpset x e { s with hbmQ := s.hbmQ.erase x, hbmTurn := tset 255 s.hbmTurn c x.req.master }

theorem taken_frame (c : Nat) (e : HbmEcc) (x : HbmReq) (s : State) : ∃ m, taken c e x s =
    { s with hbmQ := s.hbmQ.erase x, hbmTurn := tset 255 s.hbmTurn c x.req.master, hbmErr := m } :=
  stackUpset_frame ..

theorem tget_taken {c : Nat} {e : HbmEcc} (h : ∀ b ∈ burstsOf x.ra x.req.en, tget 0 s.hbmErr b = 0) :
    ∀ b ∈ burstsOf x.ra x.req.en, tget 0 (taken c e x s).hbmErr b = upsetOf e :=
  tget_stackUpset (s := { s with hbmQ := s.hbmQ.erase x, hbmTurn := tset 255 s.hbmTurn c x.req.master }) h

theorem exec_hbmServe {c : Fin 128} {e : HbmEcc} (hnext : stackNext s c = some x)
    (hopen : domOpen s (16 + c.val / 32) = true) (hheld : channelHeld s x.ra = false) :
    exec (.hbmServe c e) s = .next (hbmAct x (taken c e x s)) := by
  show execHbmServe c e s = _
  unfold execHbmServe
  rw [hnext]
  exact if_pos ⟨hopen, by simp [hheld]⟩

/-- An answer whose way is free leaves as it is, but for a write to be acknowledged by sharers. -/
theorem stackAnswers_returns {st po : Nat} {d : List Byte} (h : Returns s x)
    (hnow : (x.fwd && x.req.write && st == 0) = false) :
    stackAnswers x st d po s = answer x.req.node st d po s := by
  have hway : (if x.fwd && nodeDom (homeOfAddr x.req.addr) != nodeDom (rawNode x.ra)
      then routeFailsAt s (rawNode x.ra) (homeOfAddr x.req.addr) else none) = none := by
    obtain hraw | hnear | hroute := h
    · simp [hraw]
    · simp [hnear]
    · simp [hroute]
  unfold stackAnswers
  dsimp only
  rw [hway]
  exact if_neg (by rw [hnow]; exact Bool.false_ne_true)

/-! ### Reads -/

theorem hbmAct_read (h : x.req.write = false) {st po : Nat} {d : List Byte}
    (hread : hbmRead x.ra x.req.master x.req.en s = (st, d, po, u)) (hway : Returns u x) :
    hbmAct x s = answer x.req.node st d po u := by
  unfold hbmAct
  dsimp only
  rw [h, if_neg Bool.false_ne_true, hread]
  exact stackAnswers_returns hway (by rw [h]; simp)

/-- Bursts without an upset: no word is marked. -/
theorem hbmRead_clean {ra m : Nat} {en : List Bool} (h : ∀ b ∈ burstsOf ra en, tget 0 s.hbmErr b = 0) :
    hbmRead ra m en s = (0, hbmBytes ra en s, 0, s) := by
  have hnone : (List.range 8).filter (fun w => (List.range en.length).any fun i =>
      en.getD i false && (ra + i) / 8 % 8 == w && tget 0 s.hbmErr ((ra + i) / 32) == 2) = [] := by
    refine List.filter_eq_nil_iff.mpr fun w _ hw => ?_
    obtain ⟨i, -, hi⟩ := List.any_eq_true.mp hw
    obtain ⟨hi, herr⟩ := Bool.and_eq_true_iff.mp hi
    have := h _ (mem_burstsOf (Bool.and_eq_true_iff.mp hi).1)
    rw [beq_iff_eq.mp herr] at this
    cases this
  have herr : burstErr s (burstsOf ra en) = 0 := by rw [burstErr_all h, ite_self]
  unfold hbmRead
  dsimp only
  rw [hnone, herr]
  rfl

theorem foldl_two_pow_pos (l : List Nat) (p : Nat) (h : l ≠ [] ∨ 0 < p) :
    0 < l.foldl (fun p w => p + 2 ^ w) p := by
  induction l generalizing p with
  | nil => exact h.resolve_left (· rfl)
  | cons w l ih => exact ih _ (.inr (Nat.add_pos_right p (Nat.two_pow_pos w)))

/-- Uncorrectable bursts: a touched word is marked, and the read counts. -/
theorem hbmRead_bad {ra m : Nat} {en : List Bool} (h : ∀ b ∈ burstsOf ra en, tget 0 s.hbmErr b = 2)
    (hsome : burstsOf ra en ≠ []) :
    ∃ po, po ≠ 0 ∧ hbmRead ra m en s = (4, hbmBytes ra en s, po, hbmNote ra m 2 s) := by
  obtain ⟨b, hb⟩ := List.exists_mem_of_ne_nil _ hsome
  obtain ⟨i, hi, hen, rfl⟩ := exists_of_mem_burstsOf hb
  have hmarked : (List.range 8).filter (fun w => (List.range en.length).any fun i =>
      en.getD i false && (ra + i) / 8 % 8 == w && tget 0 s.hbmErr ((ra + i) / 32) == 2) ≠ [] := by
    refine List.ne_nil_of_mem (a := (ra + i) / 8 % 8) (List.mem_filter.mpr
      ⟨List.mem_range.mpr (Nat.mod_lt _ (by decide)), List.any_eq_true.mpr ⟨i, List.mem_range.mpr hi, ?_⟩⟩)
    rw [hen, h _ hb, beq_self_eq_true]
    rfl
  have herr : burstErr s (burstsOf ra en) = 2 := by rw [burstErr_all h, if_neg hsome]
  refine ⟨_, (foldl_two_pow_pos _ 0 (.inl hmarked)).ne', ?_⟩
  unfold hbmRead
  dsimp only
  rw [herr]
  rfl

/-! ### Writes -/

/-- The bytes that a write stores: the enabled ones, each at its place. -/
def hbmStore (ra : Nat) (en : List Bool) (data : List Byte) (s : State) : State :=
  (List.range en.length).foldl (fun s i =>
    if en.getD i false then setByte (hbmRBase + ra + i) (data.getD i 0) s else s) s

theorem hbmStore_frame (ra : Nat) (en : List Bool) (data : List Byte) (s : State) :
    ∃ m, hbmStore ra en data s = { s with mem := m } := by
  refine foldl_keeps (P := fun t : State => ∃ m, t = { s with mem := m }) _ ⟨s.mem, rfl⟩ fun t ⟨m, h⟩ i _ => ?_
  split
  · exact ⟨_, by rw [h]; rfl⟩
  · exact ⟨m, h⟩

theorem memByte_hbmStore (ra : Nat) (en : List Bool) (data : List Byte) (s : State) (y : Nat) :
    memByte (hbmStore ra en data s) y =
      if hbmRBase + ra ≤ y ∧ en.getD (y - (hbmRBase + ra)) false = true then data.getD (y - (hbmRBase + ra)) 0
      else memByte s y := by
  generalize hbase : hbmRBase + ra = base
  have hupto (k : Nat) : memByte ((List.range k).foldl (fun s i =>
        if en.getD i false then setByte (base + i) (data.getD i 0) s else s) s) y =
      if base ≤ y ∧ y - base < k ∧ en.getD (y - base) false = true then data.getD (y - base) 0 else memByte s y := by
    induction k with
    | zero => rw [if_neg (by omega)]; rfl
    | succ k ih =>
      rw [List.range_succ, List.foldl_append, List.foldl_cons, List.foldl_nil]
      by_cases hy : y = base + k
      · subst hy
        by_cases hen : en.getD k false = true
        · rw [if_pos hen, memByte_setByte_same, Nat.add_sub_cancel_left, if_pos ⟨by omega, by omega, hen⟩]
        · rw [if_neg hen, ih]
          simp_all
      · have hlt : base ≤ y → (y - base < k + 1 ↔ y - base < k) := by omega
        have hstep (b : Byte) (u : State) :
            memByte (if en.getD k false then setByte (base + k) b u else u) y = memByte u y := by
          split
          · exact memByte_setByte_other b u hy
          · rfl
        rw [hstep, ih]
        grind
  have hin : en.getD (y - base) false = true → y - base < en.length := fun h => by
    refine Decidable.byContradiction fun hi => ?_
    rw [List.getD_eq_default _ _ (by omega)] at h
    cases h
  unfold hbmStore
  rw [hbase, hupto]
  grind

/-- A write whose partial bursts are correctable stores its enabled bytes (R368, R369). -/
theorem hbmWrite_done {ra m : Nat} {en : List Bool} {data : List Byte} {v : Nat} (hv : v ≠ 2)
    (h : ∀ b ∈ burstsOf ra en, tget 0 s.hbmErr b = v) :
    ∃ u, hbmWrite ra m en data s = (0, hbmStore ra en data u) ∧ u.mem = s.mem ∧ u.hbmQ = s.hbmQ ∧
      u.answers = s.answers := by
  have herr : burstErr s ((burstsOf ra en).filter fun b => !fillsBurst ra en b) ≠ 2 := by
    rw [burstErr_all fun b hb => h b (List.mem_filter.mp hb).1]
    split
    · decide
    · exact hv
  have hnote := hbmNote_reports ra m (burstErr s ((burstsOf ra en).filter fun b => !fillsBurst ra en b)) s
  exact ⟨_, if_neg herr, hnote.mem, hnote.hbmQ, hnote.answers⟩

/-- A write with a partial burst that is uncorrectable is not performed (R369). -/
theorem hbmWrite_lost {ra m : Nat} {en : List Bool} {data : List Byte}
    (h : ∀ b ∈ burstsOf ra en, tget 0 s.hbmErr b = 2) (hpart : ∃ b ∈ burstsOf ra en, fillsBurst ra en b = false) :
    hbmWrite ra m en data s = (4, hbmNote ra m 2 s) := by
  obtain ⟨b, hb, hfill⟩ := hpart
  have hmem : b ∈ (burstsOf ra en).filter fun b => !fillsBurst ra en b :=
    List.mem_filter.mpr ⟨hb, by rw [hfill]; rfl⟩
  have herr : burstErr s ((burstsOf ra en).filter fun b => !fillsBurst ra en b) = 2 := by
    rw [burstErr_all fun b hb => h b (List.mem_filter.mp hb).1, if_neg (List.ne_nil_of_mem hmem)]
  unfold hbmWrite
  dsimp only
  rw [herr]
  rfl

theorem hbmAct_write (h : x.req.write = true) {st : Nat}
    (hwrite : hbmWrite x.ra x.req.master x.req.en x.req.data s = (st, u)) (hway : Returns u x)
    (hnow : x.fwd = false ∨ st ≠ 0) : hbmAct x s = answer x.req.node st [] 0 u := by
  unfold hbmAct
  dsimp only
  rw [h, if_pos rfl, hwrite]
  refine stackAnswers_returns hway ?_
  obtain hraw | hst := hnow
  · simp [hraw]
  · simp [hst]

/-- After a request was taken and an uncorrectable burst noted, its answer still finds its way. -/
theorem returns_hbmNote {c : Nat} {e : HbmEcc} (h : Returns s x) (ra m : Nat) :
    Returns (hbmNote ra m 2 (taken c e x s)) x := by
  have hroute := (hbmNote_reports ra m 2 (taken c e x s)).routeFailsAt_eq (getF_hbmNote_bad ra m _).2
    (rawNode x.ra) (homeOfAddr x.req.addr)
  obtain ⟨m, hm⟩ := taken_frame c e x s
  obtain hraw | hnear | hway := h
  · exact .inl hraw
  · exact .inr (.inl hnear)
  · refine .inr (.inr ?_)
    rw [hroute, hm]
    exact hway

end Sys2Proof.Machine
end

section
/-! Requests to the stacks of the HBM. -/
namespace Sys2Proof.Proofs
open Sys2Proof Sys2Proof.Machine Sys2Proof.Claims

/-- A raw request. -/
theorem rawRequest_serves {r : LineReq} {node : Nat} {s : State} (hloc : locate (lineAddr r) = some (.raw, node))
    (hopen : domOpen s (nodeDom node) = true) (hpass : Passes s node r) :
    (StackUp s (lineAddr r - hbmRBase) → exec (.rawRequest r) s =
      .next { s with hbmQ := s.hbmQ ++ [⟨lineAddr r - hbmRBase, false, memReq r⟩] }) ∧
    (stackFailed s (lineAddr r - hbmRBase) = true → ∃ t, exec (.rawRequest r) s = .next t ∧ t.hbmQ = s.hbmQ ∧
      t.mem = s.mem ∧ t.answers = s.answers ++ [⟨r.node.toNat, 3, [], 0⟩]) := by
  rw [exec_rawRequest hloc hopen hpass]
  constructor
  · intro hup
    rw [toStack_up hup (.inl rfl)]
  · intro hfailed
    have hlost := stackLost_reports (lineAddr r - hbmRBase) (memReq r).master s
    exact ⟨_, congrArg _ (toStack_failed hfailed ..), hlost.hbmQ, hlost.mem, hlost.answer_answers⟩

section
variable {c : Fin 128} {e : HbmEcc} {s : State} {x : HbmReq} (hnext : stackNext s c = some x)
  (hopen : domOpen s (16 + c.val / 32) = true) (hheld : channelHeld s x.ra = false)
  (hclean : ∀ b ∈ burstsOf x.ra x.req.en, tget 0 s.hbmErr b = 0)
include hnext hopen hheld hclean

/-- A read of bursts without an upset. -/
theorem hbmServe_read (hway : Returns s x) (hread : x.req.write = false) : exec (.hbmServe c .clean) s = .next
    { s with hbmQ := s.hbmQ.erase x, hbmTurn := tset 255 s.hbmTurn c x.req.master,
             answers := s.answers ++ [⟨x.req.node, 0, hbmBytes x.ra x.req.en s, 0⟩] } := by
  have hserved := hbmAct_read hread (hbmRead_clean (m := x.req.master) (tget_taken (c := c) (e := .clean) hclean)) hway
  rw [exec_hbmServe hnext hopen hheld, hserved]
  rfl

/-- A read of uncorrectable bursts. -/
theorem hbmServe_read_bad (hway : Returns s x) (hsome : burstsOf x.ra x.req.en ≠ []) (hread : x.req.write = false) :
    ∃ t po, exec (.hbmServe c .uncorrectable) s = .next t ∧ t.mem = s.mem ∧ t.hbmQ = s.hbmQ.erase x ∧
      t.answers = s.answers ++ [⟨x.req.node, 4, hbmBytes x.ra x.req.en s, po⟩] ∧ po ≠ 0 ∧
      getF t (fHBM_ERR_UE_CNT (x.ra / 2 ^ 35 % 4)) = min (getF s (fHBM_ERR_UE_CNT (x.ra / 2 ^ 35 % 4)) + 1)
        (2 ^ (fHBM_ERR_UE_CNT (x.ra / 2 ^ 35 % 4)).w - 1) := by
  rw [exec_hbmServe hnext hopen hheld]
  obtain ⟨po, hpo, hbad⟩ := hbmRead_bad (m := x.req.master) (tget_taken (c := c) (e := .uncorrectable) hclean) hsome
  obtain ⟨m, hm⟩ := taken_frame c .uncorrectable x s
  rw [hbmBytes_congr (s := s) (by rw [hm])] at hbad
  have hnote := hbmNote_reports x.ra x.req.master 2 (taken c .uncorrectable x s)
  have hcount := (getF_hbmNote_bad x.ra x.req.master (taken c .uncorrectable x s)).1
  refine ⟨_, po, congrArg _ (hbmAct_read hread hbad (returns_hbmNote hway ..)), ?_, ?_, ?_, hpo, ?_⟩
  · exact hnote.mem.trans (by rw [hm])
  · exact hnote.hbmQ.trans (by rw [hm])
  · exact hnote.answer_answers.trans (by rw [hm])
  · exact hcount.trans (by rw [hm]; rfl)

/-- A write that is performed. -/
theorem hbmServe_write (he : e ≠ .uncorrectable) (hraw : x.fwd = false) (hwrite : x.req.write = true) :
    ∃ t, exec (.hbmServe c e) s = .next t ∧
      (∀ y, memByte t y = if hbmRBase + x.ra ≤ y ∧ x.req.en.getD (y - (hbmRBase + x.ra)) false = true
        then x.req.data.getD (y - (hbmRBase + x.ra)) 0 else memByte s y) ∧
      t.hbmQ = s.hbmQ.erase x ∧ t.answers = s.answers ++ [⟨x.req.node, 0, [], 0⟩] := by
  rw [exec_hbmServe hnext hopen hheld]
  have hupset : upsetOf e ≠ 2 := by cases e <;> simp_all [upsetOf]
  obtain ⟨u, hdone, hmem, hq, hans⟩ := hbmWrite_done (m := x.req.master) (data := x.req.data) hupset
    (tget_taken (c := c) (e := e) hclean)
  obtain ⟨m, hm⟩ := taken_frame c e x s
  obtain ⟨bytes, hstore⟩ := hbmStore_frame x.ra x.req.en x.req.data u
  refine ⟨_, congrArg _ (hbmAct_write hwrite hdone (.inl hraw) (.inl hraw)), fun y => ?_, ?_, ?_⟩
  · refine (memByte_hbmStore ..).trans ?_
    rw [memByte_congr (hmem.trans (by rw [hm]) : u.mem = s.mem)]
  · rw [hstore]
    exact hq.trans (by rw [hm])
  · rw [hstore]
    exact congrArg (· ++ _) (hans.trans (by rw [hm]))

/-- A partial write on an uncorrectable burst. -/
theorem hbmServe_write_bad (hway : Returns s x) (hwrite : x.req.write = true)
    (hpart : ∃ b ∈ burstsOf x.ra x.req.en, fillsBurst x.ra x.req.en b = false) :
    ∃ t, exec (.hbmServe c .uncorrectable) s = .next t ∧ t.mem = s.mem ∧ t.hbmQ = s.hbmQ.erase x ∧
      t.answers = s.answers ++ [⟨x.req.node, 4, [], 0⟩] := by
  rw [exec_hbmServe hnext hopen hheld]
  have hlost := hbmWrite_lost (m := x.req.master) (data := x.req.data)
    (tget_taken (c := c) (e := .uncorrectable) hclean) hpart
  obtain ⟨m, hm⟩ := taken_frame c .uncorrectable x s
  have hnote := hbmNote_reports x.ra x.req.master 2 (taken c .uncorrectable x s)
  refine ⟨_, congrArg _ (hbmAct_write hwrite hlost (returns_hbmNote hway ..) (.inr (by decide))), ?_, ?_, ?_⟩
  · exact hnote.mem.trans (by rw [hm])
  · exact hnote.hbmQ.trans (by rw [hm])
  · exact hnote.answer_answers.trans (by rw [hm])

end

/-- A translated request none of whose page waits. -/
theorem translatedRequest_serves {r : LineReq} {node : Nat} {s : State}
    (hloc : locate (lineAddr r) = some (.xlat, node)) (hopen : domOpen s (nodeDom node) = true)
    (hpass : Passes s node r)
    (hwait : ∀ w ∈ s.xlatWait, (w.addr - hbmVBase) / 65536 ≠ (lineAddr r - hbmVBase) / 65536) :
    (∀ (l : ChartLine) (st : Nat), tlook s.chartCache ((lineAddr r - hbmVBase) / 65536) = some l →
      entryStatus s l.entry r.master.toNat r.write = some st → ∃ t, exec (.translatedRequest r) s = .next t ∧
        t.hbmQ = s.hbmQ ∧ t.mem = s.mem ∧ t.answers = s.answers ++ [⟨r.node.toNat, st, [], 0⟩]) ∧
    (∀ l : ChartLine, tlook s.chartCache ((lineAddr r - hbmVBase) / 65536) = some l →
      entryStatus s l.entry r.master.toNat r.write = none → Forwards s (lineAddr r) (entryRaw s l.entry (lineAddr r)) →
      exec (.translatedRequest r) s =
        .next { s with hbmQ := s.hbmQ ++ [⟨entryRaw s l.entry (lineAddr r), true, memReq r⟩] }) := by
  refine ⟨fun l st hcached hst => ?_, fun l hcached hst hway => ?_⟩
  · obtain ⟨u, hu, hrefused⟩ := translate_refused (q := memReq r) hst
    rw [exec_translatedRequest_cached hloc hopen hpass hwait hcached, hrefused]
    exact ⟨_, rfl, hu.hbmQ, hu.mem, hu.answer_answers⟩
  · rw [exec_translatedRequest_cached hloc hopen hpass hwait hcached]
    exact congrArg _ (translate_forwards (q := memReq r) hst hway)

/-- The entry of a page arrives for the only request that waits. -/
theorem chartFetchDone_serves {i : Fin 2097152} {flip : BitVec 39} {s : State} {q : MemReq} (hwait : s.xlatWait = [q])
    (hpage : (q.addr - hbmVBase) / 65536 = i.val) :
    (tget 0 s.chartErr i ^^^ flip = 0 → tlook s.chartCache i = none →
      entryStatus s (tget 0 s.chart i) q.master q.write = none →
      Forwards s q.addr (entryRaw s (tget 0 s.chart i) q.addr) →
      ∃ t, exec (.chartFetchDone i flip) s = .next t ∧ t.xlatWait = [] ∧
        tlook t.chartCache i = some ⟨tget 0 s.chart i, []⟩ ∧
        t.hbmQ = s.hbmQ ++ [⟨entryRaw s (tget 0 s.chart i) q.addr, true, q⟩] ∧ t.mem = s.mem ∧ t.answers = s.answers) ∧
    (popc 6 (tget 0 s.chartErr i ^^^ flip).toNat = 2 → ∃ t, exec (.chartFetchDone i flip) s = .next t ∧
      t.xlatWait = [] ∧ t.hbmQ = s.hbmQ ∧ t.mem = s.mem ∧ t.answers = s.answers ++ [⟨q.node, 4, [], 0⟩] ∧
      getF t fCHART_ECC_UE_CNT = min (getF s fCHART_ECC_UE_CNT + 1) (2 ^ fCHART_ECC_UE_CNT.w - 1)) := by
  constructor
  · intro herr hnew hst hway
    have hfetch := chartFetch_clean ((fetched_chartErr i flip s).trans herr)
    obtain ⟨hgo, hwaits, hmem, hans, hin⟩ := translate_forwards_fetched (i := i) (flip := flip) hst hway hnew
    rw [exec_chartFetchDone_cached hwait hpage (by decide : 0 ≠ 2) hfetch]
    exact ⟨_, congrArg _ hgo, hwaits, hin, rfl, hmem, hans⟩
  · intro htwo
    rw [← fetched_chartErr] at htwo
    obtain ⟨v, u, hfetch, hu, hcount⟩ := chartFetch_bad htwo
    have hwaits : u.xlatWait = [] := by rw [hu]; rfl
    rw [exec_chartFetchDone_lost hwait hpage hfetch]
    exact ⟨_, rfl, hwaits, hu.hbmQ, hu.mem, hu.answer_answers, hcount⟩

/-- Settles O39: a request by its address and its Chart entry, an access by what the stack finds in its bursts. -/
theorem hbmRequestsReachTheirStack : Obligations.HbmRequestsReachTheirStack := by
  unfold Obligations.HbmRequestsReachTheirStack
  refine ⟨fun r node s hloc hopen hpass => rawRequest_serves hloc hopen hpass,
    fun r node s hloc hopen hpass => ?_, fun i flip s q hwait hpage => chartFetchDone_serves hwait hpage,
    fun c e s x hnext hopen hheld hway hclean hsome => ?_⟩
  · intro page hwait
    obtain ⟨hrefused, hsent⟩ := translatedRequest_serves hloc hopen hpass hwait
    exact ⟨hrefused, hsent, exec_translatedRequest_missed hloc hopen hpass hwait⟩
  · refine ⟨?_, ?_, fun hwrite he hraw => hbmServe_write hnext hopen hheld hclean he hraw hwrite, ?_⟩
    · rintro hread rfl
      exact hbmServe_read hnext hopen hheld hclean hway hread
    · rintro hread rfl
      exact hbmServe_read_bad hnext hopen hheld hclean hway hsome hread
    · rintro hwrite rfl hpart
      exact hbmServe_write_bad hnext hopen hheld hclean hway hwrite hpart

end Sys2Proof.Proofs
end

section
/-! SUPPORT. Invalidations at the data caches and at the home controllers, and their acknowledgements (R378, R380, R400,
R412). -/
namespace Sys2Proof.Machine
open Sys2Proof Sys2Proof.Claims

variable {s t : State}

/-! ### Lines and entries that go -/

/-- A table of which only some keys are kept. -/
theorem tlook_filter {α : Type} (p : Nat → Bool) (m : Tbl α) (k : Nat) :
    tlook (m.filter fun e => p e.1) k = if p k then tlook m k else none := by
  induction m with
  | nil => simp [tlook]
  | cons e m ih =>
    obtain ⟨j, v⟩ := e
    by_cases hj : j = k
    · subst hj
      by_cases hp : p j = true
      · simp [hp, tlook]
      · simp_all
    · by_cases hp : p j = true
      · simp [hp, tlook, hj, ih]
      · simp [hp, tlook, hj, ih]

/-- The lines of a page are gone from the data cache of every sharer. -/
theorem tlook_dropPageLines {p n line : Nat} {l : List Nat} (hn : n ∈ l) (hline : line / 1024 = p) (s : State) :
    tlook (getCore (dropPageLines p l s) n).cache line = none := by
  have hdrop (a : Nat) (u : State) : n = a ∨ tlook (getCore u n).cache line = none →
      tlook (getCore (updCore a (fun c => { c with cache := c.cache.filter fun e => e.1 / 1024 != p }) u) n).cache
        line = none := by
    intro h
    by_cases hna : n = a
    · subst hna
      rw [getCore_updCore_same]
      refine (tlook_filter (fun l => l / 1024 != p) _ line).trans (if_neg ?_)
      simp [hline]
    · rw [getCore_updCore_other _ _ hna]
      exact h.resolve_left hna
  unfold dropPageLines
  induction l generalizing s with
  | nil => cases hn
  | cons a l ih =>
    rw [List.foldl_cons]
    obtain rfl | hn := List.mem_cons.mp hn
    · exact foldl_keeps (P := fun u => tlook (getCore u n).cache line = none) _ (hdrop _ _ (.inl rfl))
        fun u h b _ => hdrop b u (.inr h)
    · exact ih hn _

/-! ### Invalidations act -/

theorem getCore_actInval (kind node what k : Nat) (s : State) :
    getCore (actInval kind node what s) k = getCore s k := rfl

/-- An invalidation of a line changes the data cache of its sequencer only. -/
theorem getCore_lineInvalidate_other {n k : Nat} (line : Nat) (h : k ≠ n) (s : State) :
    getCore (lineInvalidate n line s) k = getCore s k := by
  unfold lineInvalidate
  rw [getCore_actInval, getCore_updCore_other _ _ h]

theorem cache_lineInvalidate (n line : Nat) (s : State) : (getCore (lineInvalidate n line s) n).cache =
    if domOpen s (quadDom n) then terase (getCore s n).cache line else [] := by
  unfold lineInvalidate
  rw [getCore_actInval, getCore_updCore_same]

theorem nodeDom_homeNode (i : Nat) : nodeDom (homeNode i) = 16 + i % 4 := by
  unfold homeNode nodeDom
  rw [if_neg (by omega), if_pos (by omega)]
  omega

/-- The counter of a home controller says nothing of the domains. -/
theorem domOpen_satF_shoot (k d n : Nat) (s : State) (hk : k < 4) :
    domOpen (satF (fHBM_XLAT_SHOOT k) n s) d = domOpen s d := by
  have hstate : domState (satF (fHBM_XLAT_SHOOT k) n s) d = domState s d := by
    unfold domState
    split
    · exact getF_setF_other _ _ (fldKey_ne_of_addr (by decide : 0 < 64) (by decide : 32 < 64)
        (by simp only [fPWR_DOM_STATE, fHBM_XLAT_SHOOT]; omega))
    · rfl
  unfold domOpen
  rw [hstate]
  rfl

/-- The home controller holds the entry: it counts, and the entry goes with the lines of its page. -/
theorem entryInvalidate_held {i : Nat} {l : ChartLine} (hopen : domOpen s (16 + i % 4) = true)
    (h : tlook s.chartCache i = some l) :
    entryInvalidate (homeNode i) i s = actInval 1 (homeNode i) i (dropPageLines i l.sharers
      { satF (fHBM_XLAT_SHOOT (i % 4)) 1 s with chartCache := terase s.chartCache i }) := by
  have hopen' : domOpen (satF (fHBM_XLAT_SHOOT (i % 4)) 1 s) (16 + i % 4) = true := by
    rw [domOpen_satF_shoot _ _ _ _ (Nat.mod_lt _ (by decide)), hopen]
  unfold entryInvalidate
  rw [nodeDom_homeNode, if_neg (by simp), h]
  dsimp only
  rw [if_pos hopen']
  rfl

theorem entryInvalidate_unheld {i : Nat} (h : tlook s.chartCache i = none) :
    entryInvalidate (homeNode i) i s = actInval 1 (homeNode i) i s := by
  unfold entryInvalidate
  rw [nodeDom_homeNode, if_neg (by simp), h]

/-- The whole Chart cache of a home controller goes, and no other entry (R400). -/
theorem invalidateAll_home {d : Nat} (hlo : 64 ≤ d) (hhi : d < 96) (s : State) :
    (invalidateAll d s).mem = s.mem ∧ ∀ j, tlook (invalidateAll d s).chartCache j =
      if j % 4 = (d - 64) / 8 then none else tlook s.chartCache j := by
  have hframe : (invalidateAll d s).mem = s.mem ∧
      (invalidateAll d s).chartCache = s.chartCache.filter fun e => e.1 % 4 != (d - 64) / 8 := by
    unfold invalidateAll
    rw [if_neg (by omega), if_pos hhi]
    refine foldl_keeps (P := fun u : State => u.mem = s.mem ∧ u.chartCache = _) _ ⟨rfl, rfl⟩ fun u h e _ => ?_
    rw [dropPageLines_frame]
    exact h
  obtain ⟨hmem, hcache⟩ := hframe
  refine ⟨hmem, fun j => ?_⟩
  rw [hcache, tlook_filter fun k => k % 4 != (d - 64) / 8]
  by_cases hj : j % 4 = (d - 64) / 8
  · simp [hj]
  · simp [hj]

theorem invalidateAll_core {d : Nat} (h : d < 64) (s : State) :
    (invalidateAll d s).mem = s.mem ∧ (getCore (invalidateAll d s) d).cache = [] := by
  unfold invalidateAll
  rw [if_pos h, getCore_updCore_same]
  exact ⟨rfl, rfl⟩

/-! ### Acknowledgements -/

theorem chartDone_completes (s : State) : Completes s (chartDone s) :=
  foldl_keeps (P := Completes s) _ (.refl s) fun _ h _ _ => h.trans (completeJob_completes ..)

/-- What an acknowledgement may change of the jobs leaves what waits for it. -/
theorem Completes.invals (h : Completes s t) : t.invals = s.invals := by rw [h]; rfl
theorem Completes.invWait (h : Completes s t) : t.invWait = s.invWait := by rw [h]; rfl
theorem Completes.answers (h : Completes s t) : t.answers = s.answers := by rw [h]; rfl

/-- An answer whose line has no invalidation outstanding leaves (R380). -/
theorem releaseAnswers_releases {w : Nat × Answer} (hw : w ∈ s.invWait)
    (hnone : ∀ x ∈ s.invals, ¬ (x.kind = 0 ∧ x.what = w.1)) :
    w.2 ∈ (releaseAnswers s).answers ∧ w ∉ (releaseAnswers s).invWait := by
  have hfree : s.invals.any (fun v => v.kind == 0 && v.what == w.1) = false :=
    List.any_eq_false.mpr fun x hx h => hnone x hx (by simpa using h)
  constructor
  · refine List.mem_append_right _ (List.mem_map_of_mem (List.mem_filter.mpr ⟨hw, ?_⟩))
    rw [hfree]
    rfl
  · intro hin
    have hbusy := (List.mem_filter.mp hin).2
    rw [hfree] at hbusy
    cases hbusy

theorem acknowledge_retires {d : Nat} {v : Inval}
    (h : s.invals.find? (fun v => v.node == d && v.acted && !(v.kind == 1 && entryBusy s v.what)) = some v) :
    acknowledge d s = chartDone (releaseAnswers { s with invals := s.invals.erase v }) := by
  unfold acknowledge
  rw [h]

end Sys2Proof.Machine
end

section
/-! SUPPORT. Hot pseudo-channels, and the writes of seeds (R371, R373). -/
namespace Sys2Proof.Machine
open Sys2Proof Sys2Proof.Claims

variable {s t u : State} {total : Nat} {obs : List HotObs} {c : Nat}

/-! ### One pseudo-channel -/

/-- Pseudo-channel c was hot in a window: its queue full, and its share of the accesses exceeded (R373). -/
def hotSeen (total : Nat) (obs : List HotObs) (c : Nat) (s : State) : Bool :=
  match obs.find? (fun o => o.c.val == c) with
  | some o => o.full && decide (getF s fHOT_CFG_SHARE * total < 64 * o.served)
  | none => false

/-- What the part knows of pseudo-channel c, and the limits, are as they were. -/
structure SameHot (c : Nat) (s t : State) : Prop where
  run : tget 0 t.hotRun c = tget 0 s.hotRun c
  windows : getF t (fHOT_CNT_WINDOWS c) = getF s (fHOT_CNT_WINDOWS c)
  hot : getF t (fHOT_CNT_HOT c) = getF s (fHOT_CNT_HOT c)
  share : getF t fHOT_CFG_SHARE = getF s fHOT_CFG_SHARE
  limit : getF t fHOT_CFG_RUN = getF s fHOT_CFG_RUN

theorem SameHot.refl (c : Nat) (s : State) : SameHot c s s := ⟨rfl, rfl, rfl, rfl, rfl⟩
theorem SameHot.trans (h : SameHot c s t) (k : SameHot c t u) : SameHot c s u :=
  ⟨k.run.trans h.run, k.windows.trans h.windows, k.hot.trans h.hot, k.share.trans h.share, k.limit.trans h.limit⟩

/-- What a window makes of pseudo-channel c (R373). -/
structure HotEnds (total : Nat) (obs : List HotObs) (c : Nat) (s t : State) : Prop where
  cold : hotSeen total obs c s = false → tget 0 t.hotRun c = 0 ∧ getF t (fHOT_CNT_HOT c) = 0 ∧
    getF t (fHOT_CNT_WINDOWS c) = getF s (fHOT_CNT_WINDOWS c)
  hot : hotSeen total obs c s = true → tget 0 t.hotRun c = tget 0 s.hotRun c + 1 ∧
    getF t (fHOT_CNT_WINDOWS c) = min (getF s (fHOT_CNT_WINDOWS c) + 1) (2 ^ 32 - 1) ∧
    getF t (fHOT_CNT_HOT c) =
      if getF s fHOT_CFG_RUN ≠ 0 ∧ getF s fHOT_CFG_RUN ≤ tget 0 s.hotRun c + 1 then 1 else getF s (fHOT_CNT_HOT c)

theorem SameHot.hotSeen_eq (h : SameHot c s t) (total : Nat) (obs : List HotObs) :
    hotSeen total obs c t = hotSeen total obs c s := by
  unfold hotSeen
  rw [h.share]

theorem SameHot.then_ends (h : SameHot c s t) (k : HotEnds total obs c t u) : HotEnds total obs c s u := by
  obtain ⟨hcold, hhot⟩ := k
  rw [h.hotSeen_eq, h.windows] at hcold
  rw [h.hotSeen_eq, h.windows, h.run, h.hot, h.limit] at hhot
  exact ⟨hcold, hhot⟩

theorem HotEnds.then_same (h : HotEnds total obs c s t) (k : SameHot c t u) : HotEnds total obs c s u := by
  obtain ⟨hcold, hhot⟩ := h
  rw [← k.windows, ← k.run, ← k.hot] at hcold hhot
  exact ⟨hcold, hhot⟩

theorem unlogged_hotWindows (hc : c < 128) : Unlogged (fHOT_CNT_WINDOWS c) :=
  ⟨(by decide : 0 < 64), .inr (by simp only [fHOT_CNT_WINDOWS]; omega), .inl (by simp only [fHOT_CNT_WINDOWS]; omega),
    by simp only [fHOT_CNT_WINDOWS]; omega⟩
theorem unlogged_hotHot (hc : c < 128) : Unlogged (fHOT_CNT_HOT c) :=
  ⟨(by decide : 32 < 64), .inr (by simp only [fHOT_CNT_HOT]; omega), .inl (by simp only [fHOT_CNT_HOT]; omega),
    by simp only [fHOT_CNT_HOT]; omega⟩
theorem unlogged_hotShare : Unlogged fHOT_CFG_SHARE := ⟨by decide, by decide, by decide, by decide⟩
theorem unlogged_hotLimit : Unlogged fHOT_CFG_RUN := ⟨by decide, by decide, by decide, by decide⟩

/-- The entry of the Logbook about a hot pseudo-channel. -/
def hotLog (c : Nat) (s : State) : State :=
  devLogM 17 0 0 0xFF (rawNode (c * 2 ^ 30)) c (getF s (fHOT_CNT_WINDOWS c)) s

theorem Unlogged.getF_hotLog {g : Fld} (hg : Unlogged g) (c : Nat) (s : State) : getF (hotLog c s) g = getF s g :=
  hg.getF_devLogM (le_rawNode _) ..

/-- A window in which c was hot counts and lengthens its run. -/
def hotCounted (c : Nat) (s : State) : State :=
  satF (fHOT_CNT_WINDOWS c) 1 { s with hotRun := tset 0 s.hotRun c (tget 0 s.hotRun c + 1) }

theorem hotChannel_cold (h : hotSeen total obs c s = false) :
    hotChannel total obs c s = setF (fHOT_CNT_HOT c) 0 { s with hotRun := tset 0 s.hotRun c 0 } :=
  if_neg fun hseen => Bool.false_ne_true (h.symm.trans hseen)

theorem hotChannel_hot (h : hotSeen total obs c s = true) : hotChannel total obs c s =
    if getF (hotCounted c s) fHOT_CFG_RUN ≠ 0 ∧ getF (hotCounted c s) fHOT_CFG_RUN ≤ tget 0 s.hotRun c + 1 ∧
      ¬ bitF (hotCounted c s) (fHOT_CNT_HOT c) then setF (fHOT_CNT_HOT c) 1 (hotLog c (hotCounted c s))
    else hotCounted c s :=
  if_pos h

/-- The other fields of the registers after a count. -/
theorem getF_hotCounted {g : Fld} (h : fldKey g ≠ fldKey (fHOT_CNT_WINDOWS c)) (s : State) :
    getF (hotCounted c s) g = getF s g := getF_setF_other _ _ h

theorem hotLimit_ne (c : Nat) : fldKey fHOT_CFG_RUN ≠ fldKey (fHOT_CNT_WINDOWS c) :=
  fldKey_ne_of_addr (by decide) (by decide : 0 < 64) (by simp only [fHOT_CFG_RUN, fHOT_CNT_WINDOWS]; omega)

theorem hotHot_ne_windows (c : Nat) : fldKey (fHOT_CNT_HOT c) ≠ fldKey (fHOT_CNT_WINDOWS c) := by
  simp only [fldKey, fHOT_CNT_HOT, fHOT_CNT_WINDOWS]
  omega

/-- A field that the end of a window at c leaves. -/
theorem getF_hotChannel_other {g : Fld} (hg : Unlogged g) (hwindows : fldKey g ≠ fldKey (fHOT_CNT_WINDOWS c))
    (hhot : fldKey g ≠ fldKey (fHOT_CNT_HOT c)) (s : State) : getF (hotChannel total obs c s) g = getF s g := by
  cases hseen : hotSeen total obs c s with
  | false =>
    rw [hotChannel_cold hseen, getF_setF_other _ _ hhot]
    rfl
  | true =>
    rw [hotChannel_hot hseen]
    split
    · rw [getF_setF_other _ _ hhot, hg.getF_hotLog, getF_hotCounted hwindows]
    · rw [getF_hotCounted hwindows]

theorem Reports.hotRun (h : Reports s t) : t.hotRun = s.hotRun := by rw [h]; rfl
theorem hotLog_reports (c : Nat) (s : State) : Reports s (hotLog c s) := devLogM_reports ..
theorem hotRun_hotCounted (c : Nat) (s : State) :
    (hotCounted c s).hotRun = tset 0 s.hotRun c (tget 0 s.hotRun c + 1) := rfl
theorem mem_hotCounted (c : Nat) (s : State) : (hotCounted c s).mem = s.mem := rfl

theorem hotRun_hotChannel (total : Nat) (obs : List HotObs) (c : Nat) (s : State) : (hotChannel total obs c s).hotRun =
    tset 0 s.hotRun c (if hotSeen total obs c s then tget 0 s.hotRun c + 1 else 0) := by
  cases hseen : hotSeen total obs c s with
  | false =>
    rw [hotChannel_cold hseen, setF_hotRun]
    rfl
  | true =>
    rw [hotChannel_hot hseen, if_pos rfl, ← hotRun_hotCounted]
    split
    · rw [setF_hotRun, (hotLog_reports ..).hotRun]
    · rfl

theorem mem_hotChannel (total : Nat) (obs : List HotObs) (c : Nat) (s : State) :
    (hotChannel total obs c s).mem = s.mem := by
  cases hseen : hotSeen total obs c s with
  | false => rw [hotChannel_cold hseen, setF_mem]
  | true =>
    rw [hotChannel_hot hseen, ← mem_hotCounted c s]
    split
    · rw [setF_mem, (hotLog_reports ..).mem]
    · rfl

/-- A window at one pseudo-channel says nothing of another. -/
theorem hotChannel_same {k : Nat} (hc : c < 128) (h : c ≠ k) (s : State) :
    SameHot c s (hotChannel total obs k s) := by
  have hother {g : Fld} (hg : Unlogged g) (haddr : g.addr ≠ 0x4A800 + 0x8 * k) :
      getF (hotChannel total obs k s) g = getF s g :=
    getF_hotChannel_other hg (fldKey_ne_of_addr hg.width (by decide : 0 < 64) haddr)
      (fldKey_ne_of_addr hg.width (by decide : 32 < 64) haddr) s
  refine ⟨?_, hother (unlogged_hotWindows hc) ?_, hother (unlogged_hotHot hc) ?_, hother unlogged_hotShare ?_,
    hother unlogged_hotLimit ?_⟩
  · rw [hotRun_hotChannel, tget_tset_other _ _ _ h]
  · simp only [fHOT_CNT_WINDOWS]
    omega
  · simp only [fHOT_CNT_HOT]
    omega
  · simp only [fHOT_CFG_SHARE]
    omega
  · simp only [fHOT_CFG_RUN]
    omega

/-- A window at its own pseudo-channel. -/
theorem hotChannel_ends (hc : c < 128) (s : State) : HotEnds total obs c s (hotChannel total obs c s) := by
  constructor
  · intro hseen
    rw [hotRun_hotChannel, tget_tset_same, hseen, hotChannel_cold hseen, getF_setF_same,
      getF_setF_other _ _ (hotHot_ne_windows c).symm]
    exact ⟨rfl, rfl, rfl⟩
  · intro hseen
    have hwindows : getF (hotCounted c s) (fHOT_CNT_WINDOWS c) =
        min (getF s (fHOT_CNT_WINDOWS c) + 1) (2 ^ 32 - 1) := getF_satF_same ..
    have hhot : getF (hotCounted c s) (fHOT_CNT_HOT c) = getF s (fHOT_CNT_HOT c) :=
      getF_hotCounted (hotHot_ne_windows c) s
    rw [hotRun_hotChannel, tget_tset_same, hseen, if_pos rfl, hotChannel_hot hseen, getF_hotCounted (hotLimit_ne c)]
    split
    · next hnew =>
      obtain ⟨hset, hreached, -⟩ := hnew
      rw [getF_setF_other _ _ (hotHot_ne_windows c).symm, (unlogged_hotWindows hc).getF_hotLog, hwindows,
        getF_setF_same, if_pos ⟨hset, hreached⟩]
      exact ⟨rfl, rfl, rfl⟩
    · next hold =>
      refine ⟨rfl, hwindows, ?_⟩
      rw [hhot]
      split
      · next hreached =>
        have hbit : bitF (hotCounted c s) (fHOT_CNT_HOT c) = true :=
          Decidable.byContradiction fun hbit => hold ⟨hreached.1, hreached.2, hbit⟩
        rw [← hhot, (bitF_eq ..).mp hbit]
      · rfl

/-! ### All of them -/

/-- HOT_WINDOW at every pseudo-channel in turn: each has its own window. -/
theorem foldl_hotChannel_ends (hc : c < 128) (s : State) :
    HotEnds total obs c s ((List.range 128).foldl (fun s c => hotChannel total obs c s) s) := by
  have hsame {l : List Nat} (hl : c ∉ l) (u : State) :
      SameHot c u (l.foldl (fun s c => hotChannel total obs c s) u) :=
    foldl_keeps (P := SameHot c u) _ (.refl c u) fun t h k hk =>
      h.trans (hotChannel_same hc (fun e => hl (e ▸ hk)) t)
  obtain ⟨before, after, hsplit⟩ := List.append_of_mem (List.mem_range.mpr hc)
  have hnodup : (before ++ c :: after).Nodup := hsplit ▸ List.nodup_range
  obtain ⟨-, hafter, hapart⟩ := List.nodup_append.mp hnodup
  rw [hsplit, List.foldl_append, List.foldl_cons]
  exact ((hsame (fun h => hapart c h c List.mem_cons_self rfl) s).then_ends (hotChannel_ends hc _)).then_same
    (hsame (List.nodup_cons.mp hafter).1 _)

theorem mem_foldl_hotChannel (s : State) :
    ((List.range 128).foldl (fun s c => hotChannel total obs c s) s).mem = s.mem :=
  foldl_keeps (P := fun t : State => t.mem = s.mem) _ rfl fun t h k _ => (mem_hotChannel total obs k t).trans h

/-! ### Seeds -/

theorem rowHBM_SEED_mem : rowHBM_SEED ∈ regRows := by decide +kernel

/-- While an entry of its owner is valid, a seed may not change (R371). -/
theorem writeHbmSeed_rejected {p v : Nat} (hcnt : chartCnt s p ≠ 0) (hnew : v % 4 ≠ getF s (fHBM_SEED_SEED p)) :
    writeHbmSeed p v allBits s = setF (fHBM_SEED_REJ p) 1 s := by
  have hwritten := writtenFld_rw (f := fHBM_SEED_SEED p) rfl (by decide : 0 + 2 ≤ 64) (getF_lt s _) v
  have hbits : bits v (fHBM_SEED_SEED p).lo (fHBM_SEED_SEED p).w = v % 4 := by
    show v / 2 ^ 0 % 2 ^ 2 = _
    omega
  exact if_pos ⟨fun hsame => hnew (((hwritten.trans hbits).symm).trans hsame), hcnt⟩

/-- A seed whose owner has no valid entry takes the value. -/
theorem writeHbmSeed_stores {p v : Nat} (hcnt : chartCnt s p = 0) :
    Reports s (writeHbmSeed p v allBits s) ∧ getF (writeHbmSeed p v allBits s) (fHBM_SEED_SEED p) = v % 4 := by
  have hwritten := writtenFld_rw (f := fHBM_SEED_SEED p) rfl (by decide : 0 + 2 ≤ 64) (getF_lt s _) v
  have hbits : bits v (fHBM_SEED_SEED p).lo (fHBM_SEED_SEED p).w = v % 4 := by
    show v / 2 ^ 0 % 2 ^ 2 = _
    omega
  have hstored : writeHbmSeed p v allBits s = writeRow' rowHBM_SEED p 0 v allBits s := if_neg fun h => h.2 hcnt
  have hfield : fHBM_SEED_SEED p ∈ rowFlds rowHBM_SEED p 0 := List.mem_cons_self
  rw [hstored, getF_writeRow' rowHBM_SEED_mem hfield]
  exact ⟨writeRow_reports .., hwritten.trans hbits⟩

end Sys2Proof.Machine
end

section
/-! Invalidations, their acknowledgements, hot windows, seeds and temperatures. -/
namespace Sys2Proof.Proofs
open Sys2Proof Sys2Proof.Machine Sys2Proof.Claims

/-- A line leaves one data cache, whose domain is open. -/
theorem lineInvalidate_open (n : Fin 64) (line : BitVec 31) (s : State) (hopen : domOpen s (quadDom n) = true) :
    ∃ t, exec (.lineInvalidate n line) s = .next t ∧ tlook (getCore t n).cache line.toNat = none ∧
      (∀ l, l ≠ line.toNat → tlook (getCore t n).cache l = tlook (getCore s n).cache l) ∧
      (∀ k, k ≠ n.val → getCore t k = getCore s k) ∧ t.mem = s.mem ∧ t.chartCache = s.chartCache ∧
      t.answers = s.answers := by
  have hcache := cache_lineInvalidate n line.toNat s
  rw [hopen, if_pos rfl] at hcache
  refine ⟨lineInvalidate n line.toNat s, rfl, ?_, fun l hl => ?_,
    fun k hk => getCore_lineInvalidate_other _ hk s, rfl, rfl, rfl⟩
  · rw [hcache, tlook_terase_same]
  · rw [hcache, tlook_terase_other _ hl]

/-- The whole data cache goes where the domain is dark. -/
theorem lineInvalidate_dark (n : Fin 64) (line : BitVec 31) (s : State) (hdark : domOpen s (quadDom n) = false) :
    ∃ t, exec (.lineInvalidate n line) s = .next t ∧ (getCore t n).cache = [] ∧
      (∀ k, k ≠ n.val → getCore t k = getCore s k) ∧ t.mem = s.mem ∧ t.chartCache = s.chartCache := by
  have hcache := cache_lineInvalidate n line.toNat s
  rw [hdark, if_neg Bool.false_ne_true] at hcache
  exact ⟨lineInvalidate n line.toNat s, rfl, hcache, fun k hk => getCore_lineInvalidate_other _ hk s, rfl, rfl⟩

/-- An entry leaves the cache of its home controller. -/
theorem entryInvalidate_serves (i : Fin 2097152) (s : State) (hopen : domOpen s (16 + i.val % 4) = true) :
    ∃ t, exec (.entryInvalidate i) s = .next t ∧ tlook t.chartCache i = none ∧
      (∀ j, j ≠ i.val → tlook t.chartCache j = tlook s.chartCache j) ∧ t.mem = s.mem ∧
      ∀ l, tlook s.chartCache i = some l →
        getF t (fHBM_XLAT_SHOOT (i.val % 4)) = min (getF s (fHBM_XLAT_SHOOT (i.val % 4)) + 1) (2 ^ 32 - 1) ∧
        ∀ n ∈ l.sharers, ∀ line, line / 1024 = i.val → tlook (getCore t n).cache line = none := by
  refine ⟨entryInvalidate (homeNode i) i s, rfl, ?_⟩
  cases hl : tlook s.chartCache i.val with
  | none =>
    rw [entryInvalidate_unheld hl]
    exact ⟨hl, fun _ _ => rfl, rfl, fun _ h => nomatch h⟩
  | some l =>
    rw [entryInvalidate_held hopen hl]
    have hlines (n : Nat) (hn : n ∈ l.sharers) (line : Nat) (hline : line / 1024 = i.val) :=
      tlook_dropPageLines hn hline
        { satF (fHBM_XLAT_SHOOT (i.val % 4)) 1 s with chartCache := terase s.chartCache i.val }
    rw [dropPageLines_frame] at hlines ⊢
    refine ⟨tlook_terase_same .., fun j hj => tlook_terase_other _ hj, rfl, ?_⟩
    rintro l' ⟨⟩
    exact ⟨getF_satF_same .., hlines⟩

/-- A whole cache goes. -/
theorem invalidateAll_serves (d : BitVec 8) (s : State) : ∃ t, exec (.invalidateAll d) s = .next t ∧ t.mem = s.mem ∧
    (d.toNat < 64 → (getCore t d.toNat).cache = []) ∧
    (64 ≤ d.toNat → d.toNat < 96 → ∀ j, tlook t.chartCache j =
      if j % 4 = (d.toNat - 64) / 8 then none else tlook s.chartCache j) := by
  refine ⟨invalidateAll d.toNat s, rfl, ?_, fun h => (invalidateAll_core h s).2,
    fun hlo hhi => (invalidateAll_home hlo hhi s).2⟩
  by_cases hcore : d.toNat < 64
  · exact (invalidateAll_core hcore s).1
  by_cases hhome : d.toNat < 96
  · exact (invalidateAll_home (by omega) hhome s).1
  · unfold invalidateAll
    rw [if_neg hcore, if_neg hhome]

/-- An acknowledgement retires its invalidation and releases the answers that wait for no other. -/
theorem acknowledge_serves (d : BitVec 8) (s : State) (v : Inval)
    (h : s.invals.find? (fun v => v.node == d.toNat && v.acted && !(v.kind == 1 && entryBusy s v.what)) = some v) :
    ∃ t, exec (.acknowledge d) s = .next t ∧ t.invals = s.invals.erase v ∧ t.mem = s.mem ∧
      ∀ w ∈ s.invWait, (∀ x ∈ s.invals.erase v, ¬ (x.kind = 0 ∧ x.what = w.1)) → w.2 ∈ t.answers ∧ w ∉ t.invWait := by
  have hdone := chartDone_completes (releaseAnswers { s with invals := s.invals.erase v })
  refine ⟨acknowledge d.toNat s, rfl, ?_⟩
  rw [acknowledge_retires h, hdone.invals, hdone.mem, hdone.answers, hdone.invWait]
  exact ⟨rfl, rfl, fun w hw hnone =>
    releaseAnswers_releases (s := { s with invals := s.invals.erase v }) hw hnone⟩

/-- The end of a window at every pseudo-channel. -/
theorem hotWindow_serves (obs : List HotObs) (s : State) : ∃ t, exec (.hotWindow obs) s = .next t ∧ t.mem = s.mem ∧
    ∀ c : Fin 128, HotEnds (obs.map (·.served)).sum obs c s t :=
  ⟨_, rfl, mem_foldl_hotChannel s, fun c => foldl_hotChannel_ends c.isLt s⟩

/-- A channel is found by its number. -/
theorem find_channel_eq (obs : List HotObs) (c : Fin 128) :
    obs.find? (fun o => o.c.val == c.val) = obs.find? (fun o => o.c == c) := by
  have hkey : (fun o : HotObs => o.c.val == c.val) = fun o => o.c == c :=
    funext fun o => by rw [Bool.eq_iff_iff, beq_iff_eq, beq_iff_eq, Fin.ext_iff]
  rw [hkey]

/-- A seed takes its value, or the write is rejected. -/
theorem hbmSeedWrite_serves (m : BitVec 8) (p : Fin 64) (v : Word) (s : State)
    (hpath : HostPath s m (0x4A000 + 8 * p.val)) :
    (chartCnt s p = 0 → ∃ u, exec (.hbmSeedWrite m p v) s = .next (hostBack m (0x4A000 + 8 * p.val) u) ∧
      getF u (fHBM_SEED_SEED p) = v.toNat % 4 ∧ u.mem = s.mem ∧ u.chart = s.chart) ∧
    (chartCnt s p ≠ 0 → v.toNat % 4 ≠ getF s (fHBM_SEED_SEED p) → exec (.hbmSeedWrite m p v) s =
      .next (hostBack m (0x4A000 + 8 * p.val) (setF (fHBM_SEED_REJ p) 1 s))) := by
  have hacts : exec (.hbmSeedWrite m p v) s =
      .next (hostBack m (0x4A000 + 8 * p.val) (writeHbmSeed p v.toNat allBits s)) := hostCmd_path hpath _
  rw [hacts]
  refine ⟨fun hcnt => ?_, fun hcnt hnew => by rw [writeHbmSeed_rejected hcnt hnew]⟩
  obtain ⟨hreports, hseed⟩ := writeHbmSeed_stores (v := v.toNat) hcnt
  exact ⟨_, rfl, hseed, hreports.mem, by rw [hreports]; rfl⟩

/-- Settles O40: each command by the cache, counter or register that it changes. -/
theorem invalidationsAndWindows : Obligations.InvalidationsAndWindows := by
  unfold Obligations.InvalidationsAndWindows
  refine ⟨lineInvalidate_open, lineInvalidate_dark, entryInvalidate_serves, invalidateAll_serves, acknowledge_serves,
    fun obs s => ?_, hbmSeedWrite_serves, fun k x s hready => if_pos (decide_eq_true hready)⟩
  obtain ⟨t, hexec, hmem, hends⟩ := hotWindow_serves obs s
  refine ⟨t, hexec, hmem, fun c => ?_⟩
  obtain ⟨hcold, hhot⟩ := hends c
  unfold hotSeen at hcold hhot
  rw [find_channel_eq] at hcold hhot
  exact ⟨hcold, hhot⟩

end Sys2Proof.Proofs
end
